-- ==== Sys2Proof/Word.lean ====
section
/-! DEFINITION. The word types of the YH-6400: 32-bit register words (R27), 64-bit link blocks, memory
words and ring half-entries, bytes of memory. -/

namespace Sys2Proof

abbrev Byte := BitVec 8
abbrev Word := BitVec 32
abbrev Dword := BitVec 64

end Sys2Proof
end

