-- ==== Sys2Proof/Syntax.lean ====
section
/-! DEFINITION. The commands of the YH-6400 block: one constructor per row of spec/opcode_table.json, with the
operands that the spec's text gives the step or that it takes from outside the device. -/

namespace Sys2Proof

/-- Privilege level of a bus access (R20). -/
inductive Priv where
  | machine | supervisor | user
deriving DecidableEq, Repr

/-- The initiator of a register access (R54): host cores 0 to 3, or 4 for the debug port, with its privilege. -/
structure Who where
  id : Fin 5
  priv : Priv
deriving DecidableEq, Repr

/-- A command. -/
inductive Instr where

  /-- MAIN_RAIL_FAILURE (R429). VFAIL_N asserts: the safety channels withdraw every permit, Annulus closes
  its window, and Origin runs its final burst from the cell as the device enters DARK. -/
  | mainRailFailure (part : Option (Fin 64))
  /-- BURST_ENERGY_LOST (R431). The cell switch opens, or VKEEP falls below 2.7 V, during a burst: the word
  in progress completes from the hold-up and the burst stops. -/
  | burstEnergyLost (words : Nat)
  /-- POWER_UP (R448). VFAIL_N deasserts and RST_N is high: REF starts, SYS and LINK lock, the straps are
  sampled and main reset is released into WAKE. -/
  | powerUp (prof : Fin 16) (bootsel : Fin 4) (xtal : Bool)
  /-- PIN_RESET (R445). RST_N has been low for at least 1 µs and requests a main reset. -/
  | pinReset
  /-- SWRST (R446). A write of 1 to SYS_RST_CTL.SWRST with the key open requests a main reset. -/
  | swrst (who : Who)
  /-- JTAG_SYSTEM_RESET (R445). The system-reset instruction of the test port requests a main reset. -/
  | jtagSystemReset
  /-- MAIN_RESET_RELEASE (R446). Main reset is released once the burst has ended, 10 µs have passed and SYS
  and LINK are locked; registers and straps are reloaded. -/
  | mainResetRelease (prof : Fin 16) (bootsel : Fin 4) (xtal : Bool)
  /-- ORIGIN_POWER_ON (R416). VKEEP rises through 1.6 V: every ORIGIN field takes its initial value, with
  PGOOD 0 and CUT 1. -/
  | originPowerOn
  /-- SEAL_CHANGE (R37). SEAL_N has been stable at a new level for 10 ms: LOCK_STAT.SEALED changes, and
  tighten-only and sealed locks follow it. -/
  | sealChange (level : Bool)
  /-- TIME_PLL_LOCK (R440). The TIME PLL locks after the release of main reset: Gnomon's counter runs and
  the first tick starts. -/
  | timePllLock
  /-- TICK_START (R58). A tick boundary on the Gnomon grid: strobe to every block, setpoint swap, queued
  coefficient writes, ADC_SEQ read, TICK marks, and judgement of mode and profile changes. -/
  | tickStart
  /-- SELFTEST_TIMEOUT (R74). 100 ms pass after the release of main reset without a WAKE self-test pass, so
  the self-test fails. -/
  | selftestTimeout
  /-- AUTO_START (R81). Under a ROM profile with AUTO_START, the conditions have held for the 300 s
  enter-service delay and the device requests FOLLOW or FORM. -/
  | autoStart
  /-- INPUT_FREEZE (R59). At the end of Sense, the Vertex input stage, Locus and Slope inputs freeze, and
  later samples are held for the next tick. -/
  | inputFreeze
  /-- COMPUTE_START (R256). At the start of Compute, the tick program starts at CE_ENTRY while RUN is 1. -/
  | computeStart
  /-- NOP (R251). Vertex instruction that does nothing. -/
  | vNop (w : Dword)
  /-- END (R258). Vertex instruction that ends the tick program and commits output and prediction slots. -/
  | vEnd (w : Dword)
  /-- LD (R251). Vertex instruction that loads a stage from data memory. -/
  | vLd (w : Dword)
  /-- LDC (R251). Vertex instruction that loads a stage from coefficient memory. -/
  | vLdc (w : Dword)
  /-- ST (R251). Vertex instruction that stores a stage to data memory as element words. -/
  | vSt (w : Dword)
  /-- STO (R248). Vertex instruction that converts a stage to duties in the output slots. -/
  | vSto (w : Dword)
  /-- LDA (R251). Vertex instruction that loads an address register from a data word. -/
  | vLda (w : Dword)
  /-- SETA (R251). Vertex instruction that sets an address register to ADDR. -/
  | vSeta (w : Dword)
  /-- ADD (R245). Vertex instruction that adds two stages and packs the exact result. -/
  | vAdd (w : Dword)
  /-- SUB (R245). Vertex instruction that subtracts two stages and packs the exact result. -/
  | vSub (w : Dword)
  /-- MUL (R245). Vertex instruction that multiplies two stages element by element. -/
  | vMul (w : Dword)
  /-- MULS (R251). Vertex instruction that multiplies a stage by one coefficient scalar. -/
  | vMuls (w : Dword)
  /-- MAX (R251). Vertex instruction that forms the element-wise maximum. -/
  | vMax (w : Dword)
  /-- MIN (R251). Vertex instruction that forms the element-wise minimum. -/
  | vMin (w : Dword)
  /-- NEG (R251). Vertex instruction that negates a stage. -/
  | vNeg (w : Dword)
  /-- ABS (R251). Vertex instruction that takes the magnitude of a stage. -/
  | vAbs (w : Dword)
  /-- SHL (R251). Vertex instruction that scales a stage by 2^EXP. -/
  | vShl (w : Dword)
  /-- CLAMP (R251). Vertex instruction that limits a stage to two coefficient bounds. -/
  | vClamp (w : Dword)
  /-- SEL (R251). Vertex instruction that selects elements of two stages by a mask. -/
  | vSel (w : Dword)
  /-- RSUM (R251). Vertex instruction that sums the elements of a stage into one element. -/
  | vRsum (w : Dword)
  /-- MACZ (R246). Vertex instruction that starts an accumulator with a stage product. -/
  | vMacz (w : Dword)
  /-- MAC (R246). Vertex instruction that adds a stage product into an accumulator. -/
  | vMac (w : Dword)
  /-- MACZS (R246). Vertex instruction that starts an accumulator with a stage times a coefficient. -/
  | vMaczs (w : Dword)
  /-- MACS (R246). Vertex instruction that adds a stage times a coefficient into an accumulator. -/
  | vMacs (w : Dword)
  /-- ACC (R246). Vertex instruction that packs an accumulator into a stage. -/
  | vAcc (w : Dword)
  /-- CGT (R251). Vertex instruction that sets mask bits where one stage exceeds another. -/
  | vCgt (w : Dword)
  /-- CGE (R251). Vertex instruction that sets mask bits where one stage is at least another. -/
  | vCge (w : Dword)
  /-- SIN (R247). Vertex instruction that forms the table sine of a stage in turns. -/
  | vSin (w : Dword)
  /-- COS (R247). Vertex instruction that forms the table cosine of a stage in turns. -/
  | vCos (w : Dword)
  /-- SQRT (R247). Vertex instruction that forms the square root of a stage. -/
  | vSqrt (w : Dword)
  /-- RCP (R247). Vertex instruction that forms the reciprocal of a stage. -/
  | vRcp (w : Dword)
  /-- JMP (R251). Vertex instruction that jumps to ADDR and pops loops it leaves. -/
  | vJmp (w : Dword)
  /-- JANY (R251). Vertex instruction that jumps if any mask bit is 1. -/
  | vJany (w : Dword)
  /-- JNONE (R251). Vertex instruction that jumps if no mask bit is 1. -/
  | vJnone (w : Dword)
  /-- LOOP (R251). Vertex instruction that pushes a loop entry repeating its body EXP + 1 times. -/
  | vLoop (w : Dword)
  /-- PROGRAM_ABANDON (R257). The last clock of Compute passes without END, so Vertex abandons the program
  and sets UNFIN. -/
  | programAbandon
  /-- ISSUE_LATCH (R87). At the first clock of Issue, Polygon latches duty, phase, force and source and
  builds the edge set of each leg. -/
  | issueLatch
  /-- EDGE_SET_RELEASE (R63). Polygon releases a whole edge set to all ports, which transmit its WITHDRAW,
  RESUME, EDGE and SAMPLE-AT blocks. -/
  | edgeSetRelease
  /-- GUARD_START (R64). At the start of Guard, overrun is judged; an overrun repeats the last set or hands
  legs to the switching table. -/
  | guardStart
  /-- KEY (R36). A write of KEY opens the key of the page with 0x0000_C5A1 or closes it with any other
  value. -/
  | key (who : Who) (addr : Nat) (v : Word)
  /-- KEY_EXPIRY (R36). 1024 FABRIC clocks pass after the opening write and the key closes. -/
  | keyExpiry (addr : Nat)
  /-- REGISTER_WRITE (R32). A write to a register without a row of its own is applied field by field under
  the access codes. -/
  | registerWrite (who : Who) (addr : Nat) (bytes : Nat) (v : Dword) (atLatch : Bool)
  /-- ACCESS_UNIMPL (R29). A read of an unimplemented address returns 0, sets ACC and logs ACCESS_UNIMPL. -/
  | accessUnimpl (who : Who) (addr : Nat)
  /-- IRQ_FORCE (R35). A write of IRQ_FORCE sets IRQ_STAT bits to raise the interrupt only. -/
  | irqForce (who : Who) (addr : Nat) (v : Word)
  /-- PARITY_SCRUB (R41). A block's scrub pass reaches a covered register and checks its parity. -/
  | parityScrub (addr : Nat) (upset : Word)
  /-- RING_ENABLE (R44). A write of EN 1 enables a ring, clearing its indices, or is refused for an invalid
  size. -/
  | ringEnable (who : Who) (ring : Fin 48) (v : Word)
  /-- RING_DISABLE (R50). A write of EN 0 disables a ring; a request ring aborts its unissued transactions. -/
  | ringDisable (who : Who) (ring : Fin 48) (v : Word)
  /-- RING_POINTER_WRITE (R45). Firmware writes the index it owns in a ring, freeing entries or offering new
  ones. -/
  | ringPointerWrite (who : Who) (ring : Fin 48) (v : Word)
  /-- LOG_ENTRY_ARRIVAL (R56). An event reaches the log engine and enters the merge buffer, releasing the
  oldest early if full. -/
  | logEntryArrival (n : Nat)
  /-- LOG_RELEASE (R56). Gnomon time passes an entry's timestamp by 64 µs and it is released to its routed
  ring. -/
  | logRelease
  /-- TAG_REQUEST (R49). A port takes the next request of its request ring, assigns the lowest free tag and
  sends RD or WR. -/
  | tagRequest (port : Fin 8)
  /-- RSP (R50). An RSP block arrives and completes its transaction, writing a completion entry. -/
  | rsp (port : Fin 8) (block : Dword)
  /-- TAG_TIMEOUT (R51). A transaction's timeout expires; it completes with TIMEOUT and its tag enters
  quarantine. -/
  | tagTimeout (port : Fin 8) (tag : Fin 32)
  /-- TAG_QUARANTINE_END (R51). 64 µs after a TIMEOUT the tag returns to use. -/
  | tagQuarantineEnd (port : Fin 8) (tag : Fin 32)
  /-- MODE_REQUEST_STANDBY (R71). A write of SYS_MODE_REQ.TARGET with STANDBY starts a request judged at the
  next boundary. -/
  | modeRequestStandby (who : Who)
  /-- MODE_REQUEST_FOLLOW (R71). A write of TARGET with FOLLOW starts a request judged at the next boundary. -/
  | modeRequestFollow (who : Who)
  /-- MODE_REQUEST_FORM (R71). A write of TARGET with FORM starts a request judged at the next boundary. -/
  | modeRequestForm (who : Who)
  /-- MODE_REQUEST_HALT (R71). A write of TARGET with HALT starts a request, kept pending if superseded. -/
  | modeRequestHalt (who : Who)
  /-- MODE_REQUEST_INVALID (R72). A write of TARGET with DARK, WAKE, RIDE or ISLAND starts a request refused
  with cause 1. -/
  | modeRequestInvalid (who : Who) (target : Fin 8)
  /-- CURTAIL (R77). A write of SYS_MODE_MOD.CURTAIL requests or withdraws the export limit. -/
  | curtail (who : Who) (on : Bool)
  /-- NIGHTVAR (R77). A write of SYS_MODE_MOD.NIGHTVAR requests or withdraws night reactive operation. -/
  | nightvar (who : Who) (on : Bool)
  /-- TEST (R77). A write of SYS_MODE_MOD.TEST requests or withdraws test facilities. -/
  | test (who : Who) (on : Bool)
  /-- LEGACY (R77). A write of SYS_MODE_MOD.LEGACY requests or withdraws YH-3200 sampling. -/
  | legacy (who : Who) (on : Bool)
  /-- PROFILE_REQUEST (R62). A write of SYS_TICK_CFG.PROFILE requests WIDE or FINE, refused outside WAKE,
  STANDBY and HALT. -/
  | profileRequest (who : Who) (fine : Bool)
  /-- COMMIT (R89). A write of 1 to a POLY_COM_COMMIT bit transfers the staged values of that group in one
  TIME clock. -/
  | commit (who : Who) (group : Fin 16) (atLatch : Bool)
  /-- LEG_ENABLE (R105). A write of POLY_LEGn_CTL.EN enables or disables a leg timer, subject to the
  configuration checks. -/
  | legEnable (who : Who) (leg : Fin 64) (en : Bool)
  /-- AUX_PERIOD_START (R106). An auxiliary timer reaches its period start and reloads CMP, and PER for an
  even timer. -/
  | auxPeriodStart (timer : Fin 20)
  /-- AUXOFF_CONFIRM (R107). A partner's AUXOFF is sampled asserted and, after DEAD, the pending turn-on of
  an auxiliary pair proceeds. -/
  | auxoffConfirm (timer : Fin 20)
  /-- CONF_TIMEOUT (R107). CONF_TO expires without AUXOFF: the turn-on is cancelled and the pair held off. -/
  | confTimeout (timer : Fin 20)
  /-- LINK_ENABLE (R135). A write of LINK_n_CTL.EN starts training from OFF or returns the port to OFF. -/
  | linkEnable (who : Who) (port : Fin 8) (en : Bool)
  /-- RETRAIN (R135). A write of 1 to RETRAIN sends the port to DOWN and then to CLOCK. -/
  | retrain (who : Who) (port : Fin 8)
  /-- LOOP_NEAR_SERIAL (R144). A write of LOOP 0b001 puts the port into near-end serial loop-back. -/
  | loopNearSerial (who : Who) (port : Fin 8)
  /-- LOOP_NEAR_PARALLEL (R144). A write of LOOP 0b010 puts the port into near-end parallel loop-back. -/
  | loopNearParallel (who : Who) (port : Fin 8)
  /-- LOOP_FAR_END (R144). A write of LOOP 0b011 trains the port into far-end loop-back. -/
  | loopFarEnd (who : Who) (port : Fin 8)
  /-- PRBS31_TEST (R143). A write of LOOP 0b100 trains the port into the PRBS31 test. -/
  | prbs31Test (who : Who) (port : Fin 8)
  /-- LOOP_END (R135). A write of LOOP 0b000, or TEST ending, leaves TEST and logs TEST_END. -/
  | loopEnd (who : Who) (port : Fin 8)
  /-- LINK_CNTCLR_CRC (R147). A write of LINK_n_CNTCLR bit 0 clears the CRC counters. -/
  | linkCntclrCrc (who : Who) (port : Fin 8)
  /-- LINK_CNTCLR_PRBS (R147). A write of LINK_n_CNTCLR bit 1 clears the PRBS counters. -/
  | linkCntclrPrbs (who : Who) (port : Fin 8)
  /-- LINK_CNTCLR_LOOPERR (R147). A write of LINK_n_CNTCLR bit 2 clears LOOPERR. -/
  | linkCntclrLooperr (who : Who) (port : Fin 8)
  /-- LINK_CNTCLR_ERR (R147). A write of LINK_n_CNTCLR bit 3 clears LINK_n_ERR. -/
  | linkCntclrErr (who : Who) (port : Fin 8)
  /-- CLOCK_PHASE_DONE (R136). Block lock, deskew and 16 ALIGN blocks are achieved and the port enters EQ. -/
  | clockPhaseDone (port : Fin 8) (wiring : BitVec 3)
  /-- EQ_PHASE_DONE (R137). DONE is exchanged on all lanes and the port enters LAT. -/
  | eqPhaseDone (port : Fin 8)
  /-- TAP_REQUEST (R137). A changed RSEQ from the partner is answered by stepping the transmitter taps and
  returning ASEQ and status. -/
  | tapRequest (port : Fin 8) (block : Dword)
  /-- LAT_PHASE_DONE (R136). 64 echoes with spread at most 4 units set DDOWN and the port enters READY. -/
  | latPhaseDone (port : Fin 8) (echoes : List (Nat × Dword))
  /-- LINK_UP (R135). 16 READY blocks are exchanged with NEXT 0b00 and the port enters UP, pushing leg
  limits. -/
  | linkUp (port : Fin 8) (desat : BitVec 8) (ready : Dword)
  /-- TRAIN_FAIL (R136). A training phase times out or fails; the port enters DOWN with a backoff. -/
  | trainFail (port : Fin 8) (cause : Fin 8)
  /-- BACKOFF_END (R135). DOWN ends and the port enters CLOCK or OFF. -/
  | backoffEnd (port : Fin 8)
  /-- LINK_LOSS (R140). While UP, silence, lost block lock, absent UCK or a TRAIN block declares loss of
  link and trips every leg of the port. -/
  | linkLoss (port : Fin 8) (why : BitVec 4)
  /-- LATENCY_PROBE (R130). Every 1024 slots an UP port sends an IDLE probe on DD0. -/
  | latencyProbe (port : Fin 8)
  /-- PROBE_ECHO (R129). An IDLE echo arrives and updates RTT and the DDOWN target. -/
  | probeEcho (port : Fin 8) (elapsed : Nat) (block : Dword)
  /-- SAMPLE (R121). A SAMPLE head and tail arrive and go to the leg's Vertex input stage. -/
  | sample (port : Fin 8) (head : Dword) (tail : Dword)
  /-- STATUS (R123). A STATUS block arrives, updates LEGSTAT and LEGTIME, and passes trip changes to leg
  protection. -/
  | status (port : Fin 8) (block : Dword)
  /-- INVALID_BLOCK (R115). A received block with a wrong header, CRC or type is discarded and counted. -/
  | invalidBlock (port : Fin 8) (lane : Fin 2) (train : Bool) (block : Dword)
  /-- GEN_REQUEST (R160). At max(t2p) + 1.0 µs after an all-off latch, GEN_REQ is set and GEN_N deasserts. -/
  | genRequest
  /-- TRIP_CLEAR (R163). A W1C write to a leg latch is judged bit by bit; node latches are cleared through
  LN_TRIPCLR. -/
  | tripClear (who : Who) (port : Fin 8) (leg : Fin 8) (v : Word)
  /-- INJ (R165). A write of 1 to LEGm_CFG.INJ under TEST latches an injected leg trip. -/
  | inj (who : Who) (port : Fin 8) (leg : Fin 8)
  /-- PIN_TRIP (R162). A trip channel becomes active from its pin or comparators and latches, tripping its
  masked legs. -/
  | pinTrip (chan : Fin 8) (level : Bool)
  /-- CHANNEL_CLEAR (R163). A W1C write to a trip channel latch or ALLOFF is refused while its condition
  holds. -/
  | channelClear (who : Who) (which : Fin 9)
  /-- PG_TRIP (R166). The polarity guard comparator leaves its window: PGUARD goes low and LOW or HIGH
  latches. -/
  | pgTrip
  /-- PGUARD_ON (R166). The guard comparator has been inside for ONDLY and PGUARD goes high. -/
  | pguardOn
  /-- GC_EVALUATION (R200). In the first tick of each millisecond, the grid-code engine computes and writes
  LOCUS_PSET and LOCUS_QSET. -/
  | gcEvaluation
  /-- FREQ_LIMIT_CONFIRM (R205). A passive frequency limit timer reaches CLR minus BUDGET and the limit
  confirms. -/
  | freqLimitConfirm (limit : Fin 4)
  /-- ROCOF_CONFIRM (R205). The filtered ROCOF has exceeded TH for DELAY and confirms with cause 5. -/
  | rocofConfirm
  /-- SLOT_RESPONSE (R208). In the first tick after a slot ends, the active method forms and counts its
  response and judges confirmation. -/
  | slotResponse
  /-- ISL_INJ (R214). A write of 1 to ISL_CTL.INJ under TEST confirms an island with cause 7. -/
  | islInj (who : Who)
  /-- ISL_CEASED (R211). The ramp ends: every enabled leg is forced off and the contactors are asked to
  open. -/
  | islCeased
  /-- CLEAR_MISSED (R211). The sequence deadline passes before cease-to-energise completes, forcing HALT
  with cause 15. -/
  | clearMissed
  /-- SLOPE_EVALUATION (R221). At each whole millisecond Slope demodulates each channel, steps its base
  voltage and changes channel states. -/
  | slopeEvaluation
  /-- SCAN_REQUEST (R229). A write of 1 to a SLOPE_SCANREQ bit sets the channel's scan pending. -/
  | scanRequest (who : Who) (v : Word)
  /-- SCAN_DONE (R230). 40 ms after start, a scan moves VB to the chosen voltage and returns the channel to
  TRACK. -/
  | scanDone (ch : Fin 32)
  /-- STRING_FAULT_CLEAR (R234). A W1C write to a channel's FAULT is refused while its condition holds, or
  returns it to OPEN. -/
  | stringFaultClear (who : Who) (ch : Fin 32)
  /-- SLOPE_TEST_FAULT (R233). A write of SLOPE_TEST.FAULT under TEST injects FCAUSE 5 into a channel. -/
  | slopeTestFault (who : Who) (ch : Fin 32)
  /-- RUN (R260). A write of CE_CTL.RUN enables or disables the tick program. -/
  | run (who : Who) (on : Bool)
  /-- SWAP (R261). A write of 1 to CE_PROG.SWAP requests a bank swap at the next tick start. -/
  | swap (who : Who)
  /-- PROGRAM_WORD_WRITE (R267). A write of CE_PDATA_HI stores an instruction at CE_PADDR and increments it. -/
  | programWordWrite (who : Who) (v : Word)
  /-- DATA_WORD_WRITE (R261). A write of CE_DDATA stores an element word while RUN is 0 and increments the
  address. -/
  | dataWordWrite (who : Who) (v : Word)
  /-- COEF_WRITE (R262). A write of CE_CDATA queues a coefficient write or is refused when the queue is
  full. -/
  | coefWrite (who : Who) (v : Word)
  /-- CLR_MAX (R267). A write of CE_CLR bit 0 clears CE_TIME.MAX. -/
  | clrMax (who : Who)
  /-- CLR_SATCNT (R267). A write of CE_CLR bit 1 clears CE_SATCNT. -/
  | clrSatcnt (who : Who)
  /-- ECC1 (R267). A write of CE_TEST.ECC1 under TEST plants a single-bit error in a data word. -/
  | ecc1 (who : Who)
  /-- ECC2 (R267). A write of CE_TEST.ECC2 under TEST plants a double-bit error in a data word. -/
  | ecc2 (who : Who)
  /-- CE_TEST_FAULT (R267). A write of CE_TEST.FAULT under TEST raises code 9 at the next program start. -/
  | ceTestFault (who : Who)
  /-- SUP_LATCH_CLEAR (R265). A W1C clear of a CE_SUP_FLT bit resets the channel's count. -/
  | supLatchClear (who : Who) (v : Word)
  /-- ADC_STARTUP_CAL (R283). After main reset all nine converters calibrate, CALDONE sets, and failing
  converters retire. -/
  | adcStartupCal (sums : List (Nat × Nat × Nat))
  /-- TICK_SLOT_RESULT (R278). A tick-slot conversion completes and its result enters the Vertex input
  stage, a result register and its ring. -/
  | tickSlotResult (slot : Fin 128) (q : Int) (partner : Int) (shadow : Int)
  /-- BACKGROUND_CONVERSION (R280). A converter with free time converts the first due background, read-back
  or triggered slot. -/
  | backgroundConversion (pos : Fin 8) (q : Int)
  /-- TRIGGER_PULSE (R343). A trigger line pulses from its selected source and reaches its users. -/
  | triggerPulse (line : Fin 16)
  /-- TRIG_SW (R343). A write of 1 to a TRIG_SW bit pulses that trigger line. -/
  | trigSw (who : Who) (v : Word)
  /-- GENERATOR_PULSE (R344). A periodic generator reaches a time with T mod PER equal to PHASE and pulses. -/
  | generatorPulse (gen : Fin 4)
  /-- ROT_CALIBRATION_DONE (R285). A rotation calibration of the spare or served converter completes,
  passing or failing. -/
  | rotCalibrationDone (lo : Nat) (hi : Nat) (mid : Nat)
  /-- ROT_SHADOW_DONE (R286). A shadow step of SHADOW ticks ends and its mean mismatch is judged, then the
  swap follows at a tick start. -/
  | rotShadowDone (mids : List (Int × Int))
  /-- ROT_DWELL_END (R284). DWELL seconds in WAIT end and the rotation advances to the next position. -/
  | rotDwellEnd
  /-- STEP (R296). A write of ADC_TEST.STEP under TEST ends WAIT at once. -/
  | adcStep (who : Who)
  /-- CALERR (R296). A write of ADC_TEST.CALERR under TEST biases the next calibration of SAR8. -/
  | calerr (who : Who)
  /-- CMP_RAW_CHANGE (R288). A comparator input crosses a threshold and its raw state changes. -/
  | cmpRawChange (ball : Fin 64) (uv : Int)
  /-- CMP_WIN_CHANGE (R289). A raw state has been sampled FILT + 1 times and WIN and the trip condition
  change. -/
  | cmpWinChange (tw : Fin 48)
  /-- BLANKING_WINDOW_END (R290). A blanking window ends and the filter restarts from the raw state. -/
  | blankingWindowEnd (tw : Fin 48)
  /-- THRESHOLD_REFRESH (R288). Every 1 µs a threshold side is refreshed and takes any written value. -/
  | thresholdRefresh (tw : Fin 48)
  /-- CMP_SELFTEST_PASS (R291). Every SPER ms a read-back pass tests each comparator threshold against the
  converter. -/
  | cmpSelftestPass
  /-- METER_SAMPLE (R303). A 32 kS/s raw sample of every channel is processed through offset, filter, delay
  and gain. -/
  | meterSample (codes : List Int) (spare : Int) (cross : Option (Fin 65536))
  /-- WINDOW_END (R305). A measurement window ends at a reference crossing, timeout or 600 s boundary and
  its results and energies are formed. -/
  | windowEnd
  /-- FREQ10S (R308). A 10 s interval ends and the frequency is computed. -/
  | freq10s
  /-- METER_CHECKPOINT_STAGE (R321). At each whole second, Annulus stages its snapshot into Origin and
  writes the ENERGY record. -/
  | meterCheckpointStage
  /-- PMU_REPORT (R319). At a report instant the synchrophasor estimates are written to RING13. -/
  | pmuReport
  /-- METER_CLEAR (R315). A write of 0x5A to METER_ACC_CLR with the key open and unsealed clears every
  accumulator and applies QUANT. -/
  | meterClear (who : Who) (v : Word)
  /-- WACK (R312). A write of 1 to METER_ACC_WACK zeroes every WRAP. -/
  | wack (who : Who)
  /-- METER_HOLD (R314). A write of METER_CTL.HOLD freezes the registers or, on clear, loads the last
  window. -/
  | meterHold (who : Who) (on : Bool)
  /-- ACCUMULATION_START (R323). At the first whole second after restore and calibration, Annulus starts
  accumulating and writes RESTORE. -/
  | accumulationStart (cals : List (Option (Int × Int × Int)))
  /-- METER_ROTATION_STEP (R317). A step of the M16 rotation completes at a window end, with the reference
  cross-check at CAL_SPARE. -/
  | meterRotationStep (cal : Option (Int × Int × Int)) (ratio : Word)
  /-- METER_TEST_INJ (R324). A write of METER_TEST.INJ under TEST replaces a channel's input and holds
  accumulation. -/
  | meterTestInj (who : Who) (v : Word)
  /-- TIME_MEASUREMENT (R339). A write of TIME_MEAS_HI submits an offset, which is judged, may set a pending
  step and updates the rate. -/
  | timeMeasurement (who : Who) (v : Word)
  /-- MEASINJ (R346). A write of TIME_TEST under TEST submits a measurement from SRC 0. -/
  | measinj (who : Who) (v : Word)
  /-- MEAS_TIMEOUT (R338). MEAS_TO passes without an accepted measurement, moving LOCKED to HOLDOVER or
  ACQUIRE to FREE. -/
  | measTimeout
  /-- HOLDOVER_EXPIRY (R338). HOLD_MAX passes in HOLDOVER and Gnomon becomes FREE. -/
  | holdoverExpiry
  /-- REARM (R340). A write of 1 to TIME_CTL.REARM sets ARMED. -/
  | rearm (who : Who)
  /-- SRC_SELECT (R338). A write that changes TIME_CTL.SRC selects a new source and sets Gnomon FREE. -/
  | srcSelect (who : Who) (src : Fin 4)
  /-- SNAP (R347). A write of 1 to TIME_SNAP copies the counter into the snapshot registers. -/
  | snap (who : Who)
  /-- SYNC_IN_EDGE (R345). An edge on SYNC_IN feeds PPS measurement, captures, trigger lines and clock
  re-phasing. -/
  | syncInEdge (rising : Bool) (fine : Fin 16)
  /-- ETH_FRAME_RECEIVE (R334). A frame is received, timestamped and stored with a completion entry, or
  dropped for space. -/
  | ethFrameReceive (port : Fin 2) (frame : List Byte) (err : Bool)
  /-- ETH_TRANSMIT (R335). A transmit descriptor is taken and its frame sent, with a one-step or returned
  timestamp. -/
  | ethTransmit (port : Fin 2)
  /-- ETH_LINK_UP (R334). An Ethernet port comes up and the SGMII alignment bit is measured. -/
  | ethLinkUp (port : Fin 2) (align : Fin 10)
  /-- START (R356). Drive command START enters CATCH from IDLE or COAST. -/
  | start (who : Who) (drive : Fin 3)
  /-- STOP (R366). Drive command STOP enters DECEL, or COAST with a faulty chopper. -/
  | stop (who : Who) (drive : Fin 3)
  /-- COAST (R356). Drive command COAST turns every pair off. -/
  | coast (who : Who) (drive : Fin 3)
  /-- POSITION (R371). Drive command POSITION moves the drive to MDd_POS_TGT. -/
  | position (who : Who) (drive : Fin 3)
  /-- STOW (R371). Drive command STOW moves the drive to MDd_STOW_POS. -/
  | stow (who : Who) (drive : Fin 3)
  /-- HOME (R371). Drive command HOME runs the drive with Arc's re-home armed. -/
  | home (who : Who) (drive : Fin 3)
  /-- DRV_INJ (R373). A write of MDd_CMD.INJ under TEST puts the drive in FAULT with FCAUSE 6. -/
  | drvInj (who : Who) (drive : Fin 3)
  /-- DRIVE_ENABLE (R351). A write of MDd_CFG.EN enables or disables a drive, subject to its checks. -/
  | driveEnable (who : Who) (drive : Fin 3) (en : Bool)
  /-- SPEED_TARGET_WRITE (R367). A write of MDd_SPD_TGT sets the speed target, refused in a forbidden
  direction. -/
  | speedTargetWrite (who : Who) (drive : Fin 3) (v : Word)
  /-- DRIVE_DECISION (R354). After a trigger pulse and the arrival of its current results, the drive decides
  its vector. -/
  | driveDecision (drive : Fin 3)
  /-- DECISION_DEADLINE (R354). 2 µs after a pulse without all results, the drive decides on previous values
  and counts a miss. -/
  | decisionDeadline (drive : Fin 3)
  /-- CATCH_DONE (R365). CATCH_T ends and the caught speed leads to RUN, ALIGN or another catch. -/
  | catchDone (drive : Fin 3)
  /-- ALIGN_DONE (R365). ALIGN_T ends, the flux is set and the drive enters RUN. -/
  | alignDone (drive : Fin 3)
  /-- STOP_HOLD_DONE (R366). REV_T of V0 ends and the drive enters IDLE, or ALIGN in a reversal. -/
  | stopHoldDone (drive : Fin 3)
  /-- POSITION_REACHED (R371). The target has been held within POS_WIN for 100 ms and the drive enters
  DECEL. -/
  | positionReached (drive : Fin 3)
  /-- STOW_DONE (R372). A HALT stow ends as STOWED or STOW_FAIL. -/
  | stowDone (drive : Fin 3)
  /-- SHORT_END (R370). Phase currents below ISTOP for 100 ms and the bus below VSHORT end short braking. -/
  | shortEnd (drive : Fin 3)
  /-- DRIVE_FAULT_CLEAR (R378). A W1C clear of MDd_STAT.FAULT is refused while its condition holds, or
  returns the drive to IDLE. -/
  | driveFaultClear (who : Who) (drive : Fin 3)
  /-- CHOPPER_UPDATE (R368). A bus voltage result sets the chopper request and may put drives into SHORT. -/
  | chopperUpdate (k : Fin 2)
  /-- BRK_FAULT (R369). CHK_T expires with current absent while on or present while off, latching OPEN or
  STUCK. -/
  | brkFault (k : Fin 2)
  /-- BRK_FAULT_CLEAR (R369). A W1C clear of OPEN or STUCK is accepted, or refused while STUCK's condition
  holds. -/
  | brkFaultClear (who : Who) (k : Fin 2) (v : Word)
  /-- HALL_CHANGE (R374). A filtered Hall code changes and Arc counts the sector change. -/
  | hallChange (chan : Fin 3) (code : Fin 8) (rx : BitVec 2)
  /-- INDEX_EDGE (R376). An index edge latches POS and REV and checks the index. -/
  | indexEdge (chan : Fin 3)
  /-- ARC_HOME (R377). A write of 1 to ARCa_HOME.HOME arms a re-home. -/
  | arcHome (who : Who) (chan : Fin 3)
  /-- SECANT_CYCLE (R384). Every 250 µs Secant takes its inputs, reads safe frames, evaluates every function
  and writes its permits. -/
  | secantCycle (sfb : BitVec 4)
  /-- CHORD_EVALUATION (R387). In each SAFE clock Chord finds a demand from its pairs, comparators or counts
  and withdraws permits. -/
  | chordEvaluation (sfb : BitVec 4)
  /-- SIN_LEVEL_CHANGE (R385). A SIN ball has held a new level for 1.0 ms and its filtered level changes. -/
  | sinLevelChange (pair : Fin 8) (b : Bool) (level : Bool) (rx : BitVec 2)
  /-- DISCREPANCY (R386). A pair's discrepancy lasts DISC and DISCF latches. -/
  | discrepancy (pair : Fin 8)
  /-- SAFE_FAULT (R392). An internal fault of the safety cluster latches PSAFE and every drive stop. -/
  | safeFault (bits : BitVec 9)
  /-- SECANT_WD (R392). No Secant heartbeat within 500 µs raises SECANT_WD. -/
  | secantWd
  /-- CROSS_TIMEOUT (R392). The channels' demand vectors or parameters differ for 20 ms and CROSS latches. -/
  | crossTimeout
  /-- RELEASE (R393). A write of 1 to SAFE_CTL.RELEASE with the key open clears PSAFE if every condition
  holds. -/
  | release (who : Who)
  /-- DRIVE_RELEASE (R394). A write of a SAFE_DRV_REL bit with the key open releases a drive stop. -/
  | driveRelease (who : Who) (v : Word)
  /-- OUTPUT_REQUEST (R398). A write of SAFE_OUT_REQ requests or withdraws a safety output. -/
  | outputRequest (who : Who) (v : Word)
  /-- ONFAIL (R398). An output on for FB_T still reads its load safe: it is turned off and ONFAIL latches. -/
  | onfail (out : Fin 4) (sfb : Bool)
  /-- WELD (R398). An output off for FB_T still reads its load active: WELD latches as a demand. -/
  | weld (out : Fin 4) (sfb : Bool)
  /-- OUTPUT_READBACK_FAULT (R397). A SOUT readback shows an edge after withdrawal or none while on. -/
  | outputReadbackFault (out : Fin 4)
  /-- SAFE_FRAME_TX (R406). Every TXPER ms Secant builds and places a safe frame in its transmit ring. -/
  | safeFrameTx (conn : Fin 2)
  /-- CONN_FAIL (R404). A connection's watchdog expires, or SCV failures exceed 3 in 60 s, and it becomes
  FAILED. -/
  | connFail (conn : Fin 2)
  /-- CONN_RESTART (R404). A write of 1 to SAFE_CONNc_CFG.RESTART puts a connection into WAIT. -/
  | connRestart (who : Who) (conn : Fin 2)
  /-- SAFE_STARTUP_TEST (R410). After main reset the safety cluster runs its start-up self-test and sets
  STARTOK or STARTUP. -/
  | safeStartupTest (pass : Bool) (imageOk : Bool)
  /-- WEN (R408). A key-protected write of SAFE_MRAM.WEN while unsealed opens the safety partition to
  writes. -/
  | wen (who : Who) (on : Bool)
  /-- MRAM_WRITE (R408). A write to the safety partition without WEN returns a bus error. -/
  | mramWrite (who : Who) (addr : Nat) (v : Dword)
  /-- XINJ (R411). A write of SAFE_TEST.XINJ under TEST raises a CROSS fault in the next cycle. -/
  | xinj (who : Who)
  /-- OINJ (R411). A write of SAFE_TEST.OINJ under TEST raises an OUTPUT fault on SOUT0 in the next cycle. -/
  | oinj (who : Who)
  /-- HARVEST_SAMPLE (R417). Every 250 ms VHARV is compared with HV_ON and HV_OFF. -/
  | harvestSample (vharv : Nat)
  /-- HARVEST (R417). VHARV holds across a threshold for DAWN_T or DUSK_T and HPRES changes at dawn or dusk. -/
  | harvest
  /-- CELL_MEASUREMENT (R419). Every 250 ms the cell voltage is measured and the thresholds move PGOOD, CUT
  and the charger. -/
  | cellMeasurement (vcell : Nat) (icell : Nat)
  /-- CELL_DISCONNECT (R419). The analog comparator opens the cell switch when the cell falls below 3.00 V. -/
  | cellDisconnect
  /-- CHG_FAULT (R418). CHG_TO passes without reaching DONE and the charger stops in FAULT. -/
  | chgFault
  /-- RTC_SECOND (R423). The real-time clock completes a second, adds TRIM and lengthens or shortens the
  next. -/
  | rtcSecond
  /-- RTC_REALIGN (R422). While TLOCK is 1, the clock realigns to Gnomon at each whole second. -/
  | rtcRealign
  /-- RTCSET (R422). A write of 1 to ORIGIN_CTL.RTCSET loads the seconds count. -/
  | rtcset (who : Who)
  /-- TRIM_LEARN (R423). A 1024 s interval under TLOCK ends and AUTOTRIM sets TRIM. -/
  | trimLearn (keep : Nat)
  /-- CHECKPOINT_COMMIT (R428). Origin writes a staged snapshot to the active record's slot, advancing
  records as needed. -/
  | checkpointCommit (verified : Bool)
  /-- LIFE_WRITE (R428). Every hour of service Origin writes the LIFE record. -/
  | lifeWrite
  /-- HOUSEKEEPING_BURST (R433). In DARK the hourly burst writes the LIFE record under the energy gate. -/
  | housekeepingBurst
  /-- TEMP_READ (R433). Every second the Origin die temperature is read and thermal cycles counted. -/
  | tempRead (temp : Int)
  /-- AGING_COUNT (R460). Once an hour each aging monitor counts its ring oscillator and reports the scaled
  count. -/
  | agingCount (monitor : Fin 4) (count : BitVec 16)
  /-- TFAIL (R434). A write of ORIGIN_CTL.TFAIL under TEST makes the next final burst refused. -/
  | tfail (who : Who)
  /-- MON_FAIL (R441). A clock or supply monitor fails and raises CLKMON with its further effect. -/
  | monFail (bits : BitVec 9) (low : Bool) (ref : Word)
  /-- SYSPLL_RESET (R441). Loss of SYS PLL lock lasts 1 ms and requests a main reset. -/
  | syspllReset
  /-- CLOCK_OUTPUT_SETUP (R442). A write of CLKOUTn_CTL.SETUP moves an output between SETUP and RUN. -/
  | clockOutputSetup (who : Who) (out : Fin 4) (setup : Bool)
  /-- CLOCK_FORMAT_CHANGE (R443). A write of FMT in RUN stops, reconfigures and restarts the output in
  phase. -/
  | clockFormatChange (who : Who) (out : Fin 4) (fmt : Fin 4)
  /-- WDOG_KICK (R449). A write of SYS_WDT_KICK restarts the watchdog, or is refused for a wrong value. -/
  | wdogKick (who : Who) (v : Word)
  /-- WDOG_EXPIRE (R449). The host watchdog reaches TIMEOUT and requests a main reset. -/
  | wdogExpire
  /-- HC_RELEASE (R21). A write of SYS_HC_REL releases HC1 to HC3 from halt. -/
  | hcRelease (who : Who) (v : Word)
  /-- BOOT_SEARCH (R450). At the first tick after release HC0 searches for a valid image, loads it or starts
  a ROM profile. -/
  | bootSearch (flashA : List Byte) (flashB : List Byte) (keyX : List (BitVec 256)) (keyY : List (BitVec 256))
  /-- BOUNDARY_SCAN_INSTRUCTION (R471). A boundary-scan instruction drives or captures balls under its
  conditions. -/
  | boundaryScanInstruction (extest : Bool) (pattern : Nat)
  /-- VKEEP_LOSS (R416). Every source of VKEEP is lost: the hold-up completes the MRAM word in progress and
  the Origin domain goes unpowered. -/
  | vkeepLoss (words : Nat)
  /-- PLL_RELOCK (R441). REF returns or a PLL regains lock: the PLLs resume tracking, PLL_LOCK is logged,
  and LINK ports may leave DOWN. -/
  | pllRelock (bits : BitVec 9) (ref : Word)
  /-- ETH_LINK_DOWN (R349). An Ethernet port loses its link and sets IRQ_STAT.BLK[1]. -/
  | ethLinkDown (port : Fin 2)
  /-- ILLEGAL_OPCODE (R259). Vertex meets an opcode not in the table, AM 0b11, a nonzero reserved field or
  an illegal FX, and faults with code 4. -/
  | illegalOpcode (w : Dword)
  /-- BLANKING_WINDOW_START (R290). A blanking window opens ahead of a selected edge, WIN is held and
  BLANKING sets. -/
  | blankingWindowStart (tw : Fin 48)
  /-- GRID_LOOP_TRIM (R439). Once per millisecond the MTR grid loop compares the sample edge with Gnomon and
  trims its fraction, re-phasing after a step. -/
  | gridLoopTrim
  /-- DEBUG_HOLD_RELEASE (R74). Under BOOTSEL 11 the test port releases HC0 from the boot ROM, after which
  the WAKE self-test is judged. -/
  | debugHoldRelease
  /-- HOST_MEMORY_ACCESS (R19). A host-core access to shared SRAM or embedded MRAM corrects or reports ECC
  errors, or returns a bus error for a sealed boot-area write. -/
  | hostMemoryAccess (who : Who) (mram : Bool) (addr : Nat) (write : Option (List Byte))
    (upset : Option (Fin 10 × Nat × Bool))
  /-- TAP_ACK (R138). As requester, the port receives ASEQ equal to RSEQ, waits 20 µs, judges its eye height
  and issues its next request or sets DONE. -/
  | tapAck (port : Fin 8) (lane : Fin 2) (block : Dword) (eye : Nat)
  /-- LINK_TEST_ENTRY (R135). 16 READY blocks with NEXT 0b01 or 0b10 are exchanged and the port enters TEST
  for PRBS31 or far-end loop-back. -/
  | linkTestEntry (port : Fin 8) (ready : Dword)
deriving DecidableEq, Repr

end Sys2Proof
end

