-- ==== Sys2Proof/Config.lean ====
section
/-! DEFINITION. What the spec leaves open: constants without a body, of which nothing can be proved. Each has
an entry in the assumption log. -/

namespace Sys2Proof.Config

/-- Departure of the first STATE OFF block of a reaction after its latch, in units (R161 gives at most
61.0 ns, 780 units); taken modulo 781. -/
opaque offDeparture : Nat → Nat → Nat

/-- Fraction bits of Locus's 48-bit fixed point (R171); taken modulo 48. -/
opaque locusFracBits : Nat
/-- The discretisation of a first-order filter, by its step and time constant in seconds (R174, R201 to R203); taken modulo
2^24 + 1 as a share of 2^24 between the backward and the forward Euler rule. -/
opaque filterRule : Rat → Rat → Nat
/-- The angle, in turns, of a vector of magnitude 0 (R174, R175, R177). -/
opaque angleOfZero : Rat
/-- The square root that R200 takes of a negative number, when |pt| exceeds SMAX with QPRIO 0. -/
opaque rootOfNegative : Rat → Rat
/-- The quotient of the frequency loop when V+ is 0 and VMIN is 0 (R174). -/
opaque quotientAtZero : Rat
/-- Frequency, V+ and Vmax that the grid-code engine uses before the first LOCK (R199). -/
opaque gcBeforeLock : Rat × Rat × Rat
/-- The TIME clock of the Locus results after the Compute start (R173); taken modulo 201. -/
opaque locusClock : Nat → Nat
/-- Fraction bits of Slope's 48-bit fixed point (R218); taken modulo 48. -/
opaque slopeFracBits : Nat
/-- A Slope quotient whose divisor is 0 (R221, R227, R228). -/
opaque slopeQuotient : Rat → Rat
/-- The TIME clock of the Slope references after the Compute start (R220); taken modulo 151. -/
opaque slopeClock : Nat → Nat
/-- The first ADC clock edge of a tick after its start, in units of 0.25 ns beyond 18.75 ns (R277); taken modulo 26. -/
opaque adcEdge : Nat → Nat
/-- Error of a record's timestamp against its sample instant (R282), in units of 0.25 ns; taken modulo 25, less 12. -/
opaque adcStamp : Nat → Nat
/-- GAIN of a calibration whose two references read alike (R285). -/
opaque calGain : Nat
/-- A drive quotient whose divisor is 0, by its dividend (R362, R363). -/
opaque driveQuotient : Rat → Rat
/-- Internal delay of an Ethernet port in units of 0.25 ns (R334): port, and whether it transmits. -/
opaque ethDelay : Nat → Bool → Int

/-- The word of Secant's instruction memory in which a double-bit error is found that no upset has placed (R19), by draw. -/
opaque secantWord : Nat → Nat
/-- TAG of a completion whose request was never issued and so carried no tag (R48, R50, R154), by draw. -/
opaque abortTag : Nat → BitVec 5

/-- Phase, in turns, of the sine that METER_TEST injects (R324). -/
opaque meterSinePhase : Rat
/-- The phasor of a channel in a synchrophasor report (R319), real and imaginary as RMS primary, by draw and channel. -/
opaque pmuPhasor : Nat → Nat → Rat × Rat
/-- Frequency in Hz of a synchrophasor report (R319), by draw and source: a channel, or 16 for the positive sequence. -/
opaque pmuFreq : Nat → Nat → Rat
/-- ROCOF in Hz/s of a synchrophasor report (R319), by draw and source. -/
opaque pmuRocof : Nat → Nat → Rat
/-- Window frequency shown in an aggregate record (R320), by draw. -/
opaque aggFreq : Nat → BitVec 32


/-- The built-in control program of a ROM profile (R261): an address of bank 0, taken modulo 8192, and an instruction. -/
opaque builtInProgram : List (Nat × BitVec 64)
/-- The coefficients of the built-in program (R261): an address and a value. -/
opaque builtInCoefs : List (BitVec 13 × BitVec 32)
/-- Data address of the phase current that a supervisor channel watches under a ROM profile (R261); taken modulo 0x1C0. -/
opaque builtInMeas : Nat → Nat
/-- Place of a ring of the boot ROM in the shared SRAM, in units of 64 bytes (R346); taken modulo the places at which it fits. -/
opaque romRing : Nat → Nat
/-- Place of the boot ROM's Ethernet receive area in the shared SRAM, in units of 64 bytes (R346); taken modulo 2^16. -/
opaque romRxBuf : Nat
/-- The delay of step 3 of R446 after the request, in units of 0.25 ns, by draw; taken modulo 24001. -/
opaque resetDelay : Nat → Nat
/-- A rising edge in ns of a clock output's divider after SRC or DIV is written or at main reset (R444), by draw. -/
opaque outPhase : Nat → Rat
/-- The time in ns that the driver of a clock output takes to change its format (R443), by draw; limited to 2000. -/
opaque outReconfig : Nat → Rat
/-- The place in a boundary-scan pattern of the cell of a ball (R471), by its number. -/
opaque scanCell : Nat → Nat
/-- Offset in the shared SRAM of an image copied from flash (R450); taken modulo the offsets at which the image fits. -/
opaque flashImageAt : Nat

end Sys2Proof.Config
end

