-- ==== Sys2Proof/Machine/Regs.lean ====
section
/-! DEFINITION. Names and addresses of the registers and their fields, from the register tables of
spec/02 to spec/17. A register named without a field is its whole word. Arguments: `n` page index, `m`, `j`
indices within the page, `r` ring. -/

namespace Sys2Proof

/-- A field of a register: address of the register, top and bottom bit. -/
structure Fld where
  addr : Nat
  hi : Nat
  lo : Nat
deriving DecidableEq, Repr

/-- Bit b of a field, as a field of its own. -/
def Fld.bit (f : Fld) (b : Nat) : Fld := ⟨f.addr, f.lo + b, f.lo + b⟩

end Sys2Proof

namespace Sys2Proof.R

def RING_BASE (r : Nat) : Fld := ⟨0x40A00040 + 0x1000 * (r / 24) + 0x20 * (r % 24), 31, 0⟩
def RING_BASE_BASE (r : Nat) : Fld := ⟨(RING_BASE r).addr, 21, 6⟩
def RING_CFG (r : Nat) : Fld := ⟨0x40A00044 + 0x1000 * (r / 24) + 0x20 * (r % 24), 31, 0⟩
def RING_CFG_WMARK (r : Nat) : Fld := ⟨(RING_CFG r).addr, 31, 16⟩
def RING_CFG_LOG2N (r : Nat) : Fld := ⟨(RING_CFG r).addr, 8, 4⟩
def RING_CFG_ESZ (r : Nat) : Fld := ⟨(RING_CFG r).addr, 3, 2⟩
def RING_CFG_DIR (r : Nat) : Fld := ⟨(RING_CFG r).addr, 1, 1⟩
def RING_CFG_EN (r : Nat) : Fld := ⟨(RING_CFG r).addr, 0, 0⟩
def RING_PIDX (r : Nat) : Fld := ⟨0x40A00048 + 0x1000 * (r / 24) + 0x20 * (r % 24), 31, 0⟩
def RING_CIDX (r : Nat) : Fld := ⟨0x40A0004C + 0x1000 * (r / 24) + 0x20 * (r % 24), 31, 0⟩
def RING_STAT (r : Nat) : Fld := ⟨0x40A00050 + 0x1000 * (r / 24) + 0x20 * (r % 24), 31, 0⟩
def RING_STAT_DROPS (r : Nat) : Fld := ⟨(RING_STAT r).addr, 31, 16⟩
def RING_STAT_FULL (r : Nat) : Fld := ⟨(RING_STAT r).addr, 2, 2⟩
def RING_STAT_CFGERR (r : Nat) : Fld := ⟨(RING_STAT r).addr, 1, 1⟩
def RING_STAT_OVF (r : Nat) : Fld := ⟨(RING_STAT r).addr, 0, 0⟩
def SYS_MODE_REQ : Fld := ⟨0x40001040, 31, 0⟩
def SYS_MODE_REQ_TARGET : Fld := ⟨(SYS_MODE_REQ).addr, 2, 0⟩
def SYS_MODE_MOD : Fld := ⟨0x40001044, 31, 0⟩
def SYS_MODE_MOD_LEGACY : Fld := ⟨(SYS_MODE_MOD).addr, 3, 3⟩
def SYS_MODE_MOD_TEST : Fld := ⟨(SYS_MODE_MOD).addr, 2, 2⟩
def SYS_MODE_MOD_NIGHTVAR : Fld := ⟨(SYS_MODE_MOD).addr, 1, 1⟩
def SYS_MODE_MOD_CURTAIL : Fld := ⟨(SYS_MODE_MOD).addr, 0, 0⟩
def SYS_MODE_STAT : Fld := ⟨0x40001048, 31, 0⟩
def SYS_MODE_STAT_ROM : Fld := ⟨(SYS_MODE_STAT).addr, 26, 26⟩
def SYS_MODE_STAT_ROMPROF : Fld := ⟨(SYS_MODE_STAT).addr, 25, 22⟩
def SYS_MODE_STAT_PROFILE : Fld := ⟨(SYS_MODE_STAT).addr, 21, 21⟩
def SYS_MODE_STAT_LIMIT : Fld := ⟨(SYS_MODE_STAT).addr, 20, 20⟩
def SYS_MODE_STAT_ST_LEGACY : Fld := ⟨(SYS_MODE_STAT).addr, 19, 18⟩
def SYS_MODE_STAT_ST_TEST : Fld := ⟨(SYS_MODE_STAT).addr, 17, 16⟩
def SYS_MODE_STAT_ST_NIGHTVAR : Fld := ⟨(SYS_MODE_STAT).addr, 15, 14⟩
def SYS_MODE_STAT_ST_CURTAIL : Fld := ⟨(SYS_MODE_STAT).addr, 13, 12⟩
def SYS_MODE_STAT_CAUSE : Fld := ⟨(SYS_MODE_STAT).addr, 11, 8⟩
def SYS_MODE_STAT_REQ : Fld := ⟨(SYS_MODE_STAT).addr, 7, 6⟩
def SYS_MODE_STAT_PREV : Fld := ⟨(SYS_MODE_STAT).addr, 5, 3⟩
def SYS_MODE_STAT_MODE : Fld := ⟨(SYS_MODE_STAT).addr, 2, 0⟩
def SYS_MODE_CFG : Fld := ⟨0x4000104C, 31, 0⟩
def SYS_MODE_CFG_OVR_HALT : Fld := ⟨(SYS_MODE_CFG).addr, 11, 8⟩
def SYS_MODE_CFG_AUTO_START : Fld := ⟨(SYS_MODE_CFG).addr, 2, 2⟩
def SYS_MODE_CFG_BS_INHIBIT : Fld := ⟨(SYS_MODE_CFG).addr, 1, 1⟩
def SYS_MODE_CFG_ISLAND_CEASE : Fld := ⟨(SYS_MODE_CFG).addr, 0, 0⟩
def SYS_TICK_CFG : Fld := ⟨0x40001050, 31, 0⟩
def SYS_TICK_CFG_PROFILE : Fld := ⟨(SYS_TICK_CFG).addr, 0, 0⟩
def SYS_TICK_OVR : Fld := ⟨0x40001054, 31, 0⟩
def SYS_TICK_OVR_OVR : Fld := ⟨(SYS_TICK_OVR).addr, 24, 24⟩
def SYS_TICK_OVR_CONSEC : Fld := ⟨(SYS_TICK_OVR).addr, 23, 16⟩
def SYS_TICK_OVR_COUNT : Fld := ⟨(SYS_TICK_OVR).addr, 15, 0⟩
def SYS_DCWIN : Fld := ⟨0x40001058, 31, 0⟩
def SYS_DCWIN_VMAX : Fld := ⟨(SYS_DCWIN).addr, 31, 16⟩
def SYS_DCWIN_VMIN : Fld := ⟨(SYS_DCWIN).addr, 15, 0⟩
def LEG_CTL (n : Nat) : Fld := ⟨0x40100040 + 0x1000 * n, 31, 0⟩
def LEG_CTL_GROUP (n : Nat) : Fld := ⟨(LEG_CTL n).addr, 31, 28⟩
def LEG_CTL_INJ (n : Nat) : Fld := ⟨(LEG_CTL n).addr, 15, 15⟩
def LEG_CTL_OUTPUT (n : Nat) : Fld := ⟨(LEG_CTL n).addr, 11, 11⟩
def LEG_CTL_INDEP (n : Nat) : Fld := ⟨(LEG_CTL n).addr, 10, 10⟩
def LEG_CTL_CARRIER (n : Nat) : Fld := ⟨(LEG_CTL n).addr, 9, 9⟩
def LEG_CTL_UPD (n : Nat) : Fld := ⟨(LEG_CTL n).addr, 8, 8⟩
def LEG_CTL_SRC (n : Nat) : Fld := ⟨(LEG_CTL n).addr, 4, 4⟩
def LEG_CTL_EN (n : Nat) : Fld := ⟨(LEG_CTL n).addr, 0, 0⟩
def LEG_PER (n : Nat) : Fld := ⟨0x40100044 + 0x1000 * n, 31, 0⟩
def LEG_PER_PHASE (n : Nat) : Fld := ⟨(LEG_PER n).addr, 30, 8⟩
def LEG_PER_PER_TICKS (n : Nat) : Fld := ⟨(LEG_PER n).addr, 6, 0⟩
def LEG_DUTY (n : Nat) : Fld := ⟨0x40100048 + 0x1000 * n, 31, 0⟩
def LEG_DUTY_DUTY (n : Nat) : Fld := ⟨(LEG_DUTY n).addr, 25, 0⟩
def LEG_DUTYL (n : Nat) : Fld := ⟨0x4010004C + 0x1000 * n, 31, 0⟩
def LEG_DUTYL_DUTYL (n : Nat) : Fld := ⟨(LEG_DUTYL n).addr, 25, 0⟩
def LEG_DEAD (n : Nat) : Fld := ⟨0x40100050 + 0x1000 * n, 31, 0⟩
def LEG_DEAD_DEAD (n : Nat) : Fld := ⟨(LEG_DEAD n).addr, 15, 0⟩
def LEG_MINPW (n : Nat) : Fld := ⟨0x40100054 + 0x1000 * n, 31, 0⟩
def LEG_MINPW_MINPW (n : Nat) : Fld := ⟨(LEG_MINPW n).addr, 15, 0⟩
def LEG_FORCE (n : Nat) : Fld := ⟨0x40100058 + 0x1000 * n, 31, 0⟩
def LEG_FORCE_MODE (n : Nat) : Fld := ⟨(LEG_FORCE n).addr, 1, 0⟩
def LEG_SAMPLE (n : Nat) : Fld := ⟨0x4010005C + 0x1000 * n, 31, 0⟩
def LEG_SAMPLE_EN (n : Nat) : Fld := ⟨(LEG_SAMPLE n).addr, 31, 31⟩
def LEG_SAMPLE_POINT (n : Nat) : Fld := ⟨(LEG_SAMPLE n).addr, 30, 30⟩
def LEG_SAMPLE_WIN (n : Nat) : Fld := ⟨(LEG_SAMPLE n).addr, 15, 0⟩
def LEG_STAT (n : Nat) : Fld := ⟨0x40100060 + 0x1000 * n, 31, 0⟩
def LEG_STAT_RUN (n : Nat) : Fld := ⟨(LEG_STAT n).addr, 11, 11⟩
def LEG_STAT_TABLE (n : Nat) : Fld := ⟨(LEG_STAT n).addr, 10, 10⟩
def LEG_STAT_FORCED (n : Nat) : Fld := ⟨(LEG_STAT n).addr, 9, 9⟩
def LEG_STAT_HELD (n : Nat) : Fld := ⟨(LEG_STAT n).addr, 6, 6⟩
def LEG_STAT_BOTH_ON (n : Nat) : Fld := ⟨(LEG_STAT n).addr, 5, 5⟩
def LEG_STAT_DROP (n : Nat) : Fld := ⟨(LEG_STAT n).addr, 4, 4⟩
def LEG_STAT_SKIP (n : Nat) : Fld := ⟨(LEG_STAT n).addr, 3, 3⟩
def LEG_STAT_MODLIM (n : Nat) : Fld := ⟨(LEG_STAT n).addr, 2, 2⟩
def LEG_STAT_LATE (n : Nat) : Fld := ⟨(LEG_STAT n).addr, 1, 1⟩
def LEG_STAT_SAT (n : Nat) : Fld := ⟨(LEG_STAT n).addr, 0, 0⟩
def LEG_CNT (n : Nat) : Fld := ⟨0x40100064 + 0x1000 * n, 31, 0⟩
def LEG_CNT_MODLIM (n : Nat) : Fld := ⟨(LEG_CNT n).addr, 31, 16⟩
def LEG_CNT_DROPS (n : Nat) : Fld := ⟨(LEG_CNT n).addr, 15, 0⟩
def AUXT_CTL (n : Nat) : Fld := ⟨0x40140040 + 0x1000 * n, 31, 0⟩
def AUXT_CTL_GROUP (n : Nat) : Fld := ⟨(AUXT_CTL n).addr, 31, 28⟩
def AUXT_CTL_CARRIER (n : Nat) : Fld := ⟨(AUXT_CTL n).addr, 9, 9⟩
def AUXT_CTL_SRC (n : Nat) : Fld := ⟨(AUXT_CTL n).addr, 4, 4⟩
def AUXT_CTL_EN (n : Nat) : Fld := ⟨(AUXT_CTL n).addr, 0, 0⟩
def AUXT_PER (n : Nat) : Fld := ⟨0x40140044 + 0x1000 * n, 31, 0⟩
def AUXT_PER_PER (n : Nat) : Fld := ⟨(AUXT_PER n).addr, 19, 0⟩
def AUXT_CMP (n : Nat) : Fld := ⟨0x40140048 + 0x1000 * n, 31, 0⟩
def AUXT_CMP_CMP (n : Nat) : Fld := ⟨(AUXT_CMP n).addr, 20, 0⟩
def AUXT_DEAD (n : Nat) : Fld := ⟨0x4014004C + 0x1000 * n, 31, 0⟩
def AUXT_DEAD_CONF_TO (n : Nat) : Fld := ⟨(AUXT_DEAD n).addr, 27, 16⟩
def AUXT_DEAD_DEAD (n : Nat) : Fld := ⟨(AUXT_DEAD n).addr, 11, 0⟩
def AUXT_STAT (n : Nat) : Fld := ⟨0x40140054 + 0x1000 * n, 31, 0⟩
def AUXT_STAT_AUXOFF (n : Nat) : Fld := ⟨(AUXT_STAT n).addr, 8, 8⟩
def AUXT_STAT_FORCED (n : Nat) : Fld := ⟨(AUXT_STAT n).addr, 7, 7⟩
def AUXT_STAT_CONF (n : Nat) : Fld := ⟨(AUXT_STAT n).addr, 6, 6⟩
def AUXT_STAT_BOTH_ON (n : Nat) : Fld := ⟨(AUXT_STAT n).addr, 5, 5⟩
def AUXT_STAT_DROP (n : Nat) : Fld := ⟨(AUXT_STAT n).addr, 4, 4⟩
def AUXT_STAT_LATE (n : Nat) : Fld := ⟨(AUXT_STAT n).addr, 1, 1⟩
def AUXT_STAT_SAT (n : Nat) : Fld := ⟨(AUXT_STAT n).addr, 0, 0⟩
def COM_HOLD : Fld := ⟨0x40154040, 31, 0⟩
def COM_HOLD_HOLD : Fld := ⟨(COM_HOLD).addr, 15, 0⟩
def COM_COMMIT : Fld := ⟨0x40154044, 31, 0⟩
def COM_COMMIT_COMMIT : Fld := ⟨(COM_COMMIT).addr, 15, 0⟩
def COM_CSTAT : Fld := ⟨0x40154048, 31, 0⟩
def COM_CSTAT_PEND : Fld := ⟨(COM_CSTAT).addr, 31, 16⟩
def COM_CSTAT_LATE : Fld := ⟨(COM_CSTAT).addr, 15, 0⟩
def COM_SET : Fld := ⟨0x4015404C, 31, 0⟩
def COM_SET_BUILD : Fld := ⟨(COM_SET).addr, 31, 16⟩
def COM_SET_SEQ : Fld := ⟨(COM_SET).addr, 15, 8⟩
def COM_SET_LEGS : Fld := ⟨(COM_SET).addr, 6, 0⟩
def LINK_CTL (n : Nat) : Fld := ⟨0x40200040 + 0x1000 * n, 31, 0⟩
def LINK_CTL_TAG_TO (n : Nat) : Fld := ⟨(LINK_CTL n).addr, 31, 24⟩
def LINK_CTL_LOOP (n : Nat) : Fld := ⟨(LINK_CTL n).addr, 18, 16⟩
def LINK_CTL_RETRAIN (n : Nat) : Fld := ⟨(LINK_CTL n).addr, 3, 3⟩
def LINK_CTL_AUTORT (n : Nat) : Fld := ⟨(LINK_CTL n).addr, 2, 2⟩
def LINK_CTL_EN (n : Nat) : Fld := ⟨(LINK_CTL n).addr, 0, 0⟩
def LINK_STAT (n : Nat) : Fld := ⟨0x40200044 + 0x1000 * n, 31, 0⟩
def LINK_STAT_FAILCNT (n : Nat) : Fld := ⟨(LINK_STAT n).addr, 27, 24⟩
def LINK_STAT_LASTFAIL (n : Nat) : Fld := ⟨(LINK_STAT n).addr, 23, 20⟩
def LINK_STAT_LOSSES (n : Nat) : Fld := ⟨(LINK_STAT n).addr, 15, 8⟩
def LINK_STAT_LATSHIFT (n : Nat) : Fld := ⟨(LINK_STAT n).addr, 7, 7⟩
def LINK_STAT_LOSS (n : Nat) : Fld := ⟨(LINK_STAT n).addr, 6, 6⟩
def LINK_STAT_UP (n : Nat) : Fld := ⟨(LINK_STAT n).addr, 5, 5⟩
def LINK_STAT_STATE (n : Nat) : Fld := ⟨(LINK_STAT n).addr, 2, 0⟩
def LINK_LAT (n : Nat) : Fld := ⟨0x40200048 + 0x1000 * n, 31, 0⟩
def LINK_LAT_DDOWN (n : Nat) : Fld := ⟨(LINK_LAT n).addr, 31, 16⟩
def LINK_LAT_RTT (n : Nat) : Fld := ⟨(LINK_LAT n).addr, 15, 0⟩
def LINK_LATCFG (n : Nat) : Fld := ⟨0x4020004C + 0x1000 * n, 31, 0⟩
def LINK_LATCFG_SHIFT_MAX (n : Nat) : Fld := ⟨(LINK_LATCFG n).addr, 23, 16⟩
def LINK_LATCFG_ASYM (n : Nat) : Fld := ⟨(LINK_LATCFG n).addr, 15, 0⟩
def LINK_LATTRN (n : Nat) : Fld := ⟨0x40200050 + 0x1000 * n, 31, 0⟩
def LINK_LATTRN_DTRAIN (n : Nat) : Fld := ⟨(LINK_LATTRN n).addr, 15, 0⟩
def LINK_TAPS (n : Nat) : Fld := ⟨0x40200054 + 0x1000 * n, 31, 0⟩
def LINK_TAPS_LANE1 (n : Nat) : Fld := ⟨(LINK_TAPS n).addr, 30, 16⟩
def LINK_TAPS_LANE0 (n : Nat) : Fld := ⟨(LINK_TAPS n).addr, 14, 0⟩
def LINK_CRC (n : Nat) : Fld := ⟨0x40200058 + 0x1000 * n, 31, 0⟩
def LINK_CRC_UD1 (n : Nat) : Fld := ⟨(LINK_CRC n).addr, 31, 16⟩
def LINK_CRC_UD0 (n : Nat) : Fld := ⟨(LINK_CRC n).addr, 15, 0⟩
def LINK_PRBS0 (n : Nat) : Fld := ⟨0x4020005C + 0x1000 * n, 31, 0⟩
def LINK_PRBS1 (n : Nat) : Fld := ⟨0x40200060 + 0x1000 * n, 31, 0⟩
def LINK_LOOPERR (n : Nat) : Fld := ⟨0x40200064 + 0x1000 * n, 31, 0⟩
def LINK_ERR (n : Nat) : Fld := ⟨0x40200068 + 0x1000 * n, 31, 0⟩
def LINK_ERR_SAMPLE_ERR (n : Nat) : Fld := ⟨(LINK_ERR n).addr, 31, 24⟩
def LINK_ERR_INVALID (n : Nat) : Fld := ⟨(LINK_ERR n).addr, 23, 16⟩
def LINK_ERR_LATE (n : Nat) : Fld := ⟨(LINK_ERR n).addr, 15, 8⟩
def LINK_ERR_REJECT (n : Nat) : Fld := ⟨(LINK_ERR n).addr, 7, 0⟩
def LINK_CNTCLR (n : Nat) : Fld := ⟨0x4020006C + 0x1000 * n, 31, 0⟩
def LINK_CNTCLR_CLR (n : Nat) : Fld := ⟨(LINK_CNTCLR n).addr, 3, 0⟩
def LINK_TAGS (n : Nat) : Fld := ⟨0x40200070 + 0x1000 * n, 31, 0⟩
def LINK_TAGQ (n : Nat) : Fld := ⟨0x40200074 + 0x1000 * n, 31, 0⟩
def LINK_LEGSTAT (n : Nat) (m : Nat) : Fld := ⟨0x40200080 + 0x1000 * n + 0x8 * m, 31, 0⟩
def LINK_LEGSTAT_SEQ (n : Nat) (m : Nat) : Fld := ⟨(LINK_LEGSTAT n m).addr, 23, 16⟩
def LINK_LEGSTAT_FLAGS (n : Nat) (m : Nat) : Fld := ⟨(LINK_LEGSTAT n m).addr, 13, 0⟩
def LINK_LEGTIME (n : Nat) (m : Nat) : Fld := ⟨0x40200084 + 0x1000 * n + 0x8 * m, 31, 0⟩
def LINK_LEGTIME_TIME (n : Nat) (m : Nat) : Fld := ⟨(LINK_LEGTIME n m).addr, 23, 0⟩
def PROT_CFG (n : Nat) (m : Nat) : Fld := ⟨0x40210040 + 0x1000 * n + 0x20 * m, 31, 0⟩
def PROT_CFG_PGRP (n : Nat) (m : Nat) : Fld := ⟨(PROT_CFG n m).addr, 31, 28⟩
def PROT_CFG_INJ (n : Nat) (m : Nat) : Fld := ⟨(PROT_CFG n m).addr, 1, 1⟩
def PROT_CFG_REACT (n : Nat) (m : Nat) : Fld := ⟨(PROT_CFG n m).addr, 0, 0⟩
def PROT_LATCH (n : Nat) (m : Nat) : Fld := ⟨0x40210044 + 0x1000 * n + 0x20 * m, 31, 0⟩
def PROT_LATCH_FIRST (n : Nat) (m : Nat) : Fld := ⟨(PROT_LATCH n m).addr, 31, 28⟩
def PROT_LATCH_CLR_PEND (n : Nat) (m : Nat) : Fld := ⟨(PROT_LATCH n m).addr, 17, 17⟩
def PROT_LATCH_CLR_REFUSED (n : Nat) (m : Nat) : Fld := ⟨(PROT_LATCH n m).addr, 16, 16⟩
def PROT_LATCH_TRIPPED (n : Nat) (m : Nat) : Fld := ⟨(PROT_LATCH n m).addr, 8, 8⟩
def PROT_LATCH_INJ (n : Nat) (m : Nat) : Fld := ⟨(PROT_LATCH n m).addr, 7, 7⟩
def PROT_LATCH_PUSH (n : Nat) (m : Nat) : Fld := ⟨(PROT_LATCH n m).addr, 6, 6⟩
def PROT_LATCH_LINK (n : Nat) (m : Nat) : Fld := ⟨(PROT_LATCH n m).addr, 5, 5⟩
def PROT_LATCH_CONF (n : Nat) (m : Nat) : Fld := ⟨(PROT_LATCH n m).addr, 4, 4⟩
def PROT_LATCH_DESAT (n : Nat) (m : Nat) : Fld := ⟨(PROT_LATCH n m).addr, 3, 3⟩
def PROT_LATCH_SHUNT (n : Nat) (m : Nat) : Fld := ⟨(PROT_LATCH n m).addr, 2, 2⟩
def PROT_LATCH_UV_L (n : Nat) (m : Nat) : Fld := ⟨(PROT_LATCH n m).addr, 1, 1⟩
def PROT_LATCH_UV_H (n : Nat) (m : Nat) : Fld := ⟨(PROT_LATCH n m).addr, 0, 0⟩
def PROT_LIM0 (n : Nat) (m : Nat) : Fld := ⟨0x40210048 + 0x1000 * n + 0x20 * m, 31, 0⟩
def PROT_LIM0_SHUNT (n : Nat) (m : Nat) : Fld := ⟨(PROT_LIM0 n m).addr, 31, 16⟩
def PROT_LIM0_UVTH (n : Nat) (m : Nat) : Fld := ⟨(PROT_LIM0 n m).addr, 15, 0⟩
def PROT_LIM1 (n : Nat) (m : Nat) : Fld := ⟨0x4021004C + 0x1000 * n + 0x20 * m, 31, 0⟩
def PROT_LIM1_DFILT (n : Nat) (m : Nat) : Fld := ⟨(PROT_LIM1 n m).addr, 31, 16⟩
def PROT_LIM1_BLANK (n : Nat) (m : Nat) : Fld := ⟨(PROT_LIM1 n m).addr, 15, 0⟩
def PROT_LIM2 (n : Nat) (m : Nat) : Fld := ⟨0x40210050 + 0x1000 * n + 0x20 * m, 31, 0⟩
def PROT_LIM2_DTHR (n : Nat) (m : Nat) : Fld := ⟨(PROT_LIM2 n m).addr, 15, 0⟩
def PROT_SUM (n : Nat) : Fld := ⟨0x40210140 + 0x1000 * n, 31, 0⟩
def PROT_SUM_PUSHED (n : Nat) : Fld := ⟨(PROT_SUM n).addr, 15, 8⟩
def PROT_SUM_TRIPPED (n : Nat) : Fld := ⟨(PROT_SUM n).addr, 7, 0⟩
def TRIP_CTL : Fld := ⟨0x40218040, 31, 0⟩
def TRIP_CTL_SOFT_T : Fld := ⟨(TRIP_CTL).addr, 15, 0⟩
def TRIP_STAT : Fld := ⟨0x40218044, 31, 0⟩
def TRIP_STAT_GRP : Fld := ⟨(TRIP_STAT).addr, 15, 12⟩
def TRIP_STAT_CAUSE : Fld := ⟨(TRIP_STAT).addr, 11, 8⟩
def TRIP_STAT_GEN_REQ : Fld := ⟨(TRIP_STAT).addr, 2, 2⟩
def TRIP_STAT_CLR_REFUSED : Fld := ⟨(TRIP_STAT).addr, 1, 1⟩
def TRIP_STAT_ALLOFF : Fld := ⟨(TRIP_STAT).addr, 0, 0⟩
def TRIP_LEGS_LO : Fld := ⟨0x40218048, 31, 0⟩
def TRIP_LEGS_HI : Fld := ⟨0x4021804C, 31, 0⟩
def TCH_CFG (m : Nat) : Fld := ⟨0x40218080 + 0x20 * m, 31, 0⟩
def TCH_CFG_FILT (m : Nat) : Fld := ⟨(TCH_CFG m).addr, 25, 16⟩
def TCH_CFG_POL (m : Nat) : Fld := ⟨(TCH_CFG m).addr, 2, 2⟩
def TCH_CFG_REACT (m : Nat) : Fld := ⟨(TCH_CFG m).addr, 1, 1⟩
def TCH_CFG_EN (m : Nat) : Fld := ⟨(TCH_CFG m).addr, 0, 0⟩
def TCH_LEGLO (m : Nat) : Fld := ⟨0x40218084 + 0x20 * m, 31, 0⟩
def TCH_LEGHI (m : Nat) : Fld := ⟨0x40218088 + 0x20 * m, 31, 0⟩
def TCH_CMPLO (m : Nat) : Fld := ⟨0x4021808C + 0x20 * m, 31, 0⟩
def TCH_CMPHI (m : Nat) : Fld := ⟨0x40218090 + 0x20 * m, 31, 0⟩
def TCH_CMPHI_CMP (m : Nat) : Fld := ⟨(TCH_CMPHI m).addr, 15, 0⟩
def TCH_STAT (m : Nat) : Fld := ⟨0x40218094 + 0x20 * m, 31, 0⟩
def TCH_STAT_PIN (m : Nat) : Fld := ⟨(TCH_STAT m).addr, 3, 3⟩
def TCH_STAT_ACTIVE (m : Nat) : Fld := ⟨(TCH_STAT m).addr, 2, 2⟩
def TCH_STAT_CLR_REFUSED (m : Nat) : Fld := ⟨(TCH_STAT m).addr, 1, 1⟩
def TCH_STAT_LATCH (m : Nat) : Fld := ⟨(TCH_STAT m).addr, 0, 0⟩
def TRIP_PG_CFG : Fld := ⟨0x40218180, 31, 0⟩
def TRIP_PG_CFG_ONDLY : Fld := ⟨(TRIP_PG_CFG).addr, 23, 16⟩
def TRIP_PG_CFG_CMP : Fld := ⟨(TRIP_PG_CFG).addr, 7, 2⟩
def TRIP_PG_CFG_EN : Fld := ⟨(TRIP_PG_CFG).addr, 0, 0⟩
def TRIP_PG_STAT : Fld := ⟨0x40218184, 31, 0⟩
def TRIP_PG_STAT_WIN : Fld := ⟨(TRIP_PG_STAT).addr, 5, 4⟩
def TRIP_PG_STAT_CLR_REFUSED : Fld := ⟨(TRIP_PG_STAT).addr, 3, 3⟩
def TRIP_PG_STAT_HIGH : Fld := ⟨(TRIP_PG_STAT).addr, 2, 2⟩
def TRIP_PG_STAT_LOW : Fld := ⟨(TRIP_PG_STAT).addr, 1, 1⟩
def TRIP_PG_STAT_ON : Fld := ⟨(TRIP_PG_STAT).addr, 0, 0⟩
def LOCUS_CTL : Fld := ⟨0x40400040, 31, 0⟩
def LOCUS_CTL_NOMF : Fld := ⟨(LOCUS_CTL).addr, 3, 2⟩
def LOCUS_CTL_PQSRC : Fld := ⟨(LOCUS_CTL).addr, 1, 1⟩
def LOCUS_CTL_EN : Fld := ⟨(LOCUS_CTL).addr, 0, 0⟩
def LOCUS_SRC : Fld := ⟨0x40400044, 31, 0⟩
def LOCUS_SRC_VDC : Fld := ⟨(LOCUS_SRC).addr, 29, 24⟩
def LOCUS_SRC_VC : Fld := ⟨(LOCUS_SRC).addr, 21, 16⟩
def LOCUS_SRC_VB : Fld := ⟨(LOCUS_SRC).addr, 13, 8⟩
def LOCUS_SRC_VA : Fld := ⟨(LOCUS_SRC).addr, 5, 0⟩
def LOCUS_PMAP : Fld := ⟨0x40400048, 31, 0⟩
def LOCUS_PMAP_MAP : Fld := ⟨(LOCUS_PMAP).addr, 15, 0⟩
def LOCUS_KV : Fld := ⟨0x4040004C, 31, 0⟩
def LOCUS_KI : Fld := ⟨0x40400050, 31, 0⟩
def LOCUS_KDC : Fld := ⟨0x40400054, 31, 0⟩
def LOCUS_OBS : Fld := ⟨0x40400058, 31, 0⟩
def LOCUS_OBS_GAMMA : Fld := ⟨(LOCUS_OBS).addr, 31, 16⟩
def LOCUS_OBS_K : Fld := ⟨(LOCUS_OBS).addr, 7, 0⟩
def LOCUS_LOCK : Fld := ⟨0x4040005C, 31, 0⟩
def LOCUS_LOCK_VMIN : Fld := ⟨(LOCUS_LOCK).addr, 31, 24⟩
def LOCUS_LOCK_LOCK_T : Fld := ⟨(LOCUS_LOCK).addr, 23, 16⟩
def LOCUS_LOCK_JUMP_TH : Fld := ⟨(LOCUS_LOCK).addr, 15, 8⟩
def LOCUS_LOCK_LOCK_TH : Fld := ⟨(LOCUS_LOCK).addr, 7, 0⟩
def LOCUS_VSM0 : Fld := ⟨0x40400060, 31, 0⟩
def LOCUS_VSM0_D : Fld := ⟨(LOCUS_VSM0).addr, 31, 16⟩
def LOCUS_VSM0_H : Fld := ⟨(LOCUS_VSM0).addr, 15, 0⟩
def LOCUS_VSM1 : Fld := ⟨0x40400064, 31, 0⟩
def LOCUS_VSM1_KQ : Fld := ⟨(LOCUS_VSM1).addr, 31, 16⟩
def LOCUS_VSM1_XV : Fld := ⟨(LOCUS_VSM1).addr, 15, 0⟩
def LOCUS_VSM2 : Fld := ⟨0x40400068, 31, 0⟩
def LOCUS_VSM2_RF : Fld := ⟨(LOCUS_VSM2).addr, 15, 0⟩
def LOCUS_DPC : Fld := ⟨0x4040006C, 31, 0⟩
def LOCUS_DPC_HQ : Fld := ⟨(LOCUS_DPC).addr, 31, 16⟩
def LOCUS_DPC_HP : Fld := ⟨(LOCUS_DPC).addr, 15, 0⟩
def LOCUS_VF : Fld := ⟨0x40400070, 31, 0⟩
def LOCUS_VF_TLEAK : Fld := ⟨(LOCUS_VF).addr, 23, 16⟩
def LOCUS_VF_LF : Fld := ⟨(LOCUS_VF).addr, 15, 0⟩
def LOCUS_PSET : Fld := ⟨0x40400074, 31, 0⟩
def LOCUS_QSET : Fld := ⟨0x40400078, 31, 0⟩
def LOCUS_TEST : Fld := ⟨0x4040007C, 31, 0⟩
def LOCUS_TEST_JUMP : Fld := ⟨(LOCUS_TEST).addr, 15, 0⟩
def LOCUS_STAT : Fld := ⟨0x40400080, 31, 0⟩
def LOCUS_STAT_LOSSES : Fld := ⟨(LOCUS_STAT).addr, 23, 16⟩
def LOCUS_STAT_RET : Fld := ⟨(LOCUS_STAT).addr, 15, 15⟩
def LOCUS_STAT_VEC : Fld := ⟨(LOCUS_STAT).addr, 14, 12⟩
def LOCUS_STAT_SECTOR : Fld := ⟨(LOCUS_STAT).addr, 11, 8⟩
def LOCUS_STAT_SQ : Fld := ⟨(LOCUS_STAT).addr, 7, 7⟩
def LOCUS_STAT_SP : Fld := ⟨(LOCUS_STAT).addr, 6, 6⟩
def LOCUS_STAT_LIMIT : Fld := ⟨(LOCUS_STAT).addr, 5, 5⟩
def LOCUS_STAT_NOMVALID : Fld := ⟨(LOCUS_STAT).addr, 4, 4⟩
def LOCUS_STAT_NOMSEL : Fld := ⟨(LOCUS_STAT).addr, 3, 3⟩
def LOCUS_STAT_STATE : Fld := ⟨(LOCUS_STAT).addr, 2, 0⟩
def LOCUS_TICK : Fld := ⟨0x40400084, 31, 0⟩
def LOCUS_TICK_TICK : Fld := ⟨(LOCUS_TICK).addr, 23, 0⟩
def LOCUS_THETA : Fld := ⟨0x40400088, 31, 0⟩
def LOCUS_FREQ : Fld := ⟨0x4040008C, 31, 0⟩
def LOCUS_ROCOF : Fld := ⟨0x40400090, 31, 0⟩
def LOCUS_VPOS : Fld := ⟨0x40400094, 31, 0⟩
def LOCUS_VNEG : Fld := ⟨0x40400098, 31, 0⟩
def LOCUS_VPH : Fld := ⟨0x4040009C, 31, 0⟩
def LOCUS_VPH_VMAX : Fld := ⟨(LOCUS_VPH).addr, 31, 16⟩
def LOCUS_VPH_VMIN : Fld := ⟨(LOCUS_VPH).addr, 15, 0⟩
def LOCUS_P : Fld := ⟨0x404000A0, 31, 0⟩
def LOCUS_Q : Fld := ⟨0x404000A4, 31, 0⟩
def LOCUS_HOLDF : Fld := ⟨0x404000A8, 31, 0⟩
def LOCUS_LOSS : Fld := ⟨0x404000AC, 31, 0⟩
def LOCUS_LOSS_CLAMP : Fld := ⟨(LOCUS_LOSS).addr, 10, 10⟩
def LOCUS_LOSS_LOWV : Fld := ⟨(LOCUS_LOSS).addr, 9, 9⟩
def LOCUS_LOSS_JUMP : Fld := ⟨(LOCUS_LOSS).addr, 8, 8⟩
def LOCUS_LOSS_ERR : Fld := ⟨(LOCUS_LOSS).addr, 7, 0⟩
def RT_CTL : Fld := ⟨0x40401040, 31, 0⟩
def RT_CTL_ILIM : Fld := ⟨(RT_CTL).addr, 15, 0⟩
def RT_RIDE : Fld := ⟨0x40401044, 31, 0⟩
def RT_RIDE_RAMP : Fld := ⟨(RT_RIDE).addr, 31, 24⟩
def RT_RIDE_RET_T : Fld := ⟨(RT_RIDE).addr, 23, 16⟩
def RT_RIDE_KQR : Fld := ⟨(RT_RIDE).addr, 15, 0⟩
def RT_STAT : Fld := ⟨0x40401048, 31, 0⟩
def RT_STAT_ELAPSED : Fld := ⟨(RT_STAT).addr, 31, 16⟩
def RT_STAT_CEASE : Fld := ⟨(RT_STAT).addr, 4, 4⟩
def RT_STAT_REGION : Fld := ⟨(RT_STAT).addr, 3, 0⟩
def RT_REG (m : Nat) : Fld := ⟨0x40401080 + 0x4 * m, 31, 0⟩
def RT_REG_MAX (m : Nat) : Fld := ⟨(RT_REG m).addr, 31, 20⟩
def RT_REG_TYPE (m : Nat) : Fld := ⟨(RT_REG m).addr, 17, 16⟩
def RT_REG_BOUND (m : Nat) : Fld := ⟨(RT_REG m).addr, 15, 0⟩
def RT_TIME (m : Nat) : Fld := ⟨0x404010A0 + 0x4 * m, 31, 0⟩
def RT_TIME_ELAPSED (m : Nat) : Fld := ⟨(RT_TIME m).addr, 11, 0⟩
def GC_CTL : Fld := ⟨0x40402040, 31, 0⟩
def GC_CTL_VREF_AUTO : Fld := ⟨(GC_CTL).addr, 7, 7⟩
def GC_CTL_FW_EN : Fld := ⟨(GC_CTL).addr, 6, 6⟩
def GC_CTL_VW_EN : Fld := ⟨(GC_CTL).addr, 5, 5⟩
def GC_CTL_QPRIO : Fld := ⟨(GC_CTL).addr, 4, 4⟩
def GC_CTL_PSRC : Fld := ⟨(GC_CTL).addr, 3, 3⟩
def GC_CTL_QMODE : Fld := ⟨(GC_CTL).addr, 2, 1⟩
def GC_CTL_EN : Fld := ⟨(GC_CTL).addr, 0, 0⟩
def GC_PREQ : Fld := ⟨0x40402044, 31, 0⟩
def GC_QREQ : Fld := ⟨0x40402048, 31, 0⟩
def GC_PF : Fld := ⟨0x4040204C, 31, 0⟩
def GC_PF_DIR : Fld := ⟨(GC_PF).addr, 16, 16⟩
def GC_PF_PF : Fld := ⟨(GC_PF).addr, 15, 0⟩
def GC_CURT : Fld := ⟨0x40402050, 31, 0⟩
def GC_CURT_CURT : Fld := ⟨(GC_CURT).addr, 15, 0⟩
def GC_SMAX : Fld := ⟨0x40402054, 31, 0⟩
def GC_SMAX_SMAX : Fld := ⟨(GC_SMAX).addr, 15, 0⟩
def GC_VV (m : Nat) : Fld := ⟨0x40402060 + 0x4 * m, 31, 0⟩
def GC_VV_V (m : Nat) : Fld := ⟨(GC_VV m).addr, 31, 16⟩
def GC_VV_Q (m : Nat) : Fld := ⟨(GC_VV m).addr, 15, 0⟩
def GC_VVT : Fld := ⟨0x40402070, 31, 0⟩
def GC_VVT_VREF_T : Fld := ⟨(GC_VVT).addr, 31, 16⟩
def GC_VVT_TRESP : Fld := ⟨(GC_VVT).addr, 15, 0⟩
def GC_VREF : Fld := ⟨0x40402074, 31, 0⟩
def GC_VREF_VREF : Fld := ⟨(GC_VREF).addr, 15, 0⟩
def GC_VW : Fld := ⟨0x40402078, 31, 0⟩
def GC_VW_V1 : Fld := ⟨(GC_VW).addr, 31, 16⟩
def GC_VW_V2 : Fld := ⟨(GC_VW).addr, 15, 0⟩
def GC_VW2 : Fld := ⟨0x4040207C, 31, 0⟩
def GC_VW2_P2 : Fld := ⟨(GC_VW2).addr, 31, 16⟩
def GC_VW2_TRESP : Fld := ⟨(GC_VW2).addr, 15, 0⟩
def GC_FW : Fld := ⟨0x40402080, 31, 0⟩
def GC_FW_DB : Fld := ⟨(GC_FW).addr, 31, 16⟩
def GC_FW_K : Fld := ⟨(GC_FW).addr, 15, 0⟩
def GC_FW2 : Fld := ⟨0x40402084, 31, 0⟩
def GC_FW2_PMIN : Fld := ⟨(GC_FW2).addr, 31, 16⟩
def GC_FW2_TRESP : Fld := ⟨(GC_FW2).addr, 15, 0⟩
def GC_STAT : Fld := ⟨0x40402090, 31, 0⟩
def GC_STAT_CEASE : Fld := ⟨(GC_STAT).addr, 4, 4⟩
def GC_STAT_SLIM : Fld := ⟨(GC_STAT).addr, 3, 3⟩
def GC_STAT_CURT_ACT : Fld := ⟨(GC_STAT).addr, 2, 2⟩
def GC_STAT_VW_ACT : Fld := ⟨(GC_STAT).addr, 1, 1⟩
def GC_STAT_FW_ACT : Fld := ⟨(GC_STAT).addr, 0, 0⟩
def GC_PPRE : Fld := ⟨0x40402094, 31, 0⟩
def ISL_CTL : Fld := ⟨0x40403040, 31, 0⟩
def ISL_CTL_SLOT_ID : Fld := ⟨(ISL_CTL).addr, 11, 8⟩
def ISL_CTL_INJ : Fld := ⟨(ISL_CTL).addr, 4, 4⟩
def ISL_CTL_SOLO : Fld := ⟨(ISL_CTL).addr, 3, 3⟩
def ISL_CTL_ROCOF_EN : Fld := ⟨(ISL_CTL).addr, 2, 2⟩
def ISL_CTL_ACT_EN : Fld := ⟨(ISL_CTL).addr, 1, 1⟩
def ISL_CTL_PASV_EN : Fld := ⟨(ISL_CTL).addr, 0, 0⟩
def ISL_SLOT : Fld := ⟨0x40403044, 31, 0⟩
def ISL_SLOT_OCC : Fld := ⟨(ISL_SLOT).addr, 31, 16⟩
def ISL_SLOT_NSLOT_M1 : Fld := ⟨(ISL_SLOT).addr, 15, 12⟩
def ISL_SLOT_SLOT_MS : Fld := ⟨(ISL_SLOT).addr, 9, 0⟩
def ISL_PERT : Fld := ⟨0x40403048, 31, 0⟩
def ISL_PERT_DQ : Fld := ⟨(ISL_PERT).addr, 15, 0⟩
def ISL_ACT : Fld := ⟨0x4040304C, 31, 0⟩
def ISL_ACT_DF_TH : Fld := ⟨(ISL_ACT).addr, 31, 16⟩
def ISL_ACT_WIN : Fld := ⟨(ISL_ACT).addr, 15, 8⟩
def ISL_ACT_COUNT : Fld := ⟨(ISL_ACT).addr, 7, 0⟩
def ISL_CLR : Fld := ⟨0x40403050, 31, 0⟩
def ISL_CLR_RAMP : Fld := ⟨(ISL_CLR).addr, 31, 24⟩
def ISL_CLR_BUDGET : Fld := ⟨(ISL_CLR).addr, 23, 16⟩
def ISL_CLR_CLR : Fld := ⟨(ISL_CLR).addr, 15, 0⟩
def ISL_ROCOF : Fld := ⟨0x40403054, 31, 0⟩
def ISL_ROCOF_TH : Fld := ⟨(ISL_ROCOF).addr, 31, 16⟩
def ISL_ROCOF_DELAY : Fld := ⟨(ISL_ROCOF).addr, 15, 0⟩
def ISL_FTRIP (m : Nat) : Fld := ⟨0x40403060 + 0x4 * m, 31, 0⟩
def ISL_FTRIP_OFS (m : Nat) : Fld := ⟨(ISL_FTRIP m).addr, 31, 16⟩
def ISL_FTRIP_CLR (m : Nat) : Fld := ⟨(ISL_FTRIP m).addr, 15, 0⟩
def ISL_STAT : Fld := ⟨0x40403080, 31, 0⟩
def ISL_STAT_HITS : Fld := ⟨(ISL_STAT).addr, 23, 16⟩
def ISL_STAT_SLOT : Fld := ⟨(ISL_STAT).addr, 15, 12⟩
def ISL_STAT_CAUSE : Fld := ⟨(ISL_STAT).addr, 11, 8⟩
def ISL_STAT_SUSP : Fld := ⟨(ISL_STAT).addr, 1, 1⟩
def ISL_STAT_ISLANDED : Fld := ⟨(ISL_STAT).addr, 0, 0⟩
def ISL_RESP : Fld := ⟨0x40403084, 31, 0⟩
def ISL_RESP_SLOT : Fld := ⟨(ISL_RESP).addr, 19, 16⟩
def ISL_RESP_D : Fld := ⟨(ISL_RESP).addr, 15, 0⟩
def ISL_DEAD : Fld := ⟨0x40403088, 31, 0⟩
def ISL_DEAD_LEFT : Fld := ⟨(ISL_DEAD).addr, 15, 0⟩
def SLOPE_CTL : Fld := ⟨0x40480040, 31, 0⟩
def SLOPE_CTL_CMARG : Fld := ⟨(SLOPE_CTL).addr, 23, 16⟩
def SLOPE_CTL_SCANMAX : Fld := ⟨(SLOPE_CTL).addr, 10, 8⟩
def SLOPE_CTL_AUTOSCAN : Fld := ⟨(SLOPE_CTL).addr, 1, 1⟩
def SLOPE_CTL_EN : Fld := ⟨(SLOPE_CTL).addr, 0, 0⟩
def SLOPE_SBASE : Fld := ⟨0x40480044, 31, 0⟩
def SLOPE_EFF : Fld := ⟨0x40480048, 31, 0⟩
def SLOPE_EFF_EFF : Fld := ⟨(SLOPE_EFF).addr, 15, 0⟩
def SLOPE_SCANCFG : Fld := ⟨0x4048004C, 31, 0⟩
def SLOPE_SCANCFG_PER : Fld := ⟨(SLOPE_SCANCFG).addr, 31, 16⟩
def SLOPE_SCANCFG_SHADE : Fld := ⟨(SLOPE_SCANCFG).addr, 15, 8⟩
def SLOPE_SCANCFG_GAIN : Fld := ⟨(SLOPE_SCANCFG).addr, 7, 0⟩
def SLOPE_SCANREQ : Fld := ⟨0x40480050, 31, 0⟩
def SLOPE_TEST : Fld := ⟨0x40480054, 31, 0⟩
def SLOPE_TEST_FAULT : Fld := ⟨(SLOPE_TEST).addr, 4, 0⟩
def SLOPE_STAT : Fld := ⟨0x40480080, 31, 0⟩
def SLOPE_STAT_CURT : Fld := ⟨(SLOPE_STAT).addr, 0, 0⟩
def SLOPE_MS : Fld := ⟨0x40480084, 31, 0⟩
def SLOPE_MS_MS : Fld := ⟨(SLOPE_MS).addr, 23, 0⟩
def SLOPE_PTOT : Fld := ⟨0x40480088, 31, 0⟩
def SLOPE_PAVAIL : Fld := ⟨0x4048008C, 31, 0⟩
def SLOPE_PAVAIL_PU : Fld := ⟨0x40480090, 31, 0⟩
def SLOPE_PTGT : Fld := ⟨0x40480094, 31, 0⟩
def SLOPE_SUMTRK : Fld := ⟨0x40480098, 31, 0⟩
def SLOPE_SUMCURT : Fld := ⟨0x4048009C, 31, 0⟩
def SLOPE_SUMFLT : Fld := ⟨0x404800A0, 31, 0⟩
def SLOPE_SCANPEND : Fld := ⟨0x404800A4, 31, 0⟩
def SLCH_CFG (n : Nat) : Fld := ⟨0x40481040 + 0x1000 * n, 31, 0⟩
def SLCH_CFG_EN (n : Nat) : Fld := ⟨(SLCH_CFG n).addr, 31, 31⟩
def SLCH_CFG_REF (n : Nat) : Fld := ⟨(SLCH_CFG n).addr, 30, 30⟩
def SLCH_CFG_VSRC (n : Nat) : Fld := ⟨(SLCH_CFG n).addr, 29, 29⟩
def SLCH_CFG_TONE (n : Nat) : Fld := ⟨(SLCH_CFG n).addr, 28, 24⟩
def SLCH_CFG_VAIN (n : Nat) : Fld := ⟨(SLCH_CFG n).addr, 21, 16⟩
def SLCH_CFG_LEG (n : Nat) : Fld := ⟨(SLCH_CFG n).addr, 5, 0⟩
def SLCH_KV (n : Nat) : Fld := ⟨0x40481044 + 0x1000 * n, 31, 0⟩
def SLCH_KI (n : Nat) : Fld := ⟨0x40481048 + 0x1000 * n, 31, 0⟩
def SLCH_VLIM (n : Nat) : Fld := ⟨0x4048104C + 0x1000 * n, 31, 0⟩
def SLCH_VLIM_VMAX (n : Nat) : Fld := ⟨(SLCH_VLIM n).addr, 31, 16⟩
def SLCH_VLIM_VMIN (n : Nat) : Fld := ⟨(SLCH_VLIM n).addr, 15, 0⟩
def SLCH_TRK (n : Nat) : Fld := ⟨0x40481050 + 0x1000 * n, 31, 0⟩
def SLCH_TRK_AMP (n : Nat) : Fld := ⟨(SLCH_TRK n).addr, 31, 24⟩
def SLCH_TRK_SMAX (n : Nat) : Fld := ⟨(SLCH_TRK n).addr, 23, 16⟩
def SLCH_TRK_KT (n : Nat) : Fld := ⟨(SLCH_TRK n).addr, 15, 0⟩
def SLCH_CONV (n : Nat) : Fld := ⟨0x40481054 + 0x1000 * n, 31, 0⟩
def SLCH_CONV_GTH (n : Nat) : Fld := ⟨(SLCH_CONV n).addr, 31, 16⟩
def SLCH_CONV_VDMIN (n : Nat) : Fld := ⟨(SLCH_CONV n).addr, 15, 8⟩
def SLCH_CONV_KSTART (n : Nat) : Fld := ⟨(SLCH_CONV n).addr, 7, 0⟩
def SLCH_FLT (n : Nat) : Fld := ⟨0x40481058 + 0x1000 * n, 31, 0⟩
def SLCH_FLT_IMAX (n : Nat) : Fld := ⟨(SLCH_FLT n).addr, 31, 16⟩
def SLCH_FLT_IREV (n : Nat) : Fld := ⟨(SLCH_FLT n).addr, 15, 8⟩
def SLCH_FLT_VOCMIN (n : Nat) : Fld := ⟨(SLCH_FLT n).addr, 7, 0⟩
def SLCH_RATED (n : Nat) : Fld := ⟨0x4048105C + 0x1000 * n, 31, 0⟩
def SLCH_RATED_RATED (n : Nat) : Fld := ⟨(SLCH_RATED n).addr, 23, 0⟩
def SLCH_CURT (n : Nat) : Fld := ⟨0x40481060 + 0x1000 * n, 31, 0⟩
def SLCH_CURT_KC (n : Nat) : Fld := ⟨(SLCH_CURT n).addr, 15, 0⟩
def SLCH_STAT (n : Nat) : Fld := ⟨0x40481080 + 0x1000 * n, 31, 0⟩
def SLCH_STAT_MISS (n : Nat) : Fld := ⟨(SLCH_STAT n).addr, 31, 24⟩
def SLCH_STAT_FCAUSE (n : Nat) : Fld := ⟨(SLCH_STAT n).addr, 23, 20⟩
def SLCH_STAT_CLR_REFUSED (n : Nat) : Fld := ⟨(SLCH_STAT n).addr, 12, 12⟩
def SLCH_STAT_FAULT (n : Nat) : Fld := ⟨(SLCH_STAT n).addr, 11, 11⟩
def SLCH_STAT_MISMATCH (n : Nat) : Fld := ⟨(SLCH_STAT n).addr, 10, 10⟩
def SLCH_STAT_SHADE (n : Nat) : Fld := ⟨(SLCH_STAT n).addr, 9, 9⟩
def SLCH_STAT_LEGTRIP (n : Nat) : Fld := ⟨(SLCH_STAT n).addr, 8, 8⟩
def SLCH_STAT_CURT (n : Nat) : Fld := ⟨(SLCH_STAT n).addr, 7, 7⟩
def SLCH_STAT_AT_MPP (n : Nat) : Fld := ⟨(SLCH_STAT n).addr, 6, 6⟩
def SLCH_STAT_VALID (n : Nat) : Fld := ⟨(SLCH_STAT n).addr, 5, 5⟩
def SLCH_STAT_STATE (n : Nat) : Fld := ⟨(SLCH_STAT n).addr, 2, 0⟩
def SLCH_VB (n : Nat) : Fld := ⟨0x40481084 + 0x1000 * n, 31, 0⟩
def SLCH_V (n : Nat) : Fld := ⟨0x40481088 + 0x1000 * n, 31, 0⟩
def SLCH_I (n : Nat) : Fld := ⟨0x4048108C + 0x1000 * n, 31, 0⟩
def SLCH_P (n : Nat) : Fld := ⟨0x40481090 + 0x1000 * n, 31, 0⟩
def SLCH_DPDV (n : Nat) : Fld := ⟨0x40481094 + 0x1000 * n, 31, 0⟩
def SLCH_VDITH (n : Nat) : Fld := ⟨0x40481098 + 0x1000 * n, 31, 0⟩
def SLCH_PMPP (n : Nat) : Fld := ⟨0x4048109C + 0x1000 * n, 31, 0⟩
def SLCH_VOC (n : Nat) : Fld := ⟨0x404810A0 + 0x1000 * n, 31, 0⟩
def SCB_CTL (n : Nat) : Fld := ⟨0x404A1040 + 0x1000 * n, 31, 0⟩
def SCB_CTL_COUNT (n : Nat) : Fld := ⟨(SCB_CTL n).addr, 23, 16⟩
def SCB_CTL_ABORT (n : Nat) : Fld := ⟨(SCB_CTL n).addr, 10, 10⟩
def SCB_CTL_DONE (n : Nat) : Fld := ⟨(SCB_CTL n).addr, 9, 9⟩
def SCB_CTL_BUSY (n : Nat) : Fld := ⟨(SCB_CTL n).addr, 8, 8⟩
def SCB_CTL_CH (n : Nat) : Fld := ⟨(SCB_CTL n).addr, 4, 0⟩
def SCB_TSL (n : Nat) : Fld := ⟨0x404A1044 + 0x1000 * n, 31, 0⟩
def SCB_TSH (n : Nat) : Fld := ⟨0x404A1048 + 0x1000 * n, 31, 0⟩
def SCB_BEST (n : Nat) : Fld := ⟨0x404A104C + 0x1000 * n, 31, 0⟩
def SCB_BEST_MOVED (n : Nat) : Fld := ⟨(SCB_BEST n).addr, 7, 7⟩
def SCB_BEST_INDEX (n : Nat) : Fld := ⟨(SCB_BEST n).addr, 5, 0⟩
def SCB_PT (n : Nat) (m : Nat) : Fld := ⟨0x404A1080 + 0x1000 * n + 0x4 * m, 31, 0⟩
def SCB_PT_V (n : Nat) (m : Nat) : Fld := ⟨(SCB_PT n m).addr, 31, 16⟩
def SCB_PT_I (n : Nat) (m : Nat) : Fld := ⟨(SCB_PT n m).addr, 15, 0⟩
def CE_CTL : Fld := ⟨0x40300040, 31, 0⟩
def CE_CTL_RUN : Fld := ⟨(CE_CTL).addr, 0, 0⟩
def CE_PROG : Fld := ⟨0x40300044, 31, 0⟩
def CE_PROG_PEND : Fld := ⟨(CE_PROG).addr, 17, 17⟩
def CE_PROG_SWAP : Fld := ⟨(CE_PROG).addr, 16, 16⟩
def CE_PROG_BANK : Fld := ⟨(CE_PROG).addr, 0, 0⟩
def CE_ENTRY : Fld := ⟨0x40300048, 31, 0⟩
def CE_ENTRY_ENTRY1 : Fld := ⟨(CE_ENTRY).addr, 28, 16⟩
def CE_ENTRY_ENTRY0 : Fld := ⟨(CE_ENTRY).addr, 12, 0⟩
def CE_STAT : Fld := ⟨0x4030004C, 31, 0⟩
def CE_STAT_FCODE : Fld := ⟨(CE_STAT).addr, 23, 20⟩
def CE_STAT_QFULL : Fld := ⟨(CE_STAT).addr, 5, 5⟩
def CE_STAT_SAT : Fld := ⟨(CE_STAT).addr, 4, 4⟩
def CE_STAT_FAULT : Fld := ⟨(CE_STAT).addr, 3, 3⟩
def CE_STAT_UNFIN : Fld := ⟨(CE_STAT).addr, 2, 2⟩
def CE_STAT_DONE : Fld := ⟨(CE_STAT).addr, 1, 1⟩
def CE_STAT_BUSY : Fld := ⟨(CE_STAT).addr, 0, 0⟩
def CE_TIME : Fld := ⟨0x40300050, 31, 0⟩
def CE_TIME_MAX : Fld := ⟨(CE_TIME).addr, 31, 16⟩
def CE_TIME_USED : Fld := ⟨(CE_TIME).addr, 15, 0⟩
def CE_FAULTPC : Fld := ⟨0x40300054, 31, 0⟩
def CE_FAULTPC_BANK : Fld := ⟨(CE_FAULTPC).addr, 13, 13⟩
def CE_FAULTPC_PC : Fld := ⟨(CE_FAULTPC).addr, 12, 0⟩
def CE_SATCNT : Fld := ⟨0x40300058, 31, 0⟩
def CE_CLR : Fld := ⟨0x4030005C, 31, 0⟩
def CE_CLR_CLR : Fld := ⟨(CE_CLR).addr, 1, 0⟩
def CE_PADDR : Fld := ⟨0x40300060, 31, 0⟩
def CE_PADDR_ADDR : Fld := ⟨(CE_PADDR).addr, 13, 0⟩
def CE_PDATA_LO : Fld := ⟨0x40300064, 31, 0⟩
def CE_PDATA_HI : Fld := ⟨0x40300068, 31, 0⟩
def CE_PREAD_LO : Fld := ⟨0x4030006C, 31, 0⟩
def CE_PREAD_HI : Fld := ⟨0x40300070, 31, 0⟩
def CE_DADDR : Fld := ⟨0x40300074, 31, 0⟩
def CE_DADDR_ADDR : Fld := ⟨(CE_DADDR).addr, 15, 0⟩
def CE_DDATA : Fld := ⟨0x40300078, 31, 0⟩
def CE_DREAD : Fld := ⟨0x4030007C, 31, 0⟩
def CE_CADDR : Fld := ⟨0x40300080, 31, 0⟩
def CE_CADDR_ADDR : Fld := ⟨(CE_CADDR).addr, 12, 0⟩
def CE_CDATA : Fld := ⟨0x40300084, 31, 0⟩
def CE_CREAD : Fld := ⟨0x40300088, 31, 0⟩
def CE_CSTAT : Fld := ⟨0x4030008C, 31, 0⟩
def CE_CSTAT_LAST : Fld := ⟨(CE_CSTAT).addr, 31, 8⟩
def CE_CSTAT_QCOUNT : Fld := ⟨(CE_CSTAT).addr, 5, 0⟩
def CE_TEST : Fld := ⟨0x40300090, 31, 0⟩
def CE_TEST_ECC2 : Fld := ⟨(CE_TEST).addr, 2, 2⟩
def CE_TEST_ECC1 : Fld := ⟨(CE_TEST).addr, 1, 1⟩
def CE_TEST_FAULT : Fld := ⟨(CE_TEST).addr, 0, 0⟩
def CE_RES_CTL : Fld := ⟨0x40302040, 31, 0⟩
def CE_RES_CTL_HOLD : Fld := ⟨(CE_RES_CTL).addr, 0, 0⟩
def CE_RES_TICK : Fld := ⟨0x40302044, 31, 0⟩
def CE_RES_TICK_TICK : Fld := ⟨(CE_RES_TICK).addr, 22, 0⟩
def CE_RES (m : Nat) : Fld := ⟨0x40302080 + 0x4 * m, 31, 0⟩
def CE_SUP_CTL : Fld := ⟨0x40303040, 31, 0⟩
def CE_SUP_CTL_EN : Fld := ⟨(CE_SUP_CTL).addr, 0, 0⟩
def CE_SUP_FLT : Fld := ⟨0x40303044, 31, 0⟩
def SUPCH_CFG (m : Nat) : Fld := ⟨0x40303080 + 0x10 * m, 31, 0⟩
def SUPCH_CFG_MEAS (m : Nat) : Fld := ⟨(SUPCH_CFG m).addr, 31, 16⟩
def SUPCH_CFG_PERSIST (m : Nat) : Fld := ⟨(SUPCH_CFG m).addr, 15, 8⟩
def SUPCH_CFG_REACT (m : Nat) : Fld := ⟨(SUPCH_CFG m).addr, 3, 2⟩
def SUPCH_CFG_EN (m : Nat) : Fld := ⟨(SUPCH_CFG m).addr, 0, 0⟩
def SUPCH_BAND (m : Nat) : Fld := ⟨0x40303084 + 0x10 * m, 31, 0⟩
def SUPCH_STAT (m : Nat) : Fld := ⟨0x40303088 + 0x10 * m, 31, 0⟩
def SUPCH_STAT_SKIP (m : Nat) : Fld := ⟨(SUPCH_STAT m).addr, 9, 9⟩
def SUPCH_STAT_OVER (m : Nat) : Fld := ⟨(SUPCH_STAT m).addr, 8, 8⟩
def SUPCH_STAT_COUNT (m : Nat) : Fld := ⟨(SUPCH_STAT m).addr, 7, 0⟩
def SUPCH_RESID (m : Nat) : Fld := ⟨0x4030308C + 0x10 * m, 31, 0⟩
def ADC_CTL : Fld := ⟨0x40500040, 31, 0⟩
def ADC_CTL_EN : Fld := ⟨(ADC_CTL).addr, 0, 0⟩
def ADC_STAT : Fld := ⟨0x40500044, 31, 0⟩
def ADC_STAT_LATE : Fld := ⟨(ADC_STAT).addr, 31, 16⟩
def ADC_STAT_CUT : Fld := ⟨(ADC_STAT).addr, 1, 1⟩
def ADC_STAT_CALDONE : Fld := ⟨(ADC_STAT).addr, 0, 0⟩
def ADC_FRESH (m : Nat) : Fld := ⟨0x40500060 + 0x4 * m, 31, 0⟩
def ADC_OVR (m : Nat) : Fld := ⟨0x40500080 + 0x4 * m, 31, 0⟩
def ADC_LATE (m : Nat) : Fld := ⟨0x405000A0 + 0x4 * m, 31, 0⟩
def ADC_IN (m : Nat) : Fld := ⟨0x40500100 + 0x4 * m, 31, 0⟩
def ADC_IN_MODE (m : Nat) : Fld := ⟨(ADC_IN m).addr, 0, 0⟩
def ADC_SLOT (m : Nat) : Fld := ⟨0x40501040 + 0x4 * m, 31, 0⟩
def ADC_SLOT_EN (m : Nat) : Fld := ⟨(ADC_SLOT m).addr, 31, 31⟩
def ADC_SLOT_PAIR (m : Nat) : Fld := ⟨(ADC_SLOT m).addr, 30, 30⟩
def ADC_SLOT_VX (m : Nat) : Fld := ⟨(ADC_SLOT m).addr, 29, 29⟩
def ADC_SLOT_TRIGEN (m : Nat) : Fld := ⟨(ADC_SLOT m).addr, 28, 28⟩
def ADC_SLOT_TRIG (m : Nat) : Fld := ⟨(ADC_SLOT m).addr, 27, 24⟩
def ADC_SLOT_RING (m : Nat) : Fld := ⟨(ADC_SLOT m).addr, 23, 20⟩
def ADC_SLOT_ALIGN (m : Nat) : Fld := ⟨(ADC_SLOT m).addr, 19, 19⟩
def ADC_SLOT_FMT (m : Nat) : Fld := ⟨(ADC_SLOT m).addr, 18, 18⟩
def ADC_SLOT_INT (m : Nat) : Fld := ⟨(ADC_SLOT m).addr, 6, 6⟩
def ADC_SLOT_CH (m : Nat) : Fld := ⟨(ADC_SLOT m).addr, 5, 0⟩
def ADC_ROT_CTL : Fld := ⟨0x40503040, 31, 0⟩
def ADC_ROT_CTL_DWELL : Fld := ⟨(ADC_ROT_CTL).addr, 31, 16⟩
def ADC_ROT_CTL_EN : Fld := ⟨(ADC_ROT_CTL).addr, 0, 0⟩
def ADC_ROT_CFG : Fld := ⟨0x40503044, 31, 0⟩
def ADC_ROT_CFG_CALN : Fld := ⟨(ADC_ROT_CFG).addr, 19, 16⟩
def ADC_ROT_CFG_SHADOW : Fld := ⟨(ADC_ROT_CFG).addr, 15, 8⟩
def ADC_ROT_CFG_MISM : Fld := ⟨(ADC_ROT_CFG).addr, 7, 0⟩
def ADC_ROT_STAT : Fld := ⟨0x40503048, 31, 0⟩
def ADC_ROT_STAT_PHASE : Fld := ⟨(ADC_ROT_STAT).addr, 26, 24⟩
def ADC_ROT_STAT_POS : Fld := ⟨(ADC_ROT_STAT).addr, 22, 20⟩
def ADC_ROT_STAT_SPAREPOS : Fld := ⟨(ADC_ROT_STAT).addr, 19, 16⟩
def ADC_ROT_STAT_RETIRED : Fld := ⟨(ADC_ROT_STAT).addr, 15, 8⟩
def ADC_ROT_STAT_SPAREOUT : Fld := ⟨(ADC_ROT_STAT).addr, 7, 7⟩
def ADC_ROT_MEAN : Fld := ⟨0x4050304C, 31, 0⟩
def ADC_ROT_MEAN_M : Fld := ⟨(ADC_ROT_MEAN).addr, 15, 0⟩
def ADC_ROT_STEPS : Fld := ⟨0x40503050, 31, 0⟩
def ADC_TEST : Fld := ⟨0x40503060, 31, 0⟩
def ADC_TEST_SUBPOS : Fld := ⟨(ADC_TEST).addr, 6, 4⟩
def ADC_TEST_SUBST : Fld := ⟨(ADC_TEST).addr, 2, 2⟩
def ADC_TEST_CALERR : Fld := ⟨(ADC_TEST).addr, 1, 1⟩
def ADC_TEST_STEP : Fld := ⟨(ADC_TEST).addr, 0, 0⟩
def ADC_ROT_CAL (m : Nat) : Fld := ⟨0x40503080 + 0x8 * m, 31, 0⟩
def ADC_ROT_CAL_GAIN (m : Nat) : Fld := ⟨(ADC_ROT_CAL m).addr, 31, 16⟩
def ADC_ROT_CAL_OFFS (m : Nat) : Fld := ⟨(ADC_ROT_CAL m).addr, 15, 0⟩
def ADC_ROT_CHK (m : Nat) : Fld := ⟨0x40503084 + 0x8 * m, 31, 0⟩
def ADC_ROT_CHK_MIDERR (m : Nat) : Fld := ⟨(ADC_ROT_CHK m).addr, 15, 0⟩
def CMP_ST_CTL : Fld := ⟨0x40580040, 31, 0⟩
def CMP_ST_CTL_SPER : Fld := ⟨(CMP_ST_CTL).addr, 31, 16⟩
def CMP_ST_CTL_TOL : Fld := ⟨(CMP_ST_CTL).addr, 15, 8⟩
def CMP_ST_CTL_CONV : Fld := ⟨(CMP_ST_CTL).addr, 6, 4⟩
def CMP_ST_CTL_FAILSAFE : Fld := ⟨(CMP_ST_CTL).addr, 1, 1⟩
def CMP_ST_CTL_EN : Fld := ⟨(CMP_ST_CTL).addr, 0, 0⟩
def CMP_ST_STAT : Fld := ⟨0x40580044, 31, 0⟩
def CMP_ST_STAT_PASSES : Fld := ⟨(CMP_ST_STAT).addr, 31, 16⟩
def CMP_STFAIL_LO : Fld := ⟨0x40580048, 31, 0⟩
def CMP_STFAIL_HI : Fld := ⟨0x4058004C, 31, 0⟩
def CMP_STFAIL_HI_STFAIL : Fld := ⟨(CMP_STFAIL_HI).addr, 15, 0⟩
def CMP_WIN (m : Nat) : Fld := ⟨0x40580050 + 0x4 * m, 31, 0⟩
def CMP_TRIP_LO : Fld := ⟨0x4058005C, 31, 0⟩
def CMP_TRIP_HI : Fld := ⟨0x40580060, 31, 0⟩
def CMP_TRIP_HI_TRIP : Fld := ⟨(CMP_TRIP_HI).addr, 15, 0⟩
def CMP_TEST : Fld := ⟨0x40580064, 31, 0⟩
def CMP_TEST_FORCE : Fld := ⟨(CMP_TEST).addr, 15, 15⟩
def CMP_TEST_STATE : Fld := ⟨(CMP_TEST).addr, 9, 8⟩
def CMP_TEST_TW : Fld := ⟨(CMP_TEST).addr, 5, 0⟩
def TW_CFG (m : Nat) : Fld := ⟨0x40580080 + 0x20 * m, 31, 0⟩
def TW_CFG_FILT (m : Nat) : Fld := ⟨(TW_CFG m).addr, 23, 16⟩
def TW_CFG_AIN (m : Nat) : Fld := ⟨(TW_CFG m).addr, 13, 8⟩
def TW_CFG_HYST (m : Nat) : Fld := ⟨(TW_CFG m).addr, 5, 4⟩
def TW_CFG_TRIPON (m : Nat) : Fld := ⟨(TW_CFG m).addr, 2, 1⟩
def TW_CFG_EN (m : Nat) : Fld := ⟨(TW_CFG m).addr, 0, 0⟩
def TW_THR (m : Nat) : Fld := ⟨0x40580084 + 0x20 * m, 31, 0⟩
def TW_THR_HI (m : Nat) : Fld := ⟨(TW_THR m).addr, 25, 16⟩
def TW_THR_LO (m : Nat) : Fld := ⟨(TW_THR m).addr, 9, 0⟩
def TW_BLK (m : Nat) : Fld := ⟨0x40580088 + 0x20 * m, 31, 0⟩
def TW_BLK_KIND (m : Nat) : Fld := ⟨(TW_BLK m).addr, 31, 30⟩
def TW_BLK_INDEX (m : Nat) : Fld := ⟨(TW_BLK m).addr, 29, 24⟩
def TW_BLK_EDGE (m : Nat) : Fld := ⟨(TW_BLK m).addr, 23, 22⟩
def TW_BLK_BLANK (m : Nat) : Fld := ⟨(TW_BLK m).addr, 9, 0⟩
def TW_STAT (m : Nat) : Fld := ⟨0x4058008C + 0x20 * m, 31, 0⟩
def TW_STAT_WIN (m : Nat) : Fld := ⟨(TW_STAT m).addr, 9, 8⟩
def TW_STAT_STFAIL (m : Nat) : Fld := ⟨(TW_STAT m).addr, 4, 4⟩
def TW_STAT_BLANKING (m : Nat) : Fld := ⟨(TW_STAT m).addr, 3, 3⟩
def TW_STAT_TRIPCOND (m : Nat) : Fld := ⟨(TW_STAT m).addr, 2, 2⟩
def TW_STAT_BELOW_SEEN (m : Nat) : Fld := ⟨(TW_STAT m).addr, 1, 1⟩
def TW_STAT_ABOVE_SEEN (m : Nat) : Fld := ⟨(TW_STAT m).addr, 0, 0⟩
def TW_RB (m : Nat) : Fld := ⟨0x40580090 + 0x20 * m, 31, 0⟩
def TW_RB_HI (m : Nat) : Fld := ⟨(TW_RB m).addr, 31, 16⟩
def TW_RB_LO (m : Nat) : Fld := ⟨(TW_RB m).addr, 15, 0⟩
def METER_CTL : Fld := ⟨0x40600040, 31, 0⟩
def METER_CTL_HOLD : Fld := ⟨(METER_CTL).addr, 8, 8⟩
def METER_CTL_SAMPLE : Fld := ⟨(METER_CTL).addr, 6, 4⟩
def METER_CTL_WINREC : Fld := ⟨(METER_CTL).addr, 1, 1⟩
def METER_CTL_EN : Fld := ⟨(METER_CTL).addr, 0, 0⟩
def METER_CFG : Fld := ⟨0x40600044, 31, 0⟩
def METER_CFG_UDIN : Fld := ⟨(METER_CFG).addr, 31, 16⟩
def METER_CFG_SYS : Fld := ⟨(METER_CFG).addr, 15, 8⟩
def METER_CFG_QUANT : Fld := ⟨(METER_CFG).addr, 7, 6⟩
def METER_CFG_REFCH : Fld := ⟨(METER_CFG).addr, 4, 2⟩
def METER_CFG_NOMF : Fld := ⟨(METER_CFG).addr, 1, 0⟩
def METER_STAT : Fld := ⟨0x40600048, 31, 0⟩
def METER_STAT_CLEARED : Fld := ⟨(METER_STAT).addr, 10, 10⟩
def METER_STAT_QPEND : Fld := ⟨(METER_STAT).addr, 9, 9⟩
def METER_STAT_TESTHOLD : Fld := ⟨(METER_STAT).addr, 8, 8⟩
def METER_STAT_TLOCK : Fld := ⟨(METER_STAT).addr, 7, 7⟩
def METER_STAT_FLAGGED : Fld := ⟨(METER_STAT).addr, 6, 6⟩
def METER_STAT_NOREF : Fld := ⟨(METER_STAT).addr, 5, 5⟩
def METER_STAT_REFDRIFT : Fld := ⟨(METER_STAT).addr, 4, 4⟩
def METER_STAT_CALERR : Fld := ⟨(METER_STAT).addr, 3, 3⟩
def METER_STAT_GAP : Fld := ⟨(METER_STAT).addr, 2, 2⟩
def METER_STAT_RESTORED : Fld := ⟨(METER_STAT).addr, 1, 1⟩
def METER_STAT_RUN : Fld := ⟨(METER_STAT).addr, 0, 0⟩
def METER_FREQ : Fld := ⟨0x4060004C, 31, 0⟩
def METER_GAPS_LO : Fld := ⟨0x40600050, 31, 0⟩
def METER_GAPS_HI : Fld := ⟨0x40600054, 31, 0⟩
def METER_GAPE_LO : Fld := ⟨0x40600058, 31, 0⟩
def METER_GAPE_HI : Fld := ⟨0x4060005C, 31, 0⟩
def METER_GAPF : Fld := ⟨0x40600060, 31, 0⟩
def METER_GAPF_FLAGS : Fld := ⟨(METER_GAPF).addr, 1, 0⟩
def METER_TEST : Fld := ⟨0x40600064, 31, 0⟩
def METER_TEST_SIG : Fld := ⟨(METER_TEST).addr, 6, 5⟩
def METER_TEST_CH : Fld := ⟨(METER_TEST).addr, 4, 1⟩
def METER_TEST_INJ : Fld := ⟨(METER_TEST).addr, 0, 0⟩
def METER_TACC_LO : Fld := ⟨0x40600068, 31, 0⟩
def METER_TACC_HI : Fld := ⟨0x4060006C, 31, 0⟩
def METER_ROT_CTL : Fld := ⟨0x40600080, 31, 0⟩
def METER_ROT_CTL_DWELL : Fld := ⟨(METER_ROT_CTL).addr, 31, 16⟩
def METER_ROT_CTL_EN : Fld := ⟨(METER_ROT_CTL).addr, 0, 0⟩
def METER_ROT_CFG : Fld := ⟨0x40600084, 31, 0⟩
def METER_ROT_CFG_CALN : Fld := ⟨(METER_ROT_CFG).addr, 19, 16⟩
def METER_ROT_CFG_REFTOL : Fld := ⟨(METER_ROT_CFG).addr, 15, 8⟩
def METER_ROT_CFG_MISM : Fld := ⟨(METER_ROT_CFG).addr, 7, 0⟩
def METER_ROT_STAT : Fld := ⟨0x40600088, 31, 0⟩
def METER_ROT_STAT_PHASE : Fld := ⟨(METER_ROT_STAT).addr, 31, 29⟩
def METER_ROT_STAT_POS : Fld := ⟨(METER_ROT_STAT).addr, 28, 25⟩
def METER_ROT_STAT_SPAREPOS : Fld := ⟨(METER_ROT_STAT).addr, 24, 20⟩
def METER_ROT_STAT_SPAREOUT : Fld := ⟨(METER_ROT_STAT).addr, 17, 17⟩
def METER_ROT_STAT_RETIRED : Fld := ⟨(METER_ROT_STAT).addr, 15, 0⟩
def METER_ROT_REF : Fld := ⟨0x4060008C, 31, 0⟩
def METER_ROT_RATIO : Fld := ⟨0x40600090, 31, 0⟩
def MCH_CFG (m : Nat) : Fld := ⟨0x40601040 + 0x10 * m, 31, 0⟩
def MCH_CFG_HPF (m : Nat) : Fld := ⟨(MCH_CFG m).addr, 1, 1⟩
def MCH_CFG_EN (m : Nat) : Fld := ⟨(MCH_CFG m).addr, 0, 0⟩
def MCH_GAIN (m : Nat) : Fld := ⟨0x40601044 + 0x10 * m, 31, 0⟩
def MCH_GAIN_GAIN (m : Nat) : Fld := ⟨(MCH_GAIN m).addr, 23, 0⟩
def MCH_OFFS (m : Nat) : Fld := ⟨0x40601048 + 0x10 * m, 31, 0⟩
def MCH_OFFS_OFFS (m : Nat) : Fld := ⟨(MCH_OFFS m).addr, 23, 0⟩
def MCH_DLY (m : Nat) : Fld := ⟨0x4060104C + 0x10 * m, 31, 0⟩
def MCH_DLY_DLY (m : Nat) : Fld := ⟨(MCH_DLY m).addr, 17, 0⟩
def MCH_FS (m : Nat) : Fld := ⟨0x40601140 + 0x4 * m, 31, 0⟩
def ELEM_CFG (m : Nat) : Fld := ⟨0x40601180 + 0x8 * m, 31, 0⟩
def ELEM_CFG_EN (m : Nat) : Fld := ⟨(ELEM_CFG m).addr, 8, 8⟩
def ELEM_CFG_INV (m : Nat) : Fld := ⟨(ELEM_CFG m).addr, 7, 7⟩
def ELEM_CFG_I (m : Nat) : Fld := ⟨(ELEM_CFG m).addr, 6, 4⟩
def ELEM_CFG_V (m : Nat) : Fld := ⟨(ELEM_CFG m).addr, 2, 0⟩
def ELEM_START (m : Nat) : Fld := ⟨0x40601184 + 0x8 * m, 31, 0⟩
def ELEM_START_ISTART (m : Nat) : Fld := ⟨(ELEM_START m).addr, 15, 0⟩
def RES_SEQ : Fld := ⟨0x40602040, 31, 0⟩
def RES_TEND_LO : Fld := ⟨0x40602044, 31, 0⟩
def RES_TEND_HI : Fld := ⟨0x40602048, 31, 0⟩
def RES_N : Fld := ⟨0x4060204C, 31, 0⟩
def RES_N_FLAG : Fld := ⟨(RES_N).addr, 18, 18⟩
def RES_N_SHORT : Fld := ⟨(RES_N).addr, 17, 17⟩
def RES_N_NOREF : Fld := ⟨(RES_N).addr, 16, 16⟩
def RES_N_N : Fld := ⟨(RES_N).addr, 15, 0⟩
def RES_RMS (m : Nat) : Fld := ⟨0x40602080 + 0x4 * m, 31, 0⟩
def RES_ANG (m : Nat) : Fld := ⟨0x406020C0 + 0x4 * m, 31, 0⟩
def RES_ANG_ANG (m : Nat) : Fld := ⟨(RES_ANG m).addr, 15, 0⟩
def RES_P (m : Nat) : Fld := ⟨0x40602100 + 0x10 * m, 31, 0⟩
def RES_Q (m : Nat) : Fld := ⟨0x40602104 + 0x10 * m, 31, 0⟩
def RES_S (m : Nat) : Fld := ⟨0x40602108 + 0x10 * m, 31, 0⟩
def RES_PF (m : Nat) : Fld := ⟨0x4060210C + 0x10 * m, 31, 0⟩
def RES_PF_PHI (m : Nat) : Fld := ⟨(RES_PF m).addr, 31, 16⟩
def RES_PF_PF (m : Nat) : Fld := ⟨(RES_PF m).addr, 15, 0⟩
def RES_ESTAT : Fld := ⟨0x406021C0, 31, 0⟩
def RES_ESTAT_LOST : Fld := ⟨(RES_ESTAT).addr, 15, 8⟩
def RES_ESTAT_RUNNING : Fld := ⟨(RES_ESTAT).addr, 7, 0⟩
def METER_ACC_CLR : Fld := ⟨0x40603040, 31, 0⟩
def METER_ACC_CLR_CLR : Fld := ⟨(METER_ACC_CLR).addr, 7, 0⟩
def METER_ACC_WACK : Fld := ⟨0x40603044, 31, 0⟩
def METER_ACC_WACK_WACK : Fld := ⟨(METER_ACC_WACK).addr, 0, 0⟩
def METER_ACC_SEQ : Fld := ⟨0x40603048, 31, 0⟩
def ACC_LO (m : Nat) (j : Nat) : Fld := ⟨0x40603080 + 0x30 * m + 0x8 * j, 31, 0⟩
def ACC_HI (m : Nat) (j : Nat) : Fld := ⟨0x40603084 + 0x30 * m + 0x8 * j, 31, 0⟩
def ACC_WIN (m : Nat) (j : Nat) : Fld := ⟨0x40603280 + 0x30 * m + 0x8 * j, 31, 0⟩
def ACC_WST (m : Nat) (j : Nat) : Fld := ⟨0x40603284 + 0x30 * m + 0x8 * j, 31, 0⟩
def ACC_WST_WRAP (m : Nat) (j : Nat) : Fld := ⟨(ACC_WST m j).addr, 15, 8⟩
def ACC_WST_OVF (m : Nat) (j : Nat) : Fld := ⟨(ACC_WST m j).addr, 0, 0⟩
def PMU_CTL : Fld := ⟨0x40604040, 31, 0⟩
def PMU_CTL_CHMASK : Fld := ⟨(PMU_CTL).addr, 31, 16⟩
def PMU_CTL_PSEQ : Fld := ⟨(PMU_CTL).addr, 8, 8⟩
def PMU_CTL_RATE : Fld := ⟨(PMU_CTL).addr, 7, 4⟩
def PMU_CTL_CLASS : Fld := ⟨(PMU_CTL).addr, 1, 1⟩
def PMU_CTL_EN : Fld := ⟨(PMU_CTL).addr, 0, 0⟩
def PMU_STAT : Fld := ⟨0x40604044, 31, 0⟩
def PMU_STAT_COUNT : Fld := ⟨(PMU_STAT).addr, 31, 16⟩
def PMU_STAT_DROP : Fld := ⟨(PMU_STAT).addr, 1, 1⟩
def PMU_STAT_TLOCK : Fld := ⟨(PMU_STAT).addr, 0, 0⟩
def PMU_FREQ : Fld := ⟨0x40604048, 31, 0⟩
def PMU_ROCOF : Fld := ⟨0x4060404C, 31, 0⟩
def TIME_CTL : Fld := ⟨0x40020040, 31, 0⟩
def TIME_CTL_REARM : Fld := ⟨(TIME_CTL).addr, 4, 4⟩
def TIME_CTL_SRC : Fld := ⟨(TIME_CTL).addr, 1, 0⟩
def TIME_STAT : Fld := ⟨0x40020044, 31, 0⟩
def TIME_STAT_DISC : Fld := ⟨(TIME_STAT).addr, 31, 16⟩
def TIME_STAT_TLOCK : Fld := ⟨(TIME_STAT).addr, 7, 7⟩
def TIME_STAT_STEPPED : Fld := ⟨(TIME_STAT).addr, 6, 6⟩
def TIME_STAT_PEND : Fld := ⟨(TIME_STAT).addr, 5, 5⟩
def TIME_STAT_ARMED : Fld := ⟨(TIME_STAT).addr, 4, 4⟩
def TIME_STAT_STATE : Fld := ⟨(TIME_STAT).addr, 2, 0⟩
def TIME_SNAP : Fld := ⟨0x40020048, 31, 0⟩
def TIME_SNAP_SNAP : Fld := ⟨(TIME_SNAP).addr, 0, 0⟩
def TIME_SNAP_SUB : Fld := ⟨0x4002004C, 31, 0⟩
def TIME_SNAP_SEC : Fld := ⟨0x40020050, 31, 0⟩
def TIME_SNAP_SECH : Fld := ⟨0x40020054, 31, 0⟩
def TIME_SNAP_SECH_SECH : Fld := ⟨(TIME_SNAP_SECH).addr, 15, 0⟩
def TIME_MEAS_LO : Fld := ⟨0x40020060, 31, 0⟩
def TIME_MEAS_HI : Fld := ⟨0x40020064, 31, 0⟩
def TIME_RATE : Fld := ⟨0x40020068, 31, 0⟩
def TIME_FREQ : Fld := ⟨0x4002006C, 31, 0⟩
def TIME_SERVO : Fld := ⟨0x40020070, 31, 0⟩
def TIME_SERVO_RMAX : Fld := ⟨(TIME_SERVO).addr, 31, 16⟩
def TIME_SERVO_TI : Fld := ⟨(TIME_SERVO).addr, 15, 8⟩
def TIME_SERVO_TP : Fld := ⟨(TIME_SERVO).addr, 7, 0⟩
def TIME_LOCK : Fld := ⟨0x40020074, 31, 0⟩
def TIME_LOCK_LOCK_TH : Fld := ⟨(TIME_LOCK).addr, 31, 16⟩
def TIME_LOCK_STEP_TH : Fld := ⟨(TIME_LOCK).addr, 15, 0⟩
def TIME_HOLD : Fld := ⟨0x40020078, 31, 0⟩
def TIME_HOLD_HOLD_MAX : Fld := ⟨(TIME_HOLD).addr, 31, 16⟩
def TIME_HOLD_MEAS_TO : Fld := ⟨(TIME_HOLD).addr, 7, 0⟩
def TIME_OFFS : Fld := ⟨0x4002007C, 31, 0⟩
def TIME_PPS : Fld := ⟨0x40020080, 31, 0⟩
def TIME_TEST : Fld := ⟨0x40020084, 31, 0⟩
def TRIG_LINE (m : Nat) : Fld := ⟨0x40021040 + 0x4 * m, 31, 0⟩
def TRIG_LINE_INDEX (m : Nat) : Fld := ⟨(TRIG_LINE m).addr, 13, 8⟩
def TRIG_LINE_SRC (m : Nat) : Fld := ⟨(TRIG_LINE m).addr, 3, 0⟩
def TRIG_SW : Fld := ⟨0x40021080, 31, 0⟩
def TRIG_SW_PULSE : Fld := ⟨(TRIG_SW).addr, 15, 0⟩
def GEN_PER (m : Nat) : Fld := ⟨0x400210A0 + 0x10 * m, 31, 0⟩
def GEN_PHASE (m : Nat) : Fld := ⟨0x400210A4 + 0x10 * m, 31, 0⟩
def GEN_CTL (m : Nat) : Fld := ⟨0x400210A8 + 0x10 * m, 31, 0⟩
def GEN_CTL_EN (m : Nat) : Fld := ⟨(GEN_CTL m).addr, 0, 0⟩
def CAP_CFG (m : Nat) : Fld := ⟨0x40021100 + 0x10 * m, 31, 0⟩
def CAP_CFG_SEL (m : Nat) : Fld := ⟨(CAP_CFG m).addr, 5, 1⟩
def CAP_CFG_EN (m : Nat) : Fld := ⟨(CAP_CFG m).addr, 0, 0⟩
def CAP_STAT (m : Nat) : Fld := ⟨0x40021104 + 0x10 * m, 31, 0⟩
def CAP_STAT_FINE (m : Nat) : Fld := ⟨(CAP_STAT m).addr, 11, 8⟩
def CAP_STAT_OVR (m : Nat) : Fld := ⟨(CAP_STAT m).addr, 1, 1⟩
def CAP_STAT_VALID (m : Nat) : Fld := ⟨(CAP_STAT m).addr, 0, 0⟩
def CAP_SUB (m : Nat) : Fld := ⟨0x40021108 + 0x10 * m, 31, 0⟩
def CAP_SEC (m : Nat) : Fld := ⟨0x4002110C + 0x10 * m, 31, 0⟩
def ETH_CTL (n : Nat) : Fld := ⟨0x40B00040 + 0x1000 * n, 31, 0⟩
def ETH_CTL_LOOP (n : Nat) : Fld := ⟨(ETH_CTL n).addr, 4, 4⟩
def ETH_CTL_TXDLY (n : Nat) : Fld := ⟨(ETH_CTL n).addr, 3, 3⟩
def ETH_CTL_RXDLY (n : Nat) : Fld := ⟨(ETH_CTL n).addr, 2, 2⟩
def ETH_CTL_IF (n : Nat) : Fld := ⟨(ETH_CTL n).addr, 1, 1⟩
def ETH_CTL_EN (n : Nat) : Fld := ⟨(ETH_CTL n).addr, 0, 0⟩
def ETH_RXBUF (n : Nat) : Fld := ⟨0x40B00044 + 0x1000 * n, 31, 0⟩
def ETH_RXBUF_BASE (n : Nat) : Fld := ⟨(ETH_RXBUF n).addr, 21, 6⟩
def ETH_RXBUF_LOG2 (n : Nat) : Fld := ⟨(ETH_RXBUF n).addr, 4, 0⟩
def ETH_LAT (n : Nat) : Fld := ⟨0x40B00048 + 0x1000 * n, 31, 0⟩
def ETH_LAT_EGR (n : Nat) : Fld := ⟨(ETH_LAT n).addr, 31, 16⟩
def ETH_LAT_ING (n : Nat) : Fld := ⟨(ETH_LAT n).addr, 15, 0⟩
def ETH_ALIGN (n : Nat) : Fld := ⟨0x40B0004C + 0x1000 * n, 31, 0⟩
def ETH_ALIGN_ALIGN (n : Nat) : Fld := ⟨(ETH_ALIGN n).addr, 3, 0⟩
def ETH_STAT (n : Nat) : Fld := ⟨0x40B00050 + 0x1000 * n, 31, 0⟩
def ETH_STAT_RXDROP (n : Nat) : Fld := ⟨(ETH_STAT n).addr, 31, 16⟩
def ETH_STAT_TSLOST (n : Nat) : Fld := ⟨(ETH_STAT n).addr, 15, 0⟩
def MD_CFG (n : Nat) : Fld := ⟨0x40700040 + 0x1000 * n, 31, 0⟩
def MD_CFG_EN (n : Nat) : Fld := ⟨(MD_CFG n).addr, 31, 31⟩
def MD_CFG_HALL (n : Nat) : Fld := ⟨(MD_CFG n).addr, 30, 30⟩
def MD_CFG_VMEAS (n : Nat) : Fld := ⟨(MD_CFG n).addr, 29, 29⟩
def MD_CFG_FW (n : Nat) : Fld := ⟨(MD_CFG n).addr, 28, 28⟩
def MD_CFG_BUS (n : Nat) : Fld := ⟨(MD_CFG n).addr, 27, 27⟩
def MD_CFG_STOW (n : Nat) : Fld := ⟨(MD_CFG n).addr, 26, 26⟩
def MD_CFG_POLES (n : Nat) : Fld := ⟨(MD_CFG n).addr, 23, 20⟩
def MD_CFG_TRIG (n : Nat) : Fld := ⟨(MD_CFG n).addr, 19, 16⟩
def MD_SLOTS (n : Nat) : Fld := ⟨0x40700044 + 0x1000 * n, 31, 0⟩
def MD_SLOTS_IU (n : Nat) : Fld := ⟨(MD_SLOTS n).addr, 31, 24⟩
def MD_SLOTS_IV (n : Nat) : Fld := ⟨(MD_SLOTS n).addr, 23, 16⟩
def MD_SLOTS_VU (n : Nat) : Fld := ⟨(MD_SLOTS n).addr, 15, 8⟩
def MD_SLOTS_VV (n : Nat) : Fld := ⟨(MD_SLOTS n).addr, 7, 0⟩
def MD_SLOTS2 (n : Nat) : Fld := ⟨0x40700048 + 0x1000 * n, 31, 0⟩
def MD_SLOTS2_VW (n : Nat) : Fld := ⟨(MD_SLOTS2 n).addr, 7, 0⟩
def MD_KI (n : Nat) : Fld := ⟨0x4070004C + 0x1000 * n, 31, 0⟩
def MD_KV (n : Nat) : Fld := ⟨0x40700050 + 0x1000 * n, 31, 0⟩
def MD_MOTOR (n : Nat) : Fld := ⟨0x40700054 + 0x1000 * n, 31, 0⟩
def MD_MOTOR_RS (n : Nat) : Fld := ⟨(MD_MOTOR n).addr, 31, 16⟩
def MD_MOTOR_PSI (n : Nat) : Fld := ⟨(MD_MOTOR n).addr, 15, 0⟩
def MD_BANDS (n : Nat) : Fld := ⟨0x40700058 + 0x1000 * n, 31, 0⟩
def MD_BANDS_HT (n : Nat) : Fld := ⟨(MD_BANDS n).addr, 31, 16⟩
def MD_BANDS_HPSI (n : Nat) : Fld := ⟨(MD_BANDS n).addr, 15, 0⟩
def MD_LIM (n : Nat) : Fld := ⟨0x4070005C + 0x1000 * n, 31, 0⟩
def MD_LIM_IMAX (n : Nat) : Fld := ⟨(MD_LIM n).addr, 31, 16⟩
def MD_LIM_TMAX (n : Nat) : Fld := ⟨(MD_LIM n).addr, 15, 0⟩
def MD_SPD (n : Nat) : Fld := ⟨0x40700060 + 0x1000 * n, 31, 0⟩
def MD_SPD_SPD_MAX (n : Nat) : Fld := ⟨(MD_SPD n).addr, 31, 16⟩
def MD_SPD_SPD_MIN (n : Nat) : Fld := ⟨(MD_SPD n).addr, 15, 0⟩
def MD_RAMP (n : Nat) : Fld := ⟨0x40700064 + 0x1000 * n, 31, 0⟩
def MD_RAMP_ACC (n : Nat) : Fld := ⟨(MD_RAMP n).addr, 31, 16⟩
def MD_RAMP_DEC (n : Nat) : Fld := ⟨(MD_RAMP n).addr, 15, 0⟩
def MD_PI (n : Nat) : Fld := ⟨0x40700068 + 0x1000 * n, 31, 0⟩
def MD_PI_KP (n : Nat) : Fld := ⟨(MD_PI n).addr, 31, 16⟩
def MD_PI_KI (n : Nat) : Fld := ⟨(MD_PI n).addr, 15, 0⟩
def MD_TIMES (n : Nat) : Fld := ⟨0x4070006C + 0x1000 * n, 31, 0⟩
def MD_TIMES_CATCH_T (n : Nat) : Fld := ⟨(MD_TIMES n).addr, 31, 24⟩
def MD_TIMES_ALIGN_T (n : Nat) : Fld := ⟨(MD_TIMES n).addr, 23, 16⟩
def MD_TIMES_LOSS_T (n : Nat) : Fld := ⟨(MD_TIMES n).addr, 15, 8⟩
def MD_TIMES_REV_T (n : Nat) : Fld := ⟨(MD_TIMES n).addr, 7, 0⟩
def MD_CUR (n : Nat) : Fld := ⟨0x40700070 + 0x1000 * n, 31, 0⟩
def MD_CUR_IALIGN (n : Nat) : Fld := ⟨(MD_CUR n).addr, 31, 16⟩
def MD_CUR_HBAND (n : Nat) : Fld := ⟨(MD_CUR n).addr, 15, 0⟩
def MD_STOPC (n : Nat) : Fld := ⟨0x40700074 + 0x1000 * n, 31, 0⟩
def MD_STOPC_ISTOP (n : Nat) : Fld := ⟨(MD_STOPC n).addr, 31, 16⟩
def MD_STOPC_VLIM (n : Nat) : Fld := ⟨(MD_STOPC n).addr, 15, 0⟩
def MD_HFWD (n : Nat) : Fld := ⟨0x40700078 + 0x1000 * n, 31, 0⟩
def MD_HFWD_HFWD (n : Nat) : Fld := ⟨(MD_HFWD n).addr, 23, 0⟩
def MD_OCMP (n : Nat) : Fld := ⟨0x4070007C + 0x1000 * n, 31, 0⟩
def MD_OCMP_EN (n : Nat) : Fld := ⟨(MD_OCMP n).addr, 31, 31⟩
def MD_OCMP_U (n : Nat) : Fld := ⟨(MD_OCMP n).addr, 29, 24⟩
def MD_OCMP_V (n : Nat) : Fld := ⟨(MD_OCMP n).addr, 21, 16⟩
def MD_OCMP_W (n : Nat) : Fld := ⟨(MD_OCMP n).addr, 13, 8⟩
def MD_CMD (n : Nat) : Fld := ⟨0x40700080 + 0x1000 * n, 31, 0⟩
def MD_CMD_INJ (n : Nat) : Fld := ⟨(MD_CMD n).addr, 3, 3⟩
def MD_CMD_OP (n : Nat) : Fld := ⟨(MD_CMD n).addr, 2, 0⟩
def MD_SPD_TGT (n : Nat) : Fld := ⟨0x40700084 + 0x1000 * n, 31, 0⟩
def MD_POS_TGT (n : Nat) : Fld := ⟨0x40700088 + 0x1000 * n, 31, 0⟩
def MD_STOW_POS (n : Nat) : Fld := ⟨0x4070008C + 0x1000 * n, 31, 0⟩
def MD_POSCFG (n : Nat) : Fld := ⟨0x40700090 + 0x1000 * n, 31, 0⟩
def MD_POSCFG_KPOS (n : Nat) : Fld := ⟨(MD_POSCFG n).addr, 31, 16⟩
def MD_POSCFG_POS_WIN (n : Nat) : Fld := ⟨(MD_POSCFG n).addr, 15, 8⟩
def MD_POSCFG_STOW_TO (n : Nat) : Fld := ⟨(MD_POSCFG n).addr, 7, 0⟩
def MD_STAT (n : Nat) : Fld := ⟨0x407000A0 + 0x1000 * n, 31, 0⟩
def MD_STAT_FCAUSE (n : Nat) : Fld := ⟨(MD_STAT n).addr, 31, 28⟩
def MD_STAT_POSMODE (n : Nat) : Fld := ⟨(MD_STAT n).addr, 20, 20⟩
def MD_STAT_STOWED (n : Nat) : Fld := ⟨(MD_STAT n).addr, 19, 19⟩
def MD_STAT_STOW_FAIL (n : Nat) : Fld := ⟨(MD_STAT n).addr, 18, 18⟩
def MD_STAT_VCEIL (n : Nat) : Fld := ⟨(MD_STAT n).addr, 17, 17⟩
def MD_STAT_HALLMODE (n : Nat) : Fld := ⟨(MD_STAT n).addr, 16, 16⟩
def MD_STAT_FAULT (n : Nat) : Fld := ⟨(MD_STAT n).addr, 8, 8⟩
def MD_STAT_LOST (n : Nat) : Fld := ⟨(MD_STAT n).addr, 7, 7⟩
def MD_STAT_SHORTED (n : Nat) : Fld := ⟨(MD_STAT n).addr, 6, 6⟩
def MD_STAT_CLR_REFUSED (n : Nat) : Fld := ⟨(MD_STAT n).addr, 5, 5⟩
def MD_STAT_DIRREF (n : Nat) : Fld := ⟨(MD_STAT n).addr, 4, 4⟩
def MD_STAT_STATE (n : Nat) : Fld := ⟨(MD_STAT n).addr, 3, 0⟩
def MD_SPEED (n : Nat) : Fld := ⟨0x407000A4 + 0x1000 * n, 31, 0⟩
def MD_TORQUE (n : Nat) : Fld := ⟨0x407000A8 + 0x1000 * n, 31, 0⟩
def MD_FLUX (n : Nat) : Fld := ⟨0x407000AC + 0x1000 * n, 31, 0⟩
def MD_VBUS (n : Nat) : Fld := ⟨0x407000B0 + 0x1000 * n, 31, 0⟩
def MD_IPK (n : Nat) : Fld := ⟨0x407000B4 + 0x1000 * n, 31, 0⟩
def MD_VEC (n : Nat) : Fld := ⟨0x407000B8 + 0x1000 * n, 31, 0⟩
def MD_VEC_MISS (n : Nat) : Fld := ⟨(MD_VEC n).addr, 15, 8⟩
def MD_VEC_SECTOR (n : Nat) : Fld := ⟨(MD_VEC n).addr, 6, 4⟩
def MD_VEC_VEC (n : Nat) : Fld := ⟨(MD_VEC n).addr, 2, 0⟩
def BRK_CFG (m : Nat) : Fld := ⟨0x40703040 + 0x20 * m, 31, 0⟩
def BRK_CFG_EN (m : Nat) : Fld := ⟨(BRK_CFG m).addr, 31, 31⟩
def BRK_CFG_ICMP (m : Nat) : Fld := ⟨(BRK_CFG m).addr, 29, 24⟩
def BRK_CFG_VSLOT (m : Nat) : Fld := ⟨(BRK_CFG m).addr, 23, 16⟩
def BRK_KV (m : Nat) : Fld := ⟨0x40703044 + 0x20 * m, 31, 0⟩
def BRK_THR (m : Nat) : Fld := ⟨0x40703048 + 0x20 * m, 31, 0⟩
def BRK_THR_VON (m : Nat) : Fld := ⟨(BRK_THR m).addr, 31, 16⟩
def BRK_THR_VOFF (m : Nat) : Fld := ⟨(BRK_THR m).addr, 15, 0⟩
def BRK_THR2 (m : Nat) : Fld := ⟨0x4070304C + 0x20 * m, 31, 0⟩
def BRK_THR2_VSHORT (m : Nat) : Fld := ⟨(BRK_THR2 m).addr, 31, 16⟩
def BRK_THR2_CHK_T (m : Nat) : Fld := ⟨(BRK_THR2 m).addr, 15, 8⟩
def BRK_STAT (m : Nat) : Fld := ⟨0x40703050 + 0x20 * m, 31, 0⟩
def BRK_STAT_ON (m : Nat) : Fld := ⟨(BRK_STAT m).addr, 4, 4⟩
def BRK_STAT_STUCK (m : Nat) : Fld := ⟨(BRK_STAT m).addr, 3, 3⟩
def BRK_STAT_OPEN (m : Nat) : Fld := ⟨(BRK_STAT m).addr, 2, 2⟩
def BRK_STAT_CLR_REFUSED (m : Nat) : Fld := ⟨(BRK_STAT m).addr, 1, 1⟩
def BRK_STAT_OVERV (m : Nat) : Fld := ⟨(BRK_STAT m).addr, 0, 0⟩
def BRK_VBUS (m : Nat) : Fld := ⟨0x40703054 + 0x20 * m, 31, 0⟩
def ARC_CFG (m : Nat) : Fld := ⟨0x40780040 + 0x40 * m, 31, 0⟩
def ARC_CFG_EN (m : Nat) : Fld := ⟨(ARC_CFG m).addr, 31, 31⟩
def ARC_CFG_IDXEN (m : Nat) : Fld := ⟨(ARC_CFG m).addr, 30, 30⟩
def ARC_CFG_IDXPOL (m : Nat) : Fld := ⟨(ARC_CFG m).addr, 29, 29⟩
def ARC_CFG_DIR (m : Nat) : Fld := ⟨(ARC_CFG m).addr, 28, 28⟩
def ARC_CFG_HFILT (m : Nat) : Fld := ⟨(ARC_CFG m).addr, 23, 16⟩
def ARC_CFG_PPR (m : Nat) : Fld := ⟨(ARC_CFG m).addr, 15, 0⟩
def ARC_IDX (m : Nat) : Fld := ⟨0x40780044 + 0x40 * m, 31, 0⟩
def ARC_IDX_IDX_POS (m : Nat) : Fld := ⟨(ARC_IDX m).addr, 31, 16⟩
def ARC_HOME (m : Nat) : Fld := ⟨0x40780048 + 0x40 * m, 31, 0⟩
def ARC_HOME_HOME_POS (m : Nat) : Fld := ⟨(ARC_HOME m).addr, 31, 16⟩
def ARC_HOME_HOME (m : Nat) : Fld := ⟨(ARC_HOME m).addr, 0, 0⟩
def ARC_POS (m : Nat) : Fld := ⟨0x4078004C + 0x40 * m, 31, 0⟩
def ARC_POS_POS (m : Nat) : Fld := ⟨(ARC_POS m).addr, 15, 0⟩
def ARC_REV (m : Nat) : Fld := ⟨0x40780050 + 0x40 * m, 31, 0⟩
def ARC_LATCH (m : Nat) : Fld := ⟨0x40780054 + 0x40 * m, 31, 0⟩
def ARC_LATCH_REV (m : Nat) : Fld := ⟨(ARC_LATCH m).addr, 31, 16⟩
def ARC_LATCH_POS (m : Nat) : Fld := ⟨(ARC_LATCH m).addr, 15, 0⟩
def ARC_LTS_LO (m : Nat) : Fld := ⟨0x40780058 + 0x40 * m, 31, 0⟩
def ARC_LTS_HI (m : Nat) : Fld := ⟨0x4078005C + 0x40 * m, 31, 0⟩
def ARC_STAT (m : Nat) : Fld := ⟨0x40780060 + 0x40 * m, 31, 0⟩
def ARC_STAT_ERR (m : Nat) : Fld := ⟨(ARC_STAT m).addr, 23, 16⟩
def ARC_STAT_HOMED (m : Nat) : Fld := ⟨(ARC_STAT m).addr, 10, 10⟩
def ARC_STAT_HOMEARM (m : Nat) : Fld := ⟨(ARC_STAT m).addr, 9, 9⟩
def ARC_STAT_SENSOR (m : Nat) : Fld := ⟨(ARC_STAT m).addr, 8, 8⟩
def ARC_STAT_SKIP (m : Nat) : Fld := ⟨(ARC_STAT m).addr, 7, 7⟩
def ARC_STAT_HALLERR (m : Nat) : Fld := ⟨(ARC_STAT m).addr, 6, 6⟩
def ARC_STAT_CORR (m : Nat) : Fld := ⟨(ARC_STAT m).addr, 5, 5⟩
def ARC_STAT_LVALID (m : Nat) : Fld := ⟨(ARC_STAT m).addr, 4, 4⟩
def ARC_STAT_SECTOR (m : Nat) : Fld := ⟨(ARC_STAT m).addr, 2, 0⟩
def ARC_SPEED (m : Nat) : Fld := ⟨0x40780064 + 0x40 * m, 31, 0⟩
def ARC_CODE (m : Nat) : Fld := ⟨0x40780068 + 0x40 * m, 31, 0⟩
def ARC_CODE_CODE (m : Nat) : Fld := ⟨(ARC_CODE m).addr, 2, 0⟩
def SAFE_CTL : Fld := ⟨0x40800040, 31, 0⟩
def SAFE_CTL_PWRUP : Fld := ⟨(SAFE_CTL).addr, 8, 8⟩
def SAFE_CTL_RELEASE : Fld := ⟨(SAFE_CTL).addr, 0, 0⟩
def SAFE_STAT : Fld := ⟨0x40800044, 31, 0⟩
def SAFE_STAT_PERM : Fld := ⟨(SAFE_STAT).addr, 15, 15⟩
def SAFE_STAT_STARTOK : Fld := ⟨(SAFE_STAT).addr, 14, 14⟩
def SAFE_STAT_CHORD_OK : Fld := ⟨(SAFE_STAT).addr, 13, 13⟩
def SAFE_STAT_SECANT_OK : Fld := ⟨(SAFE_STAT).addr, 12, 12⟩
def SAFE_STAT_DSTOP : Fld := ⟨(SAFE_STAT).addr, 10, 8⟩
def SAFE_STAT_RELREF : Fld := ⟨(SAFE_STAT).addr, 4, 4⟩
def SAFE_STAT_GEN : Fld := ⟨(SAFE_STAT).addr, 3, 3⟩
def SAFE_STAT_GRANT : Fld := ⟨(SAFE_STAT).addr, 2, 2⟩
def SAFE_STAT_PSAFE : Fld := ⟨(SAFE_STAT).addr, 1, 1⟩
def SAFE_CAUSE : Fld := ⟨0x40800048, 31, 0⟩
def SAFE_CAUSE_CAUSE : Fld := ⟨(SAFE_CAUSE).addr, 14, 0⟩
def SAFE_FAULT : Fld := ⟨0x4080004C, 31, 0⟩
def SAFE_FAULT_FAULT : Fld := ⟨(SAFE_FAULT).addr, 8, 0⟩
def SAFE_OUT_REQ : Fld := ⟨0x40800050, 31, 0⟩
def SAFE_OUT_REQ_REQ : Fld := ⟨(SAFE_OUT_REQ).addr, 3, 0⟩
def SAFE_OUT_STAT : Fld := ⟨0x40800054, 31, 0⟩
def SAFE_OUT_STAT_WELD : Fld := ⟨(SAFE_OUT_STAT).addr, 23, 20⟩
def SAFE_OUT_STAT_ONFAIL : Fld := ⟨(SAFE_OUT_STAT).addr, 19, 16⟩
def SAFE_OUT_STAT_SFB : Fld := ⟨(SAFE_OUT_STAT).addr, 11, 8⟩
def SAFE_OUT_STAT_ON : Fld := ⟨(SAFE_OUT_STAT).addr, 3, 0⟩
def SAFE_OUT_CFG : Fld := ⟨0x40800058, 31, 0⟩
def SAFE_OUT_CFG_FB_T : Fld := ⟨(SAFE_OUT_CFG).addr, 31, 16⟩
def SAFE_OUT_CFG_BRAKE_DRV : Fld := ⟨(SAFE_OUT_CFG).addr, 5, 4⟩
def SAFE_OUT_CFG_FBEN : Fld := ⟨(SAFE_OUT_CFG).addr, 3, 2⟩
def SAFE_PARCRC : Fld := ⟨0x4080005C, 31, 0⟩
def SAFE_MRAM : Fld := ⟨0x40800060, 31, 0⟩
def SAFE_MRAM_BUILTIN : Fld := ⟨(SAFE_MRAM).addr, 2, 2⟩
def SAFE_MRAM_LOADED : Fld := ⟨(SAFE_MRAM).addr, 1, 1⟩
def SAFE_MRAM_WEN : Fld := ⟨(SAFE_MRAM).addr, 0, 0⟩
def SAFE_TEST : Fld := ⟨0x40800064, 31, 0⟩
def SAFE_TEST_OINJ : Fld := ⟨(SAFE_TEST).addr, 1, 1⟩
def SAFE_TEST_XINJ : Fld := ⟨(SAFE_TEST).addr, 0, 0⟩
def SIN_CFG (m : Nat) : Fld := ⟨0x40801040 + 0x8 * m, 31, 0⟩
def SIN_CFG_DISC (m : Nat) : Fld := ⟨(SIN_CFG m).addr, 31, 16⟩
def SIN_CFG_ANTI (m : Nat) : Fld := ⟨(SIN_CFG m).addr, 3, 3⟩
def SIN_CFG_DRV (m : Nat) : Fld := ⟨(SIN_CFG m).addr, 1, 1⟩
def SIN_CFG_PLANT (m : Nat) : Fld := ⟨(SIN_CFG m).addr, 0, 0⟩
def SIN_STAT (m : Nat) : Fld := ⟨0x40801044 + 0x8 * m, 31, 0⟩
def SIN_STAT_DISCF (m : Nat) : Fld := ⟨(SIN_STAT m).addr, 4, 4⟩
def SIN_STAT_DEMAND (m : Nat) : Fld := ⟨(SIN_STAT m).addr, 3, 3⟩
def SIN_STAT_B (m : Nat) : Fld := ⟨(SIN_STAT m).addr, 2, 2⟩
def SIN_STAT_A (m : Nat) : Fld := ⟨(SIN_STAT m).addr, 1, 1⟩
def SAFE_DCOV : Fld := ⟨0x40802040, 31, 0⟩
def SAFE_DCOV_LIM : Fld := ⟨(SAFE_DCOV).addr, 31, 16⟩
def SAFE_DCOV_SLOT : Fld := ⟨(SAFE_DCOV).addr, 15, 8⟩
def SAFE_DCOV_CMP : Fld := ⟨(SAFE_DCOV).addr, 7, 2⟩
def SAFE_DCOV_EN : Fld := ⟨(SAFE_DCOV).addr, 0, 0⟩
def SDRV_CFG (m : Nat) : Fld := ⟨0x40802060 + 0x20 * m, 31, 0⟩
def SDRV_CFG_FRAMEDIR (m : Nat) : Fld := ⟨(SDRV_CFG m).addr, 4, 4⟩
def SDRV_CFG_FORBID_NEG (m : Nat) : Fld := ⟨(SDRV_CFG m).addr, 3, 3⟩
def SDRV_CFG_FORBID_POS (m : Nat) : Fld := ⟨(SDRV_CFG m).addr, 2, 2⟩
def SDRV_CFG_SLP_EN (m : Nat) : Fld := ⟨(SDRV_CFG m).addr, 1, 1⟩
def SDRV_CFG_SLS_EN (m : Nat) : Fld := ⟨(SDRV_CFG m).addr, 0, 0⟩
def SDRV_SLS (m : Nat) : Fld := ⟨0x40802064 + 0x20 * m, 31, 0⟩
def SDRV_SLS_LIM (m : Nat) : Fld := ⟨(SDRV_SLS m).addr, 31, 16⟩
def SDRV_SLS_HOME_LIM (m : Nat) : Fld := ⟨(SDRV_SLS m).addr, 15, 0⟩
def SDRV_PMIN (m : Nat) : Fld := ⟨0x40802068 + 0x20 * m, 31, 0⟩
def SDRV_PMAX (m : Nat) : Fld := ⟨0x4080206C + 0x20 * m, 31, 0⟩
def SDRV_TOL (m : Nat) : Fld := ⟨0x40802070 + 0x20 * m, 31, 0⟩
def SDRV_TOL_XTOL (m : Nat) : Fld := ⟨(SDRV_TOL m).addr, 31, 16⟩
def SDRV_TOL_SDIR_TOL (m : Nat) : Fld := ⟨(SDRV_TOL m).addr, 15, 0⟩
def SDRV_STAT (m : Nat) : Fld := ⟨0x40802074 + 0x20 * m, 31, 0⟩
def SDRV_STAT_ALIGNED (m : Nat) : Fld := ⟨(SDRV_STAT m).addr, 7, 7⟩
def SDRV_STAT_CAUSE (m : Nat) : Fld := ⟨(SDRV_STAT m).addr, 6, 1⟩
def SDRV_STAT_DSTOP (m : Nat) : Fld := ⟨(SDRV_STAT m).addr, 0, 0⟩
def SAFE_DRV_REL : Fld := ⟨0x408020C0, 31, 0⟩
def SAFE_DRV_REL_REL : Fld := ⟨(SAFE_DRV_REL).addr, 2, 0⟩
def SCONN_CFG (m : Nat) : Fld := ⟨0x40803040 + 0x20 * m, 31, 0⟩
def SCONN_CFG_WD_MAX (m : Nat) : Fld := ⟨(SCONN_CFG m).addr, 31, 16⟩
def SCONN_CFG_TXPER (m : Nat) : Fld := ⟨(SCONN_CFG m).addr, 15, 8⟩
def SCONN_CFG_SEQWIN (m : Nat) : Fld := ⟨(SCONN_CFG m).addr, 7, 4⟩
def SCONN_CFG_CMDEN (m : Nat) : Fld := ⟨(SCONN_CFG m).addr, 3, 3⟩
def SCONN_CFG_REACT (m : Nat) : Fld := ⟨(SCONN_CFG m).addr, 2, 2⟩
def SCONN_CFG_RESTART (m : Nat) : Fld := ⟨(SCONN_CFG m).addr, 1, 1⟩
def SCONN_CFG_EN (m : Nat) : Fld := ⟨(SCONN_CFG m).addr, 0, 0⟩
def SCONN_ID (m : Nat) : Fld := ⟨0x40803044 + 0x20 * m, 31, 0⟩
def SCONN_PEER (m : Nat) : Fld := ⟨0x40803048 + 0x20 * m, 31, 0⟩
def SCONN_STAT (m : Nat) : Fld := ⟨0x4080304C + 0x20 * m, 31, 0⟩
def SCONN_STAT_DISCARDS (m : Nat) : Fld := ⟨(SCONN_STAT m).addr, 31, 16⟩
def SCONN_STAT_CRCERR (m : Nat) : Fld := ⟨(SCONN_STAT m).addr, 15, 8⟩
def SCONN_STAT_STATE (m : Nat) : Fld := ⟨(SCONN_STAT m).addr, 1, 0⟩
def SCONN_SEQ (m : Nat) : Fld := ⟨0x40803050 + 0x20 * m, 31, 0⟩
def SCONN_TXSEQ (m : Nat) : Fld := ⟨0x40803054 + 0x20 * m, 31, 0⟩
def ORIGIN_STAT : Fld := ⟨0x40900040, 31, 0⟩
def ORIGIN_STAT_CHGSTATE : Fld := ⟨(ORIGIN_STAT).addr, 13, 11⟩
def ORIGIN_STAT_DEGRADED : Fld := ⟨(ORIGIN_STAT).addr, 10, 10⟩
def ORIGIN_STAT_WEARHI : Fld := ⟨(ORIGIN_STAT).addr, 9, 9⟩
def ORIGIN_STAT_TRIMVALID : Fld := ⟨(ORIGIN_STAT).addr, 8, 8⟩
def ORIGIN_STAT_RTCVALID : Fld := ⟨(ORIGIN_STAT).addr, 7, 7⟩
def ORIGIN_STAT_CKVALID : Fld := ⟨(ORIGIN_STAT).addr, 6, 6⟩
def ORIGIN_STAT_BURST : Fld := ⟨(ORIGIN_STAT).addr, 5, 5⟩
def ORIGIN_STAT_RAILS : Fld := ⟨(ORIGIN_STAT).addr, 4, 4⟩
def ORIGIN_STAT_CELLON : Fld := ⟨(ORIGIN_STAT).addr, 3, 3⟩
def ORIGIN_STAT_CUT : Fld := ⟨(ORIGIN_STAT).addr, 2, 2⟩
def ORIGIN_STAT_PGOOD : Fld := ⟨(ORIGIN_STAT).addr, 1, 1⟩
def ORIGIN_STAT_HPRES : Fld := ⟨(ORIGIN_STAT).addr, 0, 0⟩
def ORIGIN_VMEAS : Fld := ⟨0x40900044, 31, 0⟩
def ORIGIN_VMEAS_VHARV : Fld := ⟨(ORIGIN_VMEAS).addr, 31, 16⟩
def ORIGIN_VMEAS_VCELL : Fld := ⟨(ORIGIN_VMEAS).addr, 15, 0⟩
def ORIGIN_HARV : Fld := ⟨0x40900048, 31, 0⟩
def ORIGIN_HARV_DUSK_T : Fld := ⟨(ORIGIN_HARV).addr, 31, 24⟩
def ORIGIN_HARV_DAWN_T : Fld := ⟨(ORIGIN_HARV).addr, 23, 16⟩
def ORIGIN_HARV_HV_OFF : Fld := ⟨(ORIGIN_HARV).addr, 15, 8⟩
def ORIGIN_HARV_HV_ON : Fld := ⟨(ORIGIN_HARV).addr, 7, 0⟩
def ORIGIN_CHG : Fld := ⟨0x4090004C, 31, 0⟩
def ORIGIN_CHG_CHG_TO : Fld := ⟨(ORIGIN_CHG).addr, 31, 24⟩
def ORIGIN_CHG_EN : Fld := ⟨(ORIGIN_CHG).addr, 16, 16⟩
def ORIGIN_CHG_VCHG : Fld := ⟨(ORIGIN_CHG).addr, 15, 8⟩
def ORIGIN_CHG_ICHG : Fld := ⟨(ORIGIN_CHG).addr, 7, 0⟩
def ORIGIN_STORE : Fld := ⟨0x40900050, 31, 0⟩
def ORIGIN_STORE_RESERVE : Fld := ⟨(ORIGIN_STORE).addr, 31, 16⟩
def ORIGIN_STORE_CAP : Fld := ⟨(ORIGIN_STORE).addr, 15, 0⟩
def ORIGIN_ESTORE : Fld := ⟨0x40900054, 31, 0⟩
def ORIGIN_BCOST : Fld := ⟨0x40900058, 31, 0⟩
def ORIGIN_BCOST_HOUSE : Fld := ⟨(ORIGIN_BCOST).addr, 31, 16⟩
def ORIGIN_BCOST_FINAL : Fld := ⟨(ORIGIN_BCOST).addr, 15, 0⟩
def ORIGIN_CTL : Fld := ⟨0x4090005C, 31, 0⟩
def ORIGIN_CTL_TFAIL : Fld := ⟨(ORIGIN_CTL).addr, 2, 2⟩
def ORIGIN_CTL_RTCSET : Fld := ⟨(ORIGIN_CTL).addr, 1, 1⟩
def ORIGIN_CTL_AUTOTRIM : Fld := ⟨(ORIGIN_CTL).addr, 0, 0⟩
def ORIGIN_RTC_SEC : Fld := ⟨0x40900060, 31, 0⟩
def ORIGIN_RTC_SECH : Fld := ⟨0x40900064, 31, 0⟩
def ORIGIN_RTC_SECH_SUBK : Fld := ⟨(ORIGIN_RTC_SECH).addr, 31, 16⟩
def ORIGIN_RTC_SECH_SECH : Fld := ⟨(ORIGIN_RTC_SECH).addr, 15, 0⟩
def ORIGIN_RTC_TRIM : Fld := ⟨0x40900068, 31, 0⟩
def ORIGIN_RTC_SETL : Fld := ⟨0x4090006C, 31, 0⟩
def ORIGIN_RTC_SETH : Fld := ⟨0x40900070, 31, 0⟩
def ORIGIN_RTC_SETH_SECH : Fld := ⟨(ORIGIN_RTC_SETH).addr, 15, 0⟩
def ORIGIN_CKP_STAT : Fld := ⟨0x40900080, 31, 0⟩
def ORIGIN_CKP_STAT_RETIRED : Fld := ⟨(ORIGIN_CKP_STAT).addr, 31, 16⟩
def ORIGIN_CKP_STAT_SLOT : Fld := ⟨(ORIGIN_CKP_STAT).addr, 8, 8⟩
def ORIGIN_CKP_STAT_ACTIVE : Fld := ⟨(ORIGIN_CKP_STAT).addr, 3, 0⟩
def ORIGIN_CKP_SEQ : Fld := ⟨0x40900084, 31, 0⟩
def ORIGIN_CKP_ACTN : Fld := ⟨0x40900088, 31, 0⟩
def ORIGIN_CKP_ACTN_COUNT : Fld := ⟨(ORIGIN_CKP_ACTN).addr, 16, 0⟩
def ORIGIN_WEAR : Fld := ⟨0x4090008C, 31, 0⟩
def ORIGIN_PFAIL_LO : Fld := ⟨0x40900090, 31, 0⟩
def ORIGIN_PFAIL_HI : Fld := ⟨0x40900094, 31, 0⟩
def ORIGIN_DARK : Fld := ⟨0x40900098, 31, 0⟩
def ORIGIN_DARK_POR : Fld := ⟨(ORIGIN_DARK).addr, 28, 28⟩
def ORIGIN_DARK_LOST : Fld := ⟨(ORIGIN_DARK).addr, 27, 27⟩
def ORIGIN_DARK_FREF : Fld := ⟨(ORIGIN_DARK).addr, 26, 26⟩
def ORIGIN_DARK_HREF : Fld := ⟨(ORIGIN_DARK).addr, 25, 25⟩
def ORIGIN_DARK_CUTSEEN : Fld := ⟨(ORIGIN_DARK).addr, 24, 24⟩
def ORIGIN_DARK_DUR : Fld := ⟨(ORIGIN_DARK).addr, 23, 0⟩
def ORIGIN_LIFE_ON : Fld := ⟨0x409000A0, 31, 0⟩
def ORIGIN_LIFE_DARK : Fld := ⟨0x409000A4, 31, 0⟩
def ORIGIN_LIFE_CYC : Fld := ⟨0x409000A8, 31, 0⟩
def ORIGIN_LIFE_EVT : Fld := ⟨0x409000AC, 31, 0⟩
def ORIGIN_LIFE_EVT_POR : Fld := ⟨(ORIGIN_LIFE_EVT).addr, 31, 16⟩
def ORIGIN_LIFE_EVT_VFAIL : Fld := ⟨(ORIGIN_LIFE_EVT).addr, 15, 0⟩
def ORIGIN_THERM : Fld := ⟨0x409000B0, 31, 0⟩
def ORIGIN_THERM_TEMP : Fld := ⟨(ORIGIN_THERM).addr, 23, 16⟩
def ORIGIN_THERM_CYC_HI : Fld := ⟨(ORIGIN_THERM).addr, 15, 8⟩
def ORIGIN_THERM_CYC_LO : Fld := ⟨(ORIGIN_THERM).addr, 7, 0⟩
def ORIGIN_AGE : Fld := ⟨0x409000B4, 31, 0⟩
def ORIGIN_AGE_BASE : Fld := ⟨(ORIGIN_AGE).addr, 31, 16⟩
def ORIGIN_AGE_COUNT : Fld := ⟨(ORIGIN_AGE).addr, 15, 0⟩
def SYS_ID : Fld := ⟨0x40000040, 31, 0⟩
def SYS_ID_DEVICE : Fld := ⟨(SYS_ID).addr, 31, 16⟩
def SYS_ID_MAJOR : Fld := ⟨(SYS_ID).addr, 15, 8⟩
def SYS_ID_MINOR : Fld := ⟨(SYS_ID).addr, 7, 0⟩
def SYS_RST_CAUSE : Fld := ⟨0x40000044, 31, 0⟩
def SYS_RST_CAUSE_CAUSE : Fld := ⟨(SYS_RST_CAUSE).addr, 5, 0⟩
def SYS_RST_CTL : Fld := ⟨0x40000048, 31, 0⟩
def SYS_RST_CTL_SWRST : Fld := ⟨(SYS_RST_CTL).addr, 0, 0⟩
def SYS_BOOT : Fld := ⟨0x4000004C, 31, 0⟩
def SYS_BOOT_SECVER : Fld := ⟨(SYS_BOOT).addr, 31, 16⟩
def SYS_BOOT_REJECT : Fld := ⟨(SYS_BOOT).addr, 11, 8⟩
def SYS_BOOT_LOADERR : Fld := ⟨(SYS_BOOT).addr, 7, 7⟩
def SYS_BOOT_SOURCE : Fld := ⟨(SYS_BOOT).addr, 6, 4⟩
def SYS_BOOT_BOOTSEL : Fld := ⟨(SYS_BOOT).addr, 1, 0⟩
def SYS_HC_REL : Fld := ⟨0x40000050, 31, 0⟩
def SYS_HC_REL_REL : Fld := ⟨(SYS_HC_REL).addr, 3, 1⟩
def SYS_WDT_CFG : Fld := ⟨0x40000054, 31, 0⟩
def SYS_WDT_CFG_TIMEOUT : Fld := ⟨(SYS_WDT_CFG).addr, 31, 16⟩
def SYS_WDT_CFG_EN : Fld := ⟨(SYS_WDT_CFG).addr, 0, 0⟩
def SYS_WDT_KICK : Fld := ⟨0x40000058, 31, 0⟩
def SYS_AGE (m : Nat) : Fld := ⟨0x40000060 + 0x4 * m, 31, 0⟩
def SYS_AGE_BASE (m : Nat) : Fld := ⟨(SYS_AGE m).addr, 31, 16⟩
def SYS_AGE_COUNT (m : Nat) : Fld := ⟨(SYS_AGE m).addr, 15, 0⟩
def CLK_REF : Fld := ⟨0x40010040, 31, 0⟩
def CLK_REF_XTAL : Fld := ⟨(CLK_REF).addr, 4, 4⟩
def CLK_REF_MULT_EFF : Fld := ⟨(CLK_REF).addr, 3, 2⟩
def CLK_REF_MULT : Fld := ⟨(CLK_REF).addr, 1, 0⟩
def CLK_PLL : Fld := ⟨0x40010044, 31, 0⟩
def CLK_PLL_UNLOCKED : Fld := ⟨(CLK_PLL).addr, 7, 4⟩
def CLK_PLL_LOCK : Fld := ⟨(CLK_PLL).addr, 3, 0⟩
def CLK_MON : Fld := ⟨0x40010048, 31, 0⟩
def CLK_MON_FAIL : Fld := ⟨(CLK_MON).addr, 8, 0⟩
def CLK_REFF : Fld := ⟨0x4001004C, 31, 0⟩
def CLKOUT_CFG (m : Nat) : Fld := ⟨0x40010080 + 0x10 * m, 31, 0⟩
def CLKOUT_CFG_FMT (m : Nat) : Fld := ⟨(CLKOUT_CFG m).addr, 1, 0⟩
def CLKOUT_DIV (m : Nat) : Fld := ⟨0x40010084 + 0x10 * m, 31, 0⟩
def CLKOUT_DIV_SRC (m : Nat) : Fld := ⟨(CLKOUT_DIV m).addr, 31, 30⟩
def CLKOUT_DIV_DELAY (m : Nat) : Fld := ⟨(CLKOUT_DIV m).addr, 27, 16⟩
def CLKOUT_DIV_DIV (m : Nat) : Fld := ⟨(CLKOUT_DIV m).addr, 11, 0⟩
def CLKOUT_CTL (m : Nat) : Fld := ⟨0x40010088 + 0x10 * m, 31, 0⟩
def CLKOUT_CTL_RESYNC (m : Nat) : Fld := ⟨(CLKOUT_CTL m).addr, 9, 9⟩
def CLKOUT_CTL_SETUP (m : Nat) : Fld := ⟨(CLKOUT_CTL m).addr, 8, 8⟩
def CLKOUT_CTL_EN (m : Nat) : Fld := ⟨(CLKOUT_CTL m).addr, 0, 0⟩
def CLK_SYNC : Fld := ⟨0x400100C0, 31, 0⟩
def CLK_SYNC_DONE : Fld := ⟨(CLK_SYNC).addr, 1, 1⟩
def CLK_SYNC_ARM : Fld := ⟨(CLK_SYNC).addr, 0, 0⟩
def AUXT_FORCE (n : Nat) : Fld := ⟨0x40140050 + 0x1000 * n, 31, 0⟩
def AUXT_FORCE_MODE (n : Nat) : Fld := ⟨(AUXT_FORCE n).addr, 1, 0⟩
def CE_SET (m : Nat) : Fld := ⟨0x40301040 + 0x4 * m, 31, 0⟩
def ADC_RES (m : Nat) : Fld := ⟨0x40502040 + 0x4 * m, 31, 0⟩
def RING_EVT_ROUTE : Fld := ⟨0x40A02040, 31, 0⟩
def RING_EVT_ROUTE_SAFETY : Fld := ⟨(RING_EVT_ROUTE).addr, 14, 12⟩
def RING_EVT_ROUTE_FAULT : Fld := ⟨(RING_EVT_ROUTE).addr, 10, 8⟩
def RING_EVT_ROUTE_WARN : Fld := ⟨(RING_EVT_ROUTE).addr, 6, 4⟩
def RING_EVT_ROUTE_INFO : Fld := ⟨(RING_EVT_ROUTE).addr, 2, 0⟩

end Sys2Proof.R
end

