-- ==== Sys2Proof/Machine/RegMap.lean ====
section
/-! DEFINITION. The register map of spec/02 (R26, R29, R33) and of every chapter's register tables:
pages, registers, fields, access codes, reset values, ranges, tightening directions and locks. -/

namespace Sys2Proof

/-- Access code of a field (R7): read-only, read-write, key-protected, tighten-only under seal,
write-one-to-clear, write-only. -/
inductive Access where
  | ro | rw | rwk | rwt | w1c | wo
deriving DecidableEq, Repr

/-- Tightening direction of an RWT field (R38). "Set" on one bit and "order a, b, c" with codes that
rise in that order are both `higher`; `byRegion` is the bound of a ride-through region, `higher` for
regions 0 to 3 and `lower` for 4 to 7 (R196); the S forms compare two's-complement numbers. -/
inductive Tight where
  | lower | higher | lowerS | higherS | byRegion
deriving DecidableEq, Repr

/-- What locks a field (R32 cause 7, R473): nothing, the seal, or a bit of the register at a signed
byte distance from the field's own register having the given value. -/
inductive Lock where
  | none
  | sealed
  | bit (rel : Int) (b : Nat) (v : Bool)
deriving DecidableEq, Repr

/-- Reset value of a field: a constant, the page index plus a constant, a table by register index,
or the fixed entry size or direction of a ring (R43). -/
inductive Rst where
  | const (v : Nat)
  | page (k : Nat)
  | tbl (l : List Nat)
  | ringEsz
  | ringDir
deriving DecidableEq, Repr

/-- One field of a register table. `range` is the stated range of its value, `perBit` marks
a row of bits each of which is one field. -/
structure FieldSpec where
  hi : Nat
  lo : Nat
  acc : Access
  rst : Rst
  range : Option (Nat × Nat) := none
  tight : Option Tight := none
  lock : Lock := .none
  perBit : Bool := false
deriving DecidableEq, Repr

/-- A register, or an array of registers of one layout (count, stride), at an offset of its page. -/
structure RegFam where
  off : Nat
  dims : List (Nat × Nat)
  fields : List FieldSpec
deriving DecidableEq, Repr

/-- A field whose reset value is a constant. -/
def fld (hi lo : Nat) (a : Access) (v : Nat) : FieldSpec := { hi, lo, acc := a, rst := .const v }
/-- A field whose reset value depends on the page or the register. -/
def fldR (hi lo : Nat) (a : Access) (r : Rst) : FieldSpec := { hi, lo, acc := a, rst := r }
def FieldSpec.within (f : FieldSpec) (a b : Nat) : FieldSpec := { f with range := some (a, b) }
def FieldSpec.tighten (f : FieldSpec) (t : Tight) : FieldSpec := { f with tight := some t }
def FieldSpec.locked (f : FieldSpec) (l : Lock) : FieldSpec := { f with lock := l }
def FieldSpec.bitwise (f : FieldSpec) : FieldSpec := { f with perBit := true }
def reg (off : Nat) (dims : List (Nat × Nat)) (fs : List FieldSpec) : RegFam := ⟨off, dims, fs⟩

/-- The kinds of register page (R26 and the chapters' page tables). -/
inductive PageKind where
  | sys | mode | clk | time | trig | leg | auxt | com | link | prot | tripp | ce
  | ceset | ceres | cesup | locus | rt | gc | isl | slope | slch | scan | adc | seq
  | res | rot | cmp | meter | mcal | mres | macc | mpmu | md | brk | arc | safe
  | sin | sfn | sconn | origin | ring | ringc | eth
deriving DecidableEq, Repr

/-- Base address, number of pages (0x1000 apart), page index of the first, class, block code (R26, R33)
and event source index (R53). -/
structure PageInfo where
  base : Nat
  count : Nat
  idx0 : Nat
  cls : Nat
  block : Nat
  src : Nat
deriving DecidableEq, Repr

def PageKind.info : PageKind → PageInfo
  | .sys => ⟨0x40000000, 1, 0, 1, 0x00, 16⟩
  | .mode => ⟨0x40001000, 1, 1, 1, 0x00, 16⟩
  | .clk => ⟨0x40010000, 1, 0, 1, 0x01, 15⟩
  | .time => ⟨0x40020000, 1, 0, 0, 0x02, 13⟩
  | .trig => ⟨0x40021000, 1, 1, 0, 0x02, 13⟩
  | .leg => ⟨0x40100000, 64, 0, 1, 0x10, 4⟩
  | .auxt => ⟨0x40140000, 20, 64, 1, 0x10, 5⟩
  | .com => ⟨0x40154000, 1, 84, 1, 0x10, 4⟩
  | .link => ⟨0x40200000, 8, 0, 0, 0x20, 19⟩
  | .prot => ⟨0x40210000, 8, 16, 1, 0x20, 19⟩
  | .tripp => ⟨0x40218000, 1, 24, 1, 0x20, 19⟩
  | .ce => ⟨0x40300000, 1, 0, 1, 0x30, 6⟩
  | .ceset => ⟨0x40301000, 1, 1, 0, 0x30, 6⟩
  | .ceres => ⟨0x40302000, 1, 2, 0, 0x30, 6⟩
  | .cesup => ⟨0x40303000, 1, 3, 1, 0x30, 6⟩
  | .locus => ⟨0x40400000, 1, 0, 0, 0x40, 7⟩
  | .rt => ⟨0x40401000, 1, 1, 1, 0x40, 7⟩
  | .gc => ⟨0x40402000, 1, 2, 1, 0x40, 7⟩
  | .isl => ⟨0x40403000, 1, 3, 1, 0x40, 7⟩
  | .slope => ⟨0x40480000, 1, 0, 0, 0x48, 8⟩
  | .slch => ⟨0x40481000, 32, 1, 0, 0x48, 8⟩
  | .scan => ⟨0x404A1000, 4, 33, 0, 0x48, 8⟩
  | .adc => ⟨0x40500000, 1, 0, 0, 0x50, 9⟩
  | .seq => ⟨0x40501000, 1, 1, 0, 0x50, 9⟩
  | .res => ⟨0x40502000, 1, 2, 0, 0x50, 9⟩
  | .rot => ⟨0x40503000, 1, 3, 0, 0x50, 9⟩
  | .cmp => ⟨0x40580000, 1, 0, 1, 0x58, 2⟩
  | .meter => ⟨0x40600000, 1, 0, 0, 0x60, 10⟩
  | .mcal => ⟨0x40601000, 1, 1, 0, 0x60, 10⟩
  | .mres => ⟨0x40602000, 1, 2, 0, 0x60, 10⟩
  | .macc => ⟨0x40603000, 1, 3, 0, 0x60, 10⟩
  | .mpmu => ⟨0x40604000, 1, 4, 0, 0x60, 10⟩
  | .md => ⟨0x40700000, 3, 0, 0, 0x70, 11⟩
  | .brk => ⟨0x40703000, 1, 3, 1, 0x70, 11⟩
  | .arc => ⟨0x40780000, 1, 0, 0, 0x78, 12⟩
  | .safe => ⟨0x40800000, 1, 0, 1, 0x80, 1⟩
  | .sin => ⟨0x40801000, 1, 1, 1, 0x80, 1⟩
  | .sfn => ⟨0x40802000, 1, 2, 1, 0x80, 1⟩
  | .sconn => ⟨0x40803000, 1, 3, 1, 0x80, 1⟩
  | .origin => ⟨0x40900000, 1, 0, 2, 0x90, 18⟩
  | .ring => ⟨0x40A00000, 2, 0, 0, 0xA0, 17⟩
  | .ringc => ⟨0x40A02000, 1, 2, 0, 0xA0, 17⟩
  | .eth => ⟨0x40B00000, 2, 0, 0, 0xB0, 14⟩

def allPages : List PageKind := [
  .sys, .mode, .clk, .time, .trig, .leg, .auxt, .com, .link, .prot, .tripp, .ce,
  .ceset, .ceres, .cesup, .locus, .rt, .gc, .isl, .slope, .slch, .scan, .adc, .seq,
  .res, .rot, .cmp, .meter, .mcal, .mres, .macc, .mpmu, .md, .brk, .arc, .safe,
  .sin, .sfn, .sconn, .origin, .ring, .ringc, .eth]


/-- Registers of page kind `sys` (spec/17_clocks_reset_boot_pins.md: R456). -/
def regs_sys : List RegFam := [
  -- SYS_ID
  reg 0x040 [] [
    fld 31 16 .ro 0x6400,  -- DEVICE
    fld 15 8 .ro 0,  -- MAJOR
    fld 7 0 .ro 0  -- MINOR
  ],
  -- SYS_RST_CAUSE
  reg 0x044 [] [
    fld 5 0 .ro 0  -- CAUSE
  ],
  -- SYS_RST_CTL
  reg 0x048 [] [
    fld 0 0 .rwk 0  -- SWRST
  ],
  -- SYS_BOOT
  reg 0x04C [] [
    fld 31 16 .ro 0,  -- SECVER
    fld 11 8 .ro 0,  -- REJECT
    fld 7 7 .ro 0,  -- LOADERR
    fld 6 4 .ro 0,  -- SOURCE
    fld 1 0 .ro 0  -- BOOTSEL
  ],
  -- SYS_HC_REL
  reg 0x050 [] [
    fld 3 1 .rw 0 |>.bitwise  -- REL
  ],
  -- SYS_WDT_CFG
  reg 0x054 [] [
    fld 31 16 .rwt 0x3E8 |>.within 1 0xFFFF |>.tighten .lower,  -- TIMEOUT
    fld 0 0 .rwt 0 |>.tighten .higher  -- EN
  ],
  -- SYS_WDT_KICK
  reg 0x058 [] [
    fld 31 0 .wo 0  -- KICK
  ],
  -- SYS_AGE
  reg 0x060 [(3, 0x4)] [
    fld 31 16 .ro 0,  -- BASE
    fld 15 0 .ro 0  -- COUNT
  ]
]

/-- Registers of page kind `mode` (spec/03_tick_and_modes.md: the mode page's register tables, R42 for its class). -/
def regs_mode : List RegFam := [
  -- SYS_MODE_REQ
  reg 0x040 [] [
    fld 2 0 .rw 2  -- TARGET
  ],
  -- SYS_MODE_MOD
  reg 0x044 [] [
    fld 3 3 .rw 0,  -- LEGACY
    fld 2 2 .rw 0,  -- TEST
    fld 1 1 .rw 0,  -- NIGHTVAR
    fld 0 0 .rw 0  -- CURTAIL
  ],
  -- SYS_MODE_STAT
  reg 0x048 [] [
    fld 26 26 .ro 0,  -- ROM
    fld 25 22 .ro 0,  -- ROMPROF
    fld 21 21 .ro 0,  -- PROFILE
    fld 20 20 .ro 0,  -- LIMIT
    fld 19 18 .ro 0,  -- ST_LEGACY
    fld 17 16 .ro 0,  -- ST_TEST
    fld 15 14 .ro 0,  -- ST_NIGHTVAR
    fld 13 12 .ro 0,  -- ST_CURTAIL
    fld 11 8 .ro 0,  -- CAUSE
    fld 7 6 .ro 0,  -- REQ
    fld 5 3 .ro 0,  -- PREV
    fld 2 0 .ro 1  -- MODE
  ],
  -- SYS_MODE_CFG
  reg 0x04C [] [
    fld 11 8 .rwt 8 |>.within 2 15 |>.tighten .lower,  -- OVR_HALT
    fld 2 2 .rw 0,  -- AUTO_START
    fld 1 1 .rwt 1 |>.tighten .higher,  -- BS_INHIBIT
    fld 0 0 .rwt 1 |>.tighten .higher  -- ISLAND_CEASE
  ],
  -- SYS_TICK_CFG
  reg 0x050 [] [
    fld 0 0 .rw 0  -- PROFILE
  ],
  -- SYS_TICK_OVR
  reg 0x054 [] [
    fld 24 24 .w1c 0,  -- OVR
    fld 23 16 .ro 0,  -- CONSEC
    fld 15 0 .ro 0  -- COUNT
  ],
  -- SYS_DCWIN
  reg 0x058 [] [
    fld 31 16 .rwt 0x2E66 |>.tighten .lower,  -- VMAX
    fld 15 0 .rwt 0x1CCD |>.tighten .higher  -- VMIN
  ]
]

/-- Registers of page kind `clk` (spec/17_clocks_reset_boot_pins.md: R457). -/
def regs_clk : List RegFam := [
  -- CLK_REF
  reg 0x040 [] [
    fld 4 4 .ro 0,  -- XTAL
    fld 3 2 .ro 0,  -- MULT_EFF
    fld 1 0 .rw 0 |>.within 0 2  -- MULT
  ],
  -- CLK_PLL
  reg 0x044 [] [
    fld 7 4 .w1c 0,  -- UNLOCKED
    fld 3 0 .ro 0  -- LOCK
  ],
  -- CLK_MON
  reg 0x048 [] [
    fld 8 0 .w1c 0  -- FAIL
  ],
  -- CLK_REFF
  reg 0x04C [] [
    fld 31 0 .ro 0  -- FREQ
  ],
  -- CLKOUT_CFG
  reg 0x080 [(4, 0x10)] [
    fld 1 0 .rw 0  -- FMT
  ],
  -- CLKOUT_DIV
  reg 0x084 [(4, 0x10)] [
    fld 31 30 .rw 0 |>.locked (.bit 4 8 false),  -- SRC
    fld 27 16 .rw 0 |>.locked (.bit 4 8 false),  -- DELAY
    fld 11 0 .rw 1 |>.within 1 4095 |>.locked (.bit 4 8 false)  -- DIV
  ],
  -- CLKOUT_CTL
  reg 0x088 [(4, 0x10)] [
    fld 9 9 .rw 0,  -- RESYNC
    fld 8 8 .rw 1,  -- SETUP
    fld 0 0 .rw 0 |>.locked (.bit 0 8 false)  -- EN
  ],
  -- CLK_SYNC
  reg 0x0C0 [] [
    fld 1 1 .w1c 0,  -- DONE
    fld 0 0 .rw 0  -- ARM
  ]
]

/-- Registers of page kind `time` (spec/13_time.md: R347). -/
def regs_time : List RegFam := [
  -- TIME_CTL
  reg 0x040 [] [
    fld 4 4 .wo 0,  -- REARM
    fld 1 0 .rw 0 |>.within 0 2  -- SRC
  ],
  -- TIME_STAT
  reg 0x044 [] [
    fld 31 16 .ro 0,  -- DISC
    fld 7 7 .ro 0,  -- TLOCK
    fld 6 6 .ro 0,  -- STEPPED
    fld 5 5 .ro 0,  -- PEND
    fld 4 4 .ro 1,  -- ARMED
    fld 2 0 .ro 0  -- STATE
  ],
  -- TIME_SNAP
  reg 0x048 [] [
    fld 0 0 .wo 0  -- SNAP
  ],
  -- TIME_SNAP_SUB
  reg 0x04C [] [
    fld 31 0 .ro 0  -- SUB
  ],
  -- TIME_SNAP_SEC
  reg 0x050 [] [
    fld 31 0 .ro 0  -- SEC
  ],
  -- TIME_SNAP_SECH
  reg 0x054 [] [
    fld 15 0 .ro 0  -- SECH
  ],
  -- TIME_MEAS_LO
  reg 0x060 [] [
    fld 31 0 .wo 0  -- O
  ],
  -- TIME_MEAS_HI
  reg 0x064 [] [
    fld 31 0 .wo 0  -- O
  ],
  -- TIME_RATE
  reg 0x068 [] [
    fld 31 0 .ro 0  -- R
  ],
  -- TIME_FREQ
  reg 0x06C [] [
    fld 31 0 .ro 0  -- F
  ],
  -- TIME_SERVO
  reg 0x070 [] [
    fld 31 16 .rw 0xC8 |>.within 1 1000,  -- RMAX
    fld 15 8 .rw 0x20 |>.within 1 255,  -- TI
    fld 7 0 .rw 8 |>.within 1 255  -- TP
  ],
  -- TIME_LOCK
  reg 0x074 [] [
    fld 31 16 .rw 0x3E8 |>.within 1 0xFFFF,  -- LOCK_TH
    fld 15 0 .rw 0xA |>.within 1 0xFFFF  -- STEP_TH
  ],
  -- TIME_HOLD
  reg 0x078 [] [
    fld 31 16 .rw 0x12C |>.within 1 0xFFFF,  -- HOLD_MAX
    fld 7 0 .rw 4 |>.within 1 255  -- MEAS_TO
  ],
  -- TIME_OFFS
  reg 0x07C [] [
    fld 31 0 .ro 0  -- O
  ],
  -- TIME_PPS
  reg 0x080 [] [
    fld 31 0 .rw 0  -- PPS_OFS
  ],
  -- TIME_TEST
  reg 0x084 [] [
    fld 31 0 .wo 0  -- MEASINJ
  ]
]

/-- Registers of page kind `trig` (spec/13_time.md: R348). -/
def regs_trig : List RegFam := [
  -- TRIG_LINE
  reg 0x040 [(16, 0x4)] [
    fld 13 8 .rw 0,  -- INDEX
    fld 3 0 .rw 0  -- SRC
  ],
  -- TRIG_SW
  reg 0x080 [] [
    fld 15 0 .wo 0  -- PULSE
  ],
  -- GEN_PER
  reg 0x0A0 [(4, 0x10)] [
    fld 31 0 .rw 0x320 |>.within 2 0xFFFFFFFF |>.locked (.bit 8 0 true)  -- PER
  ],
  -- GEN_PHASE
  reg 0x0A4 [(4, 0x10)] [
    fld 31 0 .rw 0 |>.locked (.bit 4 0 true)  -- PHASE
  ],
  -- GEN_CTL
  reg 0x0A8 [(4, 0x10)] [
    fld 0 0 .rw 0  -- EN
  ],
  -- CAP_CFG
  reg 0x100 [(4, 0x10)] [
    fld 5 1 .rw 0 |>.within 0 17,  -- SEL
    fld 0 0 .rw 0  -- EN
  ],
  -- CAP_STAT
  reg 0x104 [(4, 0x10)] [
    fld 11 8 .ro 0,  -- FINE
    fld 1 1 .w1c 0,  -- OVR
    fld 0 0 .w1c 0  -- VALID
  ],
  -- CAP_SUB
  reg 0x108 [(4, 0x10)] [
    fld 31 0 .ro 0  -- SUB
  ],
  -- CAP_SEC
  reg 0x10C [(4, 0x10)] [
    fld 31 0 .ro 0  -- SEC
  ]
]

/-- Registers of page kind `leg` (spec/04_leg_scheduling.md: R84, the register tables after R108). -/
def regs_leg : List RegFam := [
  -- LEG_CTL
  reg 0x040 [] [
    fld 31 28 .rw 0,  -- GROUP
    fld 15 15 .rw 0,  -- INJ
    fld 11 11 .rw 0 |>.locked (.bit 0 0 true),  -- OUTPUT
    fld 10 10 .rw 0 |>.locked (.bit 0 0 true),  -- INDEP
    fld 9 9 .rw 0 |>.locked (.bit 0 0 true),  -- CARRIER
    fld 8 8 .rw 0 |>.locked (.bit 0 0 true),  -- UPD
    fld 4 4 .rw 0,  -- SRC
    fld 0 0 .rw 0  -- EN
  ],
  -- LEG_PER
  reg 0x044 [] [
    fld 30 8 .rw 0,  -- PHASE
    fld 6 0 .rw 1 |>.within 1 64 |>.locked (.bit (-4) 0 true)  -- PER_TICKS
  ],
  -- LEG_DUTY
  reg 0x048 [] [
    fld 25 0 .rw 0  -- DUTY
  ],
  -- LEG_DUTYL
  reg 0x04C [] [
    fld 25 0 .rw 0  -- DUTYL
  ],
  -- LEG_DEAD
  reg 0x050 [] [
    fld 15 0 .rwt 0x3200 |>.within 256 0xFA00 |>.tighten .higher  -- DEAD
  ],
  -- LEG_MINPW
  reg 0x054 [] [
    fld 15 0 .rw 0x500  -- MINPW
  ],
  -- LEG_FORCE
  reg 0x058 [] [
    fld 1 0 .rw 0  -- MODE
  ],
  -- LEG_SAMPLE
  reg 0x05C [] [
    fld 31 31 .rw 0,  -- EN
    fld 30 30 .rw 0,  -- POINT
    fld 15 0 .rw 0xC80  -- WIN
  ],
  -- LEG_STAT
  reg 0x060 [] [
    fld 11 11 .ro 0,  -- RUN
    fld 10 10 .ro 0,  -- TABLE
    fld 9 9 .ro 0,  -- FORCED
    fld 6 6 .w1c 0,  -- HELD
    fld 5 5 .w1c 0,  -- BOTH_ON
    fld 4 4 .w1c 0,  -- DROP
    fld 3 3 .w1c 0,  -- SKIP
    fld 2 2 .w1c 0,  -- MODLIM
    fld 1 1 .w1c 0,  -- LATE
    fld 0 0 .w1c 0  -- SAT
  ],
  -- LEG_CNT
  reg 0x064 [] [
    fld 31 16 .ro 0,  -- MODLIM
    fld 15 0 .ro 0  -- DROPS
  ]
]

/-- Registers of page kind `auxt` (spec/04_leg_scheduling.md: R106; spec/04_leg_scheduling.md: R84, the register tables after R108). -/
def regs_auxt : List RegFam := [
  -- AUXT_CTL
  reg 0x040 [] [
    fld 31 28 .rw 0,  -- GROUP
    fld 9 9 .rw 0 |>.locked (.bit 0 0 true),  -- CARRIER
    fld 4 4 .rw 0,  -- SRC
    fld 0 0 .rw 0  -- EN
  ],
  -- AUXT_PER
  reg 0x044 [] [
    fld 19 0 .rw 0x9C40 |>.within 64 0xFFFFF  -- PER
  ],
  -- AUXT_CMP
  reg 0x048 [] [
    fld 20 0 .rw 0  -- CMP
  ],
  -- AUXT_DEAD
  reg 0x04C [] [
    fld 27 16 .rwt 0x320 |>.within 16 4000 |>.tighten .lower,  -- CONF_TO
    fld 11 0 .rwt 0x320 |>.within 16 4000 |>.tighten .higher  -- DEAD
  ],
  -- AUXT_FORCE
  reg 0x050 [] [
    fld 1 0 .rw 0  -- MODE
  ],
  -- AUXT_STAT
  reg 0x054 [] [
    fld 8 8 .ro 0,  -- AUXOFF
    fld 7 7 .ro 0,  -- FORCED
    fld 6 6 .w1c 0,  -- CONF
    fld 5 5 .w1c 0,  -- BOTH_ON
    fld 4 4 .w1c 0,  -- DROP
    fld 1 1 .w1c 0,  -- LATE
    fld 0 0 .w1c 0  -- SAT
  ]
]

/-- Registers of page kind `com` (spec/04_leg_scheduling.md: R84, the register tables after R108). -/
def regs_com : List RegFam := [
  -- COM_HOLD
  reg 0x040 [] [
    fld 15 0 .rw 0  -- HOLD
  ],
  -- COM_COMMIT
  reg 0x044 [] [
    fld 15 0 .wo 0  -- COMMIT
  ],
  -- COM_CSTAT
  reg 0x048 [] [
    fld 31 16 .ro 0,  -- PEND
    fld 15 0 .w1c 0  -- LATE
  ],
  -- COM_SET
  reg 0x04C [] [
    fld 31 16 .ro 0,  -- BUILD
    fld 15 8 .ro 0,  -- SEQ
    fld 6 0 .ro 0  -- LEGS
  ]
]

/-- Registers of page kind `link` (spec/05_skatlink.md: R147). -/
def regs_link : List RegFam := [
  -- LINK_CTL
  reg 0x040 [] [
    fld 31 24 .rw 0x10 |>.within 2 255,  -- TAG_TO
    fld 18 16 .rw 0 |>.within 0 4,  -- LOOP
    fld 3 3 .wo 0,  -- RETRAIN
    fld 2 2 .rw 1,  -- AUTORT
    fld 0 0 .rw 0  -- EN
  ],
  -- LINK_STAT
  reg 0x044 [] [
    fld 27 24 .ro 0,  -- FAILCNT
    fld 23 20 .ro 0,  -- LASTFAIL
    fld 15 8 .ro 0,  -- LOSSES
    fld 7 7 .w1c 0,  -- LATSHIFT
    fld 6 6 .w1c 0,  -- LOSS
    fld 5 5 .ro 0,  -- UP
    fld 2 0 .ro 0  -- STATE
  ],
  -- LINK_LAT
  reg 0x048 [] [
    fld 31 16 .ro 0,  -- DDOWN
    fld 15 0 .ro 0  -- RTT
  ],
  -- LINK_LATCFG
  reg 0x04C [] [
    fld 23 16 .rw 0x10,  -- SHIFT_MAX
    fld 15 0 .rw 0  -- ASYM
  ],
  -- LINK_LATTRN
  reg 0x050 [] [
    fld 15 0 .ro 0  -- DTRAIN
  ],
  -- LINK_TAPS
  reg 0x054 [] [
    fld 30 16 .ro 0x3F0,  -- LANE1
    fld 14 0 .ro 0x3F0  -- LANE0
  ],
  -- LINK_CRC
  reg 0x058 [] [
    fld 31 16 .ro 0,  -- UD1
    fld 15 0 .ro 0  -- UD0
  ],
  -- LINK_PRBS0
  reg 0x05C [] [
    fld 31 0 .ro 0  -- ERRORS
  ],
  -- LINK_PRBS1
  reg 0x060 [] [
    fld 31 0 .ro 0  -- ERRORS
  ],
  -- LINK_LOOPERR
  reg 0x064 [] [
    fld 31 0 .ro 0  -- ERRORS
  ],
  -- LINK_ERR
  reg 0x068 [] [
    fld 31 24 .ro 0,  -- SAMPLE_ERR
    fld 23 16 .ro 0,  -- INVALID
    fld 15 8 .ro 0,  -- LATE
    fld 7 0 .ro 0  -- REJECT
  ],
  -- LINK_CNTCLR
  reg 0x06C [] [
    fld 3 0 .wo 0  -- CLR
  ],
  -- LINK_TAGS
  reg 0x070 [] [
    fld 31 0 .ro 0  -- INFLIGHT
  ],
  -- LINK_TAGQ
  reg 0x074 [] [
    fld 31 0 .ro 0  -- QUAR
  ],
  -- LINK_LEGSTAT
  reg 0x080 [(8, 0x8)] [
    fld 23 16 .ro 0,  -- SEQ
    fld 13 0 .ro 0  -- FLAGS
  ],
  -- LINK_LEGTIME
  reg 0x084 [(8, 0x8)] [
    fld 23 0 .ro 0  -- TIME
  ]
]

/-- Registers of page kind `prot` (spec/06_leg_protection.md: R167). -/
def regs_prot : List RegFam := [
  -- PROT_CFG
  reg 0x040 [(8, 0x20)] [
    fldR 31 28 .rw (.page 0) |>.locked .sealed,  -- PGRP
    fld 1 1 .wo 0,  -- INJ
    fld 0 0 .rwt 1 |>.tighten .higher  -- REACT
  ],
  -- PROT_LATCH
  reg 0x044 [(8, 0x20)] [
    fld 31 28 .ro 0,  -- FIRST
    fld 17 17 .ro 0,  -- CLR_PEND
    fld 16 16 .w1c 0,  -- CLR_REFUSED
    fld 8 8 .ro 0,  -- TRIPPED
    fld 7 7 .w1c 0,  -- INJ
    fld 6 6 .w1c 0,  -- PUSH
    fld 5 5 .w1c 0,  -- LINK
    fld 4 4 .w1c 0,  -- CONF
    fld 3 3 .w1c 0,  -- DESAT
    fld 2 2 .w1c 0,  -- SHUNT
    fld 1 1 .w1c 0,  -- UV_L
    fld 0 0 .w1c 0  -- UV_H
  ],
  -- PROT_LIM0
  reg 0x048 [(8, 0x20)] [
    fld 31 16 .rwt 0x6000 |>.tighten .lower,  -- SHUNT
    fld 15 0 .rwt 0x2EE0 |>.tighten .higher  -- UVTH
  ],
  -- PROT_LIM1
  reg 0x04C [(8, 0x20)] [
    fld 31 16 .rwt 0x280 |>.within 0 6400 |>.tighten .lower,  -- DFILT
    fld 15 0 .rwt 0x2580 |>.within 0 0x6400 |>.tighten .lower  -- BLANK
  ],
  -- PROT_LIM2
  reg 0x050 [(8, 0x20)] [
    fld 15 0 .rwt 0x1B58 |>.tighten .lower  -- DTHR
  ],
  -- PROT_SUM
  reg 0x140 [] [
    fld 15 8 .ro 0,  -- PUSHED
    fld 7 0 .ro 0  -- TRIPPED
  ]
]

/-- Registers of page kind `tripp` (spec/06_leg_protection.md: R167). -/
def regs_tripp : List RegFam := [
  -- TRIP_CTL
  reg 0x040 [] [
    fld 15 0 .rwt 0x3200 |>.within 6400 0xFA00 |>.tighten .lower  -- SOFT_T
  ],
  -- TRIP_STAT
  reg 0x044 [] [
    fld 15 12 .ro 0,  -- GRP
    fld 11 8 .ro 0,  -- CAUSE
    fld 2 2 .ro 0,  -- GEN_REQ
    fld 1 1 .w1c 0,  -- CLR_REFUSED
    fld 0 0 .w1c 0  -- ALLOFF
  ],
  -- TRIP_LEGS_LO
  reg 0x048 [] [
    fld 31 0 .ro 0  -- LEGS
  ],
  -- TRIP_LEGS_HI
  reg 0x04C [] [
    fld 31 0 .ro 0  -- LEGS
  ],
  -- TCH_CFG
  reg 0x080 [(8, 0x20)] [
    fld 25 16 .rwt 0x50 |>.tighten .lower,  -- FILT
    fld 2 2 .rw 0 |>.locked (.bit 0 0 true),  -- POL
    fld 1 1 .rwt 1 |>.tighten .higher,  -- REACT
    fld 0 0 .rwt 0 |>.tighten .higher  -- EN
  ],
  -- TCH_LEGLO
  reg 0x084 [(8, 0x20)] [
    fld 31 0 .rwt 0 |>.tighten .higher |>.bitwise  -- LEG
  ],
  -- TCH_LEGHI
  reg 0x088 [(8, 0x20)] [
    fld 31 0 .rwt 0 |>.tighten .higher |>.bitwise  -- LEG
  ],
  -- TCH_CMPLO
  reg 0x08C [(8, 0x20)] [
    fld 31 0 .rwt 0 |>.tighten .higher |>.bitwise  -- CMP
  ],
  -- TCH_CMPHI
  reg 0x090 [(8, 0x20)] [
    fld 15 0 .rwt 0 |>.tighten .higher |>.bitwise  -- CMP
  ],
  -- TCH_STAT
  reg 0x094 [(8, 0x20)] [
    fld 3 3 .ro 0,  -- PIN
    fld 2 2 .ro 0,  -- ACTIVE
    fld 1 1 .w1c 0,  -- CLR_REFUSED
    fld 0 0 .w1c 0  -- LATCH
  ],
  -- TRIP_PG_CFG
  reg 0x180 [] [
    fld 23 16 .rwt 0xA |>.within 1 255 |>.tighten .higher,  -- ONDLY
    fld 7 2 .rw 0 |>.within 0 47 |>.locked (.bit 0 0 true),  -- CMP
    fld 0 0 .rw 0  -- EN
  ],
  -- TRIP_PG_STAT
  reg 0x184 [] [
    fld 5 4 .ro 0,  -- WIN
    fld 3 3 .w1c 0,  -- CLR_REFUSED
    fld 2 2 .w1c 0,  -- HIGH
    fld 1 1 .w1c 0,  -- LOW
    fld 0 0 .ro 0  -- ON
  ]
]

/-- Registers of page kind `ce` (spec/10_control_engine.md: R267). -/
def regs_ce : List RegFam := [
  -- CE_CTL
  reg 0x040 [] [
    fld 0 0 .rw 0  -- RUN
  ],
  -- CE_PROG
  reg 0x044 [] [
    fld 17 17 .ro 0,  -- PEND
    fld 16 16 .wo 0,  -- SWAP
    fld 0 0 .ro 0  -- BANK
  ],
  -- CE_ENTRY
  reg 0x048 [] [
    fld 28 16 .rw 0,  -- ENTRY1
    fld 12 0 .rw 0  -- ENTRY0
  ],
  -- CE_STAT
  reg 0x04C [] [
    fld 23 20 .ro 0,  -- FCODE
    fld 5 5 .w1c 0,  -- QFULL
    fld 4 4 .w1c 0,  -- SAT
    fld 3 3 .w1c 0,  -- FAULT
    fld 2 2 .w1c 0,  -- UNFIN
    fld 1 1 .ro 0,  -- DONE
    fld 0 0 .ro 0  -- BUSY
  ],
  -- CE_TIME
  reg 0x050 [] [
    fld 31 16 .ro 0,  -- MAX
    fld 15 0 .ro 0  -- USED
  ],
  -- CE_FAULTPC
  reg 0x054 [] [
    fld 13 13 .ro 0,  -- BANK
    fld 12 0 .ro 0  -- PC
  ],
  -- CE_SATCNT
  reg 0x058 [] [
    fld 31 0 .ro 0  -- COUNT
  ],
  -- CE_CLR
  reg 0x05C [] [
    fld 1 0 .wo 0  -- CLR
  ],
  -- CE_PADDR
  reg 0x060 [] [
    fld 13 0 .rw 0  -- ADDR
  ],
  -- CE_PDATA_LO
  reg 0x064 [] [
    fld 31 0 .wo 0  -- DATA
  ],
  -- CE_PDATA_HI
  reg 0x068 [] [
    fld 31 0 .wo 0  -- DATA
  ],
  -- CE_PREAD_LO
  reg 0x06C [] [
    fld 31 0 .ro 0  -- DATA
  ],
  -- CE_PREAD_HI
  reg 0x070 [] [
    fld 31 0 .ro 0  -- DATA
  ],
  -- CE_DADDR
  reg 0x074 [] [
    fld 15 0 .rw 0  -- ADDR
  ],
  -- CE_DDATA
  reg 0x078 [] [
    fld 31 0 .wo 0  -- DATA
  ],
  -- CE_DREAD
  reg 0x07C [] [
    fld 31 0 .ro 0  -- DATA
  ],
  -- CE_CADDR
  reg 0x080 [] [
    fld 12 0 .rw 0  -- ADDR
  ],
  -- CE_CDATA
  reg 0x084 [] [
    fld 31 0 .wo 0  -- DATA
  ],
  -- CE_CREAD
  reg 0x088 [] [
    fld 31 0 .ro 0  -- DATA
  ],
  -- CE_CSTAT
  reg 0x08C [] [
    fld 31 8 .ro 0,  -- LAST
    fld 5 0 .ro 0  -- QCOUNT
  ],
  -- CE_TEST
  reg 0x090 [] [
    fld 2 2 .wo 0,  -- ECC2
    fld 1 1 .wo 0,  -- ECC1
    fld 0 0 .wo 0  -- FAULT
  ]
]

/-- Registers of page kind `ceset` (spec/10_control_engine.md: R268). -/
def regs_ceset : List RegFam := [
  -- CE_SET
  reg 0x040 [(256, 0x4)] [
    fld 31 0 .rw 0x80  -- SET
  ]
]

/-- Registers of page kind `ceres` (spec/10_control_engine.md: R269). -/
def regs_ceres : List RegFam := [
  -- CE_RES_CTL
  reg 0x040 [] [
    fld 0 0 .rw 0  -- HOLD
  ],
  -- CE_RES_TICK
  reg 0x044 [] [
    fld 22 0 .ro 0  -- TICK
  ],
  -- CE_RES
  reg 0x080 [(256, 0x4)] [
    fld 31 0 .ro 0x80  -- RES
  ]
]

/-- Registers of page kind `cesup` (spec/10_control_engine.md: R270). -/
def regs_cesup : List RegFam := [
  -- CE_SUP_CTL
  reg 0x040 [] [
    fld 0 0 .rwt 0 |>.tighten .higher  -- EN
  ],
  -- CE_SUP_FLT
  reg 0x044 [] [
    fld 31 0 .w1c 0  -- FLT
  ],
  -- SUPCH_CFG
  reg 0x080 [(32, 0x10)] [
    fld 31 16 .rw 0 |>.within 0 447 |>.locked (.bit 0 0 true),  -- MEAS
    fld 15 8 .rwt 3 |>.within 1 255 |>.tighten .lower,  -- PERSIST
    fld 3 2 .rwt 1 |>.tighten .higher,  -- REACT
    fld 0 0 .rwt 0 |>.tighten .higher  -- EN
  ],
  -- SUPCH_BAND
  reg 0x084 [(32, 0x10)] [
    fld 31 0 .rwt 0xFFFFFFFF |>.tighten .lower  -- BAND
  ],
  -- SUPCH_STAT
  reg 0x088 [(32, 0x10)] [
    fld 9 9 .ro 0,  -- SKIP
    fld 8 8 .ro 0,  -- OVER
    fld 7 0 .ro 0  -- COUNT
  ],
  -- SUPCH_RESID
  reg 0x08C [(32, 0x10)] [
    fld 31 0 .ro 0  -- RESID
  ]
]

/-- Registers of page kind `locus` (spec/07_grid_sync_forming_ride.md: R195). -/
def regs_locus : List RegFam := [
  -- LOCUS_CTL
  reg 0x040 [] [
    fld 3 2 .rw 0,  -- NOMF
    fld 1 1 .rw 0,  -- PQSRC
    fld 0 0 .rw 1  -- EN
  ],
  -- LOCUS_SRC
  reg 0x044 [] [
    fld 29 24 .rw 3,  -- VDC
    fld 21 16 .rw 2,  -- VC
    fld 13 8 .rw 1,  -- VB
    fld 5 0 .rw 0  -- VA
  ],
  -- LOCUS_PMAP
  reg 0x048 [] [
    fld 15 0 .rw 0x39  -- MAP
  ],
  -- LOCUS_KV
  reg 0x04C [] [
    fld 31 0 .rw 0x30000  -- KV
  ],
  -- LOCUS_KI
  reg 0x050 [] [
    fld 31 0 .rw 0x30000  -- KI
  ],
  -- LOCUS_KDC
  reg 0x054 [] [
    fld 31 0 .rw 0x60000  -- KDC
  ],
  -- LOCUS_OBS
  reg 0x058 [] [
    fld 31 16 .rw 0x2E00,  -- GAMMA
    fld 7 0 .rw 0x5B  -- K
  ],
  -- LOCUS_LOCK
  reg 0x05C [] [
    fld 31 24 .rw 0x33,  -- VMIN
    fld 23 16 .rw 0x14 |>.within 1 255,  -- LOCK_T
    fld 15 8 .rw 0x55,  -- JUMP_TH
    fld 7 0 .rw 0xE  -- LOCK_TH
  ],
  -- LOCUS_VSM0
  reg 0x060 [] [
    fld 31 16 .rw 0x140,  -- D
    fld 15 0 .rw 0x200 |>.within 16 0xFFFF  -- H
  ],
  -- LOCUS_VSM1
  reg 0x064 [] [
    fld 31 16 .rw 0xCCD,  -- KQ
    fld 15 0 .rw 0x2666 |>.within 1 0xFFFF  -- XV
  ],
  -- LOCUS_VSM2
  reg 0x068 [] [
    fld 15 0 .rw 0xA3D |>.within 1 0xFFFF  -- RF
  ],
  -- LOCUS_DPC
  reg 0x06C [] [
    fld 31 16 .rw 0x51F,  -- HQ
    fld 15 0 .rw 0x51F  -- HP
  ],
  -- LOCUS_VF
  reg 0x070 [] [
    fld 23 16 .rw 0x32 |>.within 1 255,  -- TLEAK
    fld 15 0 .rw 0x199A  -- LF
  ],
  -- LOCUS_PSET
  reg 0x074 [] [
    fld 31 0 .rw 0  -- PSET
  ],
  -- LOCUS_QSET
  reg 0x078 [] [
    fld 31 0 .rw 0  -- QSET
  ],
  -- LOCUS_TEST
  reg 0x07C [] [
    fld 15 0 .rw 0  -- JUMP
  ],
  -- LOCUS_STAT
  reg 0x080 [] [
    fld 23 16 .ro 0,  -- LOSSES
    fld 15 15 .ro 0,  -- RET
    fld 14 12 .ro 0,  -- VEC
    fld 11 8 .ro 0,  -- SECTOR
    fld 7 7 .ro 0,  -- SQ
    fld 6 6 .ro 0,  -- SP
    fld 5 5 .ro 0,  -- LIMIT
    fld 4 4 .ro 0,  -- NOMVALID
    fld 3 3 .ro 0,  -- NOMSEL
    fld 2 0 .ro 0  -- STATE
  ],
  -- LOCUS_TICK
  reg 0x084 [] [
    fld 23 0 .ro 0  -- TICK
  ],
  -- LOCUS_THETA
  reg 0x088 [] [
    fld 31 0 .ro 0  -- THETA
  ],
  -- LOCUS_FREQ
  reg 0x08C [] [
    fld 31 0 .ro 0  -- FREQ
  ],
  -- LOCUS_ROCOF
  reg 0x090 [] [
    fld 31 0 .ro 0  -- ROCOF
  ],
  -- LOCUS_VPOS
  reg 0x094 [] [
    fld 31 0 .ro 0  -- VPOS
  ],
  -- LOCUS_VNEG
  reg 0x098 [] [
    fld 31 0 .ro 0  -- VNEG
  ],
  -- LOCUS_VPH
  reg 0x09C [] [
    fld 31 16 .ro 0,  -- VMAX
    fld 15 0 .ro 0  -- VMIN
  ],
  -- LOCUS_P
  reg 0x0A0 [] [
    fld 31 0 .ro 0  -- P
  ],
  -- LOCUS_Q
  reg 0x0A4 [] [
    fld 31 0 .ro 0  -- Q
  ],
  -- LOCUS_HOLDF
  reg 0x0A8 [] [
    fld 31 0 .ro 0  -- HOLDF
  ],
  -- LOCUS_LOSS
  reg 0x0AC [] [
    fld 10 10 .ro 0,  -- CLAMP
    fld 9 9 .ro 0,  -- LOWV
    fld 8 8 .ro 0,  -- JUMP
    fld 7 0 .ro 0  -- ERR
  ]
]

/-- Reset values of the ride-through regions 0 to 7 (R193): MAX in units of 10 ms, TYPE, and BOUND with weight 2^-12 pu. -/
def rtResetMax : List Nat := [0x834, 0xC8, 0, 0, 0x514, 0x10, 0, 0]
def rtResetType : List Nat := [1, 2, 0, 0, 2, 2, 0, 0]
def rtResetBound : List Nat := [0xE14, 0x800, 0, 0, 0x119A, 0x1333, 0, 0]

/-- Registers of page kind `rt` (spec/07_grid_sync_forming_ride.md: R196). -/
def regs_rt : List RegFam := [
  -- RT_CTL
  reg 0x040 [] [
    fld 15 0 .rwt 0x119A |>.within 1024 8192 |>.tighten .lower  -- ILIM
  ],
  -- RT_RIDE
  reg 0x044 [] [
    fld 31 24 .rw 0xA |>.within 1 255,  -- RAMP
    fld 23 16 .rw 0x14 |>.within 1 255,  -- RET_T
    fld 15 0 .rw 0  -- KQR
  ],
  -- RT_STAT
  reg 0x048 [] [
    fld 31 16 .ro 0,  -- ELAPSED
    fld 4 4 .ro 0,  -- CEASE
    fld 3 0 .ro 0xF  -- REGION
  ],
  -- RT_REG
  reg 0x080 [(8, 0x4)] [
    fldR 31 20 .rwt (.tbl rtResetMax) |>.tighten .lower,  -- MAX
    fldR 17 16 .rwt (.tbl rtResetType) |>.within 0 2 |>.tighten .higher,  -- TYPE
    fldR 15 0 .rwt (.tbl rtResetBound) |>.tighten .byRegion  -- BOUND
  ],
  -- RT_TIME
  reg 0x0A0 [(8, 0x4)] [
    fld 11 0 .ro 0  -- ELAPSED
  ]
]

/-- Registers of page kind `gc` (spec/08_islanding_gridcode.md: R213). -/
def regs_gc : List RegFam := [
  -- GC_CTL
  reg 0x040 [] [
    fld 7 7 .rw 0 |>.locked .sealed,  -- VREF_AUTO
    fld 6 6 .rwt 1 |>.tighten .higher,  -- FW_EN
    fld 5 5 .rw 0 |>.locked .sealed,  -- VW_EN
    fld 4 4 .rw 1 |>.locked .sealed,  -- QPRIO
    fld 3 3 .rw 1,  -- PSRC
    fld 2 1 .rw 1,  -- QMODE
    fld 0 0 .rw 1  -- EN
  ],
  -- GC_PREQ
  reg 0x044 [] [
    fld 31 0 .rw 0x1000000  -- PREQ
  ],
  -- GC_QREQ
  reg 0x048 [] [
    fld 31 0 .rw 0  -- QREQ
  ],
  -- GC_PF
  reg 0x04C [] [
    fld 16 16 .rw 0,  -- DIR
    fld 15 0 .rw 0x8000 |>.within 0x6666 0x8000  -- PF
  ],
  -- GC_CURT
  reg 0x050 [] [
    fld 15 0 .rw 0x1000  -- CURT
  ],
  -- GC_SMAX
  reg 0x054 [] [
    fld 15 0 .rw 0x1000 |>.locked .sealed  -- SMAX
  ],
  -- GC_VV
  reg 0x060 [(4, 0x4)] [
    fldR 31 16 .rw (.tbl [0xEB8, 0xFAE, 0x1052, 0x1148]) |>.locked .sealed,  -- V
    fldR 15 0 .rw (.tbl [0x70A, 0, 0, 0xF8F6]) |>.locked .sealed  -- Q
  ],
  -- GC_VVT
  reg 0x070 [] [
    fld 31 16 .rw 0x12C |>.within 300 5000 |>.locked .sealed,  -- VREF_T
    fld 15 0 .rw 0x32 |>.within 1 900 |>.locked .sealed  -- TRESP
  ],
  -- GC_VREF
  reg 0x074 [] [
    fld 15 0 .rw 0x1000 |>.within 3891 4301 |>.locked .sealed  -- VREF
  ],
  -- GC_VW
  reg 0x078 [] [
    fld 31 16 .rw 0x10F6 |>.locked .sealed,  -- V1
    fld 15 0 .rw 0x119A |>.locked .sealed  -- V2
  ],
  -- GC_VW2
  reg 0x07C [] [
    fld 31 16 .rw 0x333 |>.locked .sealed,  -- P2
    fld 15 0 .rw 0x64 |>.within 5 600 |>.locked .sealed  -- TRESP
  ],
  -- GC_FW
  reg 0x080 [] [
    fld 31 16 .rwt 0x24 |>.within 17 1000 |>.tighten .lower,  -- DB
    fld 15 0 .rwt 0xCCD |>.within 1311 4588 |>.tighten .lower  -- K
  ],
  -- GC_FW2
  reg 0x084 [] [
    fld 31 16 .rw 0 |>.locked .sealed,  -- PMIN
    fld 15 0 .rwt 0x1F4 |>.within 20 1000 |>.tighten .lower  -- TRESP
  ],
  -- GC_STAT
  reg 0x090 [] [
    fld 4 4 .ro 0,  -- CEASE
    fld 3 3 .ro 0,  -- SLIM
    fld 2 2 .ro 0,  -- CURT_ACT
    fld 1 1 .ro 0,  -- VW_ACT
    fld 0 0 .ro 0  -- FW_ACT
  ],
  -- GC_PPRE
  reg 0x094 [] [
    fld 31 0 .ro 0  -- PPRE
  ]
]

/-- Registers of page kind `isl` (spec/08_islanding_gridcode.md: R214). -/
def regs_isl : List RegFam := [
  -- ISL_CTL
  reg 0x040 [] [
    fld 11 8 .rw 0 |>.locked .sealed,  -- SLOT_ID
    fld 4 4 .wo 0,  -- INJ
    fld 3 3 .rw 1 |>.locked .sealed,  -- SOLO
    fld 2 2 .rwt 0 |>.tighten .higher,  -- ROCOF_EN
    fld 1 1 .rwt 1 |>.tighten .higher,  -- ACT_EN
    fld 0 0 .rwt 1 |>.tighten .higher  -- PASV_EN
  ],
  -- ISL_SLOT
  reg 0x044 [] [
    fld 31 16 .rw 1 |>.locked .sealed,  -- OCC
    fld 15 12 .rw 7 |>.locked .sealed,  -- NSLOT_M1
    fld 9 0 .rw 0x32 |>.within 10 1000 |>.locked .sealed  -- SLOT_MS
  ],
  -- ISL_PERT
  reg 0x048 [] [
    fld 15 0 .rwt 0xCD |>.within 0 819 |>.tighten .higher  -- DQ
  ],
  -- ISL_ACT
  reg 0x04C [] [
    fld 31 16 .rwt 0x28 |>.within 1 1000 |>.tighten .lower,  -- DF_TH
    fld 15 8 .rwt 8 |>.within 1 64 |>.tighten .higher,  -- WIN
    fld 7 0 .rwt 3 |>.within 1 64 |>.tighten .lower  -- COUNT
  ],
  -- ISL_CLR
  reg 0x050 [] [
    fld 31 24 .rwt 0xA |>.within 1 255 |>.tighten .lower,  -- RAMP
    fld 23 16 .rwt 0x3C |>.within 10 255 |>.tighten .higher,  -- BUDGET
    fld 15 0 .rwt 0xC8 |>.tighten .lower  -- CLR
  ],
  -- ISL_ROCOF
  reg 0x054 [] [
    fld 31 16 .rwt 0x64 |>.tighten .lower,  -- TH
    fld 15 0 .rwt 0x64 |>.tighten .lower  -- DELAY
  ],
  -- ISL_FTRIP
  reg 0x060 [(4, 0x4)] [
    fldR 31 16 .rwt (.tbl [0x7D0, 0x4B0, 0x5DC, 0xDAC]) |>.tighten .lower,  -- OFS
    fldR 15 0 .rwt (.tbl [0x10, 0x7530, 0x7530, 0x10]) |>.tighten .lower  -- CLR
  ],
  -- ISL_STAT
  reg 0x080 [] [
    fld 23 16 .ro 0,  -- HITS
    fld 15 12 .ro 0,  -- SLOT
    fld 11 8 .ro 0,  -- CAUSE
    fld 1 1 .ro 0,  -- SUSP
    fld 0 0 .ro 0  -- ISLANDED
  ],
  -- ISL_RESP
  reg 0x084 [] [
    fld 19 16 .ro 0,  -- SLOT
    fld 15 0 .ro 0  -- D
  ],
  -- ISL_DEAD
  reg 0x088 [] [
    fld 15 0 .ro 0xFFFF  -- LEFT
  ]
]

/-- Registers of page kind `slope` (spec/09_string_tracking.md: R237). -/
def regs_slope : List RegFam := [
  -- SLOPE_CTL
  reg 0x040 [] [
    fld 23 16 .rw 0x14,  -- CMARG
    fld 10 8 .rw 1 |>.within 1 4,  -- SCANMAX
    fld 1 1 .rw 0,  -- AUTOSCAN
    fld 0 0 .rw 1  -- EN
  ],
  -- SLOPE_SBASE
  reg 0x044 [] [
    fld 31 0 .rw 0x1E8480 |>.within 1 0xFFFFFFFF  -- SBASE
  ],
  -- SLOPE_EFF
  reg 0x048 [] [
    fld 15 0 .rw 0xFAE1  -- EFF
  ],
  -- SLOPE_SCANCFG
  reg 0x04C [] [
    fld 31 16 .rw 0xE10,  -- PER
    fld 15 8 .rw 0x33,  -- SHADE
    fld 7 0 .rw 5  -- GAIN
  ],
  -- SLOPE_SCANREQ
  reg 0x050 [] [
    fld 31 0 .wo 0  -- REQ
  ],
  -- SLOPE_TEST
  reg 0x054 [] [
    fld 4 0 .wo 0  -- FAULT
  ],
  -- SLOPE_STAT
  reg 0x080 [] [
    fld 0 0 .ro 0  -- CURT
  ],
  -- SLOPE_MS
  reg 0x084 [] [
    fld 23 0 .ro 0  -- MS
  ],
  -- SLOPE_PTOT
  reg 0x088 [] [
    fld 31 0 .ro 0  -- PTOT
  ],
  -- SLOPE_PAVAIL
  reg 0x08C [] [
    fld 31 0 .ro 0  -- PAVAIL
  ],
  -- SLOPE_PAVAIL_PU
  reg 0x090 [] [
    fld 31 0 .ro 0  -- PU
  ],
  -- SLOPE_PTGT
  reg 0x094 [] [
    fld 31 0 .ro 0x7FFFFFFF  -- T
  ],
  -- SLOPE_SUMTRK
  reg 0x098 [] [
    fld 31 0 .ro 0  -- TRK
  ],
  -- SLOPE_SUMCURT
  reg 0x09C [] [
    fld 31 0 .ro 0  -- CURT
  ],
  -- SLOPE_SUMFLT
  reg 0x0A0 [] [
    fld 31 0 .ro 0  -- FLT
  ],
  -- SLOPE_SCANPEND
  reg 0x0A4 [] [
    fld 31 0 .ro 0  -- PEND
  ]
]

/-- Registers of page kind `slch` (spec/09_string_tracking.md: R238). -/
def regs_slch : List RegFam := [
  -- SLCH_CFG
  reg 0x040 [] [
    fld 31 31 .rw 0,  -- EN
    fld 30 30 .rw 0 |>.locked (.bit 0 31 true),  -- REF
    fld 29 29 .rw 0 |>.locked (.bit 0 31 true),  -- VSRC
    fldR 28 24 .rw (.page 0) |>.locked (.bit 0 31 true),  -- TONE
    fldR 21 16 .rw (.page 4) |>.locked (.bit 0 31 true),  -- VAIN
    fldR 5 0 .rw (.page 0) |>.locked (.bit 0 31 true)  -- LEG
  ],
  -- SLCH_KV
  reg 0x044 [] [
    fld 31 0 .rw 0x100000  -- KV
  ],
  -- SLCH_KI
  reg 0x048 [] [
    fld 31 0 .rw 0x10000  -- KI
  ],
  -- SLCH_VLIM
  reg 0x04C [] [
    fld 31 16 .rw 0xAF00 |>.locked (.bit (-12) 31 true),  -- VMAX
    fld 15 0 .rw 0x3E80 |>.locked (.bit (-12) 31 true)  -- VMIN
  ],
  -- SLCH_TRK
  reg 0x050 [] [
    fld 31 24 .rw 0x20,  -- AMP
    fld 23 16 .rw 0x20 |>.within 1 255,  -- SMAX
    fld 15 0 .rw 0xCD  -- KT
  ],
  -- SLCH_CONV
  reg 0x054 [] [
    fld 31 16 .rw 0x80,  -- GTH
    fld 15 8 .rw 0x10,  -- VDMIN
    fld 7 0 .rw 0xCD  -- KSTART
  ],
  -- SLCH_FLT
  reg 0x058 [] [
    fld 31 16 .rw 0x1400,  -- IMAX
    fld 15 8 .rw 0x20,  -- IREV
    fld 7 0 .rw 0x32  -- VOCMIN
  ],
  -- SLCH_RATED
  reg 0x05C [] [
    fld 23 0 .rw 0xEA60 |>.within 1 0xFFFFFF  -- RATED
  ],
  -- SLCH_CURT
  reg 0x060 [] [
    fld 15 0 .rw 0x42  -- KC
  ],
  -- SLCH_STAT
  reg 0x080 [] [
    fld 31 24 .ro 0,  -- MISS
    fld 23 20 .ro 0,  -- FCAUSE
    fld 12 12 .w1c 0,  -- CLR_REFUSED
    fld 11 11 .w1c 0,  -- FAULT
    fld 10 10 .w1c 0,  -- MISMATCH
    fld 9 9 .ro 0,  -- SHADE
    fld 8 8 .w1c 0,  -- LEGTRIP
    fld 7 7 .ro 0,  -- CURT
    fld 6 6 .ro 0,  -- AT_MPP
    fld 5 5 .ro 0,  -- VALID
    fld 2 0 .ro 0  -- STATE
  ],
  -- SLCH_VB
  reg 0x084 [] [
    fld 31 0 .ro 0  -- VB
  ],
  -- SLCH_V
  reg 0x088 [] [
    fld 31 0 .ro 0  -- V
  ],
  -- SLCH_I
  reg 0x08C [] [
    fld 31 0 .ro 0  -- I
  ],
  -- SLCH_P
  reg 0x090 [] [
    fld 31 0 .ro 0  -- P
  ],
  -- SLCH_DPDV
  reg 0x094 [] [
    fld 31 0 .ro 0  -- DPDV
  ],
  -- SLCH_VDITH
  reg 0x098 [] [
    fld 31 0 .ro 0  -- VDITH
  ],
  -- SLCH_PMPP
  reg 0x09C [] [
    fld 31 0 .ro 0  -- PMPP
  ],
  -- SLCH_VOC
  reg 0x0A0 [] [
    fld 31 0 .ro 0  -- VOC
  ]
]

/-- Registers of page kind `scan` (spec/09_string_tracking.md: R239). -/
def regs_scan : List RegFam := [
  -- SCB_CTL
  reg 0x040 [] [
    fld 23 16 .ro 0,  -- COUNT
    fld 10 10 .ro 0,  -- ABORT
    fld 9 9 .w1c 0,  -- DONE
    fld 8 8 .ro 0,  -- BUSY
    fld 4 0 .ro 0  -- CH
  ],
  -- SCB_TSL
  reg 0x044 [] [
    fld 31 0 .ro 0  -- TS
  ],
  -- SCB_TSH
  reg 0x048 [] [
    fld 31 0 .ro 0  -- TS
  ],
  -- SCB_BEST
  reg 0x04C [] [
    fld 7 7 .ro 0,  -- MOVED
    fld 5 0 .ro 0  -- INDEX
  ],
  -- SCB_PT
  reg 0x080 [(64, 0x4)] [
    fld 31 16 .ro 0,  -- V
    fld 15 0 .ro 0  -- I
  ]
]

/-- Registers of page kind `adc` (spec/11_converters_comparators.md: R293). -/
def regs_adc : List RegFam := [
  -- ADC_CTL
  reg 0x040 [] [
    fld 0 0 .rw 1  -- EN
  ],
  -- ADC_STAT
  reg 0x044 [] [
    fld 31 16 .ro 0,  -- LATE
    fld 1 1 .w1c 0,  -- CUT
    fld 0 0 .ro 0  -- CALDONE
  ],
  -- ADC_FRESH
  reg 0x060 [(6, 0x4)] [
    fld 31 0 .w1c 0  -- FRESH
  ],
  -- ADC_OVR
  reg 0x080 [(6, 0x4)] [
    fld 31 0 .w1c 0  -- OVR
  ],
  -- ADC_LATE
  reg 0x0A0 [(4, 0x4)] [
    fld 31 0 .w1c 0  -- LATE
  ],
  -- ADC_IN
  reg 0x100 [(64, 0x4)] [
    fld 0 0 .rw 0  -- MODE
  ]
]

/-- Registers of page kind `seq` (spec/11_converters_comparators.md: R294). -/
def regs_seq : List RegFam := [
  -- ADC_SLOT
  reg 0x040 [(192, 0x4)] [
    fld 31 31 .rw 0,  -- EN
    fld 30 30 .rw 0,  -- PAIR
    fld 29 29 .rw 0,  -- VX
    fld 28 28 .rw 0,  -- TRIGEN
    fld 27 24 .rw 0,  -- TRIG
    fld 23 20 .rw 0xF,  -- RING
    fld 19 19 .rw 0,  -- ALIGN
    fld 18 18 .rw 0,  -- FMT
    fld 6 6 .rw 0,  -- INT
    fld 5 0 .rw 0  -- CH
  ]
]

/-- Registers of page kind `res` (spec/11_converters_comparators.md: R295). -/
def regs_res : List RegFam := [
  -- ADC_RES
  reg 0x040 [(192, 0x4)] [
    fld 31 0 .ro 0  -- RES
  ]
]

/-- Registers of page kind `rot` (spec/11_converters_comparators.md: R296). -/
def regs_rot : List RegFam := [
  -- ADC_ROT_CTL
  reg 0x040 [] [
    fld 31 16 .rw 0x3C |>.within 1 0xFFFF,  -- DWELL
    fld 0 0 .rw 1  -- EN
  ],
  -- ADC_ROT_CFG
  reg 0x044 [] [
    fld 19 16 .rw 0xA |>.within 8 14,  -- CALN
    fld 15 8 .rw 4 |>.within 1 255,  -- SHADOW
    fld 7 0 .rw 4 |>.within 1 255  -- MISM
  ],
  -- ADC_ROT_STAT
  reg 0x048 [] [
    fld 26 24 .ro 0,  -- PHASE
    fld 22 20 .ro 0,  -- POS
    fld 19 16 .ro 0xF,  -- SPAREPOS
    fld 15 8 .ro 0,  -- RETIRED
    fld 7 7 .ro 0  -- SPAREOUT
  ],
  -- ADC_ROT_MEAN
  reg 0x04C [] [
    fld 15 0 .ro 0  -- M
  ],
  -- ADC_ROT_STEPS
  reg 0x050 [] [
    fld 31 0 .ro 0  -- STEPS
  ],
  -- ADC_TEST
  reg 0x060 [] [
    fld 6 4 .rw 0,  -- SUBPOS
    fld 2 2 .rw 0,  -- SUBST
    fld 1 1 .wo 0,  -- CALERR
    fld 0 0 .wo 0  -- STEP
  ],
  -- ADC_ROT_CAL
  reg 0x080 [(9, 0x8)] [
    fld 31 16 .rw 0x8000,  -- GAIN
    fld 15 0 .rw 0  -- OFFS
  ],
  -- ADC_ROT_CHK
  reg 0x084 [(9, 0x8)] [
    fld 15 0 .ro 0  -- MIDERR
  ]
]

/-- Registers of page kind `cmp` (spec/11_converters_comparators.md: R297). -/
def regs_cmp : List RegFam := [
  -- CMP_ST_CTL
  reg 0x040 [] [
    fld 31 16 .rwt 0x3E8 |>.within 10 0xEA60 |>.tighten .lower,  -- SPER
    fld 15 8 .rwt 0x30 |>.within 1 255 |>.tighten .lower,  -- TOL
    fld 6 4 .rw 0,  -- CONV
    fld 1 1 .rwt 1 |>.tighten .higher,  -- FAILSAFE
    fld 0 0 .rwt 1 |>.tighten .higher  -- EN
  ],
  -- CMP_ST_STAT
  reg 0x044 [] [
    fld 31 16 .ro 0  -- PASSES
  ],
  -- CMP_STFAIL_LO
  reg 0x048 [] [
    fld 31 0 .ro 0  -- STFAIL
  ],
  -- CMP_STFAIL_HI
  reg 0x04C [] [
    fld 15 0 .ro 0  -- STFAIL
  ],
  -- CMP_WIN
  reg 0x050 [(3, 0x4)] [
    fld 31 0 .ro 0  -- WIN
  ],
  -- CMP_TRIP_LO
  reg 0x05C [] [
    fld 31 0 .ro 0  -- TRIP
  ],
  -- CMP_TRIP_HI
  reg 0x060 [] [
    fld 15 0 .ro 0  -- TRIP
  ],
  -- CMP_TEST
  reg 0x064 [] [
    fld 15 15 .rw 0,  -- FORCE
    fld 9 8 .rw 0 |>.within 0 2,  -- STATE
    fld 5 0 .rw 0 |>.within 0 47  -- TW
  ],
  -- TW_CFG
  reg 0x080 [(48, 0x20)] [
    fld 23 16 .rwt 4 |>.tighten .lower,  -- FILT
    fld 13 8 .rw 0 |>.locked (.bit 0 0 true),  -- AIN
    fld 5 4 .rw 1 |>.locked .sealed,  -- HYST
    fld 2 1 .rw 2 |>.locked .sealed,  -- TRIPON
    fld 0 0 .rwt 0 |>.tighten .higher  -- EN
  ],
  -- TW_THR
  reg 0x084 [(48, 0x20)] [
    fld 25 16 .rwt 0x3FF |>.tighten .lower,  -- HI
    fld 9 0 .rwt 0 |>.tighten .higher  -- LO
  ],
  -- TW_BLK
  reg 0x088 [(48, 0x20)] [
    fld 31 30 .rw 0 |>.within 0 2 |>.locked .sealed,  -- KIND
    fld 29 24 .rw 0 |>.locked .sealed,  -- INDEX
    fld 23 22 .rw 0 |>.locked .sealed,  -- EDGE
    fld 9 0 .rwt 0 |>.tighten .lower  -- BLANK
  ],
  -- TW_STAT
  reg 0x08C [(48, 0x20)] [
    fld 9 8 .ro 0,  -- WIN
    fld 4 4 .ro 0,  -- STFAIL
    fld 3 3 .ro 0,  -- BLANKING
    fld 2 2 .ro 0,  -- TRIPCOND
    fld 1 1 .w1c 0,  -- BELOW_SEEN
    fld 0 0 .w1c 0  -- ABOVE_SEEN
  ],
  -- TW_RB
  reg 0x090 [(48, 0x20)] [
    fld 31 16 .ro 0,  -- HI
    fld 15 0 .ro 0  -- LO
  ]
]

/-- Registers of page kind `meter` (spec/12_metering.md: R325). -/
def regs_meter : List RegFam := [
  -- METER_CTL
  reg 0x040 [] [
    fld 8 8 .rw 0,  -- HOLD
    fld 6 4 .rw 0 |>.within 0 5,  -- SAMPLE
    fld 1 1 .rw 0,  -- WINREC
    fld 0 0 .rw 1 |>.locked .sealed  -- EN
  ],
  -- METER_CFG
  reg 0x044 [] [
    fld 31 16 .rw 0xE6 |>.locked .sealed,  -- UDIN
    fld 15 8 .rw 7 |>.locked .sealed,  -- SYS
    fld 7 6 .rw 0 |>.locked .sealed,  -- QUANT
    fld 4 2 .rw 0 |>.locked .sealed,  -- REFCH
    fld 1 0 .rw 0 |>.within 0 2 |>.locked .sealed  -- NOMF
  ],
  -- METER_STAT
  reg 0x048 [] [
    fld 10 10 .w1c 0,  -- CLEARED
    fld 9 9 .ro 0,  -- QPEND
    fld 8 8 .ro 0,  -- TESTHOLD
    fld 7 7 .ro 0,  -- TLOCK
    fld 6 6 .ro 0,  -- FLAGGED
    fld 5 5 .ro 0,  -- NOREF
    fld 4 4 .w1c 0,  -- REFDRIFT
    fld 3 3 .ro 0,  -- CALERR
    fld 2 2 .w1c 0,  -- GAP
    fld 1 1 .ro 0,  -- RESTORED
    fld 0 0 .ro 0  -- RUN
  ],
  -- METER_FREQ
  reg 0x04C [] [
    fld 31 0 .ro 0  -- FREQ
  ],
  -- METER_GAPS_LO
  reg 0x050 [] [
    fld 31 0 .ro 0  -- TS
  ],
  -- METER_GAPS_HI
  reg 0x054 [] [
    fld 31 0 .ro 0  -- TS
  ],
  -- METER_GAPE_LO
  reg 0x058 [] [
    fld 31 0 .ro 0  -- TS
  ],
  -- METER_GAPE_HI
  reg 0x05C [] [
    fld 31 0 .ro 0  -- TS
  ],
  -- METER_GAPF
  reg 0x060 [] [
    fld 1 0 .ro 0  -- FLAGS
  ],
  -- METER_TEST
  reg 0x064 [] [
    fld 6 5 .rw 0 |>.within 0 2,  -- SIG
    fld 4 1 .rw 0,  -- CH
    fld 0 0 .rw 0  -- INJ
  ],
  -- METER_TACC_LO
  reg 0x068 [] [
    fld 31 0 .ro 0  -- TACC
  ],
  -- METER_TACC_HI
  reg 0x06C [] [
    fld 31 0 .ro 0  -- TACC
  ],
  -- METER_ROT_CTL
  reg 0x080 [] [
    fld 31 16 .rw 0x3C |>.within 1 0xFFFF,  -- DWELL
    fld 0 0 .rw 1  -- EN
  ],
  -- METER_ROT_CFG
  reg 0x084 [] [
    fld 19 16 .rw 0xC |>.within 10 15,  -- CALN
    fld 15 8 .rw 0x14 |>.locked .sealed,  -- REFTOL
    fld 7 0 .rw 5  -- MISM
  ],
  -- METER_ROT_STAT
  reg 0x088 [] [
    fld 31 29 .ro 0,  -- PHASE
    fld 28 25 .ro 0,  -- POS
    fld 24 20 .ro 0x1F,  -- SPAREPOS
    fld 17 17 .ro 0,  -- SPAREOUT
    fld 15 0 .ro 0  -- RETIRED
  ],
  -- METER_ROT_REF
  reg 0x08C [] [
    fld 31 0 .rw 0 |>.locked .sealed  -- REFBASE
  ],
  -- METER_ROT_RATIO
  reg 0x090 [] [
    fld 31 0 .ro 0  -- RATIO
  ]
]

/-- Registers of page kind `mcal` (spec/12_metering.md: R326). -/
def regs_mcal : List RegFam := [
  -- MCH_CFG
  reg 0x040 [(16, 0x10)] [
    fld 1 1 .rw 1 |>.locked .sealed,  -- HPF
    fld 0 0 .rw 1 |>.locked .sealed  -- EN
  ],
  -- MCH_GAIN
  reg 0x044 [(16, 0x10)] [
    fld 23 0 .rw 0x400000 |>.locked .sealed  -- GAIN
  ],
  -- MCH_OFFS
  reg 0x048 [(16, 0x10)] [
    fld 23 0 .rw 0 |>.locked .sealed  -- OFFS
  ],
  -- MCH_DLY
  reg 0x04C [(16, 0x10)] [
    fld 17 0 .rw 0 |>.locked .sealed  -- DLY
  ],
  -- MCH_FS
  reg 0x140 [(16, 0x4)] [
    fldR 31 0 .rw (.tbl [0x32000, 0x32000, 0x32000, 0x32000, 0x32000, 0x32000, 0x32000, 0x32000, 0xFA000, 0xFA000, 0xFA000, 0xFA000, 0xFA000, 0xFA000, 0xFA000, 0xFA000]) |>.locked .sealed  -- FS
  ],
  -- ELEM_CFG
  reg 0x180 [(8, 0x8)] [
    fldR 8 8 .rw (.tbl [1, 1, 1, 0, 0, 0, 0, 0]) |>.locked .sealed,  -- EN
    fld 7 7 .rw 0 |>.locked .sealed,  -- INV
    fldR 6 4 .rw (.tbl [0, 1, 2, 3, 4, 5, 6, 7]) |>.locked .sealed,  -- I
    fldR 2 0 .rw (.tbl [0, 1, 2, 3, 4, 5, 6, 7]) |>.locked .sealed  -- V
  ],
  -- ELEM_START
  reg 0x184 [(8, 0x8)] [
    fld 15 0 .rw 0x100 |>.locked .sealed  -- ISTART
  ]
]

/-- Registers of page kind `mres` (spec/12_metering.md: R327). -/
def regs_mres : List RegFam := [
  -- RES_SEQ
  reg 0x040 [] [
    fld 31 0 .ro 0  -- SEQ
  ],
  -- RES_TEND_LO
  reg 0x044 [] [
    fld 31 0 .ro 0  -- TS
  ],
  -- RES_TEND_HI
  reg 0x048 [] [
    fld 31 0 .ro 0  -- TS
  ],
  -- RES_N
  reg 0x04C [] [
    fld 18 18 .ro 0,  -- FLAG
    fld 17 17 .ro 0,  -- SHORT
    fld 16 16 .ro 0,  -- NOREF
    fld 15 0 .ro 0  -- N
  ],
  -- RES_RMS
  reg 0x080 [(16, 0x4)] [
    fld 31 0 .ro 0  -- RMS
  ],
  -- RES_ANG
  reg 0x0C0 [(16, 0x4)] [
    fld 15 0 .ro 0  -- ANG
  ],
  -- RES_P
  reg 0x100 [(9, 0x10)] [
    fld 31 0 .ro 0  -- P
  ],
  -- RES_Q
  reg 0x104 [(9, 0x10)] [
    fld 31 0 .ro 0  -- Q
  ],
  -- RES_S
  reg 0x108 [(9, 0x10)] [
    fld 31 0 .ro 0  -- S
  ],
  -- RES_PF
  reg 0x10C [(9, 0x10)] [
    fld 31 16 .ro 0,  -- PHI
    fld 15 0 .ro 0  -- PF
  ],
  -- RES_ESTAT
  reg 0x1C0 [] [
    fld 15 8 .ro 0,  -- LOST
    fld 7 0 .ro 0  -- RUNNING
  ]
]

/-- Registers of page kind `macc` (spec/12_metering.md: R328). -/
def regs_macc : List RegFam := [
  -- METER_ACC_CLR
  reg 0x040 [] [
    fld 7 0 .rwk 0  -- CLR
  ],
  -- METER_ACC_WACK
  reg 0x044 [] [
    fld 0 0 .wo 0  -- WACK
  ],
  -- METER_ACC_SEQ
  reg 0x048 [] [
    fld 31 0 .ro 0  -- SEQ
  ],
  -- ACC_LO
  reg 0x080 [(9, 0x30), (6, 0x8)] [
    fld 31 0 .ro 0  -- A
  ],
  -- ACC_HI
  reg 0x084 [(9, 0x30), (6, 0x8)] [
    fld 31 0 .ro 0  -- A
  ],
  -- ACC_WIN
  reg 0x280 [(9, 0x30), (6, 0x8)] [
    fld 31 0 .ro 0  -- W
  ],
  -- ACC_WST
  reg 0x284 [(9, 0x30), (6, 0x8)] [
    fld 15 8 .ro 0,  -- WRAP
    fld 0 0 .w1c 0  -- OVF
  ]
]

/-- Registers of page kind `mpmu` (spec/12_metering.md: R329). -/
def regs_mpmu : List RegFam := [
  -- PMU_CTL
  reg 0x040 [] [
    fld 31 16 .rw 0x707,  -- CHMASK
    fld 8 8 .rw 1,  -- PSEQ
    fld 7 4 .rw 0 |>.within 0 9,  -- RATE
    fld 1 1 .rw 0,  -- CLASS
    fld 0 0 .rw 0  -- EN
  ],
  -- PMU_STAT
  reg 0x044 [] [
    fld 31 16 .ro 0,  -- COUNT
    fld 1 1 .w1c 0,  -- DROP
    fld 0 0 .ro 0  -- TLOCK
  ],
  -- PMU_FREQ
  reg 0x048 [] [
    fld 31 0 .ro 0  -- FREQ
  ],
  -- PMU_ROCOF
  reg 0x04C [] [
    fld 31 0 .ro 0  -- ROCOF
  ]
]

/-- Registers of page kind `md` (spec/14_aux_drives_position.md: R378). -/
def regs_md : List RegFam := [
  -- MD_CFG
  reg 0x040 [] [
    fld 31 31 .rw 0,  -- EN
    fld 30 30 .rw 0 |>.locked (.bit 0 31 true),  -- HALL
    fld 29 29 .rw 0 |>.locked (.bit 0 31 true),  -- VMEAS
    fld 28 28 .rw 0 |>.locked (.bit 0 31 true),  -- FW
    fld 27 27 .rw 0 |>.locked (.bit 0 31 true),  -- BUS
    fld 26 26 .rw 0,  -- STOW
    fld 23 20 .rw 2 |>.within 1 15 |>.locked (.bit 0 31 true),  -- POLES
    fld 19 16 .rw 0 |>.locked (.bit 0 31 true)  -- TRIG
  ],
  -- MD_SLOTS
  reg 0x044 [] [
    fld 31 24 .rw 0 |>.locked (.bit (-4) 31 true),  -- IU
    fld 23 16 .rw 0 |>.locked (.bit (-4) 31 true),  -- IV
    fld 15 8 .rw 0 |>.locked (.bit (-4) 31 true),  -- VU
    fld 7 0 .rw 0 |>.locked (.bit (-4) 31 true)  -- VV
  ],
  -- MD_SLOTS2
  reg 0x048 [] [
    fld 7 0 .rw 0 |>.locked (.bit (-8) 31 true)  -- VW
  ],
  -- MD_KI
  reg 0x04C [] [
    fld 31 0 .rw 0x10000  -- KI
  ],
  -- MD_KV
  reg 0x050 [] [
    fld 31 0 .rw 0x80000  -- KV
  ],
  -- MD_MOTOR
  reg 0x054 [] [
    fld 31 16 .rw 0x1000,  -- RS
    fld 15 0 .rw 0x8000  -- PSI
  ],
  -- MD_BANDS
  reg 0x058 [] [
    fld 31 16 .rw 0x80,  -- HT
    fld 15 0 .rw 0x148  -- HPSI
  ],
  -- MD_LIM
  reg 0x05C [] [
    fld 31 16 .rw 0x500,  -- IMAX
    fld 15 0 .rw 0x1400  -- TMAX
  ],
  -- MD_SPD
  reg 0x060 [] [
    fld 31 16 .rw 0xBB8,  -- SPD_MAX
    fld 15 0 .rw 0x64  -- SPD_MIN
  ],
  -- MD_RAMP
  reg 0x064 [] [
    fld 31 16 .rw 0x3E8 |>.within 1 0xFFFF,  -- ACC
    fld 15 0 .rw 0x3E8 |>.within 1 0xFFFF  -- DEC
  ],
  -- MD_PI
  reg 0x068 [] [
    fld 31 16 .rw 0x29,  -- KP
    fld 15 0 .rw 0x199  -- KI
  ],
  -- MD_TIMES
  reg 0x06C [] [
    fld 31 24 .rw 0x14 |>.within 1 255,  -- CATCH_T
    fld 23 16 .rw 0x64 |>.within 1 255,  -- ALIGN_T
    fld 15 8 .rw 2 |>.within 1 255,  -- LOSS_T
    fld 7 0 .rw 0x32 |>.within 1 255  -- REV_T
  ],
  -- MD_CUR
  reg 0x070 [] [
    fld 31 16 .rw 0x140,  -- IALIGN
    fld 15 0 .rw 0x40  -- HBAND
  ],
  -- MD_STOPC
  reg 0x074 [] [
    fld 31 16 .rw 0x20,  -- ISTOP
    fld 15 0 .rw 0xF333  -- VLIM
  ],
  -- MD_HFWD
  reg 0x078 [] [
    fld 23 0 .rw 0 |>.locked (.bit (-56) 31 true)  -- HFWD
  ],
  -- MD_OCMP
  reg 0x07C [] [
    fld 31 31 .rw 0 |>.locked (.bit (-60) 31 true),  -- EN
    fld 29 24 .rw 0 |>.locked (.bit (-60) 31 true),  -- U
    fld 21 16 .rw 0 |>.locked (.bit (-60) 31 true),  -- V
    fld 13 8 .rw 0 |>.locked (.bit (-60) 31 true)  -- W
  ],
  -- MD_CMD
  reg 0x080 [] [
    fld 3 3 .wo 0,  -- INJ
    fld 2 0 .wo 0 |>.within 0 6  -- OP
  ],
  -- MD_SPD_TGT
  reg 0x084 [] [
    fld 31 0 .rw 0  -- SPD
  ],
  -- MD_POS_TGT
  reg 0x088 [] [
    fld 31 0 .rw 0  -- POS
  ],
  -- MD_STOW_POS
  reg 0x08C [] [
    fld 31 0 .rw 0  -- POS
  ],
  -- MD_POSCFG
  reg 0x090 [] [
    fld 31 16 .rw 0x100,  -- KPOS
    fld 15 8 .rw 2,  -- POS_WIN
    fld 7 0 .rw 0x5A |>.within 1 255  -- STOW_TO
  ],
  -- MD_STAT
  reg 0x0A0 [] [
    fld 31 28 .ro 0,  -- FCAUSE
    fld 20 20 .ro 0,  -- POSMODE
    fld 19 19 .ro 0,  -- STOWED
    fld 18 18 .ro 0,  -- STOW_FAIL
    fld 17 17 .ro 0,  -- VCEIL
    fld 16 16 .ro 0,  -- HALLMODE
    fld 8 8 .w1c 0,  -- FAULT
    fld 7 7 .w1c 0,  -- LOST
    fld 6 6 .w1c 0,  -- SHORTED
    fld 5 5 .w1c 0,  -- CLR_REFUSED
    fld 4 4 .w1c 0,  -- DIRREF
    fld 3 0 .ro 0  -- STATE
  ],
  -- MD_SPEED
  reg 0x0A4 [] [
    fld 31 0 .ro 0  -- SPEED
  ],
  -- MD_TORQUE
  reg 0x0A8 [] [
    fld 31 0 .ro 0  -- TORQUE
  ],
  -- MD_FLUX
  reg 0x0AC [] [
    fld 31 0 .ro 0  -- FLUX
  ],
  -- MD_VBUS
  reg 0x0B0 [] [
    fld 31 0 .ro 0  -- VBUS
  ],
  -- MD_IPK
  reg 0x0B4 [] [
    fld 31 0 .ro 0  -- IPK
  ],
  -- MD_VEC
  reg 0x0B8 [] [
    fld 15 8 .ro 0,  -- MISS
    fld 6 4 .ro 0,  -- SECTOR
    fld 2 0 .ro 0  -- VEC
  ]
]

/-- Registers of page kind `brk` (spec/14_aux_drives_position.md: R379). -/
def regs_brk : List RegFam := [
  -- BRK_CFG
  reg 0x040 [(2, 0x20)] [
    fld 31 31 .rwt 0 |>.tighten .higher,  -- EN
    fld 29 24 .rw 0 |>.locked (.bit 0 31 true),  -- ICMP
    fld 23 16 .rw 0 |>.locked (.bit 0 31 true)  -- VSLOT
  ],
  -- BRK_KV
  reg 0x044 [(2, 0x20)] [
    fld 31 0 .rw 0x80000  -- KV
  ],
  -- BRK_THR
  reg 0x048 [(2, 0x20)] [
    fld 31 16 .rwt 0x3340 |>.tighten .lower,  -- VON
    fld 15 0 .rwt 0x3200 |>.tighten .lower  -- VOFF
  ],
  -- BRK_THR2
  reg 0x04C [(2, 0x20)] [
    fld 31 16 .rwt 0x3700 |>.tighten .lower,  -- VSHORT
    fld 15 8 .rwt 0x14 |>.within 1 255 |>.tighten .lower  -- CHK_T
  ],
  -- BRK_STAT
  reg 0x050 [(2, 0x20)] [
    fld 4 4 .ro 0,  -- ON
    fld 3 3 .w1c 0,  -- STUCK
    fld 2 2 .w1c 0,  -- OPEN
    fld 1 1 .w1c 0,  -- CLR_REFUSED
    fld 0 0 .ro 0  -- OVERV
  ],
  -- BRK_VBUS
  reg 0x054 [(2, 0x20)] [
    fld 31 0 .ro 0  -- VBUS
  ]
]

/-- Registers of page kind `arc` (spec/14_aux_drives_position.md: R380). -/
def regs_arc : List RegFam := [
  -- ARC_CFG
  reg 0x040 [(3, 0x40)] [
    fld 31 31 .rw 0,  -- EN
    fld 30 30 .rw 0,  -- IDXEN
    fld 29 29 .rw 0 |>.locked (.bit 0 31 true),  -- IDXPOL
    fld 28 28 .rw 0 |>.locked (.bit 0 31 true),  -- DIR
    fld 23 16 .rw 0x14 |>.within 1 255 |>.locked (.bit 0 31 true),  -- HFILT
    fld 15 0 .rw 0x12C0 |>.within 6 0xFFFF |>.locked (.bit 0 31 true)  -- PPR
  ],
  -- ARC_IDX
  reg 0x044 [(3, 0x40)] [
    fld 31 16 .rw 0  -- IDX_POS
  ],
  -- ARC_HOME
  reg 0x048 [(3, 0x40)] [
    fld 31 16 .rw 0,  -- HOME_POS
    fld 0 0 .wo 0  -- HOME
  ],
  -- ARC_POS
  reg 0x04C [(3, 0x40)] [
    fld 15 0 .ro 0  -- POS
  ],
  -- ARC_REV
  reg 0x050 [(3, 0x40)] [
    fld 31 0 .ro 0  -- REV
  ],
  -- ARC_LATCH
  reg 0x054 [(3, 0x40)] [
    fld 31 16 .ro 0,  -- REV
    fld 15 0 .ro 0  -- POS
  ],
  -- ARC_LTS_LO
  reg 0x058 [(3, 0x40)] [
    fld 31 0 .ro 0  -- TS
  ],
  -- ARC_LTS_HI
  reg 0x05C [(3, 0x40)] [
    fld 31 0 .ro 0  -- TS
  ],
  -- ARC_STAT
  reg 0x060 [(3, 0x40)] [
    fld 23 16 .ro 0,  -- ERR
    fld 10 10 .ro 0,  -- HOMED
    fld 9 9 .ro 0,  -- HOMEARM
    fld 8 8 .ro 0,  -- SENSOR
    fld 7 7 .w1c 0,  -- SKIP
    fld 6 6 .w1c 0,  -- HALLERR
    fld 5 5 .w1c 0,  -- CORR
    fld 4 4 .w1c 0,  -- LVALID
    fld 2 0 .ro 7  -- SECTOR
  ],
  -- ARC_SPEED
  reg 0x064 [(3, 0x40)] [
    fld 31 0 .ro 0  -- SPEED
  ],
  -- ARC_CODE
  reg 0x068 [(3, 0x40)] [
    fld 2 0 .ro 0  -- CODE
  ]
]

/-- Registers of page kind `safe` (spec/15_safety.md: R411). -/
def regs_safe : List RegFam := [
  -- SAFE_CTL
  reg 0x040 [] [
    fld 8 8 .rwt 0 |>.tighten .higher,  -- PWRUP
    fld 0 0 .rwk 0  -- RELEASE
  ],
  -- SAFE_STAT
  reg 0x044 [] [
    fld 15 15 .ro 0,  -- PERM
    fld 14 14 .ro 0,  -- STARTOK
    fld 13 13 .ro 0,  -- CHORD_OK
    fld 12 12 .ro 0,  -- SECANT_OK
    fld 10 8 .ro 0,  -- DSTOP
    fld 4 4 .w1c 0,  -- RELREF
    fld 3 3 .ro 0,  -- GEN
    fld 2 2 .ro 0,  -- GRANT
    fld 1 1 .ro 0  -- PSAFE
  ],
  -- SAFE_CAUSE
  reg 0x048 [] [
    fld 14 0 .ro 0  -- CAUSE
  ],
  -- SAFE_FAULT
  reg 0x04C [] [
    fld 8 0 .ro 0  -- FAULT
  ],
  -- SAFE_OUT_REQ
  reg 0x050 [] [
    fld 3 0 .rw 0 |>.bitwise  -- REQ
  ],
  -- SAFE_OUT_STAT
  reg 0x054 [] [
    fld 23 20 .ro 0,  -- WELD
    fld 19 16 .w1c 0,  -- ONFAIL
    fld 11 8 .ro 0,  -- SFB
    fld 3 0 .ro 0  -- ON
  ],
  -- SAFE_OUT_CFG
  reg 0x058 [] [
    fld 31 16 .rwt 0x64 |>.within 10 1000 |>.tighten .lower,  -- FB_T
    fld 5 4 .rw 0 |>.locked .sealed,  -- BRAKE_DRV
    fld 3 2 .rwt 3 |>.tighten .higher |>.bitwise  -- FBEN
  ],
  -- SAFE_PARCRC
  reg 0x05C [] [
    fld 31 0 .ro 0  -- CRC
  ],
  -- SAFE_MRAM
  reg 0x060 [] [
    fld 2 2 .ro 0,  -- BUILTIN
    fld 1 1 .ro 0,  -- LOADED
    fld 0 0 .rwk 0 |>.locked .sealed  -- WEN
  ],
  -- SAFE_TEST
  reg 0x064 [] [
    fld 1 1 .wo 0,  -- OINJ
    fld 0 0 .wo 0  -- XINJ
  ]
]

/-- Registers of page kind `sin` (spec/15_safety.md: R412). -/
def regs_sin : List RegFam := [
  -- SIN_CFG
  reg 0x040 [(8, 0x8)] [
    fld 31 16 .rwt 0x64 |>.within 2 500 |>.tighten .lower,  -- DISC
    fld 3 3 .rw 0 |>.locked .sealed,  -- ANTI
    fld 1 1 .rwt 0 |>.tighten .higher,  -- DRV
    fld 0 0 .rwt 0 |>.tighten .higher  -- PLANT
  ],
  -- SIN_STAT
  reg 0x044 [(8, 0x8)] [
    fld 4 4 .ro 0,  -- DISCF
    fld 3 3 .ro 0,  -- DEMAND
    fld 2 2 .ro 0,  -- B
    fld 1 1 .ro 0  -- A
  ]
]

/-- Registers of page kind `sfn` (spec/15_safety.md: R413). -/
def regs_sfn : List RegFam := [
  -- SAFE_DCOV
  reg 0x040 [] [
    fld 31 16 .rwt 0x7FFF |>.within 0 0x7FFF |>.tighten .lower,  -- LIM
    fld 15 8 .rw 0 |>.within 0 191 |>.locked .sealed,  -- SLOT
    fld 7 2 .rw 0 |>.locked .sealed,  -- CMP
    fld 0 0 .rwt 0 |>.tighten .higher  -- EN
  ],
  -- SDRV_CFG
  reg 0x060 [(3, 0x20)] [
    fld 4 4 .rwt 0 |>.tighten .higher,  -- FRAMEDIR
    fld 3 3 .rwt 0 |>.tighten .higher,  -- FORBID_NEG
    fld 2 2 .rwt 0 |>.tighten .higher,  -- FORBID_POS
    fld 1 1 .rwt 0 |>.tighten .higher,  -- SLP_EN
    fld 0 0 .rwt 0 |>.tighten .higher  -- SLS_EN
  ],
  -- SDRV_SLS
  reg 0x064 [(3, 0x20)] [
    fld 31 16 .rwt 0xFFFF |>.tighten .lower,  -- LIM
    fld 15 0 .rwt 0x64 |>.tighten .lower  -- HOME_LIM
  ],
  -- SDRV_PMIN
  reg 0x068 [(3, 0x20)] [
    fld 31 0 .rwt 0x80000000 |>.tighten .higherS  -- PMIN
  ],
  -- SDRV_PMAX
  reg 0x06C [(3, 0x20)] [
    fld 31 0 .rwt 0x7FFFFFFF |>.tighten .lowerS  -- PMAX
  ],
  -- SDRV_TOL
  reg 0x070 [(3, 0x20)] [
    fld 31 16 .rwt 8 |>.within 2 255 |>.tighten .lower,  -- XTOL
    fld 15 0 .rwt 0x10 |>.tighten .lower  -- SDIR_TOL
  ],
  -- SDRV_STAT
  reg 0x074 [(3, 0x20)] [
    fld 7 7 .ro 0,  -- ALIGNED
    fld 6 1 .ro 0,  -- CAUSE
    fld 0 0 .ro 0  -- DSTOP
  ],
  -- SAFE_DRV_REL
  reg 0x0C0 [] [
    fld 2 0 .rwk 0  -- REL
  ]
]

/-- Registers of page kind `sconn` (spec/15_safety.md: R414). -/
def regs_sconn : List RegFam := [
  -- SCONN_CFG
  reg 0x040 [(2, 0x20)] [
    fld 31 16 .rwt 0x64 |>.within 10 0xFFFF |>.tighten .lower,  -- WD_MAX
    fld 15 8 .rw 0xA |>.within 1 255 |>.locked .sealed,  -- TXPER
    fld 7 4 .rw 1 |>.within 1 15 |>.locked .sealed,  -- SEQWIN
    fld 3 3 .rwt 0 |>.tighten .higher,  -- CMDEN
    fld 2 2 .rwt 0 |>.tighten .higher,  -- REACT
    fld 1 1 .wo 0,  -- RESTART
    fld 0 0 .rwt 0 |>.tighten .higher  -- EN
  ],
  -- SCONN_ID
  reg 0x044 [(2, 0x20)] [
    fld 31 0 .rw 0 |>.locked .sealed  -- ID
  ],
  -- SCONN_PEER
  reg 0x048 [(2, 0x20)] [
    fld 31 0 .rw 0 |>.locked .sealed  -- PEER
  ],
  -- SCONN_STAT
  reg 0x04C [(2, 0x20)] [
    fld 31 16 .ro 0,  -- DISCARDS
    fld 15 8 .ro 0,  -- CRCERR
    fld 1 0 .ro 0  -- STATE
  ],
  -- SCONN_SEQ
  reg 0x050 [(2, 0x20)] [
    fld 31 0 .ro 0  -- LAST
  ],
  -- SCONN_TXSEQ
  reg 0x054 [(2, 0x20)] [
    fld 31 0 .ro 0  -- SEQ
  ]
]

/-- Registers of page kind `origin` (spec/16_origin.md: R435). -/
def regs_origin : List RegFam := [
  -- ORIGIN_STAT
  reg 0x040 [] [
    fld 13 11 .ro 0,  -- CHGSTATE
    fld 10 10 .ro 0,  -- DEGRADED
    fld 9 9 .ro 0,  -- WEARHI
    fld 8 8 .ro 0,  -- TRIMVALID
    fld 7 7 .ro 0,  -- RTCVALID
    fld 6 6 .ro 0,  -- CKVALID
    fld 5 5 .ro 0,  -- BURST
    fld 4 4 .ro 0,  -- RAILS
    fld 3 3 .ro 0,  -- CELLON
    fld 2 2 .ro 1,  -- CUT
    fld 1 1 .ro 0,  -- PGOOD
    fld 0 0 .ro 0  -- HPRES
  ],
  -- ORIGIN_VMEAS
  reg 0x044 [] [
    fld 31 16 .ro 0,  -- VHARV
    fld 15 0 .ro 0  -- VCELL
  ],
  -- ORIGIN_HARV
  reg 0x048 [] [
    fld 31 24 .rw 0x3C |>.within 1 255,  -- DUSK_T
    fld 23 16 .rw 0x1E |>.within 1 255,  -- DAWN_T
    fld 15 8 .rw 0x28 |>.within 25 179,  -- HV_OFF
    fld 7 0 .rw 0x32 |>.within 26 180  -- HV_ON
  ],
  -- ORIGIN_CHG
  reg 0x04C [] [
    fld 31 24 .rw 0xC |>.within 1 255,  -- CHG_TO
    fld 16 16 .rw 1,  -- EN
    fld 15 8 .rw 0xA |>.within 0 20,  -- VCHG
    fld 7 0 .rw 0x32 |>.within 5 200  -- ICHG
  ],
  -- ORIGIN_STORE
  reg 0x050 [] [
    fld 31 16 .rw 0x64,  -- RESERVE
    fld 15 0 .rw 0x1F4 |>.within 1 0xFFFF  -- CAP
  ],
  -- ORIGIN_ESTORE
  reg 0x054 [] [
    fld 31 0 .ro 0  -- E
  ],
  -- ORIGIN_BCOST
  reg 0x058 [] [
    fld 31 16 .rw 0x14 |>.within 1 0xFFFF,  -- HOUSE
    fld 15 0 .rw 0x32 |>.within 1 0xFFFF  -- FINAL
  ],
  -- ORIGIN_CTL
  reg 0x05C [] [
    fld 2 2 .wo 0,  -- TFAIL
    fld 1 1 .wo 0,  -- RTCSET
    fld 0 0 .rw 1  -- AUTOTRIM
  ],
  -- ORIGIN_RTC_SEC
  reg 0x060 [] [
    fld 31 0 .ro 0  -- SEC
  ],
  -- ORIGIN_RTC_SECH
  reg 0x064 [] [
    fld 31 16 .ro 0,  -- SUBK
    fld 15 0 .ro 0  -- SECH
  ],
  -- ORIGIN_RTC_TRIM
  reg 0x068 [] [
    fld 31 0 .rw 0  -- TRIM
  ],
  -- ORIGIN_RTC_SETL
  reg 0x06C [] [
    fld 31 0 .rw 0  -- SEC
  ],
  -- ORIGIN_RTC_SETH
  reg 0x070 [] [
    fld 15 0 .rw 0  -- SECH
  ],
  -- ORIGIN_CKP_STAT
  reg 0x080 [] [
    fld 31 16 .ro 0,  -- RETIRED
    fld 8 8 .ro 0,  -- SLOT
    fld 3 0 .ro 0  -- ACTIVE
  ],
  -- ORIGIN_CKP_SEQ
  reg 0x084 [] [
    fld 31 0 .ro 0  -- SEQ
  ],
  -- ORIGIN_CKP_ACTN
  reg 0x088 [] [
    fld 16 0 .ro 0  -- COUNT
  ],
  -- ORIGIN_WEAR
  reg 0x08C [] [
    fld 31 0 .ro 0  -- MAXW
  ],
  -- ORIGIN_PFAIL_LO
  reg 0x090 [] [
    fld 31 0 .ro 0  -- TS
  ],
  -- ORIGIN_PFAIL_HI
  reg 0x094 [] [
    fld 31 0 .ro 0  -- TS
  ],
  -- ORIGIN_DARK
  reg 0x098 [] [
    fld 28 28 .ro 0,  -- POR
    fld 27 27 .ro 0,  -- LOST
    fld 26 26 .ro 0,  -- FREF
    fld 25 25 .ro 0,  -- HREF
    fld 24 24 .ro 0,  -- CUTSEEN
    fld 23 0 .ro 0  -- DUR
  ],
  -- ORIGIN_LIFE_ON
  reg 0x0A0 [] [
    fld 31 0 .ro 0  -- LIFE_ON
  ],
  -- ORIGIN_LIFE_DARK
  reg 0x0A4 [] [
    fld 31 0 .ro 0  -- LIFE_DARK
  ],
  -- ORIGIN_LIFE_CYC
  reg 0x0A8 [] [
    fld 31 0 .ro 0  -- LIFE_CYC
  ],
  -- ORIGIN_LIFE_EVT
  reg 0x0AC [] [
    fld 31 16 .ro 0,  -- POR
    fld 15 0 .ro 0  -- VFAIL
  ],
  -- ORIGIN_THERM
  reg 0x0B0 [] [
    fld 23 16 .ro 0,  -- TEMP
    fld 15 8 .rw 0x50,  -- CYC_HI
    fld 7 0 .rw 0x28  -- CYC_LO
  ],
  -- ORIGIN_AGE
  reg 0x0B4 [] [
    fld 31 16 .ro 0,  -- BASE
    fld 15 0 .ro 0  -- COUNT
  ]
]

/-- Registers of page kind `ring` (spec/02_registers_rings_events.md: R44). -/
def regs_ring : List RegFam := [
  -- RING_BASE
  reg 0x040 [(24, 0x20)] [
    fld 21 6 .rw 0 |>.locked (.bit 4 0 true)  -- BASE
  ],
  -- RING_CFG
  reg 0x044 [(24, 0x20)] [
    fld 31 16 .rw 0,  -- WMARK
    fld 8 4 .rw 0 |>.within 4 16 |>.locked (.bit 0 0 true),  -- LOG2N
    fldR 3 2 .ro .ringEsz,  -- ESZ
    fldR 1 1 .ro .ringDir,  -- DIR
    fld 0 0 .rw 0  -- EN
  ],
  -- RING_PIDX
  reg 0x048 [(24, 0x20)] [
    fld 31 0 .rw 0  -- PIDX
  ],
  -- RING_CIDX
  reg 0x04C [(24, 0x20)] [
    fld 31 0 .rw 0  -- CIDX
  ],
  -- RING_STAT
  reg 0x050 [(24, 0x20)] [
    fld 31 16 .ro 0,  -- DROPS
    fld 2 2 .ro 0,  -- FULL
    fld 1 1 .ro 0,  -- CFGERR
    fld 0 0 .w1c 0  -- OVF
  ]
]

/-- Registers of page kind `ringc` (spec/02_registers_rings_events.md: R55). -/
def regs_ringc : List RegFam := [
  -- RING_EVT_ROUTE
  reg 0x040 [] [
    fld 14 12 .rw 0,  -- SAFETY
    fld 10 8 .rw 1,  -- FAULT
    fld 6 4 .rw 2,  -- WARN
    fld 2 0 .rw 3  -- INFO
  ]
]

/-- Registers of page kind `eth` (spec/13_time.md: R349). -/
def regs_eth : List RegFam := [
  -- ETH_CTL
  reg 0x040 [] [
    fld 4 4 .rw 0,  -- LOOP
    fld 3 3 .rw 0 |>.locked (.bit 0 0 true),  -- TXDLY
    fld 2 2 .rw 0 |>.locked (.bit 0 0 true),  -- RXDLY
    fld 1 1 .rw 0 |>.locked (.bit 0 0 true),  -- IF
    fld 0 0 .rw 0  -- EN
  ],
  -- ETH_RXBUF
  reg 0x044 [] [
    fld 21 6 .rw 0 |>.locked (.bit (-4) 0 true),  -- BASE
    fld 4 0 .rw 0x10 |>.within 12 20 |>.locked (.bit (-4) 0 true)  -- LOG2
  ],
  -- ETH_LAT
  reg 0x048 [] [
    fld 31 16 .rw 0,  -- EGR
    fld 15 0 .rw 0  -- ING
  ],
  -- ETH_ALIGN
  reg 0x04C [] [
    fld 3 0 .ro 0  -- ALIGN
  ],
  -- ETH_STAT
  reg 0x050 [] [
    fld 31 16 .ro 0,  -- RXDROP
    fld 15 0 .ro 0  -- TSLOST
  ]
]

/-- The block registers of a page, from offset 0x040 (R33). -/
def PageKind.blockRegs : PageKind → List RegFam
  | .sys => regs_sys
  | .mode => regs_mode
  | .clk => regs_clk
  | .time => regs_time
  | .trig => regs_trig
  | .leg => regs_leg
  | .auxt => regs_auxt
  | .com => regs_com
  | .link => regs_link
  | .prot => regs_prot
  | .tripp => regs_tripp
  | .ce => regs_ce
  | .ceset => regs_ceset
  | .ceres => regs_ceres
  | .cesup => regs_cesup
  | .locus => regs_locus
  | .rt => regs_rt
  | .gc => regs_gc
  | .isl => regs_isl
  | .slope => regs_slope
  | .slch => regs_slch
  | .scan => regs_scan
  | .adc => regs_adc
  | .seq => regs_seq
  | .res => regs_res
  | .rot => regs_rot
  | .cmp => regs_cmp
  | .meter => regs_meter
  | .mcal => regs_mcal
  | .mres => regs_mres
  | .macc => regs_macc
  | .mpmu => regs_mpmu
  | .md => regs_md
  | .brk => regs_brk
  | .arc => regs_arc
  | .safe => regs_safe
  | .sin => regs_sin
  | .sfn => regs_sfn
  | .sconn => regs_sconn
  | .origin => regs_origin
  | .ring => regs_ring
  | .ringc => regs_ringc
  | .eth => regs_eth

/-- The common page header (R33, R35, R42): REACT is RO and reads 0b11 in a protection page. -/
def headerRegs (cls : Nat) : List RegFam := [
  reg 0x000 [] [],
  reg 0x004 [] [fld 31 16 .ro 1, fld 15 0 .ro 0],
  reg 0x008 [] [fld 31 0 .wo 0],
  reg 0x00C [] [fld 30 28 .ro 0, fld 27 16 .ro 0, fld 15 8 .ro 0],
  reg 0x010 [] [fld 31 16 .ro 0, fld 15 4 .ro 0,
    if cls = 1 then fld 3 2 .ro 3 else fld 3 2 .rwk 1, fld 0 0 .w1c 0],
  reg 0x014 [] [fld 31 0 .w1c 0],
  reg 0x018 [] [fld 31 0 .rw 0],
  reg 0x01C [] [fld 31 0 .wo 0]
]

/-- Every register of a page. -/
def PageKind.regs (k : PageKind) : List RegFam := headerRegs k.info.cls ++ k.blockRegs

/-- The indices of the register of a family at a page offset, if the family has one there. -/
def RegFam.index (f : RegFam) (off : Nat) : Option (List Nat) :=
  if off < f.off then none else
  let d := off - f.off
  match f.dims with
  | [] => if d = 0 then some [] else none
  | [(c, st)] => if d % st = 0 ∧ d / st < c then some [d / st] else none
  | [(c1, s1), (c2, s2)] =>
    let r := d % s1
    if d / s1 < c1 ∧ r % s2 = 0 ∧ r / s2 < c2 then some [d / s1, r / s2] else none
  | _ => none

/-- A register address resolved: page kind, index of the page among its kind, offset, register,
indices within its family. -/
structure RegRef where
  kind : PageKind
  pn : Nat
  off : Nat
  fam : RegFam
  ix : List Nat
deriving DecidableEq, Repr

def RegRef.addr (r : RegRef) : Nat := r.kind.info.base + 0x1000 * r.pn + r.off
/-- First address of the page. -/
def pageBase (k : PageKind) (n : Nat) : Nat := k.info.base + 0x1000 * n
/-- First index of the register within its family, 0 for a single register. -/
def RegRef.m (r : RegRef) : Nat := r.ix.headD 0

/-- The page that encloses an address (R26). -/
def findPageIn : List PageKind → Nat → Option (PageKind × Nat)
  | [], _ => none
  | k :: ks, a =>
    if k.info.base ≤ a ∧ a < k.info.base + 0x1000 * k.info.count then
      some (k, (a - k.info.base) / 0x1000)
    else findPageIn ks a
def findPage (a : Nat) : Option (PageKind × Nat) := findPageIn allPages a

def findFam : List RegFam → Nat → Option (RegFam × List Nat)
  | [], _ => none
  | f :: fs, off =>
    match f.index off with
    | some ix => some (f, ix)
    | none => findFam fs off

/-- The register at an offset of a page (R29: none where the offset is unimplemented). -/
def findRegIn (k : PageKind) (n off : Nat) : Option RegRef :=
  match findFam k.regs off with
  | some (f, ix) => some ⟨k, n, off, f, ix⟩
  | none => none

/-- The implemented register at a bus address. -/
def findReg (a : Nat) : Option RegRef :=
  match findPage a with
  | some (k, n) => findRegIn k n ((a - k.info.base) % 0x1000)
  | none => none

/-- Direction of ring r (R43): 1 for a consumer ring. -/
def ringIsConsumer (r : Nat) : Bool :=
  (decide (16 ≤ r) && decide (r < 32) && decide (r % 2 = 0)) || r == 41 || r == 43 || r == 44 || r == 46

/-- Entry size code of ring r (R43, R44): 0 is 16 bytes, 2 is 64, 3 is 128. -/
def ringEsz (r : Nat) : Nat :=
  if 12 ≤ r ∧ r ≤ 15 then 2 else if 40 ≤ r ∧ r ≤ 43 then 3 else 0

/-- Reset value of one field (register tables). -/
def FieldSpec.resetOf (f : FieldSpec) (pn m : Nat) : Nat :=
  (match f.rst with
  | .const v => v
  | .page k => k + pn
  | .tbl l => l.getD m 0
  | .ringEsz => ringEsz (24 * pn + m)
  | .ringDir => if ringIsConsumer (24 * pn + m) then 1 else 0) % 2 ^ (f.hi + 1 - f.lo)

def fieldsReset : List FieldSpec → Nat → Nat → Nat
  | [], _, _ => 0
  | f :: fs, pn, m => f.resetOf pn m * 2 ^ f.lo + fieldsReset fs pn m

/-- Reset value of a register. PAGE_ID is fixed by the page (R33). -/
def RegRef.reset (r : RegRef) : BitVec 32 :=
  if r.off = 0 then
    BitVec.ofNat 32 (r.kind.info.block * 2 ^ 24 + (r.kind.info.idx0 + r.pn) * 2 ^ 16 + r.kind.info.cls * 2 ^ 12)
  else BitVec.ofNat 32 (fieldsReset r.fam.fields r.pn r.m)

/-- Value at reset of the register at an address; 0 where no register is implemented. -/
def regReset (a : Nat) : BitVec 32 :=
  match findReg a with
  | some r => r.reset
  | none => 0

/-- R40: a register with any RW, RWK or RWT field carries a parity bit. -/
def FieldSpec.covered (f : FieldSpec) : Bool := f.acc == .rw || f.acc == .rwk || f.acc == .rwt
/-- The index of a ring that the device owns (R45). -/
def RegRef.deviceIndex (r : RegRef) : Bool :=
  r.kind == .ring && ((r.fam.off == 0x048 && !ringIsConsumer (24 * r.pn + r.m)) || (r.fam.off == 0x04C && ringIsConsumer (24 * r.pn + r.m)))
def RegRef.isCovered (r : RegRef) : Bool := r.fam.fields.any FieldSpec.covered && !r.deviceIndex

end Sys2Proof
end

