-- ==== Sys2Proof/Machine/Tab.lean ====
section
/-! DEFINITION. Sparse tables in one canonical form: keys strictly rising, and no entry equal to what an
unlisted key reads as. Register words, memories and the records of legs, ports, channels and slots are all
held this way, so that equal contents are equal data. -/

namespace Sys2Proof

/-- A sparse table from natural-number keys. `Tab (BitVec 8)` is a list of `Host.Cell`. -/
abbrev Tab (α : Type) := List (Nat × α)

/-- Read of a key; an unlisted key reads as the default `d`. -/
def Tab.get {α : Type} (d : Nat → α) : Tab α → Nat → α
  | [], q => d q
  | (k, v) :: t, q => if k = q then v else Tab.get d t q

/-- An entry laid into the table at its place. -/
def Tab.put {α : Type} : Tab α → Nat → α → Tab α
  | [], q, v => [(q, v)]
  | (k, w) :: t, q, v =>
    if q < k then (q, v) :: (k, w) :: t else if q = k then (q, v) :: t else (k, w) :: Tab.put t q v

/-- Write of a key, keeping the canonical form: writing the default removes the entry. -/
def Tab.set {α : Type} [DecidableEq α] (d : Nat → α) (t : Tab α) (q : Nat) (v : α) : Tab α :=
  if v = d q then t.filter (fun e => e.1 != q) else Tab.put t q v

/-- Every key of the table lies above `b`. -/
def Tab.above {α : Type} (b : Nat) : Tab α → Bool
  | [] => true
  | (k, _) :: _ => decide (b < k)

/-- The canonical form. -/
def Tab.wf {α : Type} [DecidableEq α] (d : Nat → α) : Tab α → Bool
  | [] => true
  | (k, v) :: t => decide (v ≠ d k) && Tab.above k t && Tab.wf d t

/-- Writes a list of values at consecutive keys. -/
def Tab.setMany {α : Type} [DecidableEq α] (d : Nat → α) (t : Tab α) (k : Nat) : List α → Tab α
  | [] => t
  | v :: vs => Tab.setMany d (Tab.set d t k v) (k + 1) vs

/-- The list of `n` values from key `k` on. -/
def Tab.getMany {α : Type} (d : Nat → α) (t : Tab α) (k : Nat) : Nat → List α
  | 0 => []
  | n + 1 => Tab.get d t k :: Tab.getMany d t (k + 1) n

end Sys2Proof
end

