-- ==== Sys2Proof/Machine/State.lean ====
section
/-! DEFINITION. The state of the YH-6400 as plain data (spec/01 to spec/18): every register word under its
address, the memories, and beside them the state that the chapters give the blocks without a register. -/

namespace Sys2Proof.Machine

/-- One event-log entry before it is written (R52): Gnomon time in units of 0.25 ns, source block
index, instance, code with severity, data. `old` marks an entry stamped before the last step of
Gnomon time (R56). -/
structure Ev where
  t : Nat
  src : Nat
  inst : Nat
  code : Nat
  data : Nat
  old : Bool := false
deriving DecidableEq, Repr

/-- The event log (R17, R56, R57, R474): events detected before Gnomon's counter runs, entries on
their way to the log engine, the merge buffer in order of arrival, the length of the current run of
early releases, and the count of entries lost per event-log ring. -/
structure LogSt where
  early : List Ev := []
  inflight : List Ev := []
  buf : List Ev := []
  run : Nat := 0
  lost : Tab Nat := []
deriving DecidableEq, Repr

/-- Gnomon (R331 to R345) and the tick (R58): counter and elapsed time in units of 0.25 ns, the time counted by the TIME clock since
the release of main reset, which no step moves, in the same units, the rate of the TIME PLL in effect in 2^-40 (R341, R441), start and
end of the tick in progress, the pending step in TIME clocks, elapsed time of the last step, TIME_MEAS_LO as written,
counts of measurements inside and outside the limits, elapsed time of the last accepted measurement and of the last that
updated the rate, of the entry to HOLDOVER; one more than the TIME clock of each generator's last pulse or of the last step since, line
pulses on their way to their users with their instants, one more than the instant of each line's last pulse on a whole millisecond or
second, the level of SYNC_IN, and the TIME clocks by which a step has left the metering grid behind (R439). -/
structure TimeSt where
  run : Bool := false
  now : Nat := 0
  up : Nat := 0
  osc : Nat := 0
  rate : Int := 0
  tickStart : Nat := 0
  tickEnd : Nat := 0
  firstTick : Bool := true
  step : Option Int := none
  heldLogged : Bool := false
  stepUp : Option Nat := none
  measLo : Nat := 0
  nIn : Nat := 0
  nOut : Nat := 0
  lastMeas : Option Nat := none
  lastUpd : Option Nat := none
  holdUp : Nat := 0
  genFrom : Tab Nat := []
  lineDue : List (Nat × Nat) := []
  lineLast : Tab Nat := []
  sync : Bool := false
  gridOff : Int := 0
deriving DecidableEq, Repr

/-- What the judgement of the major mode remembers (R69 to R82): the causes of a transition to HALT and to RIDE that are due
at the next boundary, a STANDBY forced by parity, an island, the return from RIDE; the request that waits; the mode held before
RIDE; whether HALT and whether ISLAND has been entered since main reset; LEGACY in effect; modifier bits that stay IGNORED until they are written;
elapsed times since which the DC link has lain in its window and since which the conditions of auto-start have held, and its
request. -/
structure ModeSt where
  dueHalt : List Nat := []
  dueParStandby : Bool := false
  dueIsland : Bool := false
  dueRide : List Nat := []
  dueReturn : Bool := false
  req : Option Nat := none
  rideFrom : Nat := 3
  haltSeen : Bool := false
  islSeen : Bool := false
  legacy : Bool := false
  sticky : Nat := 0
  dcUp : Option Nat := none
  autoUp : Option Nat := none
  autoReq : Bool := false
deriving DecidableEq, Repr

/-- Reset, boot and pins (R437 to R458, R471): the filtered SEAL_N, the straps as sampled, whether main reset is asserted and
the elapsed time of step 3 of R446, the sources of main reset since the last release, whether the boot ROM has finished, the offset of the host entry
point, whether an image is being loaded; the keys that are open with their elapsed times of opening, the elapsed times of the
release of main reset, of the watchdog's restart and of a loss of SYS lock, the monitor conditions that hold, a rising
edge of each clock output's divider in ns of elapsed time, the span for which a change of format stops the output (R443), the pattern that a boundary-scan instruction drives, the bus errors returned; whether the boot
ROM has issued HOME (R372), and HPRES as it last saw it; the words of memories that hold wrong bits (memory code of R54, word
address, two bits wrong); and per block the number of its next parity check, counted through all passes since the release of main
reset (R41). -/
structure SysSt where
  sealed : Bool := true
  prof : Nat := 0
  bootsel : Nat := 0
  inReset : Bool := false
  rstUp : Nat := 0
  rstSrc : Nat := 0
  bootDone : Bool := false
  entry : Option Nat := none
  loading : Bool := false
  keys : Tab (Option Nat) := []
  relUp : Nat := 0
  wdtUp : Nat := 0
  lockLossUp : Option Nat := none
  monCond : Nat := 0
  outEdge : Tab (Option Rat) := []
  outStop : Tab (Rat × Rat) := []
  scan : Option Nat := none
  busErrors : Nat := 0
  romHomed : Bool := false
  romHpres : Bool := false
  upsets : List (Nat × Nat × Bool) := []
  scrubNo : Tab Nat := []
deriving DecidableEq, Repr

/-- One scheduled edge of a leg: absolute Gnomon time in units of 78.125 ps, high or low switch, on or
off (R86). -/
structure Edge where
  t : Int
  high : Bool
  on : Bool
deriving DecidableEq, Repr

/-- What drives a leg's switches: nothing, its own carrier, the switching table, or a force (R102 to
R104). -/
inductive LegSrc where
  | off | own | table | force (mode : Nat)
deriving DecidableEq, Repr

/-- Two switches of a leg and the latest turn-off of each. -/
structure Sw where
  hi : Bool := false
  lo : Bool := false
  hiOff : Option Int := none
  loOff : Option Int := none
deriving DecidableEq, Repr

/-- One leg's part of an edge set (R86, R102, R131): prefix blocks, edges and sample instants as
offsets from the start of the tick in which the set takes effect. -/
structure Contrib where
  withdraw : Bool := false
  resume : Bool := false
  edges : List Edge := []
  samples : List Int := []
deriving DecidableEq, Repr

/-- A leg timer beyond its registers: source in effect, start of the period in progress and of the next, whether the
period's middle has been taken (MID), the phase in effect, the on-times of the period, whether it has been limited,
the switches before the edges still scheduled, those edges with the latest ones before them, requests dropped under R95, the block of its second form, the
contribution repeated under R101, the sampling history of R98, the time for which the high side was on in
the last tick, the Gnomon instant of the last sample in units of 78.125 ps (R121), and the force that STAT.FORCED shows (0 none). -/
structure LegSt where
  src : LegSrc := .off
  cur : Int := 0
  next : Int := 0
  midDone : Bool := false
  phase : Nat := 0
  h1 : Nat := 0
  hl1 : Nat := 0
  limited : Bool := false
  sw : Sw := {}
  sched : List Edge := []
  dropHi : Bool := false
  dropLo : Bool := false
  blocked : Bool := false
  last : Contrib := {}
  x1 : List Int := [0, 0, 0]
  x2 : List Int := [0, 0, 0]
  skips : Nat := 0
  onU : Nat := 0
  sampleAt : Nat := 0
  force : Nat := 0
deriving DecidableEq, Repr

/-- An auxiliary timer beyond its registers (R106, R107), in TIME clocks of elapsed time: running, the start and length of
the period, the force taken there, gate changes still to come in the period, the request from a drive or chopper, the
gate, the turn-off command that waits for AUXOFF, a turn-on waiting for the partner, whether the second form of R95 holds the timer off
for the rest of the period, and whether the partner's period start has started this timer's period as well. -/
structure AuxSt where
  run : Bool := false
  start : Nat := 0
  per : Nat := 0
  force : Nat := 0
  plan : List (Nat × Bool) := []
  req : Bool := false
  gate : Bool := false
  offAt : Option Nat := none
  pendingOn : Bool := false
  blocked : Bool := false
  common : Bool := false
deriving DecidableEq, Repr

/-- Polygon beyond its registers: legs, auxiliary timers, staged writes of held COMMIT groups
(register address, top bit, bottom bit, value), the set built in this tick (leg, contribution), the switch that the table
gives each output leg (1 high on, 2 low on, else off), and the progress of the tick's work (R63): Issue latched, set built,
set released, excused because a soft all-off began, overrun judged; and the leg timers as they stood before this tick's set was built,
to which an overrun goes back. -/
structure PolySt where
  legs : Tab LegSt := []
  aux : Tab AuxSt := []
  staged : List (Nat × Nat × Nat × Nat) := []
  set : List (Nat × Contrib) := []
  table : Tab Nat := []
  latched : Bool := false
  built : Bool := false
  released : Bool := false
  excused : Bool := false
  guarded : Bool := false
  before : Tab LegSt := []
deriving DecidableEq, Repr

/-- A tag in flight (R48, R154, R163): request fields, who asked (0 firmware, 1 limit push, 2 trip
clear), and when it was issued or, once its block has gone out, the departure of that (R139); of a tag in quarantine, when that began, and kind 3 where it lasts until the port completes training
(R51). -/
structure TagSt where
  leg : Nat := 0
  wordAddr : Nat := 0
  write : Bool := false
  cookie : Nat := 0
  kind : Nat := 0
  at_ : Nat := 0
deriving DecidableEq, Repr

/-- A block that waits for its slots on a port (R131): priority, data lane (2 for either), leg (8 for none), payload. -/
structure TxBlk where
  prio : Nat
  lane : Nat
  leg : Nat
  word : Dword
deriving DecidableEq, Repr

/-- One lane in the EQ phase (R137, R138). As responder: the last request sequence answered, and the last answer (status codes of PRE,
MAIN, POST). As requester: the current
request sequence, its request codes (PRE, MAIN, POST) while it is outstanding, the requests made, DONE sent and received, the best eye figure (none before the first), the
direction under test (0 PRE up, 1 PRE down, 2 POST up, 3 POST down), whether the last request lowered MAIN (0), tried a step (1)
or took it back (2), whether this pass has improved, the far transmitter's taps, and in TEST the
last loop-back count received, the COUNT of the next LOOP block sent, and the 31 bits that the PRBS31 generator and the locked checker hold
(R143, R144). -/
structure LaneSt where
  seen : Bool := false
  rseq : Bool := false
  reqs : Nat := 0
  done : Bool := false
  farDone : Bool := false
  eye : Option Nat := none
  axis : Nat := 0
  move : Nat := 0
  better : Bool := false
  pre : Nat := 0
  main : Nat := 63
  post : Nat := 0
  loopCnt : Option Nat := none
  ans : Nat × Nat × Nat := (0, 0, 0)
  ask : Nat × Nat × Nat := (0, 0, 0)
  loopTx : Nat := 0
  prbsTx : Nat := 0x7FFFFFFF
  prbsRx : Option Nat := none
deriving DecidableEq, Repr

/-- A port beyond its registers: tag records, limit words still to be pushed to each leg (leg, word),
legs whose push has failed, desaturation support of the legs, the next probe identifier, the slot in which the last probe was due, the
probes outstanding with the elapsed time of their departure, the last 64 round trips, the LAT round, elapsed time at which the state was entered and at which DOWN ends, the reasons that
decide where DOWN leads (R135), the lanes, the blocks sent in the current tick in link order
(place, payload; place 2n + l is slot n of lane l, slots counted from the elapsed time 0), the blocks that wait for a slot, the first place not
yet filled, elapsed time of the last valid block, and what the receiver corrects (R112: bit l inverts lane l, bit 2 exchanges the
lanes). -/
structure PortSt where
  tags : Tab TagSt := []
  push : List (Nat × Nat) := []
  pushBad : Nat := 0
  desat : Nat := 0
  pid : Nat := 0
  probeSlot : Nat := 0
  probes : List (Nat × Nat) := []
  rtts : List Int := []
  round : Nat := 1
  enterUp : Nat := 0
  downUp : Nat := 0
  retrain : Bool := false
  testEnd : Bool := false
  lane0 : LaneSt := {}
  lane1 : LaneSt := {}
  tx : List (Nat × Dword) := []
  wait : List TxBlk := []
  place : Nat := 0
  lastRx : Nat := 0
  fix : Nat := 0
deriving DecidableEq, Repr

/-- Leg protection beyond its registers (R155 to R166): latch bits of each leg waiting for LN_TRIPCLR, the legs
whose LN_TRIPCLR has not been issued, the filtered levels of the trip pins, and the elapsed time at which GEN_REQ is
due. -/
structure ProtSt where
  clearing : Tab Nat := []
  clrWait : List Nat := []
  pins : Nat := 0
  genAt : Option Nat := none
deriving DecidableEq, Repr

/-- Locus beyond its registers (R174 to R192), in per unit, Hz, turns and seconds: the outputs of the two integrators and
their last inputs, loop frequency and angle, NOMF in effect and the f_b chosen at the first lock, time for which the
lock conditions have held, held frequency and output angle, the outputs of the last pass, filtered ROCOF, the flux, the
machine and its pm of the last pass, front setpoints, the angle offset of TEST, the largest phase current, time below 0.95 × ILIM and whether the
limit is to clear, region timers and those that have set their flag, time in the continuous band, time for which the
return conditions have held, Ppre, P* of the last decision, the vector that the next decision takes as the previous one (R186), and the
start of the restoration ramp. Times are in units of 0.25 ns. -/
structure LocSt where
  va1 : Rat := 0
  va2 : Rat := 0
  vb1 : Rat := 0
  vb2 : Rat := 0
  ua : Rat := 0
  ub : Rat := 0
  f : Rat := 0
  live : Rat := 0
  nomf : Nat := 0
  nomAuto : Option Nat := none
  good : Nat := 0
  holdf : Rat := 0
  htheta : Rat := 0
  theta : Rat := 0
  freq : Rat := 0
  rocof : Rat := 0
  e : Rat := 0
  vpa : Rat := 0
  vpb : Rat := 0
  vna : Rat := 0
  vnb : Rat := 0
  vpos : Rat := 0
  vmin : Nat := 0
  vmax : Nat := 0
  vminR : Rat := 0
  vmaxR : Rat := 0
  lamA : Rat := 0
  lamB : Rat := 0
  psiA : Rat := 0
  psiB : Rat := 0
  p : Rat := 0
  q : Rat := 0
  gamma : Rat := 0
  w : Rat := 0
  tvsm : Rat := 0
  delta : Rat := 0
  E : Rat := 1
  pm : Rat := 0
  pset : Rat := 0
  qset : Rat := 0
  jump : Rat := 0
  imax : Rat := 0
  limFor : Nat := 0
  limClr : Bool := false
  timers : Tab Nat := []
  atMax : List Nat := []
  bandFor : Nat := 0
  retFor : Nat := 0
  pPre : Rat := 0
  pLast : Rat := 0
  prevVec : Nat := 0
  wasMc : Bool := false
  ramp : Option Nat := none
deriving DecidableEq, Repr

/-- The grid-code engine beyond its registers (R199 to R203): frequency, V+ and Vmax of the last evaluation in
LOCK, filtered Vref, volt-var output, volt-watt limit, frequency-watt output, Ppre, and the millisecond last evaluated. -/
structure GcSt where
  seen : Option (Rat × Rat × Rat) := none
  vref : Rat := 1
  vv : Rat := 0
  pvw : Rat := 1
  pfw : Rat := 0
  ppre : Rat := 0
  ms : Option Nat := none
deriving DecidableEq, Repr

/-- A slot under measurement (R208): its number since the epoch, sums and counts of the two intervals, whether every
tick so far was usable, whether an injection took place. -/
structure SlotMeas where
  no : Nat := 0
  sum1 : Rat := 0
  n1 : Nat := 0
  sum2 : Rat := 0
  n2 : Nat := 0
  good : Bool := false
  injected : Bool := false
deriving DecidableEq, Repr

/-- The islanding detector beyond its registers (R205 to R211): timers and onsets of the four limits, those confirmed,
the onset of the ROCOF condition and its confirmation, the slot in progress and the one that has ended, the last WIN
counted responses with the starts of their slots (newest first), the entry to ISLAND, the
deadline, whether the legs have ceased, the tick of the last confirmation, whether its event is still to be logged, whether the
window has confirmed, and whether the deadline was missed. Times are Gnomon times. -/
structure IslSt where
  timers : Tab Nat := []
  onset : Tab (Option Nat) := []
  conf : List Nat := []
  rocofOn : Option Nat := none
  rocofConf : Bool := false
  cur : Option SlotMeas := none
  ended : Option SlotMeas := none
  window : List (Bool × Nat) := []
  entered : Option Nat := none
  deadline : Option Nat := none
  ceased : Bool := false
  confAt : Option Nat := none
  confDue : Bool := false
  winConf : Bool := false
  missed : Bool := false
deriving DecidableEq, Repr

/-- One partial sum of a channel, over one millisecond (R221, R222): ticks, sums of v, i and p, the four correlations,
ticks without a sample, and whether |i| exceeded IMAX in every tick. -/
structure SlSum where
  n : Nat := 0
  sv : Rat := 0
  si : Rat := 0
  sp : Rat := 0
  pc : Rat := 0
  ps : Rat := 0
  vc : Rat := 0
  vs : Rat := 0
  miss : Nat := 0
  hot : Bool := true
deriving DecidableEq, Repr

/-- A scan in progress (R230): start, buffer, voltage and power before it, sums of the point in progress, its index, the
points taken (v, i), and the choice made at t0 + 36 ms (index, moved, voltage, power). -/
structure ScanSt where
  t0 : Nat := 0
  buf : Nat := 0
  vpre : Rat := 0
  ppre : Rat := 0
  sv : Rat := 0
  si : Rat := 0
  n : Nat := 0
  idx : Nat := 0
  pts : List (Rat × Rat) := []
  best : Option (Nat × Bool × Rat × Rat) := none
deriving DecidableEq, Repr

/-- A tracking channel beyond its registers (R217 to R235): last voltage and current, the millisecond in progress, the
whole milliseconds of the window (newest first), base voltage, PMPP, VOC, VMPP, valid estimates in a row below GTH, times
for which v has been at or above VOCMIN and i below −IREV, evaluations in a row of LOWVOC, NODITHER, dusk and shading,
the ends of completed scans that MISMATCH is still to be judged by, an injected fault, the scan, dP/dV with VDITH of the last
evaluation, its term of the curtailment basis, and the fault codes whose condition held at the last evaluation with those that arose
there (R233). -/
structure SlCh where
  v : Rat := 0
  i : Rat := 0
  cur : SlSum := {}
  win : List SlSum := []
  last : SlSum := {}
  vb : Rat := 0
  pmpp : Rat := 0
  voc : Rat := 0
  vmpp : Rat := 0
  mppRun : Nat := 0
  vocFor : Nat := 0
  revFor : Nat := 0
  lowRun : Nat := 0
  ditherRun : Nat := 0
  duskRun : Nat := 0
  shadeRun : Nat := 0
  scanEnds : List Nat := []
  inject : Bool := false
  scan : Option ScanSt := none
  dpdv : Rat := 0
  vdith : Rat := 0
  base : Rat := 0
  conds : List Nat := []
  arose : List Nat := []
deriving DecidableEq, Repr

/-- Slope beyond its registers: channels, the millisecond whose partial sums have been closed and the one evaluated. -/
structure SlopeSt where
  ch : Tab SlCh := []
  rolled : Option Nat := none
  done : Option Nat := none
deriving DecidableEq, Repr

/-- The converters beyond their registers (R277 to R286): the slot entries read at the tick start, background slots with a
trigger waiting, the round-robin position of each service position, input words that a tick slot has written in this tick,
coefficients pending for SARc, failures in a row, the swap due at the next tick start (1 SAR8 takes over, 2 SARc returns),
elapsed time at which WAIT began, an offset asked for the next calibration of SAR8, and the last signed code
of every slot with its elapsed time, and the shadow step in progress: ticks begun, sum of the differences and pairs compared. -/
structure AdcSt where
  seq : Tab Nat := []
  trig : List Nat := []
  rr : Tab Nat := []
  words : List Nat := []
  pend : Option (Nat × Nat) := none
  fails : Nat := 0
  swap : Nat := 0
  waitUp : Nat := 0
  calErr : Bool := false
  codes : Tab (Int × Nat) := []
  shadow : Option (Nat × Int × Nat) := none
deriving DecidableEq, Repr

/-- One window comparator beyond its registers (R288 to R291): raw state (0 inside, 1 below, 2 above) with the elapsed time
of its last change or of the end of blanking, filtered window state, held thresholds and the side refreshed next, the edges whose
blanking windows are still to open, the latest edge of the open window, whether the filter has restarted from blanking, and the
elapsed time since which WIN has been inside. Edges are elapsed times. -/
structure CmpSt where
  raw : Nat := 0
  rawUp : Nat := 0
  win : Nat := 0
  hi : Nat := 0x3FF
  lo : Nat := 0
  loNext : Bool := false
  edges : List Nat := []
  blankUp : Option Nat := none
  afterBlank : Bool := false
  inUp : Nat := 0
deriving DecidableEq, Repr

/-- Tangent beyond its registers: comparators, the voltages of the AIN balls in microvolts, the next side of a self-test pass (2c is HI of TWc, 2c + 1 is LO), whether
HI of that comparator passed, whether a side of it was skipped, elapsed time of the last start of a pass. -/
structure TangentSt where
  tw : Tab CmpSt := []
  ain : Tab Int := []
  pass : Option Nat := none
  hiOk : Bool := true
  skipped : Bool := false
  passUp : Nat := 0
deriving DecidableEq, Repr

/-- A stage register (R242, R249): 64 mantissas, shared exponent, length. -/
structure Stage where
  m : List Int
  e : Int
  len : Nat
deriving DecidableEq, Repr

/-- An accumulator (R246): 64 integers and a shared exponent. -/
structure Accu where
  t : List Int
  e : Int
deriving DecidableEq, Repr

/-- An entry of the loop stack (R251): first and last offset of the body, repetitions left. -/
structure LoopEnt where
  first : Nat
  last : Nat
  left : Nat
deriving DecidableEq, Repr

/-- The input stage's record of one leg in this tick (R253, R98). -/
structure LegIn where
  valid : Bool := false
  late : Bool := false
  pred : Bool := false
  held : Bool := false
deriving DecidableEq, Repr

/-- Vertex (R249 to R265): the architectural registers, the three memories as words with the data words that
hold planted bit errors, the running program (its counter, the number of TIME clocks from the Compute start to the
next issue, the clock at which each register's last result is ready), output slots as written and as committed with those written in
this tick, prediction slots written in this tick, predictions as committed with the channels committed in this tick and in the
last, samples held for the next tick, leg flags, queued coefficient writes, the progress of the tick, and a supervisor signal to Secant. `t0` is
the Gnomon time of the Compute start. -/
structure CeSt where
  stages : Tab Stage := []
  accs : Tab Accu := []
  masks : Tab Nat := []
  ars : Tab Nat := []
  loops : List LoopEnt := []
  prog : Tab Nat := []
  data : Tab Nat := []
  coef : Tab Nat := []
  err1 : List Nat := []
  err2 : List Nat := []
  planted : List Nat := []
  running : Bool := false
  pc : Nat := 0
  clk : Nat := 0
  t0 : Nat := 0
  ready : Tab Nat := []
  slots : Tab Int := []
  duty : Tab Int := []
  slotNew : List Nat := []
  predNew : List Nat := []
  pred : Tab Nat := []
  predNow : List Nat := []
  predLast : List Nat := []
  frozen : Bool := false
  held : List (Nat × Nat) := []
  heldLegs : List (Nat × LegIn) := []
  legIn : Tab LegIn := []
  coefQ : List (Nat × Nat) := []
  pdataLo : Nat := 0
  injFault : Bool := false
  computing : Bool := false
  ended : Bool := false
  faulted : Bool := false
  published : Bool := false
  firstBank : Bool := false
  firstRun : Bool := false
  firstMode : Bool := true
  supGd : Bool := false
deriving DecidableEq, Repr

/-- A measurement window (R305), in progress or closed: processed samples of the sixteen channels newest first, those before
it, the number of its first sample, τ of its last sample, crossings counted since it began, cycles between its first and last
crossing, positions of these in units of 2^-16 sample, the cycles it spans, the delay of the quarter period in 2^-16 sample, and
its marks; `at600` is set when a whole multiple of 600 s ended it, `stepped` when a time step discards it from the 150-cycle run. -/
structure MWin where
  xs : List (List Int) := []
  hist : List (List Int) := []
  n0 : Nat := 0
  tau : Nat := 0
  crosses : Nat := 0
  whole : Nat := 0
  firstX : Option Int := none
  lastX : Option Int := none
  cycles : Nat := 10
  dq : Nat := 0
  noref : Bool := false
  short : Bool := false
  clip : Bool := false
  test : Bool := false
  at600 : Bool := false
  stepped : Bool := false
deriving DecidableEq, Repr

/-- An interval of 10 s (R308): number of the interval once a sample has begun it, whether a time step discards it, crossings in it,
positions of the first and last. -/
structure MTen where
  k : Option Nat := none
  skip : Bool := false
  count : Nat := 0
  first : Int := 0
  last : Int := 0
deriving DecidableEq, Repr

/-- Annulus beyond its registers: time of the last raw sample, high-pass states, the last values b of every channel newest
first, delay and weights in effect per channel, processed samples newest first, the window in progress, windows and 10 s
intervals closed and not yet evaluated, the frequency of the last window, quantum in effect, accumulators with their
residues in units of 2^-48 Q, wraps since WACK, OVF flags to be shown, RUNNING bits, window sequence, τ of the last window
end, the test energy, register values held back by HOLD, RMS values of the 150-cycle run with its flag, and of the
windows of the 10-minute interval, each with the number of the interval it ends in and its flag, the last whole second staged, the last synchrophasor instant, failures in a row of the rotation, the sum and
number of the differences of the shadow step in progress and of the one that has ended (R317), the
swap due at the next window end, elapsed time at which WAIT began; the restore: its elapsed time, whether the record was a
final one, its τ, and the gap to report (start, end if known, no state); the gain and offset of the seventeen modulators. -/
structure MeterSt where
  last : Option Nat := none
  dacc : List Int := []
  bs : List (List Int) := []
  wts : List (Nat × List Int) := []
  hist : List (List Int) := []
  win : Option MWin := none
  closed : List MWin := []
  ten : MTen := {}
  tens : List MTen := []
  freq : Option Rat := none
  quant : Nat := 0
  acc : Tab Nat := []
  wraps : Tab Nat := []
  ovf : List Nat := []
  running : Nat := 0
  seq : Nat := 0
  tend : Nat := 0
  tacc : Int := 0
  held : List (Fld × Nat) := []
  run150 : List (List Nat) := []
  run10m : List (Nat × Bool × List Nat) := []
  flag150 : Bool := false
  lastSec : Option Nat := none
  lastPmu : Option Nat := none
  fails : Nat := 0
  shadow : Option (Int × Nat) := none
  shadowed : Option (Int × Nat) := none
  swap : Nat := 0
  waitUp : Nat := 0
  restoredUp : Option Nat := none
  final : Bool := false
  restTau : Nat := 0
  gap : Option (Nat × Option Nat × Bool) := none
  mods : Tab (Rat × Rat) := []
deriving DecidableEq, Repr

/-- One Ethernet port beyond its registers (R334 to R336): link up, the next free offset in its receive area, the frames
that occupy the area (index of the completion entry, bytes of space), and the last frame it sent. -/
structure EthSt where
  up : Bool := false
  wr : Nat := 0
  frames : List (Nat × Nat) := []
  sent : List Byte := []
deriving DecidableEq, Repr

/-- One drive beyond its page (R354 to R372): estimator (ψα, ψβ in 2^-24 Vs, flux angle in turns), electrical speed in
turns per second, elapsed time of the last decision, the pulse that awaits a decision, misses in a row, comparators dψ and dT,
speed reference in rpm, integral and reference of torque, whether the limit acts; the vector requested (8 all off) and the
previous Hall choice; the direction of running; when CATCH, ALIGN, the V0 hold, the band violation, the position window and the low
currents of SHORT began; catches without result, rotor lost into Hall mode, decisions in Hall mode above SPD_MIN, a
reversal under way, the kind of command (0 speed, 1 position, 2 stow, 3 home), its target, a HALT stow under way with its start, a fault recorded in
SHORT, and whether a trip condition of its comparators stood at their last report. -/
structure DrvSt where
  psiA : Int := 0
  psiB : Int := 0
  theta : Rat := 0
  we : Rat := 0
  lastUp : Option Nat := none
  pulseUp : Option Nat := none
  misses : Nat := 0
  dPsi : Bool := false
  dT : Int := 0
  wRef : Rat := 0
  integ : Rat := 0
  tRef : Rat := 0
  tLim : Bool := false
  vec : Nat := 8
  hallOn : Bool := false
  dir : Int := 0
  catchUp : Nat := 0
  alignUp : Nat := 0
  holdUp : Option Nat := none
  lossUp : Option Nat := none
  posUp : Option Nat := none
  lowUp : Option Nat := none
  catches : Nat := 0
  hallLost : Bool := false
  hallN : Nat := 0
  reversing : Bool := false
  cmd : Nat := 0
  target : Int := 0
  stowUp : Option Nat := none
  pending : Nat := 0
  ocOn : Bool := false
deriving DecidableEq, Repr

/-- One chopper beyond its registers (R368, R369): elapsed times of its last change of request and of the last change of the
current's presence, and that presence. -/
structure BrkSt where
  reqUp : Nat := 0
  curUp : Nat := 0
  present : Bool := false
deriving DecidableEq, Repr

/-- One Arc channel beyond its registers: the counts of the last 10 ms with their elapsed times, and the
elapsed time of the last count. -/
structure ArcSt where
  counts : List (Nat × Int) := []
  moveUp : Option Nat := none
deriving DecidableEq, Repr

/-- Both channels' counts of one drive (R388). Chord: sector (7 none), position XB, counts of the 10 ms window in progress, its
start, whether the last whole window exceeded the limit, elapsed time of the last count, a Hall fault; then motion in
the positive and in the negative direction while forbidden, in Chord and in Secant, and Secant's cycles in a row
in which X and XB differ by more than XTOL. -/
structure ChordSt where
  sector : Nat := 7
  xb : Int := 0
  win : Int := 0
  winUp : Nat := 0
  fast : Bool := false
  moveUp : Option Nat := none
  hallFault : Bool := false
  fwdB : Nat := 0
  revB : Nat := 0
  fwdA : Nat := 0
  revA : Nat := 0
  apart : Nat := 0
deriving DecidableEq, Repr

/-- One safe connection beyond its registers (R404 to R406): command bits of the last accepted frame, elapsed times of the
watchdog's expiry, of the SCV failures of the last 60 s and of the last frame sent, whether the next frame carries FLAGS[0],
and whether a discard has been logged since the last acceptance. -/
structure ConnSt where
  cmd : Nat := 0
  wdUp : Option Nat := none
  bad : List Nat := []
  txUp : Nat := 0
  first : Bool := false
  logged : Bool := false
deriving DecidableEq, Repr

/-- The safety cluster beyond its registers (R382 to R411): the parameters in effect in Secant and in Chord (R383), the bits in which
Chord's copy of a parameter register differs from the register (R14), Secant's instruction memory as loaded (R18, R408), the counts of the drives,
connections, Chord's filtered levels (bit 2x of SINAx, 2x + 1 of SINBx), the start of each discrepancy and the pairs in demand on
both inputs since DISCF latched (x in Secant, 8 + x in Chord), cycles in a row in which the
DC link read above LIM, elapsed times of the last cycle and heartbeat, start of a difference between the channels' vectors,
demand vectors of the two channels (SAFE_CAUSE bits, then the CAUSE bits of drive d from bit 16 + 8d), the vector that Secant has
found from the inputs at the start of the cycle in progress (R384), drives whose stop channel A has requested, elapsed time of the last
change of every output and of the start of its waveform (R397), and faults injected for the next cycle; whether the load of Secant's
program met a double-bit error. -/
structure SafeSt where
  par : Tab Word := []
  parB : Tab Word := []
  flips : Tab Word := []
  imem : Tab Byte := []
  chord : Tab ChordSt := []
  conns : Tab ConnSt := []
  levB : Nat := 0
  discUp : Tab (Option Nat) := []
  both : Nat := 0
  dcov : Nat := 0
  cycleUp : Nat := 0
  beatUp : Nat := 0
  crossUp : Option Nat := none
  demA : Nat := 0
  demB : Nat := 0
  nextA : Nat := 0
  stopA : Nat := 0
  outUp : Tab Nat := []
  outFrom : Tab Nat := []
  xinj : Bool := false
  oinj : Bool := false
  badLoad : Bool := false
deriving DecidableEq, Repr

/-- A step of a burst (R429): a word of the checkpoint MRAM, or the end of a checkpoint slot (record, slot, SEQ, write
count), a PFAIL slot or a LIFE slot. -/
inductive BurstStep where
  | word (a v : Nat)
  | ckDone (rec slot seq count : Nat)
  | pfailDone
  | lifeDone
deriving DecidableEq, Repr

/-- The Origin domain beyond its page (R416 to R436): the checkpoint MRAM as 64-bit words, the records retired for life, the
snapshot staged by Annulus, whether VKEEP is good, elapsed times since which VHARV has been at or above HV_ON and below HV_OFF,
elapsed times of the last harvest sample and cell measurement, the cell reading before the last, the start of charging, the
trim accumulator, elapsed time at which the second in progress began and its length in KEEP clocks, the whole second at which
the learning interval began, the start of the hour in progress and of DARK, whether the temperature has been below CYC_LO,
TFAIL, whether the cell's protection has opened its switch since charging last started, which PFAIL and LIFE slots are next, an Origin
power-on since the last WAKE, the burst under way, and the elapsed time of the last Origin power-on, from which its parity passes count
(R34). -/
structure OrgSt where
  ckpt : Tab Nat := []
  retired : Nat := 0
  stage : Option (List Nat) := none
  vkeep : Bool := true
  onUp : Option Nat := none
  offUp : Option Nat := none
  harvUp : Nat := 0
  cellUp : Nat := 0
  prevCell : Nat := 0
  chgUp : Nat := 0
  ta : Int := 0
  rtcUp : Nat := 0
  secLen : Nat := 32768
  learnFrom : Option Nat := none
  hourUp : Nat := 0
  darkUp : Nat := 0
  cold : Bool := false
  tfail : Bool := false
  cellOpened : Bool := false
  pfailB : Bool := false
  lifeB : Bool := false
  por : Bool := false
  burst : List BurstStep := []
  scrubUp : Nat := 0
deriving DecidableEq, Repr

/-- The whole device. `regs` holds every register word that differs from its reset value, `parFlip` the
addresses of the registers whose hidden parity bit disagrees with their fields (R40), `sram` and `mram` the
shared SRAM and the embedded MRAM (R18). `fresh` counts the free values drawn so far. `pending` is the
queue of commands that wait, first in, first out. -/
structure State where
  regs : Tab Word
  parFlip : List Nat
  sram : List Host.Cell
  mram : List Host.Cell
  time : TimeSt
  log : LogSt
  mode : ModeSt
  sys : SysSt
  poly : PolySt
  ports : Tab PortSt
  prot : ProtSt
  ce : CeSt
  loc : LocSt
  gc : GcSt
  isl : IslSt
  slope : SlopeSt
  adc : AdcSt
  cmp : TangentSt
  eth : Tab EthSt
  drv : Tab DrvSt
  brk : Tab BrkSt
  arc : Tab ArcSt
  safe : SafeSt
  meter : MeterSt
  org : OrgSt
  fresh : Nat
  pending : List Instr
deriving DecidableEq, Repr

/-- Stops. `noSuchAddress` is raised by a register access whose address lies outside the register window (KEY, REGISTER_WRITE,
ACCESS_UNIMPL, IRQ_FORCE), by an access to shared SRAM or embedded MRAM beyond its size, and by an MRAM_WRITE outside the safety
partition (R18, R26, R408): safe, since the spec gives such an address no meaning. -/
inductive Fault where
  | noSuchAddress
deriving DecidableEq, Repr

/-- Refusals. `notModelled` names a command that has no meaning yet: safe, the machine stops. -/
inductive Refusal where
  | notModelled (mnemonic : String)
deriving DecidableEq, Repr

/-- The device at the release of the main reset that follows its first power-up (R447, R448): mode WAKE, Gnomon not yet running,
every register at its reset value but those that the power-up itself sets: SYS_RST_CAUSE reads POWER (R445), CLK_PLL shows SYS
and LINK locked, SAFE_MRAM.BUILTIN is 1 on the erased safety partition (R408, R448), ORIGIN_STAT.RAILS and CUT read 1 and the power-on of the
Origin domain is counted (R416). The events of the power-up wait for the first tick start (R458). -/
def State.reset : State where
  regs := [(0x40000044, 1), (0x40010044, 5), (0x40800060, 4), (0x40900040, 0x14), (0x40900098, 0x10000000), (0x409000AC, 0x10000)]
  parFlip := []
  sram := []
  mram := []
  time := {}
  log := { early := [⟨0, 16, 63, 0x018, 1, false⟩, ⟨0, 18, 63, 0x117, 0, false⟩, ⟨0, 18, 63, 0x518, 1, false⟩,
                     ⟨0, 18, 63, 0x11A, 0x10000000, false⟩] }
  mode := {}
  sys := {}
  poly := {}
  ports := []
  prot := {}
  ce := {}
  loc := {}
  gc := {}
  isl := {}
  slope := {}
  adc := {}
  cmp := {}
  eth := []
  meter := {}
  drv := []
  brk := []
  arc := []
  safe := {}
  org := {}
  fresh := 0
  pending := []

end Sys2Proof.Machine
end

