-- ==== Sys2Proof/Machine/Ops.lean ====
section
/-! DEFINITION. The named operations that every meaning uses: registers and their fields, interrupt flags,
Gnomon time, memory, the event log's intake and the descriptor rings. -/

namespace Sys2Proof.Machine

open Sys2Proof

/-! ## Registers -/

/-- The bits hi to lo of a word. -/
def fieldOf (w : Word) (hi lo : Nat) : Nat := w.toNat / 2 ^ lo % 2 ^ (hi + 1 - lo)

/-- A word with its bits hi to lo replaced. -/
def insertField (w : Word) (hi lo v : Nat) : Word :=
  BitVec.ofNat 32 (w.toNat / 2 ^ (hi + 1) * 2 ^ (hi + 1) + v % 2 ^ (hi + 1 - lo) * 2 ^ lo + w.toNat % 2 ^ lo)

/-- A register word as stored. -/
def State.reg (s : State) (a : Nat) : Word := Tab.get regReset s.regs a

/-- A register word stored. -/
def State.setReg (s : State) (a : Nat) (v : Word) : State :=
  { s with regs := Tab.set regReset s.regs a v }

/-- A field as an unsigned number. -/
def State.get (s : State) (f : Fld) : Nat := fieldOf (s.reg f.addr) f.hi f.lo

/-- A field as a two's-complement number. -/
def State.getI (s : State) (f : Fld) : Int :=
  let v := s.get f
  if v < 2 ^ (f.hi - f.lo) then v else (v : Int) - 2 ^ (f.hi + 1 - f.lo)

/-- A field set by the device. -/
def State.put (s : State) (f : Fld) (v : Nat) : State :=
  s.setReg f.addr (insertField (s.reg f.addr) f.hi f.lo v)

/-- A field set to a two's-complement number, modulo its width. -/
def State.putI (s : State) (f : Fld) (v : Int) : State :=
  s.put f (v % 2 ^ (f.hi + 1 - f.lo)).toNat

/-- A configuration field set by the device, with its register's parity bit (R40). -/
def State.putCfg (s : State) (f : Fld) (v : Nat) : State :=
  { s.put f v with parFlip := s.parFlip.filter (· != f.addr) }

/-- A SAFE parameter field set by the device: both channels' copies take it (R14, R383). -/
def State.putPar (s : State) (f : Fld) (v : Nat) : State :=
  let w := insertField (Tab.get (fun _ => 0) s.safe.flips f.addr) f.hi f.lo 0
  { s.putCfg f v with safe := { s.safe with flips := Tab.set (fun _ => 0) s.safe.flips f.addr w } }

def State.flag (s : State) (f : Fld) : Bool := s.get f != 0
def State.putB (s : State) (f : Fld) (b : Bool) : State := s.put f b.toNat

/-- A counter field that saturates at its width. -/
def State.bumpSat (s : State) (f : Fld) : State := s.put f (min (s.get f + 1) (2 ^ (f.hi + 1 - f.lo) - 1))
/-- A counter field modulo its width. -/
def State.bumpMod (s : State) (f : Fld) : State := s.put f (s.get f + 1)

/-- A value saturated to a signed width. -/
def satI (w : Nat) (v : Int) : Int := max (-(2 ^ (w - 1) : Int)) (min ((2 ^ (w - 1) : Int) - 1) v)
/-- A value saturated to an unsigned width. -/
def satN (w : Nat) (v : Nat) : Nat := min v (2 ^ w - 1)

/-! ## The page header (R33) -/

def F.keyReg (b : Nat) : Nat := b + 0x008
def F.lastCause (b : Nat) : Fld := ⟨b + 0x00C, 30, 28⟩
def F.lastOffset (b : Nat) : Fld := ⟨b + 0x00C, 27, 16⟩
def F.refused (b : Nat) : Fld := ⟨b + 0x00C, 15, 8⟩
def F.passes (b : Nat) : Fld := ⟨b + 0x010, 31, 16⟩
def F.errOffset (b : Nat) : Fld := ⟨b + 0x010, 15, 4⟩
def F.react (b : Nat) : Fld := ⟨b + 0x010, 3, 2⟩
def F.parErr (b : Nat) : Fld := ⟨b + 0x010, 0, 0⟩
def F.irqStat (b : Nat) : Fld := ⟨b + 0x014, 31, 0⟩
def F.irqEn (b : Nat) : Fld := ⟨b + 0x018, 31, 0⟩

/-- IRQ_STAT bit i of a page set by the device (R35). -/
def State.irq (s : State) (k : PageKind) (n i : Nat) : State := s.put ((F.irqStat (pageBase k n)).bit i) 1

/-- The page's interrupt line (R35). -/
def State.irqLine (s : State) (k : PageKind) (n : Nat) : Bool :=
  (s.reg (pageBase k n + 0x014) &&& s.reg (pageBase k n + 0x018)) != 0

/-! ## Modes (R67) and time (R331, R58) -/

def mDARK : Nat := 0
def mWAKE : Nat := 1
def mSTANDBY : Nat := 2
def mFOLLOW : Nat := 3
def mFORM : Nat := 4
def mRIDE : Nat := 5
def mISLAND : Nat := 6
def mHALT : Nat := 7

def State.majorMode (s : State) : Nat := s.get R.SYS_MODE_STAT_MODE
/-- The main rails are good and main reset is released: the blocks outside the Origin domain work. -/
def State.alive (s : State) : Bool := s.majorMode != mDARK && !s.sys.inReset
/-- The modes in which legs switch (R67). -/
def State.switching (s : State) : Bool :=
  let m := s.majorMode
  m == mFOLLOW || m == mFORM || m == mRIDE || m == mISLAND
/-- An effect of a block outside the Origin domain: none while it is unpowered or in main reset. -/
def State.whenAlive (s : State) (f : State → State) : State := if s.alive then f s else s

/-- A core makes accesses: HC0 and the debug port always, another core once HC0 has released it (R21). -/
def State.initiates (s : State) (who : Who) : Bool :=
  who.id == 0 || who.id == 4 || (s.get R.SYS_HC_REL).testBit who.id.val

def State.modStatus (s : State) (f : Fld) : Bool := s.get f == 1
def State.testActive (s : State) : Bool := s.modStatus R.SYS_MODE_STAT_ST_TEST
def State.legacyActive (s : State) : Bool := s.modStatus R.SYS_MODE_STAT_ST_LEGACY
def State.nightvar (s : State) : Bool := s.modStatus R.SYS_MODE_STAT_ST_NIGHTVAR
def State.curtail (s : State) : Bool := s.modStatus R.SYS_MODE_STAT_ST_CURTAIL

/-- Units of 0.25 ns in a second (R331). -/
def secQ : Nat := 4000000000
/-- The 64-bit timestamp of a Gnomon time (R332). -/
def stampOf (t : Nat) : Nat := t / secQ % 2 ^ 32 * 2 ^ 32 + t % secQ
def State.fine (s : State) : Bool := s.flag R.SYS_MODE_STAT_PROFILE
/-- The tick period in units of 0.25 ns (R58). -/
def State.tickQ (s : State) : Nat := if s.fine then 20000 else 40000
/-- The tick period in units of 78.125 ps (R85). -/
def State.tickU (s : State) : Nat := if s.fine then 64000 else 128000
/-- The number of the tick in progress (R58). -/
def State.tickNo (s : State) : Nat := s.time.tickStart / s.tickQ
/-- A Gnomon time in units of 78.125 ps. -/
def toUnits (t : Nat) : Nat := t * 16 / 5
/-- Sixteen units are one TIME clock, five units of 0.25 ns. -/
def unitsToQ (u : Nat) : Nat := u * 5 / 16
/-- The first TIME clock at or after a Gnomon time, in whose units the counter stands and an event is stamped (R17, R331). -/
def clockOf (t : Nat) : Nat := (t + 4) / 5 * 5

/-- The frequency of the TIME clock relative to the reference, in 2^-40 (R341, R439). -/
def State.speed (s : State) : Nat := max 1 (2 ^ 40 + s.time.rate).toNat
/-- What the TIME clock counts over a span of elapsed time, and the elapsed time over which it counts a span, both rounded up. -/
def State.oscSpan (s : State) (d : Nat) : Nat := (d * s.speed + (2 ^ 40 - 1)) / 2 ^ 40
def State.refSpan (s : State) (d : Nat) : Nat := (d * 2 ^ 40 + (s.speed - 1)) / s.speed

/-- The TIME clock counts d units of 0.25 ns; Gnomon counts them once its counter runs. -/
def State.passed (s : State) (d : Nat) : State :=
  { s with time := { s.time with now := s.time.now + (if s.time.run then d else 0), osc := s.time.osc + d,
                                 up := s.time.up + s.refSpan d } }
/-- Whole TIME clocks pass until Gnomon time has reached t, if the counter runs. -/
def State.advTo (s : State) (t : Nat) : State :=
  if s.time.run && decide (s.time.now < t) then s.passed (clockOf t - s.time.now) else s
/-- Whole TIME clocks pass until the elapsed time has reached u. -/
def State.advUp (s : State) (u : Nat) : State :=
  if s.time.up < u then s.passed (clockOf (s.time.now + s.oscSpan (u - s.time.up)) - s.time.now) else s
/-- Whole TIME clocks pass until the TIME clock has counted c units. -/
def State.advOsc (s : State) (c : Nat) : State :=
  if s.time.osc < c then s.passed (clockOf (s.time.now + (c - s.time.osc)) - s.time.now) else s

/-- One TIME clock passes, five units of 0.25 ns (R11). -/
def State.idle (s : State) : State := s.passed 5

/-- Microseconds and milliseconds in units of 0.25 ns. -/
def usQ (n : Nat) : Nat := n * 4000
def msQ (n : Nat) : Nat := n * 4000000

/-! ## Memory (R18) -/

/-- What a byte of the shared SRAM reads as that nothing has written. -/
def memDefault (_ : Nat) : Byte := 0
/-- What a byte of the embedded MRAM reads as that nothing has written: erased (R408, R460). -/
def mramDefault (_ : Nat) : Byte := 0xFF
def sramSize : Nat := 4194304
def mramSize : Nat := 8388608

/-- n bytes of a number, least significant first (R4). -/
def leBytes : Nat → Nat → List Byte
  | 0, _ => []
  | n + 1, v => BitVec.ofNat 8 v :: leBytes n (v / 256)
def leNat : List Byte → Nat
  | [] => 0
  | b :: bs => b.toNat + 256 * leNat bs

def State.sramByte (s : State) (a : Nat) : Byte := Tab.get memDefault s.sram a
def State.mramByte (s : State) (a : Nat) : Byte := Tab.get mramDefault s.mram a
def State.sramRead (s : State) (a n : Nat) : Nat := leNat (Tab.getMany memDefault s.sram a n)
def State.mramRead (s : State) (a n : Nat) : Nat := leNat (Tab.getMany mramDefault s.mram a n)
def State.sramStore (s : State) (a : Nat) (bs : List Byte) : State :=
  { s with sram := Tab.setMany memDefault s.sram a bs }
def State.mramStore (s : State) (a : Nat) (bs : List Byte) : State :=
  { s with mram := Tab.setMany mramDefault s.mram a bs }
def State.sramWrite (s : State) (a n v : Nat) : State := s.sramStore a (leBytes n v)

/-! ## Events (R17, R52, R53) -/

/-- An event enters the path to the log engine with the TIME clock of its detection; before the counter runs it waits for
the first tick start. In main reset only the Origin domain detects events, which wait as well; without main rails nothing is logged. -/
def State.emitAt (s : State) (t src inst code data : Nat) : State :=
  if s.majorMode = mDARK ∨ (s.sys.inReset = true ∧ src ≠ 18) then s
  else
    let e : Ev := { t := clockOf t, src, inst, code, data := data % 2 ^ 40 }
    if s.time.run && !s.sys.inReset then { s with log := { s.log with inflight := s.log.inflight ++ [e] } }
    else { s with log := { s.log with early := s.log.early ++ [e] } }
/-- An event stamped now. -/
def State.emit (s : State) (src inst code data : Nat) : State := s.emitAt s.time.now src inst code data

/-- The 128-bit entry (R52). -/
def Ev.entry (e : Ev) : Nat :=
  stampOf e.t + (e.src % 64 * 64 + e.inst % 64) * 2 ^ 64 + e.code % 4096 * 2 ^ 76 + e.data % 2 ^ 40 * 2 ^ 88

/-! ## Errors in memories (R19, R54) -/

/-- SOURCE index of the block that owns a memory of R54. -/
def memSrc (mem : Nat) : Nat :=
  if 4 ≤ mem ∧ mem ≤ 6 then 6 else if mem = 7 ∨ mem = 8 then 1 else if mem = 9 then 18 else 16
/-- The number of wrong bits that a word of a memory holds: none, one, or two. -/
def State.wrongBits (s : State) (mem w : Nat) : Nat :=
  if s.sys.upsets.contains (mem, w, true) then 2 else if s.sys.upsets.contains (mem, w, false) then 1 else 0
/-- A word rewritten holds no error. -/
def State.memMend (s : State) (mem w : Nat) : State :=
  { s with sys := { s.sys with upsets := s.sys.upsets.filter fun q => q.1 != mem || q.2.1 != w } }
/-- A word of a memory is read at Gnomon time t: one wrong bit is corrected and written back corrected, two are found, and either is
logged. -/
def State.memReadAt (s : State) (t mem w : Nat) : State :=
  match s.wrongBits mem w with
  | 0 => s
  | 1 => (s.memMend mem w).emitAt t (memSrc mem) 63 0x3C8 (mem + w * 16)
  | _ => s.emitAt t (memSrc mem) 63 0xBC9 (mem + w * 16)
/-- A word of a memory is read now. -/
def State.memRead (s : State) (mem w : Nat) : State := s.memReadAt s.time.now mem w
/-- An upset leaves wrong bits in a word. -/
def State.upset (s : State) (mem w : Nat) (double : Bool) : State :=
  { s.memMend mem w with sys := { (s.memMend mem w).sys with upsets := (mem, w, double) :: (s.memMend mem w).sys.upsets } }

/-- A fold of a state over the numbers from a on. -/
def State.forEach (s : State) (f : State → Nat → State) : List Nat → State
  | [] => s
  | i :: is => (f s i).forEach f is

/-- The words of the shared SRAM that n bytes at an offset span. -/
def sramWords (a n : Nat) : List Nat := (List.range ((a % 8 + n + 7) / 8)).map fun i => a / 8 + i
/-- Bytes of a word of a memory that the bus sees: the embedded MRAM's is of 128 bits, the shared SRAM's of 64. -/
def wordSize (mem : Nat) : Nat := if mem = 3 then 16 else 8
/-- n bytes of a memory from an offset on are written: the words that they cover whole hold no error. -/
def State.wordsMend (s : State) (mem a n : Nat) : State :=
  let b := wordSize mem
  let left := fun (q : Nat × Nat × Bool) => q.1 != mem || decide (q.2.1 * b < a) || decide (a + n < (q.2.1 + 1) * b)
  { s with sys := { s.sys with upsets := s.sys.upsets.filter left } }
def State.sramMend (s : State) (a n : Nat) : State := s.wordsMend 2 a n
/-- The words with errors that n bytes of a memory from an offset on touch; with `part`, only those that they do not cover whole. -/
def State.wordsHit (s : State) (mem a n : Nat) (part : Bool) : List Nat :=
  let b := wordSize mem
  let hit := fun (q : Nat × Nat × Bool) => q.1 == mem && decide (a < (q.2.1 + 1) * b) && decide (q.2.1 * b < a + n) &&
    (!part || decide (q.2.1 * b < a) || decide (a + n < (q.2.1 + 1) * b))
  (s.sys.upsets.filter hit).map (·.2.1)
/-- Words of a memory are read: errors are met (R19). -/
def State.wordsMeet (s : State) (mem : Nat) (ws : List Nat) : State := s.forEach (fun s w => s.memRead mem w) ws
/-- n bytes of the embedded MRAM from an offset on are read, and whether one of their words holds a double-bit error. -/
def State.mramMeet (s : State) (a n : Nat) : State := s.wordsMeet 3 (s.wordsHit 3 a n false)
def State.mramBad (s : State) (a n : Nat) : Bool := (s.wordsHit 3 a n false).any fun w => s.wrongBits 3 w == 2
/-- A bus error is returned to a requester (R19, R450). -/
def State.busError (s : State) : State := { s with sys := { s.sys with busErrors := s.sys.busErrors + 1 } }
/-- Bytes stored from an offset of the shared SRAM on, in words that are read where they are not covered whole. -/
def State.sramPut (s : State) (a : Nat) (bs : List Byte) : State :=
  ((s.wordsMeet 2 (s.wordsHit 2 a bs.length true)).sramMend a bs.length).sramStore a bs
/-- A store to the shared SRAM (2) or the embedded MRAM (3). A word that it covers whole is written with its check bits, which ends an
error there; a word that it covers in part is read first, and a double-bit error in one is a bus error, with nothing stored (R19, log
243). -/
def State.memStore (s : State) (mem a : Nat) (bs : List Byte) : State :=
  let hits := s.wordsHit mem a bs.length true
  let t := s.wordsMeet mem hits
  if hits.any fun w => s.wrongBits mem w == 2 then t.busError
  else
    let t := t.wordsMend mem a bs.length
    if mem = 3 then t.mramStore a bs else t.sramStore a bs
/-- The ring engine reads words of the shared SRAM: a double-bit error returns a bus error to it. -/
def State.sramFetch (s : State) (a n : Nat) : State :=
  s.forEach (fun s w => if s.wrongBits 2 w = 2 then (s.memRead 2 w).busError else s.memRead 2 w) (sramWords a n)

/-! ## Descriptor rings (R43 to R47) -/

def State.ringN (s : State) (r : Nat) : Nat := 2 ^ s.get (R.RING_CFG_LOG2N r)
def ringBytes (r : Nat) : Nat := 16 * 2 ^ ringEsz r
def State.ringOn (s : State) (r : Nat) : Bool := s.flag (R.RING_CFG_EN r)
/-- The fill of a ring (R45). -/
def State.ringFill (s : State) (r : Nat) : Nat :=
  (s.get (R.RING_PIDX r) + 2 ^ 32 - s.get (R.RING_CIDX r)) % 2 ^ 32
def State.ringFull (s : State) (r : Nat) : Bool := s.ringFill r == s.ringN r
/-- Byte offset of entry i in the shared SRAM (R45). -/
def State.ringSlot (s : State) (r i : Nat) : Nat :=
  s.get (R.RING_BASE_BASE r) * 64 + i % s.ringN r * ringBytes r

/-- The watermark interrupt (R44). -/
def State.ringMark (s : State) (r : Nat) : State :=
  let w := s.get (R.RING_CFG_WMARK r)
  let level := if ringIsConsumer r then s.ringN r - s.ringFill r else s.ringFill r
  if s.ringOn r && w != 0 && decide (w ≤ level) then s.irq .ring (r / 24) (r % 24) else s

/-- A drop in a full ring (R47). -/
def State.ringDrop (s : State) (r : Nat) : State :=
  let s1 := s.bumpSat (R.RING_STAT_DROPS r)
  if s.flag (R.RING_STAT_OVF r) then s1 else (s1.put (R.RING_STAT_OVF r) 1).emit 17 r 0x7C4 r

/-- The device writes an entry to a producer ring (R46, R47): stored whole before PIDX moves, dropped
when the ring is full, discarded without trace when it is disabled. -/
def State.ringPush (s : State) (r : Nat) (entry : Nat) : State :=
  if s.ringOn r then
    if s.ringFull r then s.ringDrop r
    else
      let a := s.ringSlot r (s.get (R.RING_PIDX r))
      (((s.sramMend a (ringBytes r)).sramWrite a (ringBytes r) entry).put (R.RING_PIDX r) (s.get (R.RING_PIDX r) + 1)).ringMark r
  else s

/-- Whether an entry pushed now would be stored. -/
def State.ringTakes (s : State) (r : Nat) : Bool := s.ringOn r && !s.ringFull r

/-- The entry at the head of a consumer ring, if any (R46). -/
def State.ringHead (s : State) (r : Nat) : Option Nat :=
  if s.ringOn r && s.ringFill r != 0 then
    some (s.sramRead (s.ringSlot r (s.get (R.RING_CIDX r))) (ringBytes r))
  else none
/-- The device has read the head of a consumer ring and has finished with it. -/
def State.ringPop (s : State) (r : Nat) : State :=
  let t := s.sramFetch (s.ringSlot r (s.get (R.RING_CIDX r))) (ringBytes r)
  (t.put (R.RING_CIDX r) (s.get (R.RING_CIDX r) + 1)).ringMark r

/-! ## The log engine (R55 to R57, R474) -/

/-- The ring that an entry is routed to by its severity (R55). -/
def State.evRing (s : State) (code : Nat) : Nat :=
  32 + (match code / 1024 % 4 with
    | 0 => s.get R.RING_EVT_ROUTE_INFO
    | 1 => s.get R.RING_EVT_ROUTE_WARN
    | 2 => s.get R.RING_EVT_ROUTE_FAULT
    | _ => s.get R.RING_EVT_ROUTE_SAFETY)

def noLoss (_ : Nat) : Nat := 0
def State.lostIn (s : State) (r : Nat) : Nat := Tab.get noLoss s.log.lost r
def State.setLost (s : State) (r n : Nat) : State :=
  { s with log := { s.log with lost := Tab.set noLoss s.log.lost r n } }

/-- LOG_LOST is written before any other entry once the ring has room (R57). -/
def State.reportLost (s : State) (r : Nat) : State :=
  let e : Ev := ⟨clockOf s.time.now, 17, r, 0xBC5, satN 16 (s.lostIn r) + r * 2 ^ 16, false⟩
  if s.lostIn r != 0 && s.ringTakes r then (s.ringPush r e.entry).setLost r 0 else s

/-- An entry written to its event-log ring, or counted as lost there (R57). -/
def State.writeEv (s : State) (e : Ev) : State :=
  let r := s.evRing e.code
  let s := s.reportLost r
  if s.ringTakes r then s.ringPush r e.entry
  else (if s.ringOn r then s.ringDrop r else s).setLost r (s.lostIn r + 1)

/-- Release order of R56: timestamp, source, instance; ties keep the order of arrival. -/
def Ev.before (a b : Ev) : Bool :=
  decide (a.t < b.t) || (a.t == b.t && (decide (a.src < b.src) || (a.src == b.src && decide (a.inst < b.inst))))

/-- The first entry in release order of the merge buffer, and the rest in order of arrival. -/
def takeFirst : List Ev → Option (Ev × List Ev)
  | [] => none
  | e :: es =>
    match takeFirst es with
    | none => some (e, [])
    | some (m, rest) => if m.before e then some (m, e :: rest) else some (e, es)

/-- The end of a run of early releases writes one LOG_ORDER entry directly (R56, R474). -/
def State.endRun (s : State) : State :=
  if s.log.run = 0 then s else
    let e : Ev := { t := clockOf s.time.now, src := 17, inst := 63, code := 0x7C6, data := satN 16 s.log.run }
    { (s.writeEv e) with log := { (s.writeEv e).log with run := 0 } }

/-- Every held entry is released in order (a step of Gnomon time, R56). -/
def State.releaseAll (s : State) : Nat → State
  | 0 => s
  | n + 1 =>
    match takeFirst s.log.buf with
    | none => s
    | some (e, rest) => ({ s with log := { s.log with buf := rest } }.writeEv e).releaseAll n

/-! ## Trigger lines (R343) -/

/-- A source pulses at Gnomon time t: every line that selects it carries the pulse. Pulses of one line in one clock are one. -/
def State.pulseAt (s : State) (src idx t : Nat) : State :=
  let ls := (List.range 16).filter fun x => s.get (R.TRIG_LINE_SRC x) == src && s.get (R.TRIG_LINE_INDEX x) == idx &&
    !s.time.lineDue.contains (x, t)
  { s with time := { s.time with lineDue := s.time.lineDue ++ ls.map fun x => (x, t) } }
/-- A source without an index pulses now. -/
def State.pulse (s : State) (src : Nat) : State :=
  let ls := (List.range 16).filter fun x => s.get (R.TRIG_LINE_SRC x) == src && !s.time.lineDue.contains (x, s.time.now)
  { s with time := { s.time with lineDue := s.time.lineDue ++ ls.map fun x => (x, s.time.now) } }

/-! ## Sparse records -/

def State.leg (s : State) (n : Nat) : LegSt := Tab.get (fun _ => {}) s.poly.legs n
def State.setLeg (s : State) (n : Nat) (l : LegSt) : State :=
  { s with poly := { s.poly with legs := Tab.set (fun _ => {}) s.poly.legs n l } }
def State.aux (s : State) (m : Nat) : AuxSt := Tab.get (fun _ => {}) s.poly.aux m
def State.setAux (s : State) (m : Nat) (a : AuxSt) : State :=
  { s with poly := { s.poly with aux := Tab.set (fun _ => {}) s.poly.aux m a } }
def State.port (s : State) (p : Nat) : PortSt := Tab.get (fun _ => {}) s.ports p
def State.setPort (s : State) (p : Nat) (x : PortSt) : State :=
  { s with ports := Tab.set (fun _ => {}) s.ports p x }

end Sys2Proof.Machine
end

