-- ==== Sys2Proof/Machine/Blocks.lean ====
section
/-! DEFINITION. Skatlink blocks (R113 to R126): the CRC, the payload of each type, validity of a received block,
and sending on a port. -/

namespace Sys2Proof.Machine

open Sys2Proof

/-! ## Blanking windows ahead of switching edges (R290) -/

def cmpDefault (_ : Nat) : CmpSt := {}
def State.cmpc (s : State) (c : Nat) : CmpSt := Tab.get cmpDefault s.cmp.tw c
def State.setCmp (s : State) (c : Nat) (f : CmpSt → CmpSt) : State :=
  { s with cmp := { s.cmp with tw := Tab.set cmpDefault s.cmp.tw c (f (s.cmpc c)) } }
/-- The comparators that blank around the edges of a source: kind 1 a leg timer, 2 an auxiliary timer. -/
def State.blankers (s : State) (kind idx : Nat) : List Nat :=
  (List.range 48).filter fun c => s.get (R.TW_BLK_KIND c) == kind && s.get (R.TW_BLK_INDEX c) == idx
/-- BLK.EDGE selects an edge. -/
def edgeBlanks (sel : Nat) (high on : Bool) : Bool := sel == 0 || (on && (sel == 3 || high == (sel == 1)))
/-- A number laid into a rising list. -/
def insertNat (x : Nat) : List Nat → List Nat
  | [] => [x]
  | y :: ys => if x ≤ y then x :: y :: ys else y :: insertNat x ys
/-- The elapsed time at which the TIME clock will have counted c units, and at which Gnomon will stand at t. -/
def State.upOfOsc (s : State) (c : Nat) : Nat := s.time.up + s.refSpan (c - s.time.osc)
def State.upOfNow (s : State) (t : Nat) : Nat := s.time.up + s.refSpan (t - s.time.now)
/-- Two instants within one AUX clock of each other are those of one edge. -/
def sameEdge (a b : Nat) : Bool := decide (a < b + 20) && decide (b < a + 20)
/-- The comparator has been told of an edge at elapsed time `up`, or the edge's window has passed. -/
def State.edgeKnown (s : State) (c up : Nat) : Bool :=
  (s.cmpc c).edges.any (sameEdge up) || (match (s.cmpc c).blankUp with | some t => sameEdge up t | none => false) ||
  decide (up + s.get (R.TW_BLK_BLANK c) * 20 < s.time.up)
/-- An edge at elapsed time `up` is sent ahead to the comparators that it blanks; edges whose windows have passed are forgotten. -/
def State.blankEdge (s : State) (kind idx : Nat) (high on : Bool) (up : Nat) : State :=
  s.forEach (fun s c =>
    if edgeBlanks (s.get (R.TW_BLK_EDGE c)) high on && !s.edgeKnown c up then
      s.setCmp c fun x => { x with edges := insertNat up (x.edges.filter fun t => decide (s.time.up ≤ t + s.get (R.TW_BLK_BLANK c) * 20)) }
    else s) (s.blankers kind idx)

/-! ## Blocks -/

/-- The bits hi to lo of a block payload. -/
def bitsOf (b : Dword) (hi lo : Nat) : Nat := b.toNat / 2 ^ lo % 2 ^ (hi + 1 - lo)
def bitOf (b : Dword) (i : Nat) : Bool := bitsOf b i i != 0

/-- One step of the CRC-8 of R114. -/
def crcStep (crc : Nat) (b : Bool) : Nat :=
  let c := crc * 2 % 256
  if (decide (128 ≤ crc)) != b then c ^^^ 0x2F else c
def crcFrom (b : Dword) : Nat → Nat → Nat
  | 0, c => c
  | n + 1, c => crcFrom b n (crcStep c (bitOf b (n + 8)))
/-- The CRC-8 over payload bits 63 down to 8 (R114). -/
def crc8 (b : Dword) : Nat := crcFrom b 56 0xFF

def tEDGE : Nat := 0x01
def tSTATE : Nat := 0x02
def tSAMPLEAT : Nat := 0x03
def tSAMPLE : Nat := 0x10
def tSTATUS : Nat := 0x11
def tRD : Nat := 0x20
def tWR : Nat := 0x21
def tRSP : Nat := 0x22
def tIDLE : Nat := 0x3E
def tTRAIN : Nat := 0x3F

/-- A block: type, leg, bits [54:8], and the CRC (R113). -/
def mkBlock (ty leg body : Nat) : Dword :=
  let p := BitVec.ofNat 64 (ty * 2 ^ 58 + leg % 8 * 2 ^ 55 + body % 2 ^ 47 * 2 ^ 8)
  p + BitVec.ofNat 64 (crc8 p)

/-- SEQ and TIME at bits [52:45] and [44:21] (R118, R119), as part of bits [54:8]. -/
def seqTime (seq time : Nat) : Nat := seq % 256 * 2 ^ 37 + time % 2 ^ 24 * 2 ^ 13

def edgeBlock (leg : Nat) (high on : Bool) (seq time : Nat) : Dword :=
  mkBlock tEDGE leg (high.toNat * 2 ^ 46 + on.toNat * 2 ^ 45 + seqTime seq time)
def stateBlock (leg op seq time arg : Nat) : Dword :=
  mkBlock tSTATE leg (op % 4 * 2 ^ 45 + seqTime seq time + arg % 4 * 2 ^ 11)
def sampleAtBlock (leg seq time : Nat) : Dword := mkBlock tSAMPLEAT leg (seqTime seq time)
/-- RD or WR (R124). -/
def requestBlock (leg tag wordAddr : Nat) (write : Bool) (data : Nat) : Dword :=
  mkBlock (if write then tWR else tRD) leg
    (tag % 32 * 2 ^ 42 + wordAddr % 1024 * 2 ^ 32 + (if write then data % 2 ^ 32 else 0))
/-- The IDLE that fills a slot with nothing else to carry (R125). -/
def fillerBlock : Dword := mkBlock tIDLE 0 0
/-- An IDLE probe (R125). -/
def probeBlock (pid : Nat) : Dword := mkBlock tIDLE 0 (2 ^ 46 + pid % 256 * 2 ^ 37)
/-- TRAIN (R126): phase, lane, slot, body of bits [42:8]. -/
def trainBlock (phase lane slot body : Nat) : Dword :=
  mkBlock tTRAIN 0 (phase % 8 * 2 ^ 44 + lane % 2 * 2 ^ 43 + slot % 256 * 2 ^ 35 + body % 2 ^ 35)

def blockType (b : Dword) : Nat := bitsOf b 63 58
def blockLeg (b : Dword) : Nat := bitsOf b 57 55

/-- A received block is valid (R115): header, CRC, and a type defined for the upward direction; TRAIN phases
5 to 7 are invalid (R126). `train` is header 1 then 0. -/
def rxValid (train : Bool) (b : Dword) : Bool :=
  crc8 b == bitsOf b 7 0 &&
  (if train then blockType b == tTRAIN && decide (bitsOf b 54 52 ≤ 4)
   else blockType b == tSAMPLE || blockType b == tSTATUS || blockType b == tRSP || blockType b == tIDLE)
/-- The CRC of a received block is right (R148 counts CRC and type failures apart). -/
def rxCrcOk (b : Dword) : Bool := crc8 b == bitsOf b 7 0

/-! ## Slots (R113, R116, R131) -/

/-- A block that waits is laid behind those of its own priority and of higher ones. -/
def insertTx (b : TxBlk) : List TxBlk → List TxBlk
  | [] => [b]
  | x :: xs => if b.prio < x.prio then b :: x :: xs else x :: insertTx b xs
/-- The first waiting block that may go on a lane, and the rest. -/
def takeTx (lane : Nat) : List TxBlk → Option (TxBlk × List TxBlk)
  | [] => none
  | b :: bs =>
    if b.lane = lane ∨ b.lane = 2 then some (b, bs)
    else match takeTx lane bs with
      | none => none
      | some (x, rest) => some (x, b :: rest)
/-- The elapsed time at which slot n begins: slots are 13.2 ns, counted from the elapsed time 0 (R116). -/
def slotUp (n : Nat) : Nat := (n * 528 + 9) / 10
/-- A block goes out in the present place: the departure of a request or probe is recorded (R129, R139). -/
def PortSt.departed (o : PortSt) (b : TxBlk) : PortSt :=
  let t := slotUp (o.place / 2)
  if blockType b.word = tRD ∨ blockType b.word = tWR then
    let k := bitsOf b.word 54 50
    { o with tags := Tab.set (fun _ => {}) o.tags k { Tab.get (fun _ => {}) o.tags k with at_ := t } }
  else if blockType b.word = tIDLE then { o with probes := o.probes ++ [(bitsOf b.word 52 45, t)] }
  else o
/-- The places before `limit` are filled in link order from the blocks that wait; an empty place carries a filler (R125). -/
def PortSt.fill (o : PortSt) (limit : Nat) : Nat → PortSt
  | 0 => o
  | n + 1 =>
    if limit ≤ o.place then o
    else match takeTx (o.place % 2) o.wait with
      | none => { o with place := o.place + 1 }.fill limit n
      | some (b, rest) => { o.departed b with place := o.place + 1, wait := rest, tx := o.tx ++ [(o.place, b.word)] }.fill limit n
/-- Slots of 13.2 ns begun before now since the elapsed time 0: the next that begins has this number. -/
def State.slotsBegun (s : State) : Nat := (s.time.up * 10 + 527) / 528
/-- The slots that have begun carry the blocks that waited for them: two places in turn take at least one block. -/
def State.txRun (s : State) (p : Nat) : State :=
  let o := s.port p
  if o.wait.isEmpty then s else s.setPort p (o.fill (2 * s.slotsBegun) (2 * o.wait.length))
/-- The port is given a block to send: it takes the first free slot of its lane that begins from now on, behind blocks of its own
priority (R131). -/
def State.send (s : State) (p : Nat) (b : TxBlk) : State :=
  let s := s.txRun p
  let o := s.port p
  s.setPort p { o with wait := insertTx b o.wait, place := if o.wait.isEmpty then max o.place (2 * s.slotsBegun) else o.place }
/-- The slot of lane l in which the port would send a block that it is given now, behind those that wait for the lane. -/
def State.laneSlot (s : State) (p l : Nat) : Nat :=
  let o := (s.txRun p).port p
  let k := if o.wait.isEmpty then max o.place (2 * s.slotsBegun) else o.place
  (k + (k + l) % 2) / 2 + (o.wait.filter fun b => b.lane == l).length
/-- The port once every block that waits now has gone out, were nothing else to come. -/
def State.drained (s : State) (p : Nat) : PortSt :=
  let o := (s.txRun p).port p
  o.fill (o.place + 2 * o.wait.length + 2) (2 * o.wait.length + 2)
def State.sendAll (s : State) (p : Nat) : List TxBlk → State
  | [] => s
  | b :: bs => (s.send p b).sendAll p bs
/-- Blocks that have not been sent are discarded but for those kept. -/
def State.dropTx (s : State) (p : Nat) (keep : TxBlk → Bool) : State :=
  let s := s.txRun p
  s.setPort p { s.port p with wait := (s.port p).wait.filter keep }

/-- Priorities of R131. -/
def prTICK : Nat := 1
def prOFF : Nat := 2
def prSET : Nat := 3
def prREQ : Nat := 4
def prIDLE : Nat := 5

/-- The self-synchronising scrambler of R113, 1 + x^39 + x^58, on one bit: its 58 bits, the latest lowest, and the bit sent. -/
def scrambleBit (st : Nat) (b : Bool) : Nat × Bool :=
  let out := (b != st.testBit 38) != st.testBit 57
  (st * 2 % 2 ^ 58 + out.toNat, out)
/-- The payload bits from bit i on, scrambled in transmission order. -/
def scrambleFrom (st : Nat) (w : Dword) (i : Nat) : Nat → Nat × Nat
  | 0 => (st, 0)
  | n + 1 =>
    let q := scrambleBit st (bitOf w i)
    let r := scrambleFrom q.1 w (i + 1) n
    (r.1, q.2.toNat * 2 ^ i + r.2)
/-- The header of a block in transmission order: 1 then 0 for TRAIN, 0 then 1 for every other (R113). -/
def headerOf (w : Dword) : Bool × Bool := if blockType w = tTRAIN then (true, false) else (false, true)
/-- The stream of a lane (R113): header and scrambled payload of each of its blocks in turn. -/
def laneStream (st : Nat) : List Dword → List ((Bool × Bool) × Nat)
  | [] => []
  | w :: ws =>
    let r := scrambleFrom st w 0 64
    (headerOf w, r.2) :: laneStream r.1 ws

def stOFF : Nat := 0
def stCLOCK : Nat := 1
def stEQ : Nat := 2
def stLAT : Nat := 3
def stREADY : Nat := 4
def stUP : Nat := 5
def stDOWN : Nat := 6
def stTEST : Nat := 7

def State.linkState (s : State) (p : Nat) : Nat := s.get (R.LINK_STAT_STATE p)
def State.linkUp (s : State) (p : Nat) : Bool := s.linkState p == stUP

/-- Units from the start of the tick in progress to now. -/
def State.sinceTick (s : State) : Nat := toUnits (s.time.now - s.time.tickStart)

end Sys2Proof.Machine
end

