-- ==== Sys2Proof/Machine/Prot.lean ====
section
/-! DEFINITION. Tagged transactions (R48 to R51, R139, R154) and leg protection (spec/06): latches, reactions, the
soft all-off sequence, trip channels, clearing and the polarity guard. -/

namespace Sys2Proof.Machine

open Sys2Proof

/-! ## Tags -/

def tagDefault (_ : Nat) : TagSt := {}
def State.tag (s : State) (p t : Nat) : TagSt := Tab.get tagDefault (s.port p).tags t
def State.setTag (s : State) (p t : Nat) (v : TagSt) : State :=
  s.setPort p { s.port p with tags := Tab.set tagDefault (s.port p).tags t v }
def State.tagBusy (s : State) (p t : Nat) : Bool := s.flag ((R.LINK_TAGS p).bit t)
def State.tagQuar (s : State) (p t : Nat) : Bool := s.flag ((R.LINK_TAGQ p).bit t)
/-- The lowest free tag (R49). -/
def State.freeTag (s : State) (p : Nat) : Option Nat :=
  (List.range 32).find? fun t => !s.tagBusy p t && !s.tagQuar p t
/-- A transaction of the port to the leg and register is outstanding (R49). -/
def State.outstanding (s : State) (p leg word : Nat) : Bool :=
  (List.range 32).any fun t => s.tagBusy p t && (s.tag p t).leg == leg && (s.tag p t).wordAddr == word
/-- A request of firmware is outstanding. -/
def State.fwOutstanding (s : State) (p : Nat) : Bool :=
  (List.range 32).any fun t => s.tagBusy p t && (s.tag p t).kind == 0

/-- A request block goes out on a tag (R124, R139). -/
def State.issueTag (s : State) (p t : Nat) (r : TagSt) (data : Nat) : State :=
  ((s.setTag p t { r with at_ := s.time.up }).put ((R.LINK_TAGS p).bit t) 1).send p
    ⟨prREQ, 2, r.leg, requestBlock r.leg t r.wordAddr r.write data⟩

/-- The value of a protection word of a leg (R153, R154). -/
def State.limitWord (s : State) (p leg word : Nat) : Nat :=
  let n := p * 8 + leg
  if word = 0x010 then s.get (R.PROT_LIM0_UVTH (n / 8) (n % 8))
  else if word = 0x011 then s.get (R.PROT_LIM0_SHUNT (n / 8) (n % 8))
  else if word = 0x012 then s.get (R.PROT_LIM1_BLANK (n / 8) (n % 8)) + s.get (R.PROT_LIM1_DFILT (n / 8) (n % 8)) * 65536
  else s.get (R.PROT_LIM2_DTHR (n / 8) (n % 8))

/-- The device's own requests of a port, in order: node latches to clear, then limits to push. -/
def State.ownRequests (s : State) (p : Nat) : List (Nat × Nat) :=
  ((s.prot.clrWait.filter (· / 8 == p)).map fun n => (n % 8, 0x014)) ++ (s.port p).push
def State.dropOwn (s : State) (p leg word : Nat) : State :=
  if word = 0x014 then { s with prot := { s.prot with clrWait := s.prot.clrWait.filter (· != p * 8 + leg) } }
  else s.setPort p { s.port p with push := (s.port p).push.filter (· != (leg, word)) }

/-- The port issues its own requests while tags are free (R154, R163). -/
def State.pump (s : State) (p : Nat) : Nat → State
  | 0 => s
  | k + 1 =>
    match s.ownRequests p, s.freeTag p with
    | (leg, word) :: _, some t =>
      if s.linkUp p && !s.outstanding p leg word then
        ((s.dropOwn p leg word).issueTag p t
          { leg, wordAddr := word, write := true, kind := if word = 0x014 then 2 else 1 }
          (if word = 0x014 then 1 else s.limitWord p leg word)).pump p k
      else s
    | _, _ => s
/-- At most 40 own requests wait: four words and one clear of each leg. -/
def pumpFuel : Nat := 40

/-! ## Tripped legs (R155, R156) -/

def State.legLatched (s : State) (n : Nat) : Bool := s.get (R.PROT_LATCH (n / 8) (n % 8)) % 256 != 0
/-- A channel's mask includes the leg (R162). -/
def State.chMasks (s : State) (x n : Nat) : Bool :=
  s.flag ((if n < 32 then R.TCH_LEGLO x else R.TCH_LEGHI x).bit (n % 32))
def State.chLatched (s : State) (x : Nat) : Bool := s.flag (R.TCH_STAT_LATCH x)
def State.latchedByChannel (s : State) (n : Nat) : Bool :=
  (List.range 8).any fun x => s.chLatched x && s.chMasks x n
def State.allOff (s : State) : Bool := s.flag R.TRIP_STAT_ALLOFF
/-- Tripped, as R156 defines it. -/
def State.tripNow (s : State) (n : Nat) : Bool := s.legLatched n || s.latchedByChannel n || s.allOff
/-- Tripped, as the registers show it. -/
def State.tripped (s : State) (n : Nat) : Bool := s.flag (R.PROT_LATCH_TRIPPED (n / 8) (n % 8))

/-- A waiting block stays when a leg's switching ends (R155): any but the leg's EDGE, SAMPLE-AT and RESUME blocks. -/
def keepsLeg (m : Nat) (b : TxBlk) : Bool :=
  b.prio != prSET || b.leg != m || (blockType b.word == tSTATE && bitsOf b.word 54 53 == 1)
/-- A leg timer that has ended all switching. -/
def LegSt.stopped (l : LegSt) : LegSt := { l with src := .off, sched := [], sw := {}, last := {}, force := 0 }
/-- A leg ends all switching: nothing stays scheduled, both switches are off, its part of the set is gone whether the port has begun to send
it or not (R155), and a force that acted ends (R104). -/
def State.legStop (s : State) (n : Nat) : State :=
  let l := s.leg n
  let s := (((s.setLeg n l.stopped).put (R.LEG_STAT_RUN n) 0).put (R.LEG_STAT_TABLE n) 0).put (R.LEG_STAT_FORCED n) 0
  let s := { s with poly := { s.poly with set := s.poly.set.filter (·.1 != n),
                                          before := Tab.set (fun _ => ({} : LegSt)) s.poly.before n (Tab.get (fun _ => ({} : LegSt)) s.poly.before n).stopped } }
  let s := if (s.port (n / 8)).wait.isEmpty then s else s.dropTx (n / 8) (keepsLeg (n % 8))
  if l.force = 0 then s else s.emit 4 n 0x026 l.force

/-- A block of the leg's RESUME waits, which the port does not send before the leg's push has completed (R154). -/
def isResume (m : Nat) (b : TxBlk) : Bool := b.prio == prSET && b.leg == m && blockType b.word == tSTATE && bitsOf b.word 54 53 == 3
/-- A push of a leg's limits starts (R154): LN_DESAT and LN_DTHR only where the node has desaturation. A leg whose RESUME still waits stays as
it was. -/
def State.startPush (s : State) (p leg : Nat) : State :=
  if s.linkUp p then
    let s := if (s.port p).wait.any (isResume leg) then s.legStop (p * 8 + leg) else s
    let o := s.port p
    let words := if o.desat.testBit leg then [0x010, 0x011, 0x012, 0x013] else [0x010, 0x011]
    ((s.setPort p { o with push := (o.push.filter (fun q => q.1 != leg)) ++ words.map (fun w => (leg, w)),
                           pushBad := if o.pushBad.testBit leg then o.pushBad - 2 ^ leg else o.pushBad }).put
      ((R.PROT_SUM_PUSHED p).bit leg) 0).pump p pumpFuel
  else s

/-- The tripped state of one leg brought up to date in every register that shows it; a release is logged (R164). -/
def State.refreshLeg (s : State) (n : Nat) : State :=
  let b := s.tripNow n
  let was := s.tripped n
  let s := ((s.putB (R.PROT_LATCH_TRIPPED (n / 8) (n % 8)) b).putB ((R.PROT_SUM_TRIPPED (n / 8)).bit (n % 8)) b).putB
    ((if n < 32 then R.TRIP_LEGS_LO else R.TRIP_LEGS_HI).bit (n % 32)) b
  if b && !was then s.legStop n
  else if was && !b then s.emit 3 n 0x045 n
  else s
def State.refreshTripped (s : State) : State := s.forEach State.refreshLeg (List.range 64)

/-! ## Reactions (R157 to R160) -/

/-- Departure of the first OFF block of a reaction after its latch, in units: free, at most 61.0 ns (R161). -/
def State.offDelay (s : State) (p : Nat) : Nat := Config.offDeparture s.fresh p % 781
def State.draw (s : State) : State := { s with fresh := s.fresh + 1 }

/-- A STATE OFF that departs `dep` units after the start of the tick in progress, with its instant `after` units
later (R157). -/
def State.sendOff (s : State) (p lane leg dep after arg : Nat) : State :=
  let q := dep / s.tickU
  s.send p ⟨prOFF, lane, leg, stateBlock leg 2 ((s.tickNo + q) % 256) (dep % s.tickU + after) arg⟩

/-- Per-leg high impedance (R157, REACT 0). -/
def State.legOffReaction (s : State) (n : Nat) : State :=
  let p := n / 8
  let s := s.legStop n
  if s.linkUp p then
    (s.sendOff p 0 (n % 8) (s.sinceTick + s.offDelay p) (s.get (R.LINK_LAT_DDOWN p) + 169) 0).draw
  else s

/-- The sixteen OFF blocks of one port in the soft all-off sequence (R159), once what it has not sent of a set is discarded; block j
departs j / 2 slots after the first. -/
def State.softPort (s : State) (p : Nat) : State :=
  if s.linkUp p then
    let d := s.sinceTick + s.offDelay p
    let t1 := d + s.get (R.LINK_LAT_DDOWN p) + 1024
    let soft := s.get R.TRIP_CTL_SOFT_T
    (s.dropTx p (fun b => b.prio != prSET)).forEach (fun s j =>
      let dep := d + j / 2 * 169
      s.sendOff p (j % 2) (j % 8) dep ((if j < 8 then t1 else t1 + soft) - dep) (if j < 8 then 1 else 0)) (List.range 16)
  else s

/-- The latest step-2 instant of the sequence, in units after its start, over the ports that are up; its start where none is (log 214). -/
def State.softEnd (s : State) : Nat :=
  ((List.range 8).map fun p =>
    if s.linkUp p then s.offDelay p + s.get (R.LINK_LAT_DDOWN p) + 1024 + s.get R.TRIP_CTL_SOFT_T else 0).foldl max 0

/-- The soft all-off sequence (R159): every leg ends switching, nothing more of a set is sent, and the tick counts
as complete. -/
def State.softAllOff (s : State) : State :=
  let s := s.forEach State.softPort (List.range 8)
  let s := (s.forEach State.legStop (List.range 64)).draw
  { s with poly := { s.poly with set := [], excused := true } }

/-- A transition to HALT is due at the next tick boundary (R69). -/
def State.haltDue (s : State) (cause : Nat) : State :=
  { s with mode := { s.mode with dueHalt := cause :: s.mode.dueHalt } }

/-- The all-off reaction (R157 to R160): `trig` is the leg timer or channel that starts it. An all-off that is
already latched stays as it is. -/
def State.startAllOff (s : State) (cause grp trig : Nat) (isCh : Bool) : State :=
  if s.allOff then s else
    let due := s.time.up + unitsToQ s.softEnd + usQ 1
    let s := ((s.put R.TRIP_STAT_ALLOFF 1).put R.TRIP_STAT_CAUSE cause).put R.TRIP_STAT_GRP grp
    let s := (s.irq .tripp 0 0).emit 19 16 0x841 (cause + grp * 16 + trig * 2 ^ 8 + isCh.toNat * 2 ^ 14)
    let s := s.softAllOff
    let s := { s with prot := { s.prot with genAt := some due } }
    (if s.switching then s.haltDue 10 else s).refreshTripped

/-- A leg counts toward R158: enabled, in the phase group, and latched by itself or by a channel. -/
def State.counts (s : State) (g n : Nat) : Bool :=
  s.flag (R.LEG_CTL_EN n) && s.get (R.PROT_CFG_PGRP (n / 8) (n % 8)) == g && (s.legLatched n || s.latchedByChannel n)
/-- Two or more legs of a phase group are latched: the all-off reaction starts (R158). -/
def State.escalate (s : State) (g trig : Nat) (isCh : Bool) : State :=
  if g < 15 ∧ 2 ≤ ((List.range 64).filter (s.counts g)).length then s.startAllOff 2 g trig isCh else s

/-- A trip cause latches for leg timer n (R155, R157, R158), with the timestamp given. -/
def State.latchLeg (s : State) (n cause t : Nat) : State :=
  let b := cause - 1
  if s.flag ((R.PROT_LATCH (n / 8) (n % 8)).bit b) then s else
    let first := !s.legLatched n
    let react := s.get (R.PROT_CFG_REACT (n / 8) (n % 8))
    let grp := s.get (R.PROT_CFG_PGRP (n / 8) (n % 8))
    let s := if first then s.put (R.PROT_LATCH_FIRST (n / 8) (n % 8)) cause else s
    let s := ((s.put ((R.PROT_LATCH (n / 8) (n % 8)).bit b) 1).irq .prot (n / 8) (n % 8)).emitAt t 3 n 0x840
      (cause + react * 16 + grp * 32)
    let s := s.refreshTripped
    let s := if react = 0 then s.legOffReaction n else s.startAllOff 1 0 n false
    s.escalate grp n false

/-! ## Clearing (R163) -/

/-- Latch bits of a leg that wait for LN_TRIPCLR, and the legs whose LN_TRIPCLR is still to be issued. -/
def State.clearing (s : State) (n : Nat) : Nat := Tab.get (fun _ => 0) s.prot.clearing n
def State.setClearing (s : State) (n v : Nat) : State :=
  { s with prot := { s.prot with clearing := Tab.set (fun _ => 0) s.prot.clearing n v } }
def State.addClrWait (s : State) (n : Nat) : State :=
  { s with prot := { s.prot with clrWait := s.prot.clrWait ++ [n] } }
def State.dropClrWait (s : State) (n : Nat) : State :=
  { s with prot := { s.prot with clrWait := s.prot.clrWait.filter (· != n) } }

/-- A node latch that cannot be cleared: CLR_REFUSED for the leg. -/
def State.legClrRefused (s : State) (n data : Nat) : State :=
  ((s.put (R.PROT_LATCH_CLR_REFUSED (n / 8) (n % 8)) 1).irq .prot (n / 8) 8).emit 3 n 0x443 data

/-- The bits of a leg latch, of those given, whose clear is refused at once. LINK_n_LEGSTATm shows the latest
STATUS, whose bits UV_H and UV_L are FLAGS bits 9 and 8. -/
def State.clrRefusedBits (s : State) (n mask : Nat) : Nat :=
  let flags := s.get (R.LINK_LEGSTAT_FLAGS (n / 8) (n % 8))
  let up := s.linkUp (n / 8)
  (if mask.testBit 0 && flags.testBit 9 then 1 else 0) + (if mask.testBit 1 && flags.testBit 8 then 2 else 0) +
  (if !up then mask / 4 % 8 * 4 else 0) + (if mask.testBit 5 && !up then 32 else 0)

/-- A W1C write to a leg latch, judged bit by bit: `mask` holds the bits written 1. The second part tells whether
any clear was refused. -/
def State.clearLatch (s : State) (n mask : Nat) : State × Bool :=
  let m := mask % 256 &&& s.get (R.PROT_LATCH (n / 8) (n % 8)) % 256
  let refused := s.clrRefusedBits n m
  let node := (m / 4 % 8 * 4) - (refused / 4 % 8 * 4)
  let now := m - refused - node
  let s := s.put ⟨(R.PROT_LATCH (n / 8) (n % 8)).addr, 7, 0⟩ (s.get (R.PROT_LATCH (n / 8) (n % 8)) % 256 - now)
  let s := if refused = 0 then s else s.legClrRefused n refused
  let s := if node = 0 then s else
    if s.flag (R.PROT_LATCH_CLR_PEND (n / 8) (n % 8)) then
      s.setClearing n (s.clearing n ||| node)
    else
      ((s.setClearing n node).addClrWait n |>.put (R.PROT_LATCH_CLR_PEND (n / 8) (n % 8)) 1).pump
        (n / 8) pumpFuel
  (s.refreshTripped, refused != 0)

/-- The end of an LN_TRIPCLR (R163). DATA[8] of CLR_REFUSED says that the node has not cleared, by its refusal or by a time-out (DESIGN CHOICE
beside R168, log 251). -/
def State.tripClrDone (s : State) (n : Nat) (good : Bool) : State :=
  let bits := s.clearing n
  let s := (s.setClearing n 0).dropClrWait n
  let s := s.put (R.PROT_LATCH_CLR_PEND (n / 8) (n % 8)) 0
  if good then
    (s.put ⟨(R.PROT_LATCH (n / 8) (n % 8)).addr, 7, 0⟩ (s.get (R.PROT_LATCH (n / 8) (n % 8)) % 256 - (s.get (R.PROT_LATCH (n / 8) (n % 8)) % 256 &&& bits))).refreshTripped
  else s.legClrRefused n (bits + 2 ^ 8)

/-- Any leg latch or channel latch is set. -/
def State.anyLatch (s : State) : Bool :=
  ((List.range 64).any s.legLatched) || ((List.range 8).any s.chLatched)

/-- Any latch of R163 is set, ALLOFF among them (R164). -/
def State.latched (s : State) : Bool := s.anyLatch || s.allOff

/-- A W1C write to a channel latch: refused while the channel is active (R163). -/
def State.clearChannel (s : State) (x : Nat) : State × Bool :=
  if s.chLatched x then
    if s.flag (R.TCH_STAT_ACTIVE x) then
      ((((s.put (R.TCH_STAT_CLR_REFUSED x) 1).put R.TRIP_STAT_CLR_REFUSED 1).irq .tripp 0 10).emit 19 (8 + x) 0x443 (2 ^ 9), true)
    else ((s.put (R.TCH_STAT_LATCH x) 0).refreshTripped, false)
  else (s, false)

/-- A W1C write to ALLOFF: refused while any leg or channel latch is set (R163). GEN_REQ stands until then (R160). -/
def State.clearAllOff (s : State) : State × Bool :=
  if s.allOff then
    if s.anyLatch then
      (((s.put R.TRIP_STAT_CLR_REFUSED 1).irq .tripp 0 10).emit 19 16 0x443 (2 ^ 10), true)
    else
      let s := (s.put R.TRIP_STAT_ALLOFF 0).put R.TRIP_STAT_GEN_REQ 0
      ({ s with prot := { s.prot with genAt := none } }.refreshTripped, false)
  else (s, false)

/-! ## Trip channels (R162) -/

/-- A comparator selected in CMPLO or CMPHI reports its trip condition. -/
def State.chCmp (s : State) (x : Nat) : Bool :=
  (List.range 48).any fun c =>
    s.flag ((if c < 32 then R.TCH_CMPLO x else R.TCH_CMPHI x).bit (c % 32)) && s.flag (R.TW_STAT_TRIPCOND c)
/-- The pin is at its active level. -/
def State.chPin (s : State) (x : Nat) : Bool := s.prot.pins.testBit x != s.flag (R.TCH_CFG_POL x)

/-- A channel latches. -/
def State.latchChannel (s : State) (x : Nat) : State :=
  let react := s.get (R.TCH_CFG_REACT x)
  let data := x + react * 8 + (s.chPin x).toNat * 16 + (s.chCmp x).toNat * 32
  let s := ((s.put (R.TCH_STAT_LATCH x) 1).irq .tripp 0 (1 + x)).emit 19 (8 + x) 0x842 data
  let masked := (List.range 64).filter (s.chMasks x)
  let s := s.refreshTripped
  let s := if react = 0 then s.forEach State.legOffReaction masked else s.startAllOff 3 0 x true
  s.forEach (fun s g => s.escalate g x true)
    ((List.range 15).filter fun g => masked.any fun n => s.flag (R.LEG_CTL_EN n) && s.get (R.PROT_CFG_PGRP (n / 8) (n % 8)) == g)

/-- A channel's activity brought up to date; an enabled channel that is active latches, one that is active when EN is written 1 as well
(DESIGN CHOICE beside R162, log 250). -/
def State.evalChannel (s : State) (x : Nat) : State :=
  let active := s.chPin x || s.chCmp x
  let s := (s.putB (R.TCH_STAT_PIN x) (s.prot.pins.testBit x)).putB (R.TCH_STAT_ACTIVE x) active
  if active && s.flag (R.TCH_CFG_EN x) && !s.chLatched x then s.latchChannel x else s
def State.evalChannels (s : State) : State := s.forEach State.evalChannel (List.range 8)

/-! ## The polarity guard (R166) -/

/-- Window state of the guard's comparator: 0 inside, 1 below, 2 above, in the coding of PG_STAT.WIN. -/
def State.pgWin (s : State) : Nat := s.get (R.TW_STAT_WIN (s.get R.TRIP_PG_CFG_CMP))
def State.pgLatched (s : State) : Bool := s.flag R.TRIP_PG_STAT_LOW || s.flag R.TRIP_PG_STAT_HIGH

/-- A W1C write to LOW or HIGH: refused while the comparator is outside (R166). -/
def State.clearPg (s : State) (mask : Nat) : State × Bool :=
  let m := mask % 8 / 2 * 2 &&& s.get R.TRIP_PG_STAT
  if m = 0 then (s, false)
  else if s.pgWin = 0 then (s.put ⟨R.TRIP_PG_STAT.addr, 2, 1⟩ ((s.get R.TRIP_PG_STAT % 8 - m) / 2), false)
  else (((s.put R.TRIP_PG_STAT_CLR_REFUSED 1).irq .tripp 0 10).emit 19 17 0x443 (2 ^ 11), true)

end Sys2Proof.Machine
end

