-- ==== Sys2Proof/Machine/Num.lean ====
section
/-! DEFINITION. The numbers of Vertex (R241 to R248): element words, exact values, the pack rule and the
functions defined on exact values. -/

namespace Sys2Proof.Machine

/-- An exact dyadic value n × 2^x. -/
structure Dy where
  n : Int
  x : Int
deriving DecidableEq, Repr

def Dy.zero : Dy := ⟨0, 0⟩
/-- The integer n of v written as n × 2^x, for x at most v.x. -/
def Dy.at (v : Dy) (x : Int) : Int := v.n * 2 ^ (v.x - x).toNat
def Dy.add (a b : Dy) : Dy := let x := min a.x b.x; ⟨a.at x + b.at x, x⟩
def Dy.neg (a : Dy) : Dy := ⟨-a.n, a.x⟩
def Dy.sub (a b : Dy) : Dy := a.add b.neg
def Dy.mul (a b : Dy) : Dy := ⟨a.n * b.n, a.x + b.x⟩
def Dy.abs (a : Dy) : Dy := ⟨a.n.natAbs, a.x⟩
def Dy.scale (a : Dy) (k : Int) : Dy := ⟨a.n, a.x + k⟩
def Dy.le (a b : Dy) : Bool := let x := min a.x b.x; decide (a.at x ≤ b.at x)
def Dy.lt (a b : Dy) : Bool := !b.le a
def Dy.max (a b : Dy) : Dy := if a.le b then b else a
def Dy.min (a b : Dy) : Dy := if a.le b then a else b
/-- floor(v). -/
def Dy.floor (v : Dy) : Int := if 0 ≤ v.x then v.n * 2 ^ v.x.toNat else v.n / 2 ^ (-v.x).toNat

/-- An exact result: a dyadic value, a quotient n / d × 2^x, or √(n × 2^x). -/
inductive Exact where
  | dy (v : Dy)
  | quot (n : Int) (d : Nat) (x : Int)
  | root (n : Nat) (x : Int)
deriving DecidableEq, Repr

/-- Integer square root: the largest r with r² ≤ n, by the bits of r from i − 1 down. -/
def isqrtFrom (n : Nat) : Nat → Nat → Nat
  | 0, r => r
  | i + 1, r => isqrtFrom n i (if (r + 2 ^ i) * (r + 2 ^ i) ≤ n then r + 2 ^ i else r)
def isqrt (n : Nat) : Nat := isqrtFrom n 288 0

/-- floor(n / d × 2^k + 1/2). -/
def roundQuot (n : Int) (d : Nat) (k : Int) : Int :=
  if 0 ≤ k then (2 * n * 2 ^ k.toNat + d) / (2 * d)
  else (2 * n + d * 2 ^ (-k).toNat) / (2 * (d * 2 ^ (-k).toNat))
/-- floor(y × 2^k + 1/2), the rounding of R243. -/
def Exact.round (y : Exact) (k : Int) : Int :=
  match y with
  | .dy v => roundQuot v.n 1 (v.x + k)
  | .quot n d x => roundQuot n d (x + k)
  | .root n x =>
    let j := x + 2 * k
    let r := if 0 ≤ j then isqrt (4 * n * 2 ^ j.toNat) else isqrt (4 * n / 2 ^ (-j).toNat)
    ((r + 1) / 2 : Nat)

/-- The mantissa of y at exponent e. -/
def Exact.mant (y : Exact) (e : Int) : Int := y.round (23 - e)
def mantFits (m : Int) : Bool := decide (-8388608 ≤ m) && decide (m ≤ 8388607)
def mantSat (m : Int) : Int := max (-8388608) (min 8388607 m)

/-- The smallest exponent from e on, among k candidates, at which every mantissa fits; else the last. -/
def leastExp (ys : List Exact) : Nat → Int → Int
  | 0, e => e
  | k + 1, e => if ys.all (fun y => mantFits (y.mant e)) then e else leastExp ys k (e + 1)

/-- The index of the first element that a predicate holds of. -/
def firstIdx {α : Type} (p : α → Bool) : List α → Nat → Option Nat
  | [], _ => none
  | a :: as, i => if p a then some i else firstIdx p as (i + 1)

/-- The pack rule (R243), or the pack at a fixed exponent (R244): mantissas, exponent, and the lowest
element that saturated. -/
def pack (ys : List Exact) (fixed : Option Int) : List Int × Int × Option Nat :=
  let e := match fixed with
    | some e => e
    | none => leastExp ys 255 (-128)
  (ys.map (fun y => mantSat (y.mant e)), e, firstIdx (fun y => !mantFits (y.mant e)) ys 0)

/-- The element word of a mantissa and an exponent (R241). -/
def elemWord (m e : Int) : Nat := (m % 16777216).toNat * 256 + (e % 256).toNat
def zeroElem : Nat := 0x80
/-- A two's-complement number of w bits. -/
def signed (w v : Nat) : Int := if v % 2 ^ w < 2 ^ (w - 1) then (v % 2 ^ w : Nat) else (v % 2 ^ w : Nat) - (2 ^ w : Int)
def elemMant (w : Nat) : Int := signed 24 (w / 256)
def elemExp (w : Nat) : Int := signed 8 w
/-- The value of an element word (R241). -/
def elemVal (w : Nat) : Dy := ⟨elemMant w, elemExp w - 23⟩
/-- The element word of one exact value. -/
def pack1 (y : Exact) : Nat :=
  match pack [y] none with
  | (m :: _, e, _) => elemWord m e
  | _ => zeroElem
def packInt (n : Int) : Nat := pack1 (.dy ⟨n, 0⟩)

/-- sin of a fixed-point angle by its series: x has weight 2^-100, `t` is the current term. -/
def sinSeries (x2 : Int) : Nat → Int → Int → Int → Int
  | 0, _, _, acc => acc
  | k + 1, n, t, acc => sinSeries x2 k (n + 2) (-(t * x2 / 2 ^ 100) / ((n + 1) * (n + 2))) (acc + t)
/-- π with weight 2^-100. -/
def piFix : Int := 3982441812995697363688351113952
/-- The table entry T[k] of R247 for the sine. -/
def sinTable (k : Nat) : Int :=
  let j : Int := k % 65536
  let x := (if j < 32768 then j else j - 65536) * piFix / 32768
  (sinSeries (x * x / 2 ^ 100) 36 1 x 0 + 2 ^ 77) / 2 ^ 78
/-- SIN or COS of a value in turns (R247). -/
def sinTurns (cos : Bool) (v : Dy) : Exact :=
  let k := (((v.scale 16).floor % 65536).toNat + (if cos then 16384 else 0)) % 65536
  .dy ⟨sinTable k, -22⟩

/-- SQRT with its saturation (R247). -/
def sqrtOf (v : Dy) : Exact × Bool := if v.n < 0 then (.dy Dy.zero, true) else (.root v.n.toNat v.x, false)
/-- RCP with its saturation (R247). -/
def rcpOf (v : Dy) : Exact × Bool :=
  if v.n = 0 then (.dy ⟨8388607, 104⟩, true)
  else (.quot (if v.n < 0 then -1 else 1) v.n.natAbs (-v.x), false)
/-- The duty of STO and its saturation (R248). -/
def dutyOf (v : Dy) : Int × Bool :=
  let d := (Exact.dy v).round 24
  (max (-33554432) (min 33554431 d), decide (d < -33554432) || decide (33554431 < d))

end Sys2Proof.Machine
end

