-- ==== Sys2Proof/Machine/Vertex.lean ====
section
/-! DEFINITION. Vertex (spec/10): registers, memories, the instruction fields and their issue, program start and
end, faults, the input stage, coefficient writes and the supervisor. -/

namespace Sys2Proof.Machine

open Sys2Proof

/-! ## Registers and memories (R249, R252) -/

def stageDefault (_ : Nat) : Stage := ⟨List.replicate 64 0, -128, 64⟩
def accuDefault (_ : Nat) : Accu := ⟨List.replicate 64 0, -256⟩
def zeroAt (_ : Nat) : Nat := 0
def zeroIntAt (_ : Nat) : Int := 0
def zeroElemAt (_ : Nat) : Nat := zeroElem

def State.setCe (s : State) (f : CeSt → CeSt) : State := { s with ce := f s.ce }
def State.stage (s : State) (r : Nat) : Stage := Tab.get stageDefault s.ce.stages r
def State.setStage (s : State) (r : Nat) (v : Stage) : State :=
  s.setCe fun c => { c with stages := Tab.set stageDefault c.stages r v }
def State.accu (s : State) (r : Nat) : Accu := Tab.get accuDefault s.ce.accs r
def State.setAccu (s : State) (r : Nat) (v : Accu) : State :=
  s.setCe fun c => { c with accs := Tab.set accuDefault c.accs r v }
def State.vmask (s : State) (r : Nat) : Nat := Tab.get zeroAt s.ce.masks r
def State.setVmask (s : State) (r v : Nat) : State :=
  s.setCe fun c => { c with masks := Tab.set zeroAt c.masks r v }
def State.areg (s : State) (r : Nat) : Nat := Tab.get zeroAt s.ce.ars r
def State.setAreg (s : State) (r v : Nat) : State :=
  s.setCe fun c => { c with ars := Tab.set zeroAt c.ars r (v % 65536) }
/-- The element word at a data address. -/
def State.ceWord (s : State) (a : Nat) : Nat := Tab.get zeroElemAt s.ce.data (a % 65536)
/-- A data word written, which ends any bit error in it. -/
def State.setCeWord (s : State) (a w : Nat) : State :=
  s.setCe fun c => { c with data := Tab.set zeroElemAt c.data (a % 65536) w,
                            err1 := c.err1.filter (· != a % 65536), err2 := c.err2.filter (· != a % 65536) }
/-- The element word that CE_DREAD shows (R248, R252, R267): an output slot packed, a reserved word as zero. -/
def State.ceShown (s : State) (a : Nat) : Nat :=
  if 0x300 ≤ a % 65536 ∧ a % 65536 < 0x380 then pack1 (.dy ⟨Tab.get zeroIntAt s.ce.slots (a % 65536 - 0x300), -24⟩)
  else if 0x1C0 ≤ a % 65536 ∧ a % 65536 < 0x200 then zeroElem
  else s.ceWord a
/-- A word of data memory written by the host: an output slot is written by STO alone, and a reserved word stays zero (R252). -/
def State.hostData (s : State) (a w : Nat) : State :=
  if (0x300 ≤ a % 65536 ∧ a % 65536 < 0x380) ∨ (0x1C0 ≤ a % 65536 ∧ a % 65536 < 0x200) then s else s.setCeWord a w
def State.ceCoef (s : State) (a : Nat) : Nat := Tab.get zeroElemAt s.ce.coef a
def State.ceProg (s : State) (a : Nat) : Nat := Tab.get zeroAt s.ce.prog a
/-- A coefficient written, which ends any bit error in it. -/
def State.setCoef (s : State) (a w : Nat) : State :=
  (s.memMend 6 a).setCe fun c => { c with coef := Tab.set zeroElemAt c.coef a w }
/-- An instruction written, which ends any bit error in it. -/
def State.setProg (s : State) (a w : Nat) : State :=
  (s.memMend 4 a).setCe fun c => { c with prog := Tab.set zeroAt c.prog a w }
/-- Address of an offset in the active bank. -/
def State.progAddr (s : State) (off : Nat) : Nat := s.get R.CE_PROG_BANK * 8192 + off % 8192
/-- The elements 0 to n − 1 of a stage. -/
def State.stageVals (s : State) (r n : Nat) : List Dy :=
  let v := s.stage r
  (List.range n).map fun i => ⟨v.m.getD i 0, v.e - 23⟩

/-! ## Instructions (R250, R251) -/

/-- The fields of an instruction. -/
structure Ins where
  op : Nat
  d : Nat
  a : Nat
  b : Nat
  n : Nat
  msel : Nat
  men : Bool
  fx : Bool
  exp : Nat
  areg : Nat
  am : Nat
  rsv : Nat
  addr : Nat
deriving DecidableEq, Repr

def insBits (w hi lo : Nat) : Nat := w / 2 ^ lo % 2 ^ (hi + 1 - lo)
def Ins.of (w : Nat) : Ins :=
  { op := insBits w 63 58, d := insBits w 57 54, a := insBits w 53 50, b := insBits w 49 46,
    n := insBits w 45 40 + 1, msel := insBits w 39 38, men := insBits w 37 37 == 1, fx := insBits w 36 36 == 1,
    exp := insBits w 35 28, areg := insBits w 27 25, am := insBits w 24 23, rsv := insBits w 22 16,
    addr := insBits w 15 0 }

/-- Opcodes of the table of R251. -/
def opLegal (op : Nat) : Bool := decide (op ≤ 0x1E) || (decide (0x20 ≤ op) && decide (op ≤ 0x23))
/-- Instructions whose address is formed by AM. -/
def opMem (op : Nat) : Bool := [0x02, 0x03, 0x04, 0x05, 0x06, 0x0B, 0x11, 0x16, 0x17].contains op
/-- Instructions that write a stage. -/
def opStage (op : Nat) : Bool :=
  [0x02, 0x03, 0x08, 0x09, 0x0A, 0x0B, 0x0C, 0x0D, 0x0E, 0x0F, 0x10, 0x11, 0x12, 0x13, 0x18, 0x1B, 0x1C, 0x1D,
    0x1E].contains op
/-- Instructions that read a stage named by A. -/
def opA (op : Nat) : Bool :=
  [0x04, 0x05].contains op || (decide (0x08 ≤ op) && decide (op ≤ 0x17)) || (decide (0x19 ≤ op) && decide (op ≤ 0x1E))
/-- Instructions that read a stage named by B. -/
def opB (op : Nat) : Bool := [0x08, 0x09, 0x0A, 0x0C, 0x0D, 0x12, 0x14, 0x15, 0x19, 0x1A].contains op
def opSlow (op : Nat) : Bool := decide (0x1B ≤ op) && decide (op ≤ 0x1E)
def opAccu (op : Nat) : Bool := decide (0x14 ≤ op) && decide (op ≤ 0x17)

/-- Fault code 4 (R250, R251, R259): an opcode outside the table, AM 0b11, a reserved field not 0, an illegal FX,
or a register field out of range. -/
def Ins.illegal (i : Ins) : Bool :=
  !opLegal i.op || i.rsv != 0 || (opMem i.op && i.am == 3) || (i.fx && (!opStage i.op || i.op == 0x10)) ||
  ((opAccu i.op || i.op == 0x19 || i.op == 0x1A) && decide (3 < i.d)) ||
  ((i.op == 0x18 || i.op == 0x21 || i.op == 0x22) && decide (3 < i.a)) ||
  ((i.op == 0x06 || i.op == 0x07) && decide (7 < i.d))

/-- Issue clocks (R251). -/
def Ins.issue (i : Ins) : Nat :=
  let c := (i.n + 15) / 16
  if opSlow i.op then 4 * c
  else if i.op == 0x13 then c + 2
  else if i.op == 0x20 || i.op == 0x21 || i.op == 0x22 then 2
  else if i.op ≤ 0x01 || i.op == 0x06 || i.op == 0x07 || i.op == 0x23 then 1
  else c

/-- Keys of the scoreboard: stages 0 to 15, accumulators 16 to 19, masks 20 to 23, address registers 24 to 31, and
32 and 33 for the Locus and Slope slots of the tick. -/
def Ins.reads (i : Ins) : List Nat :=
  (if opMem i.op && i.am != 0 then [24 + i.areg] else []) ++ (if opA i.op then [i.a] else []) ++
  (if opB i.op then [i.b] else []) ++ (if i.op == 0x15 || i.op == 0x17 then [16 + i.d] else []) ++
  (if i.op == 0x18 then [16 + i.a] else []) ++ (if i.op == 0x21 || i.op == 0x22 then [20 + i.a] else []) ++
  (if i.op == 0x12 || (i.men && opStage i.op) then [20 + i.msel] else [])
def Ins.writes (i : Ins) : List Nat :=
  (if opStage i.op then [i.d] else if opAccu i.op then [16 + i.d]
   else if i.op == 0x19 || i.op == 0x1A then [20 + i.d]
   else if i.op == 0x06 || i.op == 0x07 then [24 + i.d] else []) ++
  (if opMem i.op && i.am == 2 then [24 + i.areg] else [])

/-- The address that AM forms (R250). -/
def State.vAddr (s : State) (i : Ins) : Nat := if i.am = 0 then i.addr else (s.areg i.areg + i.addr) % 65536
def locusSlot (a : Nat) : Bool := decide (0x170 ≤ a % 65536) && decide (a % 65536 < 0x1B0)
def slopeSlot (a : Nat) : Bool := decide (0x150 ≤ a % 65536) && decide (a % 65536 < 0x170)
/-- Whether a load reads a slot that waits for its write in the tick (R173, R220, R256). -/
def State.vLoads (s : State) (i : Ins) (slot : Nat → Bool) : Bool :=
  (i.op == 0x06 && slot (s.vAddr i)) ||
  (i.op == 0x02 && (List.range i.n).any fun k => slot (s.vAddr i + k))
def State.vReady (s : State) (k : Nat) : Nat := Tab.get zeroAt s.ce.ready k
/-- The clock at which an instruction issues (R251). -/
def State.vStart (s : State) (i : Ins) : Nat :=
  ((i.reads ++ i.writes ++ (if s.vLoads i locusSlot then [32] else []) ++
    (if s.vLoads i slopeSlot then [33] else [])).map s.vReady).foldl max s.ce.clk
/-- TIME clocks of the Compute phase (R59). -/
def State.vSpan (s : State) : Nat := if s.fine then 1800 else 3600

/-- What an instruction does to the state: completes with the lowest element that saturated and the target of
a taken jump, or faults with a code of R259. -/
inductive VOut where
  | ok (s : State) (sat : Option Nat) (jump : Option Nat)
  | fault (s : State) (code : Nat)

/-- A Vertex fault at clock t (R259). -/
def State.vFault (s : State) (t code : Nat) : State :=
  let pc := s.ce.pc
  let bank := s.get R.CE_PROG_BANK
  let s := s.setCe fun c => { c with running := false, faulted := true }
  let s := (((((s.put R.CE_STAT_FAULT 1).put R.CE_STAT_FCODE code).put R.CE_STAT_DONE 0).put R.CE_STAT_BUSY 0).put
    R.CE_FAULTPC_BANK bank).put R.CE_FAULTPC_PC pc
  (s.emitAt (s.ce.t0 + t * 5) 6 63 0x880 (code + pc * 2 ^ 4 + bank * 2 ^ 17 + s.tickNo % 2 ^ 22 * 2 ^ 18)).irq .ce 0 0

/-- An instruction saturated at clock t (R243 to R248, R271). -/
def State.vSat (s : State) (t pc : Nat) : Option Nat → State
  | none => s
  | some e =>
    let first := !s.flag R.CE_STAT_SAT
    let s := ((s.bumpSat R.CE_SATCNT).put R.CE_STAT_SAT 1).irq .ce 0 2
    if first then s.emitAt (s.ce.t0 + t * 5) 6 (e % 16) 0x484 (pc + s.get R.CE_PROG_BANK * 2 ^ 13 + e * 2 ^ 14) else s

/-- The next program counter and loop stack after an instruction that took no jump (R251). -/
def loopNext (pc : Nat) : List LoopEnt → Nat × List LoopEnt
  | [] => ((pc + 1) % 8192, [])
  | l :: ls =>
    if l.last = pc then
      if 1 < l.left then (l.first, { l with left := l.left - 1 } :: ls) else loopNext pc ls
    else ((pc + 1) % 8192, l :: ls)
/-- The loop stack after a taken jump (R251). -/
def loopLeave (target : Nat) : List LoopEnt → List LoopEnt
  | [] => []
  | l :: ls => if l.first ≤ target ∧ target ≤ l.last then l :: ls else loopLeave target ls

/-- The end of an instruction that issued at clock t: post-increment of AREG, clocks at which its results can be
used, and the next program counter. -/
def State.vNext (s : State) (i : Ins) (t : Nat) (jump : Option Nat) : State :=
  let s := if opMem i.op && i.am == 2 then s.setAreg i.areg (s.areg i.areg + i.n) else s
  let r := t + i.issue - 1 + (if opSlow i.op then 12 else 4)
  let ready := i.writes.foldl (fun tab k => Tab.set zeroAt tab k r) s.ce.ready
  let pl := match jump with
    | some a => (a, loopLeave a s.ce.loops)
    | none => if i.op == 0x23 then ((s.ce.pc + 1) % 8192, s.ce.loops) else loopNext s.ce.pc s.ce.loops
  s.setCe fun c => { c with ready, clk := t + i.issue, pc := pl.1, loops := pl.2 }

/-- Whether the running program holds the word at its counter. -/
def State.vFetches (s : State) (w : Dword) : Bool :=
  s.ce.running && s.ceProg (s.progAddr s.ce.pc) == w.toNat

/-- The Gnomon time of the program's next clock. -/
def State.vNow (s : State) : Nat := s.ce.t0 + s.ce.clk * 5
/-- An instruction issues (R256, R257): nothing if Compute ends first, fault 1 if its word holds a double-bit error (R19), fault 4 if it is
illegal, else what `act` does from its issue clock. -/
def State.vIssue (s : State) (i : Ins) (act : Nat → State → State) : State :=
  let a := s.progAddr s.ce.pc
  if s.vSpan ≤ s.ce.clk then s
  else if s.wrongBits 4 a = 2 then (s.memReadAt s.vNow 4 a).vFault s.ce.clk 1
  else
    let s := s.memReadAt s.vNow 4 a
    if i.illegal then s.vFault s.ce.clk 4
    else if s.vSpan < s.vStart i + i.issue then s
    else act (s.vStart i) s

/-- An instruction with opcode `op` that the program holds at its counter. -/
def State.vStep (s : State) (op : Nat) (w : Dword) (body : Ins → State → VOut) : State :=
  let i := Ins.of w.toNat
  if s.vFetches w && i.op == op then
    s.vIssue i fun t s =>
      match body i s with
      | .fault s code => s.vFault t code
      | .ok s' sat jump => (s'.vSat t s.ce.pc sat).vNext i t jump
  else s

/-! ## Operands -/

/-- A data word is read at Gnomon time t (R19): one wrong bit is corrected and written back, two are found, and either is logged. The second
part tells of two. -/
def State.ceCheck (s : State) (t a : Nat) : State × Bool :=
  if s.ce.err2.contains a then (s.emitAt t 6 63 0xBC9 (5 + a * 16), true)
  else if s.ce.err1.contains a then
    ((s.setCe fun c => { c with err1 := c.err1.filter (· != a) }).emitAt t 6 63 0x3C8 (5 + a * 16), false)
  else (s, false)
/-- A data word read by the program (R19, R248, R252). -/
def State.ceLoad (s : State) (a : Nat) : State × Except Nat Dy :=
  let a := a % 65536
  if 0x3A0 ≤ a ∧ a < 0x400 then (s, .error 6)
  else
    let v := if 0x300 ≤ a ∧ a < 0x380 then ⟨Tab.get zeroIntAt s.ce.slots (a - 0x300), -24⟩
      else if 0x1C0 ≤ a ∧ a < 0x200 then elemVal zeroElem else elemVal (s.ceWord a)
    let q := s.ceCheck s.vNow a
    (q.1, if q.2 then .error 2 else .ok v)
/-- A data word read beside the program, by the supervisor, the result copy, Locus or Slope: two wrong bits raise a Vertex fault (R19). -/
def State.ceSeen (s : State) (a : Nat) : State :=
  let q := s.ceCheck s.time.now a
  if q.2 && !q.1.ce.faulted then q.1.vFault ((s.time.now - s.ce.t0) / 5) 2 else q.1
/-- The words of data memory that a reader takes, named by their addresses. -/
def State.ceSees (s : State) (reads : Nat → Bool) : State := s.forEach State.ceSeen ((s.ce.err1 ++ s.ce.err2).filter reads)
def State.ceLoads (s : State) (a : Nat) : Nat → State × Except Nat (List Dy)
  | 0 => (s, .ok [])
  | n + 1 =>
    match s.ceLoad a with
    | (s, .error c) => (s, .error c)
    | (s, .ok v) =>
      match s.ceLoads (a + 1) n with
      | (s, .error c) => (s, .error c)
      | (s, .ok vs) => (s, .ok (v :: vs))
/-- n coefficients from a on read by the program (R19, R259): fault code 5 above 0x1FFF, and 3 for a double-bit error. -/
def State.coefFetch (s : State) (a n : Nat) : State × Option Nat :=
  if 0x2000 < a + n then (s, some 5)
  else
    let bad := (List.range n).any fun k => s.wrongBits 6 (a + k) == 2
    (s.forEach (fun t k => t.memReadAt s.vNow 6 (a + k)) (List.range n), if bad then some 3 else none)
/-- An instruction that reads n coefficients at the address that AM forms. -/
def vWithCoef (n : Nat) (f : Ins → State → VOut) (i : Ins) (s : State) : VOut :=
  match s.coefFetch (s.vAddr i) n with
  | (s, some c) => .fault s c
  | (s, none) => f i s
/-- A coefficient's value. -/
def State.coefVal (s : State) (a : Nat) : Dy := elemVal (s.ceCoef a)

/-- The lower of two saturating elements. -/
def satMin (a b : Option Nat) : Option Nat :=
  match a, b with
  | none, b => b
  | a, none => a
  | some x, some y => some (min x y)

/-- A result packed into stage D, with the mask (R249) and the fixed exponent (R244). `useMen` is false for SEL. -/
def State.packStage (s : State) (i : Ins) (useMen : Bool) (ys : List Exact) (pre : Option Nat) : VOut :=
  let old := s.stageVals i.d ys.length
  let ys := if i.men && useMen then
      (List.range ys.length).map fun k =>
        if (s.vmask i.msel).testBit k then ys.getD k (.dy Dy.zero) else .dy (old.getD k Dy.zero)
    else ys
  match pack ys (if i.fx then some (signed 8 i.exp) else none) with
  | (ms, e, sat) =>
    .ok (s.setStage i.d ⟨ms ++ List.replicate (64 - ms.length) 0, e, ms.length⟩) (satMin pre sat) none

/-- A stage result of one operand, element by element, with elements that saturate by their function. -/
def vUnary (f : Dy → Exact × Bool) (i : Ins) (s : State) : VOut :=
  let rs := (s.stageVals i.a i.n).map f
  s.packStage i true (rs.map (·.1)) (firstIdx (·.2) rs 0)
def vMap (f : Dy → Dy) (i : Ins) (s : State) : VOut := vUnary (fun v => (.dy (f v), false)) i s
/-- A stage result of two operands. -/
def vBinary (f : Dy → Dy → Dy) (i : Ins) (s : State) : VOut :=
  s.packStage i true (List.zipWith (fun a b => .dy (f a b)) (s.stageVals i.a i.n) (s.stageVals i.b i.n)) none
/-- A stage result of one operand and one coefficient. -/
def vCoefOp (f : Dy → Dy → Dy) : Ins → State → VOut :=
  vWithCoef 1 fun i s => vMap (fun v => f v (s.coefVal (s.vAddr i))) i s

/-- A mask result of a comparison (R251). -/
def vCompare (f : Dy → Dy → Bool) (i : Ins) (s : State) : VOut :=
  let bs := List.zipWith f (s.stageVals i.a i.n) (s.stageVals i.b i.n)
  .ok (s.setVmask i.d (bs.foldr (fun b acc => b.toNat + 2 * acc) 0)) none none

/-! ## Accumulators (R246) -/

def accFits (t : Int) : Bool := decide (-(2 : Int) ^ 63 ≤ t) && decide (t < (2 : Int) ^ 63)
def accSat (t : Int) : Int := satI 64 t
def shiftDown (t : Int) (k : Int) : Int := t / 2 ^ k.toNat
/-- The accumulator after a start with the products p at exponent ep. -/
def Accu.start (ps : List Int) (ep : Int) : Accu := ⟨ps ++ List.replicate (64 - ps.length) 0, ep⟩
/-- The exact sums of an add, before saturation. -/
def Accu.sums (a : Accu) (ps : List Int) (ep : Int) : List Int :=
  (List.range 64).map fun k =>
    if ep ≤ a.e then a.t.getD k 0 + shiftDown (ps.getD k 0) (a.e - ep)
    else shiftDown (a.t.getD k 0) (ep - a.e) + ps.getD k 0
def Accu.add (a : Accu) (ps : List Int) (ep : Int) : Accu × Option Nat :=
  let ts := a.sums ps ep
  (⟨ts.map accSat, max a.e ep⟩, firstIdx (fun t => !accFits t) ts 0)

/-- Products of stage A with the multipliers given, at the exponent given. -/
def State.products (s : State) (i : Ins) (mb : Nat → Int) (eb : Int) : List Int × Int :=
  let a := s.stage i.a
  ((List.range i.n).map fun k => a.m.getD k 0 * mb k, a.e + eb)
def State.accStart (s : State) (i : Ins) (p : List Int × Int) : VOut := .ok (s.setAccu i.d (Accu.start p.1 p.2)) none none
def State.accAdd (s : State) (i : Ins) (p : List Int × Int) : VOut :=
  let r := (s.accu i.d).add p.1 p.2
  .ok (s.setAccu i.d r.1) r.2 none
/-- Accumulation of S[A] × S[B]. -/
def vMacB (f : State → Ins → List Int × Int → VOut) (i : Ins) (s : State) : VOut :=
  let b := s.stage i.b
  f s i (s.products i (fun k => b.m.getD k 0) b.e)
/-- Accumulation of S[A] × one coefficient. -/
def vMacC (f : State → Ins → List Int × Int → VOut) : Ins → State → VOut :=
  vWithCoef 1 fun i s => f s i (s.products i (fun _ => elemMant (s.ceCoef (s.vAddr i))) (elemExp (s.ceCoef (s.vAddr i))))

/-! ## The instructions of R251 -/

def vBodyNop (_ : Ins) (s : State) : VOut := .ok s none none
def vBodyLd (i : Ins) (s : State) : VOut :=
  match s.ceLoads (s.vAddr i) i.n with
  | (s, .error c) => .fault s c
  | (s, .ok vs) => s.packStage i true (vs.map .dy) none
def vBodyLdc (i : Ins) : State → VOut :=
  vWithCoef i.n (fun i s => s.packStage i true ((List.range i.n).map fun k => .dy (s.coefVal (s.vAddr i + k))) none) i
/-- Words that the program may write with ST (R252, R259). -/
def stAllowed (a : Nat) : Bool := !(decide (a % 65536 < 0x380) || (decide (0x3A0 ≤ a % 65536) && decide (a % 65536 < 0x400)))
def State.storeElem (s : State) (a w : Nat) : State :=
  let s := s.setCeWord a w
  if 0x380 ≤ a % 65536 ∧ a % 65536 < 0x3A0 then
    s.setCe fun c => { c with predNew := (c.predNew.filter (· != a % 65536 - 0x380)) ++ [a % 65536 - 0x380] }
  else s
def vBodySt (i : Ins) (s : State) : VOut :=
  let a := s.vAddr i
  let v := s.stage i.a
  if (List.range i.n).all fun k => stAllowed (a + k) then
    .ok (s.forEach (fun s k => s.storeElem (a + k) (elemWord (v.m.getD k 0) v.e)) (List.range i.n)) none none
  else .fault s 6
/-- An output slot written, which ends any bit error in its word. -/
def State.storeSlot (s : State) (k : Nat) (d : Int) : State :=
  s.setCe fun c => { c with slots := Tab.set zeroIntAt c.slots k d, slotNew := k :: c.slotNew.filter (· != k),
                            err1 := c.err1.filter (· != 0x300 + k), err2 := c.err2.filter (· != 0x300 + k) }
def vBodySto (i : Ins) (s : State) : VOut :=
  let a := s.vAddr i
  let ds := (s.stageVals i.a i.n).map dutyOf
  if a + i.n ≤ 128 then
    .ok (s.forEach (fun s k => s.storeSlot (a + k) (ds.getD k (0, false)).1) (List.range i.n))
      (firstIdx (·.2) ds 0) none
  else .fault s 6
def vBodyLda (i : Ins) (s : State) : VOut :=
  match s.ceLoad (s.vAddr i) with
  | (s, .error c) => .fault s c
  | (s, .ok v) => .ok (s.setAreg i.d (v.floor % 65536).toNat) none none
def vBodySeta (i : Ins) (s : State) : VOut := .ok (s.setAreg i.d i.addr) none none
def vBodyClamp : Ins → State → VOut :=
  vWithCoef 2 fun i s => vMap (fun v => Dy.max (s.coefVal (s.vAddr i)) (Dy.min (s.coefVal (s.vAddr i + 1)) v)) i s
def vBodySel (i : Ins) (s : State) : VOut :=
  let va := s.stageVals i.a i.n
  let vb := s.stageVals i.b i.n
  s.packStage i false ((List.range i.n).map fun k =>
    .dy (if (s.vmask i.msel).testBit k then va.getD k Dy.zero else vb.getD k Dy.zero)) none
def vBodyRsum (i : Ins) (s : State) : VOut :=
  s.packStage i true [.dy ((s.stageVals i.a i.n).foldl Dy.add Dy.zero)] none
def vBodyAcc (i : Ins) (s : State) : VOut :=
  let a := s.accu i.a
  s.packStage i true ((List.range i.n).map fun k => .dy ⟨a.t.getD k 0, a.e - 46⟩) none
/-- A jump to ADDR, if taken; fault code 5 unless ADDR[15:13] is 0. -/
def vJump (taken : Bool) (i : Ins) (s : State) : VOut :=
  if i.addr < 8192 then .ok s none (if taken then some i.addr else none) else .fault s 5
/-- Whether any bit 0 to N − 1 of M[A] is 1. -/
def State.vAny (s : State) (i : Ins) : Bool := s.vmask i.a % 2 ^ i.n != 0
def vBodyLoop (i : Ins) (s : State) : VOut :=
  if 8192 ≤ i.addr then .fault s 5
  else if 4 ≤ s.ce.loops.length then .fault s 7
  else .ok (s.setCe fun c => { c with loops := ⟨(c.pc + 1) % 8192, i.addr, i.exp + 1⟩ :: c.loops }) none none

/-! ## The program in the tick (R256 to R260) -/

/-- END at clock t (R258): output and prediction slots of the tick are committed. -/
def State.vEndProgram (s : State) (t : Nat) : State :=
  let s := s.setCe fun c =>
    { c with running := false, ended := true,
             duty := c.slotNew.foldl (fun tab k => Tab.set zeroIntAt tab k (Tab.get zeroIntAt c.slots k)) c.duty,
             pred := c.predNew.foldl (fun tab k => Tab.set zeroElemAt tab k (Tab.get zeroElemAt c.data (0x380 + k))) c.pred,
             predNow := c.predNew }
  let used := satN 16 (t + 1)
  (((s.put R.CE_STAT_BUSY 0).put R.CE_STAT_DONE 1).put R.CE_TIME_USED used).put R.CE_TIME_MAX
    (max (s.get R.CE_TIME_MAX) used)

/-- The entry offset of the active bank. -/
def State.vEntry (s : State) : Nat :=
  if s.get R.CE_PROG_BANK = 0 then s.get R.CE_ENTRY_ENTRY0 else s.get R.CE_ENTRY_ENTRY1
/-- A supervisor channel with reaction 0b10 is latched (R265). -/
def State.supHolds (s : State) : Bool :=
  (List.range 32).any fun c => s.flag (R.CE_SUP_FLT.bit c) && s.get (R.SUPCH_CFG_REACT c) == 2

/-- The tick program starts at the Compute start (R59, R256), or faults with code 8 or 9 at its entry (R259). The
Locus slots of the tick are written at clock `lclk`, the Slope slots at `sclk`. -/
def State.vStartProgram (s : State) (lclk sclk : Nat) : State :=
  if s.flag R.CE_CTL_RUN && !s.ce.faulted then
    let s := s.setCe fun c =>
      { c with t0 := s.time.tickStart + (if s.fine then 6000 else 12000), pc := s.vEntry, clk := 0, loops := [],
               ready := Tab.set zeroAt (Tab.set zeroAt [] 32 lclk) 33 sclk, slotNew := [], predNew := [] }
    if s.supHolds then s.vFault 0 8
    else if s.ce.injFault then (s.setCe fun c => { c with injFault := false }).vFault 0 9
    else (s.setCe fun c => { c with running := true }).put R.CE_STAT_BUSY 1
  else s

/-- The program is abandoned at the last clock of Compute (R257). -/
def State.vAbandon (s : State) : State :=
  if s.ce.running then
    (((s.setCe fun c => { c with running := false }).put R.CE_STAT_BUSY 0).put R.CE_STAT_DONE 0 |>.put
      R.CE_STAT_UNFIN 1).irq .ce 0 1
  else s

/-- RUN is written 0: no tick program runs (R260). -/
def State.vHalt (s : State) : State :=
  if s.ce.running then ((s.setCe fun c => { c with running := false }).put R.CE_STAT_BUSY 0).put R.CE_STAT_DONE 0 else s

/-- Vertex's part of R63 (R260). -/
def State.vComplete (s : State) : Bool := (s.ce.ended && !s.ce.faulted) || (!s.flag R.CE_CTL_RUN && !s.switching)

/-- At the start of Issue the results are copied to the host buffer unless HOLD is 1 (R258, R269). -/
def State.vPublish (s : State) : State :=
  if s.ce.ended && !s.flag R.CE_RES_CTL_HOLD && !s.ce.published then
    let s := s.ceSees fun a => decide (0x400 ≤ a) && decide (a < 0x500)
    if s.ce.faulted then s else
    ((s.forEach (fun s k => s.put (R.CE_RES k) (s.ceWord (0x400 + k))) (List.range 256)).put R.CE_RES_TICK_TICK
      s.tickNo).setCe fun c => { c with published := true }
  else s

/-! ## The input stage (R252 to R254) -/

/-- A value for an input word: written at once before the freeze, held for the next tick after it. -/
def State.inputWord (s : State) (a w : Nat) : State :=
  if s.ce.frozen then s.setCe fun c => { c with held := c.held ++ [(a, w)] } else s.setCeWord a w
def legInDefault (_ : Nat) : LegIn := {}
def State.legIn (s : State) (n : Nat) : LegIn := Tab.get legInDefault s.ce.legIn n
/-- The three sample words of leg timer n with its record (R253). -/
def State.inputLeg (s : State) (n : Nat) (v0 v1 v2 : Int) (l : LegIn) : State :=
  let s := ((s.inputWord (3 * n) (packInt v0)).inputWord (3 * n + 1) (packInt v1)).inputWord (3 * n + 2) (packInt v2)
  if s.ce.frozen then s.setCe fun c => { c with heldLegs := c.heldLegs ++ [(n, { l with late := !l.pred })] }
  else s.setCe fun c => { c with legIn := Tab.set legInDefault c.legIn n l }

/-- The flag word of leg timer n (R253). -/
def State.legFlags (s : State) (n : Nat) : Nat :=
  let l := s.legIn n
  l.valid.toNat + 2 * l.late.toNat + 4 * l.pred.toNat + 8 * l.held.toNat +
  16 * s.get (R.PROT_LATCH_TRIPPED (n / 8) (n % 8)) + 32 * s.get (R.LEG_STAT_TABLE n) +
  64 * s.get (R.LEG_STAT_FORCED n) + 128 * s.get (R.LEG_CTL_EN n)

/-- The MODE word (R254). -/
def State.modeWord (s : State) : Nat :=
  s.majorMode + 8 * s.fine.toNat + 16 * s.curtail.toNat + 32 * s.nightvar.toNat + 64 * s.testActive.toNat +
  128 * s.legacyActive.toNat + 256 * s.ce.firstBank.toNat + 512 * s.ce.firstRun.toNat + 1024 * s.ce.firstMode.toNat

/-- The tripped-leg mask of R156: leg timers j to j + k − 1. -/
def State.tripMask (s : State) (j k : Nat) : Nat :=
  (s.get R.TRIP_LEGS_LO + s.get R.TRIP_LEGS_HI * 2 ^ 32) / 2 ^ j % 2 ^ k

/-- The tick words (R254). -/
def State.tickWords (s : State) : State :=
  ((((((s.setCeWord 0x1B0 (packInt (s.tickNo % 2 ^ 23))).setCeWord 0x1B1 (packInt s.modeWord)).setCeWord 0x1B2
    (packInt (s.tripMask 0 24))).setCeWord 0x1B3 (packInt (s.tripMask 24 24))).setCeWord 0x1B4
    (packInt (s.tripMask 48 16))).setCeWord 0x1B5 (packInt (s.get R.SYS_TICK_OVR_CONSEC))).setCeWord 0x1B6
    (pack1 (.quot (if s.fine then 5 else 10) 1000000 0))

/-- The setpoint swap (R22). -/
def State.setpointSwap (s : State) : State :=
  s.forEach (fun s k => s.setCeWord (0x200 + k) (s.reg (R.CE_SET k).addr).toNat) (List.range 256)

/-- Queued coefficient writes are applied in write order (R262). -/
def State.coefApply (s : State) : State :=
  if s.ce.coefQ.isEmpty then s else
    (((s.ce.coefQ.foldl (fun s q => s.setCoef q.1 q.2) s).setCe fun c => { c with coefQ := [] }).put
      R.CE_CSTAT_QCOUNT 0).put R.CE_CSTAT_LAST s.tickNo

/-- A requested bank swap (R261). -/
def State.bankSwap (s : State) : State :=
  if s.flag R.CE_PROG_PEND then
    let s := (s.put R.CE_PROG_PEND 0).put R.CE_PROG_BANK (1 - s.get R.CE_PROG_BANK)
    let s := s.setCe fun c => { c with firstBank := true }
    (s.emit 6 63 0x082 (s.get R.CE_PROG_BANK + s.vEntry * 2)).irq .ce 0 4
  else s

/-- Vertex at a tick start: the tick that ends has reached END or not, and nothing of it runs on (R256, R267); swap, queued writes, bank, held
samples, tick words. -/
def State.vTickStart (s : State) : State :=
  let s := s.vAbandon.putB R.CE_STAT_DONE s.ce.ended
  let s := ((s.setCe fun c =>
    { c with frozen := false, computing := false, ended := false, faulted := false, published := false,
             predLast := c.predNow, predNow := [],
             legIn := c.heldLegs.foldl (fun tab q => Tab.set legInDefault tab q.1 q.2) [], heldLegs := [] }).setpointSwap).coefApply
  let held := s.ce.held
  let s := s.setCe fun c => { c with held := [] }
  let s := held.foldl (fun s q => s.setCeWord q.1 q.2) s
  let s := s.bankSwap.tickWords
  s.setCe fun c => { c with firstBank := false, firstRun := false, firstMode := false }

/-! ## Supervision (R264, R265) -/

/-- The residual of a channel. -/
def State.supResid (s : State) (c : Nat) : Dy :=
  ((elemVal (s.ceWord (s.get (R.SUPCH_CFG_MEAS c)))).sub (elemVal (Tab.get zeroElemAt s.ce.pred c))).abs
/-- Whether a channel is judged in this tick. -/
def State.supJudged (s : State) (c : Nat) : Bool :=
  let m := s.get (R.SUPCH_CFG_MEAS c)
  s.ce.predLast.contains c &&
  !(decide (m < 0xC0) && (!(s.legIn (m / 3)).valid || (s.legIn (m / 3)).pred))

/-- A channel latches and reacts (R265). -/
def State.supFault (s : State) (c : Nat) : State :=
  let r := s.get (R.SUPCH_CFG_REACT c)
  let s := s.put (R.CE_SUP_FLT.bit c) 1
  let s := s.emit 6 63 0x881 (c + r * 2 ^ 5 + s.get (R.SUPCH_RESID c) / 65536 * 2 ^ 7)
  let s := if r = 0 then s else s.irq .cesup 0 0
  if r = 3 then s.setCe fun x => { x with supGd := true } else s

def State.supChannel (s : State) (c : Nat) : State :=
  if s.flag (R.SUPCH_CFG_EN c) then
    if s.supJudged c then
      let s := s.ceSeen (s.get (R.SUPCH_CFG_MEAS c))
      let r := s.supResid c
      let exceeds := Dy.lt ⟨s.get (R.SUPCH_BAND c), -16⟩ r
      let count := if exceeds then min (s.get (R.SUPCH_STAT_COUNT c) + 1) 255 else 0
      let s := (((s.put (R.SUPCH_STAT_SKIP c) 0).putB (R.SUPCH_STAT_OVER c) exceeds).put (R.SUPCH_STAT_COUNT c) count).put
        (R.SUPCH_RESID c) (satN 32 ((r.scale 16).floor).toNat)
      if exceeds && decide (s.get (R.SUPCH_CFG_PERSIST c) ≤ count) && !s.flag (R.CE_SUP_FLT.bit c) then s.supFault c else s
    else s.put (R.SUPCH_STAT_SKIP c) 1
  else s

/-- The supervisor's judgement at the end of Sense. -/
def State.supJudge (s : State) : State :=
  if s.flag R.CE_SUP_CTL_EN then s.forEach State.supChannel (List.range 32) else s

/-- The input stage freezes at the end of Sense (R59): leg flag words are packed and the supervisor judges. -/
def State.vFreeze (s : State) : State :=
  if s.ce.frozen then s else
    let s := s.forEach (fun s n => s.setCeWord (0xC0 + n) (packInt (s.legFlags n))) (List.range 64)
    (s.supJudge).setCe fun c => { c with frozen := true }

end Sys2Proof.Machine
end

