-- ==== Sys2Proof/Machine/Adc.lean ====
section
/-! DEFINITION. The SAR converters (R272 to R287): correction and codes, the tick sequence, background and triggered
conversions, results and records, calibration and the rotating spare. A raw code N is an input of the conversion. -/

namespace Sys2Proof.Machine

open Sys2Proof

def State.setAdc (s : State) (f : AdcSt → AdcSt) : State := { s with adc := f s.adc }

/-! ## Codes (R275, R276) -/

/-- The raw code of a voltage at a converter in microvolts, its own errors included: 0 V to VREF, 2.5 V, in 65536 steps, and the nearest
end outside (R273, R275). -/
def rawCode (uv : Rat) : Nat := (max 0 (min 65535 (uv * 65536 / 2500000).floor)).toNat
/-- The voltage at the converter, in microvolts, of an internal channel through its divider (R274): `q` is the departure of a reference
from its nominal, a temperature in millionths of a degree, and otherwise the quantity in microvolts. -/
def internalUv (i : Nat) (q : Int) : Rat :=
  if i = 0 then 125000 + q else if i = 1 then 1250000 + q else if i = 2 then 2375000 + q
  else if i = 4 ∨ i = 5 ∨ i = 6 then 500000 + (q : Rat) * 2 / 1000
  else if i = 8 ∨ i = 9 ∨ i = 11 then (q : Rat) / 2
  else if i = 12 then (q : Rat) / 8 else q
/-- Nc of a raw code under given coefficients, and CLIP. -/
def correct (gain : Nat) (offs : Int) (raw : Nat) : Nat × Bool :=
  let x : Int := ((raw : Int) - 32768) * 16 - offs
  let nc := (x * gain + 2 ^ 18) / 2 ^ 19 + 32768
  if nc < 0 then (0, true) else if 65535 < nc then (65535, true) else (nc.toNat, false)
/-- The same under the coefficients of a physical converter. -/
def State.corrected (s : State) (conv raw : Nat) : Nat × Bool :=
  correct (s.get (R.ADC_ROT_CAL_GAIN conv)) (s.getI (R.ADC_ROT_CAL_OFFS conv)) raw
/-- The signed code of Nc: ZERO or MID. -/
def signedCode (zero : Bool) (nc : Nat) : Int := if zero then ((nc / 2 : Nat) : Int) else (nc : Int) - 32768

/-- The converter that serves a position (R284, R286). -/
def State.serves (s : State) (pos : Nat) : Option Nat :=
  if s.get R.ADC_ROT_STAT_SPAREPOS = pos then some 8
  else if s.flag (R.ADC_ROT_STAT_RETIRED.bit pos) then none
  else some pos

def noSlot (_ : Nat) : Nat := 0
/-- The entry of a slot as read at the tick start (R277). -/
def State.slotEntry (s : State) (k : Nat) : Nat := Tab.get noSlot s.adc.seq k
def slotField (e hi lo : Nat) : Nat := e / 2 ^ lo % 2 ^ (hi + 1 - lo)
def slotBit (e b : Nat) : Bool := e.testBit b

/-- Position of a slot. -/
def slotPos (k : Nat) : Nat := if k < 128 then k / 16 else (k - 128) / 8
def slotIsZero (s : State) (e : Nat) : Bool := slotBit e 6 || s.flag (R.ADC_IN_MODE (slotField e 5 0))
def slotWord (e : Nat) : Nat := (if slotBit e 6 then 0x140 else 0x100) + slotField e 5 0

/-- The raw code that a slot of a position converts: under SUBST the AIN slots of SUBPOS convert REF_MID in place of their balls (R296). -/
def State.slotRaw (s : State) (pos e : Nat) (q : Int) : Nat :=
  if slotBit e 6 then rawCode (internalUv (slotField e 5 0) q)
  else if s.flag R.ADC_TEST_SUBST && s.get R.ADC_TEST_SUBPOS == pos then rawCode (internalUv 1 0)
  else rawCode q

/-- The slot is converted: enabled, calibration done, converters on, a converter in its position. -/
def State.adcRuns (s : State) : Bool := s.alive && s.time.run && s.flag R.ADC_CTL_EN && s.flag R.ADC_STAT_CALDONE

/-! ## Results (R276, R279, R281, R282) -/

/-- A 16-bit value placed in a result register. -/
def resWord (e : Nat) (v : Int) : Nat :=
  if slotBit e 19 then (v % 2 ^ 16).toNat * 2 ^ 16
  else if slotBit e 18 then (v % 2 ^ 32).toNat else (v % 2 ^ 16).toNat

/-- OVR of a slot: the first one set is logged, and every missed trigger (R280, R281). -/
def State.slotOvr (s : State) (k conv : Nat) (missed : Bool) : State :=
  let any := (List.range 6).any fun w => s.get (R.ADC_OVR w) != 0
  let s := (s.put ((R.ADC_OVR (k / 32)).bit (k % 32)) 1).irq .adc 0 0
  if any && !missed then s else s.emit 9 conv 0x494 (k + missed.toNat * 2 ^ 8)
def noCode (_ : Nat) : Int × Nat := (0, 0)
/-- The signed code of a slot's last result, and its elapsed time. -/
def State.slotCode (s : State) (k : Nat) : Int := (Tab.get noCode s.adc.codes k).1
def State.slotCodeUp (s : State) (k : Nat) : Nat := (Tab.get noCode s.adc.codes k).2
def State.noteCode (s : State) (k : Nat) (v : Int) : State :=
  s.setAdc fun d => { d with codes := Tab.set noCode d.codes k (v, s.time.up) }
/-- A new result of a slot. -/
def State.slotFresh (s : State) (k conv : Nat) (v : Nat) : State :=
  let s := s.put (R.ADC_RES k) v
  let f := (R.ADC_FRESH (k / 32)).bit (k % 32)
  (if s.flag f then s.slotOvr k conv false else s).put f 1

/-- The record of a result (R282): sample instant t in units of 0.25 ns, which SEQ names the tick of. -/
def State.slotRecord (s : State) (e k conv t : Nat) (d1 d2 : Int) (pair late clip trig : Bool) : State :=
  let ring := slotField e 23 20
  if ring < 12 then
    let stamp := t + Config.adcStamp s.fresh % 25 - 12
    let seq := s.tickNo + 256 - (decide (t < s.time.tickStart)).toNat
    let entry := (d1 % 2 ^ 16).toNat + (d2 % 2 ^ 16).toNat * 2 ^ 16 + k * 2 ^ 32 + seq % 256 * 2 ^ 40 + conv * 2 ^ 48 +
      pair.toNat * 2 ^ 52 + late.toNat * 2 ^ 53 + clip.toNat * 2 ^ 54 + trig.toNat * 2 ^ 55 + stampOf stamp * 2 ^ 64
    s.draw.ringPush ring entry
  else s

/-- Sample instant of tick slot j of position c in the tick in progress (R277). -/
def State.sampleAt (s : State) (c j : Nat) : Nat :=
  s.time.tickStart + 75 + Config.adcEdge s.tickNo % 26 + j * 400 + 150 + (if s.legacyActive then c * 50 else 0)

/-- A tick slot is late: its result is held for the next tick (R278). -/
def State.slotLate (s : State) (k conv : Nat) : State :=
  ((((s.put ((R.ADC_LATE (k / 32)).bit (k % 32)) 1).bumpSat R.ADC_STAT_LATE).irq .adc 0 1)).emit 9 conv 0x496
    (k + s.tickNo % 256 * 2 ^ 8)

def rCALSPARE : Nat := 1
def rSHADOWIN : Nat := 2
def rCALOUT : Nat := 3
def rSHADOWOUT : Nat := 4
def State.rotPhase (s : State) : Nat := s.get R.ADC_ROT_STAT_PHASE
def State.rotPos (s : State) : Nat := s.get R.ADC_ROT_STAT_POS
/-- The ticks of a shadow step (R284, R296). -/
def State.shadowTicks (s : State) : Nat := 16 * s.get R.ADC_ROT_CFG_SHADOW
/-- Nc of the converter that shadows the rotation's position: SAR8, or SARc with its pending coefficients (R284). -/
def State.shadowCode (s : State) (raw : Nat) : Nat :=
  if s.rotPhase = rSHADOWOUT then
    (correct (s.adc.pend.getD (0, 0)).1 (signed 16 (s.adc.pend.getD (0, 0)).2) raw).1
  else (s.corrected 8 raw).1
/-- A shadow step compares the two converters of position c on one conversion: `served` is Nc of the converter in service. -/
def State.shadowPair (s : State) (c served raw : Nat) : State :=
  match s.adc.shadow with
  | some q =>
    if s.rotPos = c ∧ 1 ≤ q.1 ∧ q.1 ≤ s.shadowTicks then
      s.setAdc fun d => { d with shadow := some (q.1, q.2.1 + ((s.shadowCode raw : Int) - served), q.2.2 + 1) }
    else s
  | none => s

/-- The result of tick slot k, with the inputs of its converter, of the partner and of a converter that shadows (R278, R279, R284). -/
def State.tickResult (s : State) (k : Nat) (q q2 q3 : Int) : State :=
  let e := s.slotEntry k
  let c := slotPos k
  match s.serves c with
  | none => s
  | some conv =>
    let partner := s.serves (c + 1)
    let pair := slotBit e 30 && c % 2 == 0 && !s.legacyActive && partner.isSome
    let n1 := s.corrected conv (s.slotRaw c e q)
    let n2 := s.corrected (partner.getD conv) (s.slotRaw c e q2)
    let s := s.shadowPair c n1.1 (s.slotRaw c e q3)
    let zero := slotIsZero s e
    let a := signedCode zero n1.1
    let b := signedCode zero n2.1
    let word := if pair then (a + b + 1) / 2 else a
    let nc : Int := if pair then ((n1.1 + n2.1 + 1) / 2 : Nat) else n1.1
    let t := s.sampleAt c (k % 16)
    let late := s.ce.frozen
    let s := (s.advTo (t + 250 + (if pair then 200 else 0))).inputWord (slotWord e) (packInt word)
    let s := s.setAdc fun d => { d with words := slotWord e :: d.words }
    let s := (s.slotFresh k conv (resWord e (if slotBit e 18 then word else nc))).noteCode k word
    let d1 : Int := if slotBit e 18 then a else n1.1
    let d2 : Int := if pair then (if slotBit e 18 then b else n2.1) else 0
    let s := s.slotRecord e k conv t d1 d2 pair late (n1.2 || (pair && n2.2)) false
    if late then s.slotLate k conv else s

/-- TICK_SLOT_RESULT (R278). -/
def execTickSlotResult (slot : Fin 128) (q partner shadow : Int) (s : State) : Host.Outcome State Fault Refusal :=
  .next (if s.adcRuns && slotBit (s.slotEntry slot) 31 then s.tickResult slot q partner shadow else s)

/-! ## Background (R280) -/

/-- The time of a conversion after its sample instant: 62.5 ns (R276). -/
def convQ : Nat := 250
/-- A background result, at the end of its conversion. One with VX stands back from a tick slot's result of the same channel for the same input stage (R280). -/
def State.bgResult (s : State) (k conv : Nat) (q : Int) (trig : Bool) : State :=
  let e := s.slotEntry k
  let n := s.corrected conv (s.slotRaw (slotPos k) e q)
  let v := signedCode (slotIsZero s e) n.1
  let d : Int := if slotBit e 18 then v else n.1
  let s := if slotBit e 29 && !s.adc.words.contains (slotWord e) then s.inputWord (slotWord e) (packInt v) else s
  ((s.slotFresh k conv (resWord e d)).noteCode k v).slotRecord e k conv (s.time.now - convQ) d 0 false false n.2 trig

def bgSlots (pos : Nat) : List Nat := (List.range 8).map fun b => 128 + 8 * pos + b
/-- The triggered slot that is due. -/
def State.bgTriggered (s : State) (pos : Nat) : Option Nat :=
  (bgSlots pos).find? fun k => s.adc.trig.contains k && slotBit (s.slotEntry k) 31 && slotBit (s.slotEntry k) 28
/-- The next slot in round-robin order. -/
def State.bgNext (s : State) (pos : Nat) : Option Nat :=
  let b := Tab.get noSlot s.adc.rr pos
  let order := (List.range 8).map fun i => 128 + 8 * pos + (b + i) % 8
  order.find? fun k => slotBit (s.slotEntry k) 31 && !slotBit (s.slotEntry k) 28

/-- A trigger line pulses: slots that wait for it become due; a second pulse is lost. -/
def State.adcTrigger (s : State) (line : Nat) : State :=
  s.forEach (fun s k =>
    let e := s.slotEntry k
    if slotBit e 31 && slotBit e 28 && slotField e 27 24 == line then
      if s.adc.trig.contains k then s.slotOvr k ((s.serves (slotPos k)).getD (slotPos k)) true
      else s.setAdc fun d => { d with trig := d.trig ++ [k] }
    else s) ((List.range 64).map (128 + ·))

/-! ## Calibration (R285) -/

/-- One calibration: coefficients, MIDERR, and whether it passes; `bias` is added to each mean. -/
structure CalOut where
  gain : Nat
  offs : Int
  mid : Int
  pass : Bool

def State.calMean (s : State) (sum : Nat) : Nat := (32 * sum + 2 ^ s.get R.ADC_ROT_CFG_CALN) / 2 ^ (s.get R.ADC_ROT_CFG_CALN + 1)
def State.calibrate (s : State) (lo hi mid bias : Nat) : CalOut :=
  let aL : Int := s.calMean lo + bias
  let aH : Int := s.calMean hi + bias
  let aM : Int := s.calMean mid + bias
  let d := aH - aL
  let gain : Int := if d = 0 then Config.calGain else Int.fdiv (2 ^ 16 * 9437184 + 10 * d) (20 * d)
  let offs := (aL + aH - 2 * 524288 + 1) / 2
  let m := (2 * (aM - 524288 - offs) * gain + 2 ^ 15) / 2 ^ 16
  { gain := gain.toNat, offs, mid := m,
    pass := decide (0x7333 ≤ gain) && decide (gain ≤ 0x8CCD) && decide (offs.natAbs ≤ 16384) && decide (m.natAbs ≤ 128) }

/-- Coefficients of a converter after a calibration that passed, and MIDERR. -/
def State.setCal (s : State) (conv : Nat) (c : CalOut) : State :=
  (s.putCfg (R.ADC_ROT_CAL_GAIN conv) c.gain).putCfg (R.ADC_ROT_CAL_OFFS conv) (c.offs % 2 ^ 16).toNat
def State.setMid (s : State) (conv : Nat) (c : CalOut) : State := s.putI (R.ADC_ROT_CHK_MIDERR conv) c.mid

/-- A converter leaves service at start-up (R283, R286). -/
def State.startupRetire (s : State) (conv : Nat) : State :=
  let s := (s.irq .rot 0 2).emit 9 conv 0x892 (conv + 16)
  if conv = 8 then s.put R.ADC_ROT_STAT_SPAREOUT 1
  else
    let s := s.put (R.ADC_ROT_STAT_RETIRED.bit conv) 1
    if s.get R.ADC_ROT_STAT_SPAREPOS = 15 ∧ s.flag R.ADC_ROT_STAT_SPAREOUT = false then s.put R.ADC_ROT_STAT_SPAREPOS conv
    else (s.irq .rot 0 3).emit 9 conv 0x893 conv

/-- The start-up calibration: the readings (sum of REF_LO, REF_HI, REF_MID) of SAR0 to SAR8 in order. SAR8 is judged
first, since it may have to stand in. -/
def State.startupCal (s : State) (sums : List (Nat × Nat × Nat)) : State :=
  let outs := sums.map fun q => s.calibrate q.1 q.2.1 q.2.2 0
  let pairs := (List.range 9).zip outs
  let s := pairs.foldl (fun s q => (if q.2.pass then s.setCal q.1 q.2 else s).setMid q.1 q.2) s
  let failed := (pairs.filter fun q => !q.2.pass).map (·.1)
  let s := if failed.contains 8 then s.startupRetire 8 else s
  let s := s.forEach State.startupRetire (failed.filter (· != 8))
  let s := if failed.isEmpty then s else s.put R.ADC_ROT_STAT_PHASE 6
  (s.put R.ADC_STAT_CALDONE 1).irq .adc 0 2

/-- ADC_STARTUP_CAL (R283). -/
def execAdcStartupCal (sums : List (Nat × Nat × Nat)) (s : State) : Host.Outcome State Fault Refusal :=
  .next (if s.alive && !s.flag R.ADC_STAT_CALDONE && sums.length == 9 then s.startupCal sums else s)

/-! ## The rotation (R284, R286) -/

def rIDLE : Nat := 0
def rWAIT : Nat := 5
def rSTOPPED : Nat := 6
def State.rotEnabled (s : State) : Bool := s.flag R.ADC_ROT_CTL_EN && s.flag R.ADC_CTL_EN
/-- The modes in which the rotation runs. -/
def State.rotMode (s : State) : Bool :=
  s.alive && s.time.run && decide (mSTANDBY ≤ s.majorMode) && s.flag R.ADC_STAT_CALDONE

/-- A failure of a calibration or shadow step. `m` is the mean of the step. -/
def State.rotFail (s : State) (outPhase calFailed : Bool) : State :=
  let c := s.rotPos
  let conv := if outPhase then c else 8
  let s := s.setAdc fun d => { d with shadow := none }
  if s.adc.fails = 0 then
    let s := s.setAdc fun d => { d with fails := 1 }
    ((s.put R.ADC_ROT_STAT_PHASE (if outPhase then rCALOUT else rCALSPARE)).irq .rot 0 1).emit 9 conv 0x491
      (c + outPhase.toNat * 8 + calFailed.toNat * 16 + s.get R.ADC_ROT_MEAN_M * 2 ^ 5)
  else
    let s := s.setAdc fun d => { d with fails := 0, pend := none }
    let s := if outPhase then s.put (R.ADC_ROT_STAT_RETIRED.bit c) 1 else s.put R.ADC_ROT_STAT_SPAREOUT 1
    ((s.put R.ADC_ROT_STAT_PHASE rSTOPPED).irq .rot 0 2).emit 9 conv 0x892 (conv + calFailed.toNat * 16)

/-- ROT_CALIBRATION_DONE (R285): the sums of the three references. -/
def execRotCalibrationDone (lo hi mid : Nat) (s : State) : Host.Outcome State Fault Refusal :=
  .next (
    let ph := s.rotPhase
    if s.rotMode && ph == rCALSPARE then
      let c := s.calibrate lo hi mid (if s.adc.calErr then 1024 else 0)
      let s := (s.setAdc fun d => { d with calErr := false }).setMid 8 c
      if c.pass then (s.setCal 8 c).put R.ADC_ROT_STAT_PHASE rSHADOWIN else s.rotFail false true
    else if s.rotMode && ph == rCALOUT && s.adc.swap == 0 then
      let c := s.calibrate lo hi mid 0
      let s := s.setMid s.rotPos c
      if c.pass then
        (s.setAdc fun d => { d with pend := some (c.gain, (c.offs % 2 ^ 16).toNat) }).put R.ADC_ROT_STAT_PHASE rSHADOWOUT
      else s.rotFail true true
    else s)

/-- The rotation's position has an enabled tick slot. -/
def State.posConverts (s : State) (c : Nat) : Bool := (List.range 16).any fun j => slotBit (s.slotEntry (16 * c + j)) 31
/-- The differences that a shadow step has found, and their number: of the tick slots, or of REF_MID in background time, with the
departures of both converters from its nominal (R284). -/
def State.shadowSum (s : State) (mids : List (Int × Int)) : Int × Nat :=
  if s.posConverts s.rotPos then ((s.adc.shadow.map (·.2.1)).getD 0, (s.adc.shadow.map (·.2.2)).getD 0)
  else
    let served := fun (q : Int) => (s.corrected ((s.serves s.rotPos).getD s.rotPos) (rawCode (internalUv 1 q))).1
    ((mids.map fun q => (s.shadowCode (rawCode (internalUv 1 q.1)) : Int) - served q.2).foldl (· + ·) 0, mids.length)
/-- A shadow step whose differences have sum d over n pairs is judged: m is 16 d / n in units of 1/16 LSB (R286). -/
def State.shadowJudge (s : State) (d : Int) (n : Nat) : State :=
  let out := s.rotPhase == rSHADOWOUT
  let s := s.putI R.ADC_ROT_MEAN_M (satI 16 ((32 * d + n) / (2 * n)))
  if s.get R.ADC_ROT_CFG_MISM * n < d.natAbs then s.rotFail out false
  else s.setAdc fun a => { a with fails := 0, swap := if out then 2 else 1, shadow := none }
/-- ROT_SHADOW_DONE (R286): the last of the SHADOW ticks is in progress. A step that passes has its swap at the next tick start. -/
def execRotShadowDone (mids : List (Int × Int)) (s : State) : Host.Outcome State Fault Refusal :=
  .next (
    if s.rotMode && (s.rotPhase == rSHADOWIN || s.rotPhase == rSHADOWOUT) && s.adc.swap == 0 &&
        decide (s.shadowTicks ≤ (s.adc.shadow.map (·.1)).getD 0) && (s.shadowSum mids).2 != 0 then
      s.shadowJudge (s.shadowSum mids).1 (s.shadowSum mids).2
    else s)

/-- The end of WAIT: the next position. -/
def State.rotAdvance (s : State) : State :=
  (s.put R.ADC_ROT_STAT_POS ((s.rotPos + 1) % 8)).put R.ADC_ROT_STAT_PHASE rCALSPARE

/-- ROT_DWELL_END (R284). -/
def execRotDwellEnd (s : State) : Host.Outcome State Fault Refusal :=
  .next (if s.rotMode && s.rotPhase == rWAIT && s.rotEnabled then
    (s.advUp (s.adc.waitUp + s.get R.ADC_ROT_CTL_DWELL * secQ)).rotAdvance
  else s)

/-- ADC_TEST.STEP ends WAIT at once; ADC_TEST.CALERR biases the next calibration of SAR8 (R296). -/
def State.rotStepTest (s : State) : State := if s.rotPhase = rWAIT ∧ s.rotEnabled = true then s.rotAdvance else s
def State.rotCalErr (s : State) : State := s.setAdc fun d => { d with calErr := true }

/-- The spare can take part in a rotation. -/
def State.spareFree (s : State) : Bool := !s.flag R.ADC_ROT_STAT_SPAREOUT && s.get R.ADC_ROT_STAT_SPAREPOS == 15
/-- A write of 1 to ADC_ROT_CTL.EN after a stop (R296). -/
def State.rotRestart (s : State) : State :=
  if s.rotPhase = rSTOPPED ∧ s.spareFree = true then s.rotAdvance else s

/-- The swap that is due at a tick start: the position moves to the spare, or back with its new coefficients. -/
def State.rotSwap (s : State) : State :=
  let c := s.rotPos
  if s.adc.swap = 1 then
      ((s.put R.ADC_ROT_STAT_SPAREPOS c).put R.ADC_ROT_STAT_PHASE rCALOUT).setAdc fun d => { d with swap := 0 }
    else if s.adc.swap = 2 then
      let q := s.adc.pend.getD (0, 0)
      let s := ((s.putCfg (R.ADC_ROT_CAL_GAIN c) q.1).putCfg (R.ADC_ROT_CAL_OFFS c) q.2).put R.ADC_ROT_STAT_SPAREPOS 15
      let s := ((s.bumpSat R.ADC_ROT_STEPS).put R.ADC_ROT_STAT_PHASE rWAIT).irq .rot 0 0
      let s := s.setAdc fun d => { d with swap := 0, pend := none, waitUp := s.time.up }
      s.emit 9 c 0x090 (c + q.1 * 8 + q.2 * 2 ^ 19)
    else s
/-- The rotation starts or stops at a tick start. -/
def State.rotStart (s : State) : State :=
  let ph := s.rotPhase
  if s.rotEnabled then
      if ph = rIDLE ∧ s.spareFree = true then s.put R.ADC_ROT_STAT_PHASE rCALSPARE else s
    else if ph = rCALSPARE ∨ (ph = rSHADOWIN ∧ s.adc.swap = 0) ∨ ph = rWAIT then s.put R.ADC_ROT_STAT_PHASE rSTOPPED
    else s
/-- The ticks of a shadow phase are counted. -/
def State.rotCount (s : State) : State :=
  s.setAdc fun d => { d with shadow := if s.rotPhase = rSHADOWIN ∨ s.rotPhase = rSHADOWOUT then
      (match d.shadow with | some q => some (q.1 + 1, q.2) | none => some (1, 0, 0)) else none }
/-- Swaps, starts and stops of the rotation at a tick start. -/
def State.rotTick (s : State) : State := s.rotSwap.rotStart.rotCount

/-! ## The tick start (R277) -/

/-- Slots cut at a change to FINE. -/
def State.slotCut (s : State) : State :=
  let cut := (List.range 128).filter fun k => decide (14 ≤ k % 16) && s.flag (R.ADC_SLOT_EN k)
  if cut.isEmpty then s else
    let s := s.forEach (fun s k => s.putCfg (R.ADC_SLOT_EN k) 0) cut
    ((s.put R.ADC_STAT_CUT 1).irq .adc 0 3).emit 9 63 0x095 (satN 8 cut.length)

/-- The input stage freezes: from here on a tick slot's result is held for the next tick. -/
def State.adcFreeze (s : State) : State := s.setAdc fun d => { d with words := [] }
/-- The sequencer reads its entries, and the rotation moves. -/
def State.adcTickStart (s : State) : State :=
  let seq := (List.range 192).foldl (fun t k => Tab.set noSlot t k (s.get (R.ADC_SLOT k))) []
  let s := s.setAdc fun d => { d with seq }
  if s.rotMode then s.rotTick else s

end Sys2Proof.Machine
end

