-- ==== Sys2Proof/Machine/Fixed.lean ====
section
/-! DEFINITION. Exact numbers of the analogue-style engines: rounding and saturation to a format (R171), square roots,
sines and angles in turns. Roots and angles are formed to weights of 2^-64 and finer, then rounded by their users. -/

namespace Sys2Proof.Machine

open Sys2Proof

/-- Rounded to weight 2^-k, a tie toward +∞ (R171). -/
def rnd (k : Nat) (x : Rat) : Int := (x * (2 : Rat) ^ k + 1 / 2).floor
/-- A signed format of w bits with weight 2^-k. -/
def fmtS (w k : Nat) (x : Rat) : Int := max (-(2 ^ (w - 1) : Int)) (min ((2 ^ (w - 1) : Int) - 1) (rnd k x))
/-- An unsigned format of w bits with weight 2^-k. -/
def fmtU (w k : Nat) (x : Rat) : Nat := min (rnd k x).toNat (2 ^ w - 1)
/-- The fraction of a number of turns, and the same within ±0.5 turn. -/
def frac (x : Rat) : Rat := x - x.floor
def wrapHalf (x : Rat) : Rat := frac (x + 1 / 2) - 1 / 2
/-- An angle in the 32-bit format. -/
def fmtAngle (x : Rat) : Nat := (rnd 32 (frac x)).toNat % 2 ^ 32
/-- The value of an integer with weight 2^-k. -/
def ofFmt (k : Nat) (n : Int) : Rat := (n : Rat) / (2 : Rat) ^ k
/-- Rounded and saturated to the signed 32-bit per-unit format. -/
def puOf (x : Rat) : Rat := ofFmt 24 (fmtS 32 24 x)

/-- Square root, floor to weight 2^-64. -/
def sqrtR (x : Rat) : Rat := if x ≤ 0 then 0 else ofFmt 64 (isqrt (x * (2 : Rat) ^ 128).floor.toNat)
def hyp (x y : Rat) : Rat := sqrtR (x * x + y * y)
def absR (x : Rat) : Rat := if x < 0 then -x else x
def signR (x : Rat) : Rat := if x < 0 then -1 else if x = 0 then 0 else 1
def clampR (lo hi x : Rat) : Rat := max lo (min hi x)

def piR : Rat := ofFmt 100 piFix
/-- sin and cos of an angle in turns. -/
def sinT (t : Rat) : Rat :=
  let x := (wrapHalf t * 2 * (piFix : Rat)).floor
  ofFmt 100 (sinSeries (x * x / 2 ^ 100) 36 1 x 0)
def cosT (t : Rat) : Rat := sinT (t + 1 / 4)

/-- atan by its series; weight 2^-100. -/
def atanSeries (z2 : Int) : Nat → Int → Int → Int → Int
  | 0, _, _, acc => acc
  | k + 1, n, t, acc => atanSeries z2 k (n + 2) (-(t * z2) / 2 ^ 100) (acc + t / n)
/-- The tangent of half the angle; weight 2^-100. -/
def tanHalf (z : Int) : Int := z * 2 ^ 100 / (2 ^ 100 + (isqrt (2 ^ 200 + z.natAbs * z.natAbs) : Nat))
/-- atan of a number from 0 to 1, in turns. -/
def atanTurns (z : Rat) : Rat :=
  let h := tanHalf (tanHalf (tanHalf (z * (2 : Rat) ^ 100).floor))
  (8 * atanSeries (h * h / 2 ^ 100) 24 1 h 0 : Int) / (2 * (piFix : Rat))
/-- The angle of a vector in turns, 0 to 1. -/
def angleT (y x : Rat) : Rat :=
  if x = 0 ∧ y = 0 then frac Config.angleOfZero else
    let a := absR y
    let b := absR x
    let t := if a ≤ b then atanTurns (a / b) else 1 / 4 - atanTurns (b / a)
    frac (if 0 ≤ x then (if 0 ≤ y then t else 1 - t) else if 0 ≤ y then 1 / 2 - t else 1 / 2 + t)

/-- Rounded to the nearest integer, a tie to the even one. -/
def evenR (x : Rat) : Nat :=
  let k := (x + 1 / 2).floor.toNat
  if (k : Rat) = x + 1 / 2 ∧ k % 2 = 1 then k - 1 else k
/-- The exponent of a positive number: the largest e with 2^e at most x. -/
def expR (x : Rat) : Int :=
  let e : Int := (x.num.natAbs.log2 : Int) - (x.den.log2 : Int)
  if x < (2 : Rat) ^ e then e - 1 else e
/-- The IEEE 754 single of a number (R320), rounded to nearest even; infinity beyond the largest. -/
def single (x : Rat) : Nat :=
  let a := absR x
  let e := max (-126) (expR a)
  let m := if a = 0 then 0 else evenR (a * (2 : Rat) ^ (23 - e)) + (e + 126).toNat * 2 ^ 23
  (if x < 0 then 2 ^ 31 else 0) + min m 0x7F800000

/-- The value of a dyadic number, and of an element word. -/
def Dy.rat (v : Dy) : Rat := if 0 ≤ v.x then (v.n * 2 ^ v.x.toNat : Int) else ofFmt (-v.x).toNat v.n
/-- The element word of an integer with weight 2^-k. -/
def packFmt (k : Nat) (n : Int) : Nat := pack1 (.dy ⟨n, -(k : Int)⟩)

/-- The share of the way to its target that a first-order filter of time constant tau goes in one step, both in seconds: with
x = step / tau it lies from x / (1 + x), the backward Euler rule, to x, the forward one, and so does 1 - exp (-x), the
exact response (log 217). -/
def filterGain (step tau : Rat) : Rat :=
  if tau ≤ 0 then 1 else
    let x := step / tau
    min 1 (x * (1 + x * ofFmt 24 (Config.filterRule step tau % (2 ^ 24 + 1) : Nat)) / (1 + x))
/-- One step of a first-order filter with time constant tau, both in seconds. -/
def lowPass (step tau x target : Rat) : Rat := x + filterGain step tau * (target - x)

end Sys2Proof.Machine
end

