-- ==== Sys2Proof/Machine/Link.lean ====
section
/-! DEFINITION. Skatlink ports (spec/05): the ends of transactions, training, loss of link, latency, reception
and loop-backs. -/

namespace Sys2Proof.Machine

open Sys2Proof

/-! ## Ends of transactions (R48 to R51, R154, R163) -/

/-- A completion entry (R48). -/
def completionEntry (cookie rdata tag leg status : Nat) (write : Bool) (stamp : Nat) : Nat :=
  cookie % 2 ^ 32 + rdata % 2 ^ 32 * 2 ^ 32 + tag * 2 ^ 64 + leg * 2 ^ 69 + status * 2 ^ 72 + write.toNat * 2 ^ 75 +
  stamp % 2 ^ 48 * 2 ^ 80

/-- A push word of a leg ends (R154). -/
def State.pushWordDone (s : State) (p leg : Nat) (good : Bool) : State :=
  let o := s.port p
  if good then
    let more := o.push.any (fun q => q.1 == leg) ||
      (List.range 32).any fun t => s.tagBusy p t && (s.tag p t).leg == leg && (s.tag p t).kind == 1
    if !more && !o.pushBad.testBit leg then s.put ((R.PROT_SUM_PUSHED p).bit leg) 1 else s
  else
    (s.setPort p { o with push := o.push.filter (fun q => q.1 != leg), pushBad := o.pushBad ||| 2 ^ leg }).latchLeg
      (p * 8 + leg) 7 s.time.now

/-- A transaction ends with the status of R48; `quar` keeps the tag out of use, after LINK_DOWN until training completes (R51). -/
def State.endTag (s : State) (p t status rdata : Nat) (quar : Bool) : State :=
  let r := s.tag p t
  let s := (s.put ((R.LINK_TAGS p).bit t) 0).setTag p t
    (if quar then { at_ := s.time.up, kind := if status = 3 then 3 else 0 } else {})
  let s := if quar then s.put ((R.LINK_TAGQ p).bit t) 1 else s
  if r.kind = 0 then
    s.ringPush (17 + 2 * p) (completionEntry r.cookie (if status = 0 && !r.write then rdata else 0) t r.leg status r.write
      (stampOf s.time.now))
  else if r.kind = 1 then s.pushWordDone p r.leg (status == 0)
  else s.tripClrDone (p * 8 + r.leg) (status == 0)

/-- A request that is not issued completes as ABORTED; no tag has carried it (R48, R50). -/
def State.abortRequest (s : State) (p q : Nat) : State :=
  (s.ringPush (17 + 2 * p) (completionEntry (q / 2 ^ 64 % 2 ^ 32) 0 (Config.abortTag s.fresh).toNat (q / 2 ^ 10 % 8) 4
    (q / 2 ^ 13 % 2 == 1) (stampOf s.time.now))).draw
/-- The request ring of a port is disabled: what it still holds, from index i on, was not issued (R50). -/
def State.abortFrom (s : State) (p i : Nat) : Nat → State
  | 0 => s
  | n + 1 => (s.abortRequest p (s.sramRead (s.ringSlot (16 + 2 * p) i) 16)).abortFrom p (i + 1) n
def State.abortRing (s : State) (p : Nat) : State :=
  (s.abortFrom p (s.get (R.RING_CIDX (16 + 2 * p))) (s.ringFill (16 + 2 * p))).put (R.RING_CIDX (16 + 2 * p))
    (s.get (R.RING_PIDX (16 + 2 * p)))

/-- TAG_REQUEST: the port takes the request at the head of its ring if R49 allows (R48, R139) and it is UP (log 201). A write of a
protection word is never issued and completes as ABORTED (R154). -/
def State.takeRequest (s : State) (p : Nat) : State :=
  match s.ringHead (16 + 2 * p) with
  | none => s
  | some q =>
    let word := q % 1024
    let leg := q / 2 ^ 10 % 8
    let write := q / 2 ^ 13 % 2 == 1
    let fence := q / 2 ^ 14 % 2 == 1
    let data := q / 2 ^ 32 % 2 ^ 32
    let cookie := q / 2 ^ 64 % 2 ^ 32
    match s.freeTag p with
    | none => s
    | some t =>
      if !s.linkUp p || (fence && s.fwOutstanding p) || s.outstanding p leg word then s
      else
        let s := s.ringPop (16 + 2 * p)
        if write && decide (0x010 ≤ word) && decide (word ≤ 0x03F) then
          s.abortRequest p q
        else s.issueTag p t { leg, wordAddr := word, write, cookie } data

/-- A valid RSP (R50, R51, R124); the SOURCE of TAG_ORPHAN is the model's (log 200). -/
def State.response (s : State) (p : Nat) (b : Dword) : State :=
  let t := bitsOf b 54 50
  if s.tagBusy p t then (s.endTag p t (if bitOf b 49 then 2 else 0) (bitsOf b 39 8) false).pump p pumpFuel
  else s.emit 19 p 0x7C7 (t + blockLeg b * 32 + p * 256)

/-! ## States of a port (R135) -/

def State.enterLink (s : State) (p st : Nat) : State :=
  ((s.setPort p { s.port p with enterUp := s.time.up }).put (R.LINK_STAT_STATE p) st).putB (R.LINK_STAT_UP p) (st == stUP)

/-- Every tag in flight ends with LINK_DOWN and stays out of use until training completes (R50, R51). -/
def State.dropTags (s : State) (p : Nat) : State :=
  s.forEach (fun s t => if s.tagBusy p t then s.endTag p t 3 0 true else s) (List.range 32)
def State.tagsInFlight (s : State) (p : Nat) : Nat := ((List.range 32).filter (s.tagBusy p)).length

/-- The legs of a port whose push has words that were not issued (R154). -/
def State.pushLegs (s : State) (p : Nat) : List Nat :=
  (List.range 8).filter fun m => (s.port p).push.any fun q => q.1 == m
/-- The port forgets what belongs to a link that is up; a push that it cuts short latches PUSH (R154). -/
def State.clearLink (s : State) (p : Nat) : State :=
  let legs := s.pushLegs p
  let s := (s.setPort p { s.port p with push := [], probes := [], rtts := [], round := 1, lane0 := {}, lane1 := {}, tx := [], wait := [] }).put
    (R.PROT_SUM_PUSHED p) 0
  s.forEach (fun s m => s.latchLeg (p * 8 + m) 7 s.time.now) legs

/-- CLOCK is entered (R136, R137): both transmitters start at PRE 0, MAIN 63, POST 0, and the receivers correct nothing yet. -/
def State.enterClock (s : State) (p : Nat) : State :=
  (((s.setPort p { s.port p with retrain := false, testEnd := false, round := 1, lane0 := {}, lane1 := {}, fix := 0 }).put
    (R.LINK_TAPS_LANE0 p) 0x3F0).put (R.LINK_TAPS_LANE1 p) 0x3F0).enterLink p stCLOCK
/-- DOWN is entered for `dwell` units of 0.25 ns. -/
def State.enterDown (s : State) (p dwell : Nat) : State :=
  let s := s.enterLink p stDOWN
  s.setPort p { s.port p with downUp := s.time.up + dwell }

/-- A training failure (R136). -/
def State.trainFail (s : State) (p cause : Nat) : State :=
  let n := min (s.get (R.LINK_STAT_FAILCNT p) + 1) 15
  let s := ((s.put (R.LINK_STAT_LASTFAIL p) cause).put (R.LINK_STAT_FAILCNT p) n).irq .link p 2
  ((s.emit 19 p 0x832 (p + cause * 8 + n * 128)).clearLink p).enterDown p (msQ (min (2 ^ (n - 1)) 128))

/-- Loss of link (R140): `why` has a bit per cause in the order of LINK_LOSS DATA[7:3]; `off` leads to OFF instead of
DOWN (R135, EN written 0). A leg whose push the loss cuts short latches PUSH before LINK, so that FIRST reads 7 (DESIGN CHOICE, log 249). -/
def State.lossOfLink (s : State) (p why : Nat) (off : Bool) : State :=
  let n := s.tagsInFlight p
  let s := if off then s.enterLink p stOFF else s.enterDown p (usQ 4)
  let s := ((s.dropTags p).clearLink p).put (R.LINK_STAT_LOSS p) 1
  let s := ((s.bumpSat (R.LINK_STAT_LOSSES p)).irq .link p 1).emit 19 p 0x831 (p + why * 8 + n * 256)
  s.forEach (fun s m => s.latchLeg (p * 8 + m) 6 s.time.now) (List.range 8)

/-- READY ends in UP (R135, R136, R154). -/
def State.linkComesUp (s : State) (p desat : Nat) : State :=
  let n := s.get (R.LINK_STAT_FAILCNT p)
  let s := s.enterLink p stUP
  let s := s.setPort p { s.port p with desat, lastRx := s.time.up, tx := [], wait := [], enterUp := s.time.up, probeSlot := s.slotsBegun }
  let s := ((s.put (R.LINK_STAT_FAILCNT p) 0).put (R.LINK_TAGQ p) 0).irq .link p 0
  let s := s.emit 19 p 0x030 (p + s.get (R.LINK_LAT_DDOWN p) * 8 + n * 2 ^ 19)
  s.forEach (fun s m => s.startPush p m) (List.range 8)

/-- TEST is left: TEST_END with the count (R144, R148). -/
def State.logTest (s : State) (p loop : Nat) : State :=
  let errs := if loop = 4 then s.get (R.LINK_PRBS0 p) + s.get (R.LINK_PRBS1 p) else s.get (R.LINK_LOOPERR p)
  (s.emit 19 p 0x037 (p + loop * 8 + errs % 2 ^ 32 * 64)).irq .link p 5
/-- A loop-back or PRBS31 test ends (R135, R143, R144). -/
def State.endTest (s : State) (p loop : Nat) : State :=
  let s := s.logTest p loop
  if loop ≤ 2 then s.enterLink p stOFF
  else
    let s := s.enterDown p (usQ 4)
    s.setPort p { s.port p with testEnd := true }

/-- The conditions of R144 for a non-zero LOOP. -/
def State.loopAllowed (s : State) (p loop : Nat) : Bool :=
  decide (loop ≤ 4) && s.testActive && (List.range 8).all fun m => !s.flag (R.LEG_CTL_EN (p * 8 + m))

/-- The effect of a write of LINK_n_CTL (R135): `en0`, `loop0` are the values before, `loopW` tells that LOOP was
written with a new value, `retrain` that RETRAIN was written 1. A write of LOOP that takes a port out of UP ends its outstanding tags with
LINK_DOWN, without a loss of link (DESIGN CHOICE, log 247); in TEST another non-zero LOOP changes the path of the test, what it counts
and where it ends (log 77). -/
def State.linkCtl (s : State) (p : Nat) (en0 : Bool) (loop0 : Nat) (retrain : Bool) : State :=
  let en := s.flag (R.LINK_CTL_EN p)
  let loop := s.get (R.LINK_CTL_LOOP p)
  let st := s.linkState p
  if en0 && !en then
    if st == stUP then s.lossOfLink p 16 true
    else ((if st == stTEST then s.logTest p loop0 else s).clearLink p).enterLink p stOFF
  else if st == stTEST then (if loop == 0 && loop0 != 0 then s.endTest p loop0 else s)
  else if loop != loop0 && (loop == 1 || loop == 2) && (st == stOFF || st == stUP || st == stDOWN) then
    ((s.dropTags p).clearLink p).enterLink p stTEST
  else if loop != loop0 && (loop == 3 || loop == 4) && st == stUP then ((s.dropTags p).clearLink p).enterDown p (usQ 4)
  else if en && st == stOFF && (!en0 || loop != loop0) && (loop == 0 || loop == 3 || loop == 4) then s.enterClock p
  else if retrain && st == stUP then
    let s := s.lossOfLink p 16 false
    s.setPort p { s.port p with retrain := true }
  else if retrain && st == stDOWN then s.setPort p { s.port p with retrain := true }
  else s

/-- TEST stops being ACTIVE: LOOP is written 0 and a test ends (R135, R147). -/
def State.linkTestOff (s : State) (p : Nat) : State :=
  let loop := s.get (R.LINK_CTL_LOOP p)
  if loop = 0 then s
  else if s.linkState p == stTEST then (s.putCfg (R.LINK_CTL_LOOP p) 0).endTest p loop
  else s.putCfg (R.LINK_CTL_LOOP p) 0

/-! ## Equalisation (R137, R138) -/

def State.lane (s : State) (p l : Nat) : LaneSt := if l = 0 then (s.port p).lane0 else (s.port p).lane1
def State.setLane (s : State) (p l : Nat) (v : LaneSt) : State :=
  s.setPort p (if l = 0 then { s.port p with lane0 := v } else { s.port p with lane1 := v })

/-- The ranges and constraints of transmitter taps (R137). -/
def tapsOk (pre main post : Nat) : Bool :=
  decide (pre ≤ 15) && decide (24 ≤ main) && decide (main ≤ 63) && decide (post ≤ 31) &&
  decide (pre + main + post ≤ 63) && decide (pre + post + 16 ≤ main)
/-- One tap after a request code, with its status code. -/
def tapStep (code v : Nat) (ok : Nat → Bool) : Nat × Nat :=
  if code = 1 then (if ok (v + 1) then (v + 1, 1) else (v, 3))
  else if code = 2 then (if 0 < v && ok (v - 1) then (v - 1, 1) else (v, 2))
  else (v, 0)
/-- The answer to a request on one transmitter: new taps and status codes, PRE, then MAIN, then POST. -/
def tapRequest (pre main post cPre cMain cPost : Nat) : (Nat × Nat × Nat) × (Nat × Nat × Nat) :=
  let a := tapStep cPre pre (fun v => tapsOk v main post)
  let b := tapStep cMain main (fun v => tapsOk a.1 v post)
  let c := tapStep cPost post (fun v => tapsOk a.1 b.1 v)
  ((a.1, b.1, c.1), (a.2, b.2, c.2))

/-- Slot counter of TRAIN blocks, modulo 256: slots of 13.2 ns since the reset. -/
def State.slotNo (s : State) : Nat := s.time.up * 10 / 528 % 256
/-- The TRAIN EQ block of a lane (R126, R137): its own request while that is outstanding, and its last answer. -/
def eqBlock (l slot : Nat) (v : LaneSt) : Dword :=
  trainBlock 1 l slot (v.done.toNat * 2 ^ 34 + v.rseq.toNat * 2 ^ 33 + v.ask.1 * 2 ^ 31 + v.ask.2.1 * 2 ^ 29 +
    v.ask.2.2 * 2 ^ 27 + v.seen.toNat * 2 ^ 26 + v.ans.1 * 2 ^ 24 + v.ans.2.1 * 2 ^ 22 + v.ans.2.2 * 2 ^ 20)
/-- What a lane says in EQ changes, and the next slot says it. -/
def State.sayEq (s : State) (p l : Nat) (v : LaneSt) : State :=
  (s.setLane p l v).send p ⟨prTICK, l, 8, eqBlock l (s.laneSlot p l) v⟩

/-- A request made by the lane: codes for PRE, MAIN and POST, and what kind of move it is. -/
def State.eqRequest (s : State) (p l : Nat) (v : LaneSt) (cPre cMain cPost move : Nat) : State :=
  s.sayEq p l { v with rseq := !v.rseq, reqs := v.reqs + 1, move, ask := (cPre, cMain, cPost) }
/-- The lane stops its search and sets DONE. -/
def State.eqDone (s : State) (p l : Nat) (v : LaneSt) : State :=
  s.sayEq p l { v with done := true, ask := (0, 0, 0) }

/-- The request codes of a step in a direction, and of its reverse. -/
def axisCodes (axis : Nat) (back : Bool) : Nat × Nat :=
  let up := (axis == 0 || axis == 2) != back
  (if axis < 2 then (if up then 1 else 2) else 0, if axis < 2 then 0 else if up then 1 else 2)

/-- The next request of the search: MAIN is lowered first where a step up would exceed the sum; after the fourth direction
the search goes round again if the pass improved the figure, and ends otherwise or after 64 requests. -/
def State.eqNext (s : State) (p l : Nat) (v : LaneSt) : State :=
  let v := if v.axis < 4 then v else if v.better then { v with axis := 0, better := false } else v
  if 4 ≤ v.axis ∨ 64 ≤ v.reqs then s.eqDone p l v
  else if (v.axis = 0 ∨ v.axis = 2) ∧ 63 ≤ v.pre + v.main + v.post then s.eqRequest p l v 0 2 0 0
  else s.eqRequest p l v (axisCodes v.axis false).1 0 (axisCodes v.axis false).2 1

/-- An acknowledged request is judged by the eye height (R138). `st` are the status codes of the far end. -/
def State.eqJudge (s : State) (p l eye : Nat) (st : Nat × Nat × Nat) : State :=
  let v := s.lane p l
  let moved := if v.move = 0 then st.2.1 == 1 else if v.axis < 2 then st.1 == 1 else st.2.2 == 1
  if v.move = 0 then
    if moved then s.eqNext p l { v with main := v.main - 1, eye := some eye } else
      s.eqNext p l { v with axis := v.axis + 1, eye := some eye }
  else
    let up := (v.axis == 0 || v.axis == 2) == (v.move == 1)
    let stepped : LaneSt :=
      if !moved then v
      else if v.axis < 2 then { v with pre := if up then v.pre + 1 else v.pre - 1 }
      else { v with post := if up then v.post + 1 else v.post - 1 }
    if v.move = 2 then s.eqNext p l { stepped with axis := v.axis + 1 }
    else if moved && (match v.eye with | none => true | some e => decide (102 * e < 100 * eye)) then
      s.eqNext p l { stepped with eye := some eye, better := true }
    else if moved ∧ 64 ≤ v.reqs then s.eqDone p l stepped
    else if moved then s.eqRequest p l stepped (axisCodes v.axis true).1 0 (axisCodes v.axis true).2 2
    else s.eqNext p l { v with axis := v.axis + 1 }

/-- The body of a valid TRAIN EQ block, if the block is one: DONE, RSEQ, requests, ASEQ, status codes. -/
def isEq (b : Dword) : Bool := rxValid true b && bitsOf b 54 52 == 1

/-- TAP_REQUEST (R137): a change of RSEQ is answered with the steps made on the port's own transmitter. -/
def State.answerTaps (s : State) (p : Nat) (b : Dword) : State :=
  let l := bitsOf b 51 51
  let f := if l = 0 then R.LINK_TAPS_LANE0 p else R.LINK_TAPS_LANE1 p
  let v := { s.lane p l with farDone := (s.lane p l).farDone || bitOf b 42 }
  let s := s.setLane p l v
  if bitOf b 41 == v.seen then s else
    let taps := s.get f
    let r := tapRequest (taps % 16) (taps / 16 % 64) (taps / 1024 % 32) (bitsOf b 40 39) (bitsOf b 38 37) (bitsOf b 36 35)
    let s := s.put f (r.1.1 + r.1.2.1 * 16 + r.1.2.2 * 1024)
    s.sayEq p l { v with seen := bitOf b 41, ans := r.2 }

/-! ## Latency (R129, R130) -/

def sumInt : List Int → Int
  | [] => 0
  | x :: xs => x + sumInt xs
/-- The mean of the round trips, rounded to the nearest unit, a tie upward. -/
def rttMean (ts : List Int) : Int :=
  let n : Int := ts.length
  if n = 0 then 0 else (2 * sumInt ts + n) / (2 * n)
/-- DDOWN from RTT and ASYM (R129). -/
def State.ddownOf (s : State) (p : Nat) (rtt : Int) : Int := (rtt + 1) / 2 + s.getI (R.LINK_LATCFG_ASYM p)
def State.ddownTarget (s : State) (p : Nat) : Int := s.ddownOf p (s.get (R.LINK_LAT_RTT p))

/-- A departure of the DDOWN target from DTRAIN beyond SHIFT_MAX (R130). -/
def State.latShift (s : State) (p : Nat) : State :=
  let t := s.ddownTarget p
  let d : Int := s.get (R.LINK_LATTRN_DTRAIN p)
  if (s.get (R.LINK_LATCFG_SHIFT_MAX p) : Int) < (t - d).natAbs ∧ s.flag (R.LINK_STAT_LATSHIFT p) = false then
    ((s.put (R.LINK_STAT_LATSHIFT p) 1).irq .link p 3).emit 19 p 0x433
      (p + (t % 65536).toNat * 8 + s.get (R.LINK_LATTRN_DTRAIN p) * 2 ^ 19)
  else s

/-- A valid TRAIN LAT echo (R126), and the round trip that it gives with its A − D (R129). -/
def isLatEcho (b : Dword) : Bool := rxValid true b && bitsOf b 54 52 == 2 && bitOf b 34
def latTrip (q : Nat × Dword) : Int := (q.1 : Int) - bitsOf q.2 33 10
/-- The echoes of one round answer PID 0 to 63 (R136). -/
def latRound (es : List (Nat × Dword)) : Bool :=
  es.length == 64 && es.all (fun q => isLatEcho q.2) && (List.range 64).all fun k => es.any fun q => bitsOf q.2 42 35 == k
/-- A valid TRAIN READY block with the NEXT given (R126). -/
def isReady (next : Nat) (b : Dword) : Bool := rxValid true b && bitsOf b 54 52 == 3 && bitsOf b 42 41 == next
/-- NEXT of the port's own READY blocks, by LOOP (R126, R136). -/
def State.readyNext (s : State) (p : Nat) : Nat :=
  match s.get (R.LINK_CTL_LOOP p) with
  | 3 => 2
  | 4 => 1
  | _ => 0

/-- The LAT phase (R136): 64 round trips with a spread of at most 4 units set DDOWN. -/
def State.latDone (s : State) (p : Nat) (ts : List Int) : State :=
  let lo := ts.foldl min (ts.headD 0)
  let hi := ts.foldl max (ts.headD 0)
  if hi - lo ≤ 4 then
    let rtt := rttMean ts
    let d := s.ddownOf p rtt
    if 6400 < d then s.trainFail p 4
    else
      let s := ((s.putI (R.LINK_LAT_RTT p) rtt).putI (R.LINK_LAT_DDOWN p) d).putI (R.LINK_LATTRN_DTRAIN p) d
      (s.setPort p { s.port p with rtts := ts }).enterLink p stREADY
  else if (s.port p).round < 3 then s.setPort p { s.port p with round := (s.port p).round + 1, enterUp := s.time.up }
  else s.trainFail p 5

/-- Units of 78.125 ps from now to the start of slot n. -/
def State.slotDelay (s : State) (n : Nat) : Nat := (n * 528 - s.time.up * 10) * 8 / 25
/-- The TICK mark and the slew of DDOWN at a tick start (R127, R130): d runs to the departure of the mark's slot, the first on DD0 that
begins at or after the tick start. The record of blocks sent begins anew; blocks that wait still go out, behind the mark. -/
def State.linkTick (s : State) (p : Nat) : State :=
  let s := s.txRun p
  let s := s.setPort p { s.port p with tx := [] }
  if s.linkUp p then
    let t := s.ddownTarget p
    let d : Int := s.get (R.LINK_LAT_DDOWN p)
    let s := s.putI (R.LINK_LAT_DDOWN p) (if d < t then d + 1 else if t < d then d - 1 else d)
    let off := s.slotDelay s.slotsBegun + s.get (R.LINK_LAT_DDOWN p)
    (s.send p ⟨prTICK, 0, 8, stateBlock 0 0 (s.tickNo % 256) off s.fine.toNat⟩).latShift p
  else s

/-! ## Reception (R115, R121 to R125, R140) -/

/-- A valid upstream block restarts the silence count (R140). -/
def State.heard (s : State) (p : Nat) : State := s.setPort p { s.port p with lastRx := s.time.up }

/-- Under header 1 then 0 (`train`) or 0 then 1: an undefined type or a wrong header (R115, R117, R147). -/
def wrongType (train : Bool) (b : Dword) : Bool :=
  if train then blockType b != tTRAIN
  else blockType b != tSAMPLE && blockType b != tSTATUS && blockType b != tRSP && blockType b != tIDLE
/-- An invalid block is counted (R115, R147, R148). -/
def State.countInvalid (s : State) (p lane : Nat) (wrongType : Bool) : State :=
  let f := if lane = 0 then R.LINK_CRC_UD0 p else R.LINK_CRC_UD1 p
  let first := s.get f == 0
  let s := s.bumpSat f
  let s := if wrongType then s.bumpSat (R.LINK_ERR_INVALID p) else s
  if first then (s.irq .link p 4).emit 19 p 0x434 (p + lane * 8) else s

/-- The last two values delivered to a leg's sample words (R98). -/
def State.delivered (s : State) (n : Nat) (v : List Int) : State :=
  let l := s.leg n
  s.setLeg n { l with x2 := l.x1, x1 := v }

/-- The Gnomon instant, in units, of TIME in the most recent tick with sequence SEQ (R121). -/
def State.seqInstant (s : State) (seq time : Nat) : Nat :=
  (s.tickNo - (s.tickNo + 256 - seq % 256) % 256) * s.tickU + time
/-- A valid SAMPLE pair taken at an instant (R121, R253); the first measured sample ends a run of predictions (R98). -/
def State.samplePair (s : State) (n : Nat) (v0 v1 v2 : Int) (at_ : Nat) : State :=
  let s := (s.inputLeg n v0 v1 v2 { valid := true }).delivered n [v0, v1, v2]
  (s.setLeg n { s.leg n with skips := 0, sampleAt := at_ }).put (R.LEG_STAT_HELD n) 0

/-- Half a SAMPLE: its head or tail, valid and of the type. -/
def isHalf (part : Nat) (b : Dword) : Bool := rxValid false b && blockType b == tSAMPLE && bitsOf b 54 54 == part

/-- A valid STATUS (R123, R148, R149). -/
def State.statusBlock (s : State) (p : Nat) (b : Dword) : State :=
  let m := blockLeg b
  let n := p * 8 + m
  let old := s.get (R.LINK_LEGSTAT_FLAGS p m)
  let late0 := s.get (R.LINK_ERR_LATE p)
  let rej0 := s.get (R.LINK_ERR_REJECT p)
  let s := ((s.put (R.LINK_LEGSTAT_FLAGS p m) (bitsOf b 54 41)).put (R.LINK_LEGSTAT_SEQ p m) (bitsOf b 40 33)).put
    (R.LINK_LEGTIME_TIME p m) (bitsOf b 32 9)
  let s := if bitOf b 43 then s.bumpSat (R.LINK_ERR_LATE p) else s
  let s := if bitOf b 42 then s.bumpSat (R.LINK_ERR_REJECT p) else s
  let s := if (bitOf b 43 && late0 == 0) || (bitOf b 42 && rej0 == 0) || (bitOf b 44 && !old.testBit 3) || bitOf b 8 then
      s.emit 3 n 0x435 (bitsOf b 43 43 + bitsOf b 42 42 * 2 + bitsOf b 44 44 * 4 + bitsOf b 8 8 * 8)
    else s
  let rise (s : State) (bit old? cause : Nat) : State :=
    if bitOf b bit && !old.testBit old? then s.latchLeg n cause s.time.now else s
  let s := rise s 50 9 1
  let s := rise s 49 8 2
  let s := rise s 48 7 3
  let s := rise s 47 6 4
  if bitOf b 44 then s.latchLeg n 5 s.time.now else s

/-- One bit of the PRBS31 sequence x^31 + x^28 + 1 (R143): the last 31 bits, the latest lowest. -/
def prbsStep (st : Nat) : Nat × Bool :=
  let b := st.testBit 30 != st.testBit 27
  (st * 2 % 2 ^ 31 + b.toNat, b)
/-- The next bits of the sequence as bits i, i + 1, … of a word, bit 0 sent first. -/
def prbsFrom (st i : Nat) : Nat → Nat × Nat
  | 0 => (st, 0)
  | n + 1 =>
    let q := prbsStep st
    let r := prbsFrom q.1 (i + 1) n
    (r.1, q.2.toNat * 2 ^ i + r.2)
/-- The checker locks on 64 received bits: the last 31 are its state. -/
def prbsLock (b : Dword) : Nat := (List.range 31).foldl (fun a j => a + (bitOf b (63 - j)).toNat * 2 ^ j) 0
/-- The bits in which two words differ. -/
def bitErrors (a b : Nat) : Nat := ((List.range 64).filter fun i => a.testBit i != b.testBit i).length

/-- The TRAIN LOOP block that a lane sends next (R126, R144). -/
def loopSent (l slot : Nat) (v : LaneSt) : Dword := trainBlock 4 l slot (v.loopTx * 8)

/-- One slot of a PRBS31 test (R143): 64 bits sent, and 64 received bits judged once the checker is locked. -/
def State.prbsSlot (s : State) (p lane : Nat) (b : Dword) : State :=
  let v := s.lane p lane
  let f := if lane = 0 then R.LINK_PRBS0 p else R.LINK_PRBS1 p
  let tx := (prbsFrom v.prbsTx 0 64).1
  match v.prbsRx with
  | none => s.setLane p lane { v with prbsTx := tx, prbsRx := some (prbsLock b) }
  | some st =>
    let r := prbsFrom st 0 64
    (s.setLane p lane { v with prbsTx := tx, prbsRx := some r.1 }).put f (satN 32 (s.get f + bitErrors b.toNat r.2))

/-- One slot of a loop-back (R144): a block is sent and one received, which near-end is the block sent but for the bits of `b`, and
far-end is `b`. -/
def State.loopSlot (s : State) (p lane : Nat) (train : Bool) (b : Dword) : State :=
  let v := s.lane p lane
  let rx := if s.get (R.LINK_CTL_LOOP p) ≤ 2 then loopSent lane s.slotNo v ^^^ b else b
  let good := rxValid train rx && train && bitsOf rx 54 52 == 4
  let c := bitsOf rx 42 11
  let next := match v.loopCnt with
    | none => true
    | some n => c == (n + 1) % 2 ^ 32
  let s := s.setLane p lane { v with loopTx := (v.loopTx + 1) % 2 ^ 32, loopCnt := if good then some c else v.loopCnt }
  let s := if rxValid train rx then s else s.countInvalid p lane (wrongType train rx)
  if good && next then s else s.bumpSat (R.LINK_LOOPERR p)

/-- A block time of a lane in TEST (R143, R144). -/
def State.loopBlock (s : State) (p lane : Nat) (train : Bool) (b : Dword) : State :=
  if s.get (R.LINK_CTL_LOOP p) = 4 then s.prbsSlot p lane b else s.loopSlot p lane train b

/-! ## What the pins carry (R113, R125, R126, R136) -/

/-- Slots since the state of the port was entered. -/
def State.phaseSlot (s : State) (p n : Nat) : Nat := n - (s.port p).enterUp * 10 / 528
/-- What slot n of lane l carries where no block waits for it, by the state of the link: none where the lanes are stopped. In LAT a probe
every 16 slots on lane 0, PID 0 to 63; in TEST the LOOP block or the PRBS31 bits that come next. -/
def State.idleSlot (s : State) (p l n : Nat) : Option Dword :=
  let v := s.lane p l
  let k := s.phaseSlot p n
  match s.linkState p with
  | 1 => some (trainBlock 0 l n 0)
  | 2 => some (eqBlock l n v)
  | 3 => some (if l = 0 ∧ k % 16 = 0 ∧ k / 16 < 64 then trainBlock 2 l n (k / 16 * 2 ^ 27) else trainBlock 0 l n 0)
  | 4 => some (trainBlock 3 l n (s.readyNext p * 2 ^ 33))
  | 5 => some fillerBlock
  | 7 =>
    match s.get (R.LINK_CTL_LOOP p) with
    | 3 => some (loopSent l n v)
    | 4 => some (BitVec.ofNat 64 (prbsFrom v.prbsTx 0 64).2)
    | _ => none
  | _ => none
/-- What slot n of lane l of a port carries: the block recorded as sent there, or what fills an empty slot. -/
def State.slotCarries (s : State) (p l n : Nat) : Option Dword :=
  match (s.port p).tx.find? (fun q => q.1 == 2 * n + l) with
  | some q => some q.2
  | none => s.idleSlot p l n

/-- The pin lane that feeds received lane l, and whether its polarity is inverted, as the receivers correct them (R112). -/
def State.rxWiring (s : State) (p l : Nat) : Nat × Bool :=
  let fix := (s.port p).fix
  let pin := if fix.testBit 2 then 1 - l else l
  (pin, fix.testBit pin)

end Sys2Proof.Machine
end

