-- ==== Sys2Proof/Machine/Poly.lean ====
section
/-! DEFINITION. Polygon (spec/04): waveforms, edge plans, the set of each leg, release, overrun, COMMIT groups and the
configuration checks of leg timers. Times are in units of 78.125 ps from the Gnomon epoch. -/

namespace Sys2Proof.Machine

open Sys2Proof

/-! ## Waveforms (R91) -/

/-- The ideal state of one switch over a period: its state at the start, and the instants at which it changes. -/
structure Wave where
  init : Bool
  chg : List (Int × Bool)
deriving DecidableEq, Repr

def Wave.neg (w : Wave) : Wave := ⟨!w.init, w.chg.map fun c => (c.1, !c.2)⟩
/-- The state at t, changes at t included. -/
def Wave.at (w : Wave) (t : Int) : Bool := w.chg.foldl (fun b c => if c.1 ≤ t then c.2 else b) w.init
/-- The wave from t on. -/
def Wave.after (w : Wave) (t : Int) : Wave := ⟨w.at t, w.chg.filter fun c => decide (t < c.1)⟩
/-- The wave before t. -/
def Wave.before (w : Wave) (t : Int) : Wave := ⟨w.init, w.chg.filter fun c => decide (c.1 < t)⟩

/-- On from a to b within the period from s to e; an interval that ends at e leaves the switch on. -/
def onWave (s e a b : Int) : Wave :=
  if b ≤ a then ⟨false, []⟩
  else ⟨decide (a ≤ s), (if s < a then [(a, true)] else []) ++ (if b < e then [(b, false)] else [])⟩
def halfUp (x : Int) : Int := (x + 1) / 2

/-- The high side of a period of length L that starts at s (R91). -/
def highWave (up : Bool) (s L h1 h2 : Int) : Wave :=
  if up then onWave s (s + L) s (s + h1) else onWave s (s + L) (s + (L - h1) / 2) (s + L - halfUp (L - h2))
/-- The low side under INDEP (R91). -/
def lowWave (up : Bool) (s L l1 l2 : Int) : Wave :=
  if up then onWave s (s + L) (s + L - l1) (s + L)
  else
    let a := s + l1 / 2
    let b := s + L - halfUp l2
    if b ≤ a then ⟨true, []⟩
    else ⟨decide (s < a), (if s < a then [(a, false)] else []) ++ (if b < s + L then [(b, true)] else [])⟩

/-! ## Edge plans (R92, R94, R95) -/

def Sw.apply (w : Sw) (e : Edge) : Sw :=
  if e.high then { w with hi := e.on, hiOff := if e.on then w.hiOff else some e.t }
  else { w with lo := e.on, loOff := if e.on then w.loOff else some e.t }
def Sw.isOn (w : Sw) (high : Bool) : Bool := if high then w.hi else w.lo
def Sw.offAt (w : Sw) (high : Bool) : Option Int := if high then w.hiOff else w.loOff

/-- Time order, a turn-off before a turn-on. -/
def Edge.before (a b : Edge) : Bool := decide (a.t < b.t) || (a.t == b.t && !a.on && b.on)
def insertEdge (e : Edge) : List Edge → List Edge
  | [] => [e]
  | x :: xs => if e.before x then e :: x :: xs else x :: insertEdge e xs
def sortEdges : List Edge → List Edge
  | [] => []
  | e :: es => insertEdge e (sortEdges es)

/-- A plan in the making: switches as scheduled so far, the turn-on last scheduled for each (in an earlier set or in this one), requests
dropped under R95, the block of its second form, the edges, and the instant of a BOTH_ON. -/
structure Plan where
  sw : Sw
  hiOn : Option Int := none
  loOn : Option Int := none
  dropHi : Bool
  dropLo : Bool
  blocked : Bool
  edges : List Edge := []
  both : Option Int := none

def Plan.drop (p : Plan) (high : Bool) : Bool := if high then p.dropHi else p.dropLo
def Plan.setDrop (p : Plan) (high b : Bool) : Plan := if high then { p with dropHi := b } else { p with dropLo := b }
def Plan.onAt (p : Plan) (high : Bool) : Option Int := if high then p.hiOn else p.loOn
def Plan.issue (p : Plan) (e : Edge) : Plan :=
  let p := { p with sw := p.sw.apply e, edges := p.edges ++ [e] }
  if e.on then (if e.high then { p with hiOn := some e.t } else { p with loOn := some e.t }) else p
/-- A turn-on that its own turn-off overtakes is not issued, and neither is the turn-off. -/
def Plan.cancel (p : Plan) (high : Bool) (t : Int) : Plan :=
  { p with edges := p.edges.filter (· != ⟨t, high, true⟩),
           sw := if high then { p.sw with hi := false } else { p.sw with lo := false } }

/-- One request of the ideal waveform: a turn-off at its instant, or a turn-on no earlier than DEAD after the opposite
switch's latest turn-off, dropped where R95 says so. A turn-off that falls before a turn-on of an earlier set leaves its switch
scheduled on (R94, R95). `rest` holds the requests that follow. -/
def Plan.step (dead : Int) (rest : List Edge) (p : Plan) (r : Edge) : Plan :=
  if r.on then
    if p.blocked || p.sw.isOn r.high then p
    else if p.sw.isOn (!r.high) then p.setDrop r.high true
    else if rest.any (fun q => q.on && q.high != r.high && q.t / 16 == r.t / 16) then
      { p with blocked := true, both := some r.t }
    else
      let t := match p.sw.offAt (!r.high) with
        | none => r.t
        | some u => max r.t (u + dead)
      p.issue { r with t }
  else if p.drop r.high then p.setDrop r.high false
  else if p.sw.isOn r.high then
    match p.onAt r.high with
    | some u =>
      if u < r.t then p.issue r
      else if p.edges.contains ⟨u, r.high, true⟩ then p.cancel r.high u
      else { p with edges := p.edges ++ [r] }
    | none => p.issue r
  else p
def Plan.run (dead : Int) : List Edge → Plan → Plan
  | [], p => p
  | r :: rs, p => Plan.run dead rs (p.step dead rs r)

/-- The requests of one switch over a segment that starts at t0: its change to the state at the start, unless that request
has been dropped, and its changes. -/
def waveRequests (t0 : Int) (high now drop : Bool) (w : Wave) : List Edge :=
  (if w.init == now || (w.init && drop) then [] else [⟨t0, high, w.init⟩]) ++ w.chg.map fun c => ⟨c.1, high, c.2⟩
/-- Requests of a segment in order. -/
def segRequests (t0 : Int) (p : Plan) (hi lo : Wave) : List Edge :=
  sortEdges (waveRequests t0 true p.sw.hi p.dropHi hi ++ waveRequests t0 false p.sw.lo p.dropLo lo)

/-! ## Legs -/

/-- Start of the Issue phase and of Guard and end of Sense after the tick start, in units of 0.25 ns (R59). -/
def State.senseQ (s : State) : Nat := if s.fine then 6000 else 12000
def State.issueQ (s : State) : Nat := if s.fine then 15000 else 30000
def State.guardQ (s : State) : Nat := if s.fine then 18000 else 36000
def State.issueAt (s : State) : Nat := s.time.tickStart + s.issueQ
/-- Start of the next tick and its end, in units. -/
def State.w0 (s : State) : Int := toUnits s.time.tickEnd
def State.w1 (s : State) : Int := s.w0 + s.tickU
/-- The sequence of the set built in this tick (R60). -/
def State.nextSeq (s : State) : Nat := (s.tickNo + 1) % 256

/-- The carrier period (R85). -/
def State.legL (s : State) (n : Nat) : Int := s.get (R.LEG_PER_PER_TICKS n) * s.tickU
def State.legDead (s : State) (n : Nat) : Int := s.get (R.LEG_DEAD_DEAD n)

/-- A flag of LEG_STAT set by the device, with its interrupt bit, and an event when it leaves 0. -/
def State.legFlag (s : State) (n bit : Nat) (ev : Option (Nat × Nat)) : State :=
  let was := s.flag ((R.LEG_STAT n).bit bit)
  let s := (s.put ((R.LEG_STAT n).bit bit) 1).irq .leg n bit
  match ev with
  | some (code, data) => if was then s else s.emitAt s.issueAt 4 n code data
  | none => s

/-- Duty clamp and on-time (R90). -/
def clampDuty (d : Int) : Int := max 0 (min 16777216 d)
def onTime (d L : Int) : Int := (d * L + 8388608) / 16777216

/-- The modulation limit of an on-time (R97): the high side, or the low side under INDEP. -/
def State.legLimit (s : State) (n : Nat) (L h : Int) (low : Bool) : Int :=
  let m := 2 * ((s.get (R.LEG_SAMPLE_WIN n) : Int) + s.legDead n)
  if s.flag (R.LEG_SAMPLE_POINT n) != low then max h m else min h (L - m)
/-- Removal of short pulses (R93). -/
def State.minPulse (s : State) (n : Nat) (L h : Int) : Int :=
  let m := s.legDead n + s.get (R.LEG_MINPW_MINPW n)
  if 0 < h ∧ h < m then 0 else if 0 < L - h ∧ L - h < m then L else h

/-- The on-time of one switch from its latched duty, with the flags, counts and events of R90, R93 and R97. -/
def State.legOn (s : State) (n : Nat) (L d : Int) (low : Bool) : State × Int :=
  let c := clampDuty d
  let s := if c = d then s else s.legFlag n 0 none
  let h0 := onTime c L
  let h1 := if s.flag (R.LEG_SAMPLE_EN n) && !s.legacyActive then s.legLimit n L h0 low else h0
  let s := if h1 = h0 then s else
    let s := s.legFlag n 2 (some (0x422, (h0 % 2 ^ 24).toNat + s.get (R.LEG_SAMPLE_POINT n) * 2 ^ 24))
    if (s.leg n).limited then s else
      (s.setLeg n { s.leg n with limited := true }).bumpSat (R.LEG_CNT_MODLIM n)
  let h2 := s.minPulse n L h1
  let s := if h2 = h1 then s else
    (s.legFlag n 4 (some (0x424, if (h2 == 0) != low then 1 else 2))).bumpSat (R.LEG_CNT_DROPS n)
  (s, h2)

/-- The duties latched for a leg (R87). -/
def State.legDuty (s : State) (n : Nat) (low : Bool) : Int :=
  if s.flag (R.LEG_CTL_SRC n) then s.getI (if low then R.LEG_DUTYL_DUTYL n else R.LEG_DUTY_DUTY n)
  else Tab.get (fun _ => 0) s.ce.duty (if low then 64 + n else n)

/-- High and low waves of the period at s0 with on-times of both halves. -/
def State.legWaves (s : State) (n : Nat) (s0 L h1 h2 l1 l2 : Int) : Wave × Wave :=
  let up := s.flag (R.LEG_CTL_CARRIER n)
  let hi := highWave up s0 L h1 h2
  (hi, if s.flag (R.LEG_CTL_INDEP n) then lowWave up s0 L l1 l2 else hi.neg)

/-- What a leg adds to its part of the set in one reload, and its switches after it. -/
structure Built where
  s : State
  sw : Sw
  edges : List Edge
  samples : List Int

/-- The turn-on last scheduled for a switch. -/
def lastOn (high : Bool) (sched : List Edge) : Option Int := ((sched.filter fun e => e.on && e.high == high).getLast?).map (·.t)
/-- A BOTH_ON fault (R95, R109), logged at every occurrence. -/
def State.bothOn (s : State) (n : Nat) (off : Int) : State :=
  (s.legFlag n 5 none).emitAt s.issueAt 4 n 0x821 ((off % 2 ^ 24).toNat + s.nextSeq * 2 ^ 24)

/-- CTL.INJ under TEST: the next part of the leg's set carries both turn-on requests in one TIME clock (R95). -/
def State.legInjects (s : State) (n : Nat) : Bool := s.flag (R.LEG_CTL_INJ n) && s.testActive
/-- A plan before its requests, on top of the edges scheduled: the two requests of CTL.INJ at t0 are dropped, and hold the leg off for the
period where both switches are off. -/
def State.planStart (s : State) (n : Nat) (t0 : Int) (sw : Sw) (sched : List Edge) : Plan :=
  let l := s.leg n
  let inj := s.legInjects n && !sw.hi && !sw.lo && !sched.any (fun e => e.on && decide (t0 ≤ e.t))
  { sw, hiOn := lastOn true sched, loOn := lastOn false sched, dropHi := l.dropHi, dropLo := l.dropLo, blocked := l.blocked || inj,
    both := if inj then some t0 else none }
/-- The leg's record after a plan. -/
def State.planEnd (s : State) (n : Nat) (p : Plan) : Built :=
  let s := s.setLeg n { s.leg n with dropHi := p.dropHi, dropLo := p.dropLo, blocked := p.blocked }
  let s := if s.legInjects n then s.putCfg (R.LEG_CTL_INJ n) 0 else s
  let s := match p.both with
    | none => s
    | some t => s.bothOn n (t - s.w0)
  ⟨s, p.sw, p.edges, []⟩
/-- A segment is planned on top of the edges scheduled, and the leg's record brought up to date. -/
def State.planSegment (s : State) (n : Nat) (t0 : Int) (sw : Sw) (sched : List Edge) (hi lo : Wave) : Built :=
  let p0 := s.planStart n t0 sw sched
  s.planEnd n (Plan.run (s.legDead n) (segRequests t0 p0 hi lo) p0)

/-- Edges from the present state to a fixed one: turn-offs at offset 0, turn-ons at offset DEAD (R104, R188). -/
def fixedEdges (t1 dead : Int) (sw : Sw) (hi lo : Bool) : List Edge :=
  (if sw.hi && !hi then [⟨t1, true, false⟩] else []) ++ (if sw.lo && !lo then [⟨t1, false, false⟩] else []) ++
  (if !sw.hi && hi then [⟨t1 + dead, true, true⟩] else []) ++ (if !sw.lo && lo then [⟨t1 + dead, false, true⟩] else [])
/-- A leg taken to a fixed state from t1 on, on top of the edges scheduled, under R92, R94 and R95 (R104, R188). -/
def State.planFixed (s : State) (n : Nat) (t1 : Int) (sw : Sw) (sched : List Edge) (hi lo : Bool) : Built :=
  let s := s.setLeg n { s.leg n with dropHi := false, dropLo := false, blocked := false }
  s.planEnd n (Plan.run (s.legDead n) (fixedEdges t1 (s.legDead n) sw hi lo) (s.planStart n t1 sw sched))

/-- A prediction in place of a sample (R98). -/
def State.predictLeg (s : State) (n : Nat) : State :=
  let l := s.leg n
  let held := decide (3 ≤ l.skips)
  let v := if held then l.x1 else List.zipWith (fun a b => satI 16 (2 * a - b)) l.x1 l.x2
  let s := (s.legFlag n 3 (some (0x023, held.toNat)))
  let s := if held then s.legFlag n 6 none else s
  let s := (s.inputLeg n (v.getD 0 0) (v.getD 1 0) (v.getD 2 0) { valid := true, pred := true, held }).delivered n v
  s.setLeg n { s.leg n with skips := l.skips + 1 }

/-- The sample instant of a period (R96, R98): issued, or predicted under LEGACY if an edge falls in its window. -/
def State.legSample (b : Built) (n : Nat) (t : Int) (sched : List Edge) : Built :=
  if b.s.flag (R.LEG_SAMPLE_EN n) then
    let win : Int := b.s.get (R.LEG_SAMPLE_WIN n)
    if b.s.legacyActive && (sched ++ b.edges).any (fun e => decide ((e.t - t).natAbs < win.toNat)) then
      { b with s := b.s.predictLeg n }
    else { b with samples := b.samples ++ [t] }
  else b

/-- The reload at a period start s0 (R85, R99). -/
def State.reloadStart (s : State) (n : Nat) (s0 : Int) (sw : Sw) (sched : List Edge) : Built :=
  let L := s.legL n
  let phase := s.get (R.LEG_PER_PHASE n) % L.toNat
  let s := s.setLeg n { s.leg n with limited := false, dropHi := false, dropLo := false, blocked := false }
  let a := s.legOn n L (s.legDuty n false) false
  let b := if s.flag (R.LEG_CTL_INDEP n) then a.1.legOn n L (s.legDuty n true) true else (a.1, 0)
  let s := b.1
  let l := s.leg n
  let mid := s.flag (R.LEG_CTL_UPD n)
  let s := s.setLeg n { l with cur := s0, next := s0 + L + ((phase : Int) - l.phase) % L, phase, midDone := !mid,
                               h1 := a.2.toNat, hl1 := b.2.toNat }
  let w := s.legWaves n s0 L a.2 a.2 b.2 b.2
  let cut (x : Wave) : Wave := if mid then x.before (s0 + L / 2) else x
  State.legSample (s.planSegment n s0 sw sched (cut w.1) (cut w.2)) n
    (if s.flag (R.LEG_SAMPLE_POINT n) then s0 + L / 2 else s0) sched

/-- The reload at the middle of a period under MID (R86, R91), at which the leg resumes after R95 (log 54). -/
def State.reloadMid (s : State) (n : Nat) (sw : Sw) (sched : List Edge) : Built :=
  let L := s.legL n
  let a := s.legOn n L (s.legDuty n false) false
  let b := if s.flag (R.LEG_CTL_INDEP n) then a.1.legOn n L (s.legDuty n true) true else (a.1, 0)
  let s := b.1
  let l := s.leg n
  let t := l.cur + L / 2
  let s := s.setLeg n { l with midDone := true, dropHi := false, dropLo := false, blocked := false }
  let w := s.legWaves n l.cur L l.h1 a.2 l.hl1 b.2
  s.planSegment n t sw sched (w.1.after t) (w.2.after t)

/-- Two parts of a leg's set, one after the other. -/
def Built.append (a b : Built) : Built := ⟨b.s, b.sw, a.edges ++ b.edges, a.samples ++ b.samples⟩

/-- The reload points of a leg in the window of the next tick, at most two when its period in progress is built first. -/
def State.legWindow (s : State) (n : Nat) (sw : Sw) (sched : List Edge) : Nat → Built
  | 0 => ⟨s, sw, [], []⟩
  | k + 1 =>
    let l := s.leg n
    let m := l.cur + s.legL n / 2
    if !l.midDone && decide (m < s.w1) then
      let b := s.reloadMid n sw sched
      b.append (b.s.legWindow n b.sw (sched ++ b.edges) k)
    else if l.next < s.w1 then
      let b := s.reloadStart n l.next sw sched
      b.append (b.s.legWindow n b.sw (sched ++ b.edges) k)
    else ⟨s, sw, [], []⟩

/-- A leg that returns to its own carrier: the period in progress at the start of the next tick is built as if it had
reloaded then (R102). `past` holds the leg's edges before that tick. -/
def State.enterOwn (s : State) (n : Nat) (sw : Sw) (past : List Edge) : Built :=
  let L := s.legL n
  let phase := s.get (R.LEG_PER_PHASE n) % L.toNat
  let t1 := s.w0
  let s0 := t1 - (t1 - phase) % L
  let s := s.setLeg n { s.leg n with limited := false, dropHi := false, dropLo := false, blocked := false }
  let a := s.legOn n L (s.legDuty n false) false
  let b := if s.flag (R.LEG_CTL_INDEP n) then a.1.legOn n L (s.legDuty n true) true else (a.1, 0)
  let s := b.1
  let mid := s.flag (R.LEG_CTL_UPD n) && decide (t1 < s0 + L / 2)
  let s := s.setLeg n { s.leg n with cur := s0, next := s0 + L, phase, midDone := !mid, h1 := a.2.toNat, hl1 := b.2.toNat }
  let w := s.legWaves n s0 L a.2 a.2 b.2 b.2
  let cut (x : Wave) : Wave := if mid then (x.after t1).before (s0 + L / 2) else x.after t1
  let b1 := s.planSegment n t1 sw [] (cut w.1) (cut w.2)
  let smp := if s.flag (R.LEG_SAMPLE_POINT n) then s0 + L / 2 else s0
  let b1 := if t1 ≤ smp then State.legSample b1 n smp past else b1
  b1.append (b1.s.legWindow n b1.sw (past ++ b1.edges) 2)

/-- CTL.INJ acts at the start of the next tick where the leg's set holds no reload point (R95). -/
def State.injectIdle (b : Built) (n : Nat) (t1 : Int) (sched : List Edge) : Built :=
  if b.s.legInjects n then { b with s := (b.s.planEnd n (b.s.planStart n t1 b.sw sched)).s } else b

/-! ## Sources (R102 to R104, R188, R225, R211) -/

/-- The boost leg of a string channel in OPEN, FAULT or SUSP (R225). -/
def State.boostHeld (s : State) (n : Nat) : Bool :=
  (List.range 32).any fun c =>
    s.get (R.SLCH_CFG_LEG c) == n &&
    (let st := s.get (R.SLCH_STAT_STATE c); st == 1 || st == 6 || st == 7)
/-- The output legs pass to the switching table from the next tick: RIDE, an entry to RIDE that is due, or FORM's limit
(R103, R183, R189). -/
def State.tableRules (s : State) : Bool :=
  s.majorMode == mRIDE || ((s.majorMode == mFOLLOW || s.majorMode == mFORM) && !s.mode.dueRide.isEmpty) ||
  (s.majorMode == mFORM && s.flag R.LOCUS_STAT_LIMIT)

/-- Whether a leg can be given edges: enabled, not tripped, a mode in which legs switch, its port up (R103, R156). -/
def State.legCanRun (s : State) (n : Nat) : Bool :=
  s.switching && s.flag (R.LEG_CTL_EN n) && !s.tripped n && s.linkUp (n / 8)
/-- The leg's limits are confirmed at its node; without that it is given no RESUME (R154). -/
def State.legPushed (s : State) (n : Nat) : Bool := s.flag ((R.PROT_SUM_PUSHED (n / 8)).bit (n % 8))

/-- The source of a leg from the next tick, but for the limits at its node. -/
def State.legWants (s : State) (n : Nat) : LegSrc :=
  let f := s.get (R.LEG_FORCE_MODE n)
  if !s.legCanRun n then .off
  else if f = 3 ∨ s.boostHeld n = true ∨ s.flag R.GC_STAT_CEASE = true then .force 3
  else if s.flag (R.LEG_CTL_OUTPUT n) && s.tableRules then .table
  else if f = 0 then .own
  else .force f

def LegSrc.forced : LegSrc → Option Nat
  | .force m => some m
  | _ => none
def LegSrc.runs : LegSrc → Bool
  | .off => false
  | .force m => m != 3
  | _ => true

/-- The source of a leg from the next tick: a leg that does not switch stays as it is until its limits are confirmed (R154). -/
def State.legTarget (s : State) (n : Nat) : LegSrc :=
  let new := s.legWants n
  if new.runs && !(s.leg n).src.runs && !s.legPushed n then .off else new

/-- The status bits of a leg and FORCE_CHANGE, when the leg's part of the set is released (R104): a set that is discarded shows nothing. -/
def State.legStatus (s : State) (n : Nat) : State :=
  let l := s.leg n
  let m := l.src.forced.getD 0
  let s := ((s.putB (R.LEG_STAT_RUN n) l.src.runs).putB (R.LEG_STAT_TABLE n) (l.src == .table)).putB (R.LEG_STAT_FORCED n) (m != 0)
  if l.force = m then s
  else (s.setLeg n { l with force := m }).emitAt s.issueAt 4 n 0x026 (if m = 0 then l.force else m + 4)

/-- A part of the set as offsets from the start of the next tick. -/
def toContrib (t1 : Int) (withdraw resume : Bool) (edges : List Edge) (samples : List Int) : Contrib :=
  { withdraw, resume, edges := edges.map fun e => { e with t := e.t - t1 }, samples := samples.map (· - t1) }

/-- The leg's part of the set is added, and its edges are scheduled on top of `sched`. -/
def State.addContrib (s : State) (n : Nat) (sw : Sw) (sched : List Edge) (c : Contrib) (remember : Bool) : State :=
  let l := s.leg n
  let edges := c.edges.map fun e => { e with t := e.t + s.w0 }
  let s := s.setLeg n { l with sw, sched := sortEdges (sched ++ edges),
                               last := if remember then { c with withdraw := false, resume := false } else l.last }
  { s with poly := { s.poly with set := s.poly.set ++ [(n, c)] } }

/-- The edges kept before the next tick, which may lie in the window of a sample instant (R98): WIN is at most 65 535 units. -/
def pastEdges (t1 : Int) (sched : List Edge) : List Edge := sched.filter fun e => decide (t1 - 65536 ≤ e.t) && decide (e.t < t1)

/-- One leg's part of the set of tick k (R86, R102). -/
def State.buildLeg (s : State) (n : Nat) : State :=
  let l := s.leg n
  let t1 := s.w0
  let swT := (l.sched.filter fun e => decide (e.t < t1)).foldl Sw.apply l.sw
  let rest := l.sched.filter fun e => decide (t1 ≤ e.t)
  let past := pastEdges t1 l.sched
  let new := s.legTarget n
  let s := s.setLeg n { l with src := new }
  let fresh := l.src != new
  -- A leg that begins to switch is given a RESUME, one whose edges are replaced a WITHDRAW.
  let resume := fresh && !l.src.runs && new.runs
  let withdraw := fresh && l.src.runs
  -- What stays scheduled, and the switches after it.
  let sched := past ++ if fresh then [] else rest
  let sw := if fresh then swT else rest.foldl Sw.apply swT
  match new with
  | .own =>
    let b := if fresh then s.enterOwn n swT past else s.legWindow n sw sched 1
    let b := State.injectIdle b n t1 sched
    let reloaded := fresh || (b.s.leg n).cur != l.cur || (b.s.leg n).midDone != l.midDone
    b.s.addContrib n swT sched (toContrib t1 withdraw resume b.edges b.samples) reloaded
  | .table =>
    let st := Tab.get (fun _ => 0) s.poly.table n
    let b := s.planFixed n t1 sw sched (st == 1) (st == 2)
    let smp := if s.flag (R.LEG_SAMPLE_EN n) then [t1 + s.legDead n + s.get (R.LEG_SAMPLE_WIN n)] else []
    b.s.addContrib n swT sched (toContrib t1 withdraw resume b.edges smp) true
  | .force m =>
    let b := s.planFixed n t1 sw sched (m == 1) (m == 2)
    b.s.addContrib n swT sched (toContrib t1 withdraw resume b.edges []) true
  | .off =>
    if l.src.runs then
      s.addContrib n swT past (toContrib t1 true false (fixedEdges t1 (s.legDead n) swT false false) []) true
    else s.setLeg n { s.leg n with sw := swT, sched := past ++ rest }

/-- Time for which the high side is on from t0 to t1. -/
def highTime (t1 : Int) : Sw → Int → List Edge → Int
  | w, t0, [] => if w.hi then t1 - t0 else 0
  | w, t0, e :: es =>
    if t1 ≤ e.t then highTime t1 w t0 es
    else (if w.hi then max 0 (e.t - t0) else 0) + highTime t1 (w.apply e) (max t0 e.t) es
/-- The high-side on time of a leg in the tick in progress, for Locus in the next (R169). -/
def State.recordOn (s : State) (n : Nat) : State :=
  let l := s.leg n
  s.setLeg n { l with onU := (highTime s.w0 l.sw (toUnits s.time.tickStart) l.sched).toNat }
/-- Output legs that are enabled, and legs that were on before. -/
def State.recordOns (s : State) : State :=
  s.forEach State.recordOn ((List.range 64).filter fun n =>
    (s.flag (R.LEG_CTL_OUTPUT n) && s.flag (R.LEG_CTL_EN n)) || (s.leg n).onU != 0)

/-- The set of tick k is built (R86): Polygon does not build from a Vertex result that is not ready (R87). -/
def State.buildSet (s : State) : State :=
  let s := { s with poly := { s.poly with set := [] } }
  if s.switching && s.vComplete && !s.poly.excused then
    let legs := s.poly.legs
    let s := s.forEach State.buildLeg (List.range 64)
    { s with poly := { s.poly with built := true, before := legs } }
  else s

/-! ## Release (R63, R100, R131) -/

/-- A block of the set with the time that orders it: 0 turn-off, 1 turn-on, 2 sample. -/
structure SetBlock where
  t : Int
  leg : Nat
  kind : Nat
  high : Bool

def SetBlock.before (a b : SetBlock) : Bool :=
  decide (a.t < b.t) || (a.t == b.t && (decide (a.leg < b.leg) || (a.leg == b.leg && decide (a.kind < b.kind))))
def insertBlock (e : SetBlock) : List SetBlock → List SetBlock
  | [] => [e]
  | x :: xs => if e.before x then e :: x :: xs else x :: insertBlock e xs
def sortBlocks : List SetBlock → List SetBlock
  | [] => []
  | e :: es => insertBlock e (sortBlocks es)

def contribBlocks (q : Nat × Contrib) : List SetBlock :=
  (q.2.edges.map fun e => ⟨e.t, q.1 % 8, if e.on then 1 else 0, e.high⟩) ++
  (q.2.samples.map fun t => ⟨t, q.1 % 8, 2, false⟩)
def SetBlock.word (seq : Nat) (b : SetBlock) : Dword :=
  if b.kind = 2 then sampleAtBlock b.leg seq b.t.toNat else edgeBlock b.leg b.high (b.kind == 1) seq b.t.toNat
def prefixBlocks (seq : Nat) (q : Nat × Contrib) : List TxBlk :=
  (if q.2.withdraw then [⟨prSET, 2, q.1 % 8, stateBlock (q.1 % 8) 1 seq 0 0⟩] else []) ++
  (if q.2.resume then [⟨prSET, 2, q.1 % 8, stateBlock (q.1 % 8) 3 seq 0 0⟩] else [])

/-- The blocks of one port: WITHDRAW and RESUME first, then EDGE and SAMPLE-AT in the order of R100. A leg tripped since
the set was built is left out (R155). -/
def State.portBlocks (s : State) (p : Nat) : List TxBlk :=
  let qs := s.poly.set.filter fun q => q.1 / 8 == p && !s.tripped q.1
  (qs.map (prefixBlocks s.nextSeq)).flatten ++
  (sortBlocks (qs.map contribBlocks).flatten).map fun b => ⟨prSET, 2, b.leg, b.word s.nextSeq⟩

/-- The edges of a leg's part of the set are sent ahead to Tangent (R290); a later trip or WITHDRAW takes none of them back. -/
def State.announceLeg (s : State) (q : Nat × Contrib) : State :=
  if s.linkUp (q.1 / 8) && !s.tripped q.1 then
    q.2.edges.foldl (fun s e => s.blankEdge 1 q.1 e.high e.on (s.upOfNow (unitsToQ (e.t + s.w0).toNat))) s
  else s
/-- A leg that is to be given a RESUME while its limits are no longer confirmed stays as it was (R154). -/
def State.withhold (s : State) (q : Nat × Contrib) : State :=
  if q.2.resume && !s.legPushed q.1 then s.legStop q.1 else s
/-- The set is released to every port (R63), and its edges to Tangent. -/
def State.releaseSet (s : State) : State :=
  let s := s.poly.set.foldl State.withhold s
  let s := (s.poly.set.foldl State.announceLeg s).forEach State.legStatus (List.range 64)
  let s := s.forEach (fun s p => if s.linkUp p then s.sendAll p (s.portBlocks p) else s) (List.range 8)
  { s.put R.COM_SET_SEQ s.nextSeq with poly := { s.poly with released := true } }

/-! ## Overrun (R64 to R66, R101) -/

/-- A leg's repeated part: its last contribution, only if a reload point falls in the window. -/
def State.repeatLeg (s : State) (n : Nat) : State :=
  let l := s.leg n
  let t1 := s.w0
  let swT := (l.sched.filter fun e => decide (e.t < t1)).foldl Sw.apply l.sw
  let rest := pastEdges t1 l.sched ++ l.sched.filter fun e => decide (t1 ≤ e.t)
  let L := s.legL n
  match l.src with
  | .own =>
    if l.next < s.w1 then
      (s.setLeg n { l with cur := l.next, next := l.next + L, midDone := !s.flag (R.LEG_CTL_UPD n) }).addContrib n swT rest
        l.last false
    else if !l.midDone && decide (l.cur + L / 2 < s.w1) then
      (s.setLeg n { l with midDone := true }).addContrib n swT rest l.last false
    else s.setLeg n { l with sw := swT, sched := rest }
  | .table => s.addContrib n swT rest l.last false
  | _ => s.setLeg n { l with sw := swT, sched := rest }

/-- The part of R63 that a tick has not met: 8 Vertex unfinished, 9 set not built, 10 set not released, 11 Vertex fault. -/
def State.unmet (s : State) : Option Nat :=
  if s.poly.excused then none
  else if s.ce.faulted then some 11
  else if !s.vComplete then some 8
  else if !s.switching then none
  else if !s.poly.built then some 9
  else if !s.poly.released then some 10
  else none

/-- A leg that continues the period it is in, with nothing added to its schedule. -/
def State.keepLeg (s : State) (n : Nat) : State :=
  let l := s.leg n
  let t1 := s.w0
  s.setLeg n { l with sw := (l.sched.filter fun e => decide (e.t < t1)).foldl Sw.apply l.sw,
                      sched := pastEdges t1 l.sched ++ l.sched.filter fun e => decide (t1 ≤ e.t) }
/-- The set built in this tick and not released is discarded: the leg timers stand as before it (R64). -/
def State.discardSet (s : State) : State :=
  { s with poly := { s.poly with set := [], legs := if s.poly.built && !s.poly.released then s.poly.before else s.poly.legs } }
/-- The repeated set of an overrun. From the second on, the output legs are under the table where the mode puts them there, and are given
nothing where it does not (ISLAND, which HALT follows): no set is released again as a whole a second time (R64, R65). -/
def State.repeatSet (s : State) : State :=
  if s.switching && !s.poly.excused then
    let second := decide (2 ≤ s.get R.SYS_TICK_OVR_CONSEC)
    (s.discardSet.forEach (fun s n =>
      if second && s.flag (R.LEG_CTL_OUTPUT n) then (if s.tableRules then s.buildLeg n else s.keepLeg n)
      else s.repeatLeg n) (List.range 64)).releaseSet
  else s

/-- A transition to RIDE is due at the next tick boundary (R69). -/
def State.rideDue (s : State) (cause : Nat) : State :=
  { s with mode := { s.mode with dueRide := cause :: s.mode.dueRide } }

/-- The consequences of consecutive overruns for the mode (R65, R66). -/
def State.overrunMode (s : State) : State :=
  let c := s.get R.SYS_TICK_OVR_CONSEC
  let m := s.majorMode
  if (m = mFOLLOW ∨ m = mFORM) ∧ 2 ≤ c then s.rideDue 4
  else if m = mISLAND ∧ 2 ≤ c then s.haltDue 12
  else if m = mRIDE ∧ s.get R.SYS_MODE_CFG_OVR_HALT ≤ c then s.haltDue 12
  else s

/-- An overrun at the start of Guard (R64). -/
def State.overrun (s : State) (part : Nat) : State :=
  let s := ((((s.bumpSat R.SYS_TICK_OVR_COUNT).bumpSat R.SYS_TICK_OVR_CONSEC).put R.SYS_TICK_OVR_OVR 1).irq .mode 0 2)
  let s := s.emitAt (s.time.tickStart + s.guardQ) 16 63 0x412
    (s.get R.SYS_TICK_OVR_CONSEC + 2 ^ part + s.tickNo % 2 ^ 24 * 2 ^ 16)
  s.overrunMode.repeatSet

/-! ## Configuration checks (R62, R105) -/

def State.enabledLegs (s : State) : Nat := ((List.range 64).filter fun n => s.flag (R.LEG_CTL_EN n)).length
def State.refreshLegCount (s : State) : State := s.put R.COM_SET_LEGS s.enabledLegs

/-- The checks of R105 for a period P in units: bit 0 the period or MID, bit 1 sampling. -/
def State.legCheck (s : State) (n P : Nat) : Nat :=
  let L := s.get (R.LEG_PER_PER_TICKS n) * P
  let dead := s.get (R.LEG_DEAD_DEAD n)
  let minpw := s.get (R.LEG_MINPW_MINPW n)
  let win := s.get (R.LEG_SAMPLE_WIN n)
  let up := s.flag (R.LEG_CTL_CARRIER n)
  (if L < 2 * (dead + minpw) ∨ (s.flag (R.LEG_CTL_UPD n) && (up || s.get (R.LEG_PER_PER_TICKS n) % 2 == 1)) = true then 1 else 0) +
  (if s.flag (R.LEG_SAMPLE_EN n) = true ∧ (up = true ∨ 2 * win + dead < minpw ∨ L < 4 * (win + dead)) then 2 else 0)
def profileU (fine : Bool) : Nat := if fine then 64000 else 128000
/-- FINE is in effect or pending (R62). -/
def State.finePending (s : State) : Bool := s.fine || s.flag R.SYS_TICK_CFG_PROFILE
/-- Whether a 33rd leg would exceed the profile (R62). -/
def State.legRoom (s : State) : Bool := !s.finePending || decide (s.enabledLegs < 32)

/-- At a profile change, an enabled leg whose checks fail under the new P is disabled (R105). -/
def State.recheckLeg (s : State) (n : Nat) : State :=
  let c := s.legCheck n s.tickU
  if s.flag (R.LEG_CTL_EN n) && c != 0 then (s.putCfg (R.LEG_CTL_EN n) 0).emit 4 n 0x427 c else s
def State.recheckLegs (s : State) : State := (s.forEach State.recheckLeg (List.range 64)).refreshLegCount

/-! ## COMMIT groups (R89) -/

/-- The COMMIT group of a Polygon register. -/
def State.groupOf (s : State) (k : PageKind) (n : Nat) : Nat :=
  if k = .leg then s.get (R.LEG_CTL_GROUP n) else s.get (R.AUXT_CTL_GROUP n)
def State.held (s : State) (g : Nat) : Bool := s.flag (R.COM_HOLD_HOLD.bit g)
/-- A write to a latched field goes to the staging copy. -/
def State.stage4 (s : State) (q : Nat × Nat × Nat × Nat) : State :=
  { s with poly := { s.poly with staged := (s.poly.staged.filter fun r => (r.1, r.2.1, r.2.2.1) != (q.1, q.2.1, q.2.2.1)) ++ [q] } }
/-- The group that owns a register address of a leg or auxiliary page. -/
def State.groupOfAddr (s : State) (a : Nat) : Nat :=
  if a < 0x40140000 then s.groupOf .leg ((a - 0x40100000) / 0x1000) else s.groupOf .auxt ((a - 0x40140000) / 0x1000)
/-- Every staged value of a group moves to the active registers (R89). A staged value waits for a COMMIT of the group that its timer belongs
to then, whether HOLD still stands or not (log 211). -/
def State.commitGroup (s : State) (g : Nat) (atLatch : Bool) : State :=
  let qs := s.poly.staged.filter fun q => s.groupOfAddr q.1 == g
  let s := { s with poly := { s.poly with staged := s.poly.staged.filter fun q => s.groupOfAddr q.1 != g } }
  let s := qs.foldl (fun s q => s.putCfg ⟨q.1, q.2.1, q.2.2.1⟩ q.2.2.2) s
  -- The latch that the COMMIT missed: the Issue start, or the period start of an auxiliary timer (R106, R109).
  let at_ := if qs.all (fun q => decide (0x40140000 ≤ q.1)) then s.time.now else s.issueAt
  if atLatch then
    let was := s.flag (R.COM_CSTAT_LATE.bit g)
    let s := s.put (R.COM_CSTAT_LATE.bit g) 1
    if was then s else s.emitAt at_ 4 63 0x420 (2 ^ 6 + g * 2 ^ 8)
  else s

/-- A host write missed its latch (R88): `bit` names the register in DATA. -/
def State.lateWrite (s : State) (n bit : Nat) : State :=
  s.legFlag n 1 (some (0x420, 2 ^ bit + s.get (R.LEG_CTL_GROUP n) * 2 ^ 8))

end Sys2Proof.Machine
end

