-- ==== Sys2Proof/Machine/Locus.lean ====
section
/-! DEFINITION. Locus (R169 to R197): the observer, the lock detector, the virtual flux, the virtual synchronous machine,
the ride-through regions and the switching table, in the one pass of R173. -/

namespace Sys2Proof.Machine

open Sys2Proof

/-- Rounded and saturated to Locus's 48-bit fixed point (R171). -/
def lq (x : Rat) : Rat := ofFmt (Config.locusFracBits % 48) (fmtS 48 (Config.locusFracBits % 48) x)

def State.setLoc (s : State) (f : LocSt → LocSt) : State := { s with loc := f s.loc }
def State.locState (s : State) : Nat := s.get R.LOCUS_STAT_STATE
def lOFF : Nat := 0
def lSEEK : Nat := 1
def lLOCK : Nat := 2
def lHOLD : Nat := 3
def State.inLock (s : State) : Bool := s.locState == lLOCK

/-- Ts in seconds (R173). -/
def State.tickS (s : State) : Rat := if s.fine then 5 / 1000000 else 10 / 1000000
/-- f_b once it is known, and f_b or 50 Hz (R176). -/
def State.fbKnown (s : State) : Option Nat :=
  if s.loc.nomf = 1 then some 50 else if s.loc.nomf = 2 then some 60 else s.loc.nomAuto
def State.fb (s : State) : Rat := ((s.fbKnown.getD 50 : Nat) : Rat)

/-! ## Inputs (R169 to R172) -/

/-- The code of an AIN channel in its converter word. -/
def State.ainCode (s : State) (c : Nat) : Rat := (elemVal (s.ceWord (0x100 + c))).rat
/-- The phase of an output leg: 0 none, 1 A, 2 B, 3 C. -/
def State.phaseOf (s : State) (n : Nat) : Nat := s.get R.LOCUS_PMAP_MAP / 4 ^ (n / 8) % 4
/-- The enabled output legs of a phase that are not tripped. -/
def State.phaseLegs (s : State) (ph : Nat) : List Nat :=
  (List.range 64).filter fun n =>
    s.flag (R.LEG_CTL_OUTPUT n) && s.flag (R.LEG_CTL_EN n) && s.phaseOf n == ph && !s.tripped n

def sumRat (l : List Rat) : Rat := l.foldl (· + ·) 0
def State.phaseCurrent (s : State) (ph : Nat) : Rat :=
  sumRat ((s.phaseLegs ph).map fun n => (elemVal (s.ceWord (3 * n))).rat) * ofFmt 32 (s.get R.LOCUS_KI)
def State.onFraction (s : State) (ph : Nat) : Rat :=
  let ls := s.phaseLegs ph
  if ls.isEmpty then 0 else sumRat (ls.map fun n => ((s.leg n).onU : Rat) / (s.tickU : Rat)) / (ls.length : Rat)
/-- An output leg switches: its source runs and the legs are not ceased (R177). -/
def State.outputSwitches (s : State) : Bool :=
  s.switching && !s.flag R.RT_STAT_CEASE &&
    ([1, 2, 3].any fun ph => (s.phaseLegs ph).any fun n => (s.leg n).src.runs)

/-- The amplitude-invariant Clarke transform. -/
def clarke (a b c : Rat) : Rat × Rat := ((2 * a - b - c) / 3, (b - c) / sqrtR 3)

/-- The words of the input stage that a pass reads (R169, R172). -/
def State.locReads (s : State) (a : Nat) : Bool :=
  [R.LOCUS_SRC_VA, R.LOCUS_SRC_VB, R.LOCUS_SRC_VC, R.LOCUS_SRC_VDC].any (fun f => 0x100 + s.get f == a) ||
    [1, 2, 3].any fun ph => (s.phaseLegs ph).any fun n => 3 * n == a
/-- The frozen inputs of a pass, in per unit. -/
structure LocIn where
  va : Rat
  vb : Rat
  vc : Rat
  vdc : Rat
  ia : Rat
  ib : Rat
  ic : Rat
  al : Rat
  be : Rat
  ial : Rat
  ibe : Rat
  ual : Rat
  ube : Rat

def State.locIn (s : State) : LocIn :=
  let kv := ofFmt 32 (s.get R.LOCUS_KV)
  let va := lq (s.ainCode (s.get R.LOCUS_SRC_VA) * kv)
  let vb := lq (s.ainCode (s.get R.LOCUS_SRC_VB) * kv)
  let vc := lq (s.ainCode (s.get R.LOCUS_SRC_VC) * kv)
  let vdc := lq (s.ainCode (s.get R.LOCUS_SRC_VDC) * ofFmt 32 (s.get R.LOCUS_KDC))
  let ia := lq (s.phaseCurrent 1)
  let ib := lq (s.phaseCurrent 2)
  let ic := lq (s.phaseCurrent 3)
  let v := clarke va vb vc
  let i := clarke ia ib ic
  let u := clarke (s.onFraction 1 * vdc) (s.onFraction 2 * vdc) (s.onFraction 3 * vdc)
  let c := if s.loc.jump = 0 then 1 else cosT s.loc.jump
  let d := if s.loc.jump = 0 then 0 else sinT s.loc.jump
  { va, vb, vc, vdc, ia, ib, ic, al := lq (v.1 * c - v.2 * d), be := lq (v.1 * d + v.2 * c), ial := lq i.1, ibe := lq i.2,
    ual := lq u.1, ube := lq u.2 }

/-! ## The observer (R174 to R176) -/

/-- Entry to SEEK. -/
def State.enterSeek (s : State) : State :=
  let n := s.get R.LOCUS_CTL_NOMF
  let nomf := if n = 3 then 0 else n
  let s := s.setLoc fun l =>
    { l with nomf, f := if nomf = 1 then 50 else if nomf = 2 then 60 else 55, va1 := 0, va2 := 0, vb1 := 0, vb2 := 0,
             good := 0 }
  s.put R.LOCUS_STAT_STATE lSEEK

/-- One trapezoidal step of an integrator pair with h = ω Ts / 2: input u0 before and u now. -/
def sogi (h K x1 x2 u0 u : Rat) : Rat × Rat :=
  let r0 := (1 - h * K) * x1 - h * x2 + h * K * (u0 + u)
  let r1 := h * x1 + x2
  let det := 1 + h * K + h * h
  (lq ((r0 - h * r1) / det), lq ((h * r0 + (1 + h * K) * r1) / det))

/-- The clamp of the loop frequency. -/
def State.fRange (s : State) : Rat × Rat :=
  match s.fbKnown with
  | some b => ((b : Rat) - 10, (b : Rat) + 10)
  | none => (40, 70)

/-- One step of the observer. The trapezoidal rule takes the frequency of the last step on both sides; the frequency follows by one
forward step with this step's error (log entry 240). -/
def State.observe (s : State) (i : LocIn) : State :=
  let l := s.loc
  let K := ofFmt 6 (s.get R.LOCUS_OBS_K)
  let G := ofFmt 8 (s.get R.LOCUS_OBS_GAMMA)
  let h := piR * l.f * s.tickS
  let a := sogi h K l.va1 l.va2 l.ua i.al
  let b := sogi h K l.vb1 l.vb2 l.ub i.be
  let vpa := lq ((a.1 - b.2) / 2)
  let vpb := lq ((a.2 + b.1) / 2)
  let vna := lq ((a.1 + b.2) / 2)
  let vnb := lq ((b.1 - a.2) / 2)
  let vp2 := vpa * vpa + vpb * vpb
  let vpos := lq (sqrtR vp2)
  let err := (i.al - a.1) * a.2 + (i.be - b.1) * b.2
  let quo := if vp2 = 0 then Config.quotientAtZero else err / vp2
  let df := if vpos < ofFmt 8 (s.get R.LOCUS_LOCK_VMIN) then 0 else -G * K * l.f * quo
  let f := lq (clampR s.fRange.1 s.fRange.2 (l.f + s.tickS * df))
  let live := lq (angleT vpb vpa)
  let e := lq (wrapHalf (angleT (i.be - vnb) (i.al - vna) - live))
  let r3 := sqrtR 3 / 2
  let ma := hyp a.1 a.2
  let mb := hyp (-a.1 / 2 + r3 * b.1) (-a.2 / 2 + r3 * b.2)
  let mc := hyp (-a.1 / 2 - r3 * b.1) (-a.2 / 2 - r3 * b.2)
  let vmin := lq (min ma (min mb mc))
  let vmax := lq (max ma (max mb mc))
  let rocof := lq (lowPass s.tickS (1 / 10) l.rocof ((f - l.f) / s.tickS))
  s.setLoc fun l =>
    { l with va1 := a.1, va2 := a.2, vb1 := b.1, vb2 := b.2, ua := i.al, ub := i.be, f, live, e, vpa, vpb, vna, vnb,
             vpos, vminR := vmin, vmaxR := vmax, vmin := fmtU 16 12 vmin, vmax := fmtU 16 12 vmax, rocof }

/-! ## The lock detector (R178, R179) -/

def State.atClamp (s : State) : Bool := decide (s.loc.f ≤ s.fRange.1) || decide (s.fRange.2 ≤ s.loc.f)
def State.lowV (s : State) : Bool := decide (s.loc.vpos < ofFmt 8 (s.get R.LOCUS_LOCK_VMIN))
def State.jumped (s : State) : Bool := decide (ofFmt 10 (s.get R.LOCUS_LOCK_JUMP_TH) < absR s.loc.e)

/-- A loss of lock: LOCK to HOLD. -/
def State.lockLost (s : State) : State :=
  let err := satN 8 (rnd 10 (absR s.loc.e)).toNat
  let jump := s.jumped
  let low := s.lowV
  let clamp := s.atClamp
  let holdf := s.loc.freq
  let reg := fmtU 32 16 holdf
  let s := s.setLoc fun l =>
    { l with holdf, htheta := l.theta, va1 := 0, va2 := 0, vb1 := 0, vb2 := 0, f := holdf, good := 0 }
  let s := (((s.put R.LOCUS_STAT_STATE lHOLD).put R.LOCUS_HOLDF reg).bumpSat R.LOCUS_STAT_LOSSES).put R.LOCUS_LOSS
    (err + jump.toNat * 2 ^ 8 + low.toNat * 2 ^ 9 + clamp.toNat * 2 ^ 10)
  (s.irq .locus 0 1).emit 7 63 0x451
    (jump.toNat + 2 * low.toNat + 4 * clamp.toNat + err * 8 + reg / 16 % 2 ^ 24 * 2 ^ 11)

/-- A gain of lock; at the first lock under NOMF 0b00, f_b is chosen (R176). -/
def State.lockGained (s : State) : State :=
  let chosen := s.loc.nomf == 0 && s.loc.nomAuto.isNone
  let s := if chosen then s.setLoc fun l => { l with nomAuto := some (if l.f < 55 then 50 else 60) } else s
  ((s.put R.LOCUS_STAT_STATE lLOCK).irq .locus 0 0).emit 7 63 0x050 (fmtU 32 16 s.loc.f + chosen.toNat * 2 ^ 32)

/-- Time for which the conditions of lock have held, this tick included (R176). -/
def State.lockGood (s : State) : Nat :=
  if decide (absR s.loc.e < ofFmt 10 (s.get R.LOCUS_LOCK_LOCK_TH)) && !s.lowV && !s.atClamp then s.loc.good + s.tickQ else 0
def State.lockTrack (s : State) : State := s.setLoc fun l => { l with good := s.lockGood }
/-- They have held for LOCK_T. -/
def State.lockHeld (s : State) : Bool := decide (msQ (s.get R.LOCUS_LOCK_LOCK_T) ≤ s.loc.good)
/-- One judgement; the second part tells whether lock was lost. -/
def State.lockJudge (s : State) : State × Bool :=
  if s.inLock then
    if s.jumped || s.lowV || s.atClamp then (s.lockLost, true) else (s, false)
  else if s.lockTrack.lockHeld then (s.lockTrack.lockGained, false)
  else (s.lockTrack, false)

/-- The frequency and angle outputs: held in HOLD, the loop's otherwise. -/
def State.outputs (s : State) : State :=
  if s.locState = lHOLD then
    let th := lq (frac (s.loc.htheta + s.loc.holdf * s.tickS))
    s.setLoc fun l => { l with htheta := th, theta := th, freq := l.holdf }
  else s.setLoc fun l => { l with theta := l.live, freq := l.f }

/-! ## Flux, power and machine (R177, R182, R183) -/

def State.wPu (s : State) : Rat := lq (s.loc.freq / s.fb)

def State.flux (s : State) (i : LocIn) : State :=
  let leak := 1 - s.tickS / ((s.get R.LOCUS_VF_TLEAK : Nat) / 100 : Rat)
  let g := 2 * piR * s.fb * s.tickS
  let sw := s.outputSwitches
  let lamA := lq (s.loc.lamA * leak + g * (if sw then i.ual else i.al))
  let lamB := lq (s.loc.lamB * leak + g * (if sw then i.ube else i.be))
  let lf := if sw then ofFmt 16 (s.get R.LOCUS_VF_LF) else 0
  s.setLoc fun l => { l with lamA, lamB, psiA := lq (lamA - lf * i.ial), psiB := lq (lamB - lf * i.ibe) }

def State.power (s : State) (i : LocIn) : State :=
  let l := s.loc
  if s.flag R.LOCUS_CTL_PQSRC then
    let w := s.wPu
    s.setLoc fun l =>
      { l with p := lq (w * (l.psiA * i.ibe - l.psiB * i.ial)), q := lq (w * (l.psiA * i.ial + l.psiB * i.ibe)),
               gamma := lq (frac (angleT l.psiB l.psiA + 1 / 4)) }
  else
    s.setLoc fun _ =>
      { l with p := lq (i.al * i.ial + i.be * i.ibe), q := lq (i.be * i.ial - i.al * i.ibe),
               gamma := lq (angleT (i.be - l.vnb) (i.al - l.vna)) }

def State.limitOn (s : State) : Bool := s.flag R.LOCUS_STAT_LIMIT
def State.ilim (s : State) : Rat := ofFmt 12 (s.get R.RT_CTL_ILIM)

/-- The largest phase current, and the setting of LIMIT in FORM. -/
def State.limitJudge (s : State) (i : LocIn) : State :=
  let s := s.setLoc fun l => { l with imax := max (absR i.ia) (max (absR i.ib) (absR i.ic)) }
  if s.majorMode = mFORM ∧ s.limitOn = false ∧ s.ilim < s.loc.imax then
    (s.put R.LOCUS_STAT_LIMIT 1).setLoc fun l => { l with limFor := 0, limClr := false }
  else s

/-- pm of R182 at frequency w. -/
def State.pmAt (s : State) (w : Rat) : Rat := lq (s.loc.pset + (1 - w) / ofFmt 16 (s.get R.LOCUS_VSM2_RF))

def State.machine (s : State) : State :=
  if s.majorMode = mFORM ∧ s.limitOn = false then
    let l := s.loc
    let w := l.w
    let wg := if s.inLock then s.wPu else w
    let D := ofFmt 4 (s.get R.LOCUS_VSM0_D)
    let H := ofFmt 8 (s.get R.LOCUS_VSM0_H)
    let pm := s.pmAt w
    let w' := lq (w + s.tickS * (pm - l.p - D * (w - wg)) / (2 * H))
    let th := lq (frac (l.tvsm + w' * s.fb * s.tickS))
    let E := lq (1 + ofFmt 16 (s.get R.LOCUS_VSM1_KQ) * (l.qset - l.q))
    s.setLoc fun l => { l with w := w', tvsm := th, E, pm, delta := lq (wrapHalf (th - l.theta)) }
  else s.setLoc fun l => { l with w := s.wPu, pm := s.pmAt s.wPu, tvsm := lq (frac (l.theta + l.delta)) }

/-- The clearing of LIMIT is judged from the demanded current. -/
def State.limitClear (s : State) : State :=
  if s.majorMode = mFORM ∧ s.limitOn = true then
    let l := s.loc
    let x := l.E * cosT l.tvsm - l.vpos * cosT l.theta
    let y := l.E * sinT l.tvsm - l.vpos * sinT l.theta
    let demand := hyp x y / ofFmt 16 (s.get R.LOCUS_VSM1_XV)
    let t := if demand < 95 / 100 * s.ilim then l.limFor + s.tickQ else 0
    s.setLoc fun l => { l with limFor := t, limClr := l.limClr || decide (msQ 20 ≤ t) }
  else s

/-! ## Ride-through regions (R190, R191) -/

def State.usedUnder (s : State) : List Nat := [0, 1, 2, 3].filter fun r => s.get (R.RT_REG_TYPE r) != 0
def State.usedOver (s : State) : List Nat := [4, 5, 6, 7].filter fun r => s.get (R.RT_REG_TYPE r) != 0
def State.rtBound (s : State) (r : Nat) : Nat := s.get (R.RT_REG_BOUND r)
def State.contLo (s : State) : Nat := (s.usedUnder.head?.map s.rtBound).getD 0
def State.contHi (s : State) : Nat := (s.usedOver.head?.map s.rtBound).getD 65535
/-- The occupied region of a side is the furthest whose bound is passed. -/
def State.occUnder (s : State) : Option Nat := (s.usedUnder.filter fun r => decide (s.loc.vminR < ofFmt 12 (s.rtBound r))).getLast?
def State.occOver (s : State) : Option Nat := (s.usedOver.filter fun r => decide (ofFmt 12 (s.rtBound r) < s.loc.vmaxR)).getLast?
def rtMAND : Nat := 1
def rtMC : Nat := 2
/-- The applying region, 15 for the continuous band. -/
def State.applying (s : State) : Nat :=
  match s.occUnder, s.occOver with
  | none, none => 15
  | some r, none => r
  | none, some r => r
  | some u, some o =>
    let du := s.usedUnder.idxOf u
    let d := s.usedOver.idxOf o
    if du < d then o else if d < du then u
    else if s.get (R.RT_REG_TYPE u) < s.get (R.RT_REG_TYPE o) then o else u

def noTime (_ : Nat) : Nat := 0
def State.rtTimer (s : State) (r : Nat) : Nat := Tab.get noTime s.loc.timers r
def State.setRtTimer (s : State) (r t : Nat) : State :=
  (s.setLoc fun l => { l with timers := Tab.set noTime l.timers r t }).put (R.RT_TIME_ELAPSED r) (satN 12 (t / msQ 10))

def State.rtAdvance (s : State) : State :=
  if s.applying = 15 then
    let b := s.loc.bandFor + s.tickQ
    let s := s.setLoc fun l => { l with bandFor := b }
    if msQ (s.get R.RT_RIDE_RET_T) ≤ b then
      (s.forEach (fun s r => s.setRtTimer r 0) (List.range 8)).setLoc fun l => { l with atMax := [] }
    else s
  else
    let s := s.setLoc fun l => { l with bandFor := 0 }
    let us := s.usedUnder.filter fun r => match s.occUnder with | some u => decide (r ≤ u) | none => false
    let os := s.usedOver.filter fun r => match s.occOver with | some o => decide (r ≤ o) | none => false
    s.forEach (fun s r => s.setRtTimer r (s.rtTimer r + s.tickQ)) (us ++ os)

/-- A timer at or beyond its MAX: the flag in every mode, HALT with cause 11 in RIDE. -/
def State.rtLimit (s : State) (r : Nat) : State :=
  let mx := s.get (R.RT_REG_MAX r)
  if s.get (R.RT_REG_TYPE r) ≠ 0 ∧ msQ 10 * mx ≤ s.rtTimer r then
    let s := if s.loc.atMax.contains r then s else
      (s.irq .rt 0 1).setLoc fun l => { l with atMax := r :: l.atMax }
    if s.majorMode = mRIDE then (s.emit 7 63 0x854 (r + mx * 8)).haltDue 11 else s
  else s

/-! ## References and the table (R184 to R187) -/

/-- The FORM references of R187. -/
def State.formRefs (s : State) : Rat × Rat :=
  let l := s.loc
  let p := l.pm
  let q := lq ((l.E - l.vpos) * l.vpos / ofFmt 16 (s.get R.LOCUS_VSM1_XV))
  if s.limitOn then
    let m := hyp p q
    let k := if m = 0 then 1 else min 1 (s.ilim * l.vpos / m)
    (lq (p * k), lq (q * k))
  else (p, q)
def State.followRefs (s : State) : Rat × Rat := (if s.nightvar then 0 else s.loc.pset, s.loc.qset)

/-- The restoration ramp from 0 to 1 over RAMP. -/
def State.rampGain (s : State) : Rat :=
  match s.loc.ramp with
  | none => 1
  | some t0 => min 1 (((s.time.tickStart - t0 : Nat) : Rat) / ((msQ 10 * s.get R.RT_RIDE_RAMP : Nat) : Rat))
def State.rideRefs (s : State) (r : Nat) : Rat × Rat :=
  let l := s.loc
  let lim := s.ilim * l.vpos
  let kqr := ofFmt 8 (s.get R.RT_RIDE_KQR)
  let k := s.rampGain
  if r = 15 then (lq (l.pPre * k), 0)
  else if s.get (R.RT_REG_TYPE r) = rtMC then (0, 0)
  else
    let d : Rat := if r < 4 then ofFmt 12 s.contLo - l.vminR else ofFmt 12 s.contHi - l.vmaxR
    let q := clampR (-lim) lim (kqr * d * l.vpos)
    let p := min l.pPre (sqrtR (lim * lim - q * q))
    (lq (p * k), lq (q * k))

/-- A hysteresis comparator. -/
def hyst (band e : Rat) (was : Bool) : Bool := if band < e then true else if e < -band then false else was
/-- The phases that a vector drives high: bit 0 A, bit 1 B, bit 2 C (R186). -/
def vectorBits (v : Nat) : Nat := [0, 1, 3, 2, 6, 4, 5, 7].getD v 0
def nextVec (v k : Nat) : Nat := (v - 1 + k) % 6 + 1
def zeroVec (prev : Nat) : Nat := if [2, 4, 6, 7].contains prev then 7 else 0
/-- The table of R186. -/
def tableVec (sector : Nat) (sp sq : Bool) (prev : Nat) : Nat :=
  let v := sector / 2 + 1
  match sp, sq with
  | true, true => v
  | true, false => nextVec v 1
  | false, true => if sector % 2 = 0 then nextVec v 5 else zeroVec prev
  | false, false => nextVec v 2

/-- The state of every output leg under the table: 1 high, 2 low, 3 both off (R188). -/
def State.giveTable (s : State) (cease : Bool) (vec : Nat) : State :=
  let st (n : Nat) : Nat :=
    let ph := s.phaseOf n
    if cease || ph == 0 then 3 else if (vectorBits vec).testBit (ph - 1) then 1 else 2
  { s with poly := { s.poly with table := (List.range 64).foldl (fun t n => Tab.set (fun _ => 0) t n (st n)) [] } }

/-- Ppre as a pass takes it: in the pass that enters RIDE it becomes P* of the pass before (R187, R189; log entry 239). -/
def State.ppreNow (s : State) (rideNow : Bool) : State :=
  if rideNow && s.majorMode != mRIDE then s.setLoc fun l => { l with pPre := l.pLast } else s
/-- The decision of a tick of FOLLOW, FORM or RIDE, with Ppre by `ppreNow` (DESIGN CHOICE after STANDBY, log 239). -/
def State.tableDecide (s : State) (rideNow mc : Bool) : State :=
  let s := s.ppreNow rideNow
  let refs := if rideNow then s.rideRefs s.applying else if s.majorMode = mFORM then s.formRefs else s.followRefs
  let s := s.setLoc fun l => { l with pPre := if rideNow then l.pPre else refs.1, pLast := refs.1 }
  let sp := hyst (ofFmt 16 (s.get R.LOCUS_DPC_HP)) (refs.1 - s.loc.p) (s.flag R.LOCUS_STAT_SP)
  let sq := hyst (ofFmt 16 (s.get R.LOCUS_DPC_HQ)) (refs.2 - s.loc.q) (s.flag R.LOCUS_STAT_SQ)
  let sector := (12 * s.loc.gamma).floor.toNat % 12
  let vec := tableVec sector sp sq s.loc.prevVec
  let s := s.setLoc fun l => { l with prevVec := vec }
  let s := (((s.putB R.LOCUS_STAT_SP sp).putB R.LOCUS_STAT_SQ sq).put R.LOCUS_STAT_SECTOR sector).put R.LOCUS_STAT_VEC vec
  s.giveTable mc vec

/-! ## The pass (R173, R189, R192) -/

/-- Results to the status registers (R195) and the Vertex slots (R255). -/
def State.locPublish (s : State) : State :=
  let l := s.loc
  let s := (((((((((s.put R.LOCUS_TICK_TICK s.tickNo).put R.LOCUS_THETA (fmtAngle l.theta)).put R.LOCUS_FREQ
    (fmtU 32 16 l.freq)).putI R.LOCUS_ROCOF (fmtS 32 16 l.rocof)).putI R.LOCUS_VPOS (fmtS 32 24 l.vpos)).putI
    R.LOCUS_VNEG (fmtS 32 24 (hyp l.vna l.vnb))).put R.LOCUS_VPH_VMIN l.vmin).put R.LOCUS_VPH_VMAX l.vmax).putI
    R.LOCUS_P (fmtS 32 24 l.p)).putI R.LOCUS_Q (fmtS 32 24 l.q)
  (s.putB R.LOCUS_STAT_NOMVALID s.fbKnown.isSome).putB R.LOCUS_STAT_NOMSEL (s.fbKnown == some 60)

def angSlot (x : Rat) : Nat := packFmt 32 (fmtAngle x)
def puSlot (x : Rat) : Nat := packFmt 24 (fmtS 32 24 x)
def State.slotWords (s : State) (i : LocIn) (drives : Bool) : List Nat :=
  let l := s.loc
  let flags := s.inLock.toNat + 2 * (s.locState == lHOLD).toNat + 4 * s.limitOn.toNat + 8 * s.get R.LOCUS_STAT_RET +
    16 * drives.toNat + 32 * s.get R.RT_STAT_CEASE + 64 * s.get R.LOCUS_STAT_NOMSEL + 128 * s.get R.LOCUS_STAT_NOMVALID
  [angSlot l.theta, puSlot (cosT l.theta), puSlot (sinT l.theta), packFmt 16 (fmtU 32 16 l.freq),
   packFmt 16 (fmtS 32 16 l.rocof)] ++
  [l.vpa, l.vpb, l.vna, l.vnb, l.vpos, l.vminR, l.vmaxR, i.ia, i.ib, i.ic, i.ial, i.ibe, i.va, i.vb, i.vc, i.vdc, l.p, l.q,
   l.pset, l.qset].map puSlot ++
  [angSlot l.tvsm, puSlot (cosT l.tvsm), puSlot (sinT l.tvsm), puSlot l.w, puSlot l.E,
   puSlot (ofFmt 16 (s.get R.LOCUS_VSM1_XV)), angSlot l.delta, puSlot l.psiA, puSlot l.psiB, packInt flags,
   packInt s.applying]
def State.putSlots (s : State) (a : Nat) : List Nat → State
  | [] => s
  | w :: ws => (s.setCeWord a w).putSlots (a + 1) ws

/-- Regions, transitions, the return from RIDE and the table decision. -/
def State.rideJudge (s : State) (lost : Bool) : State × Bool :=
  let m := s.majorMode
  let app := s.applying
  let s := s.forEach State.rtLimit (List.range 8)
  let ff := m == mFOLLOW || m == mFORM
  let entering := ff && (lost || app != 15)
  let s := if entering then s.rideDue 3 else s
  let rideNow := m == mRIDE || entering
  let mc := rideNow && app != 15 && s.get (R.RT_REG_TYPE app) == rtMC
  let ok := m == mRIDE && s.inLock && app == 15 && s.get R.SYS_TICK_OVR_CONSEC == 0
  let rf := if ok then s.loc.retFor + s.tickQ else 0
  let ret := ok && decide (msQ (s.get R.RT_RIDE_RET_T) ≤ rf)
  let s := (s.setLoc fun l => { l with retFor := rf }).putB R.LOCUS_STAT_RET ret
  let s := if ret then { s with mode := { s.mode with dueReturn := true } } else s
  let s := if rideNow then
      if mc then s.setLoc fun l => { l with wasMc := true, ramp := none }
      else if s.loc.wasMc then s.setLoc fun l => { l with wasMc := false, ramp := some s.time.tickStart }
      else s
    else s
  let s := s.putB R.RT_STAT_CEASE mc
  let s := if ff || m == mRIDE then s.tableDecide rideNow mc else s
  let s := s.put R.RT_STAT_ELAPSED (if app = 15 then 0 else satN 16 (s.rtTimer app / msQ 10))
  let s := if s.get R.RT_STAT_REGION = app then s else
    ((s.put R.RT_STAT_REGION app).irq .rt 0 0).emit 7 63 0x453 (app + mc.toNat * 16 + s.loc.vmin * 2 ^ 5 + s.loc.vmax * 2 ^ 21)
  (s, rideNow || (m == mFORM && s.limitOn))

/-- The pass of Locus on the frozen inputs of the tick. -/
def State.locusPass (s : State) : State :=
  let m := s.majorMode
  if !s.flag R.LOCUS_CTL_EN || m == mDARK || m == mWAKE then
    let s := (s.put R.LOCUS_STAT_STATE lOFF).setLoc fun l => { l with good := 0 }
    s.setCeWord 0x192 (packInt (64 * s.get R.LOCUS_STAT_NOMSEL + 128 * s.get R.LOCUS_STAT_NOMVALID))
  else
    let i := s.locIn
    let s := s.ceSees s.locReads
    let s := if s.locState = lOFF then s.enterSeek else s
    let (s, lost) := (s.observe i).lockJudge
    let s := (((s.outputs.flux i).power i).limitJudge i).machine.limitClear.rtAdvance
    let (s, drives) := s.rideJudge lost
    let s := s.locPublish
    s.putSlots 0x170 (s.slotWords i drives)

/-! ## The tick boundary -/

/-- Front setpoints (R181) and the angle offset of TEST (R194) at a tick start. -/
def State.locTickStart (s : State) : State :=
  let s := if s.testActive then s else if s.get R.LOCUS_TEST_JUMP = 0 then s else s.putCfg R.LOCUS_TEST_JUMP 0
  let s := s.setLoc fun l =>
    { l with pset := ofFmt 24 (s.getI R.LOCUS_PSET), qset := ofFmt 24 (s.getI R.LOCUS_QSET),
             jump := ofFmt 16 (s.getI R.LOCUS_TEST_JUMP) }
  (s.setCeWord 0x187 (puSlot s.loc.pset)).setCeWord 0x188 (puSlot s.loc.qset)

/-- LIMIT as the mode page reports it from a boundary (R183), with the mode before and after it. -/
def State.limitBoundary (s : State) (old new : Nat) : State :=
  let on := old == mFORM && new == mFORM && s.limitOn && !s.loc.limClr
  let was := s.flag R.SYS_MODE_STAT_LIMIT
  let s := ((s.putB R.LOCUS_STAT_LIMIT on).putB R.SYS_MODE_STAT_LIMIT on).setLoc fun l => { l with limClr := false }
  if was == on then s else
    (s.irq .locus 0 2).emit 7 63 0x052 (on.toNat + fmtU 16 12 s.loc.imax * 2)

/-- Locus at a change of the major mode. -/
def State.locModeChange (s : State) (old new : Nat) : State :=
  let s := if new = mSTANDBY then ((s.put R.LOCUS_STAT_SP 0).put R.LOCUS_STAT_SQ 0).setLoc fun l => { l with prevVec := 0 } else s
  let s := if new = mDARK ∨ new = mWAKE then s.put R.LOCUS_STAT_STATE lOFF else s
  let s := if new = mRIDE then s else
    (s.put R.RT_STAT_CEASE 0).setLoc fun l => { l with wasMc := false, ramp := none, retFor := 0 }
  let s := if old = new then s else s.put R.LOCUS_STAT_RET 0
  s

end Sys2Proof.Machine
end

