-- ==== Sys2Proof/Machine/GridCode.lean ====
section
/-! DEFINITION. The grid-code engine (R198 to R204) and the islanding detector (R205 to R215). -/

namespace Sys2Proof.Machine

open Sys2Proof

/-! ## The active method's slot grid (R206, R207) -/

/-- The slot in progress, counted since the epoch, and its number on the grid. -/
def State.slotLen (s : State) : Nat := max 1 (s.get R.ISL_SLOT_SLOT_MS)
def State.slotCount (s : State) : Nat := s.time.tickStart / msQ 1 / s.slotLen
def State.gridSlot (s : State) (no : Nat) : Nat := no % (s.get R.ISL_SLOT_NSLOT_M1 + 1)
def State.islanded (s : State) : Bool := s.flag R.ISL_STAT_ISLANDED
/-- The modes in which a unit may inject. -/
def State.injMode (s : State) : Bool :=
  s.majorMode == mFOLLOW || (s.majorMode == mFORM && !s.islanded)
def State.injTime (s : State) : Bool := s.flag R.TIME_STAT_TLOCK || s.flag R.ISL_CTL_SOLO
def State.injects (s : State) : Bool :=
  s.flag R.ISL_CTL_ACT_EN && s.injMode && s.injTime && s.gridSlot s.slotCount == s.get R.ISL_CTL_SLOT_ID
/-- The perturbation: +DQ in the first half of the slot, −DQ in the second. -/
def State.perturb (s : State) : Rat :=
  if s.injects then
    let dq := ofFmt 12 (s.get R.ISL_PERT_DQ)
    if 2 * (s.time.tickStart / msQ 1 % s.slotLen) < s.slotLen then dq else -dq
  else 0
/-- SUSP follows the lack of time lock (R207). -/
def State.suspJudge (s : State) : State :=
  let b := s.flag R.ISL_CTL_ACT_EN && s.injMode && !s.injTime
  if s.flag R.ISL_STAT_SUSP == b then s else
    ((s.putB R.ISL_STAT_SUSP b).irq .isl 0 1).emit 7 63 0x461 b.toNat

/-! ## The grid-code engine -/

/-- Time constant of a filter that reaches 90 % of a step in t seconds. -/
def tau90 (t : Rat) : Rat := t / (23026 / 10000)
def gcStep (t x target : Rat) : Rat := lowPass (1 / 1000) (tau90 t) x target
/-- Saturated to the per-unit format of R171 and not rounded: a filter's value between evaluations (R200). -/
def puSat (x : Rat) : Rat := clampR (-128) (ofFmt 24 (2 ^ 31 - 1)) x

/-- The piecewise linear volt-var target through (Vi, Qi) (R201). -/
def vvTarget (v : Rat) : List (Rat × Rat) → Rat
  | [] => 0
  | [p] => p.2
  | p :: q :: rest =>
    if v ≤ p.1 then p.2
    else if v < q.1 then p.2 + (q.2 - p.2) * (v - p.1) / (q.1 - p.1)
    else vvTarget v (q :: rest)

/-- One evaluation's inputs: f, V+, Vmax. -/
def State.gcInputs (s : State) : Rat × Rat × Rat :=
  if s.inLock then (s.loc.freq, s.loc.vpos, s.loc.vmaxR) else s.gc.seen.getD Config.gcBeforeLock

/-- The factor of the cease-to-energise ramp (R211). -/
def State.rampDown (s : State) : Rat :=
  match s.isl.entered with
  | some t =>
    if s.majorMode = mISLAND then
      if s.isl.ceased then 0
      else max 0 (1 - ((s.time.tickStart - t : Nat) : Rat) / ((msQ (s.get R.ISL_CLR_RAMP) : Nat) : Rat))
    else 1
  | none => 1

/-- Volt-var, volt-watt and frequency-watt filters of one evaluation; `pin` is the power before frequency-watt and pb
the power asked for. -/
def State.gcVolt (s : State) (x : Rat × Rat × Rat) : State :=
  let auto := s.flag R.GC_CTL_VREF_AUTO
  let vref := if auto then clampR (95 / 100) (105 / 100) (lowPass (1 / 1000) (s.get R.GC_VVT_VREF_T) s.gc.vref x.2.1)
    else ofFmt 12 (s.get R.GC_VREF_VREF)
  let pts := [0, 1, 2, 3].map fun i => (ofFmt 12 (s.get (R.GC_VV_V i)) + (vref - 1), ofFmt 12 (s.getI (R.GC_VV_Q i)))
  let vv := puSat (gcStep (s.get R.GC_VVT_TRESP / 10) s.gc.vv (vvTarget x.2.1 pts))
  let v1 := ofFmt 12 (s.get R.GC_VW_V1)
  let v2 := ofFmt 12 (s.get R.GC_VW_V2)
  let p2 := ofFmt 12 (s.getI R.GC_VW2_P2)
  let t := if x.2.2 ≤ v1 then 1 else if v2 ≤ x.2.2 then p2 else 1 + (p2 - 1) * (x.2.2 - v1) / (v2 - v1)
  let pvw := puSat (gcStep (s.get R.GC_VW2_TRESP / 10) s.gc.pvw t)
  { s with gc := { s.gc with vref, vv, pvw, seen := some x } }

/-- Whether f lies outside the deadband (R203). -/
def State.outsideDb (s : State) (f : Rat) : Bool :=
  let db : Rat := s.get R.GC_FW_DB / 1000
  decide (f < s.fb - db) || decide (s.fb + db < f)
def State.gcFreq (s : State) (f pin pb : Rat) : State :=
  let db : Rat := s.get R.GC_FW_DB / 1000
  let fn := s.fb
  let k := ofFmt 16 (s.get R.GC_FW_K)
  let g := s.gc
  if s.outsideDb f then
    let target := if fn + db < f then max (ofFmt 12 (s.getI R.GC_FW2_PMIN)) (g.ppre - (f - fn - db) / (fn * k))
      else min pb (g.ppre + (fn - db - f) / (fn * k))
    { s with gc := { g with pfw := puSat (gcStep (s.get R.GC_FW2_TRESP / 100) g.pfw target) } }
  else { s with gc := { g with pfw := pin, ppre := pin } }

/-- Volt-watt, then CURTAIL: the limited power and which of the two binds. -/
def State.gcCaps (s : State) (pt : Rat) : Rat × Bool × Bool :=
  let vw := s.flag R.GC_CTL_VW_EN && decide (s.gc.pvw < pt)
  let p1 := if vw then s.gc.pvw else pt
  let cl := ofFmt 12 (s.get R.GC_CURT_CURT)
  let c := s.curtail && decide (cl < p1)
  (if c then cl else p1, vw, c)

/-- The reactive target (R201). -/
def State.qTarget (s : State) (pt : Rat) : Rat :=
  let m := s.get R.GC_CTL_QMODE
  if m = 0 then ofFmt 24 (s.getI R.GC_QREQ)
  else if m = 2 then s.gc.vv
  else
    let pf := ofFmt 15 (s.get R.GC_PF_PF)
    let q := absR pt * sqrtR (1 - pf * pf) / pf
    if s.flag R.GC_PF_DIR then -q else q

/-- GC_STAT changes with its flags and event. -/
def State.gcStatus (s : State) (v : Nat) : State :=
  let old := s.get R.GC_STAT % 32
  if old = v then s else
    let s := s.forEach (fun s i => if (old ^^^ v).testBit i then s.irq .gc 0 i else s) (List.range 5)
    (s.put R.GC_STAT v).emit 7 63 0x064 v

/-- The root of R200 that leaves room beside x under SMAX; of a negative number the spec states none (log entry 241). -/
def rootRest (smax x : Rat) : Rat :=
  let r := smax * smax - x * x
  if r < 0 then Config.rootOfNegative r else sqrtR r
/-- One evaluation (R200). With QPRIO 0 and |pt| above SMAX the room left for qt is a root of a negative number, which is free (log 241). -/
def State.gcEvaluate (s : State) : State :=
  let x := s.gcInputs
  let s := (s.gcVolt x).suspJudge
  let pb := if s.flag R.GC_CTL_PSRC then ofFmt 24 (s.getI R.SLOPE_PAVAIL_PU) else ofFmt 24 (s.getI R.GC_PREQ)
  let a := s.gcCaps pb
  let s := s.gcFreq x.1 a.1 pb
  let fw := s.flag R.GC_CTL_FW_EN
  let b := if fw then s.gcCaps s.gc.pfw else a
  let pt := if s.nightvar then 0 else b.1
  let qt := (if s.nightvar then s.gc.vv else s.qTarget pt) + s.perturb
  let inj := s.injects
  let qt := puOf qt
  let smax := ofFmt 12 (s.get R.GC_SMAX_SMAX)
  let slim := decide (smax * smax < pt * pt + qt * qt)
  let (pt, qt) := if slim then
      if s.flag R.GC_CTL_QPRIO then
        let q := clampR (-smax) smax qt
        (signR pt * rootRest smax q, q)
      else (pt, signR qt * rootRest smax pt)
    else (pt, qt)
  let k := s.rampDown
  let s := s.putCfg R.LOCUS_PSET (fmtS 32 24 (pt * k) % 2 ^ 32).toNat
  let s := s.putCfg R.LOCUS_QSET (fmtS 32 24 (qt * k) % 2 ^ 32).toNat
  let s := s.putI R.GC_PPRE (fmtS 32 24 s.gc.ppre)
  let st := (s.outsideDb x.1).toNat + 2 * (a.2.1 || b.2.1).toNat + 4 * (a.2.2 || b.2.2).toNat + 8 * slim.toNat +
    16 * s.get R.GC_STAT_CEASE
  let s := s.gcStatus st
  if inj then
    { s with isl := { s.isl with cur := s.isl.cur.map fun c => { c with injected := true } } }
  else s

/-- The engine evaluates in the first tick of each millisecond (R199, R212). -/
def State.firstOfMs (s : State) : Bool := decide (s.time.tickStart % msQ 1 < s.tickQ)
def State.runsLocus (s : State) : Bool := s.alive && s.time.run && s.majorMode != mWAKE && s.majorMode != mDARK

/-- GC_EVALUATION (R199, R200). -/
def execGcEvaluation (s : State) : Host.Outcome State Fault Refusal :=
  .next (
    let ms := s.time.tickStart / msQ 1
    if s.runsLocus && s.flag R.GC_CTL_EN && s.firstOfMs && s.gc.ms != some ms then
      { s.gcEvaluate with gc := { s.gcEvaluate.gc with ms := some ms } }
    else s)

/-! ## Islanding: confirmation (R209, R210) -/

def noneAt (_ : Nat) : Option Nat := none
def State.setIsl (s : State) (f : IslSt → IslSt) : State := { s with isl := f s.isl }
def State.limTimer (s : State) (j : Nat) : Nat := Tab.get noTime s.isl.timers j
def State.limOnset (s : State) (j : Nat) : Option Nat := Tab.get noneAt s.isl.onset j
def State.islWindow (s : State) : List (Bool × Nat) := s.isl.window.take (s.get R.ISL_ACT_WIN)
def State.islHits (s : State) : Nat := (s.islWindow.filter (·.1)).length
def State.islHolds (s : State) : Bool :=
  !s.isl.conf.isEmpty || s.isl.rocofConf || decide (s.get R.ISL_ACT_COUNT ≤ s.islHits)

/-- The time left to the sequence deadline (R214). -/
def State.showLeft (s : State) : State :=
  s.put R.ISL_DEAD_LEFT (match s.isl.deadline with
    | some d => min ((d - s.time.now) / msQ 10) 0xFFFE
    | none => 0xFFFF)

/-- A method confirms with a cause and a deadline. The event waits for the end of the tick, since a method that confirms later in the
same tick may lower the cause or bring the deadline forward (R209). -/
def State.islConfirm (s : State) (cause deadline : Nat) : State :=
  let first := !s.islanded
  let m := s.majorMode
  let goes := m == mFOLLOW || m == mRIDE || (m == mFORM && s.flag R.SYS_MODE_CFG_ISLAND_CEASE)
  let sameTick := s.isl.confAt == some s.time.tickStart
  let s := if m == mISLAND || (goes && (first || sameTick)) then
      s.setIsl fun i => { i with deadline := some (match i.deadline with | some d => min d deadline | none => deadline) }
    else s
  let s := s.showLeft
  if first then
    let s := ((s.put R.ISL_STAT_ISLANDED 1).put R.ISL_STAT_CAUSE cause).irq .isl 0 0
    let s := s.setIsl fun i => { i with confAt := some s.time.tickStart, confDue := true }
    if goes then { s with mode := { s.mode with dueIsland := true } } else s
  else if sameTick then s.put R.ISL_STAT_CAUSE (min cause (s.get R.ISL_STAT_CAUSE))
  else s

/-- ISL_CONFIRM is logged at the end of the tick in which ISLANDED became 1, with that tick's timestamp (R215). -/
def State.islReport (s : State) : State :=
  match s.isl.confAt with
  | some t =>
    if s.isl.confDue then
      (s.setIsl fun i => { i with confDue := false }).emitAt t 7 63 0x860 (s.get R.ISL_STAT_CAUSE + s.majorMode * 16 +
        s.get R.ISL_STAT_HITS * 2 ^ 7 + s.get R.ISL_DEAD_LEFT * 2 ^ 15)
    else s
  | none => s

/-- ISLANDED returns to 0 once no condition of R209 holds. -/
def State.islRelease (s : State) : State :=
  if s.islanded && !s.islHolds && s.isl.confAt != some s.time.tickStart then
    ((s.put R.ISL_STAT_ISLANDED 0).put R.ISL_STAT_CAUSE 0).irq .isl 0 0
  else s

/-! ## The passive limits and the slots, in every tick (R205, R208) -/

/-- Whether the condition of limit j holds in a tick in LOCK. -/
def State.limCond (s : State) (j : Nat) : Bool :=
  let ofs : Rat := s.get (R.ISL_FTRIP_OFS j) / 1000
  if j < 2 then decide (s.fb + ofs < s.loc.freq) else decide (s.loc.freq < s.fb - ofs)
/-- The timer of limit j returns to 0; a limit that has confirmed stays so until its condition ends in a tick in LOCK. -/
def State.limIdle (s : State) (j : Nat) : State :=
  s.setIsl fun i => { i with onset := Tab.set noneAt i.onset j none, timers := Tab.set noTime i.timers j 0,
                             conf := if s.inLock && !s.limCond j then i.conf.filter (· != j) else i.conf }
def State.limTick (s : State) (j : Nat) : State :=
  if s.inLock then
    if s.limCond j then
      match s.limOnset j with
      | none => s.setIsl fun i => { i with onset := Tab.set noneAt i.onset j (some s.time.tickStart),
                                           timers := Tab.set noTime i.timers j 0 }
      | some _ => s.setIsl fun i => { i with timers := Tab.set noTime i.timers j (s.limTimer j + s.tickQ) }
    else s.limIdle j
  else s
/-- The passive methods are judged in RIDE only in LOCK (R212). -/
def State.passive (s : State) : Bool := s.majorMode != mRIDE || s.inLock
/-- The ROCOF condition in one tick: no interval runs where the method is not judged (log entry 242); without ROCOF_EN no interval runs, and a confirmation lasts until its condition ends. -/
def State.rocofTick (s : State) : State :=
  if !s.passive then s.setIsl fun i => { i with rocofOn := none }
  else if (s.get R.ISL_ROCOF_TH : Rat) / 100 < absR s.loc.rocof then
    s.setIsl fun i => { i with rocofOn := if s.flag R.ISL_CTL_ROCOF_EN then some (i.rocofOn.getD s.time.tickStart) else none }
  else s.setIsl fun i => { i with rocofOn := none, rocofConf := false }

/-- One tick of the slot in progress. -/
def State.slotTick (s : State) : State :=
  let no := s.slotCount
  let L := msQ s.slotLen
  let off := s.time.tickStart - no * L
  let s := match s.isl.cur with
    | some c => if c.no = no then s else s.setIsl fun i => { i with ended := some c, cur := some { no, good := off == 0 } }
    | none => s.setIsl fun i => { i with cur := some { no, good := off == 0 } }
  let usable := s.inLock && s.majorMode != mRIDE
  let in1 := decide (L / 4 ≤ off) && decide (off < L / 2)
  let in2 := decide (3 * L / 4 ≤ off)
  let f := s.loc.freq
  (s.setIsl fun i => { i with cur := i.cur.map fun c =>
    { c with good := c.good && usable, sum1 := if in1 then c.sum1 + f else c.sum1, n1 := c.n1 + in1.toNat,
             sum2 := if in2 then c.sum2 + f else c.sum2, n2 := c.n2 + in2.toNat } }).put R.ISL_STAT_SLOT (s.gridSlot no)

/-- The islanding clearing time (R214). -/
def State.islClr (s : State) : Nat := msQ (10 * s.get R.ISL_CLR_CLR)
/-- The window of the active method is judged: it confirms with cause 6 when it comes to hold COUNT hits, by a new hit or by a
tightened COUNT, with the slot of the oldest of the COUNT most recent hits as the onset (R208, R209). -/
def State.windowJudge (s : State) : State :=
  let holds := decide (s.get R.ISL_ACT_COUNT ≤ s.islHits)
  let was := s.isl.winConf
  let s := s.setIsl fun i => { i with winConf := holds }
  if holds && !was then
    let hits := (s.islWindow.filter (·.1)).take (s.get R.ISL_ACT_COUNT)
    s.islConfirm 6 ((hits.getLast?.map (·.2)).getD 0 + s.islClr)
  else s
/-- WIN has changed: the window keeps the last WIN counted responses, and HITS counts those (R208, R214). -/
def State.islResize (s : State) : State :=
  let s := s.setIsl fun i => { i with window := i.window.take (s.get R.ISL_ACT_WIN) }
  s.put R.ISL_STAT_HITS s.islHits

/-- The detector in each tick, after the pass of Locus (R212). -/
def State.islTick (s : State) : State :=
  if s.runsLocus then
    let s := s.forEach (if s.flag R.ISL_CTL_PASV_EN then State.limTick else State.limIdle) [0, 1, 2, 3]
    s.rocofTick.slotTick.windowJudge.islRelease.showLeft
  else s

/-- The window is emptied at a step of time and at every write to ISL_SLOT (R208). -/
def State.islEmpty (s : State) : State :=
  (s.setIsl fun i => { i with window := [], cur := none, ended := none, winConf := false }).put R.ISL_STAT_HITS 0

/-- FREQ_LIMIT_CONFIRM (R205): the timer has reached CLR − BUDGET. -/
def execFreqLimitConfirm (limit : Fin 4) (s : State) : Host.Outcome State Fault Refusal :=
  .next (
    let clr := msQ (10 * s.get (R.ISL_FTRIP_CLR limit))
    if s.runsLocus && s.flag R.ISL_CTL_PASV_EN && !s.isl.conf.contains limit.val then
      match s.limOnset limit with
      | some t =>
        if clr - msQ (s.get R.ISL_CLR_BUDGET) ≤ s.limTimer limit then
          (s.setIsl fun i => { i with conf := limit.val :: i.conf }).islConfirm (limit + 1) (t + clr)
        else s
      | none => s
    else s)

/-- ROCOF_CONFIRM (R205). -/
def execRocofConfirm (s : State) : Host.Outcome State Fault Refusal :=
  .next (
    if s.runsLocus && s.passive && s.flag R.ISL_CTL_ROCOF_EN && !s.isl.rocofConf then
      match s.isl.rocofOn with
      | some t =>
        if t + msQ (s.get R.ISL_ROCOF_DELAY) ≤ s.time.tickStart then
          (s.setIsl fun i => { i with rocofConf := true }).islConfirm 5 (t + s.islClr)
        else s
      | none => s
    else s)

/-- A response is counted (R208). -/
def State.countResponse (s : State) (m : SlotMeas) : State :=
  let d := (m.sum2 / (m.n2 : Rat) - m.sum1 / (m.n1 : Rat)) * 1000
  let hit := decide ((s.get R.ISL_ACT_DF_TH : Rat) ≤ d)
  let s := s.setIsl fun i =>
    { i with window := ((hit, m.no * msQ s.slotLen) :: i.window).take (s.get R.ISL_ACT_WIN) }
  (((s.putI R.ISL_RESP_D (fmtS 16 0 d)).put R.ISL_RESP_SLOT (s.gridSlot m.no)).put R.ISL_STAT_HITS s.islHits).windowJudge

/-- SLOT_RESPONSE (R208). -/
def execSlotResponse (s : State) : Host.Outcome State Fault Refusal :=
  .next (
    match if s.runsLocus then s.isl.ended else none with
    | some m =>
      let s := s.setIsl fun i => { i with ended := none }
      let k := s.gridSlot m.no
      if (s.get R.ISL_SLOT_OCC).testBit k && m.good && (k != s.get R.ISL_CTL_SLOT_ID || m.injected) &&
          m.n1 != 0 && m.n2 != 0 then s.countResponse m else s
    | none => s)

/-- A write of ISL_CTL.INJ under TEST (R214). -/
def State.islInject (s : State) : State := s.islConfirm 7 (s.time.tickStart + s.islClr)

/-! ## The cease-to-energise sequence (R211) -/

/-- SFBx reads asserted, contactor open. -/
def State.sfb (s : State) (k : Nat) : Bool := (s.get R.SAFE_OUT_STAT_SFB).testBit k
/-- Legs ceased and both contactors confirmed open. -/
def State.islComplete (s : State) : Bool := s.majorMode == mISLAND && s.isl.ceased && s.sfb 0 && s.sfb 1

/-- CLEAR_MISSED: the deadline passes before the sequence is complete. -/
def execClearMissed (s : State) : Host.Outcome State Fault Refusal :=
  .next (
    match s.isl.deadline with
    | some d =>
      if s.runsLocus && s.majorMode == mISLAND && !s.isl.missed && !s.islComplete then
        let s := (s.advTo d).setIsl fun i => { i with missed := true }
        (((s.irq .isl 0 3).emit 7 63 0x863
          ((!s.isl.ceased).toNat + 2 * (!s.sfb 0).toNat + 4 * (!s.sfb 1).toNat)).haltDue 15).idle
      else s
    | none => s)

/-- The detector at a change of the major mode. -/
def State.islModeChange (s : State) (old new : Nat) : State :=
  if new = mISLAND then s.setIsl fun i => { i with entered := some s.time.tickStart, ceased := false, missed := false }
  else
    let s := s.setIsl fun i =>
      { i with entered := none, deadline := none, ceased := false, missed := false }
    let s := s.showLeft
    if old = mISLAND then s.gcStatus (s.get R.GC_STAT % 16) else s

end Sys2Proof.Machine
end

