-- ==== Sys2Proof/Machine/Gnomon.lean ====
section
/-! DEFINITION. Gnomon (R331 to R348): measurements, the servo, the step, captures and the periodic generators. -/

namespace Sys2Proof.Machine

open Sys2Proof

def State.setTime (s : State) (f : TimeSt → TimeSt) : State := { s with time := f s.time }

/-! ## State and servo (R338 to R342) -/

def gFREE : Nat := 0
def gACQUIRE : Nat := 1
def gLOCKED : Nat := 2
def gHOLDOVER : Nat := 3

/-- A relative rate in its register: weight 2^-40, limited to ±RMAX. -/
def State.limitRate (s : State) (x : Rat) : Rat :=
  let m : Rat := (s.get R.TIME_SERVO_RMAX : Rat) / 1000000
  clampR (-m) m x
def State.putRate (s : State) (f : Fld) (x : Rat) : State := s.putI f (satI 32 (rnd 40 x))
/-- The TIME PLL takes the rate of TIME_RATE; while the monitor of REF fails it holds its last control setting (R341, R441). -/
def State.applyRate (s : State) : State :=
  if s.sys.monCond.testBit 0 then s else s.setTime fun t => { t with rate := s.getI R.TIME_RATE }

/-- STATE changes (R338): TIME_STATE; LOCKED clears ARMED and cancels a pending step (R340); on entry to HOLDOVER r becomes
−F (R342). -/
def State.gnomonTo (s : State) (new : Nat) : State :=
  let old := s.get R.TIME_STAT_STATE
  if new = old then s else
    let s := (s.put R.TIME_STAT_STATE new).putB R.TIME_STAT_TLOCK (new == gLOCKED || new == gHOLDOVER)
    let s := s.setTime fun t => { t with nIn := if new = gLOCKED then 0 else t.nIn, nOut := 0 }
    let s := if s.flag R.TIME_STAT_TLOCK then s else { s with org := { s.org with learnFrom := none } }
    let s := if new = gLOCKED then
        ((s.put R.TIME_STAT_ARMED 0).put R.TIME_STAT_PEND 0).setTime fun t => { t with step := none, heldLogged := false }
      else s
    let s := if new = gHOLDOVER then
        (s.putI R.TIME_RATE (-s.getI R.TIME_FREQ)).applyRate.setTime fun t => { t with holdUp := t.up }
      else s
    (s.irq .time 0 0).emit 13 63 0x0C0 (new + old * 8 + s.get R.TIME_OFFS * 2 ^ 6)

/-- The rate computation of R341 for an offset in seconds. -/
def State.servo (s : State) (o : Rat) : State :=
  let dt : Rat := match s.time.lastUpd with
    | none => 0
    | some u => min 2 (((s.time.up - u : Nat) : Rat) / (secQ : Rat))
  let tp : Rat := s.get R.TIME_SERVO_TP
  let ti : Rat := s.get R.TIME_SERVO_TI
  let f := s.limitRate (ofFmt 40 (s.getI R.TIME_FREQ) + o * dt / (tp * ti))
  let r := s.limitRate (-(o / tp + f))
  ((s.putRate R.TIME_FREQ f).putRate R.TIME_RATE r).applyRate.setTime fun t => { t with lastUpd := some t.up }

/-- STATE after an accepted measurement of magnitude a (R338). -/
def State.judgeMeas (s : State) (a : Nat) : State :=
  let th := s.get R.TIME_LOCK_LOCK_TH * 4
  let s := if s.get R.TIME_STAT_STATE = gFREE then (s.gnomonTo gACQUIRE).setTime fun t => { t with nIn := 0 } else s
  let st := s.get R.TIME_STAT_STATE
  if st = gACQUIRE then
    let n := if a ≤ th then s.time.nIn + 1 else 0
    let s := s.setTime fun t => { t with nIn := n }
    if 16 ≤ n then s.gnomonTo gLOCKED else s
  else if st = gLOCKED then
    let n := if 4 * th < a then s.time.nOut + 1 else 0
    let s := s.setTime fun t => { t with nOut := n }
    if 4 ≤ n then (s.gnomonTo gACQUIRE).setTime fun t => { t with nIn := 0 } else s
  else if a ≤ th then s.gnomonTo gLOCKED
  else (s.gnomonTo gACQUIRE).setTime fun t => { t with nIn := 0 }

/-- A measurement is accepted (R338 to R341): o in units of 0.25 ns. -/
def State.acceptMeas (s : State) (o : Int) : State :=
  let a := o.natAbs
  let s := s.putI R.TIME_OFFS (satI 32 ((o + 2) / 4))
  let s := s.setTime fun t => { t with lastMeas := some t.up }
  let armed := s.flag R.TIME_STAT_ARMED
  let big := decide (s.get R.TIME_LOCK_STEP_TH * 4000 < a)
  let s := if armed && big then
      (s.put R.TIME_STAT_PEND 1).setTime fun t => { t with step := some ((-2 * o + 5) / 10) }
    else if armed && s.time.step.isSome then
      (s.put R.TIME_STAT_PEND 0).setTime fun t => { t with step := none, heldLogged := false }
    else s
  let s := if armed && big && !s.switching then s else s.servo ((o : Rat) / (secQ : Rat))
  s.judgeMeas a

/-- A submission (R339) from PTP (0) or PPS (1). -/
def State.submitMeas (s : State) (src : Nat) (o : Int) : State :=
  let soon := match s.time.stepUp with
    | none => false
    | some u => decide (s.time.up < u + 2 * secQ)
  if s.get R.TIME_CTL_SRC != src || soon then s.bumpSat R.TIME_STAT_DISC else s.acceptMeas o

/-- A write that changes SRC (R338, R341). -/
def State.srcChanged (s : State) : State := (s.gnomonTo gFREE).setTime fun t => { t with lastUpd := none }

/-- MEAS_TIMEOUT (R338). -/
def execMeasTimeout (s : State) : Host.Outcome State Fault Refusal :=
  .next (s.whenAlive fun s =>
    let st := s.get R.TIME_STAT_STATE
    if st = gLOCKED ∨ st = gACQUIRE then
      let s := s.advUp (s.time.lastMeas.getD s.time.up + s.get R.TIME_HOLD_MEAS_TO * secQ)
      (s.gnomonTo (if st = gLOCKED then gHOLDOVER else gFREE)).idle
    else s)

/-- HOLDOVER_EXPIRY (R338, R342): the rate continues. -/
def execHoldoverExpiry (s : State) : Host.Outcome State Fault Refusal :=
  .next (s.whenAlive fun s =>
    if s.get R.TIME_STAT_STATE = gHOLDOVER then
      ((s.advUp (s.time.holdUp + s.get R.TIME_HOLD_HOLD_MAX * secQ)).gnomonTo gFREE).idle
    else s)

/-- SEC48 and SUB after a step of d TIME clocks. -/
def steppedTime (now : Nat) (d : Int) : Nat := (((now : Int) + 5 * d) % ((2 ^ 48 * secQ : Nat) : Int)).toNat

/-- A step counts for a generator as a pulse: its next lies at least half a period after it (R344). -/
def State.genAfterStep (s : State) (g : Nat) : State :=
  s.setTime fun t => { t with genFrom := Tab.set (fun _ => 0) t.genFrom g ((t.now + 4) / 5 + 1) }

/-- The pending step is applied (R340, R56): what the merge buffer holds goes first; the tick begins at the step. -/
def State.applyStep (s : State) (d : Int) : State :=
  let s := s.releaseAll s.log.buf.length
  let s := { s with log := { s.log with inflight := s.log.inflight.map fun (e : Ev) => { e with old := true } } }
  let t := steppedTime s.time.now d
  let s := s.setTime fun x => { x with now := t, tickStart := t, step := none, heldLogged := false, stepUp := some x.up }
  let s := ((s.put R.TIME_STAT_PEND 0).put R.TIME_STAT_ARMED 0).put R.TIME_STAT_STEPPED 1
  let s := ((s.irq .time 0 1).emit 13 63 0x4C1 (d % 2 ^ 40).toNat).islEmpty
  (s.forEach State.genAfterStep (List.range 4)).setTime fun x => { x with lineLast := [] }

/-- A pending step at a tick boundary from which the major mode is m (R61, R340). -/
def State.tryStep (s : State) : State :=
  match s.time.step with
  | none => s
  | some d =>
    if s.switching then
      if s.time.heldLogged then s
      else ((s.setTime fun t => { t with heldLogged := true }).irq .time 0 2).emit 13 63 0x0C2
        (s.majorMode + (satI 32 d % 2 ^ 32).toNat * 8)
    else s.applyStep d

/-- The counter copied into the snapshot registers (R347). -/
def State.snapTime (s : State) : State :=
  ((s.put R.TIME_SNAP_SUB (s.time.now % secQ)).put R.TIME_SNAP_SEC (s.time.now / secQ)).put R.TIME_SNAP_SECH_SECH
    (s.time.now / secQ / 2 ^ 32)

/-! ## Captures and generators (R344, R345) -/

/-- An input of capture unit u at Gnomon time t. -/
def State.capture (s : State) (u t fine : Nat) : State :=
  if s.flag (R.CAP_STAT_VALID u) then
    if s.flag (R.CAP_STAT_OVR u) then s else (s.put (R.CAP_STAT_OVR u) 1).emit 13 63 0x4C3 u
  else
    ((((s.put (R.CAP_SUB u) (t % secQ)).put (R.CAP_SEC u) (t / secQ)).put (R.CAP_STAT_FINE u) fine).put
      (R.CAP_STAT_VALID u) 1).irq .trig 0 u
/-- An input by its SEL code. -/
def State.captures (s : State) (sel t fine : Nat) : State :=
  s.forEach (fun s u => if s.flag (R.CAP_CFG_EN u) && s.get (R.CAP_CFG_SEL u) == sel then s.capture u t fine else s)
    (List.range 4)

/-- A SYNC_IN edge as a measurement (R339) and as an input of the captures. -/
def State.syncEdgeTime (s : State) (rising : Bool) (fine : Nat) : State :=
  let t := s.time.now / 5 * 5
  let s := s.setTime fun x => { x with sync := rising }
  let s := if rising then
      let o : Int := t % secQ + (5 * fine + 8) / 16 - s.getI R.TIME_PPS
      (if s.get R.TIME_CTL_SRC = 1 then s.submitMeas 1 ((o + secQ / 2) % secQ - secQ / 2) else s).pulse 7
    else s
  s.captures (if rising then 16 else 17) t fine

/-- The next TIME clock from t on in which generator g pulses. -/
def State.genNext (s : State) (g t : Nat) : Nat :=
  let per := s.get (R.GEN_PER g)
  t + (s.get (R.GEN_PHASE g) + per - t % per) % per

/-- The first TIME clock at which generator g may pulse: not before half a period after its last pulse or the last step. -/
def State.genFirst (s : State) (g : Nat) : Nat :=
  match Tab.get (fun _ => 0) s.time.genFrom g with
  | 0 => (s.time.now + 4) / 5
  | k + 1 => max ((s.time.now + 4) / 5) (k + (s.get (R.GEN_PER g) + 1) / 2)
/-- GENERATOR_PULSE (R344): generator `gen` reaches its next instant. -/
def execGeneratorPulse (gen : Fin 4) (s : State) : Host.Outcome State Fault Refusal :=
  .next (if s.alive && s.time.run && s.flag (R.GEN_CTL_EN gen) then
    let t := s.genNext gen (s.genFirst gen)
    let s := s.advTo (t * 5)
    (s.setTime fun x => { x with genFrom := Tab.set (fun _ => 0) x.genFrom gen (t + 1) }).pulseAt 6 gen (t * 5)
  else s)

/-- The next whole multiple of d of Gnomon time at which line x has not pulsed yet. -/
def State.lineGrid (s : State) (x d : Nat) : Nat := (max s.time.now (Tab.get (fun _ => 0) s.time.lineLast x) + (d - 1)) / d * d
/-- The next pulse of a line whose source is the whole millisecond or second. -/
def State.lineClock (s : State) (x : Nat) : Option Nat :=
  match s.get (R.TRIG_LINE_SRC x) with
  | 11 => some (s.lineGrid x (msQ 1))
  | 12 => some (s.lineGrid x secQ)
  | _ => none
/-- The pulse of a line that comes next: the earliest of those on their way and of the next whole millisecond or second (R343). -/
def State.lineNext (s : State) (x : Nat) : Option Nat :=
  ((s.time.lineDue.filter (·.1 == x)).map (·.2) ++ (s.lineClock x).toList).min?
/-- The line's pulse at t is over: pulses of one clock are one. -/
def State.lineTake (s : State) (x t : Nat) : State :=
  s.setTime fun y => { y with lineDue := y.lineDue.filter (· != (x, t)), lineLast := Tab.set (fun _ => 0) y.lineLast x (t + 1) }
/-- The users of a line's pulse in the converters and the capture units. -/
def State.lineReach (s : State) (x t : Nat) : State := (s.adcTrigger x).captures x (clockOf t) 0

end Sys2Proof.Machine
end

