-- ==== Sys2Proof/Machine/Annulus.lean ====
section
/-! DEFINITION. Annulus (R301 to R314): the signal chain, windows, results, aggregates and energy. A raw code is an input
of the sample; the band-pass filter of R305 is not given, so its crossings are inputs as well. -/

namespace Sys2Proof.Machine

open Sys2Proof

def State.setMeter (s : State) (f : MeterSt → MeterSt) : State := { s with meter := f s.meter }

/-- Annulus runs: powered, on, and started once the self-test of WAKE is over (R67, R324). -/
def State.meterOn (s : State) : Bool := s.alive && s.time.run && s.flag R.METER_CTL_EN && s.majorMode != mWAKE

/-! ## The chain (R302 to R304) -/

/-- Time between samples and the delay of the chain, in units of 0.25 ns. -/
def meterStep : Nat := 125000
def meterDelay : Nat := 375000

/-- The four Lagrange weights of a fraction of 2^-16 sample (R304). -/
def lagrange (mu : Nat) : List Int :=
  let m : Rat := (mu : Rat) / 65536
  [rnd 24 (-m * (m - 1) * (m - 2) / 6), rnd 24 ((m + 1) * (m - 1) * (m - 2) / 2), rnd 24 (-(m + 1) * m * (m - 2) / 2),
   rnd 24 ((m + 1) * m * (m - 1) / 6)]
/-- DI and the weights of a channel from its DLY. -/
def State.delayOf (s : State) (c : Nat) : Nat × List Int :=
  let d := (3 * 65536 + signed 18 (s.get ⟨(R.MCH_DLY c).addr, 17, 0⟩)).toNat
  (d / 65536, lagrange (d % 65536))
def State.wtsOf (s : State) (c : Nat) : Nat × List Int := s.meter.wts.getD c (3, [0, 2 ^ 24, 0, 0])

/-- The weighted sum of four neighbours, from the newest on, rounded (R303). -/
def weigh (h b : List Int) : Int :=
  ((h.getD 0 0 * b.getD 0 0 + h.getD 1 0 * b.getD 1 0 + h.getD 2 0 * b.getD 2 0 + h.getD 3 0 * b.getD 3 0) * 2 + 2 ^ 24) / 2 ^ 25

/-- The nominal frequency. -/
def State.meterNom (s : State) : Nat :=
  match s.get R.METER_CFG_NOMF with
  | 1 => 50
  | 2 => 60
  | _ => s.fbKnown.getD 50

/-- Gain and offset of modulator k, 16 for the spare (R317): those of its last calibration, 1 and 0 before the first. -/
def noMod (_ : Nat) : Rat × Rat := (1, 0)
def State.modOf (s : State) (k : Nat) : Rat × Rat := Tab.get noMod s.meter.mods k
/-- A raw code limited to the ends of the range (R301). -/
def codeEnds (r : Int) : Int := max (-(2 ^ 23)) (min (2 ^ 23) r)
/-- The code of a modulator after its own gain and offset (R317), to the nearest code. -/
def State.modCode (s : State) (k : Nat) (r : Int) : Int :=
  codeEnds (rnd 0 (((codeEnds r : Rat) - (s.modOf k).2) * (s.modOf k).1))
/-- The modulator that serves position c. -/
def State.servedBy (s : State) (c : Nat) : Nat := if s.get R.METER_ROT_STAT_SPAREPOS = c then 16 else c
/-- Gain and offset that a calibration gives (R317): the mean of the shorted input, and the span of 0.9 of full scale either way
over the span measured, for the sums of 2^caln codes of the three taps; none where the taps have no span. -/
def modCal (caln : Nat) (taps : Int × Int × Int) : Option (Rat × Rat) :=
  if taps.2.2 < taps.2.1 then
    some (18 / 10 * 2 ^ 23 * 2 ^ caln / ((taps.2.1 - taps.2.2 : Int) : Rat), (taps.1 : Rat) / 2 ^ caln)
  else none
/-- A calibration of modulator k, by its taps where it passed. -/
def State.modSet (s : State) (k : Nat) (cal : Option (Int × Int × Int)) : State :=
  match cal.bind (modCal (s.get R.METER_ROT_CFG_CALN)) with
  | some g => s.setMeter fun m => { m with mods := Tab.set noMod m.mods k g }
  | none => s
/-- The calibration passed. -/
def State.modPass (s : State) (cal : Option (Int × Int × Int)) : Bool :=
  (cal.bind (modCal (s.get R.METER_ROT_CFG_CALN))).isSome

/-- The code that a channel converts: its input, limited to the ends of the range, or the signal of METER_TEST (R324). -/
def State.meterCode (s : State) (c t : Nat) (code : Int) : Int × Bool :=
  if s.testActive && s.flag R.METER_TEST_INJ && s.get R.METER_TEST_CH == c then
    match s.get R.METER_TEST_SIG with
    | 1 => (2 ^ 22, false)
    | 2 => (rnd 22 (sinT (s.meterNom * ((t : Rat) / (secQ : Rat)) + Config.meterSinePhase)), false)
    | _ => (0, false)
  else (s.modCode (s.servedBy c) code, decide (code < -(2 ^ 23)) || decide (2 ^ 23 < code))

/-- A channel's position has no modulator (R317). -/
def State.chLost (s : State) (c : Nat) : Bool :=
  s.flag (R.METER_ROT_STAT_RETIRED.bit c) && s.get R.METER_ROT_STAT_SPAREPOS != c

/-- Dacc and b of a channel for a code (R303). -/
def State.highPass (s : State) (c : Nat) (code : Int) : Int × Int :=
  let a := code - signed 24 (s.get ⟨(R.MCH_OFFS c).addr, 23, 0⟩)
  let d := s.meter.dacc.getD c 0
  if s.flag ⟨(R.MCH_CFG c).addr, 1, 1⟩ then
    let d' := d + (a * 2 ^ 20 - d) / 2 ^ 12
    (d', (2 * (a * 2 ^ 20 - d') + 2 ^ 12) / 2 ^ 13)
  else (d, a * 2 ^ 8)
/-- x of a channel from the values b, newest first, and CLIP. -/
def State.chainOut (s : State) (c : Nat) (b : List Int) : Int × Bool :=
  if s.flag ⟨(R.MCH_CFG c).addr, 0, 0⟩ && !s.chLost c then
    let w := s.wtsOf c
    let y := weigh w.2 (b.drop (w.1 - 1))
    let x := (2 * y * s.get ⟨(R.MCH_GAIN c).addr, 23, 0⟩ + 2 ^ 22) / 2 ^ 23
    (max (-(2 ^ 31)) (min (2 ^ 31 - 1) x), decide (x < -(2 ^ 31)) || decide (2 ^ 31 - 1 < x))
  else (0, false)

/-! ## Records (R320) -/

def State.tlock (s : State) : Bool := s.flag R.TIME_STAT_TLOCK
def State.meterCalErr (s : State) : Bool := s.flag (F.parErr (pageBase .mcal 0))
def State.injOn (s : State) : Bool := s.testActive && s.flag R.METER_TEST_INJ
/-- Elements that use a lost channel, as bits. -/
def State.elemV (s : State) (e : Nat) : Nat := s.get (R.ELEM_CFG_V e)
def State.elemI (s : State) (e : Nat) : Nat := 8 + s.get (R.ELEM_CFG_I e)
def State.elemLost (s : State) (e : Nat) : Bool := s.flag (R.ELEM_CFG_EN e) && (s.chLost (s.elemV e) || s.chLost (s.elemI e))
def bitsWhere (p : Nat → Bool) (n : Nat) : Nat := ((List.range n).map fun i => (p i).toNat * 2 ^ i).foldl (· + ·) 0
def State.lostBits (s : State) : Nat := bitsWhere s.elemLost 8

/-- FLAGS of a record. -/
def State.recFlags (s : State) (test noref flagged clip short : Bool) : Nat :=
  s.meterCalErr.toNat + test.toNat * 2 + noref.toNat * 4 + flagged.toNat * 8 + (!s.tlock).toNat * 16 + clip.toNat * 32 +
    short.toNat * 64 + (s.lostBits != 0).toNat * 128
/-- A 64-byte record: header, bytes 10 to 15, bytes 16 to 63. -/
def meterRec (ts kind flags b10 body : Nat) : Nat :=
  ts + kind * 2 ^ 64 + flags * 2 ^ 72 + b10 % 2 ^ 48 * 2 ^ 80 + body % 2 ^ 384 * 2 ^ 128
/-- Values of w bits laid out from the least significant end. -/
def layWords (w : Nat) : List Nat → Nat
  | [] => 0
  | v :: vs => v % 2 ^ w + 2 ^ w * layWords w vs

/-- The SAMPLE record (R320). -/
def State.sampleRec (s : State) (n tau : Nat) (xs : List Int) (clip : Bool) : State :=
  let every := match s.get R.METER_CTL_SAMPLE with
    | 1 => 1 | 2 => 2 | 3 => 4 | 4 => 8 | 5 => 32 | _ => 0
  if every != 0 && n % every == 0 then
    s.ringPush 12 (meterRec (stampOf tau) 1 (s.recFlags s.injOn false false clip false) (n % 2 ^ 32)
      (layWords 24 (xs.map fun x => (satI 24 ((x + 128) / 256) % 2 ^ 24).toNat)))
  else s

/-! ## Windows (R305) -/

/-- The quarter period in units of 2^-16 sample, for the frequency of the last window (R309). -/
def quarterOf (f : Option Rat) (nom : Nat) : Nat :=
  let q : Rat := match f with
    | some f => clampR 40 70 f
    | none => nom
  (rnd 16 (8000 / q)).toNat

/-- A new window, from sample n on; the swap due and the weights of R304 take effect, and a shadow step lasts it (R317). -/
def State.openWin (s : State) (n : Nat) (x : Option Int) : State :=
  let c := s.get R.METER_ROT_STAT_POS
  let s := if s.meter.swap = 1 then
      ((s.put R.METER_ROT_STAT_SPAREPOS c).put R.METER_ROT_STAT_PHASE 3).setMeter fun m => { m with swap := 0 }
    else if s.meter.swap = 2 then
      ((s.put R.METER_ROT_STAT_SPAREPOS 31).put R.METER_ROT_STAT_PHASE 5).setMeter fun m => { m with swap := 0, waitUp := s.time.up }
    else s
  let nom := s.meterNom
  let w : MWin := { hist := s.meter.hist, n0 := n, firstX := x, lastX := x, cycles := if nom = 60 then 12 else 10,
                    dq := quarterOf s.meter.freq nom }
  let shadows := (s.get R.METER_ROT_STAT_PHASE == 2 || s.get R.METER_ROT_STAT_PHASE == 4) && s.meter.swap == 0 && s.meter.shadowed.isNone
  s.setMeter fun m => { m with win := some w, wts := (List.range 16).map s.delayOf, shadow := if shadows then some (0, 0) else none }

/-- The frequency of a window, from its first to its last crossing; none under NOREF. -/
def MWin.freq (w : MWin) : Option Rat :=
  if w.noref then none else
    match w.firstX, w.lastX with
    | some a, some b => if a < b then some ((w.whole * 32000 * 65536 : Nat) / ((b - a : Int) : Rat)) else none
    | _, _ => none

/-- The window in progress closes and waits for its evaluation; one without samples leaves nothing to evaluate (R322). -/
def State.closeWin (s : State) (short at600 : Bool) : State :=
  match s.meter.win with
  | none => s
  | some w => if w.xs.isEmpty then s.setMeter fun m => { m with win := none } else
    let w := { w with short := short, at600 := at600 }
    s.setMeter fun m => { m with win := none, closed := m.closed ++ [w], freq := w.freq, shadow := none,
                                 shadowed := if m.shadow.isSome then m.shadow else m.shadowed }

/-- A crossing at position x before or at the sample n. One that follows the window's start is counted, and the last of its cycles
closes the window, which the next then begins at; one at the start is where it begins. -/
def State.crossWin (s : State) (n : Nat) (x : Int) : State :=
  match s.meter.win with
  | none => if s.flag R.METER_STAT_RUN then s.openWin n (some x) else s
  | some w =>
    let first := w.n0 * 65536
    let w := if x < first then w else
      { w with crosses := w.crosses + (if first < x then 1 else 0), whole := w.whole + (if w.firstX.isSome then 1 else 0),
               firstX := some (w.firstX.getD x), lastX := some x }
    let began := decide (w.crosses = w.cycles)
    let s := s.setMeter fun m => { m with win := some w }
    if began && !w.noref then (s.closeWin false false).openWin n (some x) else s

/-- A NOREF window closes with its first 6400 samples, and those after them are the next window's (R305). -/
def State.splitWin (s : State) (n : Nat) (w : MWin) : State :=
  let k := w.xs.length - 6400
  let late := w.xs.take k
  let hist := s.meter.hist
  let s := s.setMeter fun m =>
    { m with win := some { w with xs := w.xs.drop k, tau := w.tau - k * meterStep }, hist := hist.drop k }
  let s := (s.closeWin false false).openWin (n - k) none
  s.setMeter fun m => { m with hist, win := m.win.map fun v => { v with xs := late, tau := w.tau, test := w.test && k != 0, clip := w.clip && k != 0 } }
/-- No crossing for 1.5 nominal periods: the window is NOREF and runs to 6400 samples. -/
def State.norefWin (s : State) (n : Nat) : State :=
  match s.meter.win with
  | none => s
  | some w =>
    let since : Int := n * 65536 - max (w.lastX.getD 0) (w.n0 * 65536)
    let w := { w with noref := w.noref || decide (since * (2 * s.meterNom) > 3 * 32000 * 65536) }
    let s := s.setMeter fun m => { m with win := some w }
    if w.noref && decide (6400 ≤ n - w.n0) then s.splitWin n w else s

/-- Sample n enters the window in progress, from the window's first sample on. -/
def State.addSample (s : State) (n tau : Nat) (xs : List Int) (clip : Bool) : State :=
  let s := match s.meter.win with
    | none => s
    | some w =>
      if n < w.n0 then s else
        let w := { w with xs := xs :: w.xs, tau := tau, clip := w.clip || clip, test := w.test || s.injOn }
        s.setMeter fun m => { m with win := some w }
  s.setMeter fun m => { m with hist := (xs :: m.hist).take 1024 }

/-- 10 s intervals (R308): the crossing before the instant belongs to the interval that ends there. -/
def MTen.add (t : MTen) (x : Int) : MTen :=
  { t with count := t.count + 1, first := if t.count = 0 then x else t.first, last := x }
def State.tenCross (s : State) (x : Int) : State := s.setMeter fun m => { m with ten := m.ten.add x }
def State.tenRoll (s : State) (tau : Nat) : State :=
  let k := tau / (10 * secQ)
  match s.meter.ten.k with
  | none => s.setMeter fun m => { m with ten := { m.ten with k := some k } }
  | some k0 =>
    if k0 = k then s else
      s.setMeter fun m => { m with tens := if m.ten.skip then m.tens else m.tens ++ [m.ten], ten := { k := some k } }

/-- The last window closed ends at the 600 s instant. -/
def State.cut600 (s : State) : State :=
  s.setMeter fun m => { m with closed := match m.closed.getLast? with
    | some w => m.closed.dropLast ++ [{ w with at600 := true }]
    | none => m.closed }
/-- The boundary of 600 s before the sample of τ: the window in progress ends there, or the one that has just ended at it. -/
def State.roll600 (s : State) (n tau : Nat) : State :=
  match s.meter.win with
  | none => s
  | some w =>
    if (if w.xs.isEmpty then tau - meterStep else w.tau) / (600 * secQ) = tau / (600 * secQ) then s
    else if w.xs.isEmpty then s.cut600
    else (s.closeWin true true).openWin n none

/-- What the sample's instant and its crossing do to windows and intervals. -/
def State.rollWins (s : State) (n tau : Nat) (cross : Option Nat) : State :=
  match cross with
  | none => (((s.tenRoll tau).roll600 n tau)).norefWin n
  | some f =>
    let x : Int := n * 65536 - f
    if f = 0 then ((((s.tenRoll tau).roll600 n tau).crossWin n x).tenCross x).norefWin n
    else ((((s.tenCross x).crossWin n x).tenRoll tau).roll600 n tau).norefWin n

/-- The number of the next raw sample. -/
def State.nextSample (s : State) : Nat :=
  let n := (s.time.now + (meterStep - 1)) / meterStep
  match s.meter.last with
  | some t => max n (t / meterStep + 1)
  | none => n

/-- A pair of codes of the shadow step in progress: of the modulator that shadows, and of the one that serves (R317). -/
def State.meterPair (s : State) (spare served : Int) : State :=
  s.setMeter fun m => { m with shadow := m.shadow.map fun q => (q.1 + spare - served, q.2 + 1) }

/-- A raw sample of the sixteen channels, and of the modulator that shadows one of them; `cross` is the distance of a positive-going crossing of the reference before it,
in units of 2^-16 sample. -/
def State.meterSample (s : State) (codes : List Int) (spare : Int) (cross : Option Nat) : State :=
  let n := s.nextSample
  let t := n * meterStep
  let tau := t - meterDelay
  let s := s.advTo t
  let s := s.setMeter fun m => { m with last := some t }
  let s := s.rollWins n tau cross
  let cs := (List.range 16).map fun c => s.meterCode c t (codes.getD c 0)
  let pos := s.get R.METER_ROT_STAT_POS
  let s := s.meterPair (s.modCode (if s.servedBy pos = 16 then pos else 16) spare) (s.modCode (s.servedBy pos) (codes.getD pos 0))
  let hp := (List.range 16).map fun c => s.highPass c (cs.getD c (0, false)).1
  let s := s.setMeter fun m => { m with dacc := hp.map (·.1), bs := (hp.map (·.2) :: m.bs).take 8 }
  let outs := (List.range 16).map fun c => s.chainOut c (s.meter.bs.map (·.getD c 0))
  let clip := cs.any (·.2) || outs.any (·.2)
  (s.addSample n tau (outs.map (·.1)) clip).sampleRec n tau (outs.map (·.1)) clip

/-- METER_SAMPLE (R302, R303): the codes of the modulators of the sixteen positions, and of the modulator that shadows. -/
def execMeterSample (codes : List Int) (spare : Int) (cross : Option (Fin 65536)) (s : State) : Host.Outcome State Fault Refusal :=
  .next (if s.meterOn then s.meterSample codes spare (cross.map (·.val)) else s)

/-! ## Results (R306) -/

def chan (c : Nat) (xs : List (List Int)) : List Int := xs.map (·.getD c 0)
def dot (a b : List Int) : Int := (List.zipWith (· * ·) a b).foldl (· + ·) 0
def State.fs (s : State) (c : Nat) : Nat := s.get (R.MCH_FS c)

/-- RMS of a list of values of a channel, in primary units. -/
def State.rmsOf (s : State) (c : Nat) (xs : List Int) : Rat :=
  sqrtR ((dot xs xs * (s.fs c : Int) * s.fs c : Int) / ((xs.length * 2 ^ 78 : Nat) : Rat))
/-- A product sum of an element as power. -/
def State.powerOf (s : State) (e : Nat) (sum : Int) (n : Nat) : Rat :=
  (sum * s.fs (s.elemV e) * s.fs (s.elemI e) : Int) / ((2 ^ 78 * n : Nat) : Rat)
/-- A product sum as energy in units of 2^-48 Q (R310). -/
def quantum (q : Nat) : Nat := 10 ^ q
def State.energyOf (s : State) (e : Nat) (sum : Int) : Int :=
  let d : Int := 2 ^ 30 * 115200000 * quantum s.meter.quant
  (2 * sum * s.fs (s.elemV e) * s.fs (s.elemI e) + d) / (2 * d)

/-- The fundamental angle of a list in time order, in turns. -/
def dftAngle (cyc : Nat) (xs : List Int) : Rat :=
  let n := xs.length
  let th := (List.range n).map fun i => frac ((cyc * i : Nat) / (n : Rat))
  let re := (List.zipWith (fun (x : Int) a => x * cosT a) xs th).foldl (· + ·) 0
  let im := (List.zipWith (fun (x : Int) a => x * sinT a) xs th).foldl (· + ·) 0
  angleT (-im) re

/-- The voltage of an element delayed by the quarter period, newest first (R309). -/
def quarter (dq n : Nat) (v : List Int) : List Int :=
  let b := v.drop (dq / 65536 - 1)
  let h := lagrange (dq % 65536)
  (List.zipWith (· + ·)
    (List.zipWith (fun x y => h.getD 0 0 * x + h.getD 1 0 * y) b (b.drop 1))
    (List.zipWith (fun x y => h.getD 2 0 * x + h.getD 3 0 * y) (b.drop 2) (b.drop 3))).take n |>.map fun z => (2 * z + 2 ^ 24) / 2 ^ 25

/-- What a window gives for one element. -/
structure ElemOut where
  p : Rat := 0
  q : Rat := 0
  va : Rat := 0
  phi : Rat := 0
  ea : Int := 0
  er : Int := 0
  ampere : Rat := 0
deriving DecidableEq, Repr

def State.elemOut (s : State) (w : MWin) (e : Nat) : ElemOut :=
  if s.flag (R.ELEM_CFG_EN e) then
    let n := w.xs.length
    let v := chan (s.elemV e) w.xs
    let i0 := chan (s.elemI e) w.xs
    let i := if s.flag (R.ELEM_CFG_INV e) then i0.map (- ·) else i0
    let vq := quarter w.dq n (chan (s.elemV e) (w.xs ++ w.hist))
    let a := s.rmsOf (s.elemI e) i0
    { p := s.powerOf e (dot v i) n, q := s.powerOf e (dot vq i) n, va := s.rmsOf (s.elemV e) v * a,
      phi := wrapHalf (dftAngle w.cycles v.reverse - dftAngle w.cycles i0.reverse),
      ea := s.energyOf e (dot v i), er := s.energyOf e (dot vq i), ampere := a }
  else {}

/-- The flag of R307: an enabled voltage channel's RMS over one nominal cycle, each half cycle, outside 0.90 to 1.10 of UDIN. -/
def State.flagged (s : State) (w : MWin) : Bool :=
  let n := w.xs.length
  let nom := s.meterNom
  let cyc := 32000 / nom
  let lim : Int := s.get R.METER_CFG_UDIN * s.get R.METER_CFG_UDIN * cyc * 2 ^ 78
  (List.range 8).any fun c => s.flag ⟨(R.MCH_CFG c).addr, 0, 0⟩ &&
    (let v := chan c (w.xs ++ w.hist)
     (List.range (n * 2 * nom / 32000)).any fun j =>
       let seg := (v.drop (n - (j + 1) * 32000 / (2 * nom))).take cyc
       let q := dot seg seg * s.fs c * s.fs c * 100
       decide (q < 81 * lim) || decide (121 * lim < q))

/-! ## Energy (R310 to R313) -/

def noAcc (_ : Nat) : Nat := 0
def State.accT (s : State) (i : Nat) : Nat := Tab.get noAcc s.meter.acc i
/-- The top of an accumulator with its residue. -/
def accTop : Nat := (2 ^ 64 - 1) * 2 ^ 32
/-- A of an accumulator (set k, accumulator j at 6k + j). -/
def State.accA (s : State) (i : Nat) : Nat := s.accT i / 2 ^ 32

/-- A wrap of a window register (R312). -/
def State.wrapAcc (s : State) (i : Nat) : State :=
  let n := Tab.get noAcc s.meter.wraps i
  let s := s.setMeter fun m => { m with wraps := Tab.set noAcc m.wraps i (min 255 (n + 1)) }
  if n = 0 then s.irq .macc 0 1
  else
    let s := s.irq .macc 0 0
    if s.meter.ovf.contains i || s.flag (R.ACC_WST_OVF (i / 6) (i % 6)) then s
    else (s.setMeter fun m => { m with ovf := i :: m.ovf }).emit 10 63 0x4B2 (i / 6 + i % 6 * 16)
/-- A window energy added to an accumulator (R311). -/
def State.addAcc (s : State) (i amount : Nat) : State :=
  let t := s.accT i
  let t' := min (t + amount) accTop
  let s := s.setMeter fun m => { m with acc := Tab.set noAcc m.acc i t' }
  let s := s.forEach (fun s _ => s.wrapAcc i) (List.range (t' / 2 ^ 76 - t / 2 ^ 76))
  if decide (t < accTop) && decide (accTop ≤ t + amount) then s.emit 10 63 0x4B2 (i / 6 + i % 6 * 16 + 128) else s
/-- The accumulators of set k receive its energies (R310). -/
def State.addSet (s : State) (k : Nat) (ea er : Int) : State :=
  let pos := decide (0 ≤ ea)
  let rpos := decide (0 ≤ er)
  let s := s.addAcc (6 * k + (if pos then 0 else 1)) ea.natAbs
  let quad := if rpos then (if pos then 2 else 3) else (if pos then 5 else 4)
  s.addAcc (6 * k + quad) er.natAbs

/-- RUNNING and NO_LOAD at a window end (R313). -/
def State.loadState (s : State) (e : Nat) (ampere : Rat) : State :=
  let was := s.meter.running.testBit e
  let start : Rat := (s.get (R.ELEM_START_ISTART e) : Rat) / 256
  let now := s.flag (R.ELEM_CFG_EN e) && (if was then decide (¬ ampere < 3 / 4 * start) else decide (start ≤ ampere))
  if was == now then s
  else (s.setMeter fun m => { m with running := m.running ^^^ 2 ^ e }).emit 10 63 0x0B6 (e + now.toNat * 8)

/-- Registers rewritten at a window end, or held back (R314). -/
def State.showAll (s : State) (l : List (Fld × Nat)) : State := l.foldl (fun s q => s.put q.1 q.2) s
def State.publish (s : State) (l : List (Fld × Nat)) : State :=
  if s.flag R.METER_CTL_HOLD then s.setMeter fun m => { m with held := l } else s.showAll l
/-- The registers of METER_ACC. -/
def State.accFields (s : State) : List (Fld × Nat) :=
  (R.METER_ACC_SEQ, s.meter.seq) :: ((List.range 54).map fun i =>
    let a := s.accA i
    [(R.ACC_LO (i / 6) (i % 6), a % 2 ^ 32), (R.ACC_HI (i / 6) (i % 6), a / 2 ^ 32),
     (R.ACC_WIN (i / 6) (i % 6), a / 2 ^ 12 % 2 ^ 32), (R.ACC_WST_WRAP (i / 6) (i % 6), Tab.get noAcc s.meter.wraps i)] ++
    (if s.meter.ovf.contains i then [(R.ACC_WST_OVF (i / 6) (i % 6), 1)] else [])).flatten

/-- A two's-complement field value. -/
def twos (w : Nat) (v : Int) : Nat := (v % 2 ^ w).toNat
/-- P, Q, S, PF and PHI of set k. -/
def setFields (k : Nat) (p q va phi : Rat) : List (Fld × Nat) :=
  let pf := if va = 0 then 0 else p / va
  [(R.RES_P k, twos 32 (fmtS 32 4 p)), (R.RES_Q k, twos 32 (fmtS 32 4 q)), (R.RES_S k, fmtU 32 4 va),
   (R.RES_PF_PF k, twos 16 (fmtS 16 14 pf)), (R.RES_PF_PHI k, twos 16 (fmtS 16 16 phi))]

/-- Mean square root of values of one channel over windows. -/
def rmsMean (l : List Nat) : Nat :=
  let sum : Nat := (l.map fun v => v * v).foldl (· + ·) 0
  (isqrt (4 * sum / l.length) + 1) / 2
/-- A WIN record or an aggregate. -/
def State.winRec (s : State) (kind tau b10 : Nat) (w : MWin) (flagged : Bool) (rms : List Nat) (f : Nat) : State :=
  s.ringPush 14 (meterRec (stampOf tau) kind (s.recFlags w.test w.noref flagged w.clip w.short) b10 (layWords 32 (rms ++ [f])))
def State.aggRec (s : State) (kind : Nat) (w : MWin) (flagged : Bool) (runs : List (List Nat)) : State :=
  if runs.isEmpty then s else
    s.draw.winRec kind w.tau runs.length w flagged ((List.range 8).map fun c => rmsMean (runs.map (·.getD c 0)))
      (Config.aggFreq s.fresh).toNat
/-- The number of the 600 s interval of a time. -/
def tenMin (tau : Nat) : Nat := tau / (600 * secQ)
/-- FLAGGED: a window of the current 600 s interval is flagged. -/
def State.showFlagged (s : State) (k : Nat) : State :=
  s.putB R.METER_STAT_FLAGGED (s.meter.run10m.any fun q => q.1 == k && q.2.1)
/-- The aggregates of R307. -/
def State.aggregate (s : State) (w : MWin) (flag : Bool) (rms : List Nat) : State :=
  let s := s.setMeter fun m =>
    { m with run150 := if w.stepped then m.run150 else m.run150 ++ [rms], run10m := m.run10m ++ [(tenMin w.tau, flag, rms)],
             flag150 := m.flag150 || (flag && !w.stepped) }
  let s := if s.meter.run150.length = 15 ∨ w.at600 = true then
      (s.aggRec 3 w s.meter.flag150 s.meter.run150).setMeter fun m => { m with run150 := [], flag150 := false }
    else s
  if w.at600 then
    let mine := s.meter.run10m.filter fun q => q.1 == tenMin w.tau
    ((s.aggRec 4 w (mine.any (·.2.1)) (mine.map (·.2.2))).setMeter fun m => { m with run10m := [] }).showFlagged 0
  else s.showFlagged (tenMin (s.time.now - meterDelay))

/-- The test energy (R324). -/
def State.addTest (s : State) (ea : Int) : State :=
  let t := s.meter.tacc + ea
  let s := s.setMeter fun m => { m with tacc := t }
  let v := twos 64 (t / 2 ^ 32)
  (s.put R.METER_TACC_LO v).put R.METER_TACC_HI (v / 2 ^ 32)

/-- A closed window is evaluated (R306 to R314). -/
def State.evalWin (s : State) (w : MWin) : State :=
  let n := w.xs.length
  let outs := (List.range 8).map fun e => s.elemOut w e
  let el := fun e => outs.getD e {}
  let rms := (List.range 16).map fun c => fmtU 32 12 (s.rmsOf c (chan c w.xs))
  let ref := dftAngle w.cycles (chan (s.get R.METER_CFG_REFCH) w.xs).reverse
  let angs := (List.range 16).map fun c => twos 16 (rnd 16 (dftAngle w.cycles (chan c w.xs).reverse - ref))
  let flag := s.flagged w
  let s := s.forEach (fun s e => s.loadState e (el e).ampere) (List.range 8)
  let counts := fun e => s.meter.running.testBit e && !s.elemLost e
  let ea := fun e => if counts e then (el e).ea else 0
  let er := fun e => if counts e then (el e).er else 0
  let sel := (List.range 8).filter fun e => (s.get R.METER_CFG_SYS).testBit e
  let sumR := fun (f : ElemOut → Rat) => (sel.map fun e => f (el e)).foldl (· + ·) 0
  let sumI := fun (f : Nat → Int) => (sel.map f).foldl (· + ·) 0
  let s := if w.test then s.addTest (sumI ea)
    else (s.forEach (fun s e => s.addSet e (ea e) (er e)) (List.range 8)).addSet 8 (sumI ea) (sumI er)
  let s := s.setMeter fun m => { m with seq := (m.seq + 1) % 2 ^ 32, tend := w.tau }
  let res : List (Fld × Nat) :=
    [(R.RES_SEQ, s.meter.seq), (R.RES_TEND_LO, stampOf w.tau), (R.RES_TEND_HI, stampOf w.tau / 2 ^ 32), (R.RES_N_N, n),
     (R.RES_N_NOREF, w.noref.toNat), (R.RES_N_SHORT, w.short.toNat), (R.RES_N_FLAG, flag.toNat),
     (R.RES_ESTAT_RUNNING, s.meter.running), (R.RES_ESTAT_LOST, s.lostBits)] ++
    (List.range 16).map (fun c => (R.RES_RMS c, rms.getD c 0)) ++ (List.range 16).map (fun c => (R.RES_ANG_ANG c, angs.getD c 0)) ++
    ((List.range 8).map fun e => setFields e (el e).p (el e).q (el e).va (el e).phi).flatten ++
    setFields 8 (sumR (·.p)) (sumR (·.q)) (sumR (·.va)) 0
  let s := s.publish (res ++ s.accFields)
  let s := if s.flag R.METER_CTL_HOLD then s else s.setMeter fun m => { m with ovf := [] }
  let s := (s.putB R.METER_STAT_NOREF w.noref).irq .meter 0 0
  let f := match w.freq with
    | some f => fmtU 32 16 f
    | none => 0
  let s := if s.flag R.METER_CTL_WINREC then s.winRec 2 w.tau n w flag (rms.take 8) f else s
  s.aggregate w flag (rms.take 8)

/-- Every closed window is evaluated. -/
def State.evalAll (s : State) : Nat → State
  | 0 => s
  | k + 1 =>
    match s.meter.closed with
    | [] => s
    | w :: ws => ((s.setMeter fun m => { m with closed := ws }).evalWin w).evalAll k

/-- WINDOW_END (R305, R314): the oldest closed window is evaluated, and its end reaches the trigger lines (R343). -/
def execWindowEnd (s : State) : Host.Outcome State Fault Refusal :=
  .next (s.whenAlive fun s => if s.meter.closed.isEmpty then s else (s.evalAll 1).pulse 10)

/-- FREQ10S (R308). -/
def execFreq10s (s : State) : Host.Outcome State Fault Refusal :=
  .next (s.whenAlive fun s =>
    match s.meter.tens with
    | [] => s
    | t :: ts =>
      let s := s.setMeter fun m => { m with tens := ts }
      let cyc := t.count - 1
      let f := if t.count < 2 then 0 else fmtU 32 16 ((cyc * 32000 * 65536 : Nat) / ((t.last - t.first : Int) : Rat))
      let s := (s.put R.METER_FREQ f).irq .meter 0 5
      s.ringPush 14 (meterRec (stampOf ((t.k.getD 0 + 1) * (10 * secQ))) 5 (s.recFlags s.injOn (t.count == 0) false false false) cyc f))

end Sys2Proof.Machine
end

