-- ==== Sys2Proof/Machine/Crypto.lean ====
section
/-! DEFINITION. SHA-256 and the verification of an ECDSA signature on the curve P-256, as the boot ROM uses them (R451, R452). The spec
names both and gives neither: they are taken from FIPS 180-4 and FIPS 186 (log 33). -/

namespace Sys2Proof.Machine

open Sys2Proof

/-! ## SHA-256 -/

/-- The round constants and the initial hash value. -/
def shaK : List Nat :=
  [0x428a2f98, 0x71374491, 0xb5c0fbcf, 0xe9b5dba5, 0x3956c25b, 0x59f111f1, 0x923f82a4, 0xab1c5ed5,
   0xd807aa98, 0x12835b01, 0x243185be, 0x550c7dc3, 0x72be5d74, 0x80deb1fe, 0x9bdc06a7, 0xc19bf174] ++
  [0xe49b69c1, 0xefbe4786, 0x0fc19dc6, 0x240ca1cc, 0x2de92c6f, 0x4a7484aa, 0x5cb0a9dc, 0x76f988da,
   0x983e5152, 0xa831c66d, 0xb00327c8, 0xbf597fc7, 0xc6e00bf3, 0xd5a79147, 0x06ca6351, 0x14292967] ++
  [0x27b70a85, 0x2e1b2138, 0x4d2c6dfc, 0x53380d13, 0x650a7354, 0x766a0abb, 0x81c2c92e, 0x92722c85,
   0xa2bfe8a1, 0xa81a664b, 0xc24b8b70, 0xc76c51a3, 0xd192e819, 0xd6990624, 0xf40e3585, 0x106aa070] ++
  [0x19a4c116, 0x1e376c08, 0x2748774c, 0x34b0bcb5, 0x391c0cb3, 0x4ed8aa4a, 0x5b9cca4f, 0x682e6ff3,
   0x748f82ee, 0x78a5636f, 0x84c87814, 0x8cc70208, 0x90befffa, 0xa4506ceb, 0xbef9a3f7, 0xc67178f2]
def shaH : List Nat := [0x6a09e667, 0xbb67ae85, 0x3c6ef372, 0xa54ff53a, 0x510e527f, 0x9b05688c, 0x1f83d9ab, 0x5be0cd19]

def ror32 (x k : Nat) : Nat := x / 2 ^ k ||| x * 2 ^ (32 - k) % 2 ^ 32
/-- One round on the working variables a to h, with the round constant and the word of the message schedule. -/
def shaRound (v : List Nat) (k w : Nat) : List Nat :=
  match v with
  | [a, b, c, d, e, f, g, h] =>
    let t1 := h + (ror32 e 6 ^^^ ror32 e 11 ^^^ ror32 e 25) + (e &&& f ^^^ (2 ^ 32 - 1 - e) &&& g) + k + w
    let t2 := (ror32 a 2 ^^^ ror32 a 13 ^^^ ror32 a 22) + (a &&& b ^^^ a &&& c ^^^ b &&& c)
    [(t1 + t2) % 2 ^ 32, a, b, c, (d + t1) % 2 ^ 32, e, f, g]
  | _ => v
/-- The next word of the schedule after sixteen, oldest first. -/
def shaNext (w : List Nat) : Nat :=
  let x := w.getD 1 0
  let y := w.getD 14 0
  (w.getD 0 0 + (ror32 x 7 ^^^ ror32 x 18 ^^^ x / 8) + w.getD 9 0 + (ror32 y 17 ^^^ ror32 y 19 ^^^ y / 1024)) % 2 ^ 32
def shaRounds (v w : List Nat) : List Nat → List Nat
  | [] => v
  | k :: ks => shaRounds (shaRound v k (w.getD 0 0)) (w.drop 1 ++ [shaNext w]) ks
/-- The bytes of a block as words, most significant first. -/
def beWords : Nat → List Byte → List Nat
  | 0, _ => []
  | n + 1, bs => leNat (bs.take 4).reverse :: beWords n (bs.drop 4)
def shaBlock (h : List Nat) (bs : List Byte) : List Nat :=
  List.zipWith (fun a b => (a + b) % 2 ^ 32) h (shaRounds h (beWords 16 bs) shaK)
def shaBlocks : Nat → List Nat → List Byte → List Nat
  | 0, h, _ => h
  | n + 1, h, bs => shaBlocks n (shaBlock h (bs.take 64)) (bs.drop 64)
/-- The SHA-256 digest of some bytes, as 32 bytes. -/
def sha256 (m : List Byte) : List Byte :=
  let n := (m.length + 72) / 64
  let p := m ++ [0x80] ++ List.replicate (64 * n - 9 - m.length) 0 ++ (leBytes 8 (8 * m.length)).reverse
  ((shaBlocks n shaH p).map fun w => (leBytes 4 w).reverse).flatten

/-! ## ECDSA on P-256 -/

/-- The field's prime, the order of the base point, the coefficient b, and the base point. -/
def p256P : Nat := 2 ^ 256 - 2 ^ 224 + 2 ^ 192 + 2 ^ 96 - 1
def p256N : Nat := 0xFFFFFFFF00000000FFFFFFFFFFFFFFFFBCE6FAADA7179E84F3B9CAC2FC632551
def p256B : Nat := 0x5AC635D8AA3A93E7B3EBBD55769886BC651D06B0CC53B0F63BCE3C3E27D2604B
def p256G : Nat × Nat :=
  (0x6B17D1F2E12C4247F8BCE6E563A440F277037D812DEB33A0F4A13945D898C296,
   0x4FE342E2FE1A7F9B8EE7EB4A7C0F9E162BCE33576B315ECECBB6406837BF51F5)

/-- b to the power e times an accumulator, modulo m, over the n low bits of e. -/
def powMod (m : Nat) : Nat → Nat → Nat → Nat → Nat
  | 0, _, _, acc => acc
  | n + 1, b, e, acc => powMod m n (b * b % m) (e / 2) (if e % 2 = 1 then acc * b % m else acc)
/-- The inverse modulo a prime of at most 256 bits. -/
def invMod (m a : Nat) : Nat := powMod m 256 (a % m) (m - 2) 1
/-- The sum of two points of the curve; none is the point at infinity. -/
def ecAdd (x y : Option (Nat × Nat)) : Option (Nat × Nat) :=
  match x, y with
  | none, q => q
  | p, none => p
  | some p, some q =>
    let sum := fun (l : Nat) =>
      let u := (l * l + 2 * p256P - p.1 - q.1) % p256P
      some (u, (l * (p.1 + p256P - u) + p256P - p.2) % p256P)
    if p.1 = q.1 then
      if (p.2 + q.2) % p256P = 0 then none
      else sum ((3 * p.1 * p.1 + p256P - 3) * invMod p256P (2 * p.2) % p256P)
    else sum ((q.2 + p256P - p.2) * invMod p256P (q.1 + p256P - p.1) % p256P)
/-- An accumulator plus k times a point, over the n low bits of k. -/
def ecMul : Nat → Nat → Option (Nat × Nat) → Option (Nat × Nat) → Option (Nat × Nat)
  | 0, _, _, acc => acc
  | n + 1, k, p, acc => ecMul n (k / 2) (ecAdd p p) (if k % 2 = 1 then ecAdd acc p else acc)
/-- The pair is a point of the curve. -/
def onCurve (q : Nat × Nat) : Bool :=
  decide (q.1 < p256P) && decide (q.2 < p256P) &&
    q.2 * q.2 % p256P == (q.1 * q.1 * q.1 + (p256P - 3) * q.1 + p256B) % p256P
/-- The signature (r, s) over a digest verifies under the public key q. -/
def ecdsaVerify (q : Nat × Nat) (digest : List Byte) (r s : Nat) : Bool :=
  let e := leNat digest.reverse
  let w := invMod p256N s
  let pt := ecMul 256 (e * w % p256N) (some p256G) (ecMul 256 (r * w % p256N) (some q) none)
  onCurve q && decide (0 < r) && decide (r < p256N) && decide (0 < s) && decide (s < p256N) &&
    match pt with
    | none => false
    | some v => v.1 % p256N == r

end Sys2Proof.Machine
end

