-- ==== Sys2Proof/Machine/Log.lean ====
section
/-! DEFINITION. The log engine (R55 to R57, R474) and the parity scrub (R40 to R42). -/

namespace Sys2Proof.Machine

open Sys2Proof

/-! ## The log engine -/

/-- Entries that the merge buffer holds (R56). -/
def mergeCap : Nat := 512

/-- An entry reaches the log engine. One stamped before the last step of Gnomon time is released on arrival; one that finds
the buffer full releases the oldest early, which belongs to a run (R56). -/
def State.logArrive (s : State) (e : Ev) : State :=
  if e.old then s.writeEv e
  else
    let buf := s.log.buf ++ [e]
    if buf.length ≤ mergeCap then { s with log := { s.log with buf := buf } }
    else match takeFirst buf with
      | none => s
      | some (m, rest) =>
        let s := { s with log := { s.log with buf := rest } }.writeEv m
        { s with log := { s.log with run := s.log.run + 1 } }

/-- LOG_ENTRY_ARRIVAL (R56): entry i of those on their way reaches the log engine. -/
def execLogEntryArrival (i : Nat) (s : State) : Host.Outcome State Fault Refusal :=
  .next (s.whenAlive fun s =>
    match s.log.inflight.drop i with
    | [] => s
    | e :: rest => { s with log := { s.log with inflight := s.log.inflight.take i ++ rest } }.logArrive e)

/-- LOG_RELEASE (R56): Gnomon time passes the timestamp of the first held entry by 64 µs, which ends a run of early
releases. -/
def execLogRelease (s : State) : Host.Outcome State Fault Refusal :=
  .next (s.whenAlive fun s =>
    if s.time.run then
      match takeFirst s.log.buf with
      | none => s
      | some (e, rest) =>
        let s := s.advTo (e.t + usQ 64)
        let s := s.endRun
        { s with log := { s.log with buf := rest } }.writeEv e
    else s)

/-! ## Parity (R40 to R42) -/

/-- The bits of a register that its parity bit covers. -/
def coveredMask : List FieldSpec → Nat
  | [] => 0
  | f :: fs => (if f.covered then (2 ^ (f.hi + 1 - f.lo) - 1) * 2 ^ f.lo else 0) + coveredMask fs

def popOdd : Nat → Nat → Bool
  | 0, _ => false
  | n + 1, w => (w % 2 == 1) != popOdd n (w / 2)

/-- The page offsets of the registers of a family. -/
def RegFam.offs (f : RegFam) : List Nat :=
  match f.dims with
  | [] => [f.off]
  | [(c, st)] => (List.range c).map fun i => f.off + i * st
  | [(c, st), (c2, st2)] => (List.range c).flatMap fun i => (List.range c2).map fun j => f.off + i * st + j * st2
  | _ => []
/-- The page offsets of the covered registers of a page. -/
def coveredOffs (k : PageKind) (pn : Nat) : List Nat :=
  ((k.regs.filter fun f => f.fields.any FieldSpec.covered).flatMap RegFam.offs).filter fun off =>
    match findRegIn k pn off with
    | some r => r.isCovered
    | none => false
/-- The kinds of page of the block of a page, in ascending page index. -/
def blockKinds (k : PageKind) : List PageKind := allPages.filter fun j => j.info.block == k.info.block
/-- Number of covered registers of the pages of some kinds. -/
def coveredCount (ks : List PageKind) : Nat := (ks.map fun j => j.info.count * (coveredOffs j 0).length).foldl (· + ·) 0
/-- Covered registers of a block (R41). -/
def scrubLen (k : PageKind) : Nat := max 1 (coveredCount (blockKinds k))
/-- Place of an offset of a page in a pass of its block: ascending page index, then ascending offset (R41). -/
def scrubPlace (k : PageKind) (pn off : Nat) : Nat :=
  coveredCount ((blockKinds k).takeWhile (· != k)) + pn * (coveredOffs k 0).length + ((coveredOffs k pn).filter (decide <| · < off)).length

/-- The checks of a block whose time has passed since main reset was released: a pass lasts 64 µs and its checks are spread
evenly over it (R41). -/
def State.scrubPast (s : State) (k : PageKind) : Nat := (s.time.up - s.sys.relUp) * scrubLen k / usQ 64
/-- KEEP clocks since the elapsed time 0. -/
def State.keepClocks (s : State) : Nat := s.time.up * 32768 / secQ
/-- PASSES of a page (R33, R41): the passes in which its last covered register has been checked; an ORIGIN page has one on every
KEEP clock since the last Origin power-on. -/
def State.scrubPasses (s : State) (k : PageKind) (pn : Nat) : Nat :=
  if k = .origin then (s.keepClocks - s.org.scrubUp * 32768 / secQ) % 65536
  else (max (s.scrubPast k) (Tab.get (fun _ => 0) s.sys.scrubNo k.info.block) + scrubLen k - scrubPlace k pn 0x1000) / scrubLen k % 65536

/-- A mismatch is found in a register (R42). -/
def State.parityFault (s : State) (r : RegRef) : State :=
  let b := pageBase r.kind r.pn
  let was := s.flag (F.parErr b)
  let s := (s.put (F.parErr b) 1).irq r.kind r.pn 31
  if was then s else
    let s := if r.kind = .mcal then s.irq .meter 0 4 else s
    let react := s.get (F.react b)
    let s := s.put (F.errOffset b) r.off
    let s := s.emit r.kind.info.src 63 (if r.kind.info.cls = 1 then 0xFC3 else 0xBC3)
      (r.off + (r.kind.info.idx0 + r.pn) * 2 ^ 12 + react * 2 ^ 20)
    if react = 3 then s.haltDue 9
    else if react = 2 then { s with mode := { s.mode with dueParStandby := true } }
    else s

/-- An upset flips covered bits of a register (R40); Chord's copy of a SAFE parameter keeps what was written (R14). -/
def State.regUpset (s : State) (r : RegRef) (upset : Word) : State :=
  let m := upset &&& BitVec.ofNat 32 (coveredMask r.fam.fields)
  let a := r.addr
  let s := s.setReg a (s.reg a ^^^ m)
  let s := if r.kind.info.block = PageKind.safe.info.block then
      { s with safe := { s.safe with flips := Tab.set (fun _ => 0) s.safe.flips a (Tab.get (fun _ => 0) s.safe.flips a ^^^ m) } }
    else s
  if popOdd 32 m.toNat then
    { s with parFlip := if s.parFlip.contains a then s.parFlip.filter (· != a) else a :: s.parFlip }
  else s
/-- The check of one covered register (R42). -/
def State.scrubCheck (s : State) (r : RegRef) : State := if s.parFlip.contains r.addr then s.parityFault r else s

/-- The number of the next check of a register, counted through all passes of its block. -/
def State.scrubNext (s : State) (r : RegRef) : Nat :=
  let n := scrubLen r.kind
  let k := scrubPlace r.kind r.pn r.off
  let lo := max (s.scrubPast r.kind) (Tab.get (fun _ => 0) s.sys.scrubNo r.kind.info.block)
  lo + (k + n - lo % n) % n
/-- A check laid into a list by its number. -/
def insertCheck (q : Nat × RegRef) : List (Nat × RegRef) → List (Nat × RegRef)
  | [] => [q]
  | p :: l => if q.1 < p.1 then q :: p :: l else p :: insertCheck q l
/-- The registers of a block in error that its pass reaches before check i, in the order of their checks. -/
def State.scrubBefore (s : State) (k : PageKind) (i : Nat) : List (Nat × RegRef) :=
  ((s.parFlip.filterMap findReg).filter fun q => q.kind.info.block == k.info.block && q.isCovered && decide (s.scrubNext q < i)).foldl
    (fun l q => insertCheck (s.scrubNext q, q) l) []
/-- The scrub of a block reaches check i, of register r (R41): errors that lie before it are found first, each in its place. -/
def State.scrubTo (s : State) (r : RegRef) (i : Nat) : State :=
  let at_ := fun (j : Nat) => s.sys.relUp + (j * usQ 64 + scrubLen r.kind - 1) / scrubLen r.kind
  let t := (s.scrubBefore r.kind i).foldl (fun t q => (t.advUp (at_ q.1)).scrubCheck q.2) s
  let t := (t.advUp (at_ i)).scrubCheck r
  { t with sys := { t.sys with scrubNo := Tab.set (fun _ => 0) t.sys.scrubNo r.kind.info.block (i + 1) } }
/-- The next check of a register; the ORIGIN pages are checked on every KEEP clock (R41). -/
def State.scrub (s : State) (r : RegRef) : State :=
  if r.kind = .origin then (s.advUp (((s.keepClocks + 1) * secQ + 32767) / 32768)).scrubCheck r
  else s.scrubTo r (s.scrubNext r)

/-- PARITY_SCRUB (R41, R42): an upset has flipped some covered bits of a register, and the scrub reaches it. The ORIGIN page is
checked while VKEEP stands. -/
def execParityScrub (addr : Nat) (upset : Word) (s : State) : Host.Outcome State Fault Refusal :=
  .next (match findReg addr with
    | none => s
    | some r =>
      if r.isCovered && r.addr == addr && (if r.kind = .origin then s.org.vkeep else s.alive) then (s.regUpset r upset).scrub r else s)

end Sys2Proof.Machine
end

