-- ==== Sys2Proof/Machine/Ether.lean ====
section
/-! DEFINITION. The Ethernet MACs' timestamp units (R334 to R336, R349): received frames, transmit descriptors, one-step
Sync. A frame is its bytes without the frame check sequence. -/

namespace Sys2Proof.Machine

open Sys2Proof

def ethDefault (_ : Nat) : EthSt := {}
def State.ethPort (s : State) (n : Nat) : EthSt := Tab.get ethDefault s.eth n
def State.setEth (s : State) (n : Nat) (x : EthSt) : State := { s with eth := Tab.set ethDefault s.eth n x }

/-- A big-endian number of n bytes at offset i of a frame; absent bytes read 0. -/
def beAt (f : List Byte) (i : Nat) : Nat → Nat
  | 0 => 0
  | n + 1 => beAt f i n * 256 + (f.getD (i + n) 0).toNat
/-- n bytes of a number, most significant first. -/
def beBytes (n v : Nat) : List Byte := (leBytes n v).reverse
/-- Bytes written over a frame at offset i. -/
def overlay (f : List Byte) (i : Nat) (bs : List Byte) : List Byte := f.take i ++ bs ++ f.drop (i + bs.length)

/-- Offset of the ethertype, behind at most one VLAN tag. -/
def typeAt (f : List Byte) : Nat := if beAt f 12 2 = 0x8100 then 16 else 12
/-- The frame carries a PTP event message (R335): ethertype 0x88F7, or UDP port 319 over IPv4 or IPv6. -/
def isPtpEvent (f : List Byte) : Bool :=
  let i := typeAt f
  let e := beAt f i 2
  if e = 0x88F7 then true
  else if e = 0x0800 then
    beAt f (i + 11) 1 == 17 && beAt f (i + 2 + beAt f (i + 2) 1 % 16 * 4 + 2) 2 == 319
  else if e = 0x86DD then beAt f (i + 8) 1 == 17 && beAt f (i + 44) 2 == 319
  else false

/-- Offset of the PTP header of a Sync that one-step accepts (R336), and of its UDP checksum. -/
def syncAt (f : List Byte) : Option (Nat × Option Nat) :=
  let i := typeAt f
  let sync := fun (p : Nat) => beAt f p 1 % 16 == 0 && beAt f (p + 1) 1 % 16 == 2 && decide (p + 44 ≤ f.length)
  if beAt f i 2 = 0x88F7 then (if sync (i + 2) then some (i + 2, none) else none)
  else if i = 12 ∧ beAt f 12 2 = 0x0800 ∧ beAt f 14 1 = 0x45 ∧ beAt f 23 1 = 17 ∧ beAt f 36 2 = 319 then
    (if sync 42 then some (42, some 40) else none)
  else none
/-- originTimestamp and correctionField of a one-step Sync sent at time t (R336). -/
def oneStep (f : List Byte) (p : Nat) (ck : Option Nat) (t : Nat) : List Byte :=
  let f := overlay f (p + 34) (beBytes 6 (t / secQ) ++ beBytes 4 (t % secQ / 4))
  let f := overlay f (p + 8) (beBytes 8 ((beAt f (p + 8) 8 + t % secQ % 4 * 2 ^ 14) % 2 ^ 64))
  match ck with
  | none => f
  | some c => overlay f c [0, 0]

/-- Receive and transmit timestamps (R334) of a frame at the ball now. -/
def State.ethRxTime (s : State) (n : Nat) : Nat :=
  let a : Int := if s.flag (R.ETH_CTL_IF n) then s.get (R.ETH_ALIGN_ALIGN n) else 0
  (((s.time.now / 5 * 5 : Nat) : Int) - Config.ethDelay n false - s.getI (R.ETH_LAT_ING n) - (32 * a + 5) / 10).toNat
def State.ethTxTime (s : State) (n : Nat) : Nat :=
  (((s.time.now / 5 * 5 : Nat) : Int) + Config.ethDelay n true + s.getI (R.ETH_LAT_EGR n)).toNat

/-- Transmit ring and completion ring of a port. -/
def ethTx (n : Nat) : Nat := 44 + 2 * n
def ethRx (n : Nat) : Nat := 45 + 2 * n
/-- A completion entry (R335). -/
def ethEntry (a len kind : Nat) (err ptp : Bool) (t : Nat) : Nat :=
  a % 2 ^ 32 + len % 2 ^ 16 * 2 ^ 32 + kind * 2 ^ 48 + err.toNat * 2 ^ 49 + ptp.toNat * 2 ^ 50 + stampOf t * 2 ^ 64

/-- Space of a frame in the receive area. -/
def ethSpace (len : Nat) : Nat := (len + 63) / 64 * 64
/-- A counter of a port is incremented; leaving 0 it raises its interrupt. -/
def State.ethCount (s : State) (n : Nat) (f : Fld) (bit code : Nat) : State :=
  let s1 := s.bumpSat f
  (if s.get f = 0 then s1.irq .eth n bit else s1).emit 14 n code (s1.get f)

/-- The frames whose completion firmware has not passed. -/
def State.ethHeld (s : State) (n : Nat) : List (Nat × Nat) :=
  (s.ethPort n).frames.filter fun e => decide (2 ^ 31 ≤ (s.get (R.RING_CIDX (ethRx n)) + 2 ^ 32 - e.1 - 1) % 2 ^ 32)
/-- A frame is received (R334, R335). -/
def State.ethReceive (s : State) (n : Nat) (f : List Byte) (err : Bool) : State :=
  let x := s.ethPort n
  let held := s.ethHeld n
  let used : Nat := (held.map (·.2)).foldl (· + ·) 0
  let size := 2 ^ s.get (R.ETH_RXBUF_LOG2 n)
  let sp := ethSpace f.length
  let s := s.setEth n { x with frames := held }
  if size < used + sp then s.ethCount n (R.ETH_STAT_RXDROP n) 2 0x4D1
  else if s.ringTakes (ethRx n) then
    let base := s.get (R.ETH_RXBUF_BASE n) * 64
    let idx := s.get (R.RING_PIDX (ethRx n))
    let first := f.take (size - x.wr)
    let s := (s.sramMend (base + x.wr) first.length).sramMend base (f.length - first.length)
    let s := (s.sramStore (base + x.wr) first).sramStore base (f.drop (size - x.wr))
    let s := s.ringPush (ethRx n) (ethEntry (base + x.wr) f.length 0 err (isPtpEvent f) (s.ethRxTime n))
    s.setEth n { x with frames := held ++ [(idx, sp)], wr := (x.wr + sp) % size }
  else s.ringPush (ethRx n) 0

/-- A port that is enabled begins its receive area at its first byte, with nothing in it (log 222). -/
def State.ethEnable (s : State) (n : Nat) : State := s.setEth n { s.ethPort n with wr := 0, frames := [] }

/-- ETH_FRAME_RECEIVE (R334): a frame's start passes the ball of an enabled port now. -/
def execEthFrameReceive (port : Fin 2) (frame : List Byte) (err : Bool) (s : State) : Host.Outcome State Fault Refusal :=
  .next (if s.alive && s.flag (R.ETH_CTL_EN port) then s.ethReceive port frame err else s)

/-- The head descriptor of a port is taken and its frame sent (R335, R336). -/
def State.ethSend (s : State) (n d : Nat) : State :=
  let f := (List.range (d / 2 ^ 32 % 2 ^ 16)).map fun i => s.sramByte (d % 2 ^ 32 + i)
  let s := s.sramFetch (d % 2 ^ 32) (d / 2 ^ 32 % 2 ^ 16)
  let t := s.ethTxTime n
  let one := d.testBit 49
  let sync := if one then syncAt f else none
  let f := match sync with
    | some (p, ck) => oneStep f p ck t
    | none => f
  let s := (s.ringPop (ethTx n)).setEth n { s.ethPort n with sent := f }
  let s := if d.testBit 48 then
      let full := s.ringOn (ethRx n) && s.ringFull (ethRx n)
      let s := s.ringPush (ethRx n) (ethEntry (d / 2 ^ 64) 0 1 (one && sync.isNone) (isPtpEvent f) t)
      if full then s.ethCount n (R.ETH_STAT_TSLOST n) 3 0x4D0 else s
    else s
  if s.testActive && s.flag (R.ETH_CTL_LOOP n) then s.ethReceive n f false else s

/-- ETH_TRANSMIT (R335). -/
def execEthTransmit (port : Fin 2) (s : State) : Host.Outcome State Fault Refusal :=
  .next (if s.alive && s.flag (R.ETH_CTL_EN port) then
    match s.ringHead (ethTx port) with
    | some d => s.ethSend port d
    | none => s
  else s)

/-- ETH_LINK_UP (R334): under SGMII the alignment bit of this link-up is reported. -/
def execEthLinkUp (port : Fin 2) (align : Fin 10) (s : State) : Host.Outcome State Fault Refusal :=
  .next (if s.alive && s.flag (R.ETH_CTL_EN port) then
    let s := if s.flag (R.ETH_CTL_IF port) then s.put (R.ETH_ALIGN_ALIGN port) align else s
    (s.setEth port { s.ethPort port with up := true }).irq .eth port 0
  else s)

/-- ETH_LINK_DOWN (R349). -/
def execEthLinkDown (port : Fin 2) (s : State) : Host.Outcome State Fault Refusal :=
  .next (if s.alive && (s.ethPort port).up then
    (s.setEth port { s.ethPort port with up := false }).irq .eth port 1
  else s)

end Sys2Proof.Machine
end

