-- ==== Sys2Proof/Machine/LinkEvents.lean ====
section
/-! DEFINITION. The meanings of the events of the Skatlink ports (spec/05) and of tagged transactions (spec/02). An
event that the port's state does not admit changes nothing. -/

namespace Sys2Proof.Machine

open Sys2Proof

/-- TAG_REQUEST (R49). -/
def execTagRequest (port : Fin 8) (s : State) : Host.Outcome State Fault Refusal :=
  .next (s.whenAlive fun s => s.takeRequest port)

/-- RSP (R50, R51, R124). -/
def execRsp (port : Fin 8) (block : Dword) (s : State) : Host.Outcome State Fault Refusal :=
  .next (s.whenAlive fun s =>
    if s.linkUp port && rxValid false block && blockType block == tRSP then (s.heard port).response port block else s)

/-- TAG_TIMEOUT (R51, R139): TAG_TO passes since the request's departure without an RSP up to that clock (R9). -/
def execTagTimeout (port : Fin 8) (tag : Fin 32) (s : State) : Host.Outcome State Fault Refusal :=
  .next (s.whenAlive fun s => if s.tagBusy port tag then
    let r := Tab.get tagDefault (s.drained port).tags tag
    let s := s.advUp (r.at_ + usQ (s.get (R.LINK_CTL_TAG_TO port)))
    let s := s.emit 3 (port * 8 + r.leg) 0x436 (tag + r.wordAddr * 32 + r.write.toNat * 2 ^ 15)
    ((s.endTag port tag 1 0 true).pump port pumpFuel).idle
  else s)

/-- TAG_QUARANTINE_END (R51): 64 µs pass since the timeout; after LINK_DOWN the tag waits for training. -/
def execTagQuarantineEnd (port : Fin 8) (tag : Fin 32) (s : State) : Host.Outcome State Fault Refusal :=
  .next (s.whenAlive fun s => if s.tagQuar port tag && (s.tag port tag).kind != 3 then
    (((s.advUp ((s.tag port tag).at_ + usQ 64)).put ((R.LINK_TAGQ port).bit tag) 0).setTag port tag {}).pump port pumpFuel
  else s)

/-- CLOCK_PHASE_DONE (R112, R135, R136): the receivers correct the wiring found, and the port enters EQ and makes its first request on each
lane. -/
def execClockPhaseDone (port : Fin 8) (wiring : BitVec 3) (s : State) : Host.Outcome State Fault Refusal :=
  .next (s.whenAlive fun s => if s.linkState port == stCLOCK then
    let s := (s.setPort port { s.port port with fix := wiring.toNat }).enterLink port stEQ
    (s.eqNext port 0 {}).eqNext port 1 {}
  else s)

/-- EQ_PHASE_DONE (R135): DONE has been sent and received on both lanes. -/
def execEqPhaseDone (port : Fin 8) (s : State) : Host.Outcome State Fault Refusal :=
  .next (s.whenAlive fun s => if s.linkState port == stEQ && (s.lane port 0).done && (s.lane port 1).done && (s.lane port 0).farDone &&
      (s.lane port 1).farDone then s.enterLink port stLAT else s)

/-- TAP_REQUEST (R137). -/
def execTapRequest (port : Fin 8) (block : Dword) (s : State) : Host.Outcome State Fault Refusal :=
  .next (s.whenAlive fun s => if s.linkState port == stEQ && isEq block then s.answerTaps port block else s)

/-- TAP_ACK (R138): ASEQ equals RSEQ, 20 µs pass, and the eye height decides the next request. -/
def execTapAck (port : Fin 8) (lane : Fin 2) (block : Dword) (eye : Nat) (s : State) : Host.Outcome State Fault Refusal :=
  .next (s.whenAlive fun s => if s.linkState port == stEQ && isEq block && bitsOf block 51 51 == lane.val &&
      bitOf block 34 == (s.lane port lane).rseq && !(s.lane port lane).done then
    let v := s.lane port lane
    let s := s.setLane port lane { v with farDone := v.farDone || bitOf block 42, ask := (0, 0, 0) }
    (s.advUp (s.time.up + usQ 20)).eqJudge port lane eye (bitsOf block 33 32, bitsOf block 31 30, bitsOf block 29 28)
  else s)

/-- LAT_PHASE_DONE (R129, R136): a round of 64 echoes, each with A − D of its probe in units. -/
def execLatPhaseDone (port : Fin 8) (echoes : List (Nat × Dword)) (s : State) : Host.Outcome State Fault Refusal :=
  .next (s.whenAlive fun s =>
    if s.linkState port == stLAT && latRound echoes then s.latDone port (echoes.map latTrip) else s)

/-- A valid READY block whose NEXT is not that of the port (R136). -/
def State.nextMismatch (s : State) (p : Nat) (ready : Dword) : Bool :=
  rxValid true ready && bitsOf ready 54 52 == 3 && bitsOf ready 42 41 != s.readyNext p

/-- LINK_UP (R135): `ready` is the last of the 16 READY blocks received, `desat` the legs whose LN_CAP[1] is 1. Another NEXT fails the
training. -/
def execLinkUp (port : Fin 8) (desat : BitVec 8) (ready : Dword) (s : State) : Host.Outcome State Fault Refusal :=
  .next (s.whenAlive fun s => if s.linkState port == stREADY then
    (if s.nextMismatch port ready then s.trainFail port 6
     else if s.readyNext port == 0 && isReady 0 ready then s.linkComesUp port desat.toNat else s) else s)

/-- LINK_TEST_ENTRY (R135, R143, R144): `ready` is the last of the 16 READY blocks received. Another NEXT fails the training. -/
def execLinkTestEntry (port : Fin 8) (ready : Dword) (s : State) : Host.Outcome State Fault Refusal :=
  .next (s.whenAlive fun s => if s.linkState port == stREADY then
    (if s.nextMismatch port ready then s.trainFail port 6
     else if s.readyNext port != 0 && isReady (s.readyNext port) ready then (s.clearLink port).enterLink port stTEST else s) else s)

/-- The causes of a training failure that a state admits (R136), and the timeout that a cause waits for: a round of LAT that lacks echoes
fails at its timeout with code 4 or 5 as the command says (log 216), and READY with code 6 at its own; a NEXT mismatch comes with the
READY block that shows it. -/
def failAllowed (st cause : Nat) : Bool :=
  (st == stCLOCK && (cause == 1 || cause == 2 || cause == 7)) || (st == stEQ && cause == 3) ||
  (st == stLAT && (cause == 4 || cause == 5)) || (st == stREADY && cause == 6)
def failTimeout (cause : Nat) : Nat :=
  if cause = 1 ∨ cause = 4 ∨ cause = 5 then usQ 200 else if cause = 3 then usQ 2000 else if cause = 6 then usQ 50 else 0

/-- TRAIN_FAIL (R136): a timeout acts in its own clock, behind what that clock brings (R9). -/
def execTrainFail (port : Fin 8) (cause : Fin 8) (s : State) : Host.Outcome State Fault Refusal :=
  .next (s.whenAlive fun s => if failAllowed (s.linkState port) cause then
    if failTimeout cause = 0 then s.trainFail port cause
    else ((s.advUp ((s.port port).enterUp + failTimeout cause)).trainFail port cause).idle
  else s)

/-- BACKOFF_END (R135): DOWN ends, unless the LINK PLL has lost lock (R441). -/
def execBackoffEnd (port : Fin 8) (s : State) : Host.Outcome State Fault Refusal :=
  .next (s.whenAlive fun s => if s.linkState port == stDOWN && s.flag (R.CLK_PLL_LOCK.bit 2) then
    let o := s.port port
    let s := s.advUp o.downUp
    if s.flag (R.LINK_CTL_AUTORT port) || o.retrain || o.testEnd || decide (3 ≤ s.get (R.LINK_CTL_LOOP port)) then
      s.enterClock port
    else s.enterLink port stOFF
  else s)

/-- LINK_LOSS (R140): `why` names no valid block, block lock lost, UCK lost, TRAIN received. Silence lasts 1.0 µs, and a valid block up
to that clock restarts the count (R9). -/
def execLinkLoss (port : Fin 8) (why : BitVec 4) (s : State) : Host.Outcome State Fault Refusal :=
  .next (s.whenAlive fun s => if s.linkUp port && why != 0 then
    ((s.advUp (if why.getLsbD 0 then (s.port port).lastRx + usQ 1 else s.time.up)).lossOfLink port why.toNat false).idle
  else s)

/-- The slot of a port's next probe, 1024 slots after the last (R130): one that has passed is left out. -/
def State.nextProbe (s : State) (p : Nat) : Nat :=
  let n := (s.port p).probeSlot
  n + max 1 ((s.slotsBegun - n + 1023) / 1024) * 1024

/-- LATENCY_PROBE (R130). -/
def execLatencyProbe (port : Fin 8) (s : State) : Host.Outcome State Fault Refusal :=
  .next (s.whenAlive fun s => if s.linkUp port then
    let n := s.nextProbe port
    let s := s.advUp (n * 528 / 10 - 5)
    let o := s.port port
    (s.setPort port { o with pid := (o.pid + 1) % 256, probeSlot := n }).send port ⟨prIDLE, 0, 8, probeBlock o.pid⟩
  else s)

/-- PROBE_ECHO (R125, R129, R130, R140): a valid IDLE restarts the silence count; the echo of an outstanding probe arrives `elapsed` units
after that probe's departure and gives a round trip. -/
def execProbeEcho (port : Fin 8) (elapsed : Nat) (block : Dword) (s : State) : Host.Outcome State Fault Refusal :=
  .next (s.whenAlive fun s => if s.linkUp port && rxValid false block && blockType block == tIDLE then
    let o := s.port port
    let pid := bitsOf block 52 45
    match if bitOf block 54 && bitOf block 53 then (s.drained port).probes.find? (fun q => q.1 == pid) else none with
    | some q =>
      let ts := (o.rtts ++ [(elapsed : Int) - bitsOf block 44 21]).drop (o.rtts.length - 63)
      let s := (s.advUp (q.2 + unitsToQ elapsed)).txRun port
      let s := s.setPort port { s.port port with probes := (s.port port).probes.filter (fun r => r.1 != pid), rtts := ts }
      (((s.heard port).putI (R.LINK_LAT_RTT port) (rttMean ts))).latShift port
    | none => s.heard port
  else s)

/-- SAMPLE (R121): a head and a tail of one slot. -/
def execSample (port : Fin 8) (head tail : Dword) (s : State) : Host.Outcome State Fault Refusal :=
  .next (s.whenAlive fun s => if s.linkUp port then
    let h := isHalf 0 head
    let t := isHalf 1 tail
    if h && t && blockLeg head == blockLeg tail then
      (s.heard port).samplePair (port * 8 + blockLeg head) (signed 16 (bitsOf head 53 38)) (signed 16 (bitsOf head 37 22))
        (signed 16 (bitsOf tail 53 38)) (s.seqInstant (bitsOf head 21 14) (bitsOf tail 37 14))
    else
      let s := if rxValid false head || rxValid false tail then s.heard port else s
      let halves := (rxValid false head && blockType head == tSAMPLE).toNat + (rxValid false tail && blockType tail == tSAMPLE).toNat
      s.put (R.LINK_ERR_SAMPLE_ERR port) (satN 8 (s.get (R.LINK_ERR_SAMPLE_ERR port) + halves))
  else s)

/-- STATUS (R123, R149). -/
def execStatus (port : Fin 8) (block : Dword) (s : State) : Host.Outcome State Fault Refusal :=
  .next (s.whenAlive fun s => if s.linkUp port && rxValid false block && blockType block == tSTATUS then (s.heard port).statusBlock port block
  else s)

/-- INVALID_BLOCK (R115). In TEST it is one slot of the test, judged by R143 and R144. `train` tells the header 1 then 0. -/
def execInvalidBlock (port : Fin 8) (lane : Fin 2) (train : Bool) (block : Dword) (s : State) :
    Host.Outcome State Fault Refusal :=
  .next (s.whenAlive fun s =>
    let st := s.linkState port
    if st == stTEST then s.loopBlock port lane train block
    else if st == stOFF || st == stDOWN || rxValid train block then s
    else s.countInvalid port lane (wrongType train block))

end Sys2Proof.Machine
end

