-- ==== Sys2Proof/Machine/MeterEvents.lean ====
section
/-! DEFINITION. Annulus: checkpoints, restore and gaps (R321 to R323), synchrophasor reports (R319), the rotation of M16
(R317), and what writes of its registers do (R312, R314, R315, R324). -/

namespace Sys2Proof.Machine

open Sys2Proof

/-! ## Snapshots (R321, R322) -/

/-- The snapshot and the words that Origin adds from the staging (R321, R425): the places of τ, sequence, element states and
flags among words 54 and 55 are the model's. -/
def State.snapshot (s : State) (ts : Nat) (final reset : Bool) : List Nat :=
  (List.range 54).map s.accA ++
    [stampOf s.meter.tend,
     s.meter.seq + s.meter.running * 2 ^ 32 + final.toNat * 2 ^ 40 + s.meterCalErr.toNat * 2 ^ 41 + reset.toNat * 2 ^ 42,
     stampOf ts, (s.reg 0x40900040).toNat, s.get ⟨0x40001044, 3, 0⟩ + s.majorMode * 16]

/-- METER_CHECKPOINT_STAGE (R321, R320): the next whole second. Under test injection the checkpoints hold (R324). -/
def execMeterCheckpointStage (s : State) : Host.Outcome State Fault Refusal :=
  .next (if s.alive && s.time.run && s.flag R.METER_STAT_RUN then
    let k := max ((s.time.now + (secQ - 1)) / secQ) (match s.meter.lastSec with
      | none => 0
      | some k => k + 1)
    let s := s.advTo (k * secQ)
    let s := s.setMeter fun m => { m with lastSec := some k }
    let s := if s.injOn then s else { s with org := { s.org with stage := some (s.snapshot (k * secQ) false false) } }
    s.ringPush 15 (meterRec (stampOf (k * secQ)) 0x10 (s.recFlags s.injOn false false false false) s.meter.seq
      (layWords 64 ((List.range 6).map fun j => s.accA (48 + j))))
  else s)

/-- The window in progress closes at once and the final snapshot is staged (R322). -/
def State.meterFinal (s : State) (reset : Bool) : State :=
  if s.flag R.METER_STAT_RUN then
    let s := s.closeWin true false
    let s := s.evalAll s.meter.closed.length
    { s with org := { s.org with stage := some (s.snapshot (s.time.now / secQ * secQ) true reset) } }
  else s

/-- A step of Gnomon time (R323): the window in progress ends, the 150-cycle run and the 10 s interval are discarded. -/
def State.meterTimeStep (s : State) : State :=
  let s := (s.closeWin true false).setMeter fun m =>
    { m with run150 := [], flag150 := false, ten := { skip := true }, last := none, lastSec := none, lastPmu := none,
             closed := m.closed.map fun w => { w with stepped := true } }
  s.showFlagged (tenMin s.time.now)

/-! ## Restore (R323) -/

/-- The Gnomon time of a timestamp. -/
def unstamp (t : Nat) : Nat := t / 2 ^ 32 * secQ + t % 2 ^ 32
/-- What the newest valid record gives: its snapshot words, and a VFAIL_N instant as a timestamp. -/
def State.meterRestore (s : State) (rec : Option (List Nat)) (vfail : Option Nat) : State :=
  let s := s.put R.METER_STAT_RESTORED 1
  match rec with
  | none => s.setMeter fun m => { m with restoredUp := some s.time.up, gap := some (0, none, true) }
  | some w =>
    let acc := (List.range 54).foldl (fun t i => Tab.set noAcc t i (w.getD i 0 * 2 ^ 32)) []
    let flags := w.getD 55 0
    let final := flags.testBit 40
    let s := s.setMeter fun m => { m with acc, seq := flags % 2 ^ 32, tend := unstamp (w.getD 54 0), restTau := w.getD 54 0, final,
                                          restoredUp := some s.time.up, gap := if final then none else some (w.getD 54 0, vfail, false) }
    (s.showAll s.accFields).emit 10 63 0x0B0 (flags % 2 ^ 32 + final.toNat * 2 ^ 32 + (flags.testBit 42).toNat * 2 ^ 33)

/-- The gap is reported at the start of accumulation, at stamp `start`. -/
def State.reportGap (s : State) (start : Nat) : State :=
  match s.meter.gap with
  | none => s
  | some (a, b, nostate) =>
    let e := b.getD start
    let fl := (b.isNone && !nostate).toNat + nostate.toNat * 2
    let s := (((s.put R.METER_GAPS_LO a).put R.METER_GAPS_HI (a / 2 ^ 32)).put R.METER_GAPE_LO e).put R.METER_GAPE_HI (e / 2 ^ 32)
    let s := ((s.put R.METER_GAPF_FLAGS fl).put R.METER_STAT_GAP 1).irq .meter 0 1
    let s := s.emit 10 63 0x8B1 (satN 32 ((unstamp e - unstamp a) / msQ 1) + fl * 2 ^ 32)
    s.ringPush 15 (meterRec start 0x12 (s.recFlags false false false false false) fl (layWords 64 [a, e]))

/-- A channel's modulator leaves service; the spare stands in where it is free (R317, R283). -/
def State.meterRetire (s : State) (k : Nat) : State :=
  let s := (s.irq .meter 0 3).emit 10 63 0x8B4 (k + 32)
  if k = 16 then s.put R.METER_ROT_STAT_SPAREOUT 1
  else
    let s := s.put (R.METER_ROT_STAT_RETIRED.bit k) 1
    if s.get R.METER_ROT_STAT_SPAREPOS = 31 ∧ s.flag R.METER_ROT_STAT_SPAREOUT = false then s.put R.METER_ROT_STAT_SPAREPOS k
    else s.emit 10 k 0x8B8 (k + bitsWhere (fun e => s.flag (R.ELEM_CFG_EN e) && (s.elemV e == k || s.elemI e == k)) 8 * 16)

/-- The time of the start-up calibration: 0.4 s at the reset CALN of 12, its three taps lasting 2^CALN samples each (R317, R323). -/
def State.calTime (s : State) : Nat := msQ 16 + 3 * 2 ^ s.get R.METER_ROT_CFG_CALN * meterStep

/-- ACCUMULATION_START (R323): the first whole second after the restore and the start-up calibration; `cals` are the sums of the
three taps of the seventeen modulators in order, none for one whose calibration failed. -/
def execAccumulationStart (cals : List (Option (Int × Int × Int))) (s : State) : Host.Outcome State Fault Refusal :=
  .next (if s.meterOn && !s.flag R.METER_STAT_RUN then
    let s := if s.meter.restoredUp.isNone then s.meterRestore none none else s
    match s.meter.restoredUp with
    | none => s
    | some u =>
      let s := s.advUp (u + s.calTime)
      let start := (s.time.now + (secQ - 1)) / secQ * secQ
      let s := s.advTo start
      let f := (List.range 17).filter fun k => !s.modPass (cals.getD k none)
      let s := s.forEach (fun s k => s.modSet k (cals.getD k none)) (List.range 17)
      let s := if f.contains 16 then s.meterRetire 16 else s
      let s := s.forEach State.meterRetire (f.filter (· != 16))
      let s := if f.isEmpty then s else s.put R.METER_ROT_STAT_PHASE 6
      let s := (s.put R.METER_STAT_RUN 1).setMeter fun m => { m with last := none }
      let s := s.openWin ((start + meterDelay) / meterStep) none
      let s := s.reportGap (stampOf start)
      s.ringPush 15 (meterRec (stampOf start) 0x11 (s.recFlags false false false false false) s.meter.final.toNat
        (layWords 64 [s.meter.restTau, stampOf start]))
  else s)

/-! ## Synchrophasors (R319) -/

def pmuRates : List Nat := [10, 12, 15, 20, 25, 30, 50, 60, 100, 120]
/-- The instant k / Fs at or after a time. -/
def pmuInstant (fs t : Nat) : Nat :=
  let k := (t % secQ * fs + (secQ - 1)) / secQ
  t / secQ * secQ + k * secQ / fs
/-- The channels reported. -/
def State.pmuChans (s : State) : List Nat := (List.range 16).filter fun c => s.flag ((R.PMU_CTL_CHMASK).bit c)
/-- A phasor as two singles. -/
def singles (z : Rat × Rat) : List Nat := [single z.1, single z.2]
/-- The positive sequence of the phasors of phases A, B and C: a third of A + B turned by a third of a turn + C by two. -/
def posSeq (a b c : Rat × Rat) : Rat × Rat :=
  let h := sinT (1 / 3)
  ((a.1 - b.1 / 2 - h * b.2 - c.1 / 2 + h * c.2) / 3, (a.2 + h * b.1 - b.2 / 2 - h * c.1 - c.2 / 2) / 3)
/-- The positive-sequence voltage and current of elements 0, 1 and 2 from the phasors of their channels. -/
def State.pmuSeq (s : State) : List Nat :=
  let v := fun e => Config.pmuPhasor s.fresh (s.elemV e)
  let i := fun e =>
    let z := Config.pmuPhasor s.fresh (s.elemI e)
    if s.flag (R.ELEM_CFG_INV e) then (-z.1, -z.2) else z
  singles (posSeq (v 0) (v 1) (v 2)) ++ singles (posSeq (i 0) (i 1) (i 2))
/-- Phasors of up to six channels a record. -/
def State.pmuPhRecs (s : State) (ts flags : Nat) : Nat → List Nat → List Nat
  | 0, _ => []
  | _ + 1, [] => []
  | k + 1, c :: cs =>
    let l := c :: cs.take 5
    meterRec ts 9 flags (c + l.length * 256) (layWords 32 (l.map fun i => singles (Config.pmuPhasor s.fresh i)).flatten) ::
      s.pmuPhRecs ts flags k (cs.drop 5)

/-- PMU_REPORT (R319, R320): the next report instant; phasors, frequency and ROCOF are those of the standard's model. -/
def execPmuReport (s : State) : Host.Outcome State Fault Refusal :=
  .next (if s.meterOn && s.flag R.PMU_CTL_EN then
    let fs := pmuRates.getD (s.get R.PMU_CTL_RATE) 10
    let t0 := pmuInstant fs s.time.now
    let t := if s.meter.lastPmu == some t0 then pmuInstant fs (t0 + 1) else t0
    let s := (s.advTo t).setMeter fun m => { m with lastPmu := some t }
    let src := if s.flag R.PMU_CTL_PSEQ then 16 else s.get R.METER_CFG_REFCH
    let f := Config.pmuFreq s.fresh src
    let r := Config.pmuRocof s.fresh src
    let flags := s.recFlags s.injOn false false false false
    let cs := s.pmuChans
    let pos := if s.flag R.PMU_CTL_PSEQ then s.pmuSeq else [0, 0, 0, 0]
    let head := meterRec (stampOf t) 8 flags (s.get R.PMU_CTL_RATE + s.get R.PMU_CTL_CLASS * 2 ^ 8 + cs.length * 2 ^ 16)
      (layWords 32 ([single f, single r] ++ pos))
    let recs := head :: s.pmuPhRecs (stampOf t) flags 3 cs
    if s.ringOn 13 && decide (s.ringFill 13 + recs.length ≤ s.ringN 13) then
      let s := s.draw.forEach (fun s e => s.ringPush 13 e) recs
      ((s.put R.PMU_FREQ (fmtU 32 16 f)).put R.PMU_ROCOF (twos 32 (fmtS 32 16 r))).bumpMod R.PMU_STAT_COUNT |>.irq .mpmu 0 0
    else if s.ringOn 13 then
      let s := s.draw.forEach (fun s _ => s.ringDrop 13) recs
      ((s.put R.PMU_STAT_DROP 1).irq .mpmu 0 1).emit 10 63 0x4BA recs.length
    else s.draw
  else s)

/-! ## The rotation of M16 (R317) -/

def State.mrotPos (s : State) : Nat := s.get R.METER_ROT_STAT_POS
/-- A failure of a step: the first restarts it, the second in a row retires a modulator and stops the rotation. -/
def State.mrotFail (s : State) (out calFailed : Bool) (m : Int) : State :=
  let c := s.mrotPos
  let s := s.irq .meter 0 3
  if s.meter.fails = 0 then
    let s := s.setMeter fun x => { x with fails := 1 }
    (s.put R.METER_ROT_STAT_PHASE (if out then 3 else 1)).emit 10 c 0x4B3 (c + out.toNat * 16 + twos 16 (satI 16 m) * 32)
  else
    let s := s.setMeter fun x => { x with fails := 0 }
    let s := if out then s.put (R.METER_ROT_STAT_RETIRED.bit c) 1 else s.put R.METER_ROT_STAT_SPAREOUT 1
    (s.put R.METER_ROT_STAT_PHASE 6).emit 10 63 0x8B4 ((if out then c else 16) + calFailed.toNat * 32)
/-- The ratio of the two references (R317). -/
def State.refCheck (s : State) (ratio : Nat) : State :=
  let s := s.put R.METER_ROT_RATIO ratio
  let base := s.get R.METER_ROT_REF
  let diff : Nat := ((ratio : Int) - base).natAbs
  if base != 0 && decide (base * s.get R.METER_ROT_CFG_REFTOL < diff * 100000) then
    ((s.put R.METER_STAT_REFDRIFT 1).irq .meter 0 2).emit 10 63 0x8B5 ratio
  else s

/-- A shadow step begins: the next window compares. -/
def State.mrotShadows (s : State) (phase : Nat) : State :=
  (s.setMeter fun x => { x with shadow := none, shadowed := none }).put R.METER_ROT_STAT_PHASE phase
/-- A shadow step whose window has ended is judged: the mean difference against MISM × 10 ppm of full scale (R317). -/
def State.mrotShadow (s : State) (out : Bool) : State :=
  match s.meter.shadowed with
  | none => s
  | some (sum, n) =>
    let s := s.setMeter fun x => { x with shadowed := none }
    let d : Int := max n 1 * 2 ^ 23
    if sum.natAbs * 100000 ≤ s.get R.METER_ROT_CFG_MISM * n * 2 ^ 23 then
      s.setMeter fun x => { x with fails := 0, swap := if out then 2 else 1 }
    else s.mrotFail out false ((2 * sum * 100000 + d) / (2 * d))

/-- METER_ROTATION_STEP (R317): the step in progress ends. `cal` is what the three taps of a calibration that passed sum to, `ratio` the reference ratio
read at CAL_SPARE; a shadow step is judged by the codes that its window compared. -/
def execMeterRotationStep (cal : Option (Int × Int × Int)) (ratio : Word) (s : State) : Host.Outcome State Fault Refusal :=
  .next (if s.alive && s.time.run && decide (mSTANDBY ≤ s.majorMode) && s.flag R.METER_CTL_EN && s.meter.swap == 0 then
    let en := s.flag R.METER_ROT_CTL_EN
    let free := !s.flag R.METER_ROT_STAT_SPAREOUT && s.get R.METER_ROT_STAT_SPAREPOS == 31
    match s.get R.METER_ROT_STAT_PHASE with
    | 0 => if en && free then s.put R.METER_ROT_STAT_PHASE 1 else s
    | 1 => if en then
        let s := s.refCheck ratio.toNat
        if s.modPass cal then (s.modSet 16 cal).mrotShadows 2 else s.mrotFail false true 0
      else s.put R.METER_ROT_STAT_PHASE 6
    | 2 => if !en then s.put R.METER_ROT_STAT_PHASE 6
      else s.mrotShadow false
    | 3 => if s.modPass cal then (s.modSet s.mrotPos cal).mrotShadows 4 else s.mrotFail true true 0
    | 4 => s.mrotShadow true
    | 5 => if en then
        ((s.advUp (s.meter.waitUp + s.get R.METER_ROT_CTL_DWELL * secQ)).put R.METER_ROT_STAT_POS ((s.mrotPos + 1) % 16)).put
          R.METER_ROT_STAT_PHASE 1
      else s.put R.METER_ROT_STAT_PHASE 6
    | _ => s
  else s)
/-- A write of 1 to METER_ROT_CTL.EN after a stop restarts at the next position. -/
def State.mrotRestart (s : State) : State :=
  if s.get R.METER_ROT_STAT_PHASE = 6 ∧ s.flag R.METER_ROT_STAT_SPAREOUT = false ∧ s.get R.METER_ROT_STAT_SPAREPOS = 31 then
    (s.put R.METER_ROT_STAT_POS ((s.mrotPos + 1) % 16)).put R.METER_ROT_STAT_PHASE 1
  else s

/-! ## What writes do -/

/-- WACK (R312). -/
def State.wackAll (s : State) : State :=
  s.setMeter (fun m => { m with wraps := [], held := m.held.filter fun q => !(q.1.addr / 8 * 8 + 4 == q.1.addr && decide (0x40603284 ≤ q.1.addr) && q.1.lo == 8) })
    |>.forEach (fun s i => s.put (R.ACC_WST_WRAP (i / 6) (i % 6)) 0) (List.range 54)
/-- HOLD is cleared: the registers take the values of the last window (R314). -/
def State.unhold (s : State) : State := (s.showAll s.meter.held).setMeter fun m => { m with held := [], ovf := [] }
/-- METER_ACC_CLR takes 0x5A (R315). -/
def State.clearMeter (s : State) : State :=
  let q := s.get R.METER_CFG_QUANT
  let changed := q != s.meter.quant
  let s := s.setMeter fun m => { m with acc := [], wraps := [], ovf := [], quant := q, held := m.held.filter fun x => decide (x.1.addr < 0x40603080) }
  let s := s.forEach (fun s i => s.setReg (0x40603080 + 4 * i) 0) (List.range 236)
  (s.put R.METER_STAT_CLEARED 1).emit 10 63 0x0B9 (changed.toNat + q * 2)
/-- INJ goes from 0 to 1 (R324, R325). -/
def State.injStart (s : State) : State :=
  ((s.setMeter fun m => { m with tacc := 0 }).put R.METER_TACC_LO 0).put R.METER_TACC_HI 0
/-- TEST stops being ACTIVE. -/
def State.meterTestOff (s : State) : State := s.putCfg R.METER_TEST_INJ 0
/-- CAL_WRITE (R300, R330). -/
def State.calWrite (s : State) (offset : Nat) (cfg : Bool) : State :=
  s.emit 10 63 0x0B7 (offset + cfg.toNat * 2 ^ 12 + s.meter.seq % 2 ^ 27 * 2 ^ 13)

end Sys2Proof.Machine
end

