-- ==== Sys2Proof/Machine/Tangent.lean ====
section
/-! DEFINITION. The Tangent window comparators (R288 to R291): raw state, filter, blanking, thresholds, trip conditions and
the threshold read-back. -/

namespace Sys2Proof.Machine

open Sys2Proof

def wINSIDE : Nat := 0
def wBELOW : Nat := 1
def wABOVE : Nat := 2

/-- The comparator is forced by CMP_TEST (R297). -/
def State.cmpForced (s : State) (c : Nat) : Bool := s.flag R.CMP_TEST_FORCE && s.get R.CMP_TEST_TW == c
/-- The window state that a comparator reports. -/
def State.cmpWinOf (s : State) (c : Nat) : Nat :=
  if s.cmpForced c then s.get R.CMP_TEST_STATE else if s.flag (R.TW_CFG_EN c) then (s.cmpc c).win else wINSIDE
/-- The trip condition of R289, with FAILSAFE (R291). -/
def tripOn (sel w : Nat) : Bool :=
  if sel = 0 then w == wABOVE else if sel = 1 then w == wBELOW else if sel = 2 then w == wABOVE || w == wBELOW else w == wINSIDE
def State.cmpTripOf (s : State) (c : Nat) : Bool :=
  if s.flag (R.TW_CFG_EN c) || s.cmpForced c then
    (s.flag (R.TW_CFG_EN c) && s.flag (R.TW_STAT_STFAIL c) && s.flag R.CMP_ST_CTL_FAILSAFE) || tripOn (s.get (R.TW_CFG_TRIPON c)) (s.cmpWinOf c)
  else false

/-- What a comparator reports is brought up to date: status, summaries, SEEN bits and CMP_EXCURSION. -/
def State.cmpShow (s : State) (c : Nat) : State :=
  let w := s.cmpWinOf c
  let old := s.get (R.TW_STAT_WIN c)
  let t := s.cmpTripOf c
  let s := (s.put (R.TW_STAT_WIN c) w).putB (R.TW_STAT_TRIPCOND c) t
  let s := s.put ⟨(R.CMP_WIN (c / 16)).addr, c % 16 * 2 + 1, c % 16 * 2⟩ w
  let s := s.putB ((if c < 32 then R.CMP_TRIP_LO else R.CMP_TRIP_HI).bit (c % 32)) t
  let s := if old = w then s else if w = wINSIDE then s.setCmp c fun x => { x with inUp := s.time.up } else
    let f := if w = wABOVE then R.TW_STAT_ABOVE_SEEN c else R.TW_STAT_BELOW_SEEN c
    let was := s.flag f
    let s := (s.put f 1).irq .cmp 0 1
    if was then s else
      s.emit 2 c 0x4A1 ((w == wABOVE).toNat + 2 * (w == wBELOW).toNat + 4 * (s.cmpc c).afterBlank.toNat)
  s
/-- The same, with the trip channels that select the comparator (R162). -/
def State.cmpReport (s : State) (c : Nat) : State := (s.cmpShow c).evalChannels

/-! ## Raw state (R288) -/

/-- HI and LO as microvolts times 2048, of a threshold code. -/
def thrUv (t : Nat) : Nat := (2 * t + 1) * 2500000
def hystUv (h : Nat) : Nat := [0, 5000, 10000, 20000].getD h 0
/-- One step of the raw state for an input, in microvolts times 2048. -/
def rawStep (hi lo h : Nat) (x : Int) (raw : Nat) : Nat :=
  if raw = wABOVE then (if x + h < hi then wINSIDE else wABOVE)
  else if raw = wBELOW then (if lo + h < x then wINSIDE else wBELOW)
  else if hi < x then wABOVE else if x < lo then wBELOW else wINSIDE
/-- The voltage of an AIN ball before a command gives it: VREF / 2 (log 219). -/
def ballDefault (_ : Nat) : Int := 1250000
def State.ballUv (s : State) (b : Nat) : Int := Tab.get ballDefault s.cmp.ain b
/-- The raw state of a comparator follows the voltage of the ball that CFG.AIN selects, its thresholds and its hysteresis. -/
def State.cmpInput (s : State) (c : Nat) : State :=
  let t := s.cmpc c
  let uv := s.ballUv (s.get (R.TW_CFG_AIN c))
  let h := 2048 * hystUv (s.get (R.TW_CFG_HYST c))
  let step := rawStep (thrUv t.hi) (thrUv t.lo) h (2048 * uv)
  let r := step (step t.raw)
  if r = t.raw then s else s.setCmp c fun x => { x with raw := r, rawUp := s.time.up, afterBlank := false }

/-- CMP_RAW_CHANGE (R288): the ball stands at `uv` microvolts, which every comparator on it senses. -/
def execCmpRawChange (ball : Fin 64) (uv : Int) (s : State) : Host.Outcome State Fault Refusal :=
  .next (s.whenAlive fun s =>
    let s := { s with cmp := { s.cmp with ain := Tab.set ballDefault s.cmp.ain ball uv } }
    s.forEach State.cmpInput ((List.range 48).filter fun c => s.get (R.TW_CFG_AIN c) == ball.val))

/-- The filter takes the raw state, sampled FILT + 1 times in AUX clocks of 5 ns (R289). -/
def State.cmpTake (s : State) (c : Nat) : State :=
  let t := s.cmpc c
  if s.flag (R.TW_CFG_EN c) && t.blankUp.isNone && t.raw != t.win then
    ((s.advUp (t.rawUp + (s.get (R.TW_CFG_FILT c) + 1) * 20)).setCmp c fun x => { x with win := x.raw }).cmpReport c
  else s

/-! ## Blanking (R290) -/

/-- BLANKING_WINDOW_START (R290): 15 ns before the next edge that blanks the comparator. -/
def execBlankingWindowStart (tw : Fin 48) (s : State) : Host.Outcome State Fault Refusal :=
  .next (s.whenAlive fun s =>
    match (s.cmpc tw).edges with
    | [] => s
    | te :: es => ((s.advUp (te - 60)).setCmp tw fun x => { x with edges := es, blankUp := some te }).put (R.TW_STAT_BLANKING tw) 1)

/-- BLANKING_WINDOW_END (R290): BLANK AUX clocks after its edge; the filter starts afresh. -/
def execBlankingWindowEnd (tw : Fin 48) (s : State) : Host.Outcome State Fault Refusal :=
  .next (s.whenAlive fun s =>
    match (s.cmpc tw).blankUp with
    | some t =>
      let s := s.advUp (t + s.get (R.TW_BLK_BLANK tw) * 20)
      (s.setCmp tw fun x => { x with blankUp := none, rawUp := s.time.up, afterBlank := true }).put (R.TW_STAT_BLANKING tw) 0
    | none => s)

/-- THRESHOLD_REFRESH (R288): the sides take their written values alternately, and the raw state follows. -/
def execThresholdRefresh (tw : Fin 48) (s : State) : Host.Outcome State Fault Refusal :=
  .next (s.whenAlive fun s => (s.setCmp tw fun x =>
    if x.loNext then { x with lo := s.get (R.TW_THR_LO tw), loNext := false }
    else { x with hi := s.get (R.TW_THR_HI tw), loNext := true }).cmpInput tw)

/-! ## Writes -/

/-- Tangent after a write of CMP_TWc_CFG; `en0` is EN before it. -/
def State.cmpCfg (s : State) (c : Nat) (en0 : Bool) : State :=
  let s := if !en0 && s.flag (R.TW_CFG_EN c) then
      s.setCmp c fun x => { x with win := wINSIDE, rawUp := s.time.up, inUp := s.time.up }
    else s
  (s.cmpInput c).cmpReport c
/-- Tangent after a write of CMP_TEST, or after the device has cleared it: `old` is the register before. -/
def State.cmpTest (s : State) (old : Nat) : State :=
  let was := old.testBit 15
  let now := s.flag R.CMP_TEST_FORCE
  let tw0 := old % 64
  let tw := s.get R.CMP_TEST_TW
  let s := if was && (!now || tw0 != tw || old / 256 % 4 != s.get R.CMP_TEST_STATE) then
      (s.emit 2 tw0 0x0A2 (old / 256 % 4)).cmpReport tw0 else s
  if now && (!was || tw0 != tw || old / 256 % 4 != s.get R.CMP_TEST_STATE) then
    (s.emit 2 tw 0x0A2 (s.get R.CMP_TEST_STATE + 4)).cmpReport tw else s
/-- CMP_TEST when TEST stops being ACTIVE. -/
def State.cmpTestOff (s : State) : State :=
  let old := s.get R.CMP_TEST
  if old.testBit 15 then (s.putCfg R.CMP_TEST_FORCE 0).cmpTest old else s

/-! ## The read-back self-test (R291) -/

/-- Side k of a pass: threshold code, and whether a write of it awaits its refresh. -/
def State.sideCode (s : State) (k : Nat) : Nat := if k % 2 = 0 then (s.cmpc (k / 2)).hi else (s.cmpc (k / 2)).lo
def State.sideWaits (s : State) (k : Nat) : Bool :=
  s.sideCode k != s.get (if k % 2 = 0 then R.TW_THR_HI (k / 2) else R.TW_THR_LO (k / 2))

/-- STFAIL of a comparator with its summary bit. -/
def State.setStFail (s : State) (c : Nat) (b : Bool) : State :=
  ((s.putB (R.TW_STAT_STFAIL c) b).putB ((if c < 32 then R.CMP_STFAIL_LO else R.CMP_STFAIL_HI).bit (c % 32)) b).cmpReport c

/-- After side k: a comparator whose two sides have passed loses STFAIL; the pass goes on, or ends. -/
def State.sideEnd (s : State) (k : Nat) (ok skip : Bool) : State :=
  let c := k / 2
  let s := if k % 2 = 0 then { s with cmp := { s.cmp with hiOk := ok, skipped := skip } }
    else if ok && s.cmp.hiOk && !skip && !s.cmp.skipped && s.flag (R.TW_STAT_STFAIL c) then s.setStFail c false
    else s
  if k = 95 then
    ({ s with cmp := { s.cmp with pass := none } }.bumpMod R.CMP_ST_STAT_PASSES).irq .cmp 0 2
  else { s with cmp := { s.cmp with pass := some (k + 1) } }
/-- Sides that wait for a refresh are skipped in this pass. -/
def State.skipSides (s : State) : Nat → State
  | 0 => s
  | n + 1 =>
    match s.cmp.pass with
    | some k => if s.sideWaits k then (s.sideEnd k true true).skipSides n else s
    | none => s
/-- A read-back conversion of side k gives Nc. -/
def State.readBack (s : State) (k nc : Nat) : State :=
  let c := k / 2
  let t := s.sideCode k
  let s := s.put (if k % 2 = 0 then R.TW_RB_HI c else R.TW_RB_LO c) nc
  let ok := decide (((nc : Int) - (64 * t + 32)).natAbs ≤ s.get R.CMP_ST_CTL_TOL)
  let s := if ok then s else
    ((s.irq .cmp 0 0).emit 2 c 0x8A0 ((k % 2 == 0).toNat + 2 * (k % 2 == 1).toNat + nc * 4 + t * 2 ^ 18)).setStFail c true
  (s.sideEnd k ok false).skipSides 96

/-- CMP_SELFTEST_PASS (R291): a pass starts every SPER ms. -/
def execCmpSelftestPass (s : State) : Host.Outcome State Fault Refusal :=
  .next (s.whenAlive fun s =>
    if s.flag R.CMP_ST_CTL_EN && s.cmp.pass.isNone && s.rotMode then
      let s := s.advUp (s.cmp.passUp + msQ (s.get R.CMP_ST_CTL_SPER))
      { s with cmp := { s.cmp with pass := some 0, passUp := s.time.up } }.skipSides 96
    else s)

/-- The first conversion due at a position that converter conv serves: a triggered slot, a read-back of a side that waits for no
refresh, a slot in turn (R280, R291). -/
def State.background (s : State) (pos conv : Nat) (q : Int) : State :=
  match s.bgTriggered pos with
  | some k => (s.setAdc fun d => { d with trig := d.trig.filter (· != k) }).bgResult k conv q true
  | none =>
    let s := if s.get R.CMP_ST_CTL_CONV = pos then s.skipSides 96 else s
    match (if s.get R.CMP_ST_CTL_CONV = pos then s.cmp.pass else none) with
    | some k => s.readBack k (s.corrected conv (rawCode (internalUv 13 q))).1
    | none =>
      match s.bgNext pos with
      | some k => (s.setAdc fun d => { d with rr := Tab.set noSlot d.rr pos ((k - 128) % 8 + 1) }).bgResult k conv q false
      | none => s

end Sys2Proof.Machine
end

