-- ==== Sys2Proof/Machine/Arc.lean ====
section
/-! DEFINITION. Arc (R374 to R377): Hall sectors, position and revolutions, speed; and Chord's own Hall count (R388). -/

namespace Sys2Proof.Machine

open Sys2Proof

def arcDefault (_ : Nat) : ArcSt := {}
def State.arcSt (s : State) (a : Nat) : ArcSt := Tab.get arcDefault s.arc a
def State.setArc (s : State) (a : Nat) (x : ArcSt) : State := { s with arc := Tab.set arcDefault s.arc a x }
def chordDefault (_ : Nat) : ChordSt := {}
def State.chordSt (s : State) (a : Nat) : ChordSt := Tab.get chordDefault s.safe.chord a
def State.setChord (s : State) (a : Nat) (f : ChordSt → ChordSt) : State :=
  { s with safe := { s.safe with chord := Tab.set chordDefault s.safe.chord a (f (s.chordSt a)) } }

/-- The sector of a Hall code; 7 for a code that names none (R374). -/
def hallSector (code : Nat) : Nat := [7, 0, 2, 1, 4, 5, 3, 7].getD code 7
/-- The count of a change of sector, and whether it skips or is in error. -/
def hallDelta (old new : Nat) : Int × Bool × Bool :=
  match (new + 6 - old) % 6 with
  | 1 => (1, false, false)
  | 5 => (-1, false, false)
  | 2 => (2, true, false)
  | 4 => (-2, true, false)
  | 3 => (0, false, true)
  | _ => (0, false, false)

/-- The total position X (R375), with REV as a signed number. -/
def State.arcX (s : State) (a : Nat) : Int := s.getI (R.ARC_REV a) * s.get (R.ARC_CFG_PPR a) + s.get (R.ARC_POS_POS a)
/-- X moves by d. -/
def State.arcMove (s : State) (a : Nat) (d : Int) : State :=
  let ppr : Int := s.get (R.ARC_CFG_PPR a)
  let p : Int := s.get (R.ARC_POS_POS a) + d
  (s.putI (R.ARC_POS_POS a) (p % ppr)).putI (R.ARC_REV a) (s.getI (R.ARC_REV a) + p / ppr)
/-- Counts per second over the last 10 ms, weight 2^-8 (R375, R380). -/
def State.arcSpeed (s : State) (a : Nat) : Int :=
  let n : Int := (((s.arcSt a).counts.filter fun c => decide (s.time.up < c.1 + msQ 10)).map (·.2)).foldl (· + ·) 0
  n * 100 * 256

/-! ## Chord's count -/

/-- A SAFE parameter in effect in Secant (R383). -/
def State.spar (s : State) (f : Fld) : Nat := fieldOf (Tab.get regReset s.safe.par f.addr) f.hi f.lo
def State.sparB (s : State) (f : Fld) : Bool := s.spar f != 0
/-- A SAFE parameter in effect in a channel: Secant's copy, or Chord's (R14, R383). -/
def State.sparOf (s : State) (chord : Bool) (f : Fld) : Nat :=
  if chord then fieldOf (Tab.get regReset s.safe.parB f.addr) f.hi f.lo else s.spar f
def State.sparIs (s : State) (chord : Bool) (f : Fld) : Bool := s.sparOf chord f != 0

/-- The last accepted frame, or a failed connection, forbids a direction to drives with FRAMEDIR (R405). -/
def connDefault (_ : Nat) : ConnSt := {}
def State.connSt (s : State) (c : Nat) : ConnSt := Tab.get connDefault s.safe.conns c
def State.frameForbids (s : State) (positive : Bool) : Bool :=
  [0, 1].any fun c => s.sparB (R.SCONN_CFG_CMDEN c) && s.sparB (R.SCONN_CFG_EN c) &&
    (s.get (R.SCONN_STAT_STATE c) == 3 || (s.connSt c).cmd.testBit (if positive then 2 else 3))
/-- Motion of drive d in a direction is forbidden, by a channel's parameters (R388). -/
def State.forbidsIn (s : State) (chord : Bool) (d : Nat) (positive : Bool) : Bool :=
  s.sparIs chord (if positive then R.SDRV_CFG_FORBID_POS d else R.SDRV_CFG_FORBID_NEG d) ||
    (s.sparIs chord (R.SDRV_CFG_FRAMEDIR d) && s.frameForbids positive)
/-- Secant forbids it. -/
def State.forbids (s : State) (d : Nat) (positive : Bool) : Bool := s.forbidsIn false d positive

/-- Forbidden motion since the last allowed count: forward and reverse counts after a motion of d. -/
def sdirStep (posF negF : Bool) (d : Int) (fwd rev : Nat) : Nat × Nat :=
  if 0 < d then (if posF then fwd + d.natAbs else 0, if posF then rev else 0)
  else if d < 0 then (if negF then fwd else 0, if negF then rev + d.natAbs else 0)
  else (if posF then fwd else 0, if negF then rev else 0)

/-- A count of channel a, with Secant's measure of motion in a forbidden direction. -/
def State.arcCount (s : State) (a : Nat) (d : Int) : State :=
  let s := s.arcMove a d
  let m := sdirStep (s.forbids a true) (s.forbids a false) d (s.chordSt a).fwdA (s.chordSt a).revA
  (s.setChord a fun c => { c with fwdA := m.1, revA := m.2 }).setArc a
    { counts := ((s.arcSt a).counts.filter fun c => decide (s.time.up < c.1 + msQ 10)) ++ [(s.time.up, d)], moveUp := some s.time.up }

/-- The SLS limit in force in a channel (R388), counts per second. -/
def State.slsLimit (s : State) (chord : Bool) (d : Nat) : Nat :=
  if s.sparIs chord (R.SDRV_CFG_SLP_EN d) && !s.flag (R.SDRV_STAT_ALIGNED d) then s.sparOf chord (R.SDRV_SLS_HOME_LIM d)
  else s.sparOf chord (R.SDRV_SLS_LIM d)
/-- Chord's 10 ms windows are brought up to date. -/
def State.chordWindow (s : State) (a : Nat) : State :=
  let c := s.chordSt a
  let n := (s.time.up - c.winUp) / msQ 10
  if n = 0 then s else
    let fast := decide (s.slsLimit true a < c.win.natAbs * 100)
    s.setChord a fun c => { c with win := 0, winUp := c.winUp + n * msQ 10, fast := fast }
/-- A filtered Hall code in Chord. -/
def State.chordHall (s : State) (a code : Nat) : State :=
  let s := s.chordWindow a
  let c := s.chordSt a
  let new := hallSector code
  if new = 7 then s.setChord a fun c => { c with sector := 7, hallFault := true }
  else if c.sector = 7 ∨ c.sector = new then s.setChord a fun c => { c with sector := new }
  else
    let q := hallDelta c.sector new
    let d := if s.flag (R.ARC_CFG_DIR a) then -q.1 else q.1
    let m := sdirStep (s.forbidsIn true a true) (s.forbidsIn true a false) d c.fwdB c.revB
    s.setChord a fun c => { c with sector := new, xb := c.xb + d, win := c.win + d, moveUp := some s.time.up,
                                   hallFault := c.hallFault || q.2.2, fwdB := m.1, revB := m.2 }

/-- A Hall code taken by Arc (R374); the answer says whether HALLERR was raised. -/
def State.arcHall (s : State) (a code : Nat) : State × Bool :=
  let old := s.get (R.ARC_CODE_CODE a)
  let was := s.get (R.ARC_STAT_SECTOR a)
  let new := hallSector code
  let s := (s.put (R.ARC_CODE_CODE a) code).put (R.ARC_STAT_SECTOR a) new
  let data := old + code * 8
  let err := fun (s : State) => ((s.put (R.ARC_STAT_HALLERR a) 1).irq .arc 0 (9 + a)).emit 12 a 0x4F2 data
  if new = 7 then (err s, true)
  else if was = 7 ∨ was = new then (s, false)
  else
    let q := hallDelta was new
    if q.2.2 then (err s, true)
    else
      let s := s.arcCount a (if s.flag (R.ARC_CFG_DIR a) then -q.1 else q.1)
      (if q.2.1 then (s.put (R.ARC_STAT_SKIP a) 1).emit 12 a 0x4F2 (data + 64) else s, false)

/-- A W1C write to HALLERR is refused while the code is 0 or 7. -/
def State.arcErrHolds (s : State) (a : Nat) : Bool := hallSector (s.get (R.ARC_CODE_CODE a)) == 7

/-- The index check (R376). -/
def State.arcCheck (s : State) (a : Nat) : State :=
  let ppr : Int := s.get (R.ARC_CFG_PPR a)
  let pos := s.get (R.ARC_POS_POS a)
  let raw : Int := (pos : Int) - s.get (R.ARC_IDX_IDX_POS a)
  let err := (raw + ppr / 2) % ppr - ppr / 2
  let s := s.putI (R.ARC_STAT_ERR a) (satI 8 err)
  if err = 0 then s
  else if err.natAbs ≤ 2 then
    (((s.arcMove a (-err)).put (R.ARC_STAT_CORR a) 1).irq .arc 0 (3 + a)).emit 12 a 0x4F0 ((err % 256).toNat + pos * 256)
  else ((s.put (R.ARC_STAT_SENSOR a) 1).irq .arc 0 a).emit 12 a 0x8F1 ((satI 16 err % 65536).toNat + pos * 65536)

/-- An index edge of an enabled channel (R376, R377); the answer says whether a re-home was completed. -/
def State.arcIndex (s : State) (a : Nat) : State × Bool :=
  let pos := s.get (R.ARC_POS_POS a)
  let ts := stampOf (clockOf s.time.now)
  let s := (s.put (R.ARC_LATCH_POS a) pos).put (R.ARC_LATCH_REV a) (s.get (R.ARC_REV a))
  let s := ((s.put (R.ARC_LTS_LO a) ts).put (R.ARC_LTS_HI a) (ts / 2 ^ 32)).put (R.ARC_STAT_LVALID a) 1 |>.irq .arc 0 (6 + a)
  if s.flag (R.ARC_STAT_HOMEARM a) then
    let h := s.get (R.ARC_HOME_HOME_POS a)
    let s := (s.put (R.ARC_POS_POS a) h).put (R.ARC_REV a) 0
    let s := ((s.put (R.ARC_STAT_HOMED a) 1).put (R.ARC_STAT_SENSOR a) 0).put (R.ARC_STAT_HOMEARM a) 0
    let s := s.setChord a fun c => { c with xb := s.arcX a }
    let s := s.put (R.SDRV_STAT_ALIGNED a) 1
    (s.emit 12 a 0x0F3 (h + pos * 65536), true)
  else if s.flag (R.ARC_CFG_IDXEN a) && s.flag (R.ARC_STAT_HOMED a) && !s.flag (R.ARC_STAT_SENSOR a) then (s.arcCheck a, false)
  else (s, false)

/-- A channel that is enabled takes its first code anew: no sector stands until then (R374, log 221). -/
def State.arcEnable (s : State) (a : Nat) : State := (s.put (R.ARC_CODE_CODE a) 0).put (R.ARC_STAT_SECTOR a) 7

/-- A write of 1 to HOME (R377). -/
def State.armHome (s : State) (a : Nat) : State := s.put (R.ARC_STAT_HOMEARM a) 1

end Sys2Proof.Machine
end

