-- ==== Sys2Proof/Machine/AuxTimers.lean ====
section
/-! DEFINITION. The auxiliary output timers of Polygon (R106 to R108). They count TIME clocks, which no step of Gnomon moves. -/

namespace Sys2Proof.Machine

open Sys2Proof

/-- TIME clocks counted. -/
def State.clk (s : State) : Nat := s.time.osc / 5
/-- Time passes until a TIME clock. -/
def State.advClk (s : State) (t : Nat) : State := s.advOsc (t * 5)
/-- The other timer of a half-bridge; timers 18 and 19 have none. -/
def auxPartner (m : Nat) : Nat := if m % 2 = 0 then m + 1 else m - 1
def auxPaired (m : Nat) : Bool := decide (m < 18)
/-- The timer whose PER, CARRIER and FORCE a timer uses. -/
def auxLead (m : Nat) : Nat := if auxPaired m then m / 2 * 2 else m

def State.auxConf (s : State) (m : Nat) : Bool :=
  auxPaired m && (s.flag (R.AUXT_STAT_CONF m) || s.flag (R.AUXT_STAT_CONF (auxPartner m)))

/-- An edge of a gate at clock t is an edge at its ball (R290). -/
def State.auxEdge (s : State) (m : Nat) (on : Bool) (t : Nat) : State :=
  s.blankEdge 2 m (m % 2 == 0) on (if s.clk ≤ t then s.upOfOsc (t * 5) else s.time.up - s.refSpan ((s.clk - t) * 5))
/-- A gate is turned off at clock t. -/
def State.auxOff (s : State) (m t : Nat) : State :=
  let a := s.aux m
  let s := if a.gate then s.auxEdge m false t else s
  s.setAux m { a with gate := false, pendingOn := false, offAt := if a.gate then some t else a.offAt }
/-- A gate is turned on at clock t; its AUXOFF no longer confirms it off. -/
def State.auxOn (s : State) (m t : Nat) : State :=
  ((s.auxEdge m true t).setAux m { s.aux m with gate := true, pendingOn := false, offAt := none }).put (R.AUXT_STAT_AUXOFF m) 0
/-- The partner's gate is confirmed off and DEAD has passed since its turn-off command (R107). -/
def State.auxFree (s : State) (m t : Nat) : Bool :=
  let q := auxPartner m
  !auxPaired m || (s.flag (R.AUXT_STAT_AUXOFF q) && !(s.aux q).gate &&
    (match (s.aux q).offAt with
      | none => true
      | some u => decide (u + s.get (R.AUXT_DEAD_DEAD m) ≤ t)))
/-- The partner is on, or its turn-on is pending (R95). -/
def State.auxRival (s : State) (m : Nat) : Bool :=
  auxPaired m && ((s.aux (auxPartner m)).gate || (s.aux (auxPartner m)).pendingOn)
/-- A turn-on request at clock t: dropped while the partner is on or is to turn on, or the pair is held off, at once if the partner is
confirmed off, pending otherwise. -/
def State.auxTryOn (s : State) (m t : Nat) : State :=
  if s.auxConf m || (s.aux m).gate || (s.aux m).blocked || s.auxRival m then s
  else if s.auxFree m t then s.auxOn m t
  else s.setAux m { s.aux m with pendingOn := true }

/-- A pending turn-on proceeds once the partner is free. -/
def State.auxPending (s : State) (m : Nat) : State :=
  if (s.aux m).pendingOn && s.auxFree m s.clk && !s.auxConf m then s.auxOn m s.clk else s

/-- The planned gate changes of a timer that are due, tagged. -/
def State.auxDue (s : State) (m : Nat) : List Edge :=
  ((s.aux m).plan.filter fun e => decide (e.1 ≤ s.clk)).map fun e => ⟨e.1, m % 2 == 0, e.2⟩
/-- The offset of a clock from the start of the next tick, in TIME clocks: no set is built for an auxiliary pair, and k is taken to be the
tick in progress (DESIGN CHOICE, log 237). -/
def State.clkOffset (s : State) (t : Int) : Int := ((s.time.now : Int) - s.time.osc + t * 5 - s.time.tickEnd) / 5
/-- A gate stays off for the rest of the period after a BOTH_ON fault. -/
def State.auxBlock (s : State) (m : Nat) : State := (s.setAux m { s.aux m with blocked := true }).put (R.AUXT_STAT_BOTH_ON m) 1
/-- A BOTH_ON fault of a pair (R95, R109). -/
def State.auxBoth (s : State) (lead : Nat) (t : Int) : State :=
  ((s.auxBlock lead).auxBlock (lead + 1)).emitAt s.issueAt 5 lead 0x821 ((s.clkOffset t % 2 ^ 24).toNat + s.nextSeq * 2 ^ 24)
/-- Due changes of a pair in order; both turn-on requests in one clock with both gates off are dropped (R95). -/
def State.auxApply (s : State) (lead : Nat) : List Edge → State
  | [] => s
  | e :: es =>
    let m := if e.high then lead else lead + 1
    if e.on then
      if auxPaired m && !(s.aux m).gate && !s.auxRival m && !(s.aux m).blocked &&
          es.any (fun x => x.on && x.high != e.high && x.t == e.t) then
        (s.auxBoth lead e.t).auxApply lead es
      else (s.auxTryOn m e.t.toNat).auxApply lead es
    else (s.auxOff m e.t.toNat).auxApply lead es
def State.auxDropDue (s : State) (m : Nat) : State :=
  s.setAux m { s.aux m with plan := (s.aux m).plan.filter fun e => decide (s.clk < e.1) }
/-- A timer and its partner are brought up to the present clock. -/
def State.auxCatch (s : State) (m : Nat) : State :=
  if auxPaired m then
    let l := auxLead m
    let es := sortEdges (s.auxDue l ++ s.auxDue (l + 1))
    ((((s.auxApply l es).auxDropDue l).auxDropDue (l + 1)).auxPending l).auxPending (l + 1)
  else
    let es := (s.auxDue m).map fun e => { e with high := true }
    (s.auxApply m es).auxDropDue m

/-- The timer stands off: at once, or after its next planned turn-off, which AUXOFF or its timeout follows. -/
def State.auxReachOff (s : State) (m : Nat) : State :=
  let s := s.auxCatch m
  if (s.aux m).gate then
    match (s.aux m).plan.find? (fun e => !e.2) with
    | some e => (s.advClk e.1).auxCatch m
    | none => s
  else s

/-- The force of R104 on a timer: whether it stands on, if a force acts. -/
def auxForced (m mode : Nat) : Option Bool :=
  if mode = 0 then none else if mode = 3 then some false else some ((mode == 1) == (m % 2 == 0 || decide (18 ≤ m)))

/-- MINPW of the auxiliary timers, in TIME clocks (R106). -/
def auxMinpw : Nat := 16

/-- STAT.FORCED and FORCE_CHANGE of a timer (R104, R109). -/
def State.auxForceShow (s : State) (m old new : Nat) : State :=
  let s := s.putB (R.AUXT_STAT_FORCED m) (new != 0)
  if old = new then s else if new ≠ 0 then s.emit 5 m 0x026 (new + 4) else s.emit 5 m 0x026 old
/-- The edges of a timer's planned states, from state b on, are sent ahead to Tangent (R290); an edge that comes at another time is sent
when it comes (log 238). -/
def State.announceAux (s : State) (m : Nat) (b : Bool) : List (Nat × Bool) → State
  | [] => s
  | e :: es => (if e.2 == b then s else s.auxEdge m e.2 e.1).announceAux m e.2 es
/-- The period that starts at clock t0: CMP, PER and FORCE are taken (R106), with the flags of R90 and R93; a timer owned by a drive or
chopper takes up its source's request (R108). -/
def State.auxLoad (s : State) (m t0 : Nat) : State :=
  let lead := auxLead m
  let per := if m = lead then s.get (R.AUXT_PER_PER m) else
    if (s.aux lead).run then (s.aux lead).per else s.get (R.AUXT_PER_PER lead)
  let mode := s.get (R.AUXT_FORCE_MODE lead)
  let cmp := s.get (R.AUXT_CMP_CMP m)
  let s := if per ≤ cmp then s.put (R.AUXT_STAT_SAT m) 1 else s
  let h0 := min cmp per
  let lim := s.get (R.AUXT_DEAD_DEAD m) + auxMinpw
  let h := if 0 < h0 ∧ h0 < lim then 0 else if h0 < per ∧ per < h0 + lim then per else h0
  let low := auxPaired m && m != lead
  let s := if h = h0 then s else
    let was := s.flag (R.AUXT_STAT_DROP m)
    let s := s.put (R.AUXT_STAT_DROP m) 1
    if was then s else s.emit 5 m 0x424 (if (h == 0) != low then 1 else 2)
  let up := s.flag (R.AUXT_CTL_CARRIER lead)
  let w := if low then lowWave up t0 per h h else highWave up t0 per h h
  let s := s.auxForceShow m (s.aux m).force mode
  let plan := match auxForced m mode with
    | some b => [(t0, b)]
    | none => if s.flag (R.AUXT_CTL_SRC m) then [(t0, (s.aux m).req)] else (t0, w.init) :: w.chg.map fun c => (c.1.toNat, c.2)
  let s := s.announceAux m (s.aux m).gate plan
  (s.setAux m { s.aux m with run := true, start := t0, per, force := mode, plan := (s.aux m).plan ++ plan, blocked := false }).pulseAt
    9 m s.time.now

/-- AUX_PERIOD_START: the next period of a running timer, and of its partner where that starts in the same clock; the partner's own command
then finds its period begun. -/
def State.auxPeriod (s : State) (m : Nat) : State :=
  let a := s.aux m
  let q := auxPartner m
  if a.common && a.start == s.clk then s.setAux m { a with common := false }
  else if a.run then
    let t0 := a.start + a.per
    let both := auxPaired m && (s.aux q).run && (s.aux q).start + (s.aux q).per == t0
    let s := (s.advClk t0).auxCatch m
    let s := s.setAux m { s.aux m with common := false }
    if both then
      let s := (s.auxLoad (auxLead m) t0).auxLoad (auxLead m + 1) t0
      (s.setAux q { s.aux q with common := true }).auxCatch m
    else (s.auxLoad m t0).auxCatch m
  else s

/-- At a tick boundary an enabled timer that does not run starts (R106), and every timer is brought up to date. -/
def State.auxStart (s : State) (m : Nat) : State :=
  if s.flag (R.AUXT_CTL_EN m) && !(s.aux m).run then s.auxLoad m s.clk else s
def State.auxTicks (s : State) : State := (s.forEach State.auxStart (List.range 20)).forEach State.auxCatch (List.range 20)
/-- A timer that is disabled stops with its gate off, and no force acts on it. -/
def State.auxDisable (s : State) (m : Nat) : State :=
  let s := (s.auxOff m s.clk).auxForceShow m (s.aux m).force 0
  s.setAux m { s.aux m with run := false, plan := [], force := 0, blocked := false, common := false }

/-- A switch request of a drive or chopper (R108): it acts while the timer is enabled, owned by that source, and under no
force. -/
def State.auxRequest (s : State) (m : Nat) (b : Bool) : State :=
  let s := s.setAux m { s.aux m with req := b }
  if s.flag (R.AUXT_CTL_EN m) && s.flag (R.AUXT_CTL_SRC m) && (s.aux m).force == 0 then
    let s := s.announceAux m (s.aux m).gate [(s.clk, b)]
    if b then s.auxTryOn m s.clk else s.auxOff m s.clk
  else s
/-- A drive or chopper takes a timer over (R108): what the timer had planned goes, and the source's request acts. -/
def State.auxSource (s : State) (m : Nat) : State :=
  if (s.aux m).force = 0 then (s.setAux m { s.aux m with plan := [] }).auxRequest m (s.aux m).req else s

/-- AUXOFF of timer m is sampled asserted (R107): the partner's pending turn-on proceeds after DEAD. -/
def State.auxConfirm (s : State) (m : Nat) : State :=
  let s := s.auxReachOff m
  if auxPaired m && !(s.aux m).gate then
    let s := s.put (R.AUXT_STAT_AUXOFF m) 1
    let q := auxPartner m
    if (s.aux q).pendingOn then
      (match (s.aux m).offAt with
        | none => s
        | some u => s.advClk (u + s.get (R.AUXT_DEAD_DEAD q))).auxPending q
    else s
  else s

/-- Whether the gate-off confirm of timer m is awaited. -/
def State.auxWaits (s : State) (m : Nat) : Bool :=
  auxPaired m && (s.aux m).offAt.isSome && !(s.aux m).gate && !s.flag (R.AUXT_STAT_AUXOFF m)
/-- CONF_TO expires (R107): the pair is held off. What comes later comes in a later clock (R9). -/
def State.auxTimeout (s : State) (m : Nat) : State :=
  let q := auxPartner m
  let s := s.advClk ((s.aux m).offAt.getD 0 + s.get (R.AUXT_DEAD_CONF_TO m))
  let s := (s.auxOff m s.clk).auxOff q s.clk
  (((s.put (R.AUXT_STAT_CONF m) 1).put (R.AUXT_STAT_CONF q) 1).emit 5 m 0x825 m).idle

/-- A W1C write of CONF: refused while the partner's AUXOFF is deasserted. -/
def State.auxClearConf (s : State) (m : Nat) : State × Bool :=
  if s.flag (R.AUXT_STAT_CONF m) then
    if s.flag (R.AUXT_STAT_AUXOFF (auxPartner m)) then (s.put (R.AUXT_STAT_CONF m) 0, false) else (s, true)
  else (s, false)

/-- A host write that missed its period start (R88, R106, R109): `bit` is 5 for CMP or PER, 3 for FORCE. -/
def State.auxLate (s : State) (m bit : Nat) : State :=
  let was := s.flag (R.AUXT_STAT_LATE m)
  let s := s.put (R.AUXT_STAT_LATE m) 1
  if was then s else s.emit 5 m 0x420 (2 ^ bit + s.get (R.AUXT_CTL_GROUP m) * 2 ^ 8)

end Sys2Proof.Machine
end

