-- ==== Sys2Proof/Machine/PolyEvents.lean ====
section
/-! DEFINITION. The meanings of the tick's Polygon deadlines (R63, R64, R87), of the auxiliary timers' events (R106, R107)
and of the trip pins (R160, R162). -/

namespace Sys2Proof.Machine

open Sys2Proof

/-- Gnomon runs, so ticks run. -/
def State.ticking (s : State) : Bool := s.alive && s.time.run

/-- The reload points of the next window pulse the lines that select them, at their Gnomon instants (R343): `s0` is the
state before Issue, whose window is that of the set just built. -/
def State.forLegReloads (s0 s : State) : State :=
  s.forEach (fun s x =>
    let n := s.get (R.TRIG_LINE_INDEX x)
    if s.get (R.TRIG_LINE_SRC x) == 8 && (s.leg n).src.runs then
      let l := s.leg n
      let at_ := fun (s : State) (t : Int) => if decide (s0.w0 ≤ t) && decide (t < s0.w1) then s.pulseAt 8 n (clockOf (unitsToQ (t.toNat + 3))) else s
      let s := at_ s l.cur
      if s.flag (R.LEG_CTL_UPD n) then at_ s (l.cur + (s.get (R.LEG_PER_PER_TICKS n) : Int) * s.tickU / 2) else s
    else s) (List.range 16)

/-- The latch and the guard of a tick each come once. -/
def State.markLatched (s : State) : State := { s with poly := { s.poly with latched := true } }
def State.markGuarded (s : State) : State := { s with poly := { s.poly with guarded := true } }

/-- ISSUE_LATCH (R87): once in a tick, at the first clock of Issue. -/
def execIssueLatch (s : State) : Host.Outcome State Fault Refusal :=
  .next (if s.ticking && !s.poly.latched then
    (s.forLegReloads ((s.advTo s.issueAt).pulse 4).vAbandon.vPublish.recordOns.buildSet).markLatched else s)

/-- EDGE_SET_RELEASE (R63): a set that has been built is released; COM_SET.BUILD is the time from the start of Issue in
TIME clocks. -/
def execEdgeSetRelease (s : State) : Host.Outcome State Fault Refusal :=
  .next (if s.ticking && s.poly.built && !s.poly.released && !s.poly.guarded && !s.poly.excused then
    s.releaseSet.put R.COM_SET_BUILD (satN 16 ((s.time.now - s.issueAt) / 5))
  else s)

/-- GUARD_START (R64): once in a tick, overrun is judged. -/
def execGuardStart (s : State) : Host.Outcome State Fault Refusal :=
  .next (if s.ticking && !s.poly.guarded then
    let s := ((s.advTo (s.time.tickStart + s.guardQ)).pulse 5).vAbandon
    (match s.unmet with
    | some part => s.overrun part
    | none => s.put R.SYS_TICK_OVR_CONSEC 0).markGuarded
  else s)

/-- AUX_PERIOD_START (R106). -/
def execAuxPeriodStart (timer : Fin 20) (s : State) : Host.Outcome State Fault Refusal :=
  .next (s.whenAlive fun s => s.auxPeriod timer)

/-- AUXOFF_CONFIRM (R107): AUXOFF of `timer` is sampled asserted. -/
def execAuxoffConfirm (timer : Fin 20) (s : State) : Host.Outcome State Fault Refusal :=
  .next (s.whenAlive fun s => s.auxConfirm timer)

/-- PIN_TRIP (R162): the level of TRIPx after its synchroniser is `level`; an active level has to last FILT TIME clocks, which pass
(log 215). -/
def execPinTrip (chan : Fin 8) (level : Bool) (s : State) : Host.Outcome State Fault Refusal :=
  .next (s.whenAlive fun s =>
    let w := s.prot.pins
    let v := if w.testBit chan == level then w else w ^^^ 2 ^ chan.val
    let s := { s with prot := { s.prot with pins := v } }
    (if s.chPin chan then s.advOsc (s.time.osc + s.get (R.TCH_CFG_FILT chan) * 5) else s).evalChannel chan)

end Sys2Proof.Machine
end

