-- ==== Sys2Proof/Machine/Drive.lean ====
section
/-! DEFINITION. The auxiliary drives MD0 to MD2 (R351 to R373) and the brake choppers (R368 to R370). -/

namespace Sys2Proof.Machine

open Sys2Proof

def drvDefault (_ : Nat) : DrvSt := {}
def State.drvSt (s : State) (d : Nat) : DrvSt := Tab.get drvDefault s.drv d
def State.setDrv (s : State) (d : Nat) (f : DrvSt → DrvSt) : State :=
  { s with drv := Tab.set drvDefault s.drv d (f (s.drvSt d)) }
def brkDefault (_ : Nat) : BrkSt := {}
def State.brkSt (s : State) (k : Nat) : BrkSt := Tab.get brkDefault s.brk k
def State.setBrk (s : State) (k : Nat) (f : BrkSt → BrkSt) : State :=
  { s with brk := Tab.set brkDefault s.brk k (f (s.brkSt k)) }

def dOFF : Nat := 0
def dIDLE : Nat := 1
def dCATCH : Nat := 2
def dALIGN : Nat := 3
def dRUN : Nat := 4
def dDECEL : Nat := 5
def dCOAST : Nat := 6
def dSHORT : Nat := 7
def dFAULT : Nat := 8
def State.drvState (s : State) (d : Nat) : Nat := s.get (R.MD_STAT_STATE d)
/-- A safety stop of the drive holds (R391). -/
def State.drvStopped (s : State) (d : Nat) : Bool := s.flag (R.SDRV_STAT_DSTOP d)

/-! ## Requests (R352) -/

/-- Every pair of the drive takes the state of a vector, 8 for all off: turn-offs first. -/
def State.drvVector (s : State) (d v : Nat) : State :=
  let high := fun (p : Nat) => (vectorBits v).testBit p
  let s := s.setDrv d fun x => { x with vec := v }
  let s := if v = 8 then s else s.put (R.MD_VEC_VEC d) v
  let s := s.forEach (fun s p =>
    let s := if v = 8 || !high p then s.auxRequest (6 * d + 2 * p) false else s
    if v = 8 || high p then s.auxRequest (6 * d + 2 * p + 1) false else s) [0, 1, 2]
  if v = 8 then s else s.forEach (fun s p => s.auxRequest (6 * d + 2 * p + (if high p then 0 else 1)) true) [0, 1, 2]

/-! ## States (R356, R357) -/

/-- A HALT stow ends (R372). -/
def State.stowEnd (s : State) (d : Nat) (ok : Bool) : State :=
  let s := s.setDrv d fun x => { x with stowUp := none }
  let s := (s.put (if ok then R.MD_STAT_STOWED d else R.MD_STAT_STOW_FAIL d) 1).irq .md d 4
  s.emit 11 d (if ok then 0x0E5 else 0x8E5) ((s.arcX d % 2 ^ 32).toNat + ok.toNat * 2 ^ 32)

/-- STATE changes, with what entering a state does. -/
def State.drvTo (s : State) (d new : Nat) : State :=
  let old := s.drvState d
  if old = new then s else
    let s := ((s.put (R.MD_STAT_STATE d) new).irq .md d 0).emit 11 d 0x0E0 (new + old * 16)
    let s := s.setDrv d fun x => { x with lossUp := none, posUp := none, holdUp := none, lowUp := none }
    let s := if new = dCATCH then s.setDrv d fun x => { x with catchUp := s.time.up }
      else if new = dALIGN then s.setDrv d fun x => { x with alignUp := s.time.up }
      else s
    let s := if new = dRUN then s else s.put (R.MD_STAT_VCEIL d) 0
    let s := if new = dRUN ∨ new = dDECEL then s else s.put (R.MD_STAT_HALLMODE d) 0
    let s := if new = dRUN ∨ new = dCATCH ∨ new = dALIGN then s else s.put (R.MD_STAT_POSMODE d) 0
    let s := if (s.drvSt d).stowUp.isSome && (new == dFAULT || new == dCOAST) then s.stowEnd d false else s
    if new = dSHORT then s.drvVector d 0
    else if new = dRUN ∨ new = dDECEL ∨ new = dALIGN then s
    else s.drvVector d 8

/-- A fault of cause c (R356): one that arises during SHORT is recorded, logged and waits, unless it is a safety stop (R357). -/
def State.drvFault (s : State) (d c : Nat) : State :=
  let st := s.drvState d
  if st = dOFF ∨ (st = dFAULT ∧ c ≠ 7) then s
  else if st = dSHORT ∧ c ≠ 7 then
    ((s.put (R.MD_STAT_FCAUSE d) c).setDrv d fun x => { x with pending := c }).emit 11 d 0x8E2 (c + st * 16 + 256)
  else
    let s := ((s.put (R.MD_STAT_FCAUSE d) c).put (R.MD_STAT_FAULT d) 1).irq .md d 1
    ((s.emit 11 d 0x8E2 (c + st * 16)).drvTo d dFAULT).setDrv d fun x => { x with pending := 0 }

/-- A chopper fault is latched on the drive's bus. -/
def State.busFaulty (s : State) (d : Nat) : Bool :=
  let k := s.get (R.MD_CFG_BUS d)
  s.flag (R.BRK_STAT_STUCK k) || s.flag (R.BRK_STAT_OPEN k)
/-- COAST, while no higher rank holds. -/
def State.drvCoast (s : State) (d : Nat) : State :=
  let st := s.drvState d
  if st = dOFF ∨ st = dSHORT ∨ st = dFAULT then s else s.drvTo d dCOAST
/-- DECEL; a drive that is in it under a chopper fault enters COAST (R369). -/
def State.drvDecel (s : State) (d : Nat) : State :=
  let s := s.drvTo d dDECEL
  if s.busFaulty d then s.drvCoast d else s
/-- SHORT for a drive on a bus above VSHORT (R370). -/
def State.drvShort (s : State) (k d : Nat) : State :=
  let st := s.drvState d
  if s.flag (R.MD_CFG_EN d) && s.get (R.MD_CFG_BUS d) == k && st != dOFF && st != dSHORT && !s.drvStopped d then
    (s.drvTo d dSHORT).emit 11 d 0x4E4 (satN 16 (s.get (R.BRK_VBUS k) / 65536) + (s.busFaulty d).toNat * 65536)
  else s

/-! ## Formats and measurements (R353, R355) -/

def State.drvCur (s : State) (d slot : Nat) : Int := fmtS 32 16 ((s.slotCode slot : Rat) * s.get (R.MD_KI d) / 2 ^ 24)
def State.drvVolt (s : State) (d slot : Nat) : Int := fmtS 32 16 ((s.slotCode slot : Rat) * s.get (R.MD_KV d) / 2 ^ 24)
/-- IU, IV and IW in 2^-16 A. -/
def State.drvCurrents (s : State) (d : Nat) : Int × Int × Int :=
  let u := s.drvCur d (s.get (R.MD_SLOTS_IU d))
  let v := s.drvCur d (s.get (R.MD_SLOTS_IV d))
  (u, v, satI 32 (-u - v))
def poles (s : State) (d : Nat) : Rat := s.get (R.MD_CFG_POLES d)
/-- Mechanical speed in rpm, from its register. -/
def State.drvRpm (s : State) (d : Nat) : Rat := ofFmt 8 (s.getI (R.MD_SPEED d))
def State.putRpm (s : State) (d : Nat) (x : Rat) : State := s.putI (R.MD_SPEED d) (fmtS 32 8 x)
def State.drvVbus (s : State) (d : Nat) : Rat := ofFmt 16 (s.getI (R.BRK_VBUS (s.get (R.MD_CFG_BUS d))))
def State.psiRef0 (s : State) (d : Nat) : Rat := ofFmt 16 (s.get (R.MD_MOTOR_PSI d))
def State.arcRpm (s : State) (d : Nat) : Rat := 10 * ofFmt 8 (s.arcSpeed d) / poles s d
def State.spdMin (s : State) (d : Nat) : Rat := s.get (R.MD_SPD_SPD_MIN d)

/-- A drive quotient, open where the divisor is 0 (R362, R363). -/
def ddiv (a b : Rat) : Rat := if b = 0 then Config.driveQuotient a else a / b
/-- ωc and the electrical speed in radians per second (R362). -/
def State.ceilE (s : State) (d : Nat) : Rat :=
  ddiv (ofFmt 16 (s.get (R.MD_STOPC_VLIM d)) * s.drvVbus d) (sqrtR 3 * s.psiRef0 d)
def State.elecE (s : State) (d : Nat) : Rat := s.drvRpm d * 2 * piR * poles s d / 60
/-- ψ* (R359, R362). -/
def State.psiRef (s : State) (d : Nat) : Rat :=
  let p := s.psiRef0 d
  let w := absR (s.elecE d)
  if s.flag (R.MD_CFG_FW d) && decide (s.ceilE d < w) then
    max (p / 4) (ddiv (ofFmt 16 (s.get (R.MD_STOPC_VLIM d)) * s.drvVbus d) (sqrtR 3 * w))
  else p

/-- The Clarke transform of R170. -/
def clarkeD (a b c : Rat) : Rat × Rat := ((2 * a - b - c) / 3, (b - c) / sqrtR 3)

/-- The estimator of R358 over a step of dt seconds. -/
def State.drvEstimate (s : State) (d : Nat) (dt : Rat) (i : Rat × Rat × Rat) : State :=
  let x := s.drvSt d
  let vm := s.flag (R.MD_CFG_VMEAS d)
  if x.vec = 8 && !vm then s else
    let u : Rat × Rat :=
      if x.vec = 8 then
        let a := ofFmt 16 (s.drvVolt d (s.get (R.MD_SLOTS_VU d)))
        let b := ofFmt 16 (s.drvVolt d (s.get (R.MD_SLOTS_VV d)))
        let c := ofFmt 16 (s.drvVolt d (s.get (R.MD_SLOTS2_VW d)))
        let m := (a + b + c) / 3
        clarkeD (a - m) (b - m) (c - m)
      else
        let h := fun (p : Nat) => if (vectorBits x.vec).testBit p then (1 : Rat) else 0
        let v := s.drvVbus d / 3
        clarkeD (v * (2 * h 0 - h 1 - h 2)) (v * (2 * h 1 - h 2 - h 0)) (v * (2 * h 2 - h 0 - h 1))
    let iab := clarkeD i.1 i.2.1 i.2.2
    let rs := ofFmt 12 (s.get (R.MD_MOTOR_RS d))
    let pa := fmtS 32 24 (ofFmt 24 x.psiA * (1 - dt) + (u.1 - rs * iab.1) * dt)
    let pb := fmtS 32 24 (ofFmt 24 x.psiB * (1 - dt) + (u.2 - rs * iab.2) * dt)
    let th := angleT (ofFmt 24 pb) (ofFmt 24 pa)
    let we := if dt = 0 then x.we else lowPass dt (5 / 1000) x.we (wrapHalf (th - x.theta) / dt)
    let t := 3 / 2 * poles s d * (ofFmt 24 pa * iab.2 - ofFmt 24 pb * iab.1)
    let s := s.setDrv d fun x => { x with psiA := pa, psiB := pb, theta := th, we := we }
    let s := (s.putI (R.MD_TORQUE d) (fmtS 32 16 t)).putI (R.MD_FLUX d) (fmtS 32 24 (hyp (ofFmt 24 pa) (ofFmt 24 pb)))
    s.putRpm d (we * 60 / poles s d)

/-! ## RUN (R359 to R364) -/

/-- ω* moved toward a target in rpm over dt (R361). -/
def State.rampTo (s : State) (d : Nat) (dt target : Rat) : State :=
  let w := (s.drvSt d).wRef
  let acc : Rat := s.get (R.MD_RAMP_ACC d)
  let dec : Rat := s.get (R.MD_RAMP_DEC d)
  let rising := decide (0 ≤ w * target) && decide (absR w < absR target)
  let step := dt * (if rising then acc else dec)
  let goal := if w * target < 0 then 0 else target
  let n := if w < goal then min goal (w + step) else max goal (w - step)
  s.setDrv d fun x => { x with wRef := n }
/-- ω* clamped to ±SPD_MAX and to the ceiling (R361, R362). -/
def State.clampRef (s : State) (d : Nat) : State :=
  let w := (s.drvSt d).wRef
  let m : Rat := s.get (R.MD_SPD_SPD_MAX d)
  let c := s.ceilE d * 60 / (2 * piR * poles s d) * (if s.flag (R.MD_CFG_FW d) then 4 else 1)
  let w1 := clampR (-m) m w
  let w2 := clampR (-c) c w1
  (s.setDrv d fun x => { x with wRef := w2 }).putB (R.MD_STAT_VCEIL d) (decide (w2 ≠ w1))
/-- The speed control (R361), with the limit of a faulty chopper in RUN (R369). -/
def State.speedPi (s : State) (d : Nat) (dt : Rat) : State :=
  let x := s.drvSt d
  let e := x.wRef - s.drvRpm d
  let held := x.tLim && decide (0 < e * x.tRef)
  let i := if held then x.integ else x.integ + ofFmt 12 (s.get (R.MD_PI_KI d)) * e * dt
  let t := ofFmt 12 (s.get (R.MD_PI_KP d)) * e + i
  let m := ofFmt 8 (s.get (R.MD_LIM_TMAX d))
  let c := clampR (-m) m t
  let c' := if s.drvState d = dRUN ∧ s.busFaulty d = true ∧ c * s.drvRpm d < 0 then 0 else c
  s.setDrv d fun x => { x with integ := i, tRef := ofFmt 16 (fmtS 32 16 c'), tLim := decide (c ≠ t) }

/-- Largest phase current magnitude in A, from its register. -/
def State.ipk (s : State) (d : Nat) : Rat := ofFmt 16 (s.getI (R.MD_IPK d))
/-- The vector of the switching table (R359, R360). -/
def State.tableVector (s : State) (d : Nat) : State × Nat :=
  let x := s.drvSt d
  let eP := s.psiRef d - ofFmt 24 (s.getI (R.MD_FLUX d))
  let hp := ofFmt 16 (s.get (R.MD_BANDS_HPSI d))
  let dPsi := if hp < eP then true else if eP < -hp then false else x.dPsi
  let eT := x.tRef - ofFmt 16 (s.getI (R.MD_TORQUE d))
  let ht := ofFmt 8 (s.get (R.MD_BANDS_HT d))
  let dT : Int := if ht < eT then 1 else if eT < -ht then -1 else if x.dT = 1 ∧ eT < 0 then 0 else if x.dT = -1 ∧ 0 < eT then 0 else x.dT
  let sec := (6 * x.theta + 1 / 2).floor.toNat % 6
  let s := (s.setDrv d fun x => { x with dPsi := dPsi, dT := dT }).put (R.MD_VEC_SECTOR d) sec
  let z := zeroVec x.vec
  let k := sec + 1
  let v := if ofFmt 6 (s.get (R.MD_LIM_IMAX d)) < s.ipk d then z
    else if dT = 0 then z
    else if dT = 1 then nextVec k (if dPsi then 1 else 2)
    else nextVec k (if dPsi then 5 else 4)
  (s, v)

/-- The forward vector of a Hall code. -/
def State.hallFwd (s : State) (d code : Nat) : Nat := s.get (R.MD_HFWD_HFWD d) / 8 ^ code % 8
/-- The current hysteresis of R363 about a target: v, or a zero vector. -/
def State.curHyst (s : State) (d v : Nat) (target : Rat) : State × Nat :=
  let b := ofFmt 6 (s.get (R.MD_CUR_HBAND d))
  let x := s.drvSt d
  let on := if s.ipk d < target - b then true else if target + b < s.ipk d then false else x.hallOn
  (s.setDrv d fun x => { x with hallOn := on }, if on then v else zeroVec x.vec)
/-- The vector that the Hall code and the sign of T* name. -/
def State.hallPick (s : State) (d : Nat) : Nat :=
  let f := s.hallFwd d (s.get (R.ARC_CODE_CODE d))
  if 0 ≤ (s.drvSt d).tRef then f else nextVec f 3
/-- The vector of Hall mode. -/
def State.hallVector (s : State) (d : Nat) : State × Nat :=
  s.curHyst d (s.hallPick d) (ddiv (absR (s.drvSt d).tRef) (3 / 2 * poles s d * s.psiRef0 d))

/-- ψ of magnitude PSI at an angle in turns; |ψ| and T follow from it (R358). -/
def State.setPsi (s : State) (d : Nat) (th : Rat) : State :=
  let p := s.psiRef0 d
  let pa := fmtS 32 24 (p * cosT th)
  let pb := fmtS 32 24 (p * sinT th)
  let i := s.drvCurrents d
  let iab := clarkeD (ofFmt 16 i.1) (ofFmt 16 i.2.1) (ofFmt 16 i.2.2)
  let t := 3 / 2 * poles s d * (ofFmt 24 pa * iab.2 - ofFmt 24 pb * iab.1)
  ((s.setDrv d fun x => { x with psiA := pa, psiB := pb, theta := frac th }).putI (R.MD_TORQUE d) (fmtS 32 16 t)).putI
    (R.MD_FLUX d) (fmtS 32 24 p)

/-- Hall mode is entered below SPD_MIN or on a loss, and left after 50 decisions at SPD_MIN or above (R363). -/
def State.hallJudge (s : State) (d : Nat) : State :=
  if s.flag (R.MD_CFG_HALL d) then
    let slow := decide (absR (s.drvRpm d) < s.spdMin d)
    let was := s.flag (R.MD_STAT_HALLMODE d)
    let x := s.drvSt d
    if was then
      let n := if slow then 0 else x.hallN + 1
      if 50 ≤ n then
        let v := if x.vec = 0 ∨ x.vec = 7 ∨ x.vec = 8 then s.hallPick d else x.vec
        let s := s.setPsi d (((v + 5) % 6 : Nat) / 6 - 1 / 4)
        (s.put (R.MD_STAT_HALLMODE d) 0).setDrv d fun x => { x with hallN := 0, hallLost := false }
      else s.setDrv d fun x => { x with hallN := n }
    else if slow || x.hallLost then (s.put (R.MD_STAT_HALLMODE d) 1).setDrv d fun x => { x with hallN := 0 }
    else s
  else s

/-- The rotor is lost (R364). -/
def State.rotorLost (s : State) (d : Nat) : State :=
  let hall := s.flag (R.MD_CFG_HALL d)
  let s := (((s.put (R.MD_STAT_LOST d) 1).irq .md d 2).emit 11 d 0x4E1 (hall.toNat + (s.getI (R.MD_SPEED d) % 2 ^ 32).toNat * 2))
  if hall then (s.put (R.MD_STAT_HALLMODE d) 1).setDrv d fun x => { x with hallLost := true, hallN := 0, lossUp := none }
  else s.drvTo d dCATCH
/-- The judgement of R364, with the flux angle before the decision. -/
def State.lossJudge (s : State) (d : Nat) (th0 : Rat) : State :=
  if s.flag (R.MD_STAT_HALLMODE d) || decide (absR (s.drvRpm d) < s.spdMin d) then s.setDrv d fun x => { x with lossUp := none }
  else
    let p := s.psiRef d
    let m := ofFmt 24 (s.getI (R.MD_FLUX d))
    let out := decide (m < p / 2) || decide (3 / 2 * p < m)
    let up := if out then some ((s.drvSt d).lossUp.getD s.time.up) else none
    let s := s.setDrv d fun x => { x with lossUp := up }
    let long := match up with
      | some u => decide (u + msQ (s.get (R.MD_TIMES_LOSS_T d)) ≤ s.time.up)
      | none => false
    if long || decide (1 / 6 < absR (wrapHalf ((s.drvSt d).theta - th0))) then s.rotorLost d else s

/-- The hold of V0 begins (R366). -/
def State.holdV0 (s : State) (d : Nat) (rev : Bool) : State :=
  (s.setDrv d fun x => { x with holdUp := some (x.holdUp.getD s.time.up), reversing := rev }).drvVector d 0

/-- Position control (R371): ω*, and the window. -/
def State.posControl (s : State) (d : Nat) : State :=
  let x := s.drvSt d
  let err := x.target - s.arcX d
  let inside := decide (err.natAbs ≤ s.get (R.MD_POSCFG_POS_WIN d))
  let m : Rat := s.get (R.MD_SPD_SPD_MAX d)
  let w := clampR (-m) m (ofFmt 8 (s.get (R.MD_POSCFG_KPOS d)) * err)
  s.setDrv d fun x => { x with wRef := w, posUp := if inside then some (x.posUp.getD s.time.up) else none }

/-- Under Hall mode the speed is Arc's (R363). -/
def State.hallSpeed (s : State) (d : Nat) : State :=
  if s.flag (R.MD_STAT_HALLMODE d) then s.putRpm d (s.arcRpm d) else s
/-- A Hall error of Arc that stands in Hall mode (R363). -/
def State.hallBroken (s : State) (d : Nat) : Bool :=
  s.flag (R.MD_STAT_HALLMODE d) && s.flag (R.ARC_STAT_HALLERR d) && s.arcErrHolds d

/-- The speed control and the vector of a decision in RUN. A target of the other sign without Hall sensors is met by falling to 0
first, and below SPD_MIN by the hold of V0 (R366). -/
def State.runDrive (s : State) (d : Nat) (dt : Rat) : State :=
    let hall := s.flag (R.MD_STAT_HALLMODE d)
    let pos := s.flag (R.MD_STAT_POSMODE d)
    let tgt := s.getI (R.MD_SPD_TGT d)
    let turn := !pos && !s.flag (R.MD_CFG_HALL d) && decide (tgt * (s.drvSt d).dir < 0)
    let s := if pos then s.posControl d else s.rampTo d dt (if turn then 0 else ofFmt 8 tgt)
    let s := s.clampRef d
    if (s.drvSt d).holdUp.isSome || (turn && decide (absR (s.drvRpm d) < s.spdMin d)) then s.holdV0 d true
    else
      let s := s.setDrv d fun x => { x with dir := if x.wRef = 0 then x.dir else (signR x.wRef).num }
      let s := s.speedPi d dt
      let q := if hall then s.hallVector d else s.tableVector d
      q.1.drvVector d q.2

/-- A decision in RUN. A HOME command whose re-home is over slows down (R371). -/
def State.runStep (s : State) (d : Nat) (dt : Rat) (th0 : Rat) : State :=
  let s := (s.hallSpeed d).lossJudge d th0
  if s.drvState d != dRUN then s else
    let s := ((s.hallSpeed d).hallJudge d).hallSpeed d
    if s.hallBroken d then s.drvFault d 3
    else if (s.drvSt d).cmd == 3 && !s.flag (R.ARC_STAT_HOMEARM d) then s.drvDecel d
    else s.runDrive d dt

/-- A decision in DECEL (R366). -/
def State.decelStep (s : State) (d : Nat) (dt : Rat) : State :=
  let s := (((s.hallSpeed d).hallJudge d).hallSpeed d)
  if s.hallBroken d then s.drvFault d 3
  else if (s.drvSt d).holdUp.isSome || decide (absR (s.drvRpm d) < s.spdMin d) then s.holdV0 d false
  else
    let s := (s.rampTo d dt 0).speedPi d dt
    let q := if s.flag (R.MD_STAT_HALLMODE d) then s.hallVector d else s.tableVector d
    q.1.drvVector d q.2

/-- Currents, bus voltage and largest magnitude at a decision. -/
def State.drvMeasure (s : State) (d : Nat) : State :=
  let i := s.drvCurrents d
  let pk : Nat := max (max i.1.natAbs i.2.1.natAbs) i.2.2.natAbs
  (s.put (R.MD_IPK d) (min pk (2 ^ 31 - 1))).put (R.MD_VBUS d) (s.get (R.BRK_VBUS (s.get (R.MD_CFG_BUS d))))

/-- The phase currents of SHORT against ISTOP (R370). -/
def State.shortStep (s : State) (d : Nat) : State :=
  let low := decide (s.ipk d < ofFmt 6 (s.get (R.MD_STOPC_ISTOP d)))
  s.setDrv d fun x => { x with lowUp := if low then some (x.lowUp.getD s.time.up) else none }

/-- A decision of the drive (R354, R358). -/
def State.drvDecide (s : State) (d : Nat) : State :=
  let x := s.drvSt d
  let dt : Rat := match x.lastUp with
    | some u => ((s.time.up - u : Nat) : Rat) / (secQ : Rat)
    | none => 0
  let s := (s.drvMeasure d).setDrv d fun x => { x with lastUp := some s.time.up, pulseUp := none }
  let st := s.drvState d
  let i := s.drvCurrents d
  let s := if st = dCATCH ∨ st = dALIGN ∨ st = dRUN ∨ st = dDECEL then
      s.drvEstimate d dt (ofFmt 16 i.1, ofFmt 16 i.2.1, ofFmt 16 i.2.2) else s
  if s.drvStopped d then s
  else if st = dCATCH then
    (if s.flag (R.MD_CFG_VMEAS d) then s else s.putRpm d (s.arcRpm d)).drvVector d 8
  else if st = dALIGN then
    let q := s.curHyst d 1 (ofFmt 6 (s.get (R.MD_CUR_IALIGN d)))
    q.1.drvVector d q.2
  else if st = dRUN then s.runStep d dt x.theta
  else if st = dDECEL then s.decelStep d dt
  else if st = dSHORT then s.shortStep d
  else s

/-- The results of the current slots since the pulse exist. -/
def State.drvFresh (s : State) (d pulse : Nat) : Bool :=
  decide (pulse ≤ s.slotCodeUp (s.get (R.MD_SLOTS_IU d))) && decide (pulse ≤ s.slotCodeUp (s.get (R.MD_SLOTS_IV d)))
/-- Elapsed time at which the later of the current results reaches the drive, 30 ns after its conversion (R353). -/
def State.drvArrives (s : State) (d : Nat) : Nat :=
  max (s.slotCodeUp (s.get (R.MD_SLOTS_IU d))) (s.slotCodeUp (s.get (R.MD_SLOTS_IV d))) + 120
/-- The decision in the clock in which the last of the results arrives, at most 2 µs after the pulse. -/
def State.drvInTime (s : State) (d pulse : Nat) : Bool := s.drvFresh d pulse && decide (s.drvArrives d ≤ pulse + usQ 2)
def State.drvOnTime (s : State) (d : Nat) : State :=
  ((s.advUp (s.drvArrives d)).setDrv d fun x => { x with misses := 0 }).drvDecide d
/-- A miss (R354): four in a row are a fault. -/
def State.drvMiss (s : State) (d : Nat) : State :=
  let n := (s.drvSt d).misses + 1
  let s := (s.bumpMod (R.MD_VEC_MISS d)).setDrv d fun x => { x with misses := n }
  if 4 ≤ n then (s.setDrv d fun x => { x with misses := 0 }).drvFault d 5 else s

/-- DRIVE_DECISION (R354): the results that the pulse triggered have arrived. -/
def execDriveDecision (drive : Fin 3) (s : State) : Host.Outcome State Fault Refusal :=
  .next (s.whenAlive fun s =>
    match (s.drvSt drive).pulseUp with
    | some u =>
      if s.drvInTime drive u then s.drvOnTime drive else s
    | none => s)

/-- DECISION_DEADLINE (R354): 2 µs after the pulse. -/
def execDecisionDeadline (drive : Fin 3) (s : State) : Host.Outcome State Fault Refusal :=
  .next (s.whenAlive fun s =>
    match (s.drvSt drive).pulseUp with
    | some u =>
      if s.drvInTime drive u then s.drvOnTime drive
      else ((s.advUp (u + usQ 2)).drvMiss drive).drvDecide drive
    | none => s)

/-- A trigger pulse reaches the drives of its line (R354). -/
def State.drvPulse (s : State) (line : Nat) : State :=
  s.forEach (fun s d =>
    if s.flag (R.MD_CFG_EN d) && s.get (R.MD_CFG_TRIG d) == line then
      if (s.drvSt d).pulseUp.isSome then s.bumpMod (R.MD_VEC_MISS d)
      else s.setDrv d fun x => { x with pulseUp := some s.time.up }
    else s) [0, 1, 2]

/-! ## Sequences (R365, R366, R370, R371) -/

/-- CATCH_DONE (R365). -/
def execCatchDone (drive : Fin 3) (s : State) : Host.Outcome State Fault Refusal :=
  .next (s.whenAlive fun s =>
    let d := drive.val
    if s.drvState d = dCATCH ∧ s.drvStopped d = false then
      let s := s.advUp ((s.drvSt d).catchUp + msQ (s.get (R.MD_TIMES_CATCH_T d)))
      let arc := !s.flag (R.MD_CFG_VMEAS d)
      let s := if arc then s.putRpm d (s.arcRpm d) else s
      let w := absR (s.drvRpm d)
      let slow := decide (w < s.spdMin d)
      let p := s.psiRef d
      let m := ofFmt 24 (s.getI (R.MD_FLUX d))
      let good := arc || (decide (p / 2 ≤ m) && decide (m ≤ 3 / 2 * p))
      let ev := fun (s : State) => s.emit 11 d 0x0E3 ((s.getI (R.MD_SPEED d) % 2 ^ 32).toNat + slow.toNat * 2 ^ 32)
      let clear := fun (s : State) => s.setDrv d fun x => { x with catches := 0, integ := 0, tRef := 0, tLim := false }
      if !slow && good then
        let w := s.drvRpm d
        ((clear (ev s)).setDrv d fun x => { x with wRef := w, dir := (signR w).num }).drvTo d dRUN
      else if slow then
        let s := (clear (ev s)).setDrv d fun x => { x with wRef := 0 }
        if s.flag (R.MD_CFG_HALL d) then ((s.drvTo d dRUN).put (R.MD_STAT_HALLMODE d) 1).setDrv d fun x => { x with hallN := 0, dir := 0 }
        else s.drvTo d dALIGN
      else
        let n := (s.drvSt d).catches + 1
        if 3 ≤ n then (s.setDrv d fun x => { x with catches := 0 }).drvFault d 4
        else s.setDrv d fun x => { x with catches := n, catchUp := s.time.up }
    else s)

/-- ALIGN_DONE (R365). -/
def execAlignDone (drive : Fin 3) (s : State) : Host.Outcome State Fault Refusal :=
  .next (s.whenAlive fun s =>
    let d := drive.val
    if s.drvState d = dALIGN ∧ s.drvStopped d = false then
      let s := s.advUp ((s.drvSt d).alignUp + msQ (s.get (R.MD_TIMES_ALIGN_T d)))
      let s := (s.setPsi d 0).setDrv d fun x => { x with wRef := 0, dir := (s.getI (R.MD_SPD_TGT d)).sign }
      s.drvTo d dRUN
    else s)

/-- STOP_HOLD_DONE (R366). -/
def execStopHoldDone (drive : Fin 3) (s : State) : Host.Outcome State Fault Refusal :=
  .next (s.whenAlive fun s =>
    let d := drive.val
    match (s.drvSt d).holdUp with
    | some u =>
      let s := s.advUp (u + msQ (s.get (R.MD_TIMES_REV_T d)))
      if s.drvState d = dDECEL then s.drvTo d dIDLE
      else if s.drvState d = dRUN ∧ (s.drvSt d).reversing = true then s.drvTo d dALIGN
      else s
    | none => s)

/-- POSITION_REACHED (R371, R372). -/
def execPositionReached (drive : Fin 3) (s : State) : Host.Outcome State Fault Refusal :=
  .next (s.whenAlive fun s =>
    let d := drive.val
    match (s.drvSt d).posUp with
    | some u =>
      if s.drvState d = dRUN then
        let s := s.advUp (u + msQ 100)
        let s := if (s.drvSt d).stowUp.isSome then s.stowEnd d true else s
        s.drvDecel d
      else s
    | none => s)

/-- STOW_DONE (R372): STOW_TO passes without the target being reached. -/
def execStowDone (drive : Fin 3) (s : State) : Host.Outcome State Fault Refusal :=
  .next (s.whenAlive fun s =>
    let d := drive.val
    match (s.drvSt d).stowUp with
    | some u => ((s.advUp (u + s.get (R.MD_POSCFG_STOW_TO d) * 10 * secQ)).stowEnd d false).idle
    | none => s)

/-- SHORT_END (R370): a fault recorded during SHORT is taken now. -/
def execShortEnd (drive : Fin 3) (s : State) : Host.Outcome State Fault Refusal :=
  .next (s.whenAlive fun s =>
    let d := drive.val
    match (s.drvSt d).lowUp with
    | some u =>
      let k := s.get (R.MD_CFG_BUS d)
      if s.drvState d = dSHORT ∧ s.getI (R.BRK_VBUS k) < (s.get (R.BRK_THR2_VSHORT k) : Int) * 4096 then
        let s := s.advUp (u + msQ 100)
        let s := (s.put (R.MD_STAT_SHORTED d) 1).irq .md d 3
        let c := (s.drvSt d).pending
        if s.flag (R.MD_STAT_FAULT d) then (s.setDrv d fun x => { x with pending := 0 }).drvTo d dFAULT
        else if c = 0 then s.drvTo d dIDLE
        else (((s.setDrv d fun x => { x with pending := 0 }).put (R.MD_STAT_FAULT d) 1).irq .md d 1).drvTo d dFAULT
      else s
    | none => s)

/-! ## Commands (R356, R371, R378) -/

def State.arcReady (s : State) (d : Nat) : Bool := s.flag (R.ARC_STAT_HOMED d) && !s.flag (R.ARC_STAT_SENSOR d)
/-- A drive command by its OP code: the state, and whether it is accepted. -/
def State.drvCommand (s : State) (d op : Nat) : State × Bool :=
  let st := s.drvState d
  let fromRest := st = dIDLE ∨ st = dCOAST
  let start := fun (s : State) (cmd : Nat) (target : Int) =>
    ((s.setDrv d fun x => { x with cmd := cmd, target := target, catches := 0, posUp := none }).putB (R.MD_STAT_POSMODE d)
      (cmd == 1 || cmd == 2)).drvTo d dCATCH
  match op with
  | 1 => if fromRest then (start s 0 0, true) else (s, false)
  | 2 =>
    if s.busFaulty d && !(st == dOFF || st == dSHORT) then (s.drvCoast d, true)
    else if st = dRUN then (s.drvDecel d, true) else (s, false)
  | 3 => if st = dOFF ∨ st = dSHORT then (s, false) else (s.drvCoast d, true)
  | 4 => if fromRest ∧ s.arcReady d = true then (start s 1 (s.getI (R.MD_POS_TGT d)), true) else (s, false)
  | 5 => if fromRest ∧ s.arcReady d = true then (start s 2 (s.getI (R.MD_STOW_POS d)), true) else (s, false)
  | 6 => if fromRest then ((start s 3 0).armHome d, true) else (s, false)
  | _ => (s, false)

/-- Overcurrent of an enabled comparator (R378). -/
def State.drvOver (s : State) (d : Nat) : Bool :=
  s.flag (R.MD_OCMP_EN d) && [R.MD_OCMP_U d, R.MD_OCMP_V d, R.MD_OCMP_W d].any fun f => s.flag (R.TW_STAT_TRIPCOND (s.get f))
/-- MDd_CFG.EN changes (R356); a safety stop or a trip condition that holds faults the drive at once (R357, R378). -/
def State.drvEnable (s : State) (d : Nat) : State :=
  let s := (s.setDrv d fun x => { stowUp := x.stowUp }).drvTo d dIDLE
  if s.drvStopped d then s.drvFault d 7 else if s.drvOver d then s.drvFault d 1 else s
def State.drvDisable (s : State) (d : Nat) : State := (s.drvTo d dOFF).setDrv d fun x => { stowUp := x.stowUp }
/-- Entry to HALT: each drive that stows (R372). -/
def State.haltStow (s : State) (d : Nat) : State :=
  if s.flag (R.MD_CFG_STOW d) then
    let q := s.drvCommand d 5
    let s := q.1.setDrv d fun x => { x with stowUp := some q.1.time.up }
    if q.2 then s else s.stowEnd d false
  else s
/-- HALT is left. -/
def State.haltLeft (s : State) (d : Nat) : State :=
  ((s.put (R.MD_STAT_STOWED d) 0).put (R.MD_STAT_STOW_FAIL d) 0).setDrv d fun x => { x with stowUp := none }
/-- The stow of R73 is finished. -/
def State.stowFinished (s : State) (d : Nat) : Bool :=
  !s.flag (R.MD_CFG_STOW d) || s.flag (R.MD_STAT_STOWED d) || s.flag (R.MD_STAT_STOW_FAIL d)

/-- A timer pair of the drive is held off (R107). -/
def State.drvConf (s : State) (d : Nat) : Bool := (List.range 6).any fun i => s.flag (R.AUXT_STAT_CONF (6 * d + i))
/-- A W1C clear of FAULT (R378): refused while its condition holds. -/
def State.drvClear (s : State) (d : Nat) : State × Bool :=
  if s.flag (R.MD_STAT_FAULT d) then
    let holds := match s.get (R.MD_STAT_FCAUSE d) with
      | 1 => s.drvOver d
      | 2 => s.drvConf d
      | 3 => s.arcErrHolds d
      | 7 => s.drvStopped d
      | _ => false
    if holds || s.drvStopped d then (s.put (R.MD_STAT_CLR_REFUSED d) 1, true)
    else
      let s := (s.put (R.MD_STAT_FAULT d) 0).put (R.MD_STAT_FCAUSE d) (s.drvSt d).pending
      if s.drvState d = dFAULT then
        let s := s.drvTo d dIDLE
        (if s.drvOver d then s.drvFault d 1 else s, false)
      else (s, false)
  else (s, false)

/-! ## Choppers (R368, R369) -/

/-- The request of chopper k. -/
def State.brkRequest (s : State) (k : Nat) (on : Bool) : State :=
  if s.flag (R.BRK_STAT_ON k) == on then s
  else ((s.putB (R.BRK_STAT_ON k) on).setBrk k fun b => { b with reqUp := s.time.up }).auxRequest (18 + k) on
def State.brkLatched (s : State) (k : Nat) : Bool := s.flag (R.BRK_STAT_STUCK k) || s.flag (R.BRK_STAT_OPEN k)

/-- CHOPPER_UPDATE (R368, R370): a result of slot VSLOT. -/
def execChopperUpdate (k : Fin 2) (s : State) : Host.Outcome State Fault Refusal :=
  .next (s.whenAlive fun s =>
    let k := k.val
    let v := fmtS 32 16 ((s.slotCode (s.get (R.BRK_CFG_VSLOT k)) : Rat) * s.get (R.BRK_KV k) / 2 ^ 24)
    let s := s.putI (R.BRK_VBUS k) v
    let s := if s.flag (R.BRK_CFG_EN k) && !s.brkLatched k then
        if (s.get (R.BRK_THR_VON k) : Int) * 4096 < v then s.brkRequest k true
        else if v < (s.get (R.BRK_THR_VOFF k) : Int) * 4096 then s.brkRequest k false else s
      else s.brkRequest k false
    let high := decide ((s.get (R.BRK_THR2_VSHORT k) : Int) * 4096 < v)
    let s := if high && !s.flag (R.BRK_STAT_OVERV k) then s.irq .brk 0 (2 + k) else s
    let s := s.putB (R.BRK_STAT_OVERV k) high
    if high then s.forEach (fun s d => s.drvShort k d) [0, 1, 2] else s)

/-- The presence of current brought up to date with the comparator's window state (R369). -/
def State.brkCurrent (s : State) (k : Nat) : State :=
  let p := s.get (R.TW_STAT_WIN (s.get (R.BRK_CFG_ICMP k))) == wABOVE
  if (s.brkSt k).present == p then s else s.setBrk k fun b => { b with present := p, curUp := s.time.up }

/-- BRK_FAULT (R369): CHK_T has passed. -/
def execBrkFault (k : Fin 2) (s : State) : Host.Outcome State Fault Refusal :=
  .next (s.whenAlive fun s =>
    let k := k.val
    let on := s.flag (R.BRK_STAT_ON k)
    let b := s.brkSt k
    if b.present != on && !s.flag (if on then R.BRK_STAT_OPEN k else R.BRK_STAT_STUCK k) then
      let s := s.advUp (max b.reqUp b.curUp + s.get (R.BRK_THR2_CHK_T k) * 400)
      let s := (s.put (if on then R.BRK_STAT_OPEN k else R.BRK_STAT_STUCK k) 1).irq .brk 0 k
      let s := s.emit 11 63 0x8E8 (k + on.toNat * 2 + (!on).toNat * 4 + satN 16 (s.get (R.BRK_VBUS k) / 65536) * 8)
      let s := s.brkRequest k false
      (s.forEach (fun s d => if s.get (R.MD_CFG_BUS d) == k && s.drvState d == dDECEL then s.drvCoast d else s) [0, 1, 2]).idle
    else s)

/-- A W1C clear of STUCK or OPEN by its mask (R369). -/
def State.brkClear (s : State) (k mask : Nat) : State × Bool :=
  let s := if mask.testBit 2 then s.put (R.BRK_STAT_OPEN k) 0 else s
  if mask.testBit 3 && s.flag (R.BRK_STAT_STUCK k) then
    if (s.brkSt k).present then (s.put (R.BRK_STAT_CLR_REFUSED k) 1, true) else (s.put (R.BRK_STAT_STUCK k) 0, false)
  else (s, false)

/-! ## Arc's commands -/

/-- HALL_CHANGE (R374): the filter of Arc (bit 0 of `rx`) or that of Chord's own receivers (bit 1) takes a code (R363, R382, R388). -/
def execHallChange (chan : Fin 3) (code : Fin 8) (rx : BitVec 2) (s : State) : Host.Outcome State Fault Refusal :=
  .next (s.whenAlive fun s =>
    let a := chan.val
    let s := if rx.getLsbD 1 then s.chordHall a code else s
    if rx.getLsbD 0 && s.flag (R.ARC_CFG_EN a) && s.get (R.ARC_CODE_CODE a) != code.val then
      let q := s.arcHall a code
      if q.2 && q.1.flag (R.MD_STAT_HALLMODE a) then q.1.drvFault a 3 else q.1
    else s)

/-- A HOME command that runs when HOMED becomes 1 slows down (R377). -/
def State.drvHomed (s : State) (a : Nat) : State :=
  if s.drvState a == dRUN && (s.drvSt a).cmd == 3 then s.drvDecel a else s

/-- INDEX_EDGE (R376, R377): a HOME command is complete when HOMED becomes 1. -/
def execIndexEdge (chan : Fin 3) (s : State) : Host.Outcome State Fault Refusal :=
  .next (s.whenAlive fun s =>
    let a := chan.val
    if s.flag (R.ARC_CFG_EN a) then
      if (s.arcIndex a).2 then (s.arcIndex a).1.drvHomed a else (s.arcIndex a).1
    else s)

/-! ## Events of other blocks that the drives follow -/

/-- A comparator's report reaches the drives and choppers. -/
def State.drvCompare (s : State) : State :=
  let s := s.forEach (fun s d =>
    let was := (s.drvSt d).ocOn
    let o := s.drvOver d
    let s := if was == o then s else s.setDrv d fun x => { x with ocOn := o }
    if o && !(was && s.drvState d == dSHORT) then s.drvFault d 1 else s) [0, 1, 2]
  s.forEach State.brkCurrent [0, 1]

/-- CMP_WIN_CHANGE (R289). -/
def execCmpWinChange (tw : Fin 48) (s : State) : Host.Outcome State Fault Refusal :=
  .next (s.whenAlive fun s => (s.cmpTake tw).drvCompare)

/-- BACKGROUND_CONVERSION (R280): one conversion in a position's free time. A read-back that fails may make a comparator report its
trip condition, which reaches the drives (R291). -/
def execBackgroundConversion (pos : Fin 8) (q : Int) (s : State) : Host.Outcome State Fault Refusal :=
  .next (if s.adcRuns then
    match s.serves pos with
    | some conv => (s.background pos conv q).drvCompare
    | none => s
  else s)

/-- CONF_TIMEOUT (R107, R352): the confirm of timer `timer` has not come. -/
def execConfTimeout (timer : Fin 20) (s : State) : Host.Outcome State Fault Refusal :=
  .next (s.whenAlive fun s =>
    let s := s.auxReachOff timer
    if s.auxWaits timer then
      let s := s.auxTimeout timer
      if timer.val < 18 then s.drvFault (timer / 6) 2 else s
    else s)

/-- PG_TRIP (R166): the guard's comparator reports the bus outside its window. -/
def execPgTrip (s : State) : Host.Outcome State Fault Refusal :=
  .next (s.whenAlive fun s =>
    let w := s.pgWin
    let s := s.put R.TRIP_PG_STAT_WIN w
    if w = 0 ∨ s.flag R.TRIP_PG_CFG_EN = false then s
    else
      let f := if w = 1 then R.TRIP_PG_STAT_LOW else R.TRIP_PG_STAT_HIGH
      let was := s.flag f
      let s := s.put R.TRIP_PG_STAT_ON 0
      if was then s else
      let s := (s.irq .tripp 0 9).put f 1
      (s.emit 19 17 0x844 ((w == 1).toNat + 2 * (w == 2).toNat)).forEach State.drvCoast [0, 1, 2])

/-- PGUARD_ON (R166): the comparator has reported inside for ONDLY. -/
def execPguardOn (s : State) : Host.Outcome State Fault Refusal :=
  .next (s.whenAlive fun s =>
    if s.flag R.TRIP_PG_CFG_EN && s.pgWin == 0 && !s.pgLatched then
      ((s.advUp ((s.cmpc (s.get R.TRIP_PG_CFG_CMP)).inUp + msQ (s.get R.TRIP_PG_CFG_ONDLY))).put R.TRIP_PG_STAT_WIN 0).put R.TRIP_PG_STAT_ON 1
    else s)

end Sys2Proof.Machine
end

