-- ==== Sys2Proof/Machine/Origin.lean ====
section
/-! DEFINITION. The Origin domain (R416 to R436): harvest and charger, cell thresholds, the real-time clock, checkpoints,
bursts and the energy gate, restore, lifetime counters. -/

namespace Sys2Proof.Machine

open Sys2Proof

def State.setOrg (s : State) (f : OrgSt → OrgSt) : State := { s with org := f s.org }
/-- The main rails are good. -/
def State.rails (s : State) : Bool := s.flag R.ORIGIN_STAT_RAILS
/-- An interrupt flag and event of Origin, while the main rails are good (R436). -/
def State.orgIrq (s : State) (i : Nat) : State := if s.rails then s.irq .origin 0 i else s
def State.orgEvent (s : State) (code data : Nat) : State := s.emit 18 63 code data
/-- An effect of the Origin domain, which runs in DARK and in main reset: none without VKEEP. -/
def State.whenKeep (s : State) (f : State → State) : State := if s.org.vkeep then f s else s

def secQs (n : Nat) : Nat := n * secQ
def hourQ : Nat := 3600 * secQ

/-! ## Harvest and charger (R417, R418) -/

/-- The charger may run. -/
def State.chargeOk (s : State) : Bool :=
  let t := s.getI R.ORIGIN_THERM_TEMP
  s.flag R.ORIGIN_STAT_HPRES && s.flag R.ORIGIN_CHG_EN && decide (0 ≤ t) && decide (t ≤ 45)
def State.vcell (s : State) : Nat := s.get R.ORIGIN_VMEAS_VCELL
def State.vchg (s : State) : Nat := 4000 + 10 * s.get R.ORIGIN_CHG_VCHG
/-- Charging begins: in PRE below 3.00 V, and after the protection opened the switch (R418, R419). -/
def State.chgStart (s : State) : State :=
  (s.put R.ORIGIN_STAT_CHGSTATE (if s.vcell < 3000 ∨ s.org.cellOpened = true then 1 else 2)).setOrg fun o =>
    { o with chgUp := s.time.up, cellOpened := false }
/-- The current in tenths of a mA that the charger delivers at most, by its state: ICHG / 10 in PRE, ICHG in CC and, with the cell held
at VCHG, in CV; none while it does not run (R418). -/
def State.chgCurrent (s : State) : Nat :=
  if s.chargeOk then
    match s.get R.ORIGIN_STAT_CHGSTATE with
    | 1 => s.get R.ORIGIN_CHG_ICHG
    | 2 => 10 * s.get R.ORIGIN_CHG_ICHG
    | 3 => 10 * s.get R.ORIGIN_CHG_ICHG
    | _ => 0
  else 0
/-- The voltage in mV at which the charger holds the cell. -/
def State.chgHold (s : State) : Option Nat := if s.get R.ORIGIN_STAT_CHGSTATE = 3 then some s.vchg else none
/-- The voltage in mV at or above which the charger keeps VHARV by lowering its current. -/
def State.chgFloor (s : State) : Nat := s.get R.ORIGIN_HARV_HV_OFF * 100 + 200
/-- The charger lowers its current, by the last sample of VHARV. -/
def State.chgLowers (s : State) : Bool := decide (s.get R.ORIGIN_VMEAS_VHARV < s.chgFloor)
/-- The charging current in tenths of a mA at a measurement: what flowed, at most what the charger delivers. How far it lowers its current
for VHARV shows in what flowed. -/
def State.chgFlow (s : State) (icell : Nat) : Nat := min (10 * icell) s.chgCurrent
/-- The charger's state after a measurement of the cell and of its current in mA. -/
def State.chgStep (s : State) (icell : Nat) : State :=
  if s.chargeOk then
    match s.get R.ORIGIN_STAT_CHGSTATE with
    | 0 => s.chgStart
    | 1 => if 3000 ≤ s.vcell then s.put R.ORIGIN_STAT_CHGSTATE 2 else s
    | 2 => if s.vchg ≤ s.vcell then s.put R.ORIGIN_STAT_CHGSTATE 3 else s
    | 3 => if s.chgFlow icell < s.get R.ORIGIN_CHG_ICHG then s.put R.ORIGIN_STAT_CHGSTATE 4 else s
    | 4 => if s.vcell < s.vchg - 100 then (s.put R.ORIGIN_STAT_CHGSTATE 2).setOrg fun o => { o with chgUp := s.time.up } else s
    | _ => s
  else if s.flag R.ORIGIN_STAT_HPRES && s.flag R.ORIGIN_CHG_EN then s
  else if s.get R.ORIGIN_STAT_CHGSTATE = 5 then s
  else s.put R.ORIGIN_STAT_CHGSTATE 0

/-- HARVEST_SAMPLE (R417): VHARV in mV, every 250 ms. -/
def execHarvestSample (vharv : Nat) (s : State) : Host.Outcome State Fault Refusal :=
  .next (s.whenKeep fun s =>
    let s := s.advUp (s.org.harvUp + msQ 250)
    let v := satN 16 vharv
    let s := s.put R.ORIGIN_VMEAS_VHARV v
    let on := decide (s.get R.ORIGIN_HARV_HV_ON * 100 ≤ v)
    let off := decide (v < s.get R.ORIGIN_HARV_HV_OFF * 100)
    s.setOrg fun o => { o with harvUp := s.time.up, onUp := if on then some (o.onUp.getD s.time.up) else none,
                               offUp := if off then some (o.offUp.getD s.time.up) else none })

/-- A change of HPRES. -/
def State.harvest (s : State) (dawn : Bool) : State :=
  let s := s.putB R.ORIGIN_STAT_HPRES dawn
  let s := if dawn then
      let s := s.put R.ORIGIN_STAT_CELLON 1
      if s.chargeOk then s.chgStart else s.put R.ORIGIN_STAT_CHGSTATE 0
    else if s.get R.ORIGIN_STAT_CHGSTATE = 5 then s else s.put R.ORIGIN_STAT_CHGSTATE 0
  (s.orgIrq 0).orgEvent 0x110 (dawn.toNat + s.get R.ORIGIN_VMEAS_VHARV * 2 + s.vcell * 2 ^ 17)

/-- HARVEST (R417): DAWN_T or DUSK_T has passed without a break. -/
def execHarvest (s : State) : Host.Outcome State Fault Refusal :=
  .next (s.whenKeep fun s =>
    if s.flag R.ORIGIN_STAT_HPRES then
      match s.org.offUp with
      | some u => (s.advUp (u + secQs (s.get R.ORIGIN_HARV_DUSK_T))).harvest false
      | none => s
    else
      match s.org.onUp with
      | some u => (s.advUp (u + secQs (s.get R.ORIGIN_HARV_DAWN_T))).harvest true
      | none => s)

/-- E of R430. -/
def State.energyE (s : State) : Nat := s.get R.ORIGIN_STORE_CAP * 100000 * (s.vcell - 3000) / 850
/-- PGOOD changes (R419). -/
def State.setPgood (s : State) (b : Bool) : State :=
  ((s.putB R.ORIGIN_STAT_PGOOD b).orgIrq 1).orgEvent (if b then 0x111 else 0x511) s.vcell
/-- The long-darkness load cut begins or ends (R421). -/
def State.setCut (s : State) (b : Bool) : State :=
  let s := s.putB R.ORIGIN_STAT_CUT b
  let s := if b && !s.rails then s.put R.ORIGIN_DARK_CUTSEEN 1 else s
  (s.orgIrq 2).orgEvent 0x512 (b.toNat + s.vcell * 2)

/-- CELL_MEASUREMENT (R419): the cell in mV and its charging current in mA, every 250 ms. -/
def execCellMeasurement (vcell icell : Nat) (s : State) : Host.Outcome State Fault Refusal :=
  .next (s.whenKeep fun s =>
    let s := s.advUp (s.org.cellUp + msQ 250)
    let v := satN 16 vcell
    let p := s.org.prevCell
    let s := s.put R.ORIGIN_VMEAS_VCELL v
    let s := s.put R.ORIGIN_ESTORE (satN 32 s.energyE)
    let s := s.setOrg fun o => { o with cellUp := s.time.up, prevCell := v }
    let above := fun (t : Nat) => decide (t ≤ v) && decide (t ≤ p)
    let below := fun (t : Nat) => decide (v < t) && decide (p < t)
    let s := if above 3850 && s.flag R.ORIGIN_STAT_HPRES && !s.flag R.ORIGIN_STAT_PGOOD then s.setPgood true
      else if below 3300 && s.flag R.ORIGIN_STAT_PGOOD then s.setPgood false else s
    let s := if above 3300 && s.flag R.ORIGIN_STAT_CUT then s.setCut false
      else if below 3200 && !s.flag R.ORIGIN_STAT_CUT then s.setCut true else s
    let s := if s.flag R.ORIGIN_STAT_HPRES then s.put R.ORIGIN_STAT_CELLON 1 else s
    s.chgStep icell)

/-- CELL_DISCONNECT (R419): the analog comparator opens the cell switch, and the charger stops. -/
def execCellDisconnect (s : State) : Host.Outcome State Fault Refusal :=
  .next (s.whenKeep fun s =>
    let s := (s.put R.ORIGIN_STAT_CELLON 0).setOrg fun o => { o with cellOpened := true }
    if s.get R.ORIGIN_STAT_CHGSTATE = 5 then s else s.put R.ORIGIN_STAT_CHGSTATE 0)

/-- CHG_FAULT (R418). -/
def execChgFault (s : State) : Host.Outcome State Fault Refusal :=
  .next (s.whenKeep fun s =>
    let st := s.get R.ORIGIN_STAT_CHGSTATE
    if 1 ≤ st ∧ st ≤ 3 then
      let s := s.advUp (s.org.chgUp + s.get R.ORIGIN_CHG_CHG_TO * hourQ)
      (((s.put R.ORIGIN_STAT_CHGSTATE 5).orgIrq 3).orgEvent 0x519 st).idle
    else s)

/-! ## The real-time clock (R422, R423) -/

/-- n KEEP clocks in units of 0.25 ns. -/
def keepQ (n : Nat) : Nat := n * 1953125 / 16
def State.rtcSec (s : State) : Nat := s.get R.ORIGIN_RTC_SEC + s.get R.ORIGIN_RTC_SECH_SECH * 2 ^ 32
/-- SUBK, from the elapsed time of the second in progress. -/
def State.rtcSubk (s : State) : Nat := min ((s.time.up - s.org.rtcUp) * 16 / 1953125) (s.org.secLen - 1)
/-- The clock is set to a count of seconds, with SUBK 0. -/
def State.rtcLoad (s : State) (sec : Nat) : State :=
  ((s.put R.ORIGIN_RTC_SEC sec).put R.ORIGIN_RTC_SECH_SECH (sec / 2 ^ 32)).setOrg fun o => { o with rtcUp := s.time.up, secLen := 32768 }

/-- RTC_SECOND (R422, R423). -/
def execRtcSecond (s : State) : Host.Outcome State Fault Refusal :=
  .next (s.whenKeep fun s =>
    let s := s.advUp (s.org.rtcUp + keepQ s.org.secLen)
    let s := s.rtcLoad ((s.rtcSec + 1) % 2 ^ 48)
    let ta := s.org.ta + s.getI R.ORIGIN_RTC_TRIM
    if 1024 ≤ ta then s.setOrg fun o => { o with ta := ta - 1024, secLen := 32769 }
    else if ta ≤ -1024 then s.setOrg fun o => { o with ta := ta + 1024, secLen := 32767 }
    else s.setOrg fun o => { o with ta := ta })

/-- RTC_REALIGN (R422): the next whole second of Gnomon time under TLOCK. -/
def execRtcRealign (s : State) : Host.Outcome State Fault Refusal :=
  .next (if s.org.vkeep && s.alive && s.time.run && s.tlock then
    let k := (s.time.now + (secQ - 1)) / secQ
    let s := s.advTo (k * secQ)
    let auto := s.flag R.ORIGIN_CTL_AUTOTRIM
    ((s.rtcLoad (k % 2 ^ 48)).put R.ORIGIN_STAT_RTCVALID 1).setOrg fun o =>
      { o with learnFrom := if auto then some (o.learnFrom.getD k) else none }
  else s)

/-- AUTOTRIM has been written (R423): the intervals of 1024 s begin at the next whole second under TLOCK, or end. -/
def State.learnSet (s : State) (on : Bool) : State :=
  s.setOrg fun o => { o with learnFrom :=
    if on && s.time.run && s.flag R.TIME_STAT_TLOCK then some ((s.time.now + (secQ - 1)) / secQ) else none }

/-- CTL.RTCSET loads the clock (R422). -/
def State.rtcSet (s : State) : State :=
  (s.rtcLoad (s.get R.ORIGIN_RTC_SETL + s.get R.ORIGIN_RTC_SETH_SECH * 2 ^ 32)).put R.ORIGIN_STAT_RTCVALID 1

/-- TRIM_LEARN (R423): `keep` KEEP clocks were counted in 1024 s under TLOCK. -/
def execTrimLearn (keep : Nat) (s : State) : Host.Outcome State Fault Refusal :=
  .next (if s.org.vkeep && s.alive && s.time.run && s.tlock && s.flag R.ORIGIN_CTL_AUTOTRIM then
    match s.org.learnFrom with
    | none => s
    | some k =>
      let s := s.advTo ((k + 1024) * secQ)
      let s := (s.putCfg R.ORIGIN_RTC_TRIM (twos 32 ((keep : Int) - 2 ^ 25))).put R.ORIGIN_STAT_TRIMVALID 1
      s.setOrg fun o => { o with learnFrom := some (s.time.now / secQ) }
  else s)

/-! ## The checkpoint memory (R424 to R427) -/

def noWord (_ : Nat) : Nat := 0
def State.ckWord (s : State) (a : Nat) : Nat := Tab.get noWord s.org.ckpt a
/-- A word written, which ends any bit error in it. -/
def State.setCk (s : State) (a v : Nat) : State :=
  (s.memMend 9 a).setOrg fun o => { o with ckpt := Tab.set noWord o.ckpt a v }

/-- One step of the CRC-32 of IEEE 802.3, reflected (R425). -/
def crc32Bit (c : Nat) : Nat → Nat
  | 0 => c
  | k + 1 => crc32Bit (if c % 2 = 1 then (c / 2) ^^^ 0xEDB88320 else c / 2) k
def crc32 (l : List Byte) : Nat := (l.foldl (fun c b => crc32Bit (c ^^^ b.toNat) 8) 0xFFFFFFFF) ^^^ 0xFFFFFFFF
/-- The words of a slot: its content, the header, and the CRC with the complement of SEQ. -/
def ckptWords (content : List Nat) (seq count : Nat) (final : Bool) : List Nat :=
  let l := content ++ [seq % 2 ^ 32 + count % 2 ^ 31 * 2 ^ 32 + final.toNat * 2 ^ 63]
  l ++ [crc32 ((l.map (leBytes 8)).flatten) + (2 ^ 32 - 1 - seq % 2 ^ 32) * 2 ^ 32]
def State.slotRead (s : State) (a n : Nat) : List Nat := (List.range n).map fun i => s.ckWord (a + i)
/-- No word of a slot holds a double-bit error, which makes its record invalid (R19). -/
def State.slotWhole (s : State) (a n : Nat) : Bool := (List.range n).all fun i => s.wrongBits 9 (a + i) != 2
/-- A slot of n words is valid. -/
def ckptValid (w : List Nat) : Bool :=
  let n := w.length
  let h := w.getD (n - 2) 0
  let t := w.getD (n - 1) 0
  t % 2 ^ 32 == crc32 (((w.take (n - 1)).map (leBytes 8)).flatten) && t / 2 ^ 32 == 2 ^ 32 - 1 - h % 2 ^ 32
def ckptSeq (w : List Nat) : Nat := w.getD (w.length - 2) 0 % 2 ^ 32
def ckptCount (w : List Nat) : Nat := w.getD (w.length - 2) 0 / 2 ^ 32 % 2 ^ 31
def ckptFinal (w : List Nat) : Bool := (w.getD (w.length - 2) 0).testBit 63

def ckAddr (rec slot : Nat) : Nat := 0x80 * rec + 0x40 * slot
def State.ckSlot (s : State) (rec slot : Nat) : List Nat := s.slotRead (ckAddr rec slot) 64

/-- The steps that write a checkpoint slot. -/
def State.ckSteps (s : State) (rec slot seq : Nat) (content : List Nat) (final : Bool) : List BurstStep :=
  let count := min (ckptCount (s.ckSlot rec slot) + 1) (2 ^ 31 - 1)
  let ws := ckptWords (content ++ [0, 0, 0]) seq count final
  ((List.range 64).map fun i => .word (ckAddr rec slot + i) (ws.getD i 0)) ++ [.ckDone rec slot seq count]

/-- A step of a burst or commit. -/
def State.burstStep (s : State) : BurstStep → State
  | .word a v => s.setCk a v
  | .ckDone rec slot seq count =>
    let s := ((s.put R.ORIGIN_CKP_STAT_ACTIVE rec).put R.ORIGIN_CKP_STAT_SLOT slot).put R.ORIGIN_CKP_SEQ seq
    let s := s.bumpSat R.ORIGIN_CKP_ACTN
    let s := s.put R.ORIGIN_WEAR (max (s.get R.ORIGIN_WEAR) (count / 16))
    if decide (2000000000 ≤ count) && !s.flag R.ORIGIN_STAT_WEARHI then
      ((s.put R.ORIGIN_STAT_WEARHI 1).orgIrq 5).orgEvent 0x516 (s.get R.ORIGIN_WEAR)
    else s
  | .pfailDone => s.setOrg fun o => { o with pfailB := !o.pfailB }
  | .lifeDone => s.setOrg fun o => { o with lifeB := !o.lifeB }
def State.runSteps (s : State) (l : List BurstStep) : State := l.foldl State.burstStep s

/-- The next record that is not retired. -/
def State.nextRec (s : State) (r : Nat) : Nat :=
  (((List.range 16).map fun i => (r + 1 + i) % 16).find? fun q => !s.org.retired.testBit q).getD r
/-- The retired records, and DEGRADED while fewer than eight are in service (R427). -/
def State.ckService (s : State) : State :=
  let m := s.org.retired
  let n : Nat := ((List.range 16).map fun q => (!m.testBit q).toNat).foldl (· + ·) 0
  (s.put R.ORIGIN_CKP_STAT_RETIRED m).putB R.ORIGIN_STAT_DEGRADED (decide (n < 8))
/-- A record is retired (R427). -/
def State.retireRec (s : State) (r : Nat) : State :=
  if s.org.retired.testBit r then s else
    let m := s.org.retired + 2 ^ r
    let s := (s.setOrg fun o => { o with retired := m }).ckService
    (s.orgIrq 4).orgEvent 0x515 r

/-- The slot that the next commit of the active record takes. -/
def State.nextSlot (s : State) : Nat := if s.get R.ORIGIN_CKP_SEQ = 0 then 0 else 1 - s.get R.ORIGIN_CKP_STAT_SLOT
/-- The headers of a slot's last word but one are read before it is written: an error there is logged, and in a checkpoint slot a
double-bit error retires the record (R19, R427). -/
def State.ckHeader (s : State) (rec slot : Nat) : State :=
  let a := ckAddr rec slot + 62
  let t := s.memRead 9 a
  if s.wrongBits 9 a = 2 then t.retireRec rec else t
/-- A commit into slot A of the next record, copied into slot B (R426). -/
def State.commitNext (s : State) (content : List Nat) (final : Bool) : State :=
  let r := s.nextRec (s.get R.ORIGIN_CKP_STAT_ACTIVE)
  let seq := s.get R.ORIGIN_CKP_SEQ + 1
  let s := s.runSteps (s.ckSteps r 0 seq content final)
  (s.runSteps (s.ckSteps r 1 seq content final)).put R.ORIGIN_CKP_ACTN 1

/-- A commit that advances; a verify read that fails in the first record retires it, and the next is taken (R427). -/
def State.commitOn (s : State) (content : List Nat) (verified : Bool) : State :=
  if verified then s.commitNext content false
  else
    let r := s.nextRec (s.get R.ORIGIN_CKP_STAT_ACTIVE)
    let s := s.runSteps ((s.ckSteps r 0 (s.get R.ORIGIN_CKP_SEQ + 1) content false).take 63)
    (s.retireRec r).commitNext content false
/-- A periodic commit of which n words have been written is broken off (R429): its slot is left as it stands, invalid, and is the one
that the final checkpoint takes. -/
def State.commitPart (s : State) (part : Option Nat) : State :=
  match part, s.org.stage with
  | some n, some c =>
    let r := s.get R.ORIGIN_CKP_STAT_ACTIVE
    if s.org.vkeep && s.alive && decide (s.get R.ORIGIN_CKP_ACTN < 65536) && !s.org.retired.testBit r then
      s.runSteps ((s.ckSteps r s.nextSlot (s.get R.ORIGIN_CKP_SEQ + 1) c false).take n)
    else s
  | _, _ => s

/-- CHECKPOINT_COMMIT (R426 to R428): the staged snapshot is committed; `verified` is the outcome of the verify reads. -/
def execCheckpointCommit (verified : Bool) (s : State) : Host.Outcome State Fault Refusal :=
  .next (if s.org.vkeep && s.alive && s.org.burst.isEmpty then
    match s.org.stage with
    | none => s
    | some c =>
      let s := s.setOrg fun o => { o with stage := none }
      let r := s.get R.ORIGIN_CKP_STAT_ACTIVE
      let s := if 65536 ≤ s.get R.ORIGIN_CKP_ACTN then s else s.ckHeader r s.nextSlot
      if 65536 ≤ s.get R.ORIGIN_CKP_ACTN ∨ s.org.retired.testBit r = true then s.commitOn c verified
      else
        let steps := s.ckSteps r s.nextSlot (s.get R.ORIGIN_CKP_SEQ + 1) c false
        if verified then s.runSteps steps
        else ((s.runSteps (steps.take 63)).retireRec r).commitNext c false
  else s)

/-! ## LIFE and PFAIL records (R424, R433) -/

def lifeAddr (b : Bool) : Nat := if b then 0x808 else 0x800
def pfailAddr (b : Bool) : Nat := if b then 0x814 else 0x810
/-- The newer valid slot of a two-slot record. -/
def State.newer (s : State) (a b n : Nat) : Option (List Nat) :=
  let x := s.slotRead a n
  let y := s.slotRead b n
  let vx := ckptValid x && s.slotWhole a n
  let vy := ckptValid y && s.slotWhole b n
  if vx then (if vy && decide (ckptSeq x < ckptSeq y) then some y else some x)
  else if vy then some y else none
def State.lifeSlot (s : State) : Option (List Nat) := s.newer 0x800 0x808 8
def State.pfailSlot (s : State) : Option (List Nat) := s.newer 0x810 0x814 4

/-- The steps that write the LIFE record: the counters and BASE; their places in its words are the model's. -/
def State.lifeSteps (s : State) : List BurstStep :=
  let a := lifeAddr s.org.lifeB
  let old := s.slotRead a 8
  let seq := (match s.lifeSlot with
    | some w => ckptSeq w
    | none => 0) + 1
  let ws := ckptWords [s.get R.ORIGIN_LIFE_ON + s.get R.ORIGIN_LIFE_DARK * 2 ^ 32,
    s.get R.ORIGIN_LIFE_CYC + s.get R.ORIGIN_LIFE_EVT * 2 ^ 32, s.get R.ORIGIN_AGE_BASE, 0, 0, 0] seq
    (min (ckptCount old + 1) (2 ^ 31 - 1)) false
  ((List.range 8).map fun i => .word (a + i) (ws.getD i 0)) ++ [.lifeDone]
/-- The steps that write the PFAIL record with an edge at stamp t (R429). -/
def State.pfailSteps (s : State) (t : Nat) : List BurstStep :=
  let a := pfailAddr s.org.pfailB
  let old := s.slotRead a 4
  let seq := (match s.pfailSlot with
    | some w => ckptSeq w
    | none => 0) + 1
  let q := s.get R.ORIGIN_CKP_SEQ
  let ws := ckptWords [t, q + (2 ^ 32 - 1 - q) * 2 ^ 32] seq (min (ckptCount old + 1) (2 ^ 31 - 1)) false
  ((List.range 4).map fun i => .word (a + i) (ws.getD i 0)) ++ [.pfailDone]
/-- The counters of the LIFE record, or zero without one. -/
def State.loadLife (s : State) : State :=
  let w := s.lifeSlot.getD []
  ((((s.put R.ORIGIN_LIFE_ON (w.getD 0 0)).put R.ORIGIN_LIFE_DARK (w.getD 0 0 / 2 ^ 32)).put R.ORIGIN_LIFE_CYC (w.getD 1 0)).put
    R.ORIGIN_LIFE_EVT (w.getD 1 0 / 2 ^ 32)).put R.ORIGIN_AGE_BASE (w.getD 2 0)

/-- LIFE_WRITE (R428, R433): every hour of service. -/
def execLifeWrite (s : State) : Host.Outcome State Fault Refusal :=
  .next (if s.org.vkeep && s.alive then
    let s := s.advUp (s.org.hourUp + hourQ)
    let s := s.setOrg fun o => { o with hourUp := s.time.up }
    let s := if s.flag R.ORIGIN_STAT_CUT then s else s.bumpSat R.ORIGIN_LIFE_ON
    ((s.memRead 9 (lifeAddr s.org.lifeB + 6)).runSteps s.lifeSteps).put R.ORIGIN_DARK 0
  else s)

/-! ## Bursts (R429 to R431) -/

/-- The energy gate passes a burst of a declared cost. -/
def State.gate (s : State) (cost : Nat) : Bool := decide (cost + s.get R.ORIGIN_STORE_RESERVE * 1000 ≤ s.energyE)
/-- The burst under way ends. -/
def State.settleBurst (s : State) : State :=
  ((s.runSteps s.org.burst).setOrg fun o => { o with burst := [] }).put R.ORIGIN_STAT_BURST 0
/-- The steps of a burst up to its first n words (R431). -/
def wordsOf : Nat → List BurstStep → List BurstStep
  | _, [] => []
  | n, .word a v :: l => if n = 0 then [] else .word a v :: wordsOf (n - 1) l
  | n, e :: l => e :: wordsOf n l
/-- A burst that writes more than the LIFE record is a final one. -/
def finalSteps (l : List BurstStep) : Bool :=
  l.any fun e => match e with
    | .word _ _ => false
    | .lifeDone => false
    | .ckDone _ _ _ _ => true
    | .pfailDone => true
def State.cutBurst (s : State) (n : Nat) : State :=
  if s.org.burst.isEmpty then s else
    let final := finalSteps s.org.burst
    let s := s.runSteps (wordsOf n s.org.burst)
    let s := (s.setOrg fun o => { o with burst := [] }).put R.ORIGIN_STAT_BURST 0
    if final then s.put R.ORIGIN_DARK_LOST 1 else s

/-- A final burst is refused: at a main-rail failure, by TFAIL or the energy gate (R430, R434). -/
def State.burstRefused (s : State) (pfail : Bool) : Bool := pfail && (s.org.tfail || !s.gate (s.get R.ORIGIN_BCOST_FINAL))
/-- The final burst starts (R429): the final checkpoint in the slot that was not committed last, then the LIFE record; a
main-rail failure at stamp t has its PFAIL slot first and is judged by the gate. -/
def State.finalBurst (s : State) (pfail : Option Nat) : State :=
  let s := match pfail with
    | some t => (s.put R.ORIGIN_PFAIL_LO t).put R.ORIGIN_PFAIL_HI (t / 2 ^ 32)
    | none => s
  if s.burstRefused pfail.isSome then
    (s.put R.ORIGIN_DARK_FREF 1).setOrg fun o => { o with tfail := false, stage := none }
  else
    let p := match pfail with
      | some t => s.pfailSteps t
      | none => []
    let c := match s.org.stage with
      | some c => s.ckSteps (s.get R.ORIGIN_CKP_STAT_ACTIVE) s.nextSlot (s.get R.ORIGIN_CKP_SEQ + 1) c ((c.getD 55 0).testBit 40)
      | none => []
    (s.setOrg fun o => { o with burst := p ++ c ++ s.lifeSteps, stage := none }).put R.ORIGIN_STAT_BURST 1

/-- BURST_ENERGY_LOST (R431): `words` words have been written, with that in progress. -/
def execBurstEnergyLost (words : Nat) (s : State) : Host.Outcome State Fault Refusal :=
  .next (s.whenKeep fun s => s.cutBurst words)

/-- HOUSEKEEPING_BURST (R433, R430): the hourly burst of DARK. -/
def execHousekeepingBurst (s : State) : Host.Outcome State Fault Refusal :=
  .next (if s.org.vkeep && !s.rails then
    let s := s.settleBurst
    let s := s.advUp (s.org.hourUp + hourQ)
    let s := s.setOrg fun o => { o with hourUp := s.time.up }
    if s.flag R.ORIGIN_STAT_CUT then s
    else
      let s := s.bumpSat R.ORIGIN_LIFE_DARK
      if s.gate (s.get R.ORIGIN_BCOST_HOUSE) then
        (s.setOrg fun o => { o with burst := s.lifeSteps }).put R.ORIGIN_STAT_BURST 1
      else s.put R.ORIGIN_DARK_HREF 1
  else s)

/-! ## Measurements (R433) -/

/-- TEMP_READ (R433): the Origin die temperature in °C. -/
def execTempRead (temp : Int) (s : State) : Host.Outcome State Fault Refusal :=
  .next (s.whenKeep fun s =>
    if s.flag R.ORIGIN_STAT_CUT then s else
      let t := satI 8 temp
      let s := s.putI R.ORIGIN_THERM_TEMP t
      let s := if t < s.getI R.ORIGIN_THERM_CYC_LO then s.setOrg fun o => { o with cold := true } else s
      if s.org.cold && decide (s.getI R.ORIGIN_THERM_CYC_HI < t) then
        (s.bumpSat R.ORIGIN_LIFE_CYC).setOrg fun o => { o with cold := false }
      else s)

/-- The Origin aging monitor's count (R433, R460); its first count becomes BASE. -/
def State.originAge (s : State) (count : Nat) : State :=
  if s.org.vkeep && !s.flag R.ORIGIN_STAT_CUT then
    let s := s.put R.ORIGIN_AGE_COUNT count
    if s.get R.ORIGIN_AGE_BASE = 0 then s.put R.ORIGIN_AGE_BASE count else s
  else s

/-! ## Origin power-on and restore (R416, R432) -/

/-- Every field of the ORIGIN page at its initial value. -/
def State.originInit (s : State) : State :=
  let b := pageBase .origin 0
  let s := { s with regs := s.regs.filter fun q => decide (q.1 < b) || decide (b + 0x1000 ≤ q.1),
                    parFlip := s.parFlip.filter fun a => decide (a < b) || decide (b + 0x1000 ≤ a) }
  let s := (s.ckService).loadLife
  let old := s.org
  let o : OrgSt := { ckpt := old.ckpt, retired := old.retired, harvUp := s.time.up, cellUp := s.time.up, rtcUp := s.time.up,
                     hourUp := s.time.up, darkUp := s.time.up, pfailB := old.pfailB, lifeB := old.lifeB, por := true,
                     scrubUp := s.time.up }
  ({ s with org := o }.bumpSat R.ORIGIN_LIFE_EVT_POR).put R.ORIGIN_DARK_POR 1

/-- ORIGIN_POWER_ON (R416). -/
def execOriginPowerOn (s : State) : Host.Outcome State Fault Refusal :=
  .next (if s.org.vkeep then s else s.originInit)

/-- VKEEP_LOSS (R416): with the main rails down every source of VKEEP is lost; `words` as in BURST_ENERGY_LOST. -/
def execVkeepLoss (words : Nat) (s : State) : Host.Outcome State Fault Refusal :=
  .next (if s.org.vkeep && !s.rails then (s.cutBurst words).setOrg fun o => { o with vkeep := false } else s)

/-- The newest valid checkpoint slot: record, slot and words; of two copies with one SEQ the later, so that commits go on in slot A
(R426). -/
def State.newestCk (s : State) : Option (Nat × Nat × List Nat) :=
  ((List.range 32).map fun i => (i / 2, i % 2, s.ckSlot (i / 2) (i % 2))).foldl (fun best q =>
    if ckptValid q.2.2 && s.slotWhole (ckAddr q.1 q.2.1) 64 then
      match best with
      | none => some q
      | some b => if ckptSeq b.2.2 ≤ ckptSeq q.2.2 then some q else best
    else best) none

/-- Every word of the checkpoint memory that the restore reads: errors are corrected or found, and logged (R19). -/
def State.ckptScan (s : State) : State :=
  ((s.sys.upsets.filter fun q => q.1 == 9).map (·.2.1)).foldl (fun s w => s.memRead 9 w) s
/-- Records in a slot of which a read finds a double-bit error are retired (R427). -/
def State.ckptRetire (s : State) : State :=
  s.forEach State.retireRec ((List.range 16).filter fun r => !s.slotWhole (ckAddr r 0) 128)
/-- What Origin presents at the release of main reset (R432, R436), and the restore of Annulus; the events wait for the
first tick start. -/
def State.originRestore (s : State) : State :=
  let s := s.ckptScan.ckptRetire
  let ck := s.newestCk
  let pf := s.pfailSlot
  let seq := match ck with
    | some q => ckptSeq q.2.2
    | none => 0
  let final := match ck with
    | some q => ckptFinal q.2.2
    | none => false
  let vfail := match ck, pf with
    | some _, some p => if !final && p.getD 1 0 % 2 ^ 32 == seq then some (p.getD 0 0) else none
    | _, _ => none
  let s := s.putB R.ORIGIN_STAT_CKVALID ck.isSome
  let s := match ck with
    | some q => ((s.put R.ORIGIN_CKP_STAT_ACTIVE q.1).put R.ORIGIN_CKP_STAT_SLOT q.2.1).put R.ORIGIN_CKP_SEQ seq
    | none => s
  let bad := ck.isSome && !final
  let s := if bad then s.irq .origin 0 6 else s
  let ev := [(18, 63, 0x117, seq + final.toNat * 2 ^ 32 + vfail.isSome.toNat * 2 ^ 33 + s.get R.ORIGIN_STAT_RTCVALID * 2 ^ 34)] ++
    (if bad then [(18, 63, 0x914, s.get R.ORIGIN_DARK_FREF + s.get R.ORIGIN_DARK_LOST * 2 + s.org.por.toNat * 4 + seq * 8)] else []) ++
    (if s.org.por then [(18, 63, 0x518, s.get R.ORIGIN_LIFE_EVT_POR)] else []) ++
    [(18, 63, 0x11A, (s.reg R.ORIGIN_DARK.addr).toNat % 2 ^ 29)]
  let s := ev.foldl (fun s e => s.emit e.1 e.2.1 e.2.2.1 e.2.2.2) s
  (s.setOrg fun o => { o with por := false }).meterRestore (ck.map (·.2.2)) vfail

end Sys2Proof.Machine
end

