-- ==== Sys2Proof/Machine/Secant.lean ====
section
/-! DEFINITION. The safety channels Secant and Chord (R382 to R415): inputs, functions, safe state, drive stops,
release, outputs and safe frames. -/

namespace Sys2Proof.Machine

open Sys2Proof

def State.setSafe (s : State) (f : SafeSt → SafeSt) : State := { s with safe := f s.safe }
def State.psafe (s : State) : Bool := s.flag R.SAFE_STAT_PSAFE
/-- Events of the cluster carry instance 63; Chord is source 0 and Secant source 1 (R415). -/
def srcChord : Nat := 0
def srcSecant : Nat := 1

/-! ## Permits, outputs and the grant (R395 to R398) -/

def State.runModes (s : State) : Bool := decide (mSTANDBY ≤ s.majorMode) && decide (s.majorMode ≤ mISLAND)
/-- GEN_N is permitted by both channels (R395). -/
def State.genPermit (s : State) : Bool := s.alive && !s.psafe && !s.flag R.TRIP_STAT_GEN_REQ && s.runModes
/-- SOUTx is permitted (R398); with an internal fault latched no output is (R392). -/
def State.outPermit (s : State) (x : Nat) : Bool :=
  if x < 3 then s.alive && !s.psafe && s.runModes
  else
    s.alive && s.majorMode != mWAKE && s.get R.SAFE_FAULT_FAULT == 0 && [false, true].all fun ch =>
      let b := s.sparOf ch R.SAFE_OUT_CFG_BRAKE_DRV
      b == 3 || !s.flag (R.SDRV_STAT_DSTOP b)
def State.outOn (s : State) (x : Nat) : Bool := (s.get R.SAFE_OUT_STAT_ON).testBit x
def State.onfail (s : State) (x : Nat) : Bool := (s.get R.SAFE_OUT_STAT_ONFAIL).testBit x
def State.welded (s : State) (x : Nat) : Bool := (s.get R.SAFE_OUT_STAT_WELD).testBit x
def State.outWanted (s : State) (x : Nat) : Bool :=
  (s.get R.SAFE_OUT_REQ_REQ).testBit x && s.outPermit x && !s.onfail x
/-- A number whose bit x is f x, for x below n. -/
def maskOf (n : Nat) (f : Nat → Bool) : Nat := ((List.range n).map fun x => (f x).toNat * 2 ^ x).foldl (· + ·) 0
def noUp (_ : Nat) : Nat := 0
def State.outUp (s : State) (x : Nat) : Nat := Tab.get noUp s.safe.outUp x
/-- A half-period of the waveform of 5 kHz (R397). -/
def halfQ : Nat := usQ 100
/-- The half-period boundary at which a withdrawal of output x takes effect: the first at or after it. -/
def State.outStops (s : State) (x : Nat) : Nat :=
  let a := Tab.get noUp s.safe.outFrom x
  a + (s.outUp x - a + (halfQ - 1)) / halfQ * halfQ
/-- SOUTx toggles at elapsed time t: while it is on, and after a withdrawal to the end of the half-period. -/
def State.outToggles (s : State) (x t : Nat) : Bool := s.outOn x || (decide (Tab.get noUp s.safe.outFrom x < s.outUp x) && decide (t < s.outStops x))
/-- The level of SOUTx at elapsed time t: high in the first half of every period while it toggles, else low. -/
def State.outLevel (s : State) (x t : Nat) : Bool := s.outToggles x t && (t - Tab.get noUp s.safe.outFrom x) / halfQ % 2 == 0
/-- The pad of AUXGm: what Polygon drives, but low while the drive it belongs to is stopped (R391). -/
def State.auxPad (s : State) (m : Nat) : Bool := (s.aux m).gate && !(decide (m < 18) && s.flag (R.SDRV_STAT_DSTOP (m / 6)))
/-- The feedback of output x is checked (R398). -/
def State.fbChecked (s : State) (x : Nat) : Bool := decide (x < 2) || (s.spar R.SAFE_OUT_CFG_FBEN).testBit (x - 2)
/-- The grant's conditions (R396). -/
def State.grantNow (s : State) : Bool :=
  !s.psafe && [0, 1].all fun x => s.outOn x && !s.sfb x && !s.onfail x && !s.welded x
/-- Faults that only main reset clears (R392): MEM, PROG and STARTUP. -/
def permFaults : Nat := 0x160
/-- Faults of channel A alone: SECANT_WD, MEM and PROG. -/
def secantOnly : Nat := 0x062

/-- Outputs, GEN_N, the grant and SAFE_STAT follow their conditions. -/
def State.safeSync (s : State) : State :=
  let old := s.get R.SAFE_OUT_STAT_ON
  let on := maskOf 4 s.outWanted
  let s := s.forEach (fun s x =>
    if old.testBit x != on.testBit x then s.setSafe fun e =>
        { e with outUp := Tab.set noUp e.outUp x s.time.up,
                 outFrom := if on.testBit x then Tab.set noUp e.outFrom x s.time.up else e.outFrom }
    else s) [0, 1, 2, 3]
  let s := (s.put R.SAFE_OUT_STAT_ON on).putB R.SAFE_STAT_GEN s.genPermit
  let g := s.grantNow
  let s := if s.flag R.SAFE_STAT_GRANT == g then s else (s.putB R.SAFE_STAT_GRANT g).irq .safe 0 1
  let f := s.get R.SAFE_FAULT_FAULT
  let ok := s.flag R.SAFE_STAT_STARTOK
  let s := (s.putB R.SAFE_STAT_PERM (f &&& permFaults != 0)).putB R.SAFE_STAT_SECANT_OK (ok && f == 0)
  (s.putB R.SAFE_STAT_CHORD_OK (ok && f &&& (511 - secantOnly) == 0)).put R.SAFE_STAT_DSTOP
    (maskOf 3 fun d => s.flag (R.SDRV_STAT_DSTOP d))

/-! ## Safe state and drive stop (R390 to R392) -/

/-- PSAFE latches with its causes, and HALT is due with cause 8 (R390). -/
def State.plantSafe (s : State) (src bits : Nat) : State :=
  let s := if s.psafe then s else (s.put R.SAFE_STAT_PSAFE 1).irq .safe 0 0
  let s := s.put R.SAFE_CAUSE_CAUSE (s.get R.SAFE_CAUSE_CAUSE ||| bits)
  ((s.emit src 63 0xD00 bits).haltDue 8).safeSync
/-- A drive stop latches with its causes (R391). -/
def State.driveStop (s : State) (d src causes : Nat) : State :=
  let s := (s.put (R.SDRV_STAT_DSTOP d) 1).put (R.SDRV_STAT_CAUSE d) (s.get (R.SDRV_STAT_CAUSE d) ||| causes)
  (s.emit src 63 0xD01 (d + s.get (R.SDRV_STAT_CAUSE d) * 4)).safeSync
/-- Channel A asks each stopped drive to stop, once (R391). -/
def State.askStops (s : State) : State :=
  s.forEach (fun s d =>
    if s.flag (R.SDRV_STAT_DSTOP d) && !s.safe.stopA.testBit d then
      (s.drvFault d 7).setSafe fun e => { e with stopA := e.stopA ||| 2 ^ d }
    else s) [0, 1, 2]
/-- Sources that log an internal fault (R392). -/
def faultSources (bit : Nat) : List Nat :=
  if bit = 1 ∨ bit = 2 then [srcChord] else if bit = 5 ∨ bit = 6 then [srcSecant] else [srcChord, srcSecant]
/-- An internal fault latches PSAFE and every drive stop (R392). -/
def State.safeFault (s : State) (bit : Nat) : State :=
  if (s.get R.SAFE_FAULT_FAULT).testBit bit then s
  else
    let s := (s.put R.SAFE_FAULT_FAULT (s.get R.SAFE_FAULT_FAULT ||| 2 ^ bit)).irq .safe 0 2
    let s := if bit = 3 then s.irq .safe 0 3 else s
    (s.forEach (fun s src =>
      let s := (s.emit src 63 0xD02 (2 ^ bit)).plantSafe src (2 ^ 12)
      s.forEach (fun s d => s.driveStop d src (2 ^ 5)) [0, 1, 2]) (faultSources bit)).safeSync

/-! ## Inputs (R385, R386) -/

/-- The filtered level of input A or B of pair x in a channel: Secant's is in the register (R382, R412). -/
def State.sinLevel (s : State) (chord : Bool) (x : Nat) (b : Bool) : Bool :=
  if chord then s.safe.levB.testBit (2 * x + b.toNat) else s.flag (if b then R.SIN_STAT_B x else R.SIN_STAT_A x)
/-- Inputs A and B of pair x in demand in a channel. -/
def State.inDemandOf (s : State) (chord : Bool) (x : Nat) : Bool × Bool :=
  (!s.sinLevel chord x false, s.sinLevel chord x true == s.sparIs chord (R.SIN_CFG_ANTI x))
/-- Pair x is in demand in a channel. -/
def State.pairDemand (s : State) (chord : Bool) (x : Nat) : Bool :=
  (s.inDemandOf chord x).1 || (s.inDemandOf chord x).2 || s.flag (R.SIN_STAT_DISCF x)
/-- Index of a pair among what both channels remember of it. -/
def pairIx (chord : Bool) (x : Nat) : Nat := x + 8 * chord.toNat
def noStart (_ : Nat) : Option Nat := none
/-- A channel follows pair x: the start of a discrepancy, and an agreement in demand while DISCF stands. -/
def State.pairTrack (s : State) (x : Nat) (chord : Bool) : State :=
  let q := s.inDemandOf chord x
  let k := pairIx chord x
  let latched := s.flag (R.SIN_STAT_DISCF x)
  let old := Tab.get noStart s.safe.discUp k
  s.setSafe fun e =>
    { e with discUp := Tab.set noStart e.discUp k (if q.1 != q.2 && !latched then some (old.getD s.time.up) else none),
             both := if latched && q.1 && q.2 then e.both ||| 2 ^ k else e.both }
/-- Pair x has been in demand on both inputs since DISCF latched, and now is on neither. -/
def State.pairFreed (s : State) (chord : Bool) (x : Nat) : Bool :=
  s.safe.both.testBit (pairIx chord x) && !(s.inDemandOf chord x).1 && !(s.inDemandOf chord x).2
/-- Pair x after a change of a level or of its set-up: DISCF clears once both channels have freed it (R386). -/
def State.pairJudge (s : State) (x : Nat) : State :=
  let s := (s.pairTrack x false).pairTrack x true
  let s := if s.flag (R.SIN_STAT_DISCF x) && s.pairFreed false x && s.pairFreed true x then
      (s.put (R.SIN_STAT_DISCF x) 0).setSafe fun e => { e with both := e.both &&& (65535 - 2 ^ x - 2 ^ (8 + x)) }
    else s
  s.putB (R.SIN_STAT_DEMAND x) (s.pairDemand false x || s.pairDemand true x)
def State.pairsJudge (s : State) : State := s.forEach State.pairJudge (List.range 8)

/-- A filtered level of Chord's receivers. -/
def State.setLevB (s : State) (x : Nat) (b level : Bool) : State :=
  let k := 2 * x + b.toNat
  s.setSafe fun e => { e with levB := (e.levB &&& (65535 - 2 ^ k)) + level.toNat * 2 ^ k }
/-- SIN_LEVEL_CHANGE (R385): a filtered level changes, of Secant's receiver (bit 0 of `rx`) or of Chord's (bit 1). -/
def execSinLevelChange (pair : Fin 8) (b : Bool) (level : Bool) (rx : BitVec 2) (s : State) : Host.Outcome State Fault Refusal :=
  .next (s.whenAlive fun s =>
    let s := if rx.getLsbD 0 then s.putB (if b then R.SIN_STAT_B pair else R.SIN_STAT_A pair) level else s
    (if rx.getLsbD 1 then s.setLevB pair b level else s).pairJudge pair)

/-- The instant at which a channel's discrepancy of pair x has lasted DISC. -/
def State.discDue (s : State) (x : Nat) (chord : Bool) : Option Nat :=
  (Tab.get noStart s.safe.discUp (pairIx chord x)).map fun u => u + msQ (s.sparOf chord (R.SIN_CFG_DISC x))
/-- DISCF latches; the channel that has found it logs it. -/
def State.discLatch (s : State) (x : Nat) (found : List Nat) : State :=
  let s := (s.put (R.SIN_STAT_DISCF x) 1).put (R.SIN_STAT_DEMAND x) 1
  let s := s.setSafe fun e =>
    { e with discUp := Tab.set noStart (Tab.set noStart e.discUp x none) (8 + x) none, both := e.both &&& (65535 - 2 ^ x - 2 ^ (8 + x)) }
  s.forEach (fun s src => s.emit src 63 0x903 (x + 8 * (s.inDemandOf (src == srcChord) x).1.toNat)) found

/-- The earlier of two instants. -/
def earliest (a b : Option Nat) : Option Nat :=
  match a, b with
  | some x, some y => some (min x y)
  | some x, none => some x
  | none, b => b
/-- DISCREPANCY (R386): the discrepancy has lasted DISC, in one channel or in both. -/
def execDiscrepancy (pair : Fin 8) (s : State) : Host.Outcome State Fault Refusal :=
  .next (s.whenAlive fun s =>
    let x := pair.val
    match earliest (s.discDue x true) (s.discDue x false) with
    | some t =>
      let s := s.advUp t
      (s.discLatch x ([srcChord, srcSecant].filter fun src => (s.discDue x (src == srcChord)).any fun v => decide (v ≤ s.time.up))).idle
    | none => s)

/-! ## Functions (R387, R388) -/

def State.pairOn (s : State) (chord : Bool) (x : Nat) (f : Nat → Fld) : Bool := s.sparIs chord (f x) && s.pairDemand chord x
/-- A weld whose condition holds (R398). -/
def State.weldHolds (s : State) (x : Nat) : Bool := s.welded x && !s.outOn x && !s.sfb x
/-- GD demands that a channel finds as the other does: pairs with PLANT, and welds. -/
def State.gdBoth (s : State) (chord : Bool) : Nat :=
  maskOf 8 (fun x => s.pairOn chord x R.SIN_CFG_PLANT) + ([0, 1, 2].any s.weldHolds).toNat * 2 ^ 11
/-- Causes of a drive stop that a channel finds as the other does: a pair with DRV, and a weld of the stow brake's output. -/
def State.stopBoth (s : State) (chord : Bool) (d : Nat) : Nat :=
  ((List.range 8).any fun x => s.pairOn chord x R.SIN_CFG_DRV).toNat * 8 +
    (s.sparOf chord R.SAFE_OUT_CFG_BRAKE_DRV == d && s.weldHolds 3).toNat * 32
/-- Forbidden motion beyond SDIR_TOL. -/
def State.sdirOver (s : State) (chord : Bool) (d fwd rev : Nat) : Bool :=
  let t := s.sparOf chord (R.SDRV_TOL_SDIR_TOL d)
  (s.forbidsIn chord d true && decide (t < fwd)) || (s.forbidsIn chord d false && decide (t < rev))
/-- A parameter of 32 bits as a two's-complement number. -/
def State.sparI (s : State) (chord : Bool) (f : Fld) : Int := (BitVec.ofNat 32 (s.sparOf chord f)).toInt
/-- A position outside PMIN to PMAX, judged once the drive is aligned. -/
def State.outside (s : State) (chord : Bool) (d : Nat) (x : Int) : Bool :=
  s.sparIs chord (R.SDRV_CFG_SLP_EN d) && s.flag (R.SDRV_STAT_ALIGNED d) &&
    (decide (x < s.sparI chord (R.SDRV_PMIN d)) || decide (s.sparI chord (R.SDRV_PMAX d) < x))

/-- Chord's causes of a stop of drive d. -/
def State.stopB (s : State) (d : Nat) : Nat :=
  let c := s.chordSt d
  (s.sparIs true (R.SDRV_CFG_SLS_EN d) && c.fast).toNat + (s.outside true d c.xb).toNat * 2 +
    (s.sdirOver true d c.fwdB c.revB).toNat * 4 + (s.stopBoth true d ||| c.hallFault.toNat * 32)
/-- Chord's demand vector. -/
def State.vectorB (s : State) : Nat :=
  s.gdBoth true + (s.sparIs true R.SAFE_DCOV_EN && s.flag (R.TW_STAT_TRIPCOND (s.sparOf true R.SAFE_DCOV_CMP))).toNat * 2 ^ 8 +
    s.stopB 0 * 2 ^ 16 + s.stopB 1 * 2 ^ 24 + s.stopB 2 * 2 ^ 32

/-- A connection's command bit is in force (R405). -/
def State.frameBit (s : State) (b : Nat) : Bool :=
  [0, 1].any fun c => s.sparB (R.SCONN_CFG_CMDEN c) && s.sparB (R.SCONN_CFG_EN c) && (s.connSt c).cmd.testBit b
def State.connFailed (s : State) (c : Nat) : Bool := s.get (R.SCONN_STAT_STATE c) == 3
/-- Secant's causes of a stop of drive d. -/
def State.stopA (s : State) (d : Nat) : Nat :=
  let c := s.chordSt d
  let fast := s.sparB (R.SDRV_CFG_SLS_EN d) && decide (s.slsLimit false d * 256 < (s.arcSpeed d).natAbs)
  fast.toNat + (s.outside false d (s.arcX d)).toNat * 2 + (s.sdirOver false d c.fwdA c.revA).toNat * 4 +
    (s.frameBit 1).toNat * 16 + (s.stopBoth false d ||| (decide (3 ≤ c.apart)).toNat * 32)
/-- Secant's demand vector. -/
def State.vectorA (s : State) : Nat :=
  s.gdBoth false + (decide (2 ≤ s.safe.dcov)).toNat * 2 ^ 8 + (s.frameBit 0).toNat * 2 ^ 9 +
    ([0, 1].any fun c => s.sparB (R.SCONN_CFG_REACT c) && s.connFailed c).toNat * 2 ^ 10 + s.ce.supGd.toNat * 2 ^ 13 +
    s.stopA 0 * 2 ^ 16 + s.stopA 1 * 2 ^ 24 + s.stopA 2 * 2 ^ 32

/-- The bits of a vector that were not in another. -/
def newBits (v old : Nat) : Nat := v - (v &&& old)
/-- Demands that a channel finds now and has not found before latch (R390, R391). -/
def State.react (s : State) (src v old : Nat) : State :=
  let n := newBits v old
  let gd := n % 2 ^ 16
  let s := if gd = 0 then s else s.plantSafe src gd
  s.forEach (fun s d =>
    let c := n / 2 ^ (16 + 8 * d) % 64
    if c = 0 then s else s.driveStop d src c) [0, 1, 2]
/-- The functions that both channels judge: pairs, DCOV, weld, SLS, SLP, SDIR and pair stops. -/
def commonMask : Nat := 0x9FF + 0x2F * 2 ^ 16 + 0x2F * 2 ^ 24 + 0x2F * 2 ^ 32
def State.disagree (s : State) : Bool := (s.safe.demA &&& commonMask) != (s.safe.demB &&& commonMask)
/-- The start of a difference between the vectors or the parameter copies of the channels (R392). -/
def State.crossTrack (s : State) : State :=
  s.setSafe fun e => { e with crossUp := if s.disagree || s.safe.par != s.safe.parB then some (e.crossUp.getD s.time.up) else none }

/-- Counts of motion in a direction that is not forbidden end. -/
def State.sdirClear (s : State) (d : Nat) : State :=
  let p := fun ch => s.forbidsIn ch d true
  let n := fun ch => s.forbidsIn ch d false
  s.setChord d fun c =>
    { c with fwdA := if p false then c.fwdA else 0, fwdB := if p true then c.fwdB else 0,
             revA := if n false then c.revA else 0, revB := if n true then c.revB else 0 }

/-- CHORD_EVALUATION (R384, R387): one SAFE clock of channel B, with the levels of SFB0 to SFB3. -/
def execChordEvaluation (sfb : BitVec 4) (s : State) : Host.Outcome State Fault Refusal :=
  .next (s.whenAlive fun s =>
    let s := s.put R.SAFE_OUT_STAT_SFB sfb.toNat
    let s := s.forEach (fun s d => (s.chordWindow d).sdirClear d) [0, 1, 2]
    let v := s.vectorB
    let s := s.react srcChord v s.safe.demB
    let s := s.setSafe fun e => { e with demB := v }
    let s := s.forEach (fun s d => s.setChord d fun c => { c with hallFault := c.hallFault && c.sector == 7 }) [0, 1, 2]
    s.safeSync.crossTrack)

/-! ## Safe frames (R401 to R406) -/

/-- CRC-32C (R403). -/
def crc32cBit (c : Nat) : Nat → Nat
  | 0 => c
  | k + 1 => crc32cBit (if c % 2 = 1 then (c / 2) ^^^ 0x82F63B78 else c / 2) k
def crc32c (l : List Byte) : Nat := (l.foldl (fun c b => crc32cBit (c ^^^ b.toNat) 8) 0xFFFFFFFF) ^^^ 0xFFFFFFFF

def State.setConn (s : State) (c : Nat) (f : ConnSt → ConnSt) : State :=
  s.setSafe fun e => { e with conns := Tab.set connDefault e.conns c (f (s.connSt c)) }
/-- The connection enters WAIT: its next frame has SEQ 1 and FLAGS[0]. -/
def State.connWait (s : State) (c : Nat) : State :=
  ((s.put (R.SCONN_STAT_STATE c) 1).put (R.SCONN_TXSEQ c) 0).setConn c fun k =>
    { k with first := true, wdUp := none, txUp := s.time.up }
/-- The connection becomes FAILED, by its watchdog or by its rate of SCV failures. -/
def State.connFail (s : State) (c : Nat) (wd : Bool) : State :=
  ((s.put (R.SCONN_STAT_STATE c) 3).setConn c fun k => { k with wdUp := none }).emit srcSecant 63 0x905
    (c + wd.toNat * 2 + (!wd).toNat * 4)
/-- SCV failures of the last 60 s. -/
def State.connBad (s : State) (c : Nat) : List Nat :=
  (s.connSt c).bad.filter fun u => decide (s.time.up < u + 60 * secQ)
def State.connShow (s : State) (c : Nat) : State :=
  let l := s.connBad c
  (s.setConn c fun k => { k with bad := l }).put (R.SCONN_STAT_CRCERR c) (satN 8 l.length)
/-- EN as it takes effect: 1 enters WAIT from OFF, 0 enters OFF. -/
def State.connEnable (s : State) (c : Nat) : State :=
  let on := s.sparB (R.SCONN_CFG_EN c)
  let st := s.get (R.SCONN_STAT_STATE c)
  if on && st == 0 then s.connWait c
  else if !on && st != 0 then (s.put (R.SCONN_STAT_STATE c) 0).setConn c fun _ => {}
  else s

/-- A frame is discarded for its identity, its SCV or its SEQ. -/
def State.frameDrop (s : State) (c : Nat) (id scv sq : Bool) : State :=
  let s := s.bumpSat (R.SCONN_STAT_DISCARDS c)
  let s := if (s.connSt c).logged then s
    else (s.emit srcSecant 63 0x506 (c + id.toNat * 2 + scv.toNat * 4 + sq.toNat * 8)).setConn c fun k => { k with logged := true }
  if scv then
    let s := (s.setConn c fun k => { k with bad := s.time.up :: k.bad }).connShow c
    if 3 < (s.connBad c).length ∧ s.get (R.SCONN_STAT_STATE c) ≠ 3 then s.connFail c false else s
  else s
/-- A frame is accepted. -/
def State.frameTake (s : State) (c : Nat) (f : Nat) : State :=
  let wdt := f / 2 ^ 64 % 2 ^ 16
  let m := s.spar (R.SCONN_CFG_WD_MAX c)
  let s := (s.put (R.SCONN_SEQ c) (f / 2 ^ 32 % 2 ^ 32)).put (R.SCONN_STAT_STATE c) 2
  s.setConn c fun k =>
    { k with cmd := f / 2 ^ 96 % 16, logged := false, wdUp := some (s.time.up + msQ (if wdt = 0 then m else min wdt m)) }
/-- A received entry is judged (R404). -/
def State.frameJudge (s : State) (c : Nat) (f : Nat) : State :=
  let idBad := f % 2 ^ 32 != s.spar (R.SCONN_PEER c)
  let scvBad := f / 2 ^ 608 % 2 ^ 32 != crc32c (leBytes 76 f)
  let st := s.get (R.SCONN_STAT_STATE c)
  let d := (f / 2 ^ 32 + 2 ^ 32 - s.get (R.SCONN_SEQ c)) % 2 ^ 32
  if idBad || scvBad then s.frameDrop c idBad scvBad false
  else if (st == 1 && (f / 2 ^ 88).testBit 0) || (st == 2 && decide (1 ≤ d) && decide (d ≤ s.spar (R.SCONN_CFG_SEQWIN c))) then
    s.frameTake c f
  else s.frameDrop c false false true
/-- Up to n entries of the receive ring are read. -/
def State.framesRead (s : State) (c : Nat) : Nat → State
  | 0 => s
  | n + 1 =>
    match s.ringHead (41 + 2 * c) with
    | some f => ((s.frameJudge c f).ringPop (41 + 2 * c)).framesRead c n
    | none => s
def State.connCycle (s : State) (c : Nat) : State :=
  let s := s.connEnable c
  (if s.get (R.SCONN_STAT_STATE c) = 0 then s else s.framesRead c 4).connShow c

/-- The bytes of a frame that is sent (R402). -/
def State.frameBody (s : State) (c seq : Nat) : List Byte :=
  leBytes 4 (s.spar (R.SCONN_ID c)) ++ leBytes 4 seq ++ leBytes 2 (s.spar (R.SCONN_CFG_WD_MAX c)) ++
  leBytes 1 1 ++ leBytes 1 (s.connSt c).first.toNat ++
  leBytes 1 (s.psafe.toNat + (s.get R.SAFE_STAT_GRANT) * 2 + (s.get R.SAFE_STAT_GEN) * 4) ++
  leBytes 1 (s.get R.SAFE_OUT_STAT_ON + s.get R.SAFE_OUT_STAT_SFB * 16) ++
  leBytes 1 (maskOf 8 fun x => s.flag (R.SIN_STAT_DEMAND x)) ++ leBytes 1 (s.get R.SAFE_STAT_DSTOP) ++
  leBytes 2 (s.get R.SAFE_FAULT_FAULT) ++ leBytes 4 (s.get R.SAFE_PARCRC) ++ leBytes 54 0
/-- SAFE_FRAME_TX (R406): TXPER has passed; a frame that finds its ring full is dropped. -/
def execSafeFrameTx (conn : Fin 2) (s : State) : Host.Outcome State Fault Refusal :=
  .next (s.whenAlive fun s =>
    let c := conn.val
    let st := s.get (R.SCONN_STAT_STATE c)
    if st = 1 ∨ st = 2 then
      let s := s.advUp ((s.connSt c).txUp + msQ (s.spar (R.SCONN_CFG_TXPER c)))
      let seq := (s.get (R.SCONN_TXSEQ c) + 1) % 2 ^ 32
      let body := s.frameBody c seq
      let entry := leNat (body ++ leBytes 4 (crc32c body) ++ leBytes 8 (stampOf s.time.now))
      (((s.put (R.SCONN_TXSEQ c) seq).setConn c fun k => { k with first := false, txUp := s.time.up })).ringPush (40 + 2 * c) entry
    else s)

/-- CONN_FAIL (R404): the watchdog expires. -/
def execConnFail (conn : Fin 2) (s : State) : Host.Outcome State Fault Refusal :=
  .next (s.whenAlive fun s =>
    match (s.connSt conn).wdUp with
    | some u => if s.get (R.SCONN_STAT_STATE conn) = 2 then ((s.advUp u).connFail conn true).idle else s
    | none => s)

/-- A write of 1 to RESTART (R404). -/
def State.connRestart (s : State) (c : Nat) : State :=
  if s.get (R.SCONN_STAT_STATE c) = 0 then s else s.connWait c

/-! ## The Secant cycle (R384) -/

/-- Pages of the SAFE region, R411. -/
def safePages : List PageKind := [.safe, .sin, .sfn, .sconn]
/-- The configuration bits of a register, zeros elsewhere, as its four bytes (R411). -/
def parBytes (s : State) (k : PageKind) (off : Nat) : List Byte :=
  match findRegIn k 0 off with
  | some r =>
    let fs := r.fam.fields.filter FieldSpec.covered
    if fs.isEmpty then []
    else leBytes 4 ((fs.map fun f => s.get ⟨r.addr, f.hi, f.lo⟩ * 2 ^ f.lo).foldl (· + ·) 0)
  | none => []
def State.parCrc (s : State) : Nat :=
  crc32c ((safePages.map fun k => ((List.range 64).map fun i => parBytes s k (4 * i)).flatten).flatten)
/-- The words of the SAFE region's configuration registers. -/
def State.safeWords (s : State) : Tab Word :=
  s.regs.filter fun c => decide (0x40800000 ≤ c.1) && decide (c.1 < 0x40804000) && (findReg c.1).any RegRef.isCovered
/-- Chord's copy of them (R14): the words as written, untouched by an upset of a register. -/
def State.chordWords (s : State) : Tab Word :=
  s.safe.flips.foldl (fun t q => Tab.set regReset t q.1 (Tab.get regReset t q.1 ^^^ q.2)) s.safeWords
/-- Parameters take effect in both channels at the start of a cycle (R383), and the CRC over them follows a change (R411). -/
def State.parTake (s : State) : State :=
  let w := s.safeWords
  let v := s.chordWords
  if s.safe.par = w ∧ s.safe.parB = v then s else (s.setSafe fun e => { e with par := w, parB := v }).put R.SAFE_PARCRC s.parCrc

/-- The counts of the DCOV function and of the check of X against XB (R387, R388). -/
def State.cycleCounts (s : State) : State :=
  let high := s.sparB R.SAFE_DCOV_EN && decide ((s.spar R.SAFE_DCOV_LIM : Int) < s.slotCode (s.spar R.SAFE_DCOV_SLOT))
  let s := s.setSafe fun e => { e with dcov := if high then e.dcov + 1 else 0 }
  s.forEach (fun s d =>
    let far := decide (s.spar (R.SDRV_TOL_XTOL d) < (s.arcX d - (s.chordSt d).xb).natAbs)
    (s.sdirClear d).setChord d fun c => { c with apart := if far then c.apart + 1 else 0 }) [0, 1, 2]

/-- Faults that SAFE_TEST has asked for (R411). -/
def State.injected (s : State) : State :=
  let e := s.safe
  let s := s.setSafe fun e => { e with xinj := false, oinj := false }
  let s := if e.xinj then s.safeFault 0 else s
  if e.oinj then s.safeFault 3 else s

/-- Secant reads its memories: a double-bit error in either is a MEM fault (R19, R392), which holds until main reset. -/
def State.secantMems (s : State) : State :=
  if (s.get R.SAFE_FAULT_FAULT).testBit 5 then s
  else
    let us := s.sys.upsets.filter fun q => q.1 == 7 || q.1 == 8
    let bad := us.any fun q => s.wrongBits q.1 q.2.1 == 2
    let s := us.foldl (fun s q => s.memRead q.1 q.2.1) s
    if bad then s.safeFault 5 else s

/-- The end of a cycle: the demands found from the inputs at its start act, and the permits are written. -/
def State.secantWrites (s : State) : State :=
  let v := s.safe.nextA
  let s := (s.react srcSecant v s.safe.demA).setSafe fun e => { e with demA := v }
  s.injected.askStops.safeSync.crossTrack
/-- The start of a cycle: Secant takes parameters, levels, frames and observation values, and evaluates every function. -/
def State.secantTakes (s : State) (sfb : BitVec 4) : State :=
  let s := ((s.put R.SAFE_OUT_STAT_SFB sfb.toNat).secantMems.parTake.pairsJudge.forEach State.connCycle [0, 1]).cycleCounts
  let s := s.setSafe fun e => { e with nextA := s.vectorA }
  ({ s with ce := { s.ce with supGd := false } }).safeSync.crossTrack
/-- SECANT_CYCLE (R384): a cycle of channel A ends, and the next starts, with the levels of SFB0 to SFB3 and the heartbeat. -/
def execSecantCycle (sfb : BitVec 4) (s : State) : Host.Outcome State Fault Refusal :=
  .next (s.whenAlive fun s =>
    let s := (s.advUp (s.safe.cycleUp + usQ 250)).secantWrites
    (s.setSafe fun e => { e with cycleUp := s.time.up, beatUp := s.time.up }).secantTakes sfb)

/-! ## Internal faults (R392) -/

/-- SAFE_FAULT: the channels find the faults named by the bits; a MEM fault comes of a double-bit error, in a word that is free where none is
known to hold one. -/
def execSafeFault (bits : BitVec 9) (s : State) : Host.Outcome State Fault Refusal :=
  .next (s.whenAlive fun s =>
    let s := if bits.getLsbD 5 then
        (if s.sys.upsets.any fun q => decide (q.1 = 7 ∨ q.1 = 8) && s.wrongBits q.1 q.2.1 == 2 then s
          else (s.upset 7 (Config.secantWord s.fresh % 32768) true).draw).secantMems
      else s
    s.forEach (fun s b => if bits.toNat.testBit b then s.safeFault b else s) (List.range 9))

/-- SECANT_WD: 500 µs without a heartbeat. -/
def execSecantWd (s : State) : Host.Outcome State Fault Refusal :=
  .next (s.whenAlive fun s => ((s.advUp (s.safe.beatUp + usQ 500)).safeFault 1).idle)

/-- CROSS_TIMEOUT: the vectors have differed for 20 ms. -/
def execCrossTimeout (s : State) : Host.Outcome State Fault Refusal :=
  .next (s.whenAlive fun s =>
    match s.safe.crossUp with
    | some u => ((s.advUp (u + msQ 20)).safeFault 0).idle
    | none => s)

/-- OUTPUT_READBACK_FAULT (R397): no edge for 300 µs while on, or an edge 200 µs after a withdrawal. -/
def execOutputReadbackFault (out : Fin 4) (s : State) : Host.Outcome State Fault Refusal :=
  .next (s.whenAlive fun s =>
    let s := s.advUp (s.outUp out + usQ (if s.outOn out then 300 else 200))
    s.safeFault 3)

/-- ONFAIL (R398): on for FB_T; the operand is the level of SFBx at the expiry. -/
def execOnfail (out : Fin 4) (sfb : Bool) (s : State) : Host.Outcome State Fault Refusal :=
  .next (s.whenAlive fun s =>
    let x := out.val
    if s.outOn x && s.fbChecked x then
      let s := s.advUp (s.outUp x + msQ (s.spar R.SAFE_OUT_CFG_FB_T))
      let s := s.putB (R.SAFE_OUT_STAT_SFB.bit x) sfb
      if sfb then
        (((s.put (R.SAFE_OUT_STAT_ONFAIL.bit x) 1).irq .safe 0 3).emit srcSecant 63 0x904 (x + 4)).safeSync
      else s
    else s)

/-- WELD (R398): off for FB_T; the operand is the level of SFBx at the expiry. -/
def execWeld (out : Fin 4) (sfb : Bool) (s : State) : Host.Outcome State Fault Refusal :=
  .next (s.whenAlive fun s =>
    let x := out.val
    if !s.outOn x && s.fbChecked x && !s.welded x then
      let s := s.advUp (s.outUp x + msQ (s.spar R.SAFE_OUT_CFG_FB_T))
      let s := s.putB (R.SAFE_OUT_STAT_SFB.bit x) sfb
      if sfb then s
      else (((s.put (R.SAFE_OUT_STAT_WELD.bit x) 1).irq .safe 0 3).emit srcSecant 63 0x904 (x + 8)).safeSync
    else s)

/-! ## Release (R393, R394) -/

/-- Conditions that refuse a release, as RELEASE_REFUSED carries them. -/
def State.releaseWhy (s : State) : Nat :=
  (s.majorMode != mHALT).toNat + ((s.vectorB ||| s.safe.demA) % 2 ^ 16 != 0).toNat * 2 +
    ((List.range 8).any fun x => s.flag (R.SIN_STAT_DISCF x)).toNat * 4 +
    ([0, 1, 2, 3].any s.weldHolds).toNat * 8 +
    (s.get R.SAFE_FAULT_FAULT &&& permFaults != 0 || s.sys.monCond != 0).toNat * 16 +
    (((s.vectorB &&& commonMask) != (s.safe.demA &&& commonMask))).toNat * 32
/-- A release that is refused. -/
def State.releaseRefused (s : State) (why : Nat) : State := (s.put R.SAFE_STAT_RELREF 1).emit srcSecant 63 0x508 why
/-- A write of 1 to SAFE_CTL.RELEASE (R393). -/
def State.plantRelease (s : State) : State :=
  let why := s.releaseWhy
  if why != 0 then s.releaseRefused why
  else
    let s := ((s.put R.SAFE_STAT_PSAFE 0).put R.SAFE_CAUSE_CAUSE 0).put R.SAFE_FAULT_FAULT 0
    ((s.put R.SAFE_OUT_STAT_WELD 0).emit srcSecant 63 0x107 1).safeSync

/-- Neither Arc nor Chord has counted for 100 ms. -/
def State.driveStill (s : State) (d : Nat) : Bool :=
  let still := fun (u : Option Nat) => match u with
    | some t => decide (t + msQ 100 ≤ s.time.up)
    | none => true
  still (s.arcSt d).moveUp && still (s.chordSt d).moveUp
/-- Conditions that refuse the release of drive d. -/
def State.driveWhy (s : State) (d : Nat) : Nat :=
  ((s.stopB d ||| s.safe.demA / 2 ^ (16 + 8 * d) % 64) != 0).toNat * 2 + (s.get R.SAFE_FAULT_FAULT != 0).toNat * 16 +
    (!s.driveStill d).toNat * 64
/-- A write to SAFE_DRV_REL (R394). -/
def State.driveRelease (s : State) (mask : Nat) : State :=
  let ds := [0, 1, 2].filter fun d => mask.testBit d
  let good := ds.filter fun d => s.driveWhy d == 0
  let why := (ds.map s.driveWhy).foldl (· ||| ·) 0
  let s := s.forEach (fun s d =>
    ((s.put (R.SDRV_STAT_DSTOP d) 0).put (R.SDRV_STAT_CAUSE d) 0).setSafe fun e => { e with stopA := e.stopA &&& (7 - 2 ^ d) }) good
  let s := if good.isEmpty then s else s.emit srcSecant 63 0x107 ((good.map fun d => 2 ^ (d + 1)).foldl (· + ·) 0)
  (if why = 0 then s else s.releaseRefused why).safeSync

/-! ## Start-up, modes and the partition (R408 to R410) -/

/-- First byte of the safety partition, the top 512 KiB of the embedded MRAM. -/
def partitionBase : Nat := 0x780000
/-- The image that Secant's instruction memory of 128 KiB takes from the partition, by offset. -/
def State.partitionImage (s : State) : Tab Byte :=
  (s.mram.filter fun q => decide (partitionBase ≤ q.1) && decide (q.1 < partitionBase + 131072)).map fun q => (q.1 - partitionBase, q.2)
/-- Secant's boot at the release of main reset (R408, R448): on an erased header word the built-in program runs; else the image is read
from the partition as it stands. -/
def State.secantLoad (s : State) : State :=
  let bad := s.mramBad partitionBase 131072
  let s := s.mramMeet partitionBase 131072
  let erased := s.mramRead partitionBase 4 == 0xFFFFFFFF
  (s.putB R.SAFE_MRAM_BUILTIN erased).setSafe fun e => { e with imem := if erased then [] else s.partitionImage, badLoad := bad }
/-- The start-up self-test has been judged since main reset. -/
def State.startJudged (s : State) : Bool := s.flag R.SAFE_STAT_STARTOK || (s.get R.SAFE_FAULT_FAULT).testBit 8
/-- SAFE_STARTUP_TEST (R410), once after each main reset: whether the self-tests passed, and whether the CRC-32 of a loaded image is right. -/
def execSafeStartupTest (pass : Bool) (imageOk : Bool) (s : State) : Host.Outcome State Fault Refusal :=
  .next (s.whenAlive fun s =>
    if s.startJudged then s else
    let erased := s.flag R.SAFE_MRAM_BUILTIN
    let good := imageOk && !s.safe.badLoad
    let s := s.putB R.SAFE_MRAM_LOADED (!erased && good)
    let s := if !erased && !good then s.safeFault 6 else s
    if pass && (erased || good) then (s.put R.SAFE_STAT_STARTOK 1).safeSync else s.safeFault 8)

/-- The WAKE self-test passes with PWRUP at 1 (R410). -/
def State.powerUpSafe (s : State) : State :=
  if s.flag R.SAFE_CTL_PWRUP then (s.plantSafe srcChord (2 ^ 14)).plantSafe srcSecant (2 ^ 14) else s
/-- The major mode has changed (R398, R409). -/
def State.safeMode (s : State) : State :=
  (if s.majorMode = mHALT then s.putPar R.SAFE_OUT_REQ_REQ (s.get R.SAFE_OUT_REQ_REQ / 8 * 8) else s).safeSync
/-- Every permit is withdrawn for want of supply (R399). -/
def State.permitsOff (s : State) : State := ((s.put R.SAFE_OUT_STAT_ON 0).put R.SAFE_STAT_GEN 0).put R.SAFE_STAT_GRANT 0

/-- A write of 1 to SAFE_MRAM.WEN (R408, R415). -/
def State.wenOpened (s : State) : State := s.emit srcSecant 63 0x109 1

end Sys2Proof.Machine
end

