-- ==== Sys2Proof/Machine/Slope.lean ====
section
/-! DEFINITION. Slope (R216 to R240): string voltages and powers, dither, demodulation, channel states, curtailment and
scans. -/

namespace Sys2Proof.Machine

open Sys2Proof

/-- Rounded and saturated to Slope's 48-bit fixed point (R218). -/
def sq (x : Rat) : Rat := ofFmt (Config.slopeFracBits % 48) (fmtS 48 (Config.slopeFracBits % 48) x)
/-- A quotient, open where the divisor is 0. -/
def sdiv (a b : Rat) : Rat := if b = 0 then Config.slopeQuotient a else a / b

def slDefault (_ : Nat) : SlCh := {}
def State.sl (s : State) (n : Nat) : SlCh := Tab.get slDefault s.slope.ch n
def State.setSl (s : State) (n : Nat) (f : SlCh → SlCh) : State :=
  { s with slope := { s.slope with ch := Tab.set slDefault s.slope.ch n (f (s.sl n)) } }

def cOFF : Nat := 0
def cOPEN : Nat := 1
def cSTART : Nat := 2
def cTRACK : Nat := 3
def cSCAN : Nat := 4
def cHOLD : Nat := 5
def cSUSP : Nat := 6
def cFAULT : Nat := 7
def State.slState (s : State) (n : Nat) : Nat := s.get (R.SLCH_STAT_STATE n)
def State.slIn (s : State) (k : Nat) : List Nat := (List.range 32).filter fun n => s.slState n == k
def State.slEnabled (s : State) : List Nat := (List.range 32).filter fun n => s.flag (R.SLCH_CFG_EN n)

def State.vMin (s : State) (n : Nat) : Rat := ofFmt 5 (s.get (R.SLCH_VLIM_VMIN n))
def State.vMax (s : State) (n : Nat) : Rat := ofFmt 5 (s.get (R.SLCH_VLIM_VMAX n))
def State.vocMin (s : State) (n : Nat) : Rat := 8 * s.get (R.SLCH_FLT_VOCMIN n)
def State.sMax (s : State) (n : Nat) : Rat := ofFmt 4 (s.get (R.SLCH_TRK_SMAX n))

/-! ## Every tick (R217, R219, R220, R230) -/

/-- Ticks in 16 ms, and the phase of tone j in tick k, in turns. -/
def State.toneM (s : State) : Nat := if s.fine then 3200 else 1600
def State.tonePhase (s : State) (j k : Nat) : Rat := ((4 + j) * (k % s.toneM) : Nat) / (s.toneM : Rat)

/-- The voltage of a scan at the time e after its start. -/
def State.scanVb (s : State) (n : Nat) (c : ScanSt) (e : Nat) : Rat :=
  let x : Rat := (e : Rat) / (msQ 1 : Nat)
  let lo := s.vMin n
  let hi := s.vMax n
  if e < msQ 4 then c.vpre + (hi - c.vpre) * x / 4
  else if e < msQ 36 then hi - (hi - lo) * (x - 4) / 32
  else match c.best with
    | some b => lo + (b.2.2.1 - lo) * min 1 ((x - 36) / 4)
    | none => lo

/-- A point of a scan is closed into its buffer. -/
def State.closePoint (s : State) (n : Nat) (c : ScanSt) : State :=
  let v := sq (c.sv / (c.n : Rat))
  let i := sq (c.si / (c.n : Rat))
  let s := s.put (R.SCB_PT c.buf c.idx) (fmtU 16 5 v * 2 ^ 16 + (fmtS 16 6 i % 2 ^ 16).toNat)
  let s := s.put (R.SCB_CTL_COUNT c.buf) (c.idx + 1)
  s.setSl n fun h => { h with scan := some { c with sv := 0, si := 0, n := 0, idx := c.idx + 1, pts := c.pts ++ [(v, i)] } }

/-- The best point: largest power, a tie to the higher voltage; points are taken from high voltage to low. -/
def bestPoint : List (Rat × Rat) → Nat → Option (Nat × Rat × Rat) → Option (Nat × Rat × Rat)
  | [], _, b => b
  | p :: ps, k, b =>
    let w := sq (p.1 * p.2)
    bestPoint ps (k + 1) (match b with
      | none => some (k, p.1, w)
      | some q => if q.2.2 < w ∨ (q.2.2 = w ∧ q.2.1 < p.1) then some (k, p.1, w) else b)
/-- The choice at t0 + 36 ms (R231). -/
def State.scanChoose (s : State) (n : Nat) (c : ScanSt) : State :=
  match bestPoint c.pts 0 none with
  | some b =>
    let moved := decide (c.ppre * (1 + ofFmt 10 (s.get R.SLOPE_SCANCFG_GAIN)) < b.2.2) && !s.flag (R.SLCH_STAT_CURT n)
    let s := (s.put (R.SCB_BEST_INDEX c.buf) b.1).putB (R.SCB_BEST_MOVED c.buf) moved
    s.setSl n fun h => { h with scan := some { c with best := some (b.1, moved, if moved then b.2.1 else c.vpre, b.2.2) } }
  | none => s

/-- A point of a scan that has ended is closed, and the choice is made once the last has (R230). -/
def State.scanPoints (s : State) (n : Nat) : State :=
  match (s.sl n).scan with
  | none => s
  | some c =>
    let e := s.time.tickStart - c.t0
    let k := (e - msQ 4) / (msQ 1 / 2)
    let s := if msQ 4 ≤ e ∧ c.idx < 64 ∧ c.idx < k ∧ c.n ≠ 0 then s.closePoint n c else s
    match (s.sl n).scan with
    | none => s
    | some c => if msQ 36 ≤ e ∧ c.best = none then s.scanChoose n c else s
/-- One tick of a scan: the points that have ended, the choice, the sample of the tick and the voltage. -/
def State.scanTick (s : State) (n : Nat) : State :=
  let s := s.scanPoints n
  let h := s.sl n
  match h.scan with
  | none => s
  | some c =>
    let e := s.time.tickStart - c.t0
    let c := if msQ 4 ≤ e ∧ e < msQ 36 then { c with sv := sq (c.sv + h.v), si := sq (c.si + h.i), n := c.n + 1 } else c
    s.setSl n fun h => { h with scan := some c, vb := sq (s.scanVb n c e) }

/-- A new millisecond closes a channel's partial sums and the scan points that have ended; a channel that is not enabled takes no
samples and holds none. -/
def State.slRoll (s : State) (n : Nat) : State :=
  if s.flag (R.SLCH_CFG_EN n) then
    (s.setSl n fun c => { c with win := (c.cur :: c.win).take 16, last := c.cur, cur := {} }).scanPoints n
  else s.setSl n fun c => { c with win := [], last := {}, cur := {} }
def State.slopeRoll (s : State) : State :=
  let ms := s.time.tickStart / msQ 1
  if s.slope.rolled = some ms then s else
    let s := s.forEach State.slRoll (List.range 32)
    { s with slope := { s.slope with rolled := some ms } }

/-- The words of the input stage that the channels read (R217). -/
def State.slReads (s : State) (a : Nat) : Bool :=
  (List.range 32).any fun n => s.flag (R.SLCH_CFG_EN n) && (3 * s.get (R.SLCH_CFG_LEG n) == a ||
    (if s.flag (R.SLCH_CFG_VSRC n) then 3 * s.get (R.SLCH_CFG_LEG n) + 2 else 0x100 + s.get (R.SLCH_CFG_VAIN n)) == a)
/-- The samples and sums of an enabled channel in one tick (R217, R221). -/
def State.slSample (s : State) (n : Nat) : State :=
  let leg := s.get (R.SLCH_CFG_LEG n)
  let valid := (s.legIn leg).valid
  let kv := ofFmt 24 (s.get (R.SLCH_KV n))
  let ki := ofFmt 24 (s.get (R.SLCH_KI n))
  let h := s.sl n
  let v := if s.flag (R.SLCH_CFG_VSRC n) then (if valid then sq ((elemVal (s.ceWord (3 * leg + 2))).rat * kv) else h.v)
    else sq (s.ainCode (s.get (R.SLCH_CFG_VAIN n)) * kv)
  let i := if valid then sq ((elemVal (s.ceWord (3 * leg))).rat * ki) else h.i
  let s := if valid then s else s.bumpMod (R.SLCH_STAT_MISS n)
  let p := sq (v * i)
  let th := s.tonePhase (s.get (R.SLCH_CFG_TONE n)) s.tickNo
  let co := cosT th
  let si := sinT th
  let c := h.cur
  let hot := c.hot && decide (ofFmt 6 (s.get (R.SLCH_FLT_IMAX n)) < absR i)
  let cur : SlSum :=
    { n := c.n + 1, sv := sq (c.sv + v), si := sq (c.si + i), sp := sq (c.sp + p), pc := sq (c.pc + p * co),
      ps := sq (c.ps + p * si), vc := sq (c.vc + v * co), vs := sq (c.vs + v * si), miss := c.miss + (!valid).toNat, hot }
  let vocFor := if s.vocMin n ≤ v then h.vocFor + s.tickQ else 0
  let revFor := if i < -ofFmt 4 (s.get (R.SLCH_FLT_IREV n)) then h.revFor + s.tickQ else 0
  (s.setSl n fun h => { h with v, i, cur, vocFor, revFor }).scanTick n
/-- The reference of a channel, enabled or not (R220). -/
def State.slRef (s : State) (n : Nat) : State :=
  let a := if s.slState n = cTRACK then ofFmt 4 (s.get (R.SLCH_TRK_AMP n)) else 0
  let next := s.tonePhase (s.get (R.SLCH_CFG_TONE n)) (s.tickNo + 1)
  let vref := clampR (s.vMin n) (s.vMax n) ((s.sl n).vb + a * sinT next)
  s.setCeWord (0x150 + n) (packFmt 16 (fmtS 32 16 vref))

/-- Slope in each tick, at the Compute start. -/
def State.slopeTick (s : State) : State :=
  if s.runsLocus then ((s.ceSees s.slReads).slopeRoll.forEach State.slSample s.slEnabled).forEach State.slRef (List.range 32) else s

/-! ## Events -/

def State.slEmit (s : State) (n code data : Nat) : State := s.emitAt s.time.tickStart 8 n code data
/-- A power in units of 16 W. -/
def watts16 (w n : Nat) (x : Rat) : Nat := min (max 0 (x / 16)).floor.toNat (2 ^ w - 1) % 2 ^ n

/-! ## Scans end (R230, R232) -/

/-- The scan of a channel is aborted, or its pending request is cancelled. -/
def State.scanAbort (s : State) (n : Nat) : State :=
  match (s.sl n).scan with
  | some c =>
    let s := ((s.put (R.SCB_CTL_BUSY c.buf) 0).put (R.SCB_CTL_DONE c.buf) 1).put (R.SCB_CTL_ABORT c.buf) 1
    let s := s.setSl n fun h => { h with scan := none, vb := c.vpre }
    ((s.put (R.SLCH_STAT_SHADE n) 0).irq .slope 0 0).slEmit n 0x471 (c.buf + c.idx * 4)
  | none => s
def State.scanCancel (s : State) (n : Nat) : State :=
  if s.flag (R.SLOPE_SCANPEND.bit n) then (s.put (R.SLOPE_SCANPEND.bit n) 0).slEmit n 0x471 (2 ^ 9) else s
/-- A request for a scan (R229). -/
def State.scanAsk (s : State) (n : Nat) : State :=
  if s.slState n = cSCAN then s else s.put (R.SLOPE_SCANPEND.bit n) 1

/-! ## Estimates (R221, R222) -/

def SlSum.mean (c : SlSum) (x : Rat) : Rat := if c.n = 0 then 0 else sq (x / (c.n : Rat))
def meanP (h : SlCh) : Rat := h.last.mean h.last.sp

/-- AT_MPP follows the estimate dp of an evaluation (R223). -/
def State.slAtMpp (s : State) (n : Nat) (valid : Bool) (dp : Rat) : State :=
  let g := ofFmt 8 (s.get (R.SLCH_CONV_GTH n))
  let a := absR dp
  let run := if valid && decide (a < g) then (s.sl n).mppRun + 1 else 0
  (s.setSl n fun h => { h with mppRun := run }).putB (R.SLCH_STAT_AT_MPP n)
    (!decide (2 * g ≤ a) && (s.flag (R.SLCH_STAT_AT_MPP n) || decide (20 ≤ run)))
/-- The means and the estimate of an evaluation, in every state; over an empty window there is none, and it reads 0 (log 218). -/
def State.slEstimate (s : State) (n : Nat) : State :=
  let h := s.sl n
  let s := ((s.putI (R.SLCH_V n) (fmtS 32 16 (h.last.mean h.last.sv))).putI (R.SLCH_I n)
    (fmtS 32 16 (h.last.mean h.last.si))).putI (R.SLCH_P n) (fmtS 32 4 (meanP h))
  if h.win.isEmpty then
    (((s.setSl n fun h => { h with dpdv := 0, vdith := 0, ditherRun := 0, mppRun := 0 }).putI (R.SLCH_DPDV n) 0).putI
      (R.SLCH_VDITH n) 0).put (R.SLCH_STAT_VALID n) 0
  else
    let k : Rat := 2 / (s.toneM : Rat)
    let pc := sq (k * sumRat (h.win.map (·.pc)))
    let ps := sq (k * sumRat (h.win.map (·.ps)))
    let vc := sq (k * sumRat (h.win.map (·.vc)))
    let vs := sq (k * sumRat (h.win.map (·.vs)))
    let full := h.win.length == 16 && s.slState n == cTRACK
    let vd := sq (hyp vc vs)
    let dp := sq (sdiv (pc * vc + ps * vs) (vc * vc + vs * vs))
    let miss : Nat := (h.win.map (·.miss)).foldl (· + ·) 0
    let low := decide (vd < ofFmt 6 (s.get (R.SLCH_CONV_VDMIN n)))
    let valid := full && !low && decide (miss ≤ 16)
    let s := s.setSl n fun h => { h with dpdv := dp, vdith := vd, ditherRun := if full && low then h.ditherRun + 1 else 0 }
    (((s.putI (R.SLCH_DPDV n) (fmtS 32 16 dp)).putI (R.SLCH_VDITH n) (fmtS 32 16 vd)).putB (R.SLCH_STAT_VALID n) valid).slAtMpp n
      valid dp

/-! ## States (R224, R225, R233) -/

/-- Whether the condition of a fault code holds for a channel (R233). -/
def State.slCond (s : State) (n c : Nat) : Bool :=
  let h := s.sl n
  match c with
  | 1 => decide (msQ 10 ≤ h.revFor)
  | 2 => decide (h.last.n ≠ 0) && h.last.hot
  | 3 => decide (10000 ≤ h.lowRun)
  | 4 => decide (100 ≤ h.ditherRun)
  | 5 => h.inject
  | _ => false
/-- The fault codes whose condition holds. -/
def State.slConds (s : State) (n : Nat) : List Nat := [1, 2, 3, 4, 5].filter (s.slCond n)
/-- What an evaluation finds of them: those that hold, and those that did not at the last evaluation; an injection always arises. -/
def State.slArise (s : State) (n : Nat) : State :=
  s.setSl n fun h => { h with arose := (s.slConds n).filter fun c => c == 5 || !h.conds.contains c, conds := s.slConds n }
/-- The fault that an evaluation finds, the lowest code: one that holds; in FAULT, with the last fault not cleared, one that arises. -/
def State.slFaultNow (s : State) (n : Nat) : Option Nat :=
  (if s.slState n = cFAULT ∧ s.flag (R.SLCH_STAT_FAULT n) = true then (s.sl n).arose else s.slConds n).head?

/-- The runs of LOWVOC and dusk. LOWVOC: in OPEN, v below VOCMIN while half of the enabled channels in OPEN or beyond are not (R233).
Dusk: in TRACK, a mean power below RATED / 256 (R225). -/
def State.slRuns (s : State) (n : Nat) : State :=
  let es := s.slEnabled.filter fun m => s.slState m != cOFF
  let ok := es.filter fun m => decide (s.vocMin m ≤ (s.sl m).v)
  let low := s.slState n == cOPEN && decide ((s.sl n).v < s.vocMin n) && decide (es.length ≤ 2 * ok.length)
  let dusk := s.slState n == cTRACK && decide (meanP (s.sl n) < (s.get (R.SLCH_RATED_RATED n) : Rat) / 256)
  s.setSl n fun h => { h with lowRun := if low then h.lowRun + 1 else 0, duskRun := if dusk then h.duskRun + 1 else 0 }

/-- The boost leg of a channel can be driven. -/
def State.slLegOk (s : State) (n : Nat) : Bool :=
  let leg := s.get (R.SLCH_CFG_LEG n)
  s.flag (R.LEG_CTL_EN leg) && !s.tripped leg
def State.slTracks (s : State) : Bool := s.majorMode == mFOLLOW || s.majorMode == mFORM
def State.slHolds (s : State) : Bool := s.majorMode == mRIDE || (s.majorMode == mISLAND && !s.flag R.GC_STAT_CEASE)

/-- Entry to a state. -/
def State.slEnter (s : State) (n st : Nat) : State :=
  let old := s.slState n
  let s := if old = cSCAN ∧ st ≠ cTRACK then s.scanAbort n else s
  let s := s.put (R.SLCH_STAT_STATE n) st
  let s := s.setSl n fun h => { h with duskRun := 0, ditherRun := 0, shadeRun := 0, lowRun := 0 }
  if st = cTRACK then s.setSl n fun h => { h with win := [] }
  else if st = cSTART then s.setSl n fun h => { h with vb := h.voc }
  else if st = cOFF then (s.setSl n fun h => { h with vocFor := 0, revFor := 0 }).scanCancel n
  else if st = cFAULT then s.scanCancel n
  else s
/-- KSTART × VOC, to which VB falls in START (R225). -/
def State.slStartV (s : State) (n : Nat) : Rat := sq (ofFmt 8 (s.get (R.SLCH_CONV_KSTART n)) * (s.sl n).voc)

def State.slFault (s : State) (n c : Nat) : State :=
  let old := s.slState n
  let s := (s.slEnter n cFAULT).setSl n fun h => { h with inject := false }
  let s := ((s.put (R.SLCH_STAT_FAULT n) 1).put (R.SLCH_STAT_FCAUSE n) c).irq .slch n 0
  (s.irq .slope 0 1).slEmit n 0x872 (c + old * 16)

/-- The change of state of one evaluation, in the order of R224. A fault is judged in every state but OFF and SUSP (R233). -/
def State.slStep (s : State) (n : Nat) : State :=
  let st := s.slState n
  let h := s.sl n
  let active := st == cSTART || st == cTRACK || st == cSCAN || st == cHOLD
  if !s.flag (R.SLCH_CFG_EN n) then (if st = cOFF then s else s.slEnter n cOFF)
  else if st = cOFF then s.slEnter n cOPEN
  else match (if st = cSUSP then none else s.slFaultNow n) with
  | some c => s.slFault n c
  | none =>
    if s.nightvar then (if st = cSUSP then s else s.slEnter n cSUSP)
    else
      let trip := s.tripped (s.get (R.SLCH_CFG_LEG n))
      let dusk := st == cTRACK && decide (10000 ≤ h.duskRun)
      let off := active && (trip || !s.switching || (s.majorMode == mISLAND && s.flag R.GC_STAT_CEASE) || dusk)
      if off then
        let s := if trip then s.put (R.SLCH_STAT_LEGTRIP n) 1 else s
        s.slEnter n cOPEN
      else if st = cSUSP ∨ (st = cFAULT ∧ s.flag (R.SLCH_STAT_FAULT n) = false) then s.slEnter n cOPEN
      else if active && st != cHOLD && s.slHolds then s.slEnter n cHOLD
      else if st = cOPEN ∧ s.slTracks = true ∧ s.slLegOk n = true ∧ msQ 1000 ≤ h.vocFor then s.slEnter n cSTART
      else if st = cSTART ∧ h.vb ≤ s.slStartV n then s.slEnter n cTRACK
      else if st = cHOLD ∧ s.slTracks = true then s.slEnter n cTRACK
      else s

/-! ## Curtailment (R226 to R228) -/

def State.slCurt (s : State) : Bool := s.flag R.SLOPE_STAT_CURT
def State.slTarget (s : State) : Rat :=
  sq (sdiv (max 0 s.loc.pset * s.get R.SLOPE_SBASE) (ofFmt 16 (s.get R.SLOPE_EFF_EFF)))
def State.refTrack (s : State) : List Nat := (s.slIn cTRACK).filter fun n => s.flag (R.SLCH_CFG_REF n)
def State.refPower (s : State) : Rat := sq (sumRat (s.refTrack.map fun n => meanP (s.sl n)))
/-- The curtailment basis: the power of the reference channels when curtailment began, with the new PMPP of one that a scan has
moved since (R228, R231). -/
def State.slBasis (s : State) : Rat := sq (sumRat ((List.range 32).map fun n => (s.sl n).base))
def State.takeBasis (s : State) : State :=
  let ref := s.refTrack
  s.forEach (fun s n => s.setSl n fun h => { h with base := if ref.contains n then meanP h else 0 }) (List.range 32)
/-- T is at least the power of the reference channels, which then track normally. -/
def State.refNormal (s : State) : Bool := decide (s.refPower ≤ s.slTarget)

def State.curtJudge (s : State) : State :=
  let pa := ofFmt 24 (s.getI R.SLOPE_PAVAIL_PU)
  let cm := ofFmt 10 (s.get R.SLOPE_CTL_CMARG)
  let ps := s.loc.pset
  let was := s.slCurt
  let now := if was then decide (ps < pa * (1 - cm / 2)) else decide (ps < pa * (1 - cm))
  let s := s.putI R.SLOPE_PTGT (if now then fmtS 32 4 s.slTarget else 0x7FFFFFFF)
  if was == now then s else
    let s := if now then s.takeBasis else s
    ((s.putB R.SLOPE_STAT_CURT now).irq .slope 0 2).slEmit 63 0x074 (now.toNat + (if now then watts16 32 32 s.slTarget * 2 else 0))

/-- The share of a channel in TRACK: none where it tracks normally. -/
def State.slShare (s : State) (n : Nat) : Option Rat :=
  if s.slCurt then
    let tr := s.slIn cTRACK
    let t := s.slTarget
    let normal := s.refNormal
    if normal && s.flag (R.SLCH_CFG_REF n) then none else
      let pool := if normal then tr.filter fun m => !s.flag (R.SLCH_CFG_REF m) else tr
      let amount := if normal then t - s.refPower else t
      let share := sq (amount * sdiv (s.sl n).pmpp (sumRat (pool.map fun m => (s.sl m).pmpp)))
      if (s.sl n).pmpp ≤ share then none else some share
  else none

/-- The step of a channel in TRACK (R223, R227). -/
def State.slTrackStep (s : State) (n : Nat) (share : Option Rat) : State :=
  let h := s.sl n
  let valid := s.flag (R.SLCH_STAT_VALID n)
  let s := s.putB (R.SLCH_STAT_CURT n) share.isSome
  let mx := s.sMax n
  let vb := match share with
    | none =>
      if valid then clampR (s.vMin n) (s.vMax n) (h.vb + clampR (-mx) mx (ofFmt 12 (s.get (R.SLCH_TRK_KT n)) * h.dpdv)) else h.vb
    | some sh =>
      let kc := ofFmt 16 (s.get (R.SLCH_CURT_KC n))
      let p := meanP h
      clampR (s.vMin n) (s.vMax n)
        (if sh < p then h.vb + min mx (kc * (p - sh)) else if p < sh then max h.vmpp (h.vb - min mx (kc * (sh - p))) else h.vb)
  s.setSl n fun h => { h with vb := sq vb }

/-- What a channel does in its state at an evaluation; `entered` tells that it entered the state at this one. A scan keeps the
channel's curtailment as long as curtailment holds. -/
def State.slAct (s : State) (n : Nat) (entered : Bool) : State :=
  let st := s.slState n
  if st = cTRACK then s.slTrackStep n (s.slShare n)
  else
    let s := s.putB (R.SLCH_STAT_CURT n) (st == cSCAN && s.slCurt && s.flag (R.SLCH_STAT_CURT n))
    if st = cOPEN ∨ st = cSUSP then s.setSl n fun h => { h with voc := h.last.mean h.last.sv }
    else if st = cSTART ∧ entered = false then s.setSl n fun h => { h with vb := sq (max (s.slStartV n) (h.vb - s.sMax n)) }
    else s
/-- The power point of a channel at an evaluation at which AT_MPP is 1: VMPP takes VB, and PMPP the mean power unless the channel is
curtailed or its scan has ended in this tick (R223, R227, R231). -/
def State.slMpp (s : State) (n : Nat) : State :=
  if s.slState n ≠ cOFF ∧ s.flag (R.SLCH_STAT_AT_MPP n) = true then
    let keeps := s.flag (R.SLCH_STAT_CURT n) || (s.sl n).scanEnds.contains s.time.tickStart
    s.setSl n fun h => { h with vmpp := h.vb, pmpp := if keeps then h.pmpp else meanP h }
  else s

/-- The present power of the reference channels against that at the start of curtailment (R228). -/
def State.slRho (s : State) : Rat :=
  if s.refTrack.isEmpty || !s.refNormal then 1 else sq (sdiv s.refPower s.slBasis)
def State.slEn (s : State) (n : Nat) : Rat :=
  let st := s.slState n
  let h := s.sl n
  if st = cTRACK ∧ s.flag (R.SLCH_STAT_CURT n) = true then sq (h.pmpp * s.slRho)
  else if st = cTRACK ∨ st = cSTART ∨ st = cHOLD then meanP h
  else if st = cSCAN then (h.scan.map (·.ppre)).getD 0
  else 0

/-! ## The shading test (R235) -/

def State.perUnitP (s : State) (n : Nat) : Rat := sq (sdiv (meanP (s.sl n)) (s.get (R.SLCH_RATED_RATED n) : Nat))
def State.shadeJudge (s : State) (n : Nat) : State :=
  let tr := s.slIn cTRACK
  let past := fun (t : Nat) => decide (t + 10 * secQ ≤ s.time.tickStart)
  let due := (s.sl n).scanEnds.any past
  let s := s.setSl n fun h => { h with scanEnds := h.scanEnds.filter fun t => !past t }
  if s.slState n = cTRACK ∧ 4 ≤ tr.length ∧ s.slCurt = false then
    let a := s.perUnitP n
    let m := sq (sumRat ((tr.filter (· != n)).map s.perUnitP) / ((tr.length - 1 : Nat) : Rat))
    let bad := decide (a < m * (1 - ofFmt 8 (s.get R.SLOPE_SCANCFG_SHADE)))
    let run := if bad then (s.sl n).shadeRun + 1 else 0
    let s := s.setSl n fun h => { h with shadeRun := run }
    let s := if decide (1000 ≤ run) && !s.flag (R.SLCH_STAT_SHADE n) then
        let s := (s.put (R.SLCH_STAT_SHADE n) 1).irq .slch n 1
        if s.flag R.SLOPE_CTL_AUTOSCAN then s.scanAsk n else s
      else s
    if bad && due then
      ((s.put (R.SLCH_STAT_MISMATCH n) 1).irq .slch n 2).slEmit n 0x473 (fmtU 8 8 a + fmtU 8 8 m * 2 ^ 8)
    else s
  else s.setSl n fun h => { h with shadeRun := 0 }

/-! ## Scan starts (R229) -/

def State.scansRunning (s : State) : Nat := (s.slIn cSCAN).length
def State.freeBuf (s : State) : Option Nat :=
  [0, 1, 2, 3].find? fun b => !s.flag (R.SCB_CTL_DONE b) && !s.flag (R.SCB_CTL_BUSY b)
/-- A pending channel in TRACK starts its scan (R230). -/
def State.scanStart (s : State) (n : Nat) : State :=
  if s.flag (R.SLOPE_SCANPEND.bit n) && s.slState n == cTRACK && s.slTracks &&
      decide (s.scansRunning < s.get R.SLOPE_CTL_SCANMAX) then
    match s.freeBuf with
    | some b =>
      let t0 := s.time.tickStart
      let h := s.sl n
      let s := (s.put (R.SLOPE_SCANPEND.bit n) 0).put (R.SLCH_STAT_STATE n) cSCAN
      let s := (((s.put (R.SCB_CTL_CH b) n).put (R.SCB_CTL_BUSY b) 1).put (R.SCB_CTL_COUNT b) 0).put (R.SCB_CTL_ABORT b) 0
      let s := (s.put (R.SCB_TSL b) (stampOf t0 % 2 ^ 32)).put (R.SCB_TSH b) (stampOf t0 / 2 ^ 32)
      s.setSl n fun h' => { h' with scan := some { t0, buf := b, vpre := h.vb, ppre := meanP h } }
    | none => s
  else s
/-- Periodic requests, due for every channel at a whole second equal to n modulo PER. -/
def State.scanPeriodic (s : State) : State :=
  let per := s.get R.SLOPE_SCANCFG_PER
  let t := s.time.tickStart
  if s.flag R.SLOPE_CTL_AUTOSCAN && per != 0 && t / msQ 1 % 1000 == 0 then
    s.forEach State.scanAsk ((List.range 32).filter fun n => t / secQ % per == n % per)
  else s

/-! ## The evaluation (R221) -/

def bitMask (l : List Nat) : Nat := l.foldl (fun m n => m ||| 2 ^ n) 0

/-- The status registers, written in one TIME clock (R237). -/
def State.slPublish (s : State) : State :=
  let s := s.forEach (fun s n =>
    ((s.putI (R.SLCH_VB n) (fmtS 32 16 (s.sl n).vb)).putI (R.SLCH_PMPP n) (fmtS 32 4 (s.sl n).pmpp)).putI (R.SLCH_VOC n)
      (fmtS 32 16 (s.sl n).voc)) (List.range 32)
  let on := (List.range 32).filter fun n => s.slState n != cOFF
  let avail := if s.nightvar then 0 else sq (ofFmt 16 (s.get R.SLOPE_EFF_EFF) * sumRat ((List.range 32).map s.slEn))
  let s := (s.put R.SLOPE_MS_MS (s.time.tickStart / msQ 1)).putI R.SLOPE_PTOT
    (fmtS 32 4 (sumRat (on.map fun n => meanP (s.sl n))))
  let s := (s.putI R.SLOPE_PAVAIL (fmtS 32 4 avail)).putI R.SLOPE_PAVAIL_PU
    (fmtS 32 24 (sdiv avail (s.get R.SLOPE_SBASE : Nat)))
  ((s.put R.SLOPE_SUMTRK (bitMask (s.slIn cTRACK))).put R.SLOPE_SUMCURT
    (bitMask ((List.range 32).filter fun n => s.flag (R.SLCH_STAT_CURT n)))).put R.SLOPE_SUMFLT (bitMask (s.slIn cFAULT))

def State.slopeEvaluate (s : State) : State :=
  let all := List.range 32
  let s := s.slopeRoll.forEach State.slEstimate all
  let s := (s.forEach State.slRuns s.slEnabled).forEach State.slArise all
  let was := s
  let s := (s.forEach State.slStep all).curtJudge
  let s := s.forEach (fun s n => s.slAct n (was.slState n != s.slState n)) all
  let s := s.forEach State.slMpp all
  let s := s.forEach State.shadeJudge s.slEnabled
  (s.scanPeriodic.forEach State.scanStart all).slPublish

/-- SLOPE_EVALUATION (R221): once in the first tick of each millisecond, while SLOPE_CTL.EN is 1. -/
def execSlopeEvaluation (s : State) : Host.Outcome State Fault Refusal :=
  .next (
    let ms := s.time.tickStart / msQ 1
    if s.runsLocus && s.flag R.SLOPE_CTL_EN && s.firstOfMs && s.slope.done != some ms then
      { s.slopeEvaluate with slope := { s.slopeEvaluate.slope with done := some ms } }
    else s)

/-- SCAN_DONE (R230, R231): 40 ms after the start of the scan. Before or after the evaluation of its tick, the millisecond that has
ended belongs to the scan and the status registers show the channel in TRACK. -/
def execScanDone (ch : Fin 32) (s : State) : Host.Outcome State Fault Refusal :=
  .next (
    match (s.sl ch).scan with
    | some c =>
      match c.best with
      | some b =>
        if s.runsLocus && s.slState ch == cSCAN && decide (c.t0 + msQ 40 ≤ s.time.tickStart) then
          let s := s.slopeRoll
          let moves := b.2.1 && s.slCurt && s.flag (R.SLCH_CFG_REF ch)
          let s := (s.setSl ch fun h =>
            { h with scan := none, vb := b.2.2.1, pmpp := b.2.2.2, base := if moves then b.2.2.2 else h.base,
                     scanEnds := s.time.tickStart :: h.scanEnds }).slEnter ch cTRACK
          let s := ((s.put (R.SCB_CTL_BUSY c.buf) 0).put (R.SCB_CTL_DONE c.buf) 1).put (R.SLCH_STAT_SHADE ch) 0
          let s := if s.slope.done == some (s.time.tickStart / msQ 1) then s.slPublish else s
          (s.irq .slope 0 0).slEmit ch 0x070
            (c.buf + b.1 * 4 + b.2.1.toNat * 2 ^ 8 + watts16 24 24 b.2.2.2 * 2 ^ 16)
        else s
      | none => s
    | none => s)

/-! ## Writes (R229, R234, R236) and mode changes -/

/-- A write of SLOPE_SCANREQ. -/
def State.scanRequest (s : State) (v : Nat) : State :=
  s.forEach State.scanAsk ((List.range 32).filter fun n => v.testBit n)
/-- A write of SLOPE_TEST.FAULT under TEST. -/
def State.slInject (s : State) (n : Nat) : State := s.setSl n fun h => { h with inject := true }
/-- A W1C write to FAULT: refused while the condition of FCAUSE holds. -/
def State.slClear (s : State) (n : Nat) : State × Bool :=
  if s.flag (R.SLCH_STAT_FAULT n) then
    if s.slCond n (s.get (R.SLCH_STAT_FCAUSE n)) then (s.put (R.SLCH_STAT_CLR_REFUSED n) 1, true)
    else (s.put (R.SLCH_STAT_FAULT n) 0, false)
  else (s, false)

/-- Slope at a change of the major mode: no channel runs in DARK or WAKE; the front of curtailment goes with them. -/
def State.slModeChange (s : State) (new : Nat) : State :=
  if new = mDARK ∨ new = mWAKE then s.forEach (fun s n => if s.slState n = cOFF then s else s.slEnter n cOFF) (List.range 32)
  else s

end Sys2Proof.Machine
end

