-- ==== Sys2Proof/Machine/Modes.lean ====
section
/-! DEFINITION. Major modes, requests, modifiers, the profile and the DC-link window (R58 to R83). -/

namespace Sys2Proof.Machine

open Sys2Proof

def State.setMode (s : State) (f : ModeSt → ModeSt) : State := { s with mode := f s.mode }
def State.setSys (s : State) (f : SysSt → SysSt) : State := { s with sys := f s.sys }

/-! ## Conditions -/

/-- A ROM profile is in effect. -/
def State.romOn (s : State) : Bool := s.flag R.SYS_MODE_STAT_ROM
/-- ROM profiles 0001 to 0011 switch; 0000 and the reserved codes do not (R80). -/
def romSwitches (p : Nat) : Bool := decide (1 ≤ p) && decide (p ≤ 3)
/-- The DC link is in its window (R82). -/
def State.dcInWindow (s : State) : Bool :=
  match s.mode.dcUp with
  | some u => s.majorMode != mDARK && s.majorMode != mWAKE && decide (u + msQ 100 ≤ s.time.up)
  | none => false
/-- The window's judgement at a boundary; boundaries in WAKE do not count (log 206). -/
def State.dcJudge (s : State) : State :=
  let v := s.locIn.vdc
  let ok := s.majorMode != mDARK && s.majorMode != mWAKE && decide (ofFmt 12 (s.get R.SYS_DCWIN_VMIN) ≤ v) &&
    decide (v ≤ ofFmt 12 (s.get R.SYS_DCWIN_VMAX))
  s.setMode fun m => { m with dcUp := if ok then some (m.dcUp.getD s.time.up) else none }

/-- The protection pages, by page kind and number. -/
def protectionPages : List (PageKind × Nat) :=
  (allPages.filter fun k => k.info.cls == 1).flatMap fun k => (List.range k.info.count).map fun n => (k, n)
/-- The safe state is released: neither PSAFE nor an internal fault is latched. -/
def State.safeReleased (s : State) : Bool := !s.psafe && s.get R.SAFE_FAULT_FAULT == 0
/-- R73. -/
def State.haltExit (s : State) : Bool :=
  !s.latched && s.safeReleased && !(protectionPages.any fun p => s.flag (F.parErr (pageBase p.1 p.2))) &&
    [0, 1, 2].all s.stowFinished
/-- Every converter position has a converter in service (R286). -/
def State.positionsServed (s : State) : Bool := (List.range 8).all fun p => (s.serves p).isSome
/-- The WAKE self-test (R74): passed, failed or not judged yet. -/
def State.selfTest (s : State) : Option Bool :=
  let fault := s.get R.SAFE_FAULT_FAULT
  let debug := s.sys.bootsel == 3
  if debug && !s.sys.bootDone then none
  else if s.flag R.SYS_BOOT_LOADERR || (fault.testBit 8 || fault.testBit 6) || !s.positionsServed then some false
  else if s.sys.bootDone && s.flag R.ADC_STAT_CALDONE && s.flag R.SAFE_STAT_STARTOK && fault == 0 &&
      s.get R.CLK_PLL_LOCK / 2 % 2 == 1 && s.get R.CLK_PLL_LOCK / 8 == 1 then some true
  else if !debug && decide (s.sys.relUp + msQ 100 ≤ s.time.up) then some false
  else none

/-! ## Requests (R71, R72) -/

/-- A write of TARGET starts a request; a new one replaces it. -/
def State.modeRequest (s : State) (t : Nat) : State := (s.put R.SYS_MODE_STAT_REQ 2).setMode fun m => { m with req := some t }

/-- A transition of R69 leads by request from a mode to a target. -/
def requestable (m t : Nat) : Bool :=
  (t == mHALT && m != mDARK && m != mWAKE) ||
  (t == mSTANDBY && decide (mFOLLOW ≤ m)) ||
  (t == mFOLLOW && (m == mSTANDBY || m == mFORM)) || (t == mFORM && (m == mSTANDBY || m == mFOLLOW))
/-- Causes 2 to 6, 8 and 11, which judge an entry to FOLLOW or FORM. -/
def State.entryCauses (s : State) (t : Nat) : List Nat :=
  let m := s.majorMode
  let c := fun (b : Bool) (k : Nat) => if b then [k] else []
  c (!s.inLock && (t == mFOLLOW || m == mFOLLOW)) 2 ++ c (!s.dcInWindow) 3 ++ c (!s.flag R.SAFE_STAT_GRANT) 4 ++ c s.latched 5 ++
    c (decide ((if s.fine then 32 else 64) < s.enabledLegs)) 6 ++ c (s.romOn && !romSwitches s.sys.prof) 8 ++
    c (t == mFORM && !s.inLock && s.flag R.SYS_MODE_CFG_BS_INHIBIT) 11
/-- The refusal cause of a request for t, or 0 (R72). -/
def State.refusal (s : State) (t : Nat) : Nat :=
  let m := s.majorMode
  if t = mDARK ∨ t = mWAKE ∨ t = mRIDE ∨ t = mISLAND then 1
  else if t = m then 0
  else if (m = mRIDE ∨ m = mISLAND) ∧ (t = mFOLLOW ∨ t = mFORM) then 10
  else if m = mISLAND ∧ t = mSTANDBY ∧ s.islanded = true then 10
  else if requestable m t = false then 12
  else if t = mFOLLOW ∨ t = mFORM then (s.entryCauses t).headD 0
  else if m = mHALT ∧ s.haltExit = false then 7
  else 0
def State.refuseMode (s : State) (t c : Nat) : State :=
  (((s.put R.SYS_MODE_STAT_CAUSE c).put R.SYS_MODE_STAT_REQ 3).irq .mode 0 1).emit 16 63 0x411 (t + c * 8)

/-! ## Transitions (R69, R70) -/

/-- A channel of the string tracker whose injected fault is withdrawn; one that is then as at reset is not listed. -/
def SlCh.untested (q : Nat × SlCh) : Option (Nat × SlCh) :=
  if { q.2 with inject := false } = ({} : SlCh) then none else some (q.1, { q.2 with inject := false })
/-- TEST ends: every injected fault and loop-back is withdrawn (R76). -/
def State.testOff (s : State) : State :=
  let s := (s.forEach State.linkTestOff (List.range 8)).cmpTestOff.drvCompare.meterTestOff
  let s := if s.flag R.ADC_TEST_SUBST then s.putCfg R.ADC_TEST_SUBST 0 else s
  let kept := fun (l : List Nat) => l.filter fun a => !s.ce.planted.contains a
  let s := s.setCe fun c => { c with injFault := false, err1 := kept c.err1, err2 := kept c.err2, planted := [] }
  let s := (s.setSafe fun e => { e with xinj := false, oinj := false }).setOrg fun o => { o with tfail := false }
  let s := { s with adc := { s.adc with calErr := false }, slope := { s.slope with ch := s.slope.ch.filterMap SlCh.untested } }
  let s := s.forEach (fun s n => if s.flag (R.ETH_CTL_LOOP n) then s.putCfg (R.ETH_CTL_LOOP n) 0 else s) [0, 1]
  s.forEach (fun s n => if s.flag (R.LEG_CTL_INJ n) then s.putCfg (R.LEG_CTL_INJ n) 0 else s) (List.range 64)

def switches (m : Nat) : Bool := m == mFOLLOW || m == mFORM || m == mRIDE || m == mISLAND
/-- Severity of MODE_CHANGE (R83). -/
def modeChangeCode (new cause : Nat) : Nat :=
  if new = mHALT ∧ cause ≠ 0 then 0x810
  else if cause = 0 ∨ cause = 1 ∨ cause = 6 ∨ cause = 7 ∨ cause = 13 then 0x010 else 0x410

/-- The major mode changes at a tick boundary. -/
def State.changeMode (s : State) (new cause : Nat) : State :=
  let old := s.majorMode
  let s := ((s.put R.SYS_MODE_STAT_PREV old).put R.SYS_MODE_STAT_MODE new).irq .mode 0 0
  let s := s.emitAt s.time.tickStart 16 63 (modeChangeCode new cause) (new + old * 8 + cause * 2 ^ 6)
  let s := s.setMode fun m =>
    { m with rideFrom := if new = mRIDE then old else m.rideFrom, haltSeen := m.haltSeen || new == mHALT,
             islSeen := m.islSeen || new == mISLAND }
  let s := s.setCe fun c => { c with firstMode := true }
  let s := if switches old && !switches new && !s.allOff then s.softAllOff else s
  let s := (((s.limitBoundary old new).locModeChange old new).islModeChange old new).slModeChange new
  let s := if new = mHALT then s.forEach State.haltStow [0, 1, 2]
    else if old = mHALT then s.forEach State.haltLeft [0, 1, 2] else s
  s.safeMode

def minOf : List Nat → Nat
  | [] => 0
  | [a] => a
  | a :: l => min a (minOf l)

/-- The causes of HALT that lead from the mode in effect. -/
def State.haltCauses (s : State) : List Nat :=
  let m := s.majorMode
  (s.mode.dueHalt.filter fun c =>
    (c == 8 && m != mHALT) || (c == 9 && m != mHALT) || (c == 10 && s.switching) || (c == 11 && m == mRIDE) ||
    (c == 12 && (m == mRIDE || m == mISLAND)) || (c == 15 && m == mISLAND)) ++
  (if s.mode.dueParStandby && m == mISLAND then [9] else []) ++
  (if m == mWAKE && s.selfTest == some false then [2] else [])

/-- The transition that the device takes by itself at a boundary, of the highest rank due: its mode and cause (R70). -/
def State.ownTransition (s : State) : Option (Nat × Nat) :=
  let m := s.majorMode
  let h := s.haltCauses
  let follow := m == mFOLLOW || m == mFORM
  if !h.isEmpty then some (mHALT, minOf h)
  else if s.mode.dueParStandby && (follow || m == mRIDE) then some (mSTANDBY, 9)
  else if s.mode.dueIsland && (follow || m == mRIDE) && !(m == mFORM && !s.flag R.SYS_MODE_CFG_ISLAND_CEASE) then some (mISLAND, 5)
  else if s.islComplete then some (mSTANDBY, 6)
  else if !s.mode.dueRide.isEmpty && follow then some (mRIDE, minOf s.mode.dueRide)
  else if s.mode.dueReturn && m == mRIDE then some (s.mode.rideFrom, 7)
  else if m == mWAKE && s.selfTest == some true then some (mSTANDBY, 1)
  else none

/-- Other causes of the rank taken are due beside the lowest (R70). -/
def State.severalDue (s : State) (q : Nat × Nat) : Bool :=
  (if q.1 = mHALT then s.haltCauses else if q.1 = mRIDE then s.mode.dueRide else []).any (· != q.2)

/-- The enter-service delay of auto-start (R81). -/
def autoDelay : Nat := 300 * secQ
def State.autoHolds (s : State) : Bool :=
  s.majorMode == mSTANDBY && !s.mode.haltSeen && s.romOn && romSwitches s.sys.prof && s.flag R.SYS_MODE_CFG_AUTO_START &&
    s.inLock && s.dcInWindow && s.flag R.SAFE_STAT_GRANT
def State.autoTrack (s : State) : State :=
  s.setMode fun m => { m with autoUp := if s.autoHolds then some (m.autoUp.getD s.time.up) else none }
def State.autoTarget (s : State) : Nat := if s.sys.prof = 2 then mFORM else mFOLLOW

/-- A request is judged against the mode in effect, by the host (cause 0) or by auto-start (cause 13), whose
request shows in the same fields (log 207). -/
def State.judgeRequest (s : State) (t cause : Nat) : State :=
  let c := s.refusal t
  if c = 0 then
    let s := (s.put R.SYS_MODE_STAT_REQ 1).irq .mode 0 1
    if t = s.majorMode then s else s.changeMode t cause
  else s.refuseMode t c
/-- A request that loses to a transition of a higher rank (R70): HALT waits. -/
def State.supersede (s : State) (t : Nat) : State :=
  if t = mHALT then s
  else (s.refuseMode t (if t = mSTANDBY ∨ t = mFOLLOW ∨ t = mFORM then 9 else 1)).setMode fun m => { m with req := none }

/-- The judgement of the major mode at a tick boundary (R70). -/
def State.judgeMode (s : State) : State :=
  let s := if s.majorMode = mWAKE ∧ s.selfTest = some true then s.powerUpSafe else s
  let own := s.ownTransition
  let auto := s.mode.autoReq
  -- SYS_MODE_STAT then carries the lowest cause code as MODE_CHANGE does (R70, log 204).
  let shown := match own with
    | some q => s.severalDue q
    | none => false
  let s := s.setMode fun m =>
    { m with dueHalt := [], dueParStandby := false, dueIsland := false, dueRide := [], dueReturn := false, autoReq := false }
  match own with
  | some q =>
    let s := s.changeMode q.1 q.2
    let s := if shown then s.put R.SYS_MODE_STAT_CAUSE q.2 else s
    match s.mode.req with
    | some t => s.supersede t
    | none => if auto then s.refuseMode s.autoTarget 9 else s
  | none =>
    match s.mode.req with
    | some t => (s.setMode fun m => { m with req := none }).judgeRequest t 0
    | none => if auto then s.judgeRequest s.autoTarget 13 else s

/-! ## Modifiers (R75 to R78) -/

def modOFF : Nat := 0
def modACTIVE : Nat := 1
def modSTORED : Nat := 2
def modIGNORED : Nat := 3
/-- Both grid contactors are confirmed open, and the seal is off: a test bench. -/
def State.bench (s : State) : Bool := !s.sys.sealed && s.sfb 0 && s.sfb 1
/-- The result of a requested modifier, by its bit, in the mode in effect (R76). -/
def State.modResult (s : State) (b : Nat) (night : Bool) : Nat :=
  let m := s.majorMode
  let follow := m == mFOLLOW
  match b with
  | 0 => if follow then (if night then modSTORED else modACTIVE) else if m = mFORM then modACTIVE else if m = mDARK then modIGNORED else modSTORED
  | 1 => if follow then modACTIVE else if m = mFORM ∨ m = mISLAND ∨ m = mDARK then modIGNORED else modSTORED
  | _ =>
    if m = mSTANDBY ∨ m = mHALT then (if s.sys.sealed then modIGNORED else modACTIVE)
    else if m = mFOLLOW ∨ m = mFORM then (if s.bench then modACTIVE else modIGNORED)
    else modIGNORED
/-- LEGACY in effect settles in STANDBY and HALT (R76 note d). -/
def State.legacyStatus (s : State) : Nat :=
  if s.majorMode = mWAKE ∨ s.majorMode = mDARK then (if s.flag R.SYS_MODE_MOD_LEGACY then modSTORED else modOFF)
  else if s.mode.legacy then modACTIVE
  else if s.flag R.SYS_MODE_MOD_LEGACY then modSTORED else modOFF

def modFields : List (Fld × Fld) :=
  [(R.SYS_MODE_MOD_CURTAIL, R.SYS_MODE_STAT_ST_CURTAIL), (R.SYS_MODE_MOD_NIGHTVAR, R.SYS_MODE_STAT_ST_NIGHTVAR),
   (R.SYS_MODE_MOD_TEST, R.SYS_MODE_STAT_ST_TEST)]
/-- The status of the modifier of bit b. -/
def State.modStatusOf (s : State) (b : Nat) (night : Bool) : Nat :=
  if s.flag (R.SYS_MODE_MOD.bit b) then s.modResult b night
  else if s.mode.sticky.testBit b then modIGNORED else modOFF
/-- The judgement of every modifier at a tick boundary (R75). -/
def State.judgeMods (s : State) : State :=
  let wasTest := s.testActive
  let old := s.get ⟨R.SYS_MODE_STAT.addr, 19, 12⟩
  let s := if s.majorMode = mSTANDBY ∨ s.majorMode = mHALT then
    s.setMode fun m => { m with legacy := s.flag R.SYS_MODE_MOD_LEGACY } else s
  let night := s.modStatusOf 1 false
  let st := [s.modStatusOf 0 (night == modACTIVE), night, s.modStatusOf 2 false]
  let refused := maskOf 3 fun b => s.flag (R.SYS_MODE_MOD.bit b) && st.getD b 0 == modIGNORED
  let s := s.put ⟨R.SYS_MODE_STAT.addr, 19, 12⟩ (st.getD 0 0 + st.getD 1 0 * 4 + st.getD 2 0 * 16 + s.legacyStatus * 64)
  let s := if refused = 0 then s else
    ((s.putCfg R.SYS_MODE_MOD (s.get R.SYS_MODE_MOD - refused)).setMode fun m => { m with sticky := m.sticky ||| refused }).emit
      16 63 0x013 (refused + s.majorMode * 16)
  let s := if s.get ⟨R.SYS_MODE_STAT.addr, 19, 12⟩ = old then s else s.irq .mode 0 3
  if wasTest && !s.testActive then s.testOff else s
/-- Modifier bits have been written: those no longer stay IGNORED. -/
def State.modWritten (s : State) (mask : Nat) : State :=
  s.setMode fun m => { m with sticky := m.sticky - (m.sticky &&& mask) }

/-! ## The profile (R62) -/

/-- A requested profile takes effect at a boundary of 10 µs from which no leg switches. -/
def State.judgeProfile (s : State) : State :=
  let want := s.flag R.SYS_TICK_CFG_PROFILE
  if want == s.fine || s.time.tickStart % 40000 != 0 || s.switching then s
  else
    let s := s.putB R.SYS_MODE_STAT_PROFILE want
    (if want then s.slotCut else s).recheckLegs

end Sys2Proof.Machine
end

