-- ==== Sys2Proof/Machine/Tick.lean ====
section
/-! DEFINITION. The tick boundary and the instants of a tick that act on every block (R58 to R61, R173, R256). -/

namespace Sys2Proof.Machine

open Sys2Proof

/-- The end of a tick that starts at t: the next boundary of the grid at least half a period ahead (R61, log 203). -/
def tickEndOf (t p : Nat) : Nat := (t + p / 2 + (p - 1)) / p * p

/-- A pending step of Gnomon time, by the mode from this boundary (R61, R323). -/
def State.stepTime (s : State) : State :=
  match s.time.step with
  | none => s
  | some d =>
    if s.switching then s.tryStep
    else s.tryStep.meterTimeStep.setTime fun t => { t with gridOff := t.gridOff + d }

/-- Under a ROM profile the boot ROM requests the grid contactors once Locus is in lock and the DC link is in its window (R410); after
HALT or an island they do not reclose by themselves (R398). -/
def State.romOutputs (s : State) : State :=
  if s.romOn && s.majorMode == mSTANDBY && s.inLock && s.dcInWindow && !s.mode.haltSeen && !s.mode.islSeen then
    if s.get R.SAFE_OUT_REQ_REQ % 4 = 3 then s
    else (s.putPar R.SAFE_OUT_REQ_REQ (s.get R.SAFE_OUT_REQ_REQ / 4 * 4 + 3)).safeSync
  else s

/-- Under a ROM profile the boot ROM issues HOME to MD0 at the first STANDBY, and STOW at dusk, for which it requests the stow brake's
release (R372, R410). -/
def State.romTracker (s : State) : State :=
  if !s.romOn then s
  else
    let dusk := s.sys.romHpres && !s.flag R.ORIGIN_STAT_HPRES
    let s := s.setSys fun y => { y with romHpres := s.flag R.ORIGIN_STAT_HPRES }
    let s := if dusk then
        ((s.putPar R.SAFE_OUT_REQ_REQ (s.get R.SAFE_OUT_REQ_REQ ||| 8)).safeSync.drvCommand 0 5).1 else s
    if s.majorMode == mSTANDBY && !s.sys.romHomed then (s.setSys fun y => { y with romHomed := true }).drvCommand 0 6 |>.1 else s

/-- The blocks at a tick start. -/
def State.blocksTick (s : State) : State :=
  let s := s.vTickStart.locTickStart.adcTickStart
  (s.forEach State.linkTick (List.range 8)).auxTicks

/-- Polygon has done nothing yet in a tick. -/
def State.polyTick (s : State) : State :=
  { s with poly := { s.poly with latched := false, built := false, released := false, guarded := false, excused := false, set := [], before := [] } }

/-- A tick boundary at Gnomon time t. -/
def State.tickBoundary (s : State) (t : Nat) : State :=
  let s := s.islReport.polyTick.setTime fun x => { x with tickStart := t }
  let s := s.dcJudge.judgeMode
  let s := (s.limitBoundary s.majorMode s.majorMode).stepTime.judgeMods.judgeProfile.romOutputs.romTracker.autoTrack
  let s := s.setTime fun t => { t with tickEnd := tickEndOf t.tickStart s.tickQ }
  s.blocksTick.pulse 1

/-- TICK_START (R58): the tick in progress ends. -/
def execTickStart (s : State) : Host.Outcome State Fault Refusal :=
  .next (if s.ticking then (s.advTo s.time.tickEnd).tickBoundary s.time.tickEnd else s)

/-- INPUT_FREEZE (R59): the end of Sense. -/
def execInputFreeze (s : State) : Host.Outcome State Fault Refusal :=
  .next (if s.ticking && !s.ce.frozen then ((s.advTo (s.time.tickStart + s.senseQ)).pulse 2).vFreeze.adcFreeze else s)

/-- COMPUTE_START (R256, R173): Locus and Slope pass, and the program starts. -/
def execComputeStart (s : State) : Host.Outcome State Fault Refusal :=
  .next (if s.ticking && s.ce.frozen && !s.ce.computing then
    let s := (s.advTo (s.time.tickStart + s.senseQ)).pulse 3
    let s := s.locusPass.islTick.slopeTick
    (s.vStartProgram (Config.locusClock s.fresh % 201) (Config.slopeClock s.fresh % 151)).draw.setCe fun c => { c with computing := true }
  else s)

/-- SELFTEST_TIMEOUT (R74): 100 ms have passed without a pass; the self-test fails at the first boundary from then on. -/
def execSelftestTimeout (s : State) : Host.Outcome State Fault Refusal :=
  .next (if s.ticking && s.majorMode == mWAKE && s.sys.bootsel != 3 then
    let s := s.advUp (s.sys.relUp + msQ 100)
    let t := (s.time.now + (s.tickQ - 1)) / s.tickQ * s.tickQ
    (s.advTo t).tickBoundary t
  else s)

/-- ISL_CEASED: the first tick that starts after the ramp ends; the legs have ceased and the contactors are asked to open (R211,
R398). -/
def execIslCeased (s : State) : Host.Outcome State Fault Refusal :=
  .next (
    match s.isl.entered with
    | some t =>
      if s.runsLocus && s.majorMode == mISLAND && !s.isl.ceased &&
          decide (t + msQ (s.get R.ISL_CLR_RAMP) < s.time.tickStart) then
        let s := (s.setIsl fun i => { i with ceased := true }).putPar R.SAFE_OUT_REQ_REQ (s.get R.SAFE_OUT_REQ_REQ / 4 * 4)
        let s := ((s.gcStatus (s.get R.GC_STAT % 16 + 16)).irq .isl 0 2).safeSync
        s.emitAt s.time.tickStart 7 63 0x062 (satN 16 ((s.time.tickStart - t) / msQ 1))
      else s
    | none => s)

/-- GEN_REQUEST (R160): the time of the deassertion request has come, and GEN_N follows. -/
def execGenRequest (s : State) : Host.Outcome State Fault Refusal :=
  .next (s.whenAlive fun s =>
    match s.prot.genAt with
    | some t =>
      let s := s.advUp t
      let s := { s with prot := { s.prot with genAt := none } }
      if s.allOff then (s.put R.TRIP_STAT_GEN_REQ 1).safeSync else s
    | none => s)

/-- AUTO_START (R81): the enter-service delay has passed; the request is judged at the next
boundary, and the delay starts anew. -/
def execAutoStart (s : State) : Host.Outcome State Fault Refusal :=
  .next (s.whenAlive fun s =>
    match s.mode.autoUp with
    | some u =>
      (s.advUp (u + autoDelay)).setMode fun m => { m with autoUp := none, autoReq := true }
    | none => s)

end Sys2Proof.Machine
end

