-- ==== Sys2Proof/Machine/System.lean ====
section
/-! DEFINITION. Main rails, main reset, clocks, monitors, SYNC_IN, the trigger matrix, aging monitors and the seal (R437 to R449,
R460, R471, R37, R343). -/

namespace Sys2Proof.Machine

open Sys2Proof

/-! ## Trigger lines (R343) -/

/-- TRIGGER_PULSE: the next pulse of a line reaches its users. -/
def execTriggerPulse (line : Fin 16) (s : State) : Host.Outcome State Fault Refusal :=
  .next (if s.ticking then
    match s.lineNext line with
    | some t => (((s.advTo t).lineTake line t).lineReach line t).drvPulse line
    | none => s
  else s)

/-! ## The main rails (R68, R399, R429) -/

/-- No port sends a clock or a block, and every auxiliary gate, chopper output and PGUARD is low (R446, R455). -/
def State.outputsLow (s : State) : State :=
  let s := s.forEach (fun s p => s.enterLink p stOFF) (List.range 8)
  let s := (s.forEach (fun s k => s.put (R.BRK_STAT_ON k) 0) [0, 1]).put R.TRIP_PG_STAT_ON 0
  { s with ports := [], poly := { s.poly with aux := [] } }
/-- Without the main rails every drive is OFF, and Arc's positions and HOMED are lost (R356, R373). -/
def State.drivesOff (s : State) : State :=
  let s := s.forEach (fun s d => ((s.put (R.MD_STAT_STATE d) 0).put (R.ARC_POS_POS d) 0 |>.put (R.ARC_REV d) 0).put (R.ARC_STAT_HOMED d) 0) [0, 1, 2]
  { s with drv := [], arc := [] }
/-- VFAIL_N asserts: permits go, Annulus and Origin do their last work, and the mode becomes DARK. `part` is the number of words
written of a periodic commit in progress. -/
def State.railsFail (s : State) (part : Option Nat) : State :=
  if s.majorMode = mDARK then s
  else
    let t := stampOf (clockOf s.time.now)
    let m := s.majorMode
    let s := ((s.settleBurst.commitPart part).permitsOff.put R.ORIGIN_STAT_RAILS 0).bumpSat R.ORIGIN_LIFE_EVT_VFAIL
    -- The burst has begun by the staging (R425, R429).
    let s := ((s.putB R.ORIGIN_STAT_BURST (!s.burstRefused true)).meterFinal false).finalBurst (some t)
    let s := (s.put R.SYS_MODE_STAT_PREV m).put R.SYS_MODE_STAT_MODE mDARK
    let s := s.setOrg fun o => { o with darkUp := s.time.up, hourUp := s.time.up, learnFrom := none }
    let s := s.outputsLow.drivesOff
    { s with log := {}, time := { up := s.time.up }, sys := { s.sys with inReset := false, rstSrc := 0, scan := none, monCond := 0 } }
/-- MAIN_RAIL_FAILURE (R429). -/
def execMainRailFailure (part : Option (Fin 64)) (s : State) : Host.Outcome State Fault Refusal :=
  .next (s.railsFail (part.map (·.val)))

/-! ## Main reset (R445 to R448) -/

/-- A source of main reset acts while the main rails are good (R446): steps 1 to 4; during the sequence it adds its bit. Step 3 falls
within 6 µs; from the request on the model holds what it brings (log 244). -/
def State.resetRequest (s : State) (src : Nat) : State :=
  if s.majorMode = mDARK then s
  else if s.sys.inReset then s.setSys fun y => { y with rstSrc := y.rstSrc ||| 2 ^ src }
  else
    let s := if s.switching && !s.allOff then s.softAllOff else s
    let s := ((s.settleBurst.put R.ORIGIN_STAT_BURST 1).meterFinal true).permitsOff.finalBurst none
    let s := (s.outputsLow.setSys fun y =>
      { y with inReset := true, rstUp := s.time.up + Config.resetDelay s.fresh % 24001, rstSrc := 2 ^ src }).draw
    { s with log := {} }

/-- The words of the ORIGIN page among some registers. -/
def originWords {α : Type} (key : α → Nat) (l : List α) : List α :=
  l.filter fun q => decide (pageBase .origin 0 ≤ key q) && decide (key q < pageBase .origin 0 + 0x1000)
/-- Every register outside the Origin domain at its reset value, and every block as at reset (R447): the elapsed time, the Origin
domain, the embedded MRAM, the seal and the commands that wait are kept. -/
def State.allReset (s : State) : State :=
  { regs := originWords (·.1) s.regs, parFlip := originWords id s.parFlip, sram := [], mram := s.mram,
    time := { up := s.time.up }, log := { early := s.log.early }, mode := {},
    sys := { sealed := s.sys.sealed, rstSrc := s.sys.rstSrc, busErrors := s.sys.busErrors, relUp := s.time.up, wdtUp := s.time.up,
             monCond := s.sys.monCond, upsets := s.sys.upsets.filter fun q => q.1 == 3 || q.1 == 9 },
    poly := {}, ports := [], prot := {}, ce := {}, loc := {}, gc := {}, isl := {}, slope := {}, adc := {}, cmp := {}, eth := [],
    drv := [], brk := [], arc := [],
    safe := { cycleUp := s.time.up, beatUp := s.time.up, outUp := [0, 1, 2, 3].foldl (fun t x => Tab.set noUp t x s.time.up) [],
              outFrom := [0, 1, 2, 3].foldl (fun t x => Tab.set noUp t x s.time.up) [] },
    meter := {}, org := { s.org with tfail := false, learnFrom := none }, fresh := s.fresh, pending := s.pending }

/-- Modifiers recorded in the newest valid checkpoint (R79). -/
def State.darkMods (s : State) : Nat :=
  match s.newestCk with
  | some q => q.2.2.getD 58 0 % 16
  | none => 0
/-- Main reset is released into WAKE, with the straps sampled (R446 to R448, R333, R432). MOD_IGNORED is logged where a modifier is
recorded (log 205); events of the Origin domain detected in main reset wait for the first tick start (R17). -/
def State.releaseReset (s : State) (prof bootsel : Nat) (xtal : Bool) (mult : Nat) : State :=
  let cause := s.sys.rstSrc
  let s := s.allReset
  let s := s.setSys fun y => { y with prof, bootsel, rstSrc := 0 }
  let s := ((s.put R.SYS_RST_CAUSE_CAUSE cause).put R.SYS_MODE_STAT_ROMPROF prof).put R.SYS_BOOT_BOOTSEL bootsel
  let s := ((s.putB R.CLK_REF_XTAL xtal).put R.CLK_REF_MULT_EFF mult).put R.CLK_PLL_LOCK 5
  let s := s.setTime fun t => { t with now := s.rtcSec * secQ }
  let s := s.emit 16 63 0x018 cause
  let s := if cause.testBit 0 && s.darkMods != 0 then s.emit 16 63 0x013 (s.darkMods + mWAKE * 16) else s
  s.secantLoad.originRestore

/-- SYS and LINK are locked and REF runs, without which main reset is not released (R440, R455). -/
def State.clocksReady (s : State) : Bool :=
  s.flag (R.CLK_PLL_LOCK.bit 0) && s.flag (R.CLK_PLL_LOCK.bit 2) && !s.sys.monCond.testBit 0
/-- MAIN_RESET_RELEASE (R446): the burst has ended, 10 µs have passed since main reset asserted, and SYS and LINK are locked. -/
def execMainResetRelease (prof : Fin 16) (bootsel : Fin 4) (xtal : Bool) (s : State) : Host.Outcome State Fault Refusal :=
  .next (if s.sys.inReset && s.majorMode != mDARK && s.clocksReady then
    (s.settleBurst.advUp (s.sys.rstUp + usQ 10)).releaseReset prof bootsel xtal (s.get R.CLK_REF_MULT)
  else s)

/-- POWER_UP (R448): the rails are good again, and main reset is released into WAKE; a final burst ends first (R431). -/
def execPowerUp (prof : Fin 16) (bootsel : Fin 4) (xtal : Bool) (s : State) : Host.Outcome State Fault Refusal :=
  .next (if s.majorMode = mDARK then
    let s := s.settleBurst
    let s := if s.org.vkeep then s else s.originInit
    let s := (s.put R.ORIGIN_STAT_RAILS 1).put R.ORIGIN_DARK_DUR (satN 24 ((s.time.up - s.org.darkUp) / secQ))
    let s := s.setOrg fun o => { o with hourUp := s.time.up }
    (s.setSys fun y => { y with rstSrc := 1 }).releaseReset prof bootsel xtal 0
  else s)

/-- PIN_RESET (R445). -/
def execPinReset (s : State) : Host.Outcome State Fault Refusal := .next (s.resetRequest 1)
/-- JTAG_SYSTEM_RESET (R445). -/
def execJtagSystemReset (s : State) : Host.Outcome State Fault Refusal := .next (s.resetRequest 4)
/-- WDOG_EXPIRE (R449). -/
def execWdogExpire (s : State) : Host.Outcome State Fault Refusal :=
  .next (s.whenAlive fun s =>
    if s.flag R.SYS_WDT_CFG_EN then
      let s := s.advUp (s.sys.wdtUp + msQ (s.get R.SYS_WDT_CFG_TIMEOUT))
      ((s.emit 16 63 0x81B (s.get R.SYS_WDT_CFG_TIMEOUT)).resetRequest 3).idle
    else s)
/-- SYSPLL_RESET (R441): SYS has been without lock for 1 ms. -/
def execSyspllReset (s : State) : Host.Outcome State Fault Refusal :=
  .next (match s.sys.lockLossUp with
    | some u => ((s.advUp (u + msQ 1)).resetRequest 5).idle
    | none => s)

/-! ## PLLs and monitors (R439 to R441) -/

/-- LOCK takes a value, and a change is logged (R458). -/
def State.pllLock (s : State) (v : Nat) : State :=
  if s.get R.CLK_PLL_LOCK = v then s else (s.put R.CLK_PLL_LOCK v).emit 15 63 0x130 v

/-- TIME_PLL_LOCK (R440, R17): Gnomon's counter runs, and the first tick starts there; what was detected before takes its time. -/
def execTimePllLock (s : State) : Host.Outcome State Fault Refusal :=
  .next (if s.alive && !s.time.run then
    let t := s.time.now
    let early := s.log.early.map fun (e : Ev) => { e with t := t }
    let s := { s with log := { s.log with early := [], inflight := s.log.inflight ++ early } }
    let s := s.setTime fun x => { x with run := true }
    (s.pllLock (s.get R.CLK_PLL_LOCK ||| 2)).tickBoundary t
  else s)

/-- The PLLs, as bits of LOCK, among the monitors of CLK_MON. -/
def monPlls (bits : Nat) : Nat := bits / 2 % 16

/-- REF, counted over 100 µs, lies outside 24.0 MHz to 26.0 MHz (R441). -/
def refBad (ref : Word) : Bool := decide (ref.toNat < 24000000) || decide (26000000 < ref.toNat)
/-- The monitors that fail: those of `bits`, and that of REF by its frequency. -/
def monBits (bits : BitVec 9) (ref : Word) : Nat := bits.toNat / 2 * 2 + (refBad ref).toNat
/-- The monitors, which run in main reset as well, find the failures of `bits` (R441): in main reset a PLL out of lock shows in LOCK
only. -/
def State.monFound (s : State) (bits : BitVec 9) (ref : Word) : State :=
  if s.majorMode = mDARK then s
  else
    let b := monBits bits ref
    let s := (s.put R.CLK_REFF ref.toNat).setSys fun y =>
      { y with monCond := y.monCond ||| b,
               lockLossUp := if (monPlls b).testBit 0 then some (y.lockLossUp.getD s.time.up) else y.lockLossUp }
    if s.sys.inReset then s.put R.CLK_PLL_LOCK (s.get R.CLK_PLL_LOCK &&& (15 - monPlls b)) else s
/-- MON_FAIL (R441): the monitors of `bits` fail, with the frequency of REF in Hz (R457); `low` says that a supply has fallen below 90 %. -/
def execMonFail (bits : BitVec 9) (low : Bool) (ref : Word) (s : State) : Host.Outcome State Fault Refusal :=
  .next (
    let s := s.monFound bits ref
    s.whenAlive fun s =>
    let b := monBits bits ref
    let new := b - (b &&& s.get R.CLK_MON_FAIL)
    let lost := monPlls b
    let s := if b = 0 then s else
      ((s.put R.CLK_MON_FAIL (s.get R.CLK_MON_FAIL ||| b)).irq .clk 0 0).emit 15 63 0x831 new
    let s := if lost = 0 then s else
      ((s.put R.CLK_PLL_UNLOCKED (s.get R.CLK_PLL_UNLOCKED ||| lost)).irq .clk 0 1).pllLock (s.get R.CLK_PLL_LOCK &&& (15 - lost))
    let s := if lost.testBit 2 then s.forEach (fun s p => if s.linkUp p then s.lossOfLink p 0 false else s) (List.range 8) else s
    let s := if b = 0 then s else s.safeFault 7
    if low then s.railsFail none else s)

/-- PLL_RELOCK (R440, R441): the conditions of `bits`, in the places of CLK_MON, end, in main reset as well; that of REF by its frequency,
and the TIME PLL then takes the rate set meanwhile. -/
def execPllRelock (bits : BitVec 9) (ref : Word) (s : State) : Host.Outcome State Fault Refusal :=
  .next (if s.majorMode = mDARK then s else
    let s := s.put R.CLK_REFF ref.toNat
    let b := bits.toNat / 2 * 2 + (!refBad ref).toNat
    let s := s.setSys fun y =>
      { y with monCond := y.monCond - (y.monCond &&& b), lockLossUp := if b.testBit 1 then none else y.lockLossUp }
    (if b.testBit 0 then s.applyRate else s).pllLock (s.get R.CLK_PLL_LOCK ||| monPlls b))

/-- A W1C write to CLK_MON: bits whose condition holds stay, and are refused. -/
def State.monClear (s : State) (mask : Nat) : State × Bool :=
  let hit := mask &&& s.get R.CLK_MON_FAIL
  let kept := hit &&& s.sys.monCond
  (s.put R.CLK_MON_FAIL (s.get R.CLK_MON_FAIL - (hit - kept)), kept != 0)

/-- GRID_LOOP_TRIM (R439): the next whole millisecond; the sample grid follows Gnomon, unless a failure of REF holds MTR's setting
(R441). -/
def execGridLoopTrim (s : State) : Host.Outcome State Fault Refusal :=
  .next (if s.ticking && s.flag (R.CLK_PLL_LOCK.bit 3) && !s.sys.monCond.testBit 0 then
    (s.advTo ((s.time.now / msQ 1 + 1) * msQ 1)).setTime fun t => { t with gridOff := 0 }
  else s)

/-! ## Clock outputs (R442 to R444) -/

/-- The state of output n has changed. -/
def State.outState (s : State) (n : Nat) : State :=
  s.emit 15 63 0x033 (n + s.get (R.CLKOUT_CTL_SETUP n) * 4 + s.get (R.CLKOUT_CFG_FMT n) * 8)
/-- Periods of the sources in ns: REF, TIME, LINKA, METER. -/
def srcPeriod (src : Nat) : Rat :=
  match src with
  | 0 => 40
  | 1 => 5 / 4
  | 2 => 8 / 5
  | _ => 15625 / 384
/-- The period of output n in ns. -/
def State.outPeriod (s : State) (n : Nat) : Rat := srcPeriod (s.get (R.CLKOUT_DIV_SRC n)) * (s.get (R.CLKOUT_DIV_DIV n) : Rat)
/-- The frequency that SRC and DIV give is within the limit of the format (R442). -/
def State.outAllowed (s : State) (n : Nat) : Bool :=
  decide ((if s.get (R.CLKOUT_CFG_FMT n) < 2 then (5 : Rat) else 5 / 4) ≤ s.outPeriod n)
/-- SETUP may be entered. -/
def State.setupAllowed (s : State) : Bool := s.majorMode == mWAKE || s.majorMode == mHALT || s.testActive
/-- The elapsed time in ns. -/
def State.nowNs (s : State) : Rat := (s.time.up : Rat) / 4
def noEdge (_ : Nat) : Option Rat := none
/-- A rising edge of output n's divider; its phase is free until an edge of SYNC_IN fixes it (R444, log 245). -/
def State.outRef (s : State) (n : Nat) : Rat := (Tab.get noEdge s.sys.outEdge n).getD (Config.outPhase n)
/-- The first edge at or after t, and the last at or before it, of a clock of period T that rises at e. -/
def edgeAfter (e T t : Rat) : Rat := e + T * ((t - e) / T).ceil
def edgeBefore (e T t : Rat) : Rat := e + T * ((t - e) / T).floor
/-- SRC, DIV or DELAY of output n has been written: the divider's phase is free anew. -/
def State.outDivider (s : State) (n : Nat) : State :=
  (s.setSys fun y => { y with outEdge := Tab.set noEdge y.outEdge n (some (Config.outPhase s.fresh)) }).draw
/-- FMT of output n has changed (R443): in RUN it stops at its next low phase, and after the reconfiguration starts on a rising edge of
its divider. -/
def State.outFormat (s : State) (n : Nat) : State :=
  if s.flag (R.CLKOUT_CTL_SETUP n) then s
  else
    let T := s.outPeriod n
    let t := s.nowNs
    let a := max t (edgeBefore (s.outRef n) T t + T / 2)
    let b := edgeAfter (s.outRef n) T (a + max 0 (min 2000 (Config.outReconfig s.fresh)))
    (s.setSys fun y => { y with outStop := Tab.set (fun _ => (0, 0)) y.outStop n (a, b) }).draw
/-- What drives a clock output: a low level, nothing, or its divider. -/
inductive ClkDrive where
  | low | highZ | runs
deriving DecidableEq, Repr
/-- Output n at t ns: idle in SETUP, with EN 0 and in main reset, where CMOS is low and the differential formats high-impedance, and while
a change of format stops it; without the main rails nothing drives (R442, R443, R455). -/
def State.outDrive (s : State) (n : Nat) (t : Rat) : ClkDrive :=
  let q := Tab.get (fun _ => (0, 0)) s.sys.outStop n
  if s.majorMode = mDARK then .highZ
  else if s.alive && !s.flag (R.CLKOUT_CTL_SETUP n) && s.flag (R.CLKOUT_CTL_EN n) && !(decide (q.1 ≤ t) && decide (t < q.2)) then .runs
  else if s.get (R.CLKOUT_CFG_FMT n) < 2 then .low else .highZ
/-- The re-phase of every output with RESYNC by an edge now, with its fine field of 78.125 ps: the next rising edge is the first on the new
grid that lengthens the period in progress (R444). -/
def State.rephase (s : State) (fine : Nat) : State :=
  let outs := (List.range 4).filter fun n => s.flag (R.CLKOUT_CTL_RESYNC n)
  let e : Rat := (s.time.up / 5 * 5 : Nat) / 4 + (fine : Rat) * 5 / 64
  let s := s.forEach (fun s n =>
    let T := s.outPeriod n
    let grid := e + 10 + s.get (R.CLKOUT_DIV_DELAY n) * srcPeriod (s.get (R.CLKOUT_DIV_SRC n))
    let x := edgeAfter grid T (edgeBefore (s.outRef n) T e + T)
    s.setSys fun y => { y with outEdge := Tab.set noEdge y.outEdge n (some x) }) outs
  (((s.putCfg R.CLK_SYNC_ARM 0).put R.CLK_SYNC_DONE 1).irq .clk 0 2).emit 15 63 0x032 (maskOf 4 fun n => outs.contains n)

/-- SYNC_IN_EDGE (R339, R344, R345, R444): an edge, with the sixteenth of the TIME clock in which it fell. -/
def execSyncInEdge (rising : Bool) (fine : Fin 16) (s : State) : Host.Outcome State Fault Refusal :=
  .next (s.whenAlive fun s =>
    let s := if s.time.run then s.syncEdgeTime rising fine else s.setTime fun t => { t with sync := rising }
    if rising && s.flag R.CLK_SYNC_ARM then s.rephase fine else s)

/-! ## The seal, aging, debug and boundary scan (R37, R460, R450, R471) -/

/-- SEAL_CHANGE (R37): the filtered level of SEAL_N; WEN closes with the seal (R408). -/
def execSealChange (level : Bool) (s : State) : Host.Outcome State Fault Refusal :=
  .next (let s := s.setSys fun y => { y with sealed := level, scan := if level then none else y.scan }
    if level && s.flag R.SAFE_MRAM_WEN then s.putPar R.SAFE_MRAM_WEN 0 else s)

/-- The baseline word of monitor c in the boot area; its place there is the model's. -/
def baselineAddr (c : Nat) : Nat := 0x77F084 + 4 * c
/-- AGING_COUNT (R460): monitor 3 is Origin's; the first count of the others is stored as their baseline. -/
def execAgingCount (monitor : Fin 4) (count : BitVec 16) (s : State) : Host.Outcome State Fault Refusal :=
  .next (
    let c := monitor.val
    if c = 3 then s.originAge count.toNat
    else s.whenAlive fun s =>
      let s := (s.put (R.SYS_AGE_COUNT c) count.toNat).irq .sys 0 0
      let bad := s.mramBad (baselineAddr c) 4
      let s := s.mramMeet (baselineAddr c) 4
      if bad then s.busError
      else if s.mramRead (baselineAddr c) 4 = 0xFFFFFFFF then
        (s.mramStore (baselineAddr c) (leBytes 4 count.toNat)).put (R.SYS_AGE_BASE c) count.toNat
      else s)

/-- DEBUG_HOLD_RELEASE (R74): the test port releases HC0 from the boot ROM. -/
def execDebugHoldRelease (s : State) : Host.Outcome State Fault Refusal :=
  .next (s.whenAlive fun s => if s.sys.bootsel = 3 then s.setSys fun y => { y with bootDone := true } else s)

/-- The digital signal balls that the boundary scan knows apart: GEN_N, SOUTx, AUXGm, BRKk and PGUARD, whose cells only capture, and the
others by a number. -/
inductive Ball where
  | gen | sout (x : Fin 4) | auxg (m : Fin 18) | brk (k : Fin 2) | pguard | other (n : Nat)
deriving DecidableEq, Repr
/-- What the pattern in effect drives a ball to; the place of a cell in the pattern is free (R471). -/
def State.scanDrives (s : State) : Ball → Option Bool
  | .other n => s.sys.scan.map fun p => p.testBit (Config.scanCell n)
  | .gen => none
  | .sout _ => none
  | .auxg _ => none
  | .brk _ => none
  | .pguard => none
/-- BOUNDARY_SCAN_INSTRUCTION (R471): EXTEST and the 1149.6 instructions drive the pattern only while main reset is held by the
test port, BOOTSEL is 11 and the seal is off; every other instruction captures. -/
def execBoundaryScanInstruction (extest : Bool) (pattern : Nat) (s : State) : Host.Outcome State Fault Refusal :=
  .next (s.setSys fun y =>
    { y with scan := if extest && y.inReset && y.rstSrc.testBit 4 && y.bootsel == 3 && !y.sealed then some pattern else none })

end Sys2Proof.Machine
end

