-- ==== Sys2Proof/Machine/Refuse.lean ====
section
/-! DEFINITION. The conditions under which a chapter refuses the change of a field with cause 7, beyond the ranges and locks
of its register table (R32, R472). In each, `t` is the state in which the write would leave the register. -/

namespace Sys2Proof.Machine

open Sys2Proof

/-- A change of a field of the mode page: PROFILE (R62), and the order of the DC-link window (R82). -/
def State.refusesMode (s t : State) (q : Fld) (w : Nat) : Bool :=
  if q = R.SYS_TICK_CFG_PROFILE then
    !(s.majorMode == mWAKE || s.majorMode == mSTANDBY || s.majorMode == mHALT) || (w == 1 && decide (32 < s.enabledLegs))
  else if q = R.SYS_DCWIN_VMIN ∨ q = R.SYS_DCWIN_VMAX then decide (t.get R.SYS_DCWIN_VMAX ≤ t.get R.SYS_DCWIN_VMIN)
  else false

/-- Clock page: MULT (R438), the state of an output (R442), DELAY against DIV. -/
def State.refusesClk (s t : State) (n : Nat) (q : Fld) (w : Nat) : Bool :=
  if q = R.CLK_REF_MULT then w == 3
  else if q = R.CLKOUT_CTL_SETUP n then (if w = 1 then !s.setupAllowed else !s.outAllowed n)
  else if q = R.CLKOUT_DIV_DELAY n ∨ q = R.CLKOUT_DIV_DIV n then
    decide (t.get (R.CLKOUT_DIV_DIV n) ≤ t.get (R.CLKOUT_DIV_DELAY n))
  else false

/-- Trigger page: codes 13 to 15 of a line (R343), PHASE below PER (R344). -/
def State.refusesTrig (t : State) (m : Nat) (q : Fld) (w : Nat) : Bool :=
  if q = R.TRIG_LINE_SRC m then decide (12 < w)
  else if q = R.GEN_PHASE m ∨ q = R.GEN_PER m then decide (t.get (R.GEN_PER m) ≤ t.get (R.GEN_PHASE m))
  else false

/-- Leg pages: the checks of R105, and INJ without TEST. -/
def State.refusesLeg (s t : State) (n : Nat) (q : Fld) (w : Nat) : Bool :=
  if q = R.LEG_CTL_INJ n then !s.testActive
  else if q = R.LEG_CTL_EN n then w == 1 && (t.legCheck n s.tickU != 0 || !s.legRoom)
  else if q.addr = (R.LEG_DEAD n).addr ∨ q.addr = (R.LEG_MINPW n).addr ∨ q.addr = (R.LEG_SAMPLE n).addr ∨
      q = R.LEG_PER_PER_TICKS n then s.flag (R.LEG_CTL_EN n) && t.legCheck n s.tickU != 0
  else false

/-- Vertex: RUN in a switching mode (R260), the entry of the active bank (R267). -/
def State.refusesCe (s : State) (q : Fld) (w : Nat) : Bool :=
  if q = R.CE_CTL_RUN then w == 0 && s.switching
  else if q = R.CE_ENTRY_ENTRY1 then s.flag R.CE_CTL_RUN && s.get R.CE_PROG_BANK == 1
  else if q = R.CE_ENTRY_ENTRY0 then s.flag R.CE_CTL_RUN && s.get R.CE_PROG_BANK == 0
  else false

/-- Locus: the pair of lock thresholds, the setpoints while the grid-code engine writes them (R199), TEST (R194). -/
def State.refusesLocus (s t : State) (q : Fld) : Bool :=
  if q = R.LOCUS_LOCK_JUMP_TH ∨ q = R.LOCUS_LOCK_LOCK_TH then
    decide (t.get R.LOCUS_LOCK_JUMP_TH ≤ t.get R.LOCUS_LOCK_LOCK_TH)
  else if q.addr = R.LOCUS_PSET.addr ∨ q.addr = R.LOCUS_QSET.addr then s.flag R.GC_CTL_EN
  else if q = R.LOCUS_TEST_JUMP then !s.testActive
  else false

def descending : List Nat → Bool
  | a :: b :: l => decide (b < a) && descending (b :: l)
  | _ => true
/-- The used bounds are in order (R190). -/
def State.boundsOrdered (t : State) : Bool :=
  descending (t.usedUnder.map t.rtBound) && descending ((t.usedOver.map t.rtBound).reverse) &&
    decide (t.contLo < t.contHi)

/-- Grid code: points of the volt-var curve ascend, V1 lies below V2. -/
def State.refusesGc (t : State) (q : Fld) : Bool :=
  let vs := (List.range 4).map fun i => t.get (R.GC_VV_V i)
  if q.hi = 31 ∧ 0x40402060 ≤ q.addr ∧ q.addr < 0x40402070 then !descending vs.reverse
  else if q = R.GC_VW_V1 ∨ q = R.GC_VW_V2 then decide (t.get R.GC_VW_V2 ≤ t.get R.GC_VW_V1)
  else false

/-- Islanding: an even slot, COUNT at most WIN. -/
def State.refusesIsl (t : State) (q : Fld) (w : Nat) : Bool :=
  if q = R.ISL_SLOT_SLOT_MS then w % 2 == 1
  else if q = R.ISL_ACT_WIN ∨ q = R.ISL_ACT_COUNT then decide (t.get R.ISL_ACT_WIN < t.get R.ISL_ACT_COUNT)
  else false

/-- A Slope channel may be enabled (R216). -/
def State.refusesSlch (s t : State) (n : Nat) (q : Fld) (w : Nat) : Bool :=
  if q = R.SLCH_CFG_EN n then
    w == 1 &&
      ((s.slEnabled.any fun k => k != n && (s.get (R.SLCH_CFG_LEG k) == t.get (R.SLCH_CFG_LEG n) ||
          s.get (R.SLCH_CFG_TONE k) == t.get (R.SLCH_CFG_TONE n))) ||
        s.flag (R.LEG_CTL_OUTPUT (t.get (R.SLCH_CFG_LEG n))) ||
        decide (t.get (R.SLCH_VLIM_VMAX n) ≤ t.get (R.SLCH_VLIM_VMIN n)))
  else false

/-- Slot table: slots that do not exist in FINE (R277), PAIR (R279), TRIGEN and RING codes, channels not used (R274). -/
def State.refusesSeq (s t : State) (k : Nat) (q : Fld) (w : Nat) : Bool :=
  let c := k / 16
  let j := k % 16
  let tick := decide (k < 128)
  if q = R.ADC_SLOT_EN k then w == 1 && tick && s.fine && decide (14 ≤ j)
  else if q = R.ADC_SLOT_PAIR k then
    w == 1 && (!tick || c % 2 == 1 || s.flag (R.ADC_SLOT_EN (k + 16)) ||
      (decide (j < 15) && !s.flag (R.ADC_SLOT_PAIR (k + 1)) && s.flag (R.ADC_SLOT_EN (k + 17))))
  else if q = R.ADC_SLOT_TRIGEN k then w == 1 && tick
  else if q = R.ADC_SLOT_RING k then decide (12 ≤ w) && w != 15
  else if q = R.ADC_SLOT_INT k ∨ q = R.ADC_SLOT_CH k then t.flag (R.ADC_SLOT_INT k) && decide (13 < t.get (R.ADC_SLOT_CH k))
  else false

/-- Rotation page: coefficients while the rotation is enabled, the substitution without TEST (R296). -/
def State.refusesRot (s : State) (q : Fld) : Bool :=
  if q = R.ADC_TEST_SUBST ∨ q = R.ADC_TEST_SUBPOS then !s.testActive
  else decide (0x40503080 ≤ q.addr) && decide (q.addr < 0x405030C8) && s.flag R.ADC_ROT_CTL_EN

/-- Comparators: LO below HI (R288), the index of a blanking source, CMP_TEST without TEST. -/
def State.refusesCmp (s t : State) (m : Nat) (q : Fld) : Bool :=
  if q.addr = R.CMP_TEST.addr then !s.testActive
  else if q = R.TW_THR_HI m ∨ q = R.TW_THR_LO m then decide (t.get (R.TW_THR_HI m) ≤ t.get (R.TW_THR_LO m))
  else if q = R.TW_BLK_KIND m ∨ q = R.TW_BLK_INDEX m then
    t.get (R.TW_BLK_KIND m) == 2 && decide (19 < t.get (R.TW_BLK_INDEX m))
  else false

/-- The conditions of R351 for a drive. -/
def State.driveReady (s t : State) (d : Nat) : Bool :=
  let slots := [R.MD_SLOTS_IU d, R.MD_SLOTS_IV d, R.MD_SLOTS_VU d, R.MD_SLOTS_VV d, R.MD_SLOTS2_VW d]
  ((List.range 6).all fun i => s.flag (R.AUXT_CTL_SRC (6 * d + i)) && s.flag (R.AUXT_CTL_EN (6 * d + i))) &&
    (t.flag (R.MD_CFG_HALL d) || t.flag (R.MD_CFG_VMEAS d)) &&
    (!t.flag (R.MD_CFG_HALL d) || (List.range 6).all fun c => decide (1 ≤ s.hallFwd d (c + 1)) && decide (s.hallFwd d (c + 1) ≤ 6)) &&
    slots.all fun f =>
      let k := s.get f
      decide (128 ≤ k) && decide (k ≤ 191) && s.flag (R.ADC_SLOT_TRIGEN k) && s.get (R.ADC_SLOT_TRIG k) == t.get (R.MD_CFG_TRIG d)

/-- Drives: EN (R351), a speed target in a forbidden direction (R367). -/
def State.refusesMd (s t : State) (d : Nat) (q : Fld) (w : Nat) : Bool :=
  if q = R.MD_CFG_EN d then w == 1 && !s.driveReady t d
  else if q = R.MD_SPD_TGT d then
    (decide (0 < t.getI (R.MD_SPD_TGT d)) && s.forbids d true) || (decide (t.getI (R.MD_SPD_TGT d) < 0) && s.forbids d false)
  else false

/-- Choppers: VOFF below VON below VSHORT (R368). -/
def State.refusesBrk (s t : State) (k : Nat) (q : Fld) : Bool :=
  if q = R.BRK_THR_VON k then
    decide (t.get (R.BRK_THR_VON k) ≤ t.get (R.BRK_THR_VOFF k)) || decide (t.get (R.BRK_THR2_VSHORT k) ≤ t.get (R.BRK_THR_VON k))
  else if q = R.BRK_THR_VOFF k then
    decide (t.get (R.BRK_THR_VON k) ≤ t.get (R.BRK_THR_VOFF k)) ||
      (decide (t.get (R.BRK_THR2_VSHORT k) ≤ t.get (R.BRK_THR_VON k)) && decide (s.get (R.BRK_THR_VON k) ≤ t.get (R.BRK_THR_VOFF k)))
  else if q = R.BRK_THR2_VSHORT k then decide (t.get (R.BRK_THR2_VSHORT k) ≤ t.get (R.BRK_THR_VON k))
  else false

/-- Safety functions of a drive need its Hall sensors (R389). -/
def State.refusesSfn (s : State) (d : Nat) (q : Fld) (w : Nat) : Bool :=
  if q = R.SDRV_CFG_SLS_EN d ∨ q = R.SDRV_CFG_SLP_EN d ∨ q = R.SDRV_CFG_FORBID_POS d ∨ q = R.SDRV_CFG_FORBID_NEG d then
    w == 1 && !(s.flag (R.ARC_CFG_EN d) && s.flag (R.MD_CFG_HALL d))
  else false

/-- Origin: hysteresis pairs, TRIM while it is learned (R423, R432). -/
def State.refusesOrigin (s t : State) (q : Fld) : Bool :=
  if q = R.ORIGIN_HARV_HV_ON ∨ q = R.ORIGIN_HARV_HV_OFF then
    decide (t.get R.ORIGIN_HARV_HV_ON ≤ t.get R.ORIGIN_HARV_HV_OFF)
  else if q = R.ORIGIN_THERM_CYC_HI ∨ q = R.ORIGIN_THERM_CYC_LO then
    decide (t.getI R.ORIGIN_THERM_CYC_HI ≤ t.getI R.ORIGIN_THERM_CYC_LO)
  else if q = R.ORIGIN_RTC_TRIM then s.flag R.ORIGIN_CTL_AUTOTRIM
  else false

/-- A ring may be enabled (R44). -/
def State.ringFits (t : State) (r : Nat) : Bool :=
  let n := t.get (R.RING_CFG_LOG2N r)
  decide (4 ≤ n) && decide (n ≤ 16) && decide (t.get (R.RING_BASE_BASE r) * 64 + 2 ^ n * ringBytes r ≤ sramSize)

/-- The chapter that owns a register refuses a change of its field to w. -/
def State.refuses (s t : State) (r : RegRef) (f : FieldSpec) (w : Nat) : Bool :=
  let q : Fld := ⟨r.addr, f.hi, f.lo⟩
  if r.off < 0x040 then false else match r.kind with
  | .mode => s.refusesMode t q w
  | .clk => s.refusesClk t r.m q w
  | .trig => t.refusesTrig r.m q w
  | .leg => s.refusesLeg t r.pn q w
  | .link => if q = R.LINK_CTL_LOOP r.pn then w != 0 && !s.loopAllowed r.pn w else false
  | .ce => s.refusesCe q w
  | .locus => s.refusesLocus t q
  | .rt => decide (q.hi = 17 ∨ q.hi = 15) && decide (0x40401080 ≤ q.addr) && !t.boundsOrdered
  | .gc => t.refusesGc q
  | .isl => t.refusesIsl q w
  | .slch => s.refusesSlch t r.pn q w
  | .seq => s.refusesSeq t r.m q w
  | .rot => s.refusesRot q
  | .cmp => s.refusesCmp t r.m q
  | .meter => q.addr == R.METER_TEST.addr && !s.testActive
  | .md => s.refusesMd t r.pn q w
  | .brk => s.refusesBrk t r.m q
  | .sfn => s.refusesSfn r.m q w
  | .safe => q == R.SAFE_MRAM_WEN && w == 1 && s.sys.sealed
  | .origin => s.refusesOrigin t q
  | .ring => q == R.RING_CFG_EN (24 * r.pn + r.m) && w == 1 && !t.ringFits (24 * r.pn + r.m)
  | .eth => q == R.ETH_CTL_LOOP r.pn && !s.testActive
  | _ => false

end Sys2Proof.Machine
end

