-- ==== Sys2Proof/Machine/Hooks.lean ====
section
/-! DEFINITION. What a write does beyond the fields it stores: actions of WO, W1C and action fields, and the effects of
changed fields. -/

namespace Sys2Proof.Machine

open Sys2Proof

/-- Two actions in turn; the second part tells whether any was refused. -/
def andThen (q : State × Bool) (f : State → State × Bool) : State × Bool := ((f q.1).1, q.2 || (f q.1).2)
/-- An action that TEST must permit; without it, a write of 1 is refused. -/
def State.underTest (s : State) (asked : Bool) (f : State → State) : State × Bool :=
  if asked then (if s.testActive then (f s, false) else (s, true)) else (s, false)

/-! ## Clears that a chapter judges -/

/-- The bits of the W1C fields of a register that a chapter judges itself. -/
def judgedBits (r : RegRef) : Nat :=
  if r.off < 0x040 then 0 else
  match r.kind with
  | .auxt => if r.off = 0x54 then 0x40 else 0
  | .prot => 0xFF
  | .tripp => if r.off = 0x44 then 1 else if r.off = 0x184 then 6 else 1
  | .slch => 0x800
  | .md => 0x100
  | .brk => 0xC
  | .arc => 0x40
  | .clk => if r.off = 0x48 then 0x1FF else 0
  | _ => 0

/-- A latch of the supervisor is cleared: COUNT becomes 0, and the channel waits for a fresh prediction (R265). -/
def State.supClear (s : State) (mask : Nat) : State :=
  s.forEach (fun s c => (s.put (R.SUPCH_STAT_COUNT c) 0).setCe fun e =>
      { e with predNow := e.predNow.filter (· != c), predLast := e.predLast.filter (· != c) })
    ((List.range 32).filter fun c => mask.testBit c)

/-- The judged clears of a W1C write; `mask` holds the bits written 1. -/
def State.clearJudged (s : State) (r : RegRef) (mask : Nat) : State × Bool :=
  match r.kind with
  | .auxt => if mask.testBit 6 && s.flag (R.AUXT_STAT_CONF r.pn) then s.auxClearConf r.pn else (s, false)
  | .prot => s.clearLatch (8 * r.pn + r.m) mask
  | .tripp =>
    if r.off = 0x44 then (if mask.testBit 0 then (s.clearAllOff.1.safeSync, s.clearAllOff.2) else (s, false))
    else if r.off = 0x184 then s.clearPg mask
    else if mask.testBit 0 then s.clearChannel r.m else (s, false)
  | .slch => if mask.testBit 11 then s.slClear r.pn else (s, false)
  | .md => if mask.testBit 8 then s.drvClear r.pn else (s, false)
  | .brk => s.brkClear r.m mask
  | .arc =>
    if mask.testBit 6 && s.flag (R.ARC_STAT_HALLERR r.m) then
      if s.arcErrHolds r.m then (s, true) else (s.put (R.ARC_STAT_HALLERR r.m) 0, false)
    else (s, false)
  | .clk => s.monClear mask
  | _ => (s, false)

/-- What follows a plain clear: DROPS with OVF (R44), the watermark bits that still hold (R44), a supervisor
latch, an output whose ONFAIL is cleared (R398). `mask` holds the bits that went from 1 to 0. -/
def State.cleared (s : State) (r : RegRef) (mask : Nat) : State :=
  match r.kind with
  | .ring =>
    if r.off = 0x014 then s.forEach State.ringMark ((List.range 24).map fun m => 24 * r.pn + m)
    else if 0x040 ≤ r.off ∧ mask.testBit 0 = true then s.put (R.RING_STAT_DROPS (24 * r.pn + r.m)) 0 else s
  | .cesup => if r.off = 0x044 then s.supClear mask else s
  | .safe => if mask = 0 ∨ r.off < 0x040 then s else s.safeSync
  | _ => s

/-! ## Actions of write-only fields -/

/-- Vertex memories and tests (R261, R262, R267). -/
def State.actCe (s : State) (off v : Nat) : State × Bool :=
  match off with
  | 0x044 => (if v.testBit 16 then s.put R.CE_PROG_PEND 1 else s, false)
  | 0x05C =>
    let s := if v.testBit 0 then s.put R.CE_TIME_MAX 0 else s
    (if v.testBit 1 then s.setReg R.CE_SATCNT.addr 0 else s, false)
  | 0x064 => (s.setCe fun c => { c with pdataLo := v }, false)
  | 0x068 =>
    let a := s.get R.CE_PADDR_ADDR
    if s.flag R.CE_CTL_RUN && a / 8192 == s.get R.CE_PROG_BANK then (s, v != 0)
    else
      ((s.setProg a (s.ce.pdataLo + v * 2 ^ 32)).putCfg R.CE_PADDR_ADDR (a + 1), false)
  | 0x078 =>
    let a := s.get R.CE_DADDR_ADDR
    if s.flag R.CE_CTL_RUN then (s, v != 0)
    else ((s.hostData a v).putCfg R.CE_DADDR_ADDR (a + 1), false)
  | 0x084 =>
    let a := s.get R.CE_CADDR_ADDR
    if s.ce.coefQ.length < 32 then
      (((s.setCe fun c => { c with coefQ := c.coefQ ++ [(a, v)] }).bumpMod R.CE_CSTAT_QCOUNT).putCfg R.CE_CADDR_ADDR (a + 1), false)
    else if v = 0 then (s, false)
    else (((s.put R.CE_STAT_QFULL 1).irq .ce 0 3).emit 6 63 0x483 a, true)
  | 0x090 =>
    let a := s.get R.CE_DADDR_ADDR
    andThen (andThen (s.underTest (v.testBit 0) fun s => s.setCe fun c => { c with injFault := true })
      fun s => s.underTest (v.testBit 1) fun s => s.setCe fun c => { c with err1 := a :: c.err1.filter (· != a), planted := a :: c.planted.filter (· != a) })
      fun s => s.underTest (v.testBit 2) fun s => s.setCe fun c => { c with err2 := a :: c.err2.filter (· != a), planted := a :: c.planted.filter (· != a) }
  | _ => (s, false)

/-- Gnomon (R338 to R340, R346, R347). -/
def State.actTime (s : State) (off v : Nat) : State × Bool :=
  match off with
  | 0x040 => (if v.testBit 4 then s.put R.TIME_STAT_ARMED 1 else s, false)
  | 0x048 => (if v.testBit 0 then s.snapTime else s, false)
  | 0x060 => (s.setTime fun t => { t with measLo := v }, false)
  | 0x064 =>
    let o : Int := (BitVec.ofNat 64 (s.time.measLo + v * 2 ^ 32)).toInt
    (s.submitMeas 0 o, v != 0 && s.get R.TIME_CTL_SRC != 0)
  | 0x084 =>
    if s.testActive then (s.submitMeas 0 (4 * (BitVec.ofNat 32 v).toInt), false) else (s, v != 0)
  | _ => (s, false)

/-- A command written to MDd_CMD (R356, R371, R373). -/
def State.actMd (s : State) (d v : Nat) : State × Bool :=
  let op := v % 8
  andThen (if op = 0 then (s, false) else
      let q := s.drvCommand d op
      (q.1, !q.2))
    fun s => s.underTest (v.testBit 3) fun s => s.drvFault d 6

/-- The actions of the WO fields of a register; `v` is the word written. The second part tells whether one was
refused. -/
def State.act (s : State) (r : RegRef) (v : Nat) (atLatch : Bool) : State × Bool :=
  if r.off = 0x01C then (s.put (F.irqStat (pageBase r.kind r.pn)) (s.get (F.irqStat (pageBase r.kind r.pn)) ||| v), false)
  else if r.off < 0x040 then (s, false)
  else match r.kind with
  | .sys => if r.off = 0x058 then
      (if v = 0x5AA5 then (s.setSys fun y => { y with wdtUp := s.time.up }, false) else (s, v != 0)) else (s, false)
  | .com => if r.off = 0x044 then
      (s.forEach (fun s g => s.commitGroup g atLatch) ((List.range 16).filter fun g => v.testBit g), false) else (s, false)
  | .link => if r.off = 0x06C then
      let p := r.pn
      let s := if v.testBit 0 then s.setReg (R.LINK_CRC p).addr 0 else s
      let s := if v.testBit 1 then (s.setReg (R.LINK_PRBS0 p).addr 0).setReg (R.LINK_PRBS1 p).addr 0 else s
      let s := if v.testBit 2 then s.setReg (R.LINK_LOOPERR p).addr 0 else s
      (if v.testBit 3 then s.setReg (R.LINK_ERR p).addr 0 else s, false) else (s, false)
  | .prot => if r.off < 0x140 ∧ (r.off - 0x040) % 32 = 0 then
      s.underTest (v.testBit 1) fun s => s.latchLeg (8 * r.pn + r.m) 8 s.time.now else (s, false)
  | .isl => if r.off = 0x040 then s.underTest (v.testBit 4) State.islInject else (s, false)
  | .slope => if r.off = 0x050 then (s.scanRequest v, false)
    else if r.off = 0x054 then (if s.testActive then (s.slInject (v % 32), false) else (s, v % 32 != 0)) else (s, false)
  | .ce => s.actCe r.off v
  | .rot => if r.off = 0x060 then
      andThen (s.underTest (v.testBit 0) State.rotStepTest) fun s => s.underTest (v.testBit 1) State.rotCalErr else (s, false)
  | .macc => if r.off = 0x044 then (if v.testBit 0 then s.wackAll else s, false) else (s, false)
  | .time => s.actTime r.off v
  | .trig => if r.off = 0x080 then
      let ls := (List.range 16).filter fun x => v.testBit x && !s.time.lineDue.contains (x, s.time.now)
      (s.setTime fun t => { t with lineDue := t.lineDue ++ ls.map fun x => (x, t.now) }, false) else (s, false)
  | .md => if r.off = 0x080 then s.actMd r.pn v else (s, false)
  | .arc => if r.fam.off = 0x048 ∧ v.testBit 0 = true then (s.armHome r.m, false) else (s, false)
  | .safe => if r.off = 0x064 then
      andThen (s.underTest (v.testBit 0) fun s => s.setSafe fun e => { e with xinj := true })
        fun s => s.underTest (v.testBit 1) fun s => s.setSafe fun e => { e with oinj := true } else (s, false)
  | .sconn => if r.fam.off = 0x040 ∧ v.testBit 1 = true then (s.connRestart r.m, false) else (s, false)
  | .origin => if r.off = 0x05C then
      andThen (if v.testBit 1 then (if s.tlock then (s, true) else (s.rtcSet, false)) else (s, false))
        fun s => s.underTest (v.testBit 2) fun s => s.setOrg fun o => { o with tfail := true } else (s, false)
  | _ => (s, false)

/-! ## Effects of changed fields -/

/-- A ring whose CFG or indices were written. -/
def State.ringWritten (s0 s : State) (r : Nat) : State :=
  let en0 := s0.ringOn r
  let en := s.ringOn r
  let log := decide (32 ≤ r) && decide (r < 40)
  let s := if !en0 && en then
      let s := ((s.putCfg (R.RING_PIDX r) 0).putCfg (R.RING_CIDX r) 0).put (R.RING_STAT_CFGERR r) 0
      if log then s.reportLost r else s
    else if en0 && !en then
      if log then s.setLost r 0
      else if 16 ≤ r ∧ r < 32 ∧ r % 2 = 0 then s.abortRing ((r - 16) / 2) else s
    else if log && s.get (R.RING_CIDX r) != s0.get (R.RING_CIDX r) then s.reportLost r else s
  s.ringMark r

/-- A field of a leg written at its latch with another value than before: a late write (R88). -/
def State.lateIf (s : State) (s0 : State) (n : Nat) (f : Fld) (b : Nat) : State := if s.get f != s0.get f then s.lateWrite n b else s
/-- The effects of a write whose plain fields are stored: `s0` is the state before it, `v` the word written, and `atLatch` tells
whether the write takes effect at the latch of its page. A limit is pushed again where its register has changed (DESIGN CHOICE beside R154, log 248). -/
def State.after (s0 s : State) (r : RegRef) (v : Nat) (atLatch : Bool) : State :=
  let changed := s.reg r.addr != s0.reg r.addr
  let n := r.pn
  let m := r.m
  if r.off < 0x040 then s
  else match r.kind with
  | .sys => if r.off = 0x054 ∧ s0.flag R.SYS_WDT_CFG_EN = false ∧ s.flag R.SYS_WDT_CFG_EN = true then s.setSys fun y => { y with wdtUp := s.time.up } else s
  | .mode => if r.off = 0x040 then s.modeRequest (s.get R.SYS_MODE_REQ_TARGET)
    else if r.off = 0x044 then s.modWritten 15 else s
  | .clk =>
    if r.fam.off = 0x088 ∧ s.get (R.CLKOUT_CTL_SETUP m) ≠ s0.get (R.CLKOUT_CTL_SETUP m) then s.outState m
    else if r.fam.off = 0x084 ∧ changed = true then s.outDivider m
    else if r.fam.off = 0x080 ∧ s.get (R.CLKOUT_CFG_FMT m) ≠ s0.get (R.CLKOUT_CFG_FMT m) then s.outFormat m else s
  | .time => if r.off = 0x040 ∧ s.get R.TIME_CTL_SRC ≠ s0.get R.TIME_CTL_SRC then s.srcChanged else s
  | .leg =>
    let s := s.refreshLegCount
    if !atLatch then s
    else
      ((((s.lateIf s0 n (R.LEG_DUTY_DUTY n) 0).lateIf s0 n (R.LEG_DUTYL_DUTYL n) 1).lateIf s0 n (R.LEG_PER_PHASE n) 2).lateIf s0 n
        (R.LEG_FORCE_MODE n) 3).lateIf s0 n (R.LEG_CTL_SRC n) 4
  | .auxt =>
    let s := if s0.flag (R.AUXT_CTL_EN n) && !s.flag (R.AUXT_CTL_EN n) then s.auxDisable n else s
    let s := if !s0.flag (R.AUXT_CTL_SRC n) && s.flag (R.AUXT_CTL_SRC n) then s.auxSource n else s
    if !atLatch then s
    else
      let s := if s.get (R.AUXT_CMP_CMP n) != s0.get (R.AUXT_CMP_CMP n) || s.get (R.AUXT_PER_PER n) != s0.get (R.AUXT_PER_PER n) then
        s.auxLate n 5 else s
      if s.get (R.AUXT_FORCE_MODE n) != s0.get (R.AUXT_FORCE_MODE n) then s.auxLate n 3 else s
  | .link => if r.off = 0x040 then s.linkCtl n (s0.flag (R.LINK_CTL_EN n)) (s0.get (R.LINK_CTL_LOOP n)) (v.testBit 3) else s
  | .prot => if changed && decide (8 ≤ (r.off - 0x040) % 32) then s.startPush n m else s
  | .tripp =>
    if r.off = 0x180 then (if s.flag R.TRIP_PG_CFG_EN then s else s.put R.TRIP_PG_STAT_ON 0)
    else if changed && decide (0x080 ≤ r.off) then (s.evalChannel m).refreshTripped else s
  | .ce =>
    if r.off ≠ 0x040 then s
    else if !s0.flag R.CE_CTL_RUN && s.flag R.CE_CTL_RUN then s.setCe fun c => { c with firstRun := true }
    else if s0.flag R.CE_CTL_RUN && !s.flag R.CE_CTL_RUN then s.vHalt else s
  | .isl => if r.off = 0x044 then s.islEmpty else if r.off = 0x04C then s.islResize else s
  | .rot => if r.off = 0x040 ∧ v.testBit 0 = true ∧ s.flag R.ADC_ROT_CTL_EN = true then s.rotRestart else s
  | .cmp =>
    if r.off = 0x064 then (s.cmpTest (s0.reg R.CMP_TEST.addr).toNat).drvCompare
    else if r.off = 0x040 then (s.forEach State.cmpShow (List.range 48)).evalChannels.drvCompare
    else if r.fam.off = 0x080 then (s.cmpCfg m (s0.flag (R.TW_CFG_EN m))).drvCompare else s
  | .meter =>
    let t := s
    let s := if r.off = 0x040 ∧ s0.flag R.METER_CTL_HOLD = true ∧ t.flag R.METER_CTL_HOLD = false then s.unhold else s
    let s := if r.off = 0x064 ∧ s0.flag R.METER_TEST_INJ = false ∧ t.flag R.METER_TEST_INJ = true then s.injStart else s
    let s := if r.off = 0x080 ∧ v.testBit 0 = true ∧ t.flag R.METER_ROT_CTL_EN = true then s.mrotRestart else s
    if (r.off = 0x040 ∧ t.flag R.METER_CTL_EN ≠ s0.flag R.METER_CTL_EN) ∨ (changed = true ∧ (r.off = 0x044 ∨ r.off = 0x08C)) ∨
        (r.off = 0x084 ∧ t.get R.METER_ROT_CFG_REFTOL ≠ s0.get R.METER_ROT_CFG_REFTOL) then s.calWrite r.off true else s
  | .mcal => if changed then s.calWrite r.off false else s
  | .md =>
    if r.off ≠ 0x040 then s
    else if !s0.flag (R.MD_CFG_EN n) && s.flag (R.MD_CFG_EN n) then s.drvEnable n
    else if s0.flag (R.MD_CFG_EN n) && !s.flag (R.MD_CFG_EN n) then s.drvDisable n else s
  | .arc => if r.fam.off = 0x040 ∧ s0.flag (R.ARC_CFG_EN m) = false ∧ s.flag (R.ARC_CFG_EN m) = true then s.arcEnable m else s
  | .eth => if r.off = 0x040 ∧ s0.flag (R.ETH_CTL_EN n) = false ∧ s.flag (R.ETH_CTL_EN n) = true then s.ethEnable n else s
  | .brk =>
    if r.fam.off = 0x040 then
      (if s0.flag (R.BRK_CFG_EN m) && !s.flag (R.BRK_CFG_EN m) then s.brkRequest m false else s).brkCurrent m
    else s
  | .safe =>
    if r.off = 0x060 then (if s0.flag R.SAFE_MRAM_WEN = false ∧ s.flag R.SAFE_MRAM_WEN = true then s.wenOpened else s)
    else if r.off = 0x050 ∧ changed = true then s.safeSync else s
  | .origin => if r.off = 0x050 then s.put R.ORIGIN_ESTORE (satN 32 s.energyE)
    else if r.off = 0x05C then (if s0.flag R.ORIGIN_CTL_AUTOTRIM == s.flag R.ORIGIN_CTL_AUTOTRIM then s else s.learnSet (s.flag R.ORIGIN_CTL_AUTOTRIM))
    else if r.off = 0x04C ∧ s0.flag R.ORIGIN_CHG_EN = true ∧ s.flag R.ORIGIN_CHG_EN = false ∧
      s.get R.ORIGIN_STAT_CHGSTATE ≠ 5 then
      s.put R.ORIGIN_STAT_CHGSTATE 0 else s
  | .ring => s0.ringWritten s (24 * n + m)
  | _ => s

/-- What a refused field still does: CFGERR of a ring (R44), DIRREF of a drive (R367). -/
def State.refusedToo (s0 s : State) (r : RegRef) (v : Nat) : State :=
  match r.kind with
  | .ring => if (r.off - 0x040) % 32 = 4 ∧ v % 2 = 1 ∧ s0.ringOn (24 * r.pn + r.m) = false ∧ s.ringOn (24 * r.pn + r.m) = false then
      s.put (R.RING_STAT_CFGERR (24 * r.pn + r.m)) 1 else s
  | .md => if r.off = 0x084 then s.put (R.MD_STAT_DIRREF r.pn) 1 else s
  | _ => s

end Sys2Proof.Machine
end

