-- ==== Sys2Proof/Machine/Bus.lean ====
section
/-! DEFINITION. Register accesses (R27 to R39, R45, R472, R473): the judgement of a write, keys, and what a read returns. -/

namespace Sys2Proof.Machine

open Sys2Proof

/-! ## Ignored writes and unimplemented reads (R29, R32, R53, R54) -/

/-- SOURCE index of the block whose region holds an address of the register window (R26, R53). -/
def regionSrc (a : Nat) : Nat :=
  if a < 0x40010000 then 16 else if a < 0x40020000 then 15 else if a < 0x40100000 then 13 else if a < 0x40200000 then 4
  else if a < 0x40300000 then 19 else if a < 0x40400000 then 6 else if a < 0x40480000 then 7 else if a < 0x40500000 then 8
  else if a < 0x40580000 then 9 else if a < 0x40600000 then 2 else if a < 0x40700000 then 10 else if a < 0x40780000 then 11
  else if a < 0x40800000 then 12 else if a < 0x40900000 then 1 else if a < 0x40A00000 then 18 else if a < 0x40B00000 then 17
  else 14
/-- The register window (R26). -/
def inWindow (a : Nat) : Bool := decide (0x40000000 ≤ a) && decide (a < 0x40C00000)

/-- The access layout of DATA (R54). -/
def accessData (who : Who) (a : Nat) (write : Bool) (cause : Nat) : Nat :=
  a % 2 ^ 24 + who.id.val * 2 ^ 24 + write.toNat * 2 ^ 28 + cause * 2 ^ 29

/-- A write is ignored, in whole or in part (R32). -/
def State.ignored (s : State) (who : Who) (a cause : Nat) : State :=
  match findPage a with
  | none => s.emit (regionSrc a) 63 0x7C2 (accessData who a true cause)
  | some (k, n) =>
    let b := pageBase k n
    let s := ((s.bumpMod (F.refused b)).put (F.lastOffset b) (a - b)).put (F.lastCause b) cause
    (s.irq k n 30).emit k.info.src 63 0x7C2 (accessData who a true cause)

/-- A read of an unimplemented address (R29). A read of an implemented register changes nothing (R28). -/
def State.readUnimpl (s : State) (who : Who) (a : Nat) : State :=
  if s.initiates who = false then s else match findReg (a / 4 * 4) with
  | some _ => s
  | none =>
    match findPage a with
    | none => s.emit (regionSrc a) 63 0x7C1 (accessData who a false 5)
    | some (k, n) => (s.irq k n 29).emit k.info.src 63 0x7C1 (accessData who a false 5)

/-! ## Keys (R36) -/

/-- 1024 FABRIC clocks of 2 ns. -/
def keySpan : Nat := 8192
def State.keyOpen (s : State) (b : Nat) : Bool :=
  match Tab.get noStart s.sys.keys b with
  | none => false
  | some u => decide (s.time.up ≤ u + keySpan)
def State.setKey (s : State) (b : Nat) (u : Option Nat) : State :=
  s.setSys fun y => { y with keys := Tab.set noStart y.keys b u }

/-! ## The judgement of one field -/

/-- Action fields: RWK fields that always read 0 (R472). -/
def isAction (r : RegRef) (f : FieldSpec) : Bool :=
  f.acc == .rwk &&
    match r.kind with
    | .sys => r.off == 0x048
    | .macc => r.off == 0x040
    | .safe => r.off == 0x040
    | .sfn => r.off == 0x0C0
    | _ => false
/-- Fields that hold what is written. -/
def isPlain (r : RegRef) (f : FieldSpec) : Bool := (f.acc == .rw || f.acc == .rwk || f.acc == .rwt) && !isAction r f

/-- Sealed, and the boot ROM is not loading an image (R39, R473). -/
def State.sealedNow (s : State) : Bool := s.sys.sealed && !s.sys.loading

/-- A value is stricter than the held one, or equal (R38). -/
def stricter (m : Nat) (f : FieldSpec) (w held : Nat) : Bool :=
  let signed := fun (x : Nat) => (if x < 2 ^ (f.hi - f.lo) then (x : Int) else (x : Int) - 2 ^ (f.hi + 1 - f.lo))
  match f.tight with
  | none => true
  | some .lower => decide (w ≤ held)
  | some .higher => if f.perBit then w &&& held == held else decide (held ≤ w)
  | some .lowerS => decide (signed w ≤ signed held)
  | some .higherS => decide (signed held ≤ signed w)
  | some .byRegion => if m < 4 then decide (held ≤ w) else decide (w ≤ held)

/-- A lock of the register table holds. -/
def State.lockHolds (s : State) (r : RegRef) (l : Lock) : Bool :=
  match l with
  | .none => false
  | .sealed => s.sealedNow
  | .bit rel b v => (s.reg ((r.addr : Int) + rel).toNat).getLsbD b == v

/-- The value lies in the stated range. -/
def inRange (f : FieldSpec) (w : Nat) : Bool :=
  match f.range with
  | none => true
  | some (a, b) => decide (a ≤ w) && decide (w ≤ b)

/-- A plain field of a write, judged by its access code, its lock and its range: the value that it takes, and the cause if it
is refused. HC_REL only sets (R21). -/
def State.judgeField (s : State) (r : RegRef) (f : FieldSpec) (w : Nat) : Nat × Option Nat :=
  let held := fieldOf (s.reg r.addr) f.hi f.lo
  let late : Nat × Option Nat := if inRange f w && !s.lockHolds r f.lock then (w, none) else (held, some 7)
  if w = held then (held, none)
  else match f.acc with
  | .rwk => if s.keyOpen (pageBase r.kind r.pn) then late else (held, some 1)
  | .rwt => if s.sealedNow && !stricter r.m f w held then (if f.perBit then held ||| w else held, some 3) else late
  | _ =>
    if r.kind = .sys ∧ r.off = 0x050 then (held ||| w, if held &&& w = held then none else some 7) else late

/-! ## Polygon's latched fields (R87 to R89, R106) -/

def latchedField (r : RegRef) (f : FieldSpec) : Bool :=
  match r.kind with
  | .leg => (r.off == 0x040 && f.lo == 4) || (r.off == 0x044 && f.lo == 8) || r.off == 0x048 || r.off == 0x04C || r.off == 0x058
  | .auxt => r.off == 0x044 || r.off == 0x048 || r.off == 0x050
  | _ => false
/-- The field's group is held, so that its writes are staged. -/
def State.staging (s : State) (r : RegRef) (f : FieldSpec) : Bool := latchedField r f && s.held (s.groupOf r.kind r.pn)
def State.isStaged (s : State) (r : RegRef) (f : FieldSpec) : Bool :=
  s.poly.staged.any fun q => q.1 == r.addr && q.2.1 == f.hi && q.2.2.1 == f.lo

/-! ## A write of one register -/

/-- The fields of a write that take a new value, and the causes of those refused. -/
def State.judgeWrite (s : State) (r : RegRef) (v : Nat) : List (FieldSpec × Nat) × List Nat × Bool :=
  let js := (r.fam.fields.filter (isPlain r)).map fun f => (f, s.judgeField r f (fieldOf (BitVec.ofNat 32 v) f.hi f.lo))
  let t := s.setReg r.addr (js.foldl (fun w j => insertField w j.1.hi j.1.lo j.2.1) (s.reg r.addr))
  let bad := fun (j : FieldSpec × Nat × Option Nat) =>
    j.2.1 != fieldOf (s.reg r.addr) j.1.hi j.1.lo && s.refuses t r j.1 j.2.1
  let refused := js.filter bad
  (((js.filter fun j => !bad j && (j.2.2.isNone || j.2.1 != fieldOf (s.reg r.addr) j.1.hi j.1.lo)).map fun j => (j.1, j.2.1)),
    js.filterMap (·.2.2) ++ refused.map (fun _ => 7), !refused.isEmpty)

/-- The action fields of a write (R446, R315, R393, R394): the state, whether one took effect, and the causes. -/
def State.actKeyed (s : State) (r : RegRef) (v : Nat) : State × Bool × List Nat :=
  let w := (r.fam.fields.filter (isAction r)).map fun f => fieldOf (BitVec.ofNat 32 v) f.hi f.lo
  if w.all (· == 0) then (s, false, [])
  else if !s.keyOpen (pageBase r.kind r.pn) then (s, false, [1])
  else match r.kind with
  | .sys => (s.resetRequest 2, true, [])
  | .macc => if w = [0x5A] ∧ s.sys.sealed = false then (s.clearMeter, true, []) else (s, false, [7])
  | .safe => (s.plantRelease, true, [])
  | .sfn => (s.driveRelease (v % 8), true, [])
  | _ => (s, false, [])

/-- The bits of the W1C fields of a register. -/
def clearMask : List FieldSpec → Nat
  | [] => 0
  | f :: fs => (if f.acc = .w1c then (2 ^ (f.hi + 1 - f.lo) - 1) * 2 ^ f.lo else 0) + clearMask fs

def minCause : List Nat → Option Nat
  | [] => none
  | c :: cs => match minCause cs with
    | none => some c
    | some d => some (min c d)

/-- What a write does once its plain fields are stored, in the state `s`: the clears and actions of its other fields, the effects of
changed fields, the use of the key, and the ignored write that a refusal is (R32, R36). -/
def State.writeRest (s0 s : State) (who : Who) (r : RegRef) (v : Nat) (atLatch usesKey refused : Bool) (causes : List Nat) :
    State :=
  let hit := v &&& clearMask r.fam.fields &&& (s0.reg r.addr).toNat
  let plain := hit - (hit &&& judgedBits r)
  let s := if plain = 0 then s else (s.setReg r.addr (BitVec.ofNat 32 ((s.reg r.addr).toNat - plain))).cleared r plain
  let c := if hit &&& judgedBits r = 0 then (s, false) else s.clearJudged r (hit &&& judgedBits r)
  let w := c.1.act r v atLatch
  let s := s0.after w.1 r v atLatch
  let s := if refused then s0.refusedToo s r v else s
  let k := s.actKeyed r v
  let s := if usesKey || k.2.1 then k.1.setKey (pageBase r.kind r.pn) none else k.1
  match minCause (causes ++ (if c.2 || w.2 then [7] else []) ++ k.2.2) with
  | none => s
  | some cause => s.ignored who r.addr cause

/-- The bits of a SAFE parameter register that are written stand in both copies alike again (R11, R14). -/
def State.clearFlips (s : State) (r : RegRef) (fs : List FieldSpec) : State :=
  if r.kind.info.block ≠ PageKind.safe.info.block ∨ s.safe.flips.isEmpty ∨ fs.isEmpty then s else
    let w := fs.foldl (fun w f => insertField w f.hi f.lo 0) (Tab.get (fun _ => 0) s.safe.flips r.addr)
    { s with safe := { s.safe with flips := Tab.set (fun _ => 0) s.safe.flips r.addr w } }

/-- A write of one implemented register, field by field (R32, R36, R37, R40). -/
def State.writeFields (s0 : State) (who : Who) (r : RegRef) (v : Nat) (atLatch : Bool) : State :=
  let a := r.addr
  let j := s0.judgeWrite r v
  let stage := j.1.filter fun q => s0.staging r q.1 && (q.2 != fieldOf (s0.reg a) q.1.hi q.1.lo || s0.isStaged r q.1)
  let store := j.1.filter fun q => !s0.staging r q.1
  let usesKey := store.any fun q => q.1.acc == .rwk && q.2 != fieldOf (s0.reg a) q.1.hi q.1.lo
  let s := s0.setReg a (store.foldl (fun w q => insertField w q.1.hi q.1.lo q.2) (s0.reg a))
  let s := if store.isEmpty then s else { s with parFlip := s.parFlip.filter (· != a) }
  let s := s.clearFlips r (store.map (·.1))
  let s := stage.foldl (fun s q => s.stage4 (a, q.1.hi, q.1.lo, q.2)) s
  s0.writeRest s who r v atLatch usesKey j.2.2 j.2.1

/-- A write of KEY (R36). A machine-mode write of 0 is a wrong value: it closes the key and is an ignored write of cause 2 (DESIGN CHOICE beside
R472, log 246). -/
def State.writeKey (s : State) (who : Who) (r : RegRef) (v : Nat) : State :=
  let b := pageBase r.kind r.pn
  if v = 0xC5A1 then s.setKey b (some s.time.up) else (s.setKey b none).ignored who r.addr 2

/-- A write of a ring index (R45): the index that the device owns does not change, and the fill stays within the ring. -/
def State.writePointer (s : State) (who : Who) (r : RegRef) (v : Nat) : State :=
  let n := 24 * r.pn + r.m
  let isP := r.fam.off == 0x048
  if v = (s.reg r.addr).toNat then s
  else if isP != ringIsConsumer n then s.ignored who r.addr 6
  else
    let fill := if isP then (v + 2 ^ 32 - s.get (R.RING_CIDX n)) % 2 ^ 32 else (s.get (R.RING_PIDX n) + 2 ^ 32 - v) % 2 ^ 32
    if s.ringN n < fill then s.ignored who r.addr 6
    else s.ringWritten ({ s.setReg r.addr (BitVec.ofNat 32 v) with parFlip := s.parFlip.filter (· != r.addr) }) n

/-- An RWK field that the write would change. -/
def State.changesKeyed (s : State) (r : RegRef) (v : Nat) : Bool :=
  r.fam.fields.any fun f => f.acc == .rwk &&
    fieldOf (BitVec.ofNat 32 v) f.hi f.lo != (if isAction r f then 0 else fieldOf (s.reg r.addr) f.hi f.lo)

/-- A write asks for something: a plain field would change, a W1C bit is written 1, a WO or action field is written other than 0.
A write that asks for nothing is no ignored write, whoever makes it (R32, R472). -/
def State.asks (s : State) (r : RegRef) (v : Nat) : Bool :=
  r.fam.fields.any fun f => f.acc != .ro &&
    fieldOf (BitVec.ofNat 32 v) f.hi f.lo != (if isPlain r f then fieldOf (s.reg r.addr) f.hi f.lo else 0)

/-- An access with machine privilege: that of a core in machine mode, and every access of the debug port (R31). -/
def machineAccess (who : Who) : Bool := who.priv == .machine || who.id == 4

/-- A write of one 32-bit word to the register window by a core that makes accesses (R20, R21, R27, R29, R36, R45). The debug port has
machine privilege (R31). -/
def State.writeReg (s : State) (who : Who) (a bytes v : Nat) (atLatch : Bool) : State :=
  let machine := machineAccess who
  if s.initiates who = false then s else match findPage a with
  | none => s.ignored who a 5
  | some (k, n) =>
    let guarded := k.info.cls == 1 || a / 4 * 4 == pageBase k n + 8
    if bytes != 4 || a % 4 != 0 then s.ignored who a (if !machine && guarded then 4 else 5)
    else match findReg a with
    | none => s.ignored who a (if !machine && guarded then 4 else 5)
    | some r =>
      if !machine && guarded then (if s.asks r v then s.ignored who a 4 else s)
      else if r.off = 0x008 then s.writeKey who r v
      else if !machine && s.changesKeyed r v then s.ignored who a 4
      else if r.kind = .ring ∧ (r.fam.off = 0x048 ∨ r.fam.off = 0x04C) then s.writePointer who r v
      else s.writeFields who r v atLatch

/-- A bus write: 64 bits are two 32-bit accesses, the lower address first (R27). -/
def State.busWrite (s : State) (who : Who) (a bytes : Nat) (v : Dword) (atLatch : Bool) : State :=
  if bytes = 8 ∧ a % 8 = 0 then
    (s.writeReg who a 4 (v.toNat % 2 ^ 32) atLatch).writeReg who (a + 4) 4 (v.toNat / 2 ^ 32) atLatch
  else s.writeReg who a bytes (v.toNat % 2 ^ 32) atLatch

/-- A read-modify-write of one field: W1C, WO and action fields are written 0 (R30). -/
def State.fieldWrite (s : State) (who : Who) (f : Fld) (w : Nat) (atLatch : Bool) : State :=
  let held := match findReg f.addr with
    | none => 0
    | some r => ((r.fam.fields.filter (isPlain r)).foldl (fun x g => insertField x g.hi g.lo (fieldOf (s.reg f.addr) g.hi g.lo))
        (0 : Word)).toNat
  s.writeReg who f.addr 4 (insertField (BitVec.ofNat 32 held) f.hi f.lo w).toNat atLatch
/-- A write of a whole register. -/
def State.wordWrite (s : State) (who : Who) (f : Fld) (v : Word) : State := s.writeReg who f.addr 4 v.toNat false

/-! ## What a read returns -/

/-- A 32-bit read of the register window (R28, R29): stored words, and the fields that show other state. -/
def State.busRead (s : State) (a : Nat) : Word :=
  match findReg a with
  | none => 0
  | some r =>
    let b := pageBase r.kind r.pn
    let w := s.reg a
    if r.off = 0x00C then
      insertField (insertField (insertField w 2 2 (r.kind.info.cls == 1).toNat) 1 1 s.sys.sealed.toNat) 0 0 (s.keyOpen b).toNat
    else if r.off = 0x010 then insertField w 31 16 (s.scrubPasses r.kind r.pn)
    else if a = R.TRIP_PG_STAT.addr then insertField w 5 4 s.pgWin
    else if a = R.CE_PREAD_LO.addr then BitVec.ofNat 32 (s.ceProg (s.get R.CE_PADDR_ADDR))
    else if a = R.CE_PREAD_HI.addr then BitVec.ofNat 32 (s.ceProg (s.get R.CE_PADDR_ADDR) / 2 ^ 32)
    else if a = R.CE_DREAD.addr then BitVec.ofNat 32 (s.ceShown (s.get R.CE_DADDR_ADDR))
    else if a = R.CE_CREAD.addr then BitVec.ofNat 32 (s.ceCoef (s.get R.CE_CADDR_ADDR))
    else if r.kind = .ring ∧ r.fam.off = 0x050 then insertField w 2 2 (s.ringFull (24 * r.pn + r.m)).toNat
    else if a = R.METER_STAT.addr then
      insertField (insertField (insertField (insertField w R.METER_STAT_QPEND.hi R.METER_STAT_QPEND.lo
        (s.get R.METER_CFG_QUANT != s.meter.quant).toNat) R.METER_STAT_TLOCK.hi R.METER_STAT_TLOCK.lo s.tlock.toNat)
        R.METER_STAT_CALERR.hi R.METER_STAT_CALERR.lo s.meterCalErr.toNat) R.METER_STAT_TESTHOLD.hi R.METER_STAT_TESTHOLD.lo
        s.injOn.toNat
    else if a = R.PMU_STAT.addr then insertField w R.PMU_STAT_TLOCK.hi R.PMU_STAT_TLOCK.lo s.tlock.toNat
    else if a = R.SAFE_OUT_STAT.addr then insertField w 3 0 (maskOf 4 fun x => s.outToggles x s.time.up)
    else if a = R.ORIGIN_RTC_SECH.addr then insertField w 31 16 s.rtcSubk
    else if r.kind = .arc ∧ r.fam.off = (R.ARC_SPEED 0).addr % 4096 then BitVec.ofInt 32 (s.arcSpeed r.m)
    else w

/-- A read of the register window by its size (R27): 64 bits are two 32-bit accesses, the lower address first; a narrower read gives the
addressed bytes of the aligned word. -/
def State.busLoad (s : State) (a bytes : Nat) : Nat :=
  if bytes = 8 ∧ a % 8 = 0 then (s.busRead a).toNat + (s.busRead (a + 4)).toNat * 2 ^ 32
  else (s.busRead (a / 4 * 4)).toNat / 2 ^ (8 * (a % 4)) % 2 ^ (8 * bytes)

end Sys2Proof.Machine
end

