-- ==== Sys2Proof/Machine/Writes.lean ====
section
/-! DEFINITION. The commands that are register writes. A command that names one field is a read-modify-write of it (R30); a
command that names a register writes the whole word. -/

namespace Sys2Proof.Machine

open Sys2Proof

/-! ## Accesses, keys and rings -/

/-- KEY (R36): a write of the KEY register of the page that holds an address. -/
def execKey (who : Who) (addr : Nat) (v : Word) (s : State) : Host.Outcome State Fault Refusal :=
  if inWindow addr then .next (s.whenAlive fun s => s.writeReg who (addr / 4096 * 4096 + 0x008) 4 v.toNat false)
  else .fault .noSuchAddress

/-- KEY_EXPIRY (R36): the key of a page closes 1024 FABRIC clocks after the write that opened it. -/
def execKeyExpiry (addr : Nat) (s : State) : Host.Outcome State Fault Refusal :=
  .next (s.whenAlive fun s =>
    let b := addr / 4096 * 4096
    match Tab.get noStart s.sys.keys b with
    | none => s
    | some u => (s.advUp (u + keySpan)).setKey b none)

/-- REGISTER_WRITE (R27, R32): a bus write of the register window. -/
def execRegisterWrite (who : Who) (addr bytes : Nat) (v : Dword) (atLatch : Bool) (s : State) :
    Host.Outcome State Fault Refusal :=
  if inWindow addr then .next (s.whenAlive fun s => s.busWrite who addr bytes v atLatch) else .fault .noSuchAddress

/-- ACCESS_UNIMPL (R29): a read of an address of the window that no register has. -/
def execAccessUnimpl (who : Who) (addr : Nat) (s : State) : Host.Outcome State Fault Refusal :=
  if inWindow addr then .next (s.whenAlive fun s => s.readUnimpl who addr) else .fault .noSuchAddress

/-- IRQ_FORCE (R35): a write of IRQ_FORCE of the page that holds an address. -/
def execIrqForce (who : Who) (addr : Nat) (v : Word) (s : State) : Host.Outcome State Fault Refusal :=
  if inWindow addr then .next (s.whenAlive fun s => s.writeReg who (addr / 4096 * 4096 + 0x01C) 4 v.toNat false)
  else .fault .noSuchAddress

/-- RING_ENABLE (R44): a write of CFG with EN 1. -/
def execRingEnable (who : Who) (ring : Fin 48) (v : Word) (s : State) : Host.Outcome State Fault Refusal :=
  .next (s.whenAlive fun s => s.wordWrite who (R.RING_CFG ring.val) (v ||| 1#32))

/-- RING_DISABLE (R44, R50): a write of CFG with EN 0. -/
def execRingDisable (who : Who) (ring : Fin 48) (v : Word) (s : State) : Host.Outcome State Fault Refusal :=
  .next (s.whenAlive fun s => s.wordWrite who (R.RING_CFG ring.val) (v &&& ~~~1#32))

/-- RING_POINTER_WRITE (R45): a write of the index that firmware owns. -/
def execRingPointerWrite (who : Who) (ring : Fin 48) (v : Word) (s : State) : Host.Outcome State Fault Refusal :=
  .next (s.whenAlive fun s =>
    s.wordWrite who (if ringIsConsumer ring.val then R.RING_PIDX ring.val else R.RING_CIDX ring.val) v)

/-! ## SYS: modes, modifiers, profile, watchdog and host cores -/

/-- SWRST (R446): a write of SWRST 1. -/
def execSwrst (who : Who) (s : State) : Host.Outcome State Fault Refusal :=
  .next (s.whenAlive fun s => s.fieldWrite who R.SYS_RST_CTL_SWRST 1 false)

/-- MODE_REQUEST_STANDBY (R71, R72): a write of TARGET STANDBY. -/
def execModeRequestStandby (who : Who) (s : State) : Host.Outcome State Fault Refusal :=
  .next (s.whenAlive fun s => s.fieldWrite who R.SYS_MODE_REQ_TARGET mSTANDBY false)

/-- MODE_REQUEST_FOLLOW (R71, R72): a write of TARGET FOLLOW. -/
def execModeRequestFollow (who : Who) (s : State) : Host.Outcome State Fault Refusal :=
  .next (s.whenAlive fun s => s.fieldWrite who R.SYS_MODE_REQ_TARGET mFOLLOW false)

/-- MODE_REQUEST_FORM (R71, R72): a write of TARGET FORM. -/
def execModeRequestForm (who : Who) (s : State) : Host.Outcome State Fault Refusal :=
  .next (s.whenAlive fun s => s.fieldWrite who R.SYS_MODE_REQ_TARGET mFORM false)

/-- MODE_REQUEST_HALT (R71, R72): a write of TARGET HALT. -/
def execModeRequestHalt (who : Who) (s : State) : Host.Outcome State Fault Refusal :=
  .next (s.whenAlive fun s => s.fieldWrite who R.SYS_MODE_REQ_TARGET mHALT false)

/-- MODE_REQUEST_INVALID (R72): a write of another TARGET, which the boundary refuses. -/
def execModeRequestInvalid (who : Who) (target : Fin 8) (s : State) : Host.Outcome State Fault Refusal :=
  .next (s.whenAlive fun s => s.fieldWrite who R.SYS_MODE_REQ_TARGET target.val false)

/-- CURTAIL (R77): a write of the request bit of the modifier. -/
def execCurtail (who : Who) (on : Bool) (s : State) : Host.Outcome State Fault Refusal :=
  .next (s.whenAlive fun s => s.fieldWrite who R.SYS_MODE_MOD_CURTAIL on.toNat false)

/-- NIGHTVAR (R77): a write of the request bit of the modifier. -/
def execNightvar (who : Who) (on : Bool) (s : State) : Host.Outcome State Fault Refusal :=
  .next (s.whenAlive fun s => s.fieldWrite who R.SYS_MODE_MOD_NIGHTVAR on.toNat false)

/-- TEST (R77): a write of the request bit of the modifier. -/
def execTest (who : Who) (on : Bool) (s : State) : Host.Outcome State Fault Refusal :=
  .next (s.whenAlive fun s => s.fieldWrite who R.SYS_MODE_MOD_TEST on.toNat false)

/-- LEGACY (R77): a write of the request bit of the modifier. -/
def execLegacy (who : Who) (on : Bool) (s : State) : Host.Outcome State Fault Refusal :=
  .next (s.whenAlive fun s => s.fieldWrite who R.SYS_MODE_MOD_LEGACY on.toNat false)

/-- PROFILE_REQUEST (R62): a write of PROFILE. -/
def execProfileRequest (who : Who) (fine : Bool) (s : State) : Host.Outcome State Fault Refusal :=
  .next (s.whenAlive fun s => s.fieldWrite who R.SYS_TICK_CFG_PROFILE fine.toNat false)

/-- WDOG_KICK (R449): a write of KICK. -/
def execWdogKick (who : Who) (v : Word) (s : State) : Host.Outcome State Fault Refusal :=
  .next (s.whenAlive fun s => s.wordWrite who R.SYS_WDT_KICK v)

/-- HC_RELEASE (R21): a write of HC_REL, whose bits can only be set. -/
def execHcRelease (who : Who) (v : Word) (s : State) : Host.Outcome State Fault Refusal :=
  .next (s.whenAlive fun s => s.wordWrite who R.SYS_HC_REL v)

/-! ## Polygon and LINK -/

/-- COMMIT (R88, R89): a write of the COMMIT bit of a group. -/
def execCommit (who : Who) (group : Fin 16) (atLatch : Bool) (s : State) : Host.Outcome State Fault Refusal :=
  .next (s.whenAlive fun s => s.writeReg who R.COM_COMMIT.addr 4 (2 ^ group.val) atLatch)

/-- LEG_ENABLE (R105): a write of EN of a leg timer. -/
def execLegEnable (who : Who) (leg : Fin 64) (en : Bool) (s : State) : Host.Outcome State Fault Refusal :=
  .next (s.whenAlive fun s => s.fieldWrite who (R.LEG_CTL_EN leg.val) en.toNat false)

/-- LINK_ENABLE (R135): a write of EN of a port. -/
def execLinkEnable (who : Who) (port : Fin 8) (en : Bool) (s : State) : Host.Outcome State Fault Refusal :=
  .next (s.whenAlive fun s => s.fieldWrite who (R.LINK_CTL_EN port.val) en.toNat false)

/-- RETRAIN (R135): a write of RETRAIN 1. -/
def execRetrain (who : Who) (port : Fin 8) (s : State) : Host.Outcome State Fault Refusal :=
  .next (s.whenAlive fun s => s.fieldWrite who (R.LINK_CTL_RETRAIN port.val) 1 false)

/-- LOOP_NEAR_SERIAL (R144): a write of LOOP 1. -/
def execLoopNearSerial (who : Who) (port : Fin 8) (s : State) : Host.Outcome State Fault Refusal :=
  .next (s.whenAlive fun s => s.fieldWrite who (R.LINK_CTL_LOOP port.val) 1 false)

/-- LOOP_NEAR_PARALLEL (R144): a write of LOOP 2. -/
def execLoopNearParallel (who : Who) (port : Fin 8) (s : State) : Host.Outcome State Fault Refusal :=
  .next (s.whenAlive fun s => s.fieldWrite who (R.LINK_CTL_LOOP port.val) 2 false)

/-- LOOP_FAR_END (R144): a write of LOOP 3. -/
def execLoopFarEnd (who : Who) (port : Fin 8) (s : State) : Host.Outcome State Fault Refusal :=
  .next (s.whenAlive fun s => s.fieldWrite who (R.LINK_CTL_LOOP port.val) 3 false)

/-- PRBS31_TEST (R143): a write of LOOP 4. -/
def execPrbs31Test (who : Who) (port : Fin 8) (s : State) : Host.Outcome State Fault Refusal :=
  .next (s.whenAlive fun s => s.fieldWrite who (R.LINK_CTL_LOOP port.val) 4 false)

/-- LOOP_END (R135): a write of LOOP 0. -/
def execLoopEnd (who : Who) (port : Fin 8) (s : State) : Host.Outcome State Fault Refusal :=
  .next (s.whenAlive fun s => s.fieldWrite who (R.LINK_CTL_LOOP port.val) 0 false)

/-- LINK_CNTCLR_CRC (R147): a write of CNTCLR 1. -/
def execLinkCntclrCrc (who : Who) (port : Fin 8) (s : State) : Host.Outcome State Fault Refusal :=
  .next (s.whenAlive fun s => s.wordWrite who (R.LINK_CNTCLR port.val) 1)

/-- LINK_CNTCLR_PRBS (R147): a write of CNTCLR 2. -/
def execLinkCntclrPrbs (who : Who) (port : Fin 8) (s : State) : Host.Outcome State Fault Refusal :=
  .next (s.whenAlive fun s => s.wordWrite who (R.LINK_CNTCLR port.val) 2)

/-- LINK_CNTCLR_LOOPERR (R147): a write of CNTCLR 4. -/
def execLinkCntclrLooperr (who : Who) (port : Fin 8) (s : State) : Host.Outcome State Fault Refusal :=
  .next (s.whenAlive fun s => s.wordWrite who (R.LINK_CNTCLR port.val) 4)

/-- LINK_CNTCLR_ERR (R147): a write of CNTCLR 8. -/
def execLinkCntclrErr (who : Who) (port : Fin 8) (s : State) : Host.Outcome State Fault Refusal :=
  .next (s.whenAlive fun s => s.wordWrite who (R.LINK_CNTCLR port.val) 8)

/-! ## Protection, islanding and Slope -/

/-- TRIP_CLEAR (R163): a write of 1s to the latch of a leg. -/
def execTripClear (who : Who) (port : Fin 8) (leg : Fin 8) (v : Word) (s : State) : Host.Outcome State Fault Refusal :=
  .next (s.whenAlive fun s => s.wordWrite who (R.PROT_LATCH port.val leg.val) v)

/-- INJ (R165): a write of INJ 1. -/
def execInj (who : Who) (port : Fin 8) (leg : Fin 8) (s : State) : Host.Outcome State Fault Refusal :=
  .next (s.whenAlive fun s => s.fieldWrite who (R.PROT_CFG_INJ port.val leg.val) 1 false)

/-- CHANNEL_CLEAR (R163): a write of 1 to the latch of a trip channel, or to ALLOFF (8). -/
def execChannelClear (who : Who) (which : Fin 9) (s : State) : Host.Outcome State Fault Refusal :=
  .next (s.whenAlive fun s => s.wordWrite who (if which.val = 8 then R.TRIP_STAT else R.TCH_STAT which.val) 1)

/-- ISL_INJ (R214): a write of INJ 1. -/
def execIslInj (who : Who) (s : State) : Host.Outcome State Fault Refusal :=
  .next (s.whenAlive fun s => s.fieldWrite who R.ISL_CTL_INJ 1 false)

/-- SCAN_REQUEST (R229): a write of SCANREQ. -/
def execScanRequest (who : Who) (v : Word) (s : State) : Host.Outcome State Fault Refusal :=
  .next (s.whenAlive fun s => s.wordWrite who R.SLOPE_SCANREQ v)

/-- STRING_FAULT_CLEAR (R234): a write of 1 to FAULT of a channel. -/
def execStringFaultClear (who : Who) (ch : Fin 32) (s : State) : Host.Outcome State Fault Refusal :=
  .next (s.whenAlive fun s => s.wordWrite who (R.SLCH_STAT ch.val) 0x800)

/-- SLOPE_TEST_FAULT (R233): a write of TEST.FAULT. -/
def execSlopeTestFault (who : Who) (ch : Fin 32) (s : State) : Host.Outcome State Fault Refusal :=
  .next (s.whenAlive fun s => s.wordWrite who R.SLOPE_TEST (BitVec.ofNat 32 ch.val))

/-! ## Vertex -/

/-- RUN (R260): a write of RUN. -/
def execRun (who : Who) (on : Bool) (s : State) : Host.Outcome State Fault Refusal :=
  .next (s.whenAlive fun s => s.fieldWrite who R.CE_CTL_RUN on.toNat false)

/-- SWAP (R261): a write of SWAP 1. -/
def execSwap (who : Who) (s : State) : Host.Outcome State Fault Refusal :=
  .next (s.whenAlive fun s => s.fieldWrite who R.CE_PROG_SWAP 1 false)

/-- PROGRAM_WORD_WRITE (R267): a write of PDATA_HI. -/
def execProgramWordWrite (who : Who) (v : Word) (s : State) : Host.Outcome State Fault Refusal :=
  .next (s.whenAlive fun s => s.wordWrite who R.CE_PDATA_HI v)

/-- DATA_WORD_WRITE (R261, R267): a write of DDATA. -/
def execDataWordWrite (who : Who) (v : Word) (s : State) : Host.Outcome State Fault Refusal :=
  .next (s.whenAlive fun s => s.wordWrite who R.CE_DDATA v)

/-- COEF_WRITE (R262, R267): a write of CDATA. -/
def execCoefWrite (who : Who) (v : Word) (s : State) : Host.Outcome State Fault Refusal :=
  .next (s.whenAlive fun s => s.wordWrite who R.CE_CDATA v)

/-- CLR_MAX (R267): a write of CLR bit 0. -/
def execClrMax (who : Who) (s : State) : Host.Outcome State Fault Refusal :=
  .next (s.whenAlive fun s => s.wordWrite who R.CE_CLR 1)

/-- CLR_SATCNT (R267): a write of CLR bit 1. -/
def execClrSatcnt (who : Who) (s : State) : Host.Outcome State Fault Refusal :=
  .next (s.whenAlive fun s => s.wordWrite who R.CE_CLR 2)

/-- ECC1 (R267): a write of TEST.ECC1. -/
def execEcc1 (who : Who) (s : State) : Host.Outcome State Fault Refusal :=
  .next (s.whenAlive fun s => s.wordWrite who R.CE_TEST 2)

/-- ECC2 (R267): a write of TEST.ECC2. -/
def execEcc2 (who : Who) (s : State) : Host.Outcome State Fault Refusal :=
  .next (s.whenAlive fun s => s.wordWrite who R.CE_TEST 4)

/-- CE_TEST_FAULT (R267): a write of TEST.FAULT. -/
def execCeTestFault (who : Who) (s : State) : Host.Outcome State Fault Refusal :=
  .next (s.whenAlive fun s => s.wordWrite who R.CE_TEST 1)

/-- SUP_LATCH_CLEAR (R265): a write of 1s to the supervisor latches. -/
def execSupLatchClear (who : Who) (v : Word) (s : State) : Host.Outcome State Fault Refusal :=
  .next (s.whenAlive fun s => s.wordWrite who R.CE_SUP_FLT v)

/-! ## Acquisition, metering and time -/

/-- TRIG_SW (R343): a write of TRIG_SW. -/
def execTrigSw (who : Who) (v : Word) (s : State) : Host.Outcome State Fault Refusal :=
  .next (s.whenAlive fun s => s.wordWrite who R.TRIG_SW v)

/-- STEP (R296): a write of TEST.STEP. -/
def execAdcStep (who : Who) (s : State) : Host.Outcome State Fault Refusal :=
  .next (s.whenAlive fun s => s.fieldWrite who R.ADC_TEST_STEP 1 false)

/-- CALERR (R296): a write of TEST.CALERR. -/
def execCalerr (who : Who) (s : State) : Host.Outcome State Fault Refusal :=
  .next (s.whenAlive fun s => s.fieldWrite who R.ADC_TEST_CALERR 1 false)

/-- METER_CLEAR (R315): a write of ACC_CLR. -/
def execMeterClear (who : Who) (v : Word) (s : State) : Host.Outcome State Fault Refusal :=
  .next (s.whenAlive fun s => s.wordWrite who R.METER_ACC_CLR v)

/-- WACK (R312): a write of WACK 1. -/
def execWack (who : Who) (s : State) : Host.Outcome State Fault Refusal :=
  .next (s.whenAlive fun s => s.wordWrite who R.METER_ACC_WACK 1)

/-- METER_HOLD (R314): a write of HOLD. -/
def execMeterHold (who : Who) (on : Bool) (s : State) : Host.Outcome State Fault Refusal :=
  .next (s.whenAlive fun s => s.fieldWrite who R.METER_CTL_HOLD on.toNat false)

/-- METER_TEST_INJ (R324): a write of METER_TEST. -/
def execMeterTestInj (who : Who) (v : Word) (s : State) : Host.Outcome State Fault Refusal :=
  .next (s.whenAlive fun s => s.wordWrite who R.METER_TEST v)

/-- TIME_MEASUREMENT (R339): a write of MEAS_HI, which submits the offset. -/
def execTimeMeasurement (who : Who) (v : Word) (s : State) : Host.Outcome State Fault Refusal :=
  .next (s.whenAlive fun s => s.wordWrite who R.TIME_MEAS_HI v)

/-- MEASINJ (R346): a write of TIME_TEST. -/
def execMeasinj (who : Who) (v : Word) (s : State) : Host.Outcome State Fault Refusal :=
  .next (s.whenAlive fun s => s.wordWrite who R.TIME_TEST v)

/-- REARM (R340): a write of REARM 1. -/
def execRearm (who : Who) (s : State) : Host.Outcome State Fault Refusal :=
  .next (s.whenAlive fun s => s.fieldWrite who R.TIME_CTL_REARM 1 false)

/-- SRC_SELECT (R338): a write of SRC. -/
def execSrcSelect (who : Who) (src : Fin 4) (s : State) : Host.Outcome State Fault Refusal :=
  .next (s.whenAlive fun s => s.fieldWrite who R.TIME_CTL_SRC src.val false)

/-- SNAP (R347): a write of SNAP 1. -/
def execSnap (who : Who) (s : State) : Host.Outcome State Fault Refusal :=
  .next (s.whenAlive fun s => s.wordWrite who R.TIME_SNAP 1)

/-! ## Tangent and Arc -/

/-- START (R356): a write of OP 1. -/
def execStart (who : Who) (drive : Fin 3) (s : State) : Host.Outcome State Fault Refusal :=
  .next (s.whenAlive fun s => s.fieldWrite who (R.MD_CMD_OP drive.val) 1 false)

/-- STOP (R366): a write of OP 2. -/
def execStop (who : Who) (drive : Fin 3) (s : State) : Host.Outcome State Fault Refusal :=
  .next (s.whenAlive fun s => s.fieldWrite who (R.MD_CMD_OP drive.val) 2 false)

/-- COAST (R356): a write of OP 3. -/
def execCoast (who : Who) (drive : Fin 3) (s : State) : Host.Outcome State Fault Refusal :=
  .next (s.whenAlive fun s => s.fieldWrite who (R.MD_CMD_OP drive.val) 3 false)

/-- POSITION (R371): a write of OP 4. -/
def execPosition (who : Who) (drive : Fin 3) (s : State) : Host.Outcome State Fault Refusal :=
  .next (s.whenAlive fun s => s.fieldWrite who (R.MD_CMD_OP drive.val) 4 false)

/-- STOW (R371): a write of OP 5. -/
def execStow (who : Who) (drive : Fin 3) (s : State) : Host.Outcome State Fault Refusal :=
  .next (s.whenAlive fun s => s.fieldWrite who (R.MD_CMD_OP drive.val) 5 false)

/-- HOME (R371): a write of OP 6. -/
def execHome (who : Who) (drive : Fin 3) (s : State) : Host.Outcome State Fault Refusal :=
  .next (s.whenAlive fun s => s.fieldWrite who (R.MD_CMD_OP drive.val) 6 false)

/-- DRV_INJ (R373): a write of INJ 1. -/
def execDrvInj (who : Who) (drive : Fin 3) (s : State) : Host.Outcome State Fault Refusal :=
  .next (s.whenAlive fun s => s.fieldWrite who (R.MD_CMD_INJ drive.val) 1 false)

/-- DRIVE_ENABLE (R351): a write of EN of a drive. -/
def execDriveEnable (who : Who) (drive : Fin 3) (en : Bool) (s : State) : Host.Outcome State Fault Refusal :=
  .next (s.whenAlive fun s => s.fieldWrite who (R.MD_CFG_EN drive.val) en.toNat false)

/-- SPEED_TARGET_WRITE (R367): a write of SPD_TGT. -/
def execSpeedTargetWrite (who : Who) (drive : Fin 3) (v : Word) (s : State) : Host.Outcome State Fault Refusal :=
  .next (s.whenAlive fun s => s.wordWrite who (R.MD_SPD_TGT drive.val) v)

/-- DRIVE_FAULT_CLEAR (R378): a write of 1 to FAULT. -/
def execDriveFaultClear (who : Who) (drive : Fin 3) (s : State) : Host.Outcome State Fault Refusal :=
  .next (s.whenAlive fun s => s.wordWrite who (R.MD_STAT drive.val) 0x100)

/-- BRK_FAULT_CLEAR (R369): a write of 1s to OPEN and STUCK. -/
def execBrkFaultClear (who : Who) (k : Fin 2) (v : Word) (s : State) : Host.Outcome State Fault Refusal :=
  .next (s.whenAlive fun s => s.wordWrite who (R.BRK_STAT k.val) v)

/-- ARC_HOME (R377): a write of HOME 1. -/
def execArcHome (who : Who) (chan : Fin 3) (s : State) : Host.Outcome State Fault Refusal :=
  .next (s.whenAlive fun s => s.fieldWrite who (R.ARC_HOME_HOME chan.val) 1 false)

/-! ## Secant -/

/-- RELEASE (R393): a write of RELEASE 1. -/
def execRelease (who : Who) (s : State) : Host.Outcome State Fault Refusal :=
  .next (s.whenAlive fun s => s.fieldWrite who R.SAFE_CTL_RELEASE 1 false)

/-- DRIVE_RELEASE (R394): a write of DRV_REL. -/
def execDriveRelease (who : Who) (v : Word) (s : State) : Host.Outcome State Fault Refusal :=
  .next (s.whenAlive fun s => s.wordWrite who R.SAFE_DRV_REL v)

/-- OUTPUT_REQUEST (R398): a write of OUT_REQ. -/
def execOutputRequest (who : Who) (v : Word) (s : State) : Host.Outcome State Fault Refusal :=
  .next (s.whenAlive fun s => s.wordWrite who R.SAFE_OUT_REQ v)

/-- CONN_RESTART (R404): a write of RESTART 1. -/
def execConnRestart (who : Who) (conn : Fin 2) (s : State) : Host.Outcome State Fault Refusal :=
  .next (s.whenAlive fun s => s.fieldWrite who (R.SCONN_CFG_RESTART conn.val) 1 false)

/-- WEN (R408): a write of WEN. -/
def execWen (who : Who) (on : Bool) (s : State) : Host.Outcome State Fault Refusal :=
  .next (s.whenAlive fun s => s.fieldWrite who R.SAFE_MRAM_WEN on.toNat false)

/-- XINJ (R411): a write of TEST.XINJ. -/
def execXinj (who : Who) (s : State) : Host.Outcome State Fault Refusal :=
  .next (s.whenAlive fun s => s.wordWrite who R.SAFE_TEST 1)

/-- OINJ (R411): a write of TEST.OINJ. -/
def execOinj (who : Who) (s : State) : Host.Outcome State Fault Refusal :=
  .next (s.whenAlive fun s => s.wordWrite who R.SAFE_TEST 2)

/-! ## Origin and the output clocks -/

/-- RTCSET (R422): a write of RTCSET 1. -/
def execRtcset (who : Who) (s : State) : Host.Outcome State Fault Refusal :=
  .next (s.whenAlive fun s => s.fieldWrite who R.ORIGIN_CTL_RTCSET 1 false)

/-- TFAIL (R434): a write of TFAIL 1. -/
def execTfail (who : Who) (s : State) : Host.Outcome State Fault Refusal :=
  .next (s.whenAlive fun s => s.fieldWrite who R.ORIGIN_CTL_TFAIL 1 false)

/-- CLOCK_OUTPUT_SETUP (R442): a write of SETUP. -/
def execClockOutputSetup (who : Who) (out : Fin 4) (setup : Bool) (s : State) : Host.Outcome State Fault Refusal :=
  .next (s.whenAlive fun s => s.fieldWrite who (R.CLKOUT_CTL_SETUP out.val) setup.toNat false)

/-- CLOCK_FORMAT_CHANGE (R443): a write of FMT. -/
def execClockFormatChange (who : Who) (out : Fin 4) (fmt : Fin 4) (s : State) : Host.Outcome State Fault Refusal :=
  .next (s.whenAlive fun s => s.fieldWrite who (R.CLKOUT_CFG_FMT out.val) fmt.val false)

end Sys2Proof.Machine
end

