-- ==== Sys2Proof/Machine/Boot.lean ====
section
/-! DEFINITION. The search of the boot ROM (R450 to R452), the ROM profiles (R80), and accesses of host cores to the shared SRAM
and the embedded MRAM (R19, R408, R450). -/

namespace Sys2Proof.Machine

open Sys2Proof

/-! ## Images -/

/-- HC0 in machine mode. -/
def bootCore : Who := ⟨0, .machine⟩
/-- Offsets of the SECVER floor and of the trusted key digests in the MRAM; DESIGN CHOICE, the boot area has no stated layout
(assumption 9). -/
def floorAddr : Nat := 0x77F080
def keyAddr (i : Nat) : Nat := 0x77F000 + 32 * i
/-- The largest image. -/
def maxImage : Nat := 3145728

/-- The header of an image (R451). -/
structure Header where
  length : Nat
  secver : Nat
  entry : Nat
  nsec : Nat
  keyidx : Nat
deriving DecidableEq, Repr

/-- One entry of the section table. -/
structure Section where
  type : Nat
  offset : Nat
  length : Nat
  dest : Nat
deriving DecidableEq, Repr

/-- Bytes a to a + n - 1 of a slot, SOURCE code 1 to 4; flash ends where its contents end. -/
def State.slotBytes (s : State) (flashA flashB : List Byte) (slot a n : Nat) : List Byte :=
  match slot with
  | 1 => Tab.getMany mramDefault s.mram a n
  | 2 => Tab.getMany mramDefault s.mram (0x300000 + a) n
  | 3 => (flashA.drop a).take n
  | _ => (flashB.drop a).take n

/-- A header, or the reason of its rejection: 6 unreadable, 1 header. -/
def readHeader (bs : List Byte) : Except Nat Header :=
  let g := fun (a n : Nat) => leNat ((bs.drop a).take n)
  if bs.length < 32 then .error 6
  else if g 0 4 = 0x36344859 ∧ g 4 2 = 1 ∧ g 6 2 = 0x6400 ∧ g 8 4 % 64 = 0 ∧ g 8 4 ≤ maxImage ∧ 1 ≤ g 0x14 4 ∧ g 0x14 4 ≤ 64 ∧
      g 0x18 1 ≤ 3 ∧ g 0x19 7 = 0 then .ok ⟨g 8 4, g 0xC 4, g 0x10 4, g 0x14 4, g 0x18 1⟩
  else .error 1

/-- The section table. -/
def readSections : Nat → List Byte → List Section
  | 0, _ => []
  | n + 1, bs =>
    ⟨leNat (bs.take 4), leNat ((bs.drop 4).take 4), leNat ((bs.drop 8).take 4), leNat ((bs.drop 12).take 4)⟩ ::
      readSections n (bs.drop 16)

/-- A section lies within the image, and within its destination (R452). -/
def Section.fits (x : Section) (length : Nat) : Bool :=
  decide (x.offset + x.length ≤ length) &&
    match x.type with
    | 2 => decide (x.dest * 8 + x.length ≤ 8192 * 8)
    | 3 => decide (x.dest * 4 + x.length ≤ 8192 * 4)
    | 4 => decide (x.dest * 4 + x.length ≤ 65536 * 4)
    | 5 => decide (x.dest + x.length ≤ sramSize)
    | _ => true

/-- The public keys that images name, by KEYIDX, as their coordinates. -/
abbrev Keys := List (BitVec 256) × List (BitVec 256)
def Keys.at (k : Keys) (i : Nat) : Nat × Nat := ((k.1.getD i 0).toNat, (k.2.getD i 0).toNat)
/-- The digest of the key named by KEYIDX equals that in the boot area (R452). -/
def State.keyTrusted (s : State) (k : Keys) (i : Nat) : Bool :=
  let q := k.at i
  sha256 (leBytes 32 q.1 ++ leBytes 32 q.2) == Tab.getMany mramDefault s.mram (keyAddr i) 32
/-- The signature r, s in the last 64 bytes of an image verifies over the digest of the bytes before it (R451). -/
def imageSigned (k : Keys) (i : Nat) (image : List Byte) : Bool :=
  let n := image.length - 64
  let sg := image.drop n
  ecdsaVerify (k.at i) (sha256 (image.take n)) (leNat (sg.take 32)) (leNat (sg.drop 32))

/-- Validation of a slot (R452): the header and the sections of a valid image, or the reason of its rejection. -/
def State.validate (s : State) (flashA flashB : List Byte) (slot : Nat) (keys : Keys) : Except Nat (Header × List Section) :=
  match readHeader (s.slotBytes flashA flashB slot 0 32) with
  | .error e => .error e
  | .ok h =>
    let tab := s.slotBytes flashA flashB slot 32 (16 * h.nsec)
    let secs := readSections h.nsec tab
    if tab.length < 16 * h.nsec then .error 6
    else if (s.slotBytes flashA flashB slot (h.length - 1) 1).length = 0 then .error 6
    else if h.length < 32 + 16 * h.nsec + 64 || secs.any fun x => !x.fits h.length then .error 2
    else if h.secver < s.mramRead floorAddr 4 then .error 3
    else if !s.keyTrusted keys h.keyidx then .error 4
    else if !imageSigned keys h.keyidx (s.slotBytes flashA flashB slot 0 h.length) then .error 5
    else .ok (h, secs)

/-- What the validation of a slot reads of the embedded MRAM: the header, and behind a good one the image with the floor and the key's
digest. -/
def State.slotSpans (s : State) (flashA flashB : List Byte) (slot : Nat) : List (Nat × Nat) :=
  let at_ := if slot = 1 then some 0 else if slot = 2 then some 0x300000 else none
  let own := fun (n : Nat) => match at_ with
    | some b => [(b, n)]
    | none => []
  match readHeader (s.slotBytes flashA flashB slot 0 32) with
  | .error _ => own 32
  | .ok h => own (max 32 h.length) ++ [(floorAddr, 4), (keyAddr h.keyidx, 32)]
/-- The judgement of a slot: one in which a read meets a double-bit error is unreadable (R19, log 34). -/
def State.judgeSlot (s : State) (flashA flashB : List Byte) (slot : Nat) (keys : Keys) : Except Nat (Header × List Section) :=
  if (s.slotSpans flashA flashB slot).any fun q => s.mramBad q.1 q.2 then .error 6 else s.validate flashA flashB slot keys
/-- The reads of a slot's validation meet the errors there. -/
def State.slotMeet (s : State) (flashA flashB : List Byte) (slot : Nat) : State :=
  (s.slotSpans flashA flashB slot).foldl (fun t q => t.mramMeet q.1 q.2) s

/-! ## Loading (R452) -/

/-- Words of n bytes. -/
def imageWords (n : Nat) : Nat → List Byte → List Nat
  | 0, _ => []
  | k + 1, bs => leNat (bs.take n) :: imageWords n k (bs.drop n)

/-- One write of the load list: KEY is opened before a write to an RWK register; an ignored write sets LOADERR. -/
def State.loadWrite (s : State) (a v : Nat) : State :=
  let s := match findReg a with
    | none => s
    | some r => if r.fam.fields.any fun (f : FieldSpec) => f.acc == Access.rwk then s.setKey (pageBase r.kind r.pn) (some s.time.up) else s
  let t := s.writeReg bootCore a 4 v false
  let bad := match findPage a with
    | none => true
    | some (k, n) => t.get (F.refused (pageBase k n)) != s.get (F.refused (pageBase k n))
  if bad then (t.put R.SYS_BOOT_LOADERR 1).emit 16 63 0x41C a else t

/-- The pairs of a load list. -/
def State.loadList (s : State) : List Nat → State
  | a :: v :: l => (s.loadWrite a v).loadList l
  | _ => s

/-- Consecutive instructions of bank 0 from an address. -/
def State.loadProgram (s : State) (a : Nat) : List Nat → State
  | [] => s
  | w :: l => (s.setProg a w).loadProgram (a + 1) l
def State.loadCoefs (s : State) (a : Nat) : List Nat → State
  | [] => s
  | w :: l => (s.setCoef a w).loadCoefs (a + 1) l
def State.loadData (s : State) (a : Nat) : List Nat → State
  | [] => s
  | w :: l => (s.hostData a w).loadData (a + 1) l

def State.loadSection (s : State) (x : Section) (bs : List Byte) : State :=
  match x.type with
  | 1 => s.loadList (imageWords 4 (bs.length / 8 * 2) bs)
  | 2 => s.loadProgram x.dest (imageWords 8 (bs.length / 8) bs)
  | 3 => s.loadCoefs x.dest (imageWords 4 (bs.length / 4) bs)
  | 4 => s.loadData x.dest (imageWords 4 (bs.length / 4) bs)
  | 5 => s.sramPut x.dest bs
  | _ => s

/-- A valid image: an image in flash is copied to the shared SRAM; the sections in table order; BOOT_IMAGE; HC0 at ENTRY. -/
def State.runImage (s : State) (flashA flashB : List Byte) (slot : Nat) (h : Header) (secs : List Section) : State :=
  let s := if slot < 3 then s
    else s.sramPut (Config.flashImageAt % (sramSize - maxImage + 1)) (s.slotBytes flashA flashB slot 0 h.length)
  let s := s.setSys fun y => { y with loading := true }
  let s := secs.foldl (fun (s : State) x => s.loadSection x (s.slotBytes flashA flashB slot x.offset x.length)) s
  let s := (s.put R.SYS_BOOT_SOURCE slot).put R.SYS_BOOT_SECVER (h.secver % 65536)
  let s := s.emit 16 63 0x019 (slot + h.secver % 65536 * 8 + h.keyidx * 2 ^ 19)
  s.setSys fun y => { y with loading := false, bootDone := true, entry := some h.entry }

/-! ## ROM profiles (R80) -/

/-- A write by the boot ROM. -/
def State.romWrite (s : State) (f : Fld) (v : Nat) : State := s.fieldWrite bootCore f v false

/-- A slot without a ring, and the mode of its input. -/
def State.romSlot (s : State) (slot ain mode : Nat) : State :=
  (s.romWrite (R.ADC_IN_MODE ain) mode).romWrite (R.ADC_SLOT slot) (0x80F00000 + ain)
/-- Slot 0 of positions 0 to 3 takes AIN0 to AIN3, slot 1 of positions 0 to 7 AIN4 to AIN11. -/
def State.romInputs (s : State) : State :=
  (s.forEach (fun s c => s.romSlot (16 * c) c (if c = 3 then 1 else 0)) (List.range 4)).forEach
    (fun s c => s.romSlot (16 * c + 1) (4 + c) 1) (List.range 8)
/-- The built-in program and its coefficients (R261). -/
def State.romInstr (s : State) (q : Nat × Dword) : State :=
  s.setProg (q.1 % 8192) q.2.toNat
def State.romCoef (s : State) (q : BitVec 13 × Word) : State :=
  s.setCoef q.1.toNat q.2.toNat
def State.romProgram (s : State) : State :=
  Config.builtInCoefs.foldl State.romCoef (Config.builtInProgram.foldl State.romInstr s)
/-- A supervisor channel on a phase current, with reaction 0b10 (R261). -/
def State.romSup (s : State) (c : Nat) : State :=
  ((s.romWrite (R.SUPCH_CFG_MEAS c) (Config.builtInMeas c % 0x1C0)).romWrite (R.SUPCH_CFG_REACT c) 2).romWrite
    (R.SUPCH_CFG_EN c) 1
/-- A ring of 16 entries at a place of the boot ROM's choice. -/
def State.romRing (s : State) (r : Nat) : State :=
  ((s.romWrite (R.RING_BASE_BASE r) (Config.romRing r % 65533)).romWrite (R.RING_CFG_LOG2N r) 4).romWrite (R.RING_CFG_EN r) 1
/-- Port 0 as the boot ROM's ordinary clock uses it: its rings, its receive area, and EN (R346). -/
def State.romClock (s : State) : State :=
  ((s.romRing 44).romRing 45 |>.romWrite (R.ETH_RXBUF_BASE 0) (Config.romRxBuf % 65536)).romWrite (R.ETH_CTL_EN 0) 1
/-- What every ROM profile sets: slots and inputs, the control program and its supervisor, synchrophasors, the time source, the
tracker (R80, R261, R319, R338, R346, R372, R410). -/
def State.romCommon (s : State) : State :=
  let s := s.romInputs.romProgram.forEach State.romSup (List.range 3)
  let s := (s.romWrite R.CE_SUP_CTL_EN 1).romWrite R.CE_CTL_RUN 1
  let s := ((s.romWrite R.PMU_CTL_RATE 0).romWrite R.PMU_CTL_CLASS 0).romWrite R.PMU_CTL_EN 1
  let s := (s.romWrite R.TIME_CTL_SRC 0).romClock.romWrite (R.MD_CFG_HALL 0) 1
  (s.romWrite (R.MD_CFG_STOW 0) 1).romWrite R.SAFE_OUT_REQ_REQ 8

/-- What profiles 0001 to 0011 add: the legs and ports of the bridges, Slope channels 0 to 7 on LP7, the phase map, AUTO_START
(R80, R194, R216). -/
def State.romBridges (s : State) (prof : Nat) : State :=
  let ports := if prof = 3 then 6 else 3
  let s := s.romWrite R.SYS_MODE_CFG_AUTO_START 1
  let s := s.romWrite R.LOCUS_PMAP_MAP (if prof = 3 then 0x0E79 else 0x0039)
  let s := s.forEach (fun (s : State) n => (s.romWrite (R.LEG_CTL_OUTPUT n) 1).romWrite (R.LEG_CTL_EN n) 1)
    (List.range (8 * ports))
  let s := s.forEach (fun (s : State) n => s.romWrite (R.LEG_CTL_EN n) 1) ((List.range 8).map (· + 56))
  let s := s.forEach (fun (s : State) n => (s.romWrite (R.SLCH_CFG_LEG n) (56 + n)).romWrite (R.SLCH_CFG_EN n) 1) (List.range 8)
  s.forEach (fun (s : State) p => (s.romWrite (R.LINK_CTL_AUTORT p) 1).romWrite (R.LINK_CTL_EN p) 1)
    (List.range ports ++ [7])

/-- No valid image, or none searched for: the ROM profile runs. -/
def State.runRom (s : State) : State :=
  let prof := s.sys.prof
  let s := s.setSys fun y => { y with loading := true, romHpres := s.flag R.ORIGIN_STAT_HPRES }
  let s := s.romCommon
  let s := if romSwitches prof then s.romBridges prof else s
  let s := (s.put R.SYS_BOOT_SOURCE 0).put R.SYS_MODE_STAT_ROM 1
  let s := s.emit 16 63 0x014 (prof % 16 + (decide (3 < prof)).toNat * 16)
  s.setSys fun y => { y with loading := false, bootDone := true }

/-! ## The search (R450) -/

/-- A slot is rejected for a reason: the i-th of the search. -/
def State.rejectSlot (s : State) (i slot e : Nat) : State := (s.put (R.SYS_BOOT_REJECT.bit i) 1).emit 16 63 0x41A (slot + e * 8)
def State.searchSlots (s : State) (flashA flashB : List Byte) (keys : Keys) : Nat → List Nat → State
  | _, [] => s.runRom
  | i, slot :: l =>
    match s.judgeSlot flashA flashB slot keys with
    | .ok (h, secs) => (s.slotMeet flashA flashB slot).runImage flashA flashB slot h secs
    | .error e => State.searchSlots ((s.slotMeet flashA flashB slot).rejectSlot i slot e) flashA flashB keys (i + 1) l

/-- The baselines of the SYS monitors come from the boot area (R456, Note 2). -/
def State.loadBaselines (s : State) : State :=
  s.forEach (fun (s : State) c =>
    let b := s.mramRead (baselineAddr c) 4
    let t := s.mramMeet (baselineAddr c) 4
    if s.mramBad (baselineAddr c) 4 then t.busError
    else if b = 0xFFFFFFFF then t else t.put (R.SYS_AGE_BASE c) (b % 65536)) (List.range 3)

/-- The slots in the order that BOOTSEL selects. -/
def slotOrder (bootsel : Nat) : List Nat := if bootsel = 0 then [1, 2, 3, 4] else [3, 4, 1, 2]
/-- BOOT_SEARCH (R450): `flashA` and `flashB` are the contents of the flash slots, none where the flash is absent; `keyX` and `keyY` hold
the coordinates of the public keys by KEYIDX. -/
def execBootSearch (flashA flashB : List Byte) (keyX keyY : List (BitVec 256)) (s : State) :
    Host.Outcome State Fault Refusal :=
  .next (if s.ticking && !s.sys.bootDone && s.get R.SYS_BOOT_SOURCE != 5 then
    let s := s.loadBaselines
    match s.sys.bootsel % 4 with
    | 0 => s.searchSlots flashA flashB (keyX, keyY) 0 (slotOrder 0)
    | 1 => s.searchSlots flashA flashB (keyX, keyY) 0 (slotOrder 1)
    | 2 => s.runRom
    | _ => s.put R.SYS_BOOT_SOURCE 5
  else s)

/-! ## The memories of the host cores -/

/-- A store of a host core to the embedded MRAM (R408, R450). -/
def State.mramHostStore (s : State) (addr : Nat) (bs : List Byte) : State :=
  if partitionBase < addr + bs.length ∧ s.flag R.SAFE_MRAM_WEN = false then s.busError.emit srcSecant 63 0x109 2
  else if addr < 0x780000 ∧ 0x77F000 < addr + bs.length ∧ s.sys.sealed then s.busError
  else s.memStore 3 addr bs

/-- MRAM_WRITE (R408): a 64-bit store to the safety partition. -/
def execMramWrite (who : Who) (addr : Nat) (v : Dword) (s : State) : Host.Outcome State Fault Refusal :=
  if partitionBase ≤ addr ∧ addr + 8 ≤ mramSize then
    .next (s.whenAlive fun s => if s.initiates who then s.mramHostStore addr (leBytes 8 v.toNat) else s)
  else .fault .noSuchAddress

/-- Size of a memory of the host cores (R18). -/
def hostMemSize (mram : Bool) : Nat := if mram then mramSize else sramSize
/-- An upset in a memory, numbered as in R54 (R19): in a cache of the host cores it is met at once, in Vertex's data memory it joins the
words that hold errors. -/
def State.memUpset (s : State) (mem w : Nat) (double : Bool) : State :=
  if mem = 0 then s.emit 16 63 0x3C8 (w * 16)
  else if mem = 1 then (s.upset 1 w double).memRead 1 w |>.memMend 1 w
  else if mem = 5 then
    s.setCe fun c =>
      let a := w % 65536
      if double then { c with err2 := a :: c.err2.filter (· != a), planted := c.planted.filter (· != a) }
      else { c with err1 := a :: c.err1.filter (· != a), planted := c.planted.filter (· != a) }
  else s.upset mem w double
/-- A load meets the words that it touches: a double-bit error in one is a bus error (R19). -/
def State.memLoad (s : State) (mem a n : Nat) : State :=
  let hits := s.wordsHit mem a n false
  let t := s.wordsMeet mem hits
  if hits.any fun w => s.wrongBits mem w == 2 then t.busError else t
/-- A load, or a store of bytes, after an upset if there is one. A store reads the words that it covers in part, and a double-bit error in one
refuses it whole (DESIGN CHOICE beside R19, log 243). -/
def State.hostAccess (s : State) (mram : Bool) (addr : Nat) (write : Option (List Byte)) (upset : Option (Fin 10 × Nat × Bool)) :
    State :=
  let s := match upset with
    | none => s
    | some q => s.memUpset q.1 q.2.1 q.2.2
  match write with
  | none => s.memLoad (if mram then 3 else 2) addr 1
  | some bs => if mram then s.mramHostStore addr bs else s.memStore 2 addr bs

/-- HOST_MEMORY_ACCESS (R19, R408, R450): a load, or a store of bytes; `upset` is an upset that has come before it in a memory of R54: its
number, the word, and whether two bits are wrong. -/
def execHostMemoryAccess (who : Who) (mram : Bool) (addr : Nat) (write : Option (List Byte)) (upset : Option (Fin 10 × Nat × Bool))
    (s : State) : Host.Outcome State Fault Refusal :=
  if hostMemSize mram < addr + max 1 (write.getD []).length then .fault .noSuchAddress
  else .next (s.whenAlive fun s => if s.initiates who then s.hostAccess mram addr write upset else s)

end Sys2Proof.Machine
end

