-- ==== Sys2Proof/Machine/VertexIsa.lean ====
section
/-! DEFINITION. The meaning of each Vertex instruction (R251) and of the end of a tick program. An instruction is
executed when the running program holds its word at the program counter; otherwise nothing happens. -/

namespace Sys2Proof.Machine

open Sys2Proof

/-- NOP: no effect. -/
def execVNop (w : Dword) (s : State) : Host.Outcome State Fault Refusal := .next (s.vStep 0x00 w vBodyNop)

/-- LD: S[D] from data memory. -/
def execVLd (w : Dword) (s : State) : Host.Outcome State Fault Refusal := .next (s.vStep 0x02 w vBodyLd)

/-- LDC: S[D] from coefficient memory. -/
def execVLdc (w : Dword) (s : State) : Host.Outcome State Fault Refusal := .next (s.vStep 0x03 w vBodyLdc)

/-- ST: S[A] to data memory as element words. -/
def execVSt (w : Dword) (s : State) : Host.Outcome State Fault Refusal := .next (s.vStep 0x04 w vBodySt)

/-- STO: S[A] to output slots as duties (R248). -/
def execVSto (w : Dword) (s : State) : Host.Outcome State Fault Refusal := .next (s.vStep 0x05 w vBodySto)

/-- LDA: AR[D] from a data word. -/
def execVLda (w : Dword) (s : State) : Host.Outcome State Fault Refusal := .next (s.vStep 0x06 w vBodyLda)

/-- SETA: AR[D] = ADDR. -/
def execVSeta (w : Dword) (s : State) : Host.Outcome State Fault Refusal := .next (s.vStep 0x07 w vBodySeta)

/-- ADD: S[A] + S[B]. -/
def execVAdd (w : Dword) (s : State) : Host.Outcome State Fault Refusal := .next (s.vStep 0x08 w (vBinary Dy.add))

/-- SUB: S[A] − S[B]. -/
def execVSub (w : Dword) (s : State) : Host.Outcome State Fault Refusal := .next (s.vStep 0x09 w (vBinary Dy.sub))

/-- MUL: S[A] × S[B]. -/
def execVMul (w : Dword) (s : State) : Host.Outcome State Fault Refusal := .next (s.vStep 0x0A w (vBinary Dy.mul))

/-- MULS: S[A] × one coefficient. -/
def execVMuls (w : Dword) (s : State) : Host.Outcome State Fault Refusal := .next (s.vStep 0x0B w (vCoefOp Dy.mul))

/-- MAX: element-wise maximum. -/
def execVMax (w : Dword) (s : State) : Host.Outcome State Fault Refusal := .next (s.vStep 0x0C w (vBinary Dy.max))

/-- MIN: element-wise minimum. -/
def execVMin (w : Dword) (s : State) : Host.Outcome State Fault Refusal := .next (s.vStep 0x0D w (vBinary Dy.min))

/-- NEG: −S[A]. -/
def execVNeg (w : Dword) (s : State) : Host.Outcome State Fault Refusal := .next (s.vStep 0x0E w (vMap Dy.neg))

/-- ABS: magnitude of S[A]. -/
def execVAbs (w : Dword) (s : State) : Host.Outcome State Fault Refusal := .next (s.vStep 0x0F w (vMap Dy.abs))

/-- SHL: S[A] × 2^EXP. -/
def execVShl (w : Dword) (s : State) : Host.Outcome State Fault Refusal := .next (s.vStep 0x10 w (fun i s => vMap (fun v => v.scale (signed 8 i.exp)) i s))

/-- CLAMP: S[A] limited to two coefficients. -/
def execVClamp (w : Dword) (s : State) : Host.Outcome State Fault Refusal := .next (s.vStep 0x11 w vBodyClamp)

/-- SEL: S[A] or S[B] by a mask. -/
def execVSel (w : Dword) (s : State) : Host.Outcome State Fault Refusal := .next (s.vStep 0x12 w vBodySel)

/-- RSUM: the sum of S[A] in element 0. -/
def execVRsum (w : Dword) (s : State) : Host.Outcome State Fault Refusal := .next (s.vStep 0x13 w vBodyRsum)

/-- MACZ: AC[D] starts with S[A] × S[B] (R246). -/
def execVMacz (w : Dword) (s : State) : Host.Outcome State Fault Refusal := .next (s.vStep 0x14 w (vMacB State.accStart))

/-- MAC: S[A] × S[B] added into AC[D] (R246). -/
def execVMac (w : Dword) (s : State) : Host.Outcome State Fault Refusal := .next (s.vStep 0x15 w (vMacB State.accAdd))

/-- MACZS: AC[D] starts with S[A] × one coefficient (R246). -/
def execVMaczs (w : Dword) (s : State) : Host.Outcome State Fault Refusal := .next (s.vStep 0x16 w (vMacC State.accStart))

/-- MACS: S[A] × one coefficient added into AC[D] (R246). -/
def execVMacs (w : Dword) (s : State) : Host.Outcome State Fault Refusal := .next (s.vStep 0x17 w (vMacC State.accAdd))

/-- ACC: pack of AC[A] (R246). -/
def execVAcc (w : Dword) (s : State) : Host.Outcome State Fault Refusal := .next (s.vStep 0x18 w vBodyAcc)

/-- CGT: M[D] by S[A] > S[B]. -/
def execVCgt (w : Dword) (s : State) : Host.Outcome State Fault Refusal := .next (s.vStep 0x19 w (vCompare fun a b => b.lt a))

/-- CGE: M[D] by S[A] ≥ S[B]. -/
def execVCge (w : Dword) (s : State) : Host.Outcome State Fault Refusal := .next (s.vStep 0x1A w (vCompare fun a b => b.le a))

/-- SIN of S[A] in turns (R247). -/
def execVSin (w : Dword) (s : State) : Host.Outcome State Fault Refusal := .next (s.vStep 0x1B w (vUnary fun v => (sinTurns false v, false)))

/-- COS of S[A] in turns (R247). -/
def execVCos (w : Dword) (s : State) : Host.Outcome State Fault Refusal := .next (s.vStep 0x1C w (vUnary fun v => (sinTurns true v, false)))

/-- SQRT of S[A] (R247). -/
def execVSqrt (w : Dword) (s : State) : Host.Outcome State Fault Refusal := .next (s.vStep 0x1D w (vUnary sqrtOf))

/-- RCP of S[A] (R247). -/
def execVRcp (w : Dword) (s : State) : Host.Outcome State Fault Refusal := .next (s.vStep 0x1E w (vUnary rcpOf))

/-- JMP: to ADDR. -/
def execVJmp (w : Dword) (s : State) : Host.Outcome State Fault Refusal := .next (s.vStep 0x20 w (vJump true))

/-- JANY: to ADDR if any of the bits 0 to N − 1 of M[A] is 1. -/
def execVJany (w : Dword) (s : State) : Host.Outcome State Fault Refusal := .next (s.vStep 0x21 w (fun i s => vJump (s.vAny i) i s))

/-- JNONE: to ADDR if none of the bits 0 to N − 1 of M[A] is 1. -/
def execVJnone (w : Dword) (s : State) : Host.Outcome State Fault Refusal := .next (s.vStep 0x22 w (fun i s => vJump (!s.vAny i) i s))

/-- LOOP: the body up to ADDR is run EXP + 1 times. -/
def execVLoop (w : Dword) (s : State) : Host.Outcome State Fault Refusal := .next (s.vStep 0x23 w vBodyLoop)

/-- END: the tick program ends and commits its slots (R258). -/
def execVEnd (w : Dword) (s : State) : Host.Outcome State Fault Refusal :=
  let i := Ins.of w.toNat
  .next (if s.vFetches w && i.op == 0x01 then s.vIssue i (fun t s => s.vEndProgram t) else s)

/-- ILLEGAL_OPCODE: a word that R250 and R251 make illegal faults with code 4 (R259). -/
def execIllegalOpcode (w : Dword) (s : State) : Host.Outcome State Fault Refusal :=
  let i := Ins.of w.toNat
  .next (if s.vFetches w && i.illegal then s.vIssue i (fun _ s => s) else s)

/-- PROGRAM_ABANDON: the last clock of Compute passes without END (R257). -/
def execProgramAbandon (s : State) : Host.Outcome State Fault Refusal :=
  .next (if s.ce.running then (s.advTo (s.ce.t0 + s.vSpan * 5)).vAbandon else s)

end Sys2Proof.Machine
end

