-- ==== Sys2Proof/Machine/Dispatch.lean ====
section
/-! DEFINITION. One arm per command: the meaning of each, in the order of the opcode table. -/

namespace Sys2Proof.Machine

/-- The effect of a command on everything but the queue of commands (spec/95). -/
def exec (i : Instr) (s : State) : Host.Outcome State Fault Refusal :=
  match i with
  | .mainRailFailure part => Sys2Proof.Machine.execMainRailFailure part s
  | .burstEnergyLost words => Sys2Proof.Machine.execBurstEnergyLost words s
  | .powerUp prof bootsel xtal => Sys2Proof.Machine.execPowerUp prof bootsel xtal s
  | .pinReset => Sys2Proof.Machine.execPinReset s
  | .swrst who => Sys2Proof.Machine.execSwrst who s
  | .jtagSystemReset => Sys2Proof.Machine.execJtagSystemReset s
  | .mainResetRelease prof bootsel xtal => Sys2Proof.Machine.execMainResetRelease prof bootsel xtal s
  | .originPowerOn => Sys2Proof.Machine.execOriginPowerOn s
  | .sealChange level => Sys2Proof.Machine.execSealChange level s
  | .timePllLock => Sys2Proof.Machine.execTimePllLock s
  | .tickStart => Sys2Proof.Machine.execTickStart s
  | .selftestTimeout => Sys2Proof.Machine.execSelftestTimeout s
  | .autoStart => Sys2Proof.Machine.execAutoStart s
  | .inputFreeze => Sys2Proof.Machine.execInputFreeze s
  | .computeStart => Sys2Proof.Machine.execComputeStart s
  | .vNop w => Sys2Proof.Machine.execVNop w s
  | .vEnd w => Sys2Proof.Machine.execVEnd w s
  | .vLd w => Sys2Proof.Machine.execVLd w s
  | .vLdc w => Sys2Proof.Machine.execVLdc w s
  | .vSt w => Sys2Proof.Machine.execVSt w s
  | .vSto w => Sys2Proof.Machine.execVSto w s
  | .vLda w => Sys2Proof.Machine.execVLda w s
  | .vSeta w => Sys2Proof.Machine.execVSeta w s
  | .vAdd w => Sys2Proof.Machine.execVAdd w s
  | .vSub w => Sys2Proof.Machine.execVSub w s
  | .vMul w => Sys2Proof.Machine.execVMul w s
  | .vMuls w => Sys2Proof.Machine.execVMuls w s
  | .vMax w => Sys2Proof.Machine.execVMax w s
  | .vMin w => Sys2Proof.Machine.execVMin w s
  | .vNeg w => Sys2Proof.Machine.execVNeg w s
  | .vAbs w => Sys2Proof.Machine.execVAbs w s
  | .vShl w => Sys2Proof.Machine.execVShl w s
  | .vClamp w => Sys2Proof.Machine.execVClamp w s
  | .vSel w => Sys2Proof.Machine.execVSel w s
  | .vRsum w => Sys2Proof.Machine.execVRsum w s
  | .vMacz w => Sys2Proof.Machine.execVMacz w s
  | .vMac w => Sys2Proof.Machine.execVMac w s
  | .vMaczs w => Sys2Proof.Machine.execVMaczs w s
  | .vMacs w => Sys2Proof.Machine.execVMacs w s
  | .vAcc w => Sys2Proof.Machine.execVAcc w s
  | .vCgt w => Sys2Proof.Machine.execVCgt w s
  | .vCge w => Sys2Proof.Machine.execVCge w s
  | .vSin w => Sys2Proof.Machine.execVSin w s
  | .vCos w => Sys2Proof.Machine.execVCos w s
  | .vSqrt w => Sys2Proof.Machine.execVSqrt w s
  | .vRcp w => Sys2Proof.Machine.execVRcp w s
  | .vJmp w => Sys2Proof.Machine.execVJmp w s
  | .vJany w => Sys2Proof.Machine.execVJany w s
  | .vJnone w => Sys2Proof.Machine.execVJnone w s
  | .vLoop w => Sys2Proof.Machine.execVLoop w s
  | .programAbandon => Sys2Proof.Machine.execProgramAbandon s
  | .issueLatch => Sys2Proof.Machine.execIssueLatch s
  | .edgeSetRelease => Sys2Proof.Machine.execEdgeSetRelease s
  | .guardStart => Sys2Proof.Machine.execGuardStart s
  | .key who addr v => Sys2Proof.Machine.execKey who addr v s
  | .keyExpiry addr => Sys2Proof.Machine.execKeyExpiry addr s
  | .registerWrite who addr bytes v atLatch => Sys2Proof.Machine.execRegisterWrite who addr bytes v atLatch s
  | .accessUnimpl who addr => Sys2Proof.Machine.execAccessUnimpl who addr s
  | .irqForce who addr v => Sys2Proof.Machine.execIrqForce who addr v s
  | .parityScrub addr upset => Sys2Proof.Machine.execParityScrub addr upset s
  | .ringEnable who ring v => Sys2Proof.Machine.execRingEnable who ring v s
  | .ringDisable who ring v => Sys2Proof.Machine.execRingDisable who ring v s
  | .ringPointerWrite who ring v => Sys2Proof.Machine.execRingPointerWrite who ring v s
  | .logEntryArrival n => Sys2Proof.Machine.execLogEntryArrival n s
  | .logRelease => Sys2Proof.Machine.execLogRelease s
  | .tagRequest port => Sys2Proof.Machine.execTagRequest port s
  | .rsp port block => Sys2Proof.Machine.execRsp port block s
  | .tagTimeout port tag => Sys2Proof.Machine.execTagTimeout port tag s
  | .tagQuarantineEnd port tag => Sys2Proof.Machine.execTagQuarantineEnd port tag s
  | .modeRequestStandby who => Sys2Proof.Machine.execModeRequestStandby who s
  | .modeRequestFollow who => Sys2Proof.Machine.execModeRequestFollow who s
  | .modeRequestForm who => Sys2Proof.Machine.execModeRequestForm who s
  | .modeRequestHalt who => Sys2Proof.Machine.execModeRequestHalt who s
  | .modeRequestInvalid who target => Sys2Proof.Machine.execModeRequestInvalid who target s
  | .curtail who on => Sys2Proof.Machine.execCurtail who on s
  | .nightvar who on => Sys2Proof.Machine.execNightvar who on s
  | .test who on => Sys2Proof.Machine.execTest who on s
  | .legacy who on => Sys2Proof.Machine.execLegacy who on s
  | .profileRequest who fine => Sys2Proof.Machine.execProfileRequest who fine s
  | .commit who group atLatch => Sys2Proof.Machine.execCommit who group atLatch s
  | .legEnable who leg en => Sys2Proof.Machine.execLegEnable who leg en s
  | .auxPeriodStart timer => Sys2Proof.Machine.execAuxPeriodStart timer s
  | .auxoffConfirm timer => Sys2Proof.Machine.execAuxoffConfirm timer s
  | .confTimeout timer => Sys2Proof.Machine.execConfTimeout timer s
  | .linkEnable who port en => Sys2Proof.Machine.execLinkEnable who port en s
  | .retrain who port => Sys2Proof.Machine.execRetrain who port s
  | .loopNearSerial who port => Sys2Proof.Machine.execLoopNearSerial who port s
  | .loopNearParallel who port => Sys2Proof.Machine.execLoopNearParallel who port s
  | .loopFarEnd who port => Sys2Proof.Machine.execLoopFarEnd who port s
  | .prbs31Test who port => Sys2Proof.Machine.execPrbs31Test who port s
  | .loopEnd who port => Sys2Proof.Machine.execLoopEnd who port s
  | .linkCntclrCrc who port => Sys2Proof.Machine.execLinkCntclrCrc who port s
  | .linkCntclrPrbs who port => Sys2Proof.Machine.execLinkCntclrPrbs who port s
  | .linkCntclrLooperr who port => Sys2Proof.Machine.execLinkCntclrLooperr who port s
  | .linkCntclrErr who port => Sys2Proof.Machine.execLinkCntclrErr who port s
  | .clockPhaseDone port wiring => Sys2Proof.Machine.execClockPhaseDone port wiring s
  | .eqPhaseDone port => Sys2Proof.Machine.execEqPhaseDone port s
  | .tapRequest port block => Sys2Proof.Machine.execTapRequest port block s
  | .latPhaseDone port echoes => Sys2Proof.Machine.execLatPhaseDone port echoes s
  | .linkUp port desat ready => Sys2Proof.Machine.execLinkUp port desat ready s
  | .trainFail port cause => Sys2Proof.Machine.execTrainFail port cause s
  | .backoffEnd port => Sys2Proof.Machine.execBackoffEnd port s
  | .linkLoss port why => Sys2Proof.Machine.execLinkLoss port why s
  | .latencyProbe port => Sys2Proof.Machine.execLatencyProbe port s
  | .probeEcho port elapsed block => Sys2Proof.Machine.execProbeEcho port elapsed block s
  | .sample port head tail => Sys2Proof.Machine.execSample port head tail s
  | .status port block => Sys2Proof.Machine.execStatus port block s
  | .invalidBlock port lane train block => Sys2Proof.Machine.execInvalidBlock port lane train block s
  | .genRequest => Sys2Proof.Machine.execGenRequest s
  | .tripClear who port leg v => Sys2Proof.Machine.execTripClear who port leg v s
  | .inj who port leg => Sys2Proof.Machine.execInj who port leg s
  | .pinTrip chan level => Sys2Proof.Machine.execPinTrip chan level s
  | .channelClear who which => Sys2Proof.Machine.execChannelClear who which s
  | .pgTrip => Sys2Proof.Machine.execPgTrip s
  | .pguardOn => Sys2Proof.Machine.execPguardOn s
  | .gcEvaluation => Sys2Proof.Machine.execGcEvaluation s
  | .freqLimitConfirm limit => Sys2Proof.Machine.execFreqLimitConfirm limit s
  | .rocofConfirm => Sys2Proof.Machine.execRocofConfirm s
  | .slotResponse => Sys2Proof.Machine.execSlotResponse s
  | .islInj who => Sys2Proof.Machine.execIslInj who s
  | .islCeased => Sys2Proof.Machine.execIslCeased s
  | .clearMissed => Sys2Proof.Machine.execClearMissed s
  | .slopeEvaluation => Sys2Proof.Machine.execSlopeEvaluation s
  | .scanRequest who v => Sys2Proof.Machine.execScanRequest who v s
  | .scanDone ch => Sys2Proof.Machine.execScanDone ch s
  | .stringFaultClear who ch => Sys2Proof.Machine.execStringFaultClear who ch s
  | .slopeTestFault who ch => Sys2Proof.Machine.execSlopeTestFault who ch s
  | .run who on => Sys2Proof.Machine.execRun who on s
  | .swap who => Sys2Proof.Machine.execSwap who s
  | .programWordWrite who v => Sys2Proof.Machine.execProgramWordWrite who v s
  | .dataWordWrite who v => Sys2Proof.Machine.execDataWordWrite who v s
  | .coefWrite who v => Sys2Proof.Machine.execCoefWrite who v s
  | .clrMax who => Sys2Proof.Machine.execClrMax who s
  | .clrSatcnt who => Sys2Proof.Machine.execClrSatcnt who s
  | .ecc1 who => Sys2Proof.Machine.execEcc1 who s
  | .ecc2 who => Sys2Proof.Machine.execEcc2 who s
  | .ceTestFault who => Sys2Proof.Machine.execCeTestFault who s
  | .supLatchClear who v => Sys2Proof.Machine.execSupLatchClear who v s
  | .adcStartupCal sums => Sys2Proof.Machine.execAdcStartupCal sums s
  | .tickSlotResult slot q partner shadow => Sys2Proof.Machine.execTickSlotResult slot q partner shadow s
  | .backgroundConversion pos q => Sys2Proof.Machine.execBackgroundConversion pos q s
  | .triggerPulse line => Sys2Proof.Machine.execTriggerPulse line s
  | .trigSw who v => Sys2Proof.Machine.execTrigSw who v s
  | .generatorPulse gen => Sys2Proof.Machine.execGeneratorPulse gen s
  | .rotCalibrationDone lo hi mid => Sys2Proof.Machine.execRotCalibrationDone lo hi mid s
  | .rotShadowDone mids => Sys2Proof.Machine.execRotShadowDone mids s
  | .rotDwellEnd => Sys2Proof.Machine.execRotDwellEnd s
  | .adcStep who => Sys2Proof.Machine.execAdcStep who s
  | .calerr who => Sys2Proof.Machine.execCalerr who s
  | .cmpRawChange ball uv => Sys2Proof.Machine.execCmpRawChange ball uv s
  | .cmpWinChange tw => Sys2Proof.Machine.execCmpWinChange tw s
  | .blankingWindowEnd tw => Sys2Proof.Machine.execBlankingWindowEnd tw s
  | .thresholdRefresh tw => Sys2Proof.Machine.execThresholdRefresh tw s
  | .cmpSelftestPass => Sys2Proof.Machine.execCmpSelftestPass s
  | .meterSample codes spare cross => Sys2Proof.Machine.execMeterSample codes spare cross s
  | .windowEnd => Sys2Proof.Machine.execWindowEnd s
  | .freq10s => Sys2Proof.Machine.execFreq10s s
  | .meterCheckpointStage => Sys2Proof.Machine.execMeterCheckpointStage s
  | .pmuReport => Sys2Proof.Machine.execPmuReport s
  | .meterClear who v => Sys2Proof.Machine.execMeterClear who v s
  | .wack who => Sys2Proof.Machine.execWack who s
  | .meterHold who on => Sys2Proof.Machine.execMeterHold who on s
  | .accumulationStart cals => Sys2Proof.Machine.execAccumulationStart cals s
  | .meterRotationStep cal ratio => Sys2Proof.Machine.execMeterRotationStep cal ratio s
  | .meterTestInj who v => Sys2Proof.Machine.execMeterTestInj who v s
  | .timeMeasurement who v => Sys2Proof.Machine.execTimeMeasurement who v s
  | .measinj who v => Sys2Proof.Machine.execMeasinj who v s
  | .measTimeout => Sys2Proof.Machine.execMeasTimeout s
  | .holdoverExpiry => Sys2Proof.Machine.execHoldoverExpiry s
  | .rearm who => Sys2Proof.Machine.execRearm who s
  | .srcSelect who src => Sys2Proof.Machine.execSrcSelect who src s
  | .snap who => Sys2Proof.Machine.execSnap who s
  | .syncInEdge rising fine => Sys2Proof.Machine.execSyncInEdge rising fine s
  | .ethFrameReceive port frame err => Sys2Proof.Machine.execEthFrameReceive port frame err s
  | .ethTransmit port => Sys2Proof.Machine.execEthTransmit port s
  | .ethLinkUp port align => Sys2Proof.Machine.execEthLinkUp port align s
  | .start who drive => Sys2Proof.Machine.execStart who drive s
  | .stop who drive => Sys2Proof.Machine.execStop who drive s
  | .coast who drive => Sys2Proof.Machine.execCoast who drive s
  | .position who drive => Sys2Proof.Machine.execPosition who drive s
  | .stow who drive => Sys2Proof.Machine.execStow who drive s
  | .home who drive => Sys2Proof.Machine.execHome who drive s
  | .drvInj who drive => Sys2Proof.Machine.execDrvInj who drive s
  | .driveEnable who drive en => Sys2Proof.Machine.execDriveEnable who drive en s
  | .speedTargetWrite who drive v => Sys2Proof.Machine.execSpeedTargetWrite who drive v s
  | .driveDecision drive => Sys2Proof.Machine.execDriveDecision drive s
  | .decisionDeadline drive => Sys2Proof.Machine.execDecisionDeadline drive s
  | .catchDone drive => Sys2Proof.Machine.execCatchDone drive s
  | .alignDone drive => Sys2Proof.Machine.execAlignDone drive s
  | .stopHoldDone drive => Sys2Proof.Machine.execStopHoldDone drive s
  | .positionReached drive => Sys2Proof.Machine.execPositionReached drive s
  | .stowDone drive => Sys2Proof.Machine.execStowDone drive s
  | .shortEnd drive => Sys2Proof.Machine.execShortEnd drive s
  | .driveFaultClear who drive => Sys2Proof.Machine.execDriveFaultClear who drive s
  | .chopperUpdate k => Sys2Proof.Machine.execChopperUpdate k s
  | .brkFault k => Sys2Proof.Machine.execBrkFault k s
  | .brkFaultClear who k v => Sys2Proof.Machine.execBrkFaultClear who k v s
  | .hallChange chan code rx => Sys2Proof.Machine.execHallChange chan code rx s
  | .indexEdge chan => Sys2Proof.Machine.execIndexEdge chan s
  | .arcHome who chan => Sys2Proof.Machine.execArcHome who chan s
  | .secantCycle sfb => Sys2Proof.Machine.execSecantCycle sfb s
  | .chordEvaluation sfb => Sys2Proof.Machine.execChordEvaluation sfb s
  | .sinLevelChange pair b level rx => Sys2Proof.Machine.execSinLevelChange pair b level rx s
  | .discrepancy pair => Sys2Proof.Machine.execDiscrepancy pair s
  | .safeFault bits => Sys2Proof.Machine.execSafeFault bits s
  | .secantWd => Sys2Proof.Machine.execSecantWd s
  | .crossTimeout => Sys2Proof.Machine.execCrossTimeout s
  | .release who => Sys2Proof.Machine.execRelease who s
  | .driveRelease who v => Sys2Proof.Machine.execDriveRelease who v s
  | .outputRequest who v => Sys2Proof.Machine.execOutputRequest who v s
  | .onfail out sfb => Sys2Proof.Machine.execOnfail out sfb s
  | .weld out sfb => Sys2Proof.Machine.execWeld out sfb s
  | .outputReadbackFault out => Sys2Proof.Machine.execOutputReadbackFault out s
  | .safeFrameTx conn => Sys2Proof.Machine.execSafeFrameTx conn s
  | .connFail conn => Sys2Proof.Machine.execConnFail conn s
  | .connRestart who conn => Sys2Proof.Machine.execConnRestart who conn s
  | .safeStartupTest pass imageOk => Sys2Proof.Machine.execSafeStartupTest pass imageOk s
  | .wen who on => Sys2Proof.Machine.execWen who on s
  | .mramWrite who addr v => Sys2Proof.Machine.execMramWrite who addr v s
  | .xinj who => Sys2Proof.Machine.execXinj who s
  | .oinj who => Sys2Proof.Machine.execOinj who s
  | .harvestSample vharv => Sys2Proof.Machine.execHarvestSample vharv s
  | .harvest => Sys2Proof.Machine.execHarvest s
  | .cellMeasurement vcell icell => Sys2Proof.Machine.execCellMeasurement vcell icell s
  | .cellDisconnect => Sys2Proof.Machine.execCellDisconnect s
  | .chgFault => Sys2Proof.Machine.execChgFault s
  | .rtcSecond => Sys2Proof.Machine.execRtcSecond s
  | .rtcRealign => Sys2Proof.Machine.execRtcRealign s
  | .rtcset who => Sys2Proof.Machine.execRtcset who s
  | .trimLearn keep => Sys2Proof.Machine.execTrimLearn keep s
  | .checkpointCommit verified => Sys2Proof.Machine.execCheckpointCommit verified s
  | .lifeWrite => Sys2Proof.Machine.execLifeWrite s
  | .housekeepingBurst => Sys2Proof.Machine.execHousekeepingBurst s
  | .tempRead temp => Sys2Proof.Machine.execTempRead temp s
  | .agingCount monitor count => Sys2Proof.Machine.execAgingCount monitor count s
  | .tfail who => Sys2Proof.Machine.execTfail who s
  | .monFail bits low ref => Sys2Proof.Machine.execMonFail bits low ref s
  | .syspllReset => Sys2Proof.Machine.execSyspllReset s
  | .clockOutputSetup who out setup => Sys2Proof.Machine.execClockOutputSetup who out setup s
  | .clockFormatChange who out fmt => Sys2Proof.Machine.execClockFormatChange who out fmt s
  | .wdogKick who v => Sys2Proof.Machine.execWdogKick who v s
  | .wdogExpire => Sys2Proof.Machine.execWdogExpire s
  | .hcRelease who v => Sys2Proof.Machine.execHcRelease who v s
  | .bootSearch flashA flashB keyX keyY => Sys2Proof.Machine.execBootSearch flashA flashB keyX keyY s
  | .boundaryScanInstruction extest pattern => Sys2Proof.Machine.execBoundaryScanInstruction extest pattern s
  | .vkeepLoss words => Sys2Proof.Machine.execVkeepLoss words s
  | .pllRelock bits ref => Sys2Proof.Machine.execPllRelock bits ref s
  | .ethLinkDown port => Sys2Proof.Machine.execEthLinkDown port s
  | .illegalOpcode w => Sys2Proof.Machine.execIllegalOpcode w s
  | .blankingWindowStart tw => Sys2Proof.Machine.execBlankingWindowStart tw s
  | .gridLoopTrim => Sys2Proof.Machine.execGridLoopTrim s
  | .debugHoldRelease => Sys2Proof.Machine.execDebugHoldRelease s
  | .hostMemoryAccess who mram addr write upset => Sys2Proof.Machine.execHostMemoryAccess who mram addr write upset s
  | .tapAck port lane block eye => Sys2Proof.Machine.execTapAck port lane block eye s
  | .linkTestEntry port ready => Sys2Proof.Machine.execLinkTestEntry port ready s

end Sys2Proof.Machine
end

