-- ==== Sys2Proof/Safety.lean ====
section
/-! DEFINITION. What a well-formed state is: the register file and the two memories hold their canonical form. Every claim that reads
a register after it was written needs it, and every step keeps it. -/

namespace Sys2Proof.Machine

open Sys2Proof

/-- The canonical form of a memory: addresses strictly rising, and no entry equal to what an unlisted address reads as. -/
def Memory.wf (d : Nat → Byte) (m : List Host.Cell) : Bool := Tab.wf d m

/-- The canonical form of the register file, the shared SRAM and the embedded MRAM. -/
def State.Wf (s : State) : Prop :=
  Tab.wf regReset s.regs = true ∧ Memory.wf memDefault s.sram = true ∧ Memory.wf mramDefault s.mram = true

/-- A read of a byte of the shared SRAM and of the embedded MRAM gives the same in two states. -/
def State.sameMemory (s t : State) : Prop := t.sram = s.sram ∧ t.mram = s.mram

/-- A field of a 32-bit word. -/
abbrev Fld.ok (f : Fld) : Prop := f.lo ≤ f.hi ∧ f.hi ≤ 31
/-- Two fields share no bit. -/
abbrev Fld.apart (f g : Fld) : Prop := f.addr ≠ g.addr ∨ f.hi < g.lo ∨ g.hi < f.lo

/-- A register file reads alike in two states in every field that shares no bit with the fields listed. -/
def State.sameElse (s t : State) (fs : List Fld) : Prop :=
  ∀ g : Fld, g.lo ≤ g.hi → (∀ f ∈ fs, Fld.apart f g) → t.get g = s.get g
/-- Nothing but the register file differs between two states, with the record of its upsets: its parity bits, and the SAFE parameter
bits in which the two copies differ. -/
def State.onlyRegs (s t : State) : Prop :=
  { t with regs := s.regs, parFlip := s.parFlip, safe := { t.safe with flips := s.safe.flips } } = s

/-- A register access with machine privilege takes place: the blocks outside the Origin domain work, the core makes accesses (R21), and
its access is a machine-mode one or the debug port's (R31). -/
def State.commands (s : State) (who : Who) : Prop := s.alive = true ∧ s.initiates who = true ∧ machineAccess who = true

/-- An event of Gnomon time `at_` has entered the path to the log engine, or waits for the first tick start while the counter does not
run (R17, R52). -/
def State.Logged (s t : State) (at_ src inst code data : Nat) : Prop :=
  t.log = if s.time.run = true then { s.log with inflight := s.log.inflight ++ [{ t := clockOf at_, src, inst, code, data }] }
    else { s.log with early := s.log.early ++ [{ t := clockOf at_, src, inst, code, data }] }

/-- A write to the register at an offset of a page has been ignored, in whole or in part (R32): the page shows the cause and the offset,
counts it, sets IRQ_STAT[30] and logs it; no other register has changed. -/
def State.Ignored (s t : State) (who : Who) (k : PageKind) (n off cause : Nat) : Prop :=
  t.get (F.lastCause (pageBase k n)) = cause ∧ t.get (F.lastOffset (pageBase k n)) = off ∧
  t.get (F.refused (pageBase k n)) = (s.get (F.refused (pageBase k n)) + 1) % 256 ∧ t.flag ((F.irqStat (pageBase k n)).bit 30) = true ∧
  s.sameElse t [F.lastCause (pageBase k n), F.lastOffset (pageBase k n), F.refused (pageBase k n), (F.irqStat (pageBase k n)).bit 30] ∧
  s.Logged t s.time.now k.info.src 63 0x7C2 (accessData who (pageBase k n + off) true cause) ∧ t.time = s.time ∧ s.sameMemory t

/-- A value of a tighten-only field is less strict than the held one, by the direction of the field's register table (R38): "lower" and
"higher" compare numbers, the S forms two's-complement ones, and "set" of a row of bits each bit; a ride-through bound tightens upwards in
regions 0 to 3 and downwards in the others (R196). -/
def looser (f : FieldSpec) (region w held : Nat) : Bool :=
  match f.tight with
  | none => false
  | some .lower => decide (held < w)
  | some .higher => if f.perBit = true then w &&& held != held else decide (w < held)
  | some .lowerS => decide (signed (f.hi + 1 - f.lo) held < signed (f.hi + 1 - f.lo) w)
  | some .higherS => decide (signed (f.hi + 1 - f.lo) w < signed (f.hi + 1 - f.lo) held)
  | some .byRegion => if region < 4 then decide (w < held) else decide (held < w)

/-- A value of each element summed over the elements of METER_CFG.SYS (R306, R310). -/
def State.systemSum {α : Type} [Add α] [OfNat α 0] (s : State) (f : Nat → α) : α :=
  (((List.range 8).filter fun e => (s.get R.METER_CFG_SYS).testBit e).map f).foldl (· + ·) 0
/-- The energy that window w gives element e of state s: none where the element does not run at the end of the window, in state t, or where it has
lost a channel (R310, R313, R317). -/
def State.windowEnergy (t s : State) (w : MWin) (f : ElemOut → Int) (e : Nat) : Int :=
  if t.meter.running.testBit e && !s.elemLost e then f (s.elemOut w e) else 0
/-- The energy of set k: that of its element, or the system's. -/
def State.setEnergy (s : State) (f : Nat → Int) (k : Nat) : Int := if k = 8 then s.systemSum f else f k

/-- A ring's fill stands at its watermark (R44). -/
def State.atMark (s : State) (r : Nat) : Bool :=
  s.ringOn r && s.get (R.RING_CFG_WMARK r) != 0 &&
    decide (s.get (R.RING_CFG_WMARK r) ≤ if ringIsConsumer r then s.ringN r - s.ringFill r else s.ringFill r)

/-- What a tick boundary at Gnomon time `at_` leaves (R58 to R62, R22, R105, R127, R130, R261, R262, R277, R340), `b` being the state that
reaches it: the work of every block is open again and the tick ends at the first grid instant at least half a period ahead, one period on
where it begins on the grid; a pending step is applied unless legs switch from here, and is held and flagged where they do; the setpoint
words of Vertex take the setpoint page, queued coefficients are written in their order, and a requested bank swap is done and logged; every
port that is UP is given its TICK mark and slews DDOWN by at most one unit; a requested profile is in effect from a boundary of 10 µs where
no leg switches, which cuts slots 14 and 15 of FINE and disables legs that fail their checks; and the lines of source 1 pulse. -/
def State.TickBegun (b t : State) (at_ : Nat) : Prop :=
  (t.time.up = b.time.up ∧ t.mram = b.mram ∧ t.ce.frozen = false ∧ t.ce.computing = false ∧ t.poly.latched = false ∧ t.poly.built = false ∧
    t.poly.released = false ∧ t.poly.guarded = false) ∧
  (t.time.tickEnd % t.tickQ = 0 ∧ t.time.tickStart + t.tickQ / 2 ≤ t.time.tickEnd ∧
    (∀ n : Nat, n % t.tickQ = 0 → t.time.tickStart + t.tickQ / 2 ≤ n → t.time.tickEnd ≤ n) ∧
    (t.time.tickStart % t.tickQ = 0 → t.time.tickEnd = t.time.tickStart + t.tickQ)) ∧
  ((b.time.step = none → t.time.tickStart = at_ ∧ t.time.now = b.time.now) ∧
    ∀ d : Int, b.time.step = some d →
      (t.switching = true → t.time.tickStart = at_ ∧ t.time.now = b.time.now ∧ t.time.step = some d ∧ t.time.heldLogged = true) ∧
      (t.switching = false → t.time.now = steppedTime b.time.now d ∧ t.time.tickStart = t.time.now ∧ t.time.step = none ∧
        t.flag R.TIME_STAT_STEPPED = true ∧ t.flag R.TIME_STAT_ARMED = false ∧ t.flag R.TIME_STAT_PEND = false)) ∧
  ((∀ q ∈ b.ce.held, q.1 < 0x1C0) → ∀ k : Fin 256, t.ceWord (0x200 + k) = t.get (R.CE_SET k)) ∧
  (t.ce.coefQ = [] ∧ t.ce.coef = b.ce.coefQ.foldl (fun tab q => Tab.set zeroElemAt tab q.1 q.2) b.ce.coef ∧
    (b.ce.coefQ ≠ [] → t.get R.CE_CSTAT_QCOUNT = 0 ∧ t.get R.CE_CSTAT_LAST = t.tickNo % 2 ^ 24)) ∧
  (b.flag R.CE_PROG_PEND = true → t.flag R.CE_PROG_PEND = false ∧ t.get R.CE_PROG_BANK = 1 - b.get R.CE_PROG_BANK ∧
    t.flag ((F.irqStat (pageBase .ce 0)).bit 4) = true ∧
    { t := clockOf t.time.now, src := 6, inst := 63, code := 0x082, data := t.get R.CE_PROG_BANK + t.vEntry * 2 } ∈ t.log.inflight) ∧
  (∀ p : Fin 8, b.linkUp p = true →
    (∀ d : Int, d = b.get (R.LINK_LAT_DDOWN p) →
      (t.get (R.LINK_LAT_DDOWN p) : Int) = (if d < b.ddownTarget p then d + 1 else if b.ddownTarget p < d then d - 1 else d) % 65536) ∧
    ⟨prTICK, 0, 8, stateBlock 0 0 (t.tickNo % 256) (t.slotDelay t.slotsBegun + t.get (R.LINK_LAT_DDOWN p)) t.fine.toNat⟩ ∈
      (t.port p).wait) ∧
  ((t.switching = true ∨ t.time.tickStart % 40000 ≠ 0 → t.fine = b.fine) ∧
    (t.switching = false → t.time.tickStart % 40000 = 0 → t.fine = t.flag R.SYS_TICK_CFG_PROFILE) ∧
    (t.fine ≠ b.fine → t.get R.COM_SET_LEGS = t.enabledLegs ∧
      ∀ n : Fin 64, b.flag (R.LEG_CTL_EN n) = true → b.legCheck n t.tickU ≠ 0 → t.flag (R.LEG_CTL_EN n) = false ∧
        { t := clockOf t.time.now, src := 4, inst := n, code := 0x427, data := b.legCheck n t.tickU } ∈ t.log.inflight) ∧
    (b.fine = false → t.fine = true → ∀ k : Fin 128, 14 ≤ k.val % 16 → t.flag (R.ADC_SLOT_EN k) = false ∧
      (b.flag (R.ADC_SLOT_EN k) = true → t.flag R.ADC_STAT_CUT = true))) ∧
  ∀ x : Fin 16, t.get (R.TRIG_LINE_SRC x) = 1 → (x.val, t.time.now) ∈ t.time.lineDue

/-- What the end of a power-up or of main reset leaves: the device works in mode WAKE with Gnomon at the whole second of the RTC and
not running, the straps sampled, SRAM cleared (the model's choice), MRAM kept, every link OFF, no command lost. -/
def State.Released (s t : State) (prof bootsel : Nat) (xtal : Bool) : Prop :=
  t.alive = true ∧ t.majorMode = mWAKE ∧ t.time.run = false ∧ t.sys.prof = prof ∧ t.sys.bootsel = bootsel ∧
  t.get R.SYS_BOOT_BOOTSEL = bootsel ∧ t.get R.SYS_MODE_STAT_ROMPROF = prof ∧ t.flag R.CLK_REF_XTAL = xtal ∧
  t.get R.CLK_PLL_LOCK = 5 ∧ t.sram = [] ∧ t.mram = s.mram ∧ t.ports = [] ∧ t.mode = {} ∧ t.pending = s.pending ∧
  t.sys.keys = [] ∧ t.sys.bootDone = false ∧ t.sys.sealed = s.sys.sealed ∧ t.sys.rstSrc = 0

/-- The commands that never store into the shared SRAM: they write no ring, no log entry and no load image. -/
def sramSilent (i : Instr) : Bool :=
  match i with
  | .burstEnergyLost _ | .originPowerOn | .sealChange _ | .autoStart | .inputFreeze | .computeStart | .vNop _ | .vEnd _ | .vLd _
  | .vLdc _ | .vSt _ | .vSto _ | .vLda _ | .vSeta _ | .vAdd _ | .vSub _ | .vMul _ | .vMuls _ | .vMax _ | .vMin _ | .vNeg _
  | .vAbs _ | .vShl _ | .vClamp _ | .vSel _ | .vRsum _ | .vMacz _ | .vMac _ | .vMaczs _ | .vMacs _ | .vAcc _ | .vCgt _ | .vCge _
  | .vSin _ | .vCos _ | .vSqrt _ | .vRcp _ | .vJmp _ | .vJany _ | .vJnone _ | .vLoop _ | .programAbandon | .edgeSetRelease
  | .keyExpiry _ | .accessUnimpl _ _ | .parityScrub _ _ | .tagQuarantineEnd _ _ | .auxPeriodStart _ | .auxoffConfirm _
  | .confTimeout _ | .clockPhaseDone _ _ | .eqPhaseDone _ | .tapRequest _ _ | .linkUp _ _ _
  | .backoffEnd _ | .latencyProbe _ | .probeEcho _ _ _ | .sample _ _ _ | .invalidBlock _ _ _ _ | .genRequest | .pgTrip
  | .pguardOn | .gcEvaluation | .freqLimitConfirm _ | .rocofConfirm | .slotResponse | .islCeased | .clearMissed
  | .slopeEvaluation | .scanDone _ | .adcStartupCal _ | .triggerPulse _ | .generatorPulse _ | .rotCalibrationDone _ _ _
  | .rotShadowDone _ | .rotDwellEnd | .cmpRawChange _ _ | .blankingWindowEnd _ | .thresholdRefresh _ | .meterRotationStep _ _
  | .measTimeout | .holdoverExpiry | .syncInEdge _ _ | .ethLinkUp _ _ | .driveDecision _ | .decisionDeadline _ | .catchDone _
  | .alignDone _ | .stopHoldDone _ | .positionReached _ | .stowDone _ | .shortEnd _ | .chopperUpdate _ | .brkFault _
  | .hallChange _ _ _ | .indexEdge _ | .secantCycle _ | .chordEvaluation _ | .sinLevelChange _ _ _ _ | .discrepancy _ | .safeFault _
  | .secantWd | .crossTimeout | .onfail _ _ | .weld _ _ | .outputReadbackFault _ | .connFail _ | .safeStartupTest _ _
  | .mramWrite _ _ _ | .harvestSample _ | .harvest | .cellMeasurement _ _ | .cellDisconnect | .chgFault | .rtcSecond
  | .rtcRealign | .trimLearn _ | .checkpointCommit _ | .lifeWrite | .housekeepingBurst | .tempRead _ | .agingCount _ _
  | .boundaryScanInstruction _ _ | .vkeepLoss _ | .pllRelock _ _ | .ethLinkDown _ | .illegalOpcode _ | .blankingWindowStart _
  | .gridLoopTrim | .debugHoldRelease | .tapAck _ _ _ _ => true
  | _ => false

/-- The pages whose registers have no effect beyond what they hold. -/
def silentPage (k : PageKind) : Bool :=
  match k with
  | .ceset | .slope | .scan | .adc | .mpmu | .arc | .sin | .sconn | .ringc | .gc | .locus | .cesup => true
  | _ => false

/-! ## Vertex -/

/-- The running program holds the word of a legal instruction at its counter, with at most one wrong bit, and Compute does not end before
the instruction has issued (R19, R250, R251, R256). -/
def State.VIssues (s : State) (w : Dword) : Prop :=
  s.vFetches w = true ∧ (Ins.of w.toNat).illegal = false ∧ s.ce.clk < s.vSpan ∧
  s.vStart (Ins.of w.toNat) + (Ins.of w.toNat).issue ≤ s.vSpan ∧ s.wrongBits 4 (s.progAddr s.ce.pc) ≠ 2
/-- The exact results with the elements that the mask keeps (R249): an element whose bit is 0 packs its old value. -/
def State.vMasked (s : State) (i : Ins) (ys : List Exact) : List Exact :=
  if i.men then (List.range ys.length).map fun k =>
    if (s.vmask i.msel).testBit k then ys.getD k (.dy Dy.zero) else .dy ((s.stageVals i.d ys.length).getD k Dy.zero)
  else ys
/-- The exponent of a pack at a fixed exponent (R244). -/
def Ins.fixedExp (i : Ins) : Option Int := if i.fx then some (signed 8 i.exp) else none
/-- The address registers after a post-increment (R250). -/
def State.vBumped (s : State) (i : Ins) (r : Nat) : Nat :=
  if opMem i.op = true ∧ i.am = 2 ∧ r = i.areg then (s.areg r + i.n) % 65536 else s.areg r
/-- The value that a load of a data word gives (R248, R252). -/
def State.vLoadVal (s : State) (a : Nat) : Dy :=
  if 0x300 ≤ a % 65536 ∧ a % 65536 < 0x380 then ⟨Tab.get zeroIntAt s.ce.slots (a % 65536 - 0x300), -24⟩
  else if 0x1C0 ≤ a % 65536 ∧ a % 65536 < 0x200 then ⟨0, -151⟩
  else elemVal (s.ceWord a)
/-- A data word that a program may load and that has at most one wrong bit. -/
def State.vLoadable (s : State) (a : Nat) : Prop := ¬ (0x3A0 ≤ a % 65536 ∧ a % 65536 < 0x400) ∧ a % 65536 ∉ s.ce.err2
/-- n coefficients that exist and have at most one wrong bit each. -/
def State.vCoefs (s : State) (a n : Nat) : Prop := a + n ≤ 0x2000 ∧ ∀ k, k < n → s.wrongBits 6 (a + k) ≠ 2
/-- The commands of the instructions of R251, with their opcodes. -/
def vInstrs (w : Dword) : List (Nat × Instr) :=
  [(0x00, .vNop w), (0x01, .vEnd w), (0x02, .vLd w), (0x03, .vLdc w), (0x04, .vSt w), (0x05, .vSto w), (0x06, .vLda w), (0x07, .vSeta w),
   (0x08, .vAdd w), (0x09, .vSub w), (0x0A, .vMul w), (0x0B, .vMuls w), (0x0C, .vMax w), (0x0D, .vMin w), (0x0E, .vNeg w), (0x0F, .vAbs w),
   (0x10, .vShl w), (0x11, .vClamp w), (0x12, .vSel w), (0x13, .vRsum w), (0x14, .vMacz w), (0x15, .vMac w), (0x16, .vMaczs w),
   (0x17, .vMacs w), (0x18, .vAcc w), (0x19, .vCgt w), (0x1A, .vCge w), (0x1B, .vSin w), (0x1C, .vCos w), (0x1D, .vSqrt w), (0x1E, .vRcp w),
   (0x20, .vJmp w), (0x21, .vJany w), (0x22, .vJnone w), (0x23, .vLoop w)]
/-- What every instruction that completes does beside its result: it has issued, and the clock, the memories, the program and the
committed slots are as they were. -/
def State.VDone (s t : State) (i : Ins) : Prop :=
  t.ce.running = true ∧ t.ce.clk = s.vStart i + i.issue ∧ t.time = s.time ∧ s.sameMemory t ∧ t.ce.prog = s.ce.prog ∧
  t.ce.coef = s.ce.coef ∧ t.ce.duty = s.ce.duty ∧ t.ce.pred = s.ce.pred
/-- The program goes on with the next instruction, or with the first of a loop whose count has not run out (R251). -/
def State.VNext (s t : State) : Prop := (t.ce.pc, t.ce.loops) = loopNext s.ce.pc s.ce.loops
/-- A Vertex fault (R259): the program stops, nothing is committed, the registers hold the code and the place. -/
def State.VFaulted (s t : State) (code : Nat) : Prop :=
  t.ce.running = false ∧ t.ce.faulted = true ∧ t.get R.CE_STAT_FAULT = 1 ∧ t.get R.CE_STAT_FCODE = code ∧ t.get R.CE_STAT_DONE = 0 ∧
  t.get R.CE_STAT_BUSY = 0 ∧ t.get R.CE_FAULTPC_PC = s.ce.pc % 8192 ∧ t.get R.CE_FAULTPC_BANK = s.get R.CE_PROG_BANK ∧
  t.ce.duty = s.ce.duty ∧ t.ce.pred = s.ce.pred ∧ t.ce.stages = s.ce.stages ∧ t.ce.data = s.ce.data ∧ t.ce.slots = s.ce.slots ∧
  t.time = s.time ∧ s.sameMemory t

end Sys2Proof.Machine
end

