-- ==== Sys2Proof/Certificates/Slice0/Obligations.lean ====
section
/-! DEFINITION. What is to be proved of the model. Each statement formalises the rules of spec/ that its docstring names; where a clause
rests on a choice of the model, the docstring says so. A command by `who` is stated for an access that takes place with machine privilege
(`State.commands`); WindowAccesses says what other accesses do. -/

open Sys2Proof Sys2Proof.Machine

/-- The command at the front of the queue is taken and executed on the state with the queue's rest. -/
def Obligations.StepRunsFrontCommand : Prop :=
  ∀ (s : State) (c : Instr) (rest : List Instr), s.pending = c :: rest → step s = exec c { s with pending := rest }

/-- On an empty queue one TIME clock of 1.25 ns passes and nothing else happens (the model's choice, log entry 1); at the rate of the
reference it lasts five units of elapsed time. A step that goes on has removed exactly the command at the front, and elapsed time has not
gone back. A command that waits until an elapsed or a Gnomon time lets whole TIME clocks pass, the fewest that reach it, and none where it is
past; nothing but time changes while it waits (`advUp`, `advTo`). -/
def Obligations.QueueAndIdle : Prop :=
  (∀ s : State, s.pending = [] →
     ∃ t, step s = .next t ∧ t.time.osc = s.time.osc + 5 ∧ t.time.now = s.time.now + (if s.time.run then 5 else 0) ∧
       s.time.up < t.time.up ∧ (s.time.rate = 0 → t.time.up = s.time.up + 5) ∧
       t.time = { s.time with up := t.time.up, now := t.time.now, osc := t.time.osc } ∧ { t with time := s.time } = s) ∧
  (∀ s t : State, step s = .next t → t.pending = s.pending.tail ∧ s.time.up ≤ t.time.up) ∧
  (∀ (s : State) (u : Nat),
     max s.time.up u ≤ (s.advUp u).time.up ∧ (u ≤ s.time.up → s.advUp u = s) ∧ { s.advUp u with time := s.time } = s ∧
     (s.time.rate = 0 → s.time.up < u → (s.advUp u).time.up < u + 5) ∧
     (s.time.run = true → s.time.up < u → (s.advUp u).time.now % 5 = 0)) ∧
  ∀ (s : State) (u : Nat), s.time.run = true →
     (u ≤ s.time.now → s.advTo u = s) ∧ { s.advTo u with time := s.time } = s ∧
     (s.time.now < u → (s.advTo u).time.now = (u + 4) / 5 * 5 ∧ s.time.up ≤ (s.advTo u).time.up)

/-- After the first power-up: mode WAKE, WIDE, no request (TARGET 2, its reset value); every key closed; cause POWER; the PLLs of LOCK 5;
the event log routed as R55; every ring off, every port and every drive OFF, Gnomon not running; both memories without an entry (what they
then read as is the choice of log entries 6 and 7), the queue empty. -/
def Obligations.ResetState : Prop :=
  State.reset.Wf ∧ State.reset.pending = [] ∧ State.reset.alive = true ∧ State.reset.time.run = false ∧
  State.reset.majorMode = mWAKE ∧ State.reset.fine = false ∧ State.reset.mode.req = none ∧ State.reset.get R.SYS_MODE_REQ_TARGET = 2 ∧
  State.reset.get R.SYS_RST_CAUSE_CAUSE = 1 ∧ State.reset.get R.CLK_PLL_LOCK = 5 ∧
  State.reset.get R.RING_EVT_ROUTE_INFO = 3 ∧ State.reset.get R.RING_EVT_ROUTE_WARN = 2 ∧
  State.reset.get R.RING_EVT_ROUTE_FAULT = 1 ∧ State.reset.get R.RING_EVT_ROUTE_SAFETY = 0 ∧
  (∀ b, State.reset.keyOpen b = false) ∧ State.reset.sram = [] ∧ State.reset.mram = [] ∧
  (∀ r : Fin 48, State.reset.ringOn r.val = false) ∧ (∀ p : Fin 8, State.reset.linkState p.val = stOFF) ∧
  ∀ d : Fin 3, State.reset.drvState d.val = dOFF

/-- Every step keeps the canonical form of the register file and of the two memories. -/
def Obligations.StepKeepsCanonicalForm : Prop :=
  ∀ s t : State, s.Wf → step s = .next t → t.Wf

/-- The embedded MRAM changes only by a store of a host core or by a first aging count, and the filtered level of SEAL_N only by
SEAL_CHANGE. A step on an empty queue, or whose command is one of the 131 of `sramSilent` (they write no ring, no log entry and no load
image), leaves every byte of the shared SRAM. -/
def Obligations.MemoryFrames : Prop :=
  (∀ s t : State, step s = .next t →
     (∀ m c rest, s.pending ≠ .agingCount m c :: rest) → (∀ w a v rest, s.pending ≠ .mramWrite w a v :: rest) →
     (∀ w m a v e rest, s.pending ≠ .hostMemoryAccess w m a v e :: rest) → ∀ a, t.mramByte a = s.mramByte a) ∧
  (∀ s t : State, step s = .next t → (∀ b rest, s.pending ≠ .sealChange b :: rest) → t.sys.sealed = s.sys.sealed) ∧
  (∀ s t : State, step s = .next t → (∀ c rest, s.pending = c :: rest → sramSilent c = true) → ∀ a, t.sramByte a = s.sramByte a)

/-- R28: reading an implemented register changes nothing at all. -/
def Obligations.ReadsChangeNothing : Prop :=
  ∀ (s : State) (who : Who) (a : Nat), inWindow a = true → findReg (a / 4 * 4) ≠ none → exec (.accessUnimpl who a) s = .next s

/-- R445, R446: each source of main reset asserts it while the main rails are good and main reset is released: the blocks outside the Origin
domain stop working, the event log is empty and the cause bit is kept (pin 1, software 2, watchdog 3, JTAG 4, SYS PLL 5). The watchdog acts
when it is enabled and TIMEOUT milliseconds have passed since its restart, within the next TIME clock (R9, log entry 2), and the SYS PLL 1 ms
after its loss of lock. Step 3 lies within the 6 µs of R446 after the request (`rstUp`), and no port or gate drives any more. Software needs the key of the SYS page, which its command uses up; with the key closed its write is ignored with
cause 1. R446: during the sequence a further pin or JTAG source adds its cause bit and changes nothing else. Without main rails neither
does anything. -/
def Obligations.ResetSources : Prop :=
  (∀ s : State, s.alive = true →
     (∀ q ∈ [(Instr.pinReset, 1), (.jtagSystemReset, 4)],
       ∃ t, exec q.1 s = .next t ∧ t.sys.inReset = true ∧ t.sys.rstSrc = 2 ^ q.2 ∧ t.alive = false ∧ s.time.up ≤ t.sys.rstUp ∧
         t.sys.rstUp ≤ s.time.up + 24000 ∧ t.time.up = s.time.up ∧ t.log = {} ∧ t.ports = [] ∧ (∀ m : Fin 20, (t.aux m).gate = false) ∧
         (∀ p : Fin 8, t.linkState p = stOFF) ∧ (∀ k : Fin 2, t.flag (R.BRK_STAT_ON k) = false) ∧ t.flag R.TRIP_PG_STAT_ON = false) ∧
     (s.flag R.SYS_WDT_CFG_EN = true →
       ∃ t u, exec .wdogExpire s = .next t ∧ t.sys.inReset = true ∧ t.sys.rstSrc = 2 ^ 3 ∧ t.alive = false ∧ t.log = {} ∧
         u = s.advUp (s.sys.wdtUp + 4000000 * s.get R.SYS_WDT_CFG_TIMEOUT) ∧ u.time.up ≤ t.sys.rstUp ∧
         t.sys.rstUp ≤ u.time.up + 24000 ∧ t.time.up = u.idle.time.up) ∧
     (∀ v, s.sys.lockLossUp = some v →
       ∃ t u, exec .syspllReset s = .next t ∧ t.sys.inReset = true ∧ t.sys.rstSrc = 2 ^ 5 ∧ t.alive = false ∧ t.log = {} ∧
         u = s.advUp (v + 4000000) ∧ u.time.up ≤ t.sys.rstUp ∧ t.sys.rstUp ≤ u.time.up + 24000 ∧ t.time.up = u.idle.time.up) ∧
     (∀ who : Who, s.commands who → s.Wf →
       (s.keyOpen (pageBase .sys 0) = true →
         ∃ t, exec (.swrst who) s = .next t ∧ t.sys.inReset = true ∧ t.sys.rstSrc = 2 ^ 2 ∧ s.time.up ≤ t.sys.rstUp ∧
           t.sys.rstUp ≤ s.time.up + 24000 ∧ t.alive = false ∧ t.time.up = s.time.up ∧ t.keyOpen (pageBase .sys 0) = false) ∧
       (s.keyOpen (pageBase .sys 0) = false →
         ∃ t, exec (.swrst who) s = .next t ∧ s.Ignored t who .sys 0 0x048 1 ∧ t.sys = s.sys))) ∧
  (∀ s : State, s.majorMode ≠ mDARK → s.sys.inReset = true →
     exec .pinReset s = .next { s with sys := { s.sys with rstSrc := s.sys.rstSrc ||| 2 ^ 1 } } ∧
     exec .jtagSystemReset s = .next { s with sys := { s.sys with rstSrc := s.sys.rstSrc ||| 2 ^ 4 } }) ∧
  (∀ s : State, s.majorMode = mDARK → exec .pinReset s = .next s ∧ exec .jtagSystemReset s = .next s)

/-- R445, R446, R448: power-up ends DARK with cause POWER alone; the release of main reset needs SYS and LINK locked and REF running (R440,
R455), comes at least 10 µs after its assertion and shows every cause collected since; without them reset stays. Either ends in WAKE with the straps sampled and Gnomon not running (`State.Released`). Outside DARK a
power-up, and outside main reset a release, changes nothing. -/
def Obligations.PowerUpAndRelease : Prop :=
  ∀ (s : State) (prof : Fin 16) (bootsel : Fin 4) (xtal : Bool),
    (s.majorMode = mDARK →
      ∃ t, exec (.powerUp prof bootsel xtal) s = .next t ∧ t.get R.SYS_RST_CAUSE_CAUSE = 1 ∧ s.Released t prof bootsel xtal) ∧
    (s.majorMode ≠ mDARK → s.sys.inReset = true →
      s.flag (R.CLK_PLL_LOCK.bit 0) = true ∧ s.flag (R.CLK_PLL_LOCK.bit 2) = true ∧ s.sys.monCond.testBit 0 = false →
      ∃ t, exec (.mainResetRelease prof bootsel xtal) s = .next t ∧ t.get R.SYS_RST_CAUSE_CAUSE = s.sys.rstSrc % 64 ∧
        t.time.up = (s.advUp (s.sys.rstUp + 40000)).time.up ∧ s.Released t prof bootsel xtal) ∧
    (s.majorMode ≠ mDARK → exec (.powerUp prof bootsel xtal) s = .next s) ∧
    (s.majorMode = mDARK ∨ s.sys.inReset = false ∨ s.flag (R.CLK_PLL_LOCK.bit 0) = false ∨ s.flag (R.CLK_PLL_LOCK.bit 2) = false ∨
        s.sys.monCond.testBit 0 = true → exec (.mainResetRelease prof bootsel xtal) s = .next s)

/-- R68, R69, R429: a failure of the main rails makes the device DARK: the mode before it is kept, RAILS reads 0, every port is OFF, the
event log and Gnomon are gone (what is left of time is the elapsed time, which has not moved), every drive is OFF and Arc holds no position
(R356, R373), and no command is lost. In DARK a further
failure changes nothing. -/
def Obligations.MainRailFailure : Prop :=
  ∀ (s : State) (part : Option (Fin 64)),
    (s.majorMode ≠ mDARK →
      ∃ t, exec (.mainRailFailure part) s = .next t ∧ t.majorMode = mDARK ∧ t.alive = false ∧ t.get R.ORIGIN_STAT_RAILS = 0 ∧ t.log = {} ∧
        t.time = { up := s.time.up } ∧ t.org.darkUp = s.time.up ∧ t.sys.inReset = false ∧ t.sys.rstSrc = 0 ∧
        t.get R.SYS_MODE_STAT_PREV = s.majorMode ∧ (∀ p : Fin 8, t.linkState p = stOFF) ∧ t.pending = s.pending ∧ t.mram = s.mram ∧
        ∀ d : Fin 3, t.drvState d = dOFF ∧ t.get (R.ARC_POS_POS d) = 0 ∧ t.get (R.ARC_REV d) = 0 ∧ t.flag (R.ARC_STAT_HOMED d) = false) ∧
    (s.majorMode = mDARK → exec (.mainRailFailure part) s = .next s)

/-- R36: a write of 0xC5A1 to KEY with machine privilege opens the key of that page alone and changes no register; any other value closes
it, leaves the other keys and is ignored with cause 2; below machine mode a write of KEY other than 0 is ignored with cause 4, one of 0
leaves no trace (R472), and no key changes. R36: a key that is open closes when 1024 FABRIC clocks of 2 ns have passed since the write that
opened it; until then it is open. -/
def Obligations.KeyOfAPage : Prop :=
  (∀ (s : State) (who : Who) (k : PageKind) (n : Nat) (v : Word), n < k.info.count → s.alive = true → s.initiates who = true →
     (machineAccess who = true → v = 0xC5A1#32 →
       ∃ t, exec (.key who (pageBase k n + 8) v) s = .next t ∧ t.keyOpen (pageBase k n) = true ∧
         (∀ b, b ≠ pageBase k n → t.keyOpen b = s.keyOpen b) ∧ { t with sys := { t.sys with keys := s.sys.keys } } = s) ∧
     (machineAccess who = true → v ≠ 0xC5A1#32 →
       ∃ t, exec (.key who (pageBase k n + 8) v) s = .next t ∧ t.keyOpen (pageBase k n) = false ∧
         (∀ b, b ≠ pageBase k n → t.keyOpen b = s.keyOpen b) ∧ s.Ignored t who k n 8 2) ∧
     (machineAccess who = false → v ≠ 0#32 →
       ∃ t, exec (.key who (pageBase k n + 8) v) s = .next t ∧ t.sys = s.sys ∧ s.Ignored t who k n 8 4) ∧
     (machineAccess who = false → v = 0#32 → exec (.key who (pageBase k n + 8) v) s = .next s)) ∧
  (∀ (s : State) (k : PageKind) (n u : Nat), n < k.info.count → s.alive = true → s.sys.keys.get noStart (pageBase k n) = some u →
     (s.keyOpen (pageBase k n) = true ↔ s.time.up ≤ u + 8192) ∧
     ∃ t, exec (.keyExpiry (pageBase k n + 8)) s = .next t ∧ t.keyOpen (pageBase k n) = false ∧
       (∀ b, b ≠ pageBase k n → t.sys.keys.get noStart b = s.sys.keys.get noStart b) ∧
       t.time = (s.advUp (u + 8192)).time ∧ t.regs = s.regs ∧ t.log = s.log ∧ s.sameMemory t)

/-- R35: a write of IRQ_FORCE sets in IRQ_STAT of that page the bits written 1 and changes nothing else. On a protection page (class 1) a
write below machine mode sets none of them and is ignored with cause 4 (the debug port has machine privilege, R31); one of 0 leaves no trace
(R472). -/
def Obligations.IrqForce : Prop :=
  ∀ (s : State) (who : Who) (k : PageKind) (n : Nat) (v : Word), n < k.info.count → s.alive = true → s.initiates who = true → s.Wf →
    (machineAccess who = true ∨ k.info.cls ≠ 1 →
      ∃ t, exec (.irqForce who (pageBase k n + 0x1C) v) s = .next t ∧
        t.reg (pageBase k n + 0x14) = s.reg (pageBase k n + 0x14) ||| v ∧
        (∀ a, a ≠ pageBase k n + 0x14 → t.reg a = s.reg a) ∧ { t with regs := s.regs } = s) ∧
    (machineAccess who = false → k.info.cls = 1 → v ≠ 0#32 →
      ∃ t, exec (.irqForce who (pageBase k n + 0x1C) v) s = .next t ∧ s.Ignored t who k n 0x1C 4 ∧
        { t with regs := s.regs, log := s.log } = s) ∧
    (machineAccess who = false → k.info.cls = 1 → v = 0#32 → exec (.irqForce who (pageBase k n + 0x1C) v) s = .next s)

/-- R28, R29: a read of an implemented register changes nothing; a read of an address that no register implements sets IRQ_STAT[29] of the
enclosing page and sends its event, and where there is no page sends the event of the region's block. R27, R32: a write that is narrower
than 32 bits or not aligned, or of an address that no register implements, is ignored with cause 5. R31: below machine mode a write of an
unprotected page that changes no key-protected field acts as a machine-mode one; on a protection page it is ignored with cause 4 if it asks
for anything, and else leaves no trace. R21: a core that HC0 has not released makes no access. R26: the register window is 0x4000_0000 to
0x40BF_FFFF; a register command outside it stops (the address does not exist). -/
def Obligations.WindowAccesses : Prop :=
  (∀ (s : State) (who : Who) (a : Nat), inWindow a = true → s.alive = true → s.initiates who = true →
     (findReg (a / 4 * 4) ≠ none → exec (.accessUnimpl who a) s = .next s) ∧
     (∀ k n, findReg (a / 4 * 4) = none → findPage a = some (k, n) →
       ∃ t, exec (.accessUnimpl who a) s = .next t ∧ t.flag ((F.irqStat (pageBase k n)).bit 29) = true ∧
         s.sameElse t [(F.irqStat (pageBase k n)).bit 29] ∧
         s.Logged t s.time.now k.info.src 63 0x7C1 (a % 2 ^ 24 + who.id * 2 ^ 24 + 5 * 2 ^ 29) ∧
         { t with regs := s.regs, log := s.log } = s) ∧
     (findReg (a / 4 * 4) = none → findPage a = none →
       ∃ t, exec (.accessUnimpl who a) s = .next t ∧
         s.Logged t s.time.now (regionSrc a) 63 0x7C1 (a % 2 ^ 24 + who.id * 2 ^ 24 + 5 * 2 ^ 29) ∧ { t with log := s.log } = s)) ∧
  (∀ (s : State) (who : Who) (a bytes : Nat) (v : Dword) (al : Bool) (k : PageKind) (n : Nat), inWindow a = true → s.alive = true →
     s.initiates who = true → findPage a = some (k, n) →
     (machineAccess who = true →
       (bytes ≠ 4 ∧ bytes ≠ 8) ∨ a % 4 ≠ 0 ∨ (bytes = 8 ∧ a % 8 ≠ 0) ∨ (bytes = 4 ∧ findReg a = none) →
       ∃ t, exec (.registerWrite who a bytes v al) s = .next t ∧ s.Ignored t who k n (a - pageBase k n) 5 ∧
         { t with regs := s.regs, log := s.log } = s) ∧
     (∀ r, findReg a = some r → a % 4 = 0 → machineAccess who = false →
       (k.info.cls ≠ 1 → r.off ≠ 8 → s.changesKeyed r (v.toNat % 2 ^ 32) = false →
         exec (.registerWrite who a 4 v al) s = exec (.registerWrite { who with priv := .machine } a 4 v al) s) ∧
       (k.info.cls = 1 → s.asks r (v.toNat % 2 ^ 32) = true →
         ∃ t, exec (.registerWrite who a 4 v al) s = .next t ∧ s.Ignored t who k n r.off 4 ∧ { t with regs := s.regs, log := s.log } = s) ∧
       (k.info.cls = 1 → s.asks r (v.toNat % 2 ^ 32) = false → exec (.registerWrite who a 4 v al) s = .next s))) ∧
  (∀ (s : State) (who : Who) (a bytes : Nat) (v : Word) (w : Dword) (al : Bool), inWindow a = true → s.initiates who = false →
     exec (.registerWrite who a bytes w al) s = .next s ∧ exec (.accessUnimpl who a) s = .next s ∧
     exec (.key who a v) s = .next s ∧ exec (.irqForce who a v) s = .next s) ∧
  (∀ (s : State) (who : Who) (a bytes : Nat) (v : Word) (w : Dword) (al : Bool), inWindow a = false →
     exec (.registerWrite who a bytes w al) s = .fault .noSuchAddress ∧ exec (.accessUnimpl who a) s = .fault .noSuchAddress ∧
     exec (.key who a v) s = .fault .noSuchAddress ∧ exec (.irqForce who a v) s = .fault .noSuchAddress)

/-- R35, R7, R44: IRQ_EN takes the word written. IRQ_STAT clears the bits written 1; on a ring page the bits of the rings that stand at
their watermark are then set again. Nothing else changes. -/
def Obligations.InterruptRegisters : Prop :=
  ∀ (s : State) (who : Who) (k : PageKind) (n : Nat) (v : Word) (al : Bool), n < k.info.count → s.commands who → s.Wf →
    (∃ t, exec (.registerWrite who (pageBase k n + 0x18) 4 (v.setWidth 64) al) s = .next t ∧
      t.reg (pageBase k n + 0x18) = v ∧ (∀ a, a ≠ pageBase k n + 0x18 → t.reg a = s.reg a) ∧ s.onlyRegs t) ∧
    (k ≠ .ring ∨ v &&& s.reg (pageBase k n + 0x14) = 0#32 →
      ∃ t, exec (.registerWrite who (pageBase k n + 0x14) 4 (v.setWidth 64) al) s = .next t ∧
        t.reg (pageBase k n + 0x14) = s.reg (pageBase k n + 0x14) &&& ~~~v ∧
        (∀ a, a ≠ pageBase k n + 0x14 → t.reg a = s.reg a) ∧ s.onlyRegs t) ∧
    (k = .ring → v &&& s.reg (pageBase k n + 0x14) ≠ 0#32 →
      ∃ t, exec (.registerWrite who (pageBase k n + 0x14) 4 (v.setWidth 64) al) s = .next t ∧
        (∀ i : Fin 32, (t.reg (pageBase k n + 0x14)).getLsbD i =
          (((s.reg (pageBase k n + 0x14)).getLsbD i && !v.getLsbD i) || (decide (i.val < 24) && s.atMark (24 * n + i)))) ∧
        (∀ a, a ≠ pageBase k n + 0x14 → t.reg a = s.reg a) ∧ s.onlyRegs t)

/-- R36, R42, R32: the key-protected field REACT of a page that is not a protection page (on those it is read-only). With the page's key
open a write with machine privilege that changes it stores it and uses the key up; with the key closed the write is ignored with cause 1 and
REACT keeps its value. -/
def Obligations.KeyProtectedField : Prop :=
  ∀ (s : State) (who : Who) (k : PageKind) (n : Nat) (v : Fin 4) (al : Bool), n < k.info.count → s.commands who → s.Wf →
    k.info.cls ≠ 1 → v.val ≠ s.get (F.react (pageBase k n)) →
    (s.keyOpen (pageBase k n) = true →
      ∃ t, exec (.registerWrite who (pageBase k n + 0x10) 4 (BitVec.ofNat 64 (v * 4)) al) s = .next t ∧
        t.get (F.react (pageBase k n)) = v ∧ t.keyOpen (pageBase k n) = false ∧ s.sameElse t [F.react (pageBase k n)] ∧
        (∀ b, b ≠ pageBase k n → t.keyOpen b = s.keyOpen b) ∧ t.log = s.log ∧ t.time = s.time ∧ s.sameMemory t) ∧
    (s.keyOpen (pageBase k n) = false →
      ∃ t, exec (.registerWrite who (pageBase k n + 0x10) 4 (BitVec.ofNat 64 (v * 4)) al) s = .next t ∧
        t.get (F.react (pageBase k n)) = s.get (F.react (pageBase k n)) ∧ s.Ignored t who k n 0x10 1 ∧ t.sys = s.sys)

/-- R32, R472: a write, with machine privilege, of the word that a register holds leaves no trace: nothing is ignored, no event, no change
of a register or of any other state but the record of its upsets. Stated for the registers without W1C, WO and action fields of the pages
in `silentPage`. -/
def Obligations.HeldWriteLeavesNoTrace : Prop :=
  ∀ (s : State) (who : Who) (a : Nat) (al : Bool) (r : RegRef), s.commands who → s.Wf → a % 4 = 0 →
    findReg a = some r → silentPage r.kind = true → 0x40 ≤ r.off →
    (r.fam.fields.all fun f => f.acc == .ro || f.acc == .rw || f.acc == .rwk || f.acc == .rwt) = true →
    ∃ t, exec (.registerWrite who a 4 ((s.reg a).setWidth 64) al) s = .next t ∧ t.regs = s.regs ∧ s.onlyRegs t

/-- R37, R38, R32: under the seal a tighten-only field takes only a value at least as strict as the held one, in the direction that its
register table gives it (`looser`). For every RWT field of the register map and a word that asks for no other change: a looser value
is ignored with cause 3 and the field keeps its value, but a row of bits takes those that are set; any other value, and unsealed every value,
in its range, that no lock and no rule of its chapter refuses and no held group stages, is stored. Of BAND of a supervisor channel, which
tightens downwards, the whole effect is stated. -/
def Obligations.TightenOnlyUnderSeal : Prop :=
  (∀ (s : State) (who : Who) (a : Nat) (r : RegRef) (f : FieldSpec) (v : Word) (w held : Nat) (al : Bool), s.commands who → s.Wf → a % 4 = 0 →
    findReg a = some r → f ∈ r.fam.fields → f.acc = .rwt → w = fieldOf v f.hi f.lo → held = s.get ⟨a, f.hi, f.lo⟩ → w ≠ held →
    (∀ g ∈ r.fam.fields, g ≠ f → fieldOf v g.hi g.lo = if isPlain r g = true then s.get ⟨a, g.hi, g.lo⟩ else 0) →
    (s.sealedNow = true → looser f r.m w held → s.staging r f = false →
      ∃ t, exec (.registerWrite who a 4 (v.setWidth 64) al) s = .next t ∧
        t.get ⟨a, f.hi, f.lo⟩ = (if f.perBit = true then held ||| w else held) ∧ t.get (F.lastCause (pageBase r.kind r.pn)) = 3 ∧
        t.get (F.lastOffset (pageBase r.kind r.pn)) = r.off ∧
        t.get (F.refused (pageBase r.kind r.pn)) = (s.get (F.refused (pageBase r.kind r.pn)) + 1) % 256 ∧ t.time = s.time) ∧
    (s.sealedNow = false ∨ ¬ looser f r.m w held → inRange f w = true → s.lockHolds r f.lock = false →
      s.refuses (s.setReg a (insertField (s.reg a) f.hi f.lo w)) r f w = false → s.staging r f = false →
      ∃ t, exec (.registerWrite who a 4 (v.setWidth 64) al) s = .next t ∧ t.get ⟨a, f.hi, f.lo⟩ = w ∧
        t.get (F.refused (pageBase r.kind r.pn)) = s.get (F.refused (pageBase r.kind r.pn)) ∧ t.time = s.time)) ∧
  ∀ (s : State) (who : Who) (ch : Fin 32) (v : Word) (al : Bool), s.commands who → s.Wf →
    (s.sealedNow = false ∨ v.toNat ≤ s.get (R.SUPCH_BAND ch) →
      ∃ t, exec (.registerWrite who (R.SUPCH_BAND ch).addr 4 (v.setWidth 64) al) s = .next t ∧
        t.get (R.SUPCH_BAND ch) = v.toNat ∧ s.sameElse t [R.SUPCH_BAND ch] ∧ s.onlyRegs t) ∧
    (s.sealedNow = true → s.get (R.SUPCH_BAND ch) < v.toNat →
      ∃ t, exec (.registerWrite who (R.SUPCH_BAND ch).addr 4 (v.setWidth 64) al) s = .next t ∧
        t.get (R.SUPCH_BAND ch) = s.get (R.SUPCH_BAND ch) ∧ s.Ignored t who .cesup 0 ((R.SUPCH_BAND ch).addr % 4096) 3)

/-- R40 to R42: with no upset elsewhere, the scrub checks the register at its next turn, within 64 µs of the last. An intact register
changes nothing but time and the scrub's place. One whose bits disagree with its parity bit sets PAR_ERR and IRQ_STAT[31] of its page, and
where PAR_ERR was 0 its offset is recorded, the event is sent (of a calibration word with METER's IRQ_STAT[4], R325), and REACT 2 makes the STANDBY and 3 the HALT of cause 9 due; where PAR_ERR was
1 already nothing more happens. (The spread of the checks over a pass is the model's, log entry 17.) -/
def Obligations.ParityScrub : Prop :=
  ∀ (s : State) (a : Nat) (r : RegRef), s.alive = true → s.Wf → findReg a = some r → r.addr = a → r.isCovered = true →
    r.kind ≠ .origin → s.parFlip = [] →
    (∃ t, exec (.parityScrub a 0) s = .next t ∧ t.regs = s.regs ∧ t.parFlip = [] ∧ t.log = s.log ∧ t.mode = s.mode ∧ s.sameMemory t ∧
      s.time.up ≤ t.time.up ∧
      (s.sys.relUp ≤ s.time.up → s.sys.scrubNo.get (fun _ => 0) r.kind.info.block ≤ s.scrubPast r.kind →
        t.time.up ≤ (s.advUp (s.time.up + 256000)).time.up)) ∧
    ∀ f ∈ r.fam.fields, ∀ i, f.covered = true → f.lo ≤ i → i ≤ f.hi →
      ∃ t, exec (.parityScrub a (BitVec.ofNat 32 (2 ^ i))) s = .next t ∧ t.parFlip = [a] ∧ t.flag (F.parErr (pageBase r.kind r.pn)) = true ∧
        t.flag ((F.irqStat (pageBase r.kind r.pn)).bit 31) = true ∧ (0x40 ≤ r.off → t.reg a = s.reg a ^^^ BitVec.ofNat 32 (2 ^ i)) ∧
        s.sameElse t ([F.parErr (pageBase r.kind r.pn), (F.irqStat (pageBase r.kind r.pn)).bit 31, F.errOffset (pageBase r.kind r.pn), ⟨a, i, i⟩] ++
          (if r.kind = .mcal then [(F.irqStat (pageBase .meter 0)).bit 4] else [])) ∧
        s.time.up ≤ t.time.up ∧ s.sameMemory t ∧
        (s.flag (F.parErr (pageBase r.kind r.pn)) = false → t.get (F.errOffset (pageBase r.kind r.pn)) = r.off ∧
          s.Logged t t.time.now r.kind.info.src 63 (if r.kind.info.cls = 1 then 0xFC3 else 0xBC3)
            (r.off + (r.kind.info.idx0 + r.pn) * 2 ^ 12 + t.get (F.react (pageBase r.kind r.pn)) * 2 ^ 20) ∧
          (t.get (F.react (pageBase r.kind r.pn)) = 2 → t.mode.dueParStandby = true) ∧
          (t.get (F.react (pageBase r.kind r.pn)) = 3 → 9 ∈ t.mode.dueHalt)) ∧
        (s.flag (F.parErr (pageBase r.kind r.pn)) = true → t.log = s.log ∧ t.mode = s.mode)

/-- R44, R45, R57: a write of CFG with EN 1 to a ring that is off takes WMARK, and takes LOG2N where it lies in 4 to 16. If the size and the
place then fit, the ring is on and empty with CFGERR 0 (of an event-log ring with entries lost, the first entry is then LOG_LOST), and a
size outside 4 to 16 in the word is still an ignored write with cause 7; if not, CFGERR is set and the ring stays off with its indices, an
ignored write with cause 7. R44, R47, R50: a write with EN 0 leaves the ring off with PIDX as it is; a request ring ends what it holds as
ABORTED, a completion each while their ring has room, and any other ring keeps CIDX and every byte of memory. -/
def Obligations.RingEnableAndDisable : Prop :=
  (∀ (s : State) (who : Who) (r : Fin 48) (v : Word) (l : Nat), s.commands who → s.Wf → s.ringOn r = false →
     l = (if 4 ≤ fieldOf v 8 4 ∧ fieldOf v 8 4 ≤ 16 then fieldOf v 8 4 else s.get (R.RING_CFG_LOG2N r)) →
     (4 ≤ l ∧ l ≤ 16 ∧ s.get (R.RING_BASE_BASE r) * 64 + 2 ^ l * ringBytes r ≤ sramSize →
       ∃ t, exec (.ringEnable who r v) s = .next t ∧ t.ringOn r = true ∧ t.ringN r = 2 ^ l ∧ t.get (R.RING_CFG_WMARK r) = fieldOf v 31 16 ∧
         t.get (R.RING_CIDX r) = 0 ∧ t.get (R.RING_STAT_CFGERR r) = 0 ∧ t.time = s.time ∧ t.mram = s.mram ∧
         (l ≠ fieldOf v 8 4 → t.get (F.lastCause (pageBase .ring (r / 24))) = 7) ∧
         (r.val < 32 ∨ 40 ≤ r.val ∨ s.lostIn r = 0 → t.get (R.RING_PIDX r) = 0 ∧ s.sameMemory t ∧ (l = fieldOf v 8 4 → t.log = s.log)) ∧
         (32 ≤ r.val → r.val < 40 → s.lostIn r ≠ 0 → t.get (R.RING_PIDX r) = 1 ∧ t.lostIn r = 0) ∧
         ∀ q : Fin 48, q ≠ r → t.ringOn q = s.ringOn q ∧ t.get (R.RING_PIDX q) = s.get (R.RING_PIDX q) ∧
           t.get (R.RING_CIDX q) = s.get (R.RING_CIDX q)) ∧
     (¬ (4 ≤ l ∧ l ≤ 16 ∧ s.get (R.RING_BASE_BASE r) * 64 + 2 ^ l * ringBytes r ≤ sramSize) →
       ∃ t, exec (.ringEnable who r v) s = .next t ∧ t.ringOn r = false ∧ t.get (R.RING_STAT_CFGERR r) = 1 ∧
         t.get (R.RING_CFG_WMARK r) = fieldOf v 31 16 ∧ t.get (F.lastCause (pageBase .ring (r / 24))) = 7 ∧
         t.get (R.RING_PIDX r) = s.get (R.RING_PIDX r) ∧ t.get (R.RING_CIDX r) = s.get (R.RING_CIDX r) ∧ t.time = s.time ∧
         s.sameMemory t)) ∧
  (∀ (s : State) (who : Who) (r : Fin 48) (v : Word), s.commands who → s.Wf →
     ∃ t, exec (.ringDisable who r v) s = .next t ∧ t.ringOn r = false ∧ t.get (R.RING_PIDX r) = s.get (R.RING_PIDX r) ∧
       t.get (R.RING_CFG_WMARK r) = fieldOf v 31 16 ∧ t.time = s.time ∧ t.mram = s.mram ∧ t.poly = s.poly ∧ t.ports = s.ports ∧ t.ce = s.ce ∧
       (s.ringOn r = true → 32 ≤ r.val → r.val < 40 → t.lostIn r = 0) ∧
       (¬ (s.ringOn r = true ∧ 16 ≤ r.val ∧ r.val < 32 ∧ r.val % 2 = 0) → t.get (R.RING_CIDX r) = s.get (R.RING_CIDX r) ∧ s.sameMemory t) ∧
       (s.ringOn r = true → 16 ≤ r.val → r.val < 32 → r.val % 2 = 0 → t.get (R.RING_CIDX r) = s.get (R.RING_PIDX r) ∧
         (s.ringOn (r + 1) = true → s.ringFill (r + 1) + s.ringFill r ≤ s.ringN (r + 1) →
           t.get (R.RING_PIDX (r + 1)) = (s.get (R.RING_PIDX (r + 1)) + s.ringFill r) % 2 ^ 32)))

/-- R45, R57: host software moves the index that it owns (PIDX of a consumer ring, CIDX of a producer ring) to any value for which the fill
stays within the ring; the other index stays, unless an event-log ring with entries lost then has room for LOG_LOST. A value beyond it is
ignored with cause 6 and both indices stay; the value held leaves no trace. -/
def Obligations.RingPointer : Prop :=
  ∀ (s : State) (who : Who) (r : Fin 48) (v : Word) (own other : Fld) (fill : Nat), s.commands who → s.Wf →
    own = (if ringIsConsumer r = true then R.RING_PIDX r else R.RING_CIDX r) →
    other = (if ringIsConsumer r = true then R.RING_CIDX r else R.RING_PIDX r) →
    fill = (if ringIsConsumer r = true then (v.toNat + 2 ^ 32 - s.get (R.RING_CIDX r)) % 2 ^ 32
      else (s.get (R.RING_PIDX r) + 2 ^ 32 - v.toNat) % 2 ^ 32) →
    (v.toNat = s.get own → exec (.ringPointerWrite who r v) s = .next s) ∧
    (fill ≤ s.ringN r →
      ∃ t, exec (.ringPointerWrite who r v) s = .next t ∧ t.get own = v.toNat ∧ t.time = s.time ∧ t.mram = s.mram ∧
        (r.val < 32 ∨ 40 ≤ r.val ∨ s.lostIn r = 0 → t.get other = s.get other ∧ t.log = s.log ∧ s.sameMemory t)) ∧
    (s.ringN r < fill → v.toNat ≠ s.get own →
      ∃ t, exec (.ringPointerWrite who r v) s = .next t ∧ t.get own = s.get own ∧ t.get other = s.get other ∧
        s.Ignored t who .ring (r / 24) (own.addr % 4096) 6 ∧ { t with regs := s.regs, log := s.log } = s)

/-- R55, R56, R46: an entry that reaches the log engine waits in the merge buffer while it holds fewer than 512; with 512 held, the first of
all of them in the order timestamp, source, instance is released early and counted in the run; one stamped before the last step of Gnomon
time does not wait. Once 64 µs of Gnomon time have passed since its timestamp the first entry in that order is released: it leaves the
buffer and is written whole to ring 32 + the field of its severity in RING_EVT_ROUTE (offset 0x040 of RING page 2, reset 0x0123), whose
PIDX moves on. -/
def Obligations.LogEngine : Prop :=
  State.reset.reg 0x40A02040 = 0x123#32 ∧
  ∀ s : State, s.alive = true →
    (∀ (i : Nat) (e : Ev), s.log.inflight[i]? = some e →
      (e.old = false → s.log.buf.length < 512 →
        exec (.logEntryArrival i) s =
          .next { s with log := { s.log with inflight := s.log.inflight.eraseIdx i, buf := s.log.buf ++ [e] } }) ∧
      (∀ m rest, e.old = false → 512 ≤ s.log.buf.length → takeFirst (s.log.buf ++ [e]) = some (m, rest) →
        ∃ t, exec (.logEntryArrival i) s = .next t ∧ t.log.buf = rest ∧ t.log.run = s.log.run + 1 ∧ t.time = s.time ∧ t.mram = s.mram) ∧
      (e.old = true → ∃ t, exec (.logEntryArrival i) s = .next t ∧ t.log.buf = s.log.buf ∧ t.time = s.time ∧ t.mram = s.mram)) ∧
    (∀ (e : Ev) (rest : List Ev) (r at_ : Nat), takeFirst s.log.buf = some (e, rest) →
      r = 32 + (s.reg 0x40A02040).toNat / 2 ^ (4 * (e.code / 1024 % 4)) % 8 → at_ = s.ringSlot r (s.get (R.RING_PIDX r)) →
      s.time.run = true → s.log.run = 0 → s.lostIn r = 0 → s.ringTakes r = true → at_ + 16 ≤ sramSize →
      ∃ t, exec .logRelease s = .next t ∧ t.log = { s.log with buf := rest } ∧ t.time = (s.advTo (e.t + 256000)).time ∧
        t.get (R.RING_PIDX r) = (s.get (R.RING_PIDX r) + 1) % 2 ^ 32 ∧ t.sramRead at_ 16 = e.entry % 2 ^ 128 ∧
        (∀ a, a < at_ ∨ at_ + 16 ≤ a → t.sramByte a = s.sramByte a) ∧ t.mram = s.mram)

/-- R48, R49: the port takes the request at the head of its ring and gives it the lowest free tag: the tag is busy with the request's leg,
word, direction and cookie, the ring moves on and the block waits for a slot of either lane. With no tag free, a FENCE behind an outstanding
request, or an outstanding transaction to the same leg and word it takes nothing, and the request stays where it is; so does a port that is
not UP (the model's choice, log entry 201). R154: a write of a protection word (0x010 to 0x03F) is taken off the ring, uses no tag and
completes at once. The request departs with the slot that carries its block (R139). -/
def Obligations.TagRequest : Prop :=
  ∀ (s : State) (p : Fin 8) (q : Nat), s.alive = true → s.ringHead (16 + 2 * p) = some q →
    ((∀ k : Fin 32, s.tagBusy p k = true ∨ s.tagQuar p k = true) ∨ ((q / 2 ^ 14) % 2 = 1 ∧ s.fwOutstanding p = true) ∨
        s.outstanding p (q / 2 ^ 10 % 8) (q % 1024) = true ∨ s.linkUp p = false →
      exec (.tagRequest p) s = .next s) ∧
    (∀ k : Fin 32, s.linkUp p = true → s.tagBusy p k = false → s.tagQuar p k = false →
      (∀ j : Fin 32, j < k → s.tagBusy p j = true ∨ s.tagQuar p j = true) →
      ((q / 2 ^ 14) % 2 = 0 ∨ s.fwOutstanding p = false) → s.outstanding p (q / 2 ^ 10 % 8) (q % 1024) = false →
      (¬ (q / 2 ^ 13 % 2 = 1 ∧ 0x010 ≤ q % 1024 ∧ q % 1024 ≤ 0x03F) →
        ∃ t, exec (.tagRequest p) s = .next t ∧ t.tagBusy p k = true ∧ (∀ j : Fin 32, j ≠ k → t.tagBusy p j = s.tagBusy p j) ∧
          t.tag p k = { leg := q / 2 ^ 10 % 8, wordAddr := q % 1024, write := q / 2 ^ 13 % 2 == 1, cookie := q / 2 ^ 64 % 2 ^ 32,
                        kind := 0, at_ := (t.tag p k).at_ } ∧ ((s.port p).wait = [] → (t.tag p k).at_ = s.time.up) ∧
          t.get (R.RING_CIDX (16 + 2 * p)) = (s.get (R.RING_CIDX (16 + 2 * p)) + 1) % 2 ^ 32 ∧
          (t.port p).wait = insertTx ⟨prREQ, 2, q / 2 ^ 10 % 8,
            requestBlock (q / 2 ^ 10 % 8) k (q % 1024) (q / 2 ^ 13 % 2 == 1) (q / 2 ^ 32 % 2 ^ 32)⟩ ((s.txRun p).port p).wait ∧
          t.time = s.time ∧ s.sameMemory t ∧ (s.sys.upsets = [] → t.log = s.log)) ∧
      (q / 2 ^ 13 % 2 = 1 ∧ 0x010 ≤ q % 1024 ∧ q % 1024 ≤ 0x03F →
        ∃ t, exec (.tagRequest p) s = .next t ∧ t.get (R.LINK_TAGS p) = s.get (R.LINK_TAGS p) ∧ t.ports = s.ports ∧
          t.get (R.RING_CIDX (16 + 2 * p)) = (s.get (R.RING_CIDX (16 + 2 * p)) + 1) % 2 ^ 32 ∧
          (s.ringTakes (17 + 2 * p) = true →
            t.get (R.RING_PIDX (17 + 2 * p)) = (s.get (R.RING_PIDX (17 + 2 * p)) + 1) % 2 ^ 32) ∧ t.time = s.time ∧ t.mram = s.mram))

/-- R50, R51, R139: the response to a tag that firmware holds ends its transaction and frees it; a tag that times out, TAG_TO after the
departure of its request block (`drained` sends what waits) and within the next TIME clock (R9, log entry 2), is quarantined for 64 µs, and then free. Each completion goes to the port's
completion ring while that has room. Where no request of the port's own waits (R154, R163), no tag is taken in its place. R51: the
response to a tag that is not in flight is discarded and logged (its SOURCE 19 is the model's choice, log entry 200). -/
def Obligations.TagEnds : Prop :=
  ∀ (s : State) (p : Fin 8) (k : Fin 32), s.alive = true → s.ownRequests p = [] → (s.tag p k).kind = 0 →
    (∀ b : Dword, s.linkUp p = true → rxValid false b = true → blockType b = tRSP → bitsOf b 54 50 = k.val →
      (s.tagBusy p k = true →
        ∃ t, exec (.rsp p b) s = .next t ∧ t.tagBusy p k = false ∧ t.tagQuar p k = s.tagQuar p k ∧ t.tag p k = {} ∧
          (∀ j : Fin 32, j ≠ k → t.tagBusy p j = s.tagBusy p j) ∧ (t.port p).lastRx = s.time.up ∧
          (s.ringTakes (17 + 2 * p) = true →
            t.get (R.RING_PIDX (17 + 2 * p)) = (s.get (R.RING_PIDX (17 + 2 * p)) + 1) % 2 ^ 32) ∧
          t.time = s.time ∧ t.log.buf = s.log.buf ∧ t.mram = s.mram) ∧
      (s.tagBusy p k = false →
        ∃ t, exec (.rsp p b) s = .next t ∧ t.regs = s.regs ∧ s.Logged t s.time.now 19 p 0x7C7 (k + blockLeg b * 32 + p * 256) ∧
          t.time = s.time ∧ s.sameMemory t)) ∧
    (s.tagBusy p k = true →
      ∃ t, exec (.tagTimeout p k) s = .next t ∧ t.tagBusy p k = false ∧ t.tagQuar p k = true ∧
        (∀ j : Fin 32, j ≠ k → t.tagBusy p j = s.tagBusy p j) ∧
        (s.ringTakes (17 + 2 * p) = true →
          t.get (R.RING_PIDX (17 + 2 * p)) = (s.get (R.RING_PIDX (17 + 2 * p)) + 1) % 2 ^ 32) ∧
        (∀ u, u = s.advUp ((Tab.get tagDefault (s.drained p).tags k).at_ + 4000 * s.get (R.LINK_CTL_TAG_TO p)) →
          t.time = u.idle.time ∧ t.tag p k = { at_ := u.time.up }) ∧ t.mram = s.mram) ∧
    (s.tagQuar p k = true →
      ∃ t, exec (.tagQuarantineEnd p k) s = .next t ∧ t.tagQuar p k = false ∧ t.tagBusy p k = s.tagBusy p k ∧ t.tag p k = {} ∧
        (∀ j : Fin 32, j ≠ k → t.tagBusy p j = s.tagBusy p j ∧ t.tagQuar p j = s.tagQuar p j) ∧
        t.time = (s.advUp ((s.tag p k).at_ + 256000)).time ∧ t.log = s.log ∧ s.sameMemory t)


/-- R71, R72: a write of TARGET stores it and makes the request, whatever mode it names: STAT.REQ reads pending until a tick boundary judges
it, and it replaces a request that was pending; nothing else changes. R75: a write of a bit of SYS_MODE_MOD stores it and changes no other
field. R62: PROFILE is stored while the major mode is WAKE, STANDBY or HALT, and FINE only while at most 32 leg timers are enabled; else the
write of the other value is ignored with cause 7. -/
def Obligations.ModeCommands : Prop :=
  (∀ (s : State) (who : Who) (x : Fin 8), s.commands who →
     ∀ q ∈ [(Instr.modeRequestStandby who, mSTANDBY), (.modeRequestFollow who, mFOLLOW), (.modeRequestForm who, mFORM),
         (.modeRequestHalt who, mHALT), (.modeRequestInvalid who x, x.val)],
       ∃ t, exec q.1 s = .next t ∧ t.get R.SYS_MODE_REQ_TARGET = q.2 ∧ t.get R.SYS_MODE_STAT_REQ = 2 ∧ t.mode = { s.mode with req := some q.2 } ∧
         s.sameElse t [R.SYS_MODE_REQ_TARGET, R.SYS_MODE_STAT_REQ] ∧
         { t with regs := s.regs, parFlip := s.parFlip, mode := s.mode } = s) ∧
  (∀ (s : State) (who : Who) (on : Bool), s.commands who →
     ∀ q ∈ [(Instr.curtail who on, R.SYS_MODE_MOD_CURTAIL), (.nightvar who on, R.SYS_MODE_MOD_NIGHTVAR), (.test who on, R.SYS_MODE_MOD_TEST),
         (.legacy who on, R.SYS_MODE_MOD_LEGACY)],
       ∃ t, exec q.1 s = .next t ∧ t.flag q.2 = on ∧ s.sameElse t [q.2] ∧ { t with mode := { t.mode with sticky := s.mode.sticky } }.mode = s.mode ∧
         { t with regs := s.regs, parFlip := s.parFlip, mode := s.mode } = s) ∧
  (∀ (s : State) (who : Who) (fine : Bool), s.commands who →
     ((s.majorMode = mWAKE ∨ s.majorMode = mSTANDBY ∨ s.majorMode = mHALT) → (fine = true → s.enabledLegs ≤ 32) →
       ∃ t, exec (.profileRequest who fine) s = .next t ∧ t.flag R.SYS_TICK_CFG_PROFILE = fine ∧
         s.sameElse t [R.SYS_TICK_CFG_PROFILE] ∧ s.onlyRegs t) ∧
     (s.Wf → fine ≠ s.flag R.SYS_TICK_CFG_PROFILE →
       ¬ (s.majorMode = mWAKE ∨ s.majorMode = mSTANDBY ∨ s.majorMode = mHALT) ∨ (fine = true ∧ 32 < s.enabledLegs) →
       ∃ t, exec (.profileRequest who fine) s = .next t ∧ s.Ignored t who .mode 0 (R.SYS_TICK_CFG_PROFILE.addr % 4096) 7))

/-- R58: the tick period is 20 000 units of 0.25 ns in FINE and 40 000 in WIDE (5 µs and 10 µs, 4000 and 8000 TIME clocks); a tick that
starts S seconds and N ns after the epoch has number S × (1 s / P) + floor(N / P); a second holds 200 000 or 100 000 ticks and starts
one; every boundary that TICK_START sets lies on a whole multiple of P. -/
def Obligations.TickNumbers : Prop :=
  ∀ s : State,
    s.tickQ = (if s.fine = true then 5 else 10) * 4000 ∧ s.tickQ = (if s.fine = true then 4000 else 8000) * 5 ∧
    (∀ S N : Nat, N < 10 ^ 9 → s.time.tickStart = (S * 10 ^ 9 + N) * 4 →
      s.tickNo = S * (if s.fine = true then 200000 else 100000) + N / ((if s.fine = true then 5 else 10) * 1000)) ∧
    (10 ^ 9 * 4) % s.tickQ = 0 ∧ (10 ^ 9 * 4) / s.tickQ = (if s.fine = true then 200000 else 100000) ∧
    (s.alive = true → s.time.run = true → ∃ t, exec .tickStart s = .next t ∧ t.time.tickEnd % t.tickQ = 0)

/-- R71, R72: the judgement of a request. DARK, WAKE, RIDE and ISLAND are refused with cause 1; the mode in effect is accepted and stays;
FOLLOW and FORM from RIDE or ISLAND, and STANDBY from an island, with 10; a transition that R69 lacks with 12; an entry to FOLLOW or
FORM with the lowest cause of 2 to 6, 8 and 11 that applies; HALT is left only under R73. A refusal shows its cause and leaves the mode.
-/
def Obligations.RequestJudgement : Prop :=
  ∀ (s : State) (x : Fin 8),
    (x.val = mDARK ∨ x.val = mWAKE ∨ x.val = mRIDE ∨ x.val = mISLAND → s.refusal x = 1) ∧
    (x.val = mSTANDBY ∨ x.val = mFOLLOW ∨ x.val = mFORM ∨ x.val = mHALT →
      (x.val = s.majorMode → s.refusal x = 0) ∧
      (s.majorMode = mRIDE ∨ s.majorMode = mISLAND → x.val = mFOLLOW ∨ x.val = mFORM → s.refusal x = 10) ∧
      (s.majorMode = mISLAND → x.val = mSTANDBY → s.refusal x = if s.islanded = true then 10 else 0) ∧
      (s.majorMode = mDARK ∨ s.majorMode = mWAKE → s.refusal x = 12) ∧
      (s.majorMode = mHALT → x.val = mFOLLOW ∨ x.val = mFORM → s.refusal x = 12) ∧
      (s.majorMode = mHALT → x.val = mSTANDBY → s.refusal x = if s.haltExit = true then 0 else 7) ∧
      (s.majorMode = mFOLLOW ∨ s.majorMode = mFORM ∨ s.majorMode = mRIDE → x.val = mSTANDBY → s.refusal x = 0) ∧
      (x.val = mHALT → mSTANDBY ≤ s.majorMode → s.refusal x = 0)) ∧
    ((x.val = mFOLLOW ∨ x.val = mFORM) → (s.majorMode = mSTANDBY ∨ s.majorMode = mFOLLOW ∨ s.majorMode = mFORM) → x.val ≠ s.majorMode →
      s.refusal x = (([(2, !s.inLock && (x.val == mFOLLOW || s.majorMode == mFOLLOW)), (3, !s.dcInWindow), (4, !s.flag R.SAFE_STAT_GRANT),
          (5, s.latched), (6, decide ((if s.fine then 32 else 64) < s.enabledLegs)),
          (8, s.romOn && !(decide (1 ≤ s.sys.prof) && decide (s.sys.prof ≤ 3))),
          (11, x.val == mFORM && !s.inLock && s.flag R.SYS_MODE_CFG_BS_INHIBIT)].filter fun q : Nat × Bool => q.2).map fun q => q.1).headD 0) ∧
    (s.refusal x ≠ 0 → (s.judgeRequest x 0).get R.SYS_MODE_STAT_CAUSE = s.refusal x ∧ (s.judgeRequest x 0).get R.SYS_MODE_STAT_REQ = 3 ∧
      (s.judgeRequest x 0).majorMode = s.majorMode) ∧
    (s.refusal x = 0 → (s.judgeRequest x 0).get R.SYS_MODE_STAT_REQ = 1 ∧ (s.judgeRequest x 0).majorMode = x)

/-- R135, R143, R144: what a port does when its control word is written. EN 1 takes it from OFF into CLOCK, unless a near-end loop is
selected; EN 0 takes it OFF, and from UP with a loss of link. A near-end loop takes it from OFF, UP or DOWN into TEST at once. A far-end loop
or the PRBS31 test takes it from UP to DOWN for 4 µs, from OFF with EN 1 into CLOCK, and in training is stored; a loop that R144 does not
allow is ignored with cause 7. LOOP 0 ends a test: OFF after a near-end loop, else DOWN, with TEST_END and its count of errors. RETRAIN in DOWN
is kept until the dwell is over; in UP it loses the link and trains again after 4 µs. -/
def Obligations.LinkControl : Prop :=
  ∀ (s : State) (who : Who) (p : Fin 8), s.commands who → s.Wf →
    (s.linkState p = stOFF → s.get (R.LINK_CTL_LOOP p) = 0 ∨ s.get (R.LINK_CTL_LOOP p) = 3 ∨ s.get (R.LINK_CTL_LOOP p) = 4 →
      s.flag (R.LINK_CTL_EN p) = false →
      ∃ t, exec (.linkEnable who p true) s = .next t ∧ t.linkState p = stCLOCK ∧ t.flag (R.LINK_CTL_EN p) = true ∧
        t.linkUp p = false ∧ t.get (R.LINK_TAPS_LANE0 p) = 0x3F0 ∧ t.get (R.LINK_TAPS_LANE1 p) = 0x3F0 ∧
        (t.port p).enterUp = t.time.up ∧ t.time = s.time ∧ t.log = s.log ∧ s.sameMemory t) ∧
    (s.flag (R.LINK_CTL_EN p) = true →
      ∃ t, exec (.linkEnable who p false) s = .next t ∧ t.linkState p = stOFF ∧ t.flag (R.LINK_CTL_EN p) = false ∧
        t.linkUp p = false ∧ t.time = s.time ∧ t.mram = s.mram ∧ (s.linkState p = stUP → t.flag (R.LINK_STAT_LOSS p) = true) ∧
        (s.linkState p ≠ stUP → s.linkState p ≠ stTEST → (s.port p).push = [] → t.log = s.log ∧ s.sameMemory t)) ∧
    (∀ q ∈ [(Instr.loopNearSerial who p, 1), (.loopNearParallel who p, 2)],
      s.linkState p = stOFF ∨ s.linkState p = stUP ∨ s.linkState p = stDOWN → s.get (R.LINK_CTL_LOOP p) ≠ q.2 →
      s.loopAllowed p q.2 = true →
      ∃ t, exec q.1 s = .next t ∧ t.linkState p = stTEST ∧ t.get (R.LINK_CTL_LOOP p) = q.2 ∧ t.linkUp p = false ∧
        t.time = s.time ∧ t.mram = s.mram ∧
        ((∀ k : Fin 32, s.tagBusy p k = false) → (s.port p).push = [] →
          (t.port p).tx = [] ∧ (t.port p).wait = [] ∧ t.log = s.log ∧ s.sameMemory t)) ∧
    (∀ q ∈ [(Instr.loopFarEnd who p, 3), (.prbs31Test who p, 4)],
      s.get (R.LINK_CTL_LOOP p) ≠ q.2 → s.loopAllowed p q.2 = true →
      (s.linkState p = stUP →
        ∃ t, exec q.1 s = .next t ∧ t.linkState p = stDOWN ∧ t.get (R.LINK_CTL_LOOP p) = q.2 ∧ t.linkUp p = false ∧
          (t.port p).downUp = s.time.up + 16000 ∧ t.time = s.time ∧ t.mram = s.mram) ∧
      (s.linkState p = stOFF → s.flag (R.LINK_CTL_EN p) = true →
        ∃ t, exec q.1 s = .next t ∧ t.linkState p = stCLOCK ∧ t.get (R.LINK_CTL_LOOP p) = q.2 ∧ t.time = s.time ∧ t.log = s.log ∧
          s.sameMemory t) ∧
      (s.linkState p ≠ stUP → s.linkState p ≠ stOFF → s.linkState p ≠ stTEST →
        ∃ t, exec q.1 s = .next t ∧ t.get (R.LINK_CTL_LOOP p) = q.2 ∧ s.sameElse t [R.LINK_CTL_LOOP p] ∧ s.onlyRegs t)) ∧
    (∀ q ∈ [(Instr.loopNearSerial who p, 1), (.loopNearParallel who p, 2), (.loopFarEnd who p, 3), (.prbs31Test who p, 4)],
      s.get (R.LINK_CTL_LOOP p) ≠ q.2 → s.loopAllowed p q.2 = false →
      ∃ t, exec q.1 s = .next t ∧ s.Ignored t who .link p 0x040 7) ∧
    (s.linkState p = stTEST → s.get (R.LINK_CTL_LOOP p) ≠ 0 →
      ∃ t, exec (.loopEnd who p) s = .next t ∧ t.get (R.LINK_CTL_LOOP p) = 0 ∧
        t.linkState p = (if s.get (R.LINK_CTL_LOOP p) ≤ 2 then stOFF else stDOWN) ∧ t.flag ((F.irqStat (pageBase .link p)).bit 5) = true ∧
        s.Logged t s.time.now 19 p 0x037 (p + s.get (R.LINK_CTL_LOOP p) * 8 +
          (if s.get (R.LINK_CTL_LOOP p) = 4 then s.get (R.LINK_PRBS0 p) + s.get (R.LINK_PRBS1 p) else s.get (R.LINK_LOOPERR p)) % 2 ^ 32 * 64) ∧
        t.time = s.time ∧ s.sameMemory t) ∧
    (s.linkState p = stDOWN →
      ∃ t, exec (.retrain who p) s = .next t ∧ (t.port p).retrain = true ∧ t.regs = s.regs ∧ t.time = s.time ∧ t.log = s.log ∧
        s.sameMemory t) ∧
    (s.linkState p = stUP →
      ∃ t, exec (.retrain who p) s = .next t ∧ (t.port p).retrain = true ∧ t.linkState p = stDOWN ∧ t.linkUp p = false ∧
        t.flag (R.LINK_STAT_LOSS p) = true ∧ (t.port p).downUp = s.time.up + 16000 ∧ t.time = s.time ∧ t.mram = s.mram)

/-- R147, R267: a write of a bit of LINK_n_CNTCLR clears those counters of the port and nothing else: the CRC counts, the two PRBS counts,
the loop errors and the error counts; so do the bits of CE_CLR for MAX and CE_SATCNT of the control engine. -/
def Obligations.CountersClear : Prop :=
  ∀ (s : State) (who : Who) (p : Fin 8), s.commands who → s.Wf →
    (∀ q ∈ [(Instr.linkCntclrCrc who p, [(R.LINK_CRC p).addr]), (.linkCntclrPrbs who p, [(R.LINK_PRBS0 p).addr, (R.LINK_PRBS1 p).addr]),
        (.linkCntclrLooperr who p, [(R.LINK_LOOPERR p).addr]), (.linkCntclrErr who p, [(R.LINK_ERR p).addr]),
        (.clrSatcnt who, [R.CE_SATCNT.addr])],
      ∃ t, exec q.1 s = .next t ∧ (∀ a ∈ q.2, t.reg a = 0) ∧ (∀ a, a ∉ q.2 → t.reg a = s.reg a) ∧ s.onlyRegs t) ∧
    ∃ t, exec (.clrMax who) s = .next t ∧ t.get R.CE_TIME_MAX = 0 ∧ s.sameElse t [R.CE_TIME_MAX] ∧ s.onlyRegs t

/-- R252, R260 to R262, R267: the host's writes into the engine's memories. A program word goes whole to a bank that is not running, and PADDR
steps; a data word goes in while RUN is 0, but never into an output slot or a reserved word, and DADDR steps; with RUN 1 a word other than 0
is ignored with cause 7. A coefficient waits in the queue of 32, and CADDR steps. SWAP waits for the next boundary. RUN 1 makes the next
program start the first; RUN 0 stops the program that runs; in a switching mode RUN 0 is ignored with cause 7. -/
def Obligations.EngineMemoryWrites : Prop :=
  ∀ (s : State) (who : Who) (v : Word), s.commands who → s.Wf →
    (¬ (s.flag R.CE_CTL_RUN = true ∧ s.get R.CE_PADDR_ADDR / 8192 = s.get R.CE_PROG_BANK) →
      ∃ t, exec (.programWordWrite who v) s = .next t ∧
        t.ce.prog.get zeroAt (s.get R.CE_PADDR_ADDR) = s.ce.pdataLo + v.toNat * 2 ^ 32 ∧
        (∀ a, a ≠ s.get R.CE_PADDR_ADDR → t.ce.prog.get zeroAt a = s.ce.prog.get zeroAt a) ∧ { t.ce with prog := s.ce.prog } = s.ce ∧
        t.get R.CE_PADDR_ADDR = (s.get R.CE_PADDR_ADDR + 1) % 2 ^ 14 ∧ s.sameElse t [R.CE_PADDR_ADDR] ∧
        t.log = s.log ∧ t.time = s.time ∧ s.sameMemory t) ∧
    (s.flag R.CE_CTL_RUN = true → s.get R.CE_PADDR_ADDR / 8192 = s.get R.CE_PROG_BANK → v ≠ 0 →
      ∃ t, exec (.programWordWrite who v) s = .next t ∧ t.ce = s.ce ∧ s.Ignored t who .ce 0 0x068 7) ∧
    (s.flag R.CE_CTL_RUN = false →
      ∃ t, exec (.dataWordWrite who v) s = .next t ∧
        t.ceWord (s.get R.CE_DADDR_ADDR) = (if (0x300 ≤ s.get R.CE_DADDR_ADDR ∧ s.get R.CE_DADDR_ADDR < 0x380) ∨
            (0x1C0 ≤ s.get R.CE_DADDR_ADDR ∧ s.get R.CE_DADDR_ADDR < 0x200) then s.ceWord (s.get R.CE_DADDR_ADDR) else v.toNat) ∧
        (∀ a, a ≠ s.get R.CE_DADDR_ADDR → a < 65536 → t.ceWord a = s.ceWord a) ∧ t.ce.slots = s.ce.slots ∧
        t.get R.CE_DADDR_ADDR = (s.get R.CE_DADDR_ADDR + 1) % 2 ^ 16 ∧ s.sameElse t [R.CE_DADDR_ADDR] ∧ t.ce.prog = s.ce.prog ∧
        t.log = s.log ∧ t.time = s.time ∧ s.sameMemory t) ∧
    (s.flag R.CE_CTL_RUN = true → v ≠ 0 →
      ∃ t, exec (.dataWordWrite who v) s = .next t ∧ t.ce = s.ce ∧ s.Ignored t who .ce 0 0x078 7) ∧
    (s.ce.coefQ.length < 32 → s.get R.CE_CSTAT_QCOUNT = s.ce.coefQ.length →
      ∃ t, exec (.coefWrite who v) s = .next t ∧ t.ce = { s.ce with coefQ := s.ce.coefQ ++ [(s.get R.CE_CADDR_ADDR, v.toNat)] } ∧
        t.get R.CE_CSTAT_QCOUNT = s.ce.coefQ.length + 1 ∧
        t.get R.CE_CADDR_ADDR = (s.get R.CE_CADDR_ADDR + 1) % 2 ^ 13 ∧
        s.sameElse t [R.CE_CADDR_ADDR, R.CE_CSTAT_QCOUNT] ∧ t.log = s.log ∧ t.time = s.time ∧ s.sameMemory t) ∧
    (∃ t, exec (.swap who) s = .next t ∧ t.get R.CE_PROG_PEND = 1 ∧ s.sameElse t [R.CE_PROG_PEND] ∧ s.onlyRegs t) ∧
    (∀ on : Bool, on = true ∨ s.switching = false →
      ∃ t, exec (.run who on) s = .next t ∧ t.flag R.CE_CTL_RUN = on ∧ s.sameElse t [R.CE_CTL_RUN, R.CE_STAT_BUSY, R.CE_STAT_DONE] ∧
        (on = true → s.flag R.CE_CTL_RUN = false → t.ce = { s.ce with firstRun := true }) ∧
        (on = false → s.flag R.CE_CTL_RUN = true → t.ce.running = false ∧
          (s.ce.running = true → t.get R.CE_STAT_BUSY = 0 ∧ t.get R.CE_STAT_DONE = 0)) ∧
        (on = s.flag R.CE_CTL_RUN → t.ce = s.ce) ∧ t.log = s.log ∧ t.time = s.time ∧ s.sameMemory t) ∧
    (s.switching = true → s.flag R.CE_CTL_RUN = true →
      ∃ t, exec (.run who false) s = .next t ∧ t.ce = s.ce ∧ s.Ignored t who .ce 0 0x040 7)

/-- R77, R233, R267, R296, R324, R373, R411, R434: under TEST the injections act: a fault at the next program start, an error of one or two
bits in the data word at DADDR, a CROSS or OUTPUT fault in the next cycle, a refused final burst, a biased calibration, the end of the
rotation's WAIT, a fault of a string channel, a drive in FAULT with cause 6, a test input of the meter. None writes memory or moves time.
Without TEST each is an ignored write with cause 7, but the string channel's for channel 0, which writes 0 and leaves no trace (R472). -/
def Obligations.TestInjections : Prop :=
  ∀ (s : State) (who : Who), s.commands who → s.Wf →
    (s.testActive = true →
      (∃ t, exec (.ceTestFault who) s = .next t ∧ t.ce = { s.ce with injFault := true } ∧ { t with ce := s.ce } = s) ∧
      (∃ t, exec (.ecc1 who) s = .next t ∧ s.get R.CE_DADDR_ADDR ∈ t.ce.err1 ∧
        { t.ce with err1 := s.ce.err1, planted := s.ce.planted } = s.ce ∧ { t with ce := s.ce } = s) ∧
      (∃ t, exec (.ecc2 who) s = .next t ∧ s.get R.CE_DADDR_ADDR ∈ t.ce.err2 ∧
        { t.ce with err2 := s.ce.err2, planted := s.ce.planted } = s.ce ∧ { t with ce := s.ce } = s) ∧
      (∃ t, exec (.xinj who) s = .next t ∧ t.safe = { s.safe with xinj := true } ∧ { t with safe := s.safe } = s) ∧
      (∃ t, exec (.oinj who) s = .next t ∧ t.safe = { s.safe with oinj := true } ∧ { t with safe := s.safe } = s) ∧
      (∃ t, exec (.tfail who) s = .next t ∧ t.org = { s.org with tfail := true } ∧ { t with org := s.org, parFlip := s.parFlip } = s) ∧
      (∃ t, exec (.calerr who) s = .next t ∧ t.adc = { s.adc with calErr := true } ∧ { t with adc := s.adc, parFlip := s.parFlip } = s) ∧
      (∀ ch : Fin 32, ∃ t, exec (.slopeTestFault who ch) s = .next t ∧ t.sl ch = { s.sl ch with inject := true } ∧
        { t with slope := s.slope } = s) ∧
      (s.rotPhase = rWAIT → s.rotEnabled = true →
        ∃ t, exec (.adcStep who) s = .next t ∧ t.rotPhase = rCALSPARE ∧ t.rotPos = (s.rotPos + 1) % 8 ∧
          s.sameElse t [R.ADC_ROT_STAT_POS, R.ADC_ROT_STAT_PHASE] ∧ s.onlyRegs t) ∧
      (∀ d : Fin 3, s.drvState d ≠ dOFF → s.drvState d ≠ dSHORT → s.drvState d ≠ dFAULT →
        ∃ t, exec (.drvInj who d) s = .next t ∧ t.drvState d = dFAULT ∧ t.get (R.MD_STAT_FCAUSE d) = 6 ∧ t.flag (R.MD_STAT_FAULT d) = true ∧
          t.time = s.time ∧ s.sameMemory t) ∧
      (∀ v : Word, fieldOf v 6 5 ≤ 2 →
        ∃ t, exec (.meterTestInj who v) s = .next t ∧ t.get R.METER_TEST_INJ = fieldOf v 0 0 ∧
          (s.flag R.METER_TEST_INJ = false → fieldOf v 0 0 = 1 → t.meter.tacc = 0) ∧ t.log = s.log ∧ t.time = s.time ∧ s.sameMemory t)) ∧
    (s.testActive = false →
      (∀ q ∈ [(Instr.ceTestFault who, PageKind.ce, 0x090), (.ecc1 who, .ce, 0x090), (.ecc2 who, .ce, 0x090), (.xinj who, .safe, 0x064),
          (.oinj who, .safe, 0x064), (.tfail who, .origin, 0x05C), (.calerr who, .rot, 0x060), (.adcStep who, .rot, 0x060)],
        ∃ t, exec q.1 s = .next t ∧ s.Ignored t who q.2.1 0 q.2.2 7) ∧
      (∀ ch : Fin 32, ch.val ≠ 0 → ∃ t, exec (.slopeTestFault who ch) s = .next t ∧ s.Ignored t who .slope 0 0x054 7) ∧
      exec (.slopeTestFault who 0) s = .next s ∧
      (∀ d : Fin 3, ∃ t, exec (.drvInj who d) s = .next t ∧ s.Ignored t who .md d 0x080 7) ∧
      ∀ v : Word, fieldOf v 0 0 ≠ s.get R.METER_TEST_INJ →
        ∃ t, exec (.meterTestInj who v) s = .next t ∧ s.Ignored t who .meter 0 0x064 7)

/-- R356, R366, R369, R371: START, POSITION, STOW and HOME take a drive from IDLE or COAST into CATCH (POSITION and STOW only when its Arc
channel is homed and without a sensor fault, and in position mode with their target; HOME arms the re-home); STOP takes a running drive into
DECEL, and a drive whose chopper is faulty into COAST from any state but OFF, SHORT and FAULT; COAST takes it there from those states. In FAULT
these two change nothing; in any other state a command is ignored with cause 7. R351, R357, R378: EN 1 takes a drive that is ready from OFF to IDLE, and at once to FAULT on a
safety stop (cause 7) or a trip condition (cause 1); EN of a drive that is not ready is ignored with cause 7; EN 0 takes it OFF, and FAULT,
FCAUSE and the time of a HALT stow stay. R367: a speed target is stored, but in a forbidden direction ignored with cause 7, with DIRREF. R378: a clear of FAULT clears it
and FCAUSE (which keeps a fault that waits for the end of SHORT, R357), and leads from FAULT to IDLE, or at once to FAULT again on a trip
condition; it is refused while the condition of FCAUSE, or a safety stop, holds. -/
def Obligations.DriveCommands : Prop :=
  (∀ (s : State) (who : Who) (d : Fin 3), s.commands who → s.Wf →
     (s.drvState d = dIDLE ∨ s.drvState d = dCOAST →
       (∀ q ∈ [(Instr.start who d, 0), (.home who d, 3)],
         ∃ t, exec q.1 s = .next t ∧ t.drvState d = dCATCH ∧ (t.drvSt d).cmd = q.2 ∧ t.flag (R.MD_STAT_POSMODE d) = false ∧
           (t.drvSt d).catchUp = s.time.up ∧ (q.2 = 3 → t.flag (R.ARC_STAT_HOMEARM d) = true) ∧ t.time = s.time ∧ s.sameMemory t) ∧
       (s.arcReady d = true →
         ∀ q ∈ [(Instr.position who d, 1, s.getI (R.MD_POS_TGT d)), (.stow who d, 2, s.getI (R.MD_STOW_POS d))],
           ∃ t, exec q.1 s = .next t ∧ t.drvState d = dCATCH ∧ (t.drvSt d).cmd = q.2.1 ∧ (t.drvSt d).target = q.2.2 ∧
             t.flag (R.MD_STAT_POSMODE d) = true ∧ (t.drvSt d).catchUp = s.time.up ∧ t.time = s.time ∧ s.sameMemory t)) ∧
     (¬ (s.drvState d = dIDLE ∨ s.drvState d = dCOAST) →
       ∀ i ∈ [Instr.start who d, .home who d, .position who d, .stow who d], ∃ t, exec i s = .next t ∧ s.Ignored t who .md d 0x080 7) ∧
     (s.arcReady d = false → ∀ i ∈ [Instr.position who d, .stow who d], ∃ t, exec i s = .next t ∧ s.Ignored t who .md d 0x080 7) ∧
     (s.drvState d = dRUN ∧ s.busFaulty d = false →
       ∃ t, exec (.stop who d) s = .next t ∧ t.drvState d = dDECEL ∧ t.time = s.time ∧ s.sameMemory t) ∧
     (s.busFaulty d = true → s.drvState d ≠ dOFF → s.drvState d ≠ dSHORT → s.drvState d ≠ dFAULT →
       ∃ t, exec (.stop who d) s = .next t ∧ t.drvState d = dCOAST ∧ t.time = s.time ∧ s.sameMemory t) ∧
     (s.drvState d = dFAULT → exec (.coast who d) s = .next s ∧ (s.busFaulty d = true → exec (.stop who d) s = .next s)) ∧
     (s.drvState d ≠ dRUN → s.busFaulty d = false ∨ s.drvState d = dOFF ∨ s.drvState d = dSHORT →
       ∃ t, exec (.stop who d) s = .next t ∧ s.Ignored t who .md d 0x080 7) ∧
     (s.drvState d ≠ dOFF → s.drvState d ≠ dSHORT → s.drvState d ≠ dFAULT →
       ∃ t, exec (.coast who d) s = .next t ∧ t.drvState d = dCOAST ∧ t.time = s.time ∧ s.sameMemory t) ∧
     (s.drvState d = dOFF ∨ s.drvState d = dSHORT →
       ∃ t, exec (.coast who d) s = .next t ∧ s.Ignored t who .md d 0x080 7)) ∧
  (∀ (s : State) (who : Who) (d : Fin 3), s.commands who → s.Wf →
     (s.drvState d = dOFF → s.flag (R.MD_CFG_EN d) = false → s.driveReady (s.put (R.MD_CFG_EN d) 1) d = true →
       ∃ t, exec (.driveEnable who d true) s = .next t ∧ t.flag (R.MD_CFG_EN d) = true ∧ t.time = s.time ∧ s.sameMemory t ∧
         (s.drvStopped d = false → s.drvOver d = false → t.drvState d = dIDLE) ∧
         (s.drvStopped d = true ∨ s.drvOver d = true → t.drvState d = dFAULT ∧ t.flag (R.MD_STAT_FAULT d) = true ∧
           t.get (R.MD_STAT_FCAUSE d) = (if s.drvStopped d = true then 7 else 1))) ∧
     (s.flag (R.MD_CFG_EN d) = false → s.driveReady (s.put (R.MD_CFG_EN d) 1) d = false →
       ∃ t, exec (.driveEnable who d true) s = .next t ∧ s.Ignored t who .md d 0x040 7) ∧
     (s.flag (R.MD_CFG_EN d) = true →
       ∃ t, exec (.driveEnable who d false) s = .next t ∧ t.drvState d = dOFF ∧ t.flag (R.MD_CFG_EN d) = false ∧
         t.drvSt d = { stowUp := (s.drvSt d).stowUp } ∧
         t.flag (R.MD_STAT_FAULT d) = s.flag (R.MD_STAT_FAULT d) ∧ t.get (R.MD_STAT_FCAUSE d) = s.get (R.MD_STAT_FCAUSE d) ∧
         t.time = s.time ∧ s.sameMemory t) ∧
     (∀ v : Word,
       (¬ (0 < v.toInt ∧ s.forbids d true = true) → ¬ (v.toInt < 0 ∧ s.forbids d false = true) →
         ∃ t, exec (.speedTargetWrite who d v) s = .next t ∧ t.getI (R.MD_SPD_TGT d) = v.toInt ∧ s.sameElse t [R.MD_SPD_TGT d] ∧
           s.onlyRegs t) ∧
       ((0 < v.toInt ∧ s.forbids d true = true) ∨ (v.toInt < 0 ∧ s.forbids d false = true) → v.toInt ≠ s.getI (R.MD_SPD_TGT d) →
         ∃ t, exec (.speedTargetWrite who d v) s = .next t ∧ t.getI (R.MD_SPD_TGT d) = s.getI (R.MD_SPD_TGT d) ∧
           t.flag (R.MD_STAT_DIRREF d) = true ∧ t.get (F.lastCause (pageBase .md d)) = 7 ∧ t.time = s.time ∧ s.sameMemory t)) ∧
     (s.flag (R.MD_STAT_FAULT d) = true →
       (s.drvStopped d = false → ¬ (s.get (R.MD_STAT_FCAUSE d) = 1 ∧ s.drvOver d = true) → ¬ (s.get (R.MD_STAT_FCAUSE d) = 2 ∧ s.drvConf d = true) →
         ¬ (s.get (R.MD_STAT_FCAUSE d) = 3 ∧ s.arcErrHolds d = true) →
         ∃ t, exec (.driveFaultClear who d) s = .next t ∧ t.time = s.time ∧ s.sameMemory t ∧
           (s.drvState d ≠ dFAULT ∨ s.drvOver d = false → t.flag (R.MD_STAT_FAULT d) = false ∧
             ((s.drvSt d).pending = 0 → t.get (R.MD_STAT_FCAUSE d) = 0) ∧
             t.drvState d = (if s.drvState d = dFAULT then dIDLE else s.drvState d)) ∧
           (s.drvState d = dFAULT → s.drvOver d = true →
             t.flag (R.MD_STAT_FAULT d) = true ∧ t.get (R.MD_STAT_FCAUSE d) = 1 ∧ t.drvState d = dFAULT)) ∧
       (s.drvStopped d = true ∨ (s.get (R.MD_STAT_FCAUSE d) = 1 ∧ s.drvOver d = true) ∨ (s.get (R.MD_STAT_FCAUSE d) = 2 ∧ s.drvConf d = true) ∨
           (s.get (R.MD_STAT_FCAUSE d) = 3 ∧ s.arcErrHolds d = true) →
         ∃ t, exec (.driveFaultClear who d) s = .next t ∧ t.flag (R.MD_STAT_FAULT d) = true ∧ t.flag (R.MD_STAT_CLR_REFUSED d) = true ∧
           t.drvState d = s.drvState d ∧ t.get (F.lastCause (pageBase .md d)) = 7 ∧ t.time = s.time ∧ s.sameMemory t)))

/-- R338 to R342, R346, R347: REARM sets ARMED; SNAP copies the counter; a new SRC makes Gnomon FREE; an offset that is submitted to the
selected source, with no step in the two seconds before it, shows in TIME_OFFS in nanoseconds (to the nearest), and TIME_TEST's in the same
way (o is the offset in units of 0.25 ns): while ARMED an offset beyond STEP_TH makes a step pending, and in a non-switching mode nothing
else; every other computes F and r and sets the rate of the TIME PLL; STATE goes from FREE to ACQUIRE, to LOCKED with the sixteenth offset in a
row within LOCK_TH, from LOCKED to ACQUIRE with the fourth in a row beyond four times that, and from HOLDOVER to LOCKED or ACQUIRE by one
offset; LOCKED clears ARMED and the pending step. MEAS_TO without a measurement moves LOCKED to HOLDOVER and ACQUIRE to FREE, and HOLD_MAX ends HOLDOVER, each within the next TIME clock
(R9, log entry 2); HOLDOVER begins with r = −F. R312, R314, R315: HOLD is stored; at its end it reads 0 and METER_RES and METER_ACC take the
values held back; WACK clears every WRAP; 0x5A to METER_ACC_CLR, with
the key open and the seal broken, clears every accumulator and window register, takes over QUANT, sets CLEARED and uses the key. -/
def Obligations.TimeAndMeterCommands : Prop :=
  (∀ (s : State) (who : Who), s.commands who → s.Wf →
     (∃ t, exec (.rearm who) s = .next t ∧ t.flag R.TIME_STAT_ARMED = true ∧ s.sameElse t [R.TIME_STAT_ARMED] ∧ s.onlyRegs t) ∧
     (∃ t, exec (.snap who) s = .next t ∧ t.get R.TIME_SNAP_SUB = s.time.now % secQ ∧ t.get R.TIME_SNAP_SEC = s.time.now / secQ % 2 ^ 32 ∧
       t.get R.TIME_SNAP_SECH_SECH = s.time.now / secQ / 2 ^ 32 % 2 ^ 16 ∧
       s.sameElse t [R.TIME_SNAP_SUB, R.TIME_SNAP_SEC, R.TIME_SNAP_SECH_SECH] ∧ s.onlyRegs t) ∧
     (∀ src : Fin 4, src.val ≤ 2 → src.val ≠ s.get R.TIME_CTL_SRC →
       ∃ t, exec (.srcSelect who src) s = .next t ∧ t.get R.TIME_CTL_SRC = src ∧ t.get R.TIME_STAT_STATE = gFREE ∧
         t.time.lastUpd = none ∧ t.time.now = s.time.now ∧ s.sameMemory t) ∧
     (∀ v : Word, s.get R.TIME_CTL_SRC = 0 → (∀ u, s.time.stepUp = some u → u + 2 * secQ ≤ s.time.up) →
       ∀ q ∈ (Instr.timeMeasurement who v, (BitVec.ofNat 64 (s.time.measLo + v.toNat * 2 ^ 32)).toInt) ::
           (if s.testActive = true then [(Instr.measinj who v, 4 * v.toInt)] else []),
         ∃ t, exec q.1 s = .next t ∧ t.time.now = s.time.now ∧ t.time.lastMeas = some s.time.up ∧ t.getI R.TIME_OFFS = satI 32 ((q.2 + 2) / 4) ∧
           s.sameMemory t ∧
           (∀ th n : Nat, th = s.get R.TIME_LOCK_LOCK_TH * 4 →
             (s.get R.TIME_STAT_STATE = gFREE ∨ s.get R.TIME_STAT_STATE = gACQUIRE →
               n = (if q.2.natAbs ≤ th then (if s.get R.TIME_STAT_STATE = gFREE then 0 else s.time.nIn) + 1 else 0) →
               t.get R.TIME_STAT_STATE = (if 16 ≤ n then gLOCKED else gACQUIRE)) ∧
             (s.get R.TIME_STAT_STATE = gLOCKED → n = (if 4 * th < q.2.natAbs then s.time.nOut + 1 else 0) →
               t.get R.TIME_STAT_STATE = (if 4 ≤ n then gACQUIRE else gLOCKED)) ∧
             (s.get R.TIME_STAT_STATE = gHOLDOVER → t.get R.TIME_STAT_STATE = (if q.2.natAbs ≤ th then gLOCKED else gACQUIRE))) ∧
           (t.get R.TIME_STAT_STATE = gLOCKED → s.get R.TIME_STAT_STATE ≠ gLOCKED →
             t.flag R.TIME_STAT_ARMED = false ∧ t.get R.TIME_STAT_PEND = 0 ∧ t.time.step = none) ∧
           (t.get R.TIME_STAT_STATE ≠ gLOCKED ∨ s.get R.TIME_STAT_STATE = gLOCKED →
             t.flag R.TIME_STAT_ARMED = s.flag R.TIME_STAT_ARMED ∧
             (s.flag R.TIME_STAT_ARMED = true → s.get R.TIME_LOCK_STEP_TH * 4000 < q.2.natAbs →
               t.get R.TIME_STAT_PEND = 1 ∧ t.time.step = some ((-2 * q.2 + 5) / 10)) ∧
             (s.flag R.TIME_STAT_ARMED = true → q.2.natAbs ≤ s.get R.TIME_LOCK_STEP_TH * 4000 → s.time.step.isSome = true →
               t.get R.TIME_STAT_PEND = 0 ∧ t.time.step = none) ∧
             (s.flag R.TIME_STAT_ARMED = false → t.get R.TIME_STAT_PEND = s.get R.TIME_STAT_PEND ∧ t.time.step = s.time.step)) ∧
           (s.flag R.TIME_STAT_ARMED = true → s.get R.TIME_LOCK_STEP_TH * 4000 < q.2.natAbs → s.switching = false →
             t.get R.TIME_FREQ = s.get R.TIME_FREQ ∧ t.get R.TIME_RATE = s.get R.TIME_RATE ∧ t.time.rate = s.time.rate) ∧
           (s.flag R.TIME_STAT_ARMED = false ∨ q.2.natAbs ≤ s.get R.TIME_LOCK_STEP_TH * 4000 ∨ s.switching = true →
             ∀ o dt f r : Rat, o = (q.2 : Rat) / 4000000000 →
               dt = (match s.time.lastUpd with | none => 0 | some u => min 2 (((s.time.up - u : Nat) : Rat) / 4000000000)) →
               f = s.limitRate (s.getI R.TIME_FREQ / 2 ^ 40 + o * dt / (s.get R.TIME_SERVO_TP * s.get R.TIME_SERVO_TI)) →
               r = s.limitRate (-(o / s.get R.TIME_SERVO_TP + f)) →
               t.getI R.TIME_FREQ = satI 32 (rnd 40 f) ∧ t.getI R.TIME_RATE = satI 32 (rnd 40 r) ∧ t.time.lastUpd = some s.time.up ∧
                 t.time.rate = (if s.sys.monCond.testBit 0 = true then s.time.rate else t.getI R.TIME_RATE))) ∧
     (s.get R.TIME_STAT_STATE = gLOCKED ∨ s.get R.TIME_STAT_STATE = gACQUIRE →
       ∃ t, exec .measTimeout s = .next t ∧ t.get R.TIME_STAT_STATE = (if s.get R.TIME_STAT_STATE = gLOCKED then gHOLDOVER else gFREE) ∧
         t.flag R.TIME_STAT_TLOCK = (s.get R.TIME_STAT_STATE == gLOCKED) ∧
         s.sameMemory t ∧ (s.get R.TIME_STAT_STATE = gLOCKED → -2 ^ 31 < s.getI R.TIME_FREQ → t.getI R.TIME_RATE = -s.getI R.TIME_FREQ) ∧
         ∀ u, u = s.advUp (s.time.lastMeas.getD s.time.up + s.get R.TIME_HOLD_MEAS_TO * secQ) →
           t.time.osc = u.time.osc + 5 ∧ t.time.now = u.idle.time.now ∧ u.time.up < t.time.up) ∧
     (s.get R.TIME_STAT_STATE = gHOLDOVER →
       ∃ t, exec .holdoverExpiry s = .next t ∧ t.get R.TIME_STAT_STATE = gFREE ∧ t.flag R.TIME_STAT_TLOCK = false ∧
         t.get R.TIME_RATE = s.get R.TIME_RATE ∧ t.time.up = (s.advUp (s.time.holdUp + s.get R.TIME_HOLD_HOLD_MAX * secQ)).idle.time.up ∧
         s.sameMemory t)) ∧
  (∀ (s : State) (who : Who), s.commands who → s.Wf →
     (∃ t, exec (.meterHold who true) s = .next t ∧ t.flag R.METER_CTL_HOLD = true ∧ s.sameElse t [R.METER_CTL_HOLD] ∧ s.onlyRegs t) ∧
     (∃ t, exec (.meterHold who false) s = .next t ∧ t.log = s.log ∧ t.time = s.time ∧ s.sameMemory t ∧
       (s.flag R.METER_CTL_HOLD = true → t.meter = { s.meter with held := [], ovf := [] } ∧
         t.regs = ((s.put R.METER_CTL_HOLD 0).showAll s.meter.held).regs ∧
         ((∀ q ∈ s.meter.held, Fld.ok q.1 ∧ Fld.apart q.1 R.METER_CTL_HOLD) → t.flag R.METER_CTL_HOLD = false ∧
           ∀ q ∈ s.meter.held, (∀ r ∈ s.meter.held, r = q ∨ Fld.apart r.1 q.1) → t.get q.1 = q.2 % 2 ^ (q.1.hi + 1 - q.1.lo))) ∧
       (s.flag R.METER_CTL_HOLD = false → t.regs = s.regs ∧ t.meter = s.meter)) ∧
     (∃ t, exec (.wack who) s = .next t ∧ (∀ i : Fin 54, t.get (R.ACC_WST_WRAP (i / 6) (i % 6)) = 0) ∧ t.meter.wraps = [] ∧
       t.meter.acc = s.meter.acc ∧ t.log = s.log ∧ t.time = s.time ∧ s.sameMemory t) ∧
     ∀ v : Word, s.keyOpen (pageBase .macc 0) = true → s.sys.sealed = false → v.toNat % 256 = 0x5A →
       ∃ t, exec (.meterClear who v) s = .next t ∧ t.meter.acc = [] ∧ t.meter.wraps = [] ∧ t.meter.ovf = [] ∧
         t.meter.quant = s.get R.METER_CFG_QUANT ∧ (∀ i : Fin 236, t.reg (0x40603080 + 4 * i) = 0) ∧
         t.flag R.METER_STAT_CLEARED = true ∧ t.keyOpen (pageBase .macc 0) = false ∧ t.time = s.time ∧ s.sameMemory t)

/-- R393, R394, R398, R404, R408, R36: a RELEASE whose every condition holds clears PSAFE, the causes and the faults and uses the key; one that
fails a condition uses the key, sets RELREF and leaves PSAFE; of the drives that SAFE_DRV_REL names, each whose conditions hold leaves its
stop, and for the others RELREF is set. With the key closed both are ignored with cause 1. The requests of the outputs are stored, and a
change takes effect in ON at once. RESTART puts a connection that is not OFF into WAIT. WEN takes its value with the key open and SEALED
0, and uses the key; a 1 under the seal is ignored with cause 7, whoever writes it, and every change once the seal holds for all (it does not
while the boot ROM loads an image); with the key closed it is ignored with cause 1. -/
def Obligations.SafetyCommands : Prop :=
  ∀ (s : State) (who : Who), s.commands who → s.Wf →
    (s.keyOpen (pageBase .safe 0) = true →
      ∃ t, exec (.release who) s = .next t ∧ t.keyOpen (pageBase .safe 0) = false ∧ t.time = s.time ∧ s.sameMemory t ∧
        (s.releaseWhy = 0 → t.flag R.SAFE_STAT_PSAFE = false ∧ t.get R.SAFE_CAUSE_CAUSE = 0 ∧ t.get R.SAFE_FAULT_FAULT = 0) ∧
        (s.releaseWhy ≠ 0 → t.flag R.SAFE_STAT_PSAFE = s.flag R.SAFE_STAT_PSAFE ∧ t.flag R.SAFE_STAT_RELREF = true)) ∧
    (s.keyOpen (pageBase .safe 0) = false →
      ∃ t, exec (.release who) s = .next t ∧ s.Ignored t who .safe 0 (R.SAFE_CTL_RELEASE.addr % 4096) 1) ∧
    (∀ v : Word, v.toNat % 8 ≠ 0 → s.keyOpen (pageBase .sfn 0) = true →
      ∃ t, exec (.driveRelease who v) s = .next t ∧ t.keyOpen (pageBase .sfn 0) = false ∧ t.time = s.time ∧ s.sameMemory t ∧
        (∀ d : Fin 3, v.toNat.testBit d = true → s.driveWhy d = 0 →
          t.flag (R.SDRV_STAT_DSTOP d) = false ∧ t.get (R.SDRV_STAT_CAUSE d) = 0) ∧
        (∀ d : Fin 3, v.toNat.testBit d = true → s.driveWhy d ≠ 0 →
          t.flag (R.SDRV_STAT_DSTOP d) = s.flag (R.SDRV_STAT_DSTOP d) ∧ t.flag R.SAFE_STAT_RELREF = true) ∧
        (∀ d : Fin 3, v.toNat.testBit d = false → t.flag (R.SDRV_STAT_DSTOP d) = s.flag (R.SDRV_STAT_DSTOP d))) ∧
    (∀ v : Word, v.toNat % 8 ≠ 0 → s.keyOpen (pageBase .sfn 0) = false →
      ∃ t, exec (.driveRelease who v) s = .next t ∧ s.Ignored t who .sfn 0 0x0C0 1) ∧
    (∀ v : Word, ∃ t, exec (.outputRequest who v) s = .next t ∧ t.get R.SAFE_OUT_REQ_REQ = v.toNat % 16 ∧ t.time = s.time ∧
      s.sameMemory t ∧ (v.toNat % 16 ≠ s.get R.SAFE_OUT_REQ_REQ → ∀ x : Fin 4,
        (t.get R.SAFE_OUT_STAT_ON).testBit x = ((v.toNat % 16).testBit x && s.outPermit x && !s.onfail x))) ∧
    (∀ c : Fin 2, s.get (R.SCONN_STAT_STATE c) ≠ 0 →
      ∃ t, exec (.connRestart who c) s = .next t ∧ t.get (R.SCONN_STAT_STATE c) = 1 ∧ t.get (R.SCONN_TXSEQ c) = 0 ∧
        (t.connSt c).wdUp = none ∧ t.log = s.log ∧ t.time = s.time ∧ s.sameMemory t) ∧
    ∀ on : Bool, on.toNat ≠ s.get R.SAFE_MRAM_WEN →
      (s.keyOpen (pageBase .safe 0) = true → s.sys.sealed = false →
        ∃ t, exec (.wen who on) s = .next t ∧ t.flag R.SAFE_MRAM_WEN = on ∧ t.keyOpen (pageBase .safe 0) = false ∧
          s.sameElse t [R.SAFE_MRAM_WEN] ∧ t.time = s.time ∧ s.sameMemory t) ∧
      (s.keyOpen (pageBase .safe 0) = true → s.sealedNow = true ∨ (s.sys.sealed = true ∧ on = true) →
        ∃ t, exec (.wen who on) s = .next t ∧ s.Ignored t who .safe 0 0x060 7) ∧
      (s.keyOpen (pageBase .safe 0) = false →
        ∃ t, exec (.wen who on) s = .next t ∧ s.Ignored t who .safe 0 0x060 1)

/-- R162, R163, R165: a clear of a trip channel is refused while the channel is active and else clears its latch; a clear of ALLOFF is refused
while a leg or channel latch stands, and else clears ALLOFF and GEN_REQ; a leg's latches of causes 7 and 8 clear at once; INJ under TEST
latches cause 8, and is ignored with cause 7 without; a pin that reaches its active level latches its channel, where that is enabled, after
FILT TIME clocks (log entry 215). R160: GEN_REQ is set, and GEN_N follows, at the time fixed by the all-off latch. R166: while the polarity
guard is enabled its comparator outside the window takes PGUARD low and, where that latch is not set yet, latches LOW (below) or HIGH (above)
and lets the drives coast; PGUARD goes high ONDLY milliseconds after the comparator's return with no latch set. -/
def Obligations.ProtectionAndGuard : Prop :=
  (∀ (s : State) (who : Who), s.commands who → s.Wf →
     (∀ x : Fin 8, s.chLatched x = true → s.flag (R.TCH_STAT_ACTIVE x) = false → s.chPin x = false → s.chCmp x = false →
       ∃ t, exec (.channelClear who ⟨x, by omega⟩) s = .next t ∧ t.chLatched x = false ∧ t.time = s.time ∧ s.sameMemory t) ∧
     (∀ x : Fin 8, s.chLatched x = true → s.flag (R.TCH_STAT_ACTIVE x) = true →
       ∃ t, exec (.channelClear who ⟨x, by omega⟩) s = .next t ∧ t.chLatched x = true ∧ t.flag (R.TCH_STAT_CLR_REFUSED x) = true ∧
         t.flag R.TRIP_STAT_CLR_REFUSED = true ∧ t.get (F.lastCause (pageBase .tripp 0)) = 7 ∧ t.time = s.time ∧ t.mram = s.mram) ∧
     (s.allOff = true → s.anyLatch = false →
       ∃ t, exec (.channelClear who 8) s = .next t ∧ t.allOff = false ∧ t.flag R.TRIP_STAT_GEN_REQ = false ∧ t.prot.genAt = none ∧
         t.time = s.time ∧ s.sameMemory t) ∧
     (s.allOff = true → s.anyLatch = true →
       ∃ t, exec (.channelClear who 8) s = .next t ∧ t.allOff = true ∧ t.flag R.TRIP_STAT_CLR_REFUSED = true ∧
         t.get (F.lastCause (pageBase .tripp 0)) = 7 ∧ t.time = s.time ∧ s.sameMemory t) ∧
     (∀ p m : Fin 8, s.legLatched (8 * p + m) = true → s.get (R.PROT_LATCH p m) % 64 = 0 →
       ∃ t, exec (.tripClear who p m 0xC0) s = .next t ∧ t.legLatched (8 * p + m) = false ∧ t.time = s.time ∧ s.sameMemory t) ∧
     (∀ p m : Fin 8,
       (s.testActive = true → s.flag ((R.PROT_LATCH p m).bit 7) = false → s.legLatched (8 * p + m) = false →
         ∃ t, exec (.inj who p m) s = .next t ∧ t.flag ((R.PROT_LATCH p m).bit 7) = true ∧ t.get (R.PROT_LATCH_FIRST p m) = 8 ∧
           t.time = s.time ∧ t.mram = s.mram) ∧
       (s.testActive = false →
         ∃ t, exec (.inj who p m) s = .next t ∧ s.Ignored t who .prot p ((R.PROT_CFG_INJ p m).addr % 4096) 7)) ∧
     (∀ (x : Fin 8) (level : Bool), s.flag (R.TCH_CFG_EN x) = true → level ≠ s.flag (R.TCH_CFG_POL x) →
       ∃ t, exec (.pinTrip x level) s = .next t ∧ t.chLatched x = true ∧ t.flag (R.TCH_STAT_ACTIVE x) = true ∧
         t.flag (R.TCH_STAT_PIN x) = level ∧ t.time = (s.advOsc (s.time.osc + s.get (R.TCH_CFG_FILT x) * 5)).time ∧ t.mram = s.mram)) ∧
  (∀ s : State, s.alive = true →
     (∀ u, s.prot.genAt = some u → s.allOff = true →
       ∃ t, exec .genRequest s = .next t ∧ t.flag R.TRIP_STAT_GEN_REQ = true ∧ t.flag R.SAFE_STAT_GEN = false ∧ t.prot.genAt = none ∧
         t.time = (s.advUp u).time ∧ t.log = s.log ∧ s.sameMemory t) ∧
     (s.flag R.TRIP_PG_CFG_EN = true →
       (s.pgWin ≠ 0 → s.flag (if s.pgWin = 1 then R.TRIP_PG_STAT_LOW else R.TRIP_PG_STAT_HIGH) = true →
         ∃ t, exec .pgTrip s = .next t ∧ t.flag R.TRIP_PG_STAT_ON = false ∧ t.get R.TRIP_PG_STAT_WIN = s.pgWin ∧
           s.sameElse t [R.TRIP_PG_STAT_ON, R.TRIP_PG_STAT_WIN] ∧ s.onlyRegs t) ∧
       (s.pgWin ≠ 0 → s.flag (if s.pgWin = 1 then R.TRIP_PG_STAT_LOW else R.TRIP_PG_STAT_HIGH) = false →
         ∃ t, exec .pgTrip s = .next t ∧ t.flag R.TRIP_PG_STAT_ON = false ∧ t.get R.TRIP_PG_STAT_WIN = s.pgWin ∧
           t.flag (if s.pgWin = 1 then R.TRIP_PG_STAT_LOW else R.TRIP_PG_STAT_HIGH) = true ∧
           t.flag ((F.irqStat (pageBase .tripp 0)).bit 9) = true ∧
           (∀ d : Fin 3, t.drvState d = (if s.drvState d = dOFF ∨ s.drvState d = dSHORT ∨ s.drvState d = dFAULT then s.drvState d else dCOAST)) ∧
           t.time = s.time ∧ s.sameMemory t) ∧
       (s.pgWin = 0 → s.pgLatched = false →
         ∃ t, exec .pguardOn s = .next t ∧ t.flag R.TRIP_PG_STAT_ON = true ∧ t.get R.TRIP_PG_STAT_WIN = 0 ∧
           t.time = (s.advUp ((s.cmpc (s.get R.TRIP_PG_CFG_CMP)).inUp + s.get R.TRIP_PG_CFG_ONDLY * 4000000)).time ∧
           s.sameElse t [R.TRIP_PG_STAT_ON, R.TRIP_PG_STAT_WIN] ∧ t.log = s.log ∧ s.sameMemory t)))

/-- R21, R422, R442, R443, R449: a write of HC_REL sets the bits written 1 and halts no core again: a bit written 0 that is set stays, and the
write is ignored with cause 7. A kick with 0x5AA5 restarts the watchdog; another value but 0 (R472) is ignored with cause 7. A clock output
moves between SETUP and RUN where its setting and the mode allow it, and is ignored with cause 7 elsewhere. FMT is stored; a new one in RUN
stops the output at its next low phase and starts it on an edge of its divider within 2 µs and a period after (the times within that are free,
log entry 245), and does not disturb the divider. RTCSET loads the
seconds from SETL and SETH while TLOCK is 0, and is ignored with cause 7 while it is 1. -/
def Obligations.SystemCommands : Prop :=
  ∀ (s : State) (who : Who), s.commands who → s.Wf →
    (∀ v : Word, ∃ t, exec (.hcRelease who v) s = .next t ∧ t.get R.SYS_HC_REL_REL = s.get R.SYS_HC_REL_REL ||| fieldOf v 3 1 ∧
      t.time = s.time ∧ s.sameMemory t ∧
      (s.get R.SYS_HC_REL_REL &&& fieldOf v 3 1 = s.get R.SYS_HC_REL_REL → s.sameElse t [R.SYS_HC_REL_REL] ∧ s.onlyRegs t) ∧
      (s.get R.SYS_HC_REL_REL &&& fieldOf v 3 1 ≠ s.get R.SYS_HC_REL_REL → t.get (F.lastCause (pageBase .sys 0)) = 7)) ∧
    (∃ t, exec (.wdogKick who 0x5AA5) s = .next t ∧ t.sys = { s.sys with wdtUp := s.time.up } ∧ { t with sys := s.sys } = s) ∧
    (∀ v : Word, v ≠ 0x5AA5 → v ≠ 0 →
      ∃ t, exec (.wdogKick who v) s = .next t ∧ t.sys = s.sys ∧ s.Ignored t who .sys 0 0x058 7) ∧
    exec (.wdogKick who 0) s = .next s ∧
    (∀ (n : Fin 4) (setup : Bool),
      ((if setup then s.setupAllowed else s.outAllowed n) = true →
        ∃ t, exec (.clockOutputSetup who n setup) s = .next t ∧ t.flag (R.CLKOUT_CTL_SETUP n) = setup ∧
          s.sameElse t [R.CLKOUT_CTL_SETUP n] ∧ t.time = s.time ∧ s.sameMemory t) ∧
      ((if setup then s.setupAllowed else s.outAllowed n) = false → setup ≠ s.flag (R.CLKOUT_CTL_SETUP n) →
        ∃ t, exec (.clockOutputSetup who n setup) s = .next t ∧ s.Ignored t who .clk 0 ((R.CLKOUT_CTL_SETUP n).addr % 4096) 7)) ∧
    (∀ (n fmt : Fin 4), ∃ t, exec (.clockFormatChange who n fmt) s = .next t ∧ t.get (R.CLKOUT_CFG_FMT n) = fmt ∧
      s.sameElse t [R.CLKOUT_CFG_FMT n] ∧ t.time = s.time ∧ t.log = s.log ∧ s.sameMemory t ∧ t.sys.outEdge = s.sys.outEdge ∧
      (fmt.val = s.get (R.CLKOUT_CFG_FMT n) ∨ s.flag (R.CLKOUT_CTL_SETUP n) = true → s.onlyRegs t) ∧
      (fmt.val ≠ s.get (R.CLKOUT_CFG_FMT n) → s.flag (R.CLKOUT_CTL_SETUP n) = false → 0 < s.get (R.CLKOUT_DIV_DIV n) →
        ∃ (a b : Rat) (k : Int), Tab.get (fun _ => ((0 : Rat), (0 : Rat))) t.sys.outStop n = (a, b) ∧ (s.time.up : Rat) / 4 ≤ a ∧
          a ≤ (s.time.up : Rat) / 4 + s.outPeriod n / 2 ∧ a ≤ b ∧ b < a + 2000 + s.outPeriod n ∧ b = s.outRef n + k * s.outPeriod n ∧
          ∀ x : Rat, a ≤ x → x < b → t.outDrive n x ≠ .runs)) ∧
    (s.tlock = false →
      ∃ t, exec (.rtcset who) s = .next t ∧ t.get R.ORIGIN_RTC_SEC = s.get R.ORIGIN_RTC_SETL ∧
        t.get R.ORIGIN_RTC_SECH_SECH = s.get R.ORIGIN_RTC_SETH_SECH ∧ t.flag R.ORIGIN_STAT_RTCVALID = true ∧
        s.sameElse t [R.ORIGIN_RTC_SEC, R.ORIGIN_RTC_SECH_SECH, R.ORIGIN_STAT_RTCVALID] ∧ t.time = s.time ∧ t.log = s.log ∧ s.sameMemory t) ∧
    (s.tlock = true → ∃ t, exec (.rtcset who) s = .next t ∧ s.Ignored t who .origin 0 0x05C 7)

/-- R88, R89, R105: EN of a leg timer whose settings pass the checks and whose group is not held is stored, and COM_SET.LEGS counts it; EN 1
that fails them is ignored with cause 7. While a group is held, a new DUTY of its leg is staged and the active register stays. COMMIT gives the
active registers every staged value of its group and takes those out of the queue; with nothing staged it changes nothing; one that takes
effect at the latch shows LATE of its group and logs it once. R229, R234, R265, R343, R369, R377: SCANREQ sets the scan pending of each channel named that is not scanning; a string fault
whose condition does not hold clears, and another refuses the clear; a clear of a supervisor latch resets its channel's count; TRIG_SW pulses
the lines named; OPEN of a chopper clears, and STUCK while no current is present; HOME arms a re-home. R214: INJ under TEST confirms an island
with cause 7, and is ignored with cause 7 without. -/
def Obligations.PolygonAndBlockCommands : Prop :=
  (∀ (s : State) (who : Who), s.commands who → s.Wf →
     (∀ (n : Fin 64) (en : Bool), s.held (s.groupOf .leg n) = false →
       ((en = true → (s.put (R.LEG_CTL_EN n) 1).legCheck n s.tickU = 0 ∧ s.legRoom = true) →
         ∃ t, exec (.legEnable who n en) s = .next t ∧ t.flag (R.LEG_CTL_EN n) = en ∧ t.get R.COM_SET_LEGS = t.enabledLegs ∧
           s.sameElse t [R.LEG_CTL_EN n, R.COM_SET_LEGS] ∧ s.onlyRegs t) ∧
       (en = true → s.flag (R.LEG_CTL_EN n) = false → ¬ ((s.put (R.LEG_CTL_EN n) 1).legCheck n s.tickU = 0 ∧ s.legRoom = true) →
         ∃ t, exec (.legEnable who n en) s = .next t ∧ t.flag (R.LEG_CTL_EN n) = false ∧ t.get (F.lastCause (pageBase .leg n)) = 7 ∧
           t.time = s.time ∧ s.sameMemory t)) ∧
     (∀ (n : Fin 64) (v : Word) (al : Bool), s.held (s.groupOf .leg n) = true → v.toNat < 2 ^ 26 → v.toNat ≠ s.get (R.LEG_DUTY_DUTY n) →
       ∃ t, exec (.registerWrite who (R.LEG_DUTY n).addr 4 (v.setWidth 64) al) s = .next t ∧ t.get (R.LEG_DUTY_DUTY n) = s.get (R.LEG_DUTY_DUTY n) ∧
         ((R.LEG_DUTY n).addr, 25, 0, v.toNat) ∈ t.poly.staged ∧
         (∀ q, q ∈ t.poly.staged → q = ((R.LEG_DUTY n).addr, 25, 0, v.toNat) ∨ q ∈ s.poly.staged) ∧ s.sameElse t [R.COM_SET_LEGS] ∧
         t.log = s.log ∧ t.time = s.time ∧ s.sameMemory t) ∧
     (∀ (g : Fin 16) (al : Bool), (∀ q ∈ s.poly.staged, 0x40100000 ≤ q.1 ∧ q.1 < 0x40154000 ∧ q.2.2.1 ≤ q.2.1 ∧ q.2.1 ≤ 31) →
       ∃ t, exec (.commit who g al) s = .next t ∧ t.time = s.time ∧ s.sameMemory t ∧
         t.poly = { s.poly with staged := s.poly.staged.filter (fun q => s.groupOfAddr q.1 != g.val) } ∧
         (∀ q ∈ s.poly.staged, s.groupOfAddr q.1 = g → (∀ r ∈ s.poly.staged, s.groupOfAddr r.1 = g → r = q ∨
             Fld.apart ⟨r.1, r.2.1, r.2.2.1⟩ ⟨q.1, q.2.1, q.2.2.1⟩) →
           t.get ⟨q.1, q.2.1, q.2.2.1⟩ = q.2.2.2 % 2 ^ (q.2.1 + 1 - q.2.2.1)) ∧
         s.sameElse t ((if al = true then [R.COM_CSTAT_LATE.bit g] else []) ++
           (s.poly.staged.filter fun q => s.groupOfAddr q.1 == g.val).map fun q => ⟨q.1, q.2.1, q.2.2.1⟩) ∧
         ((∀ q ∈ s.poly.staged, s.groupOfAddr q.1 ≠ g) → al = false → t = s) ∧ (al = false → t.log = s.log) ∧
         (al = true → t.flag (R.COM_CSTAT_LATE.bit g) = true ∧ (s.flag (R.COM_CSTAT_LATE.bit g) = true → t.log = s.log) ∧
           (s.flag (R.COM_CSTAT_LATE.bit g) = false → ∀ at_, at_ = (if (∀ q ∈ s.poly.staged, s.groupOfAddr q.1 = g → 0x40140000 ≤ q.1) then
             s.time.now else s.issueAt) → s.Logged t at_ 4 63 0x420 (2 ^ 6 + g * 2 ^ 8))))) ∧
  (∀ (s : State) (who : Who), s.commands who → s.Wf →
     (∀ v : Word, ∃ t, exec (.scanRequest who v) s = .next t ∧ s.onlyRegs t ∧ ∀ n : Fin 32,
       t.flag (R.SLOPE_SCANPEND.bit n) = ((v.toNat.testBit n && s.slState n != cSCAN) || s.flag (R.SLOPE_SCANPEND.bit n))) ∧
     (∀ n : Fin 32, s.flag (R.SLCH_STAT_FAULT n) = true →
       (s.slCond n (s.get (R.SLCH_STAT_FCAUSE n)) = false →
         ∃ t, exec (.stringFaultClear who n) s = .next t ∧ t.flag (R.SLCH_STAT_FAULT n) = false ∧ s.sameElse t [R.SLCH_STAT_FAULT n] ∧
           s.onlyRegs t) ∧
       (s.slCond n (s.get (R.SLCH_STAT_FCAUSE n)) = true →
         ∃ t, exec (.stringFaultClear who n) s = .next t ∧ t.flag (R.SLCH_STAT_FAULT n) = true ∧ t.flag (R.SLCH_STAT_CLR_REFUSED n) = true ∧
           t.get (F.lastCause (pageBase .slch n)) = 7 ∧ t.time = s.time ∧ s.sameMemory t)) ∧
     (s.testActive = true → s.islanded = false → ∃ t, exec (.islInj who) s = .next t ∧ t.islanded = true ∧
       t.get R.ISL_STAT_CAUSE = 7 ∧ t.time = s.time ∧ s.sameMemory t) ∧
     (s.testActive = false → ∃ t, exec (.islInj who) s = .next t ∧ s.Ignored t who .isl 0 0x040 7) ∧
     (∀ c : Fin 32, (s.get R.CE_SUP_FLT).testBit c = true →
       ∃ t, exec (.supLatchClear who (BitVec.ofNat 32 (2 ^ c.val))) s = .next t ∧ (t.get R.CE_SUP_FLT).testBit c = false ∧
         t.get (R.SUPCH_STAT_COUNT c) = 0 ∧ t.log = s.log ∧ t.time = s.time ∧ s.sameMemory t) ∧
     (∀ (v : Word) (x : Fin 16), v.toNat.testBit x = true →
       ∃ t, exec (.trigSw who v) s = .next t ∧ (x.val, s.time.now) ∈ t.time.lineDue ∧
         { t with time := { t.time with lineDue := s.time.lineDue } } = s) ∧
     (∀ k : Fin 2, s.flag (R.BRK_STAT_OPEN k) = true →
       ∃ t, exec (.brkFaultClear who k 4) s = .next t ∧ t.flag (R.BRK_STAT_OPEN k) = false ∧ s.sameElse t [R.BRK_STAT_OPEN k] ∧ s.onlyRegs t) ∧
     (∀ k : Fin 2, s.flag (R.BRK_STAT_STUCK k) = true → (s.brkSt k).present = false →
       ∃ t, exec (.brkFaultClear who k 8) s = .next t ∧ t.flag (R.BRK_STAT_STUCK k) = false ∧ s.sameElse t [R.BRK_STAT_STUCK k] ∧
         s.onlyRegs t) ∧
     ∀ a : Fin 3, ∃ t, exec (.arcHome who a) s = .next t ∧ t.flag (R.ARC_STAT_HOMEARM a) = true ∧
       s.sameElse t [R.ARC_STAT_HOMEARM a] ∧ s.onlyRegs t)

/-- R58, R440, R74: a tick boundary does what `TickBegun` says: the blocks' work of the tick is open again, the next boundary is the first
instant of the grid at least half a period ahead and exactly one period ahead on the grid, a pending step is applied or held, and the swaps
of the tick start (setpoints, coefficients, program bank, profile, TICK marks, DDOWN) are done. The boundary comes when the tick in
progress ends, when the TIME PLL locks (Gnomon then runs, LOCK shows it, and what waited to be logged has its time), and when the self-test
times out 100 ms after release, at the first boundary from then on: HALT unless it has passed, and if it has, STANDBY unless a cause of
HALT is due or PWRUP latches PSAFE. -/
def Obligations.TickBoundaries : Prop :=
  ∀ s : State, s.alive = true →
    (s.time.run = true → ∃ t, exec .tickStart s = .next t ∧ (s.advTo s.time.tickEnd).TickBegun t s.time.tickEnd) ∧
    (s.time.run = false →
      ∃ t, exec .timePllLock s = .next t ∧ t.time.run = true ∧ t.flag (R.CLK_PLL_LOCK.bit 1) = true ∧ t.log.early = [] ∧
        s.TickBegun t s.time.now) ∧
    (s.time.run = true → s.majorMode = mWAKE → s.sys.bootsel ≠ 3 →
      ∃ t u n, exec .selftestTimeout s = .next t ∧ u = s.advUp (s.sys.relUp + 400000000) ∧ n = (u.time.now + (s.tickQ - 1)) / s.tickQ * s.tickQ ∧
        (u.advTo n).TickBegun t n ∧ s.sys.relUp + 400000000 ≤ t.time.up ∧ t.get R.SYS_MODE_STAT_PREV = mWAKE ∧
        (s.selfTest ≠ some true → t.majorMode = mHALT) ∧
        (s.selfTest = some true → s.mode.dueHalt = [] → s.flag R.SAFE_CTL_PWRUP = false → t.majorMode = mSTANDBY) ∧
        (s.selfTest = some true → s.psafe = false → s.flag R.SAFE_CTL_PWRUP = true → t.majorMode = mHALT ∧ t.psafe = true))

/-- R59, R63, R64, R87: the phases of a tick, each once. Inputs freeze 3 µs (FINE 1.5 µs) after the start, and every enabled supervisor channel
that has a fresh prediction is judged on its residual, counts, and latches at PERSIST (R264, R265). Compute starts there: the program at the
entry of its bank, or a fault 8 or 9 (R256, R259), and Locus's pass, whose state, registers and slots show what the observer found (R178,
R195, R255) and whose vector is the table's (R186). The set is latched at Issue and is built in a switching mode once Vertex is ready; only
a built set is released, whole, once, before Guard, with its sequence and the time it took. Guard judges: complete work returns CONSEC to
0; an overrun counts, is shown and logged with the part that is missing, and where legs switch repeats the last set once and brings RIDE or
HALT (R64 to R66). R81, R257: AUTO_START leads to a request at the end of the enter-service delay of 300 s; a program that has not ended by
the last clock of Compute is abandoned: UNFIN and its interrupt are set, BUSY and DONE are not. -/
def Obligations.TickPhases : Prop :=
  (∀ s : State, s.alive = true → s.time.run = true →
     (s.ce.frozen = true → exec .inputFreeze s = .next s) ∧
     (s.ce.frozen = false →
       ∃ t, exec .inputFreeze s = .next t ∧ t.ce.frozen = true ∧
         t.time.now = (s.advTo (s.time.tickStart + (if s.fine then 6000 else 12000))).time.now ∧ s.sameMemory t ∧
         (s.flag R.CE_SUP_CTL_EN = true → ∀ c : Fin 32, s.flag (R.SUPCH_CFG_EN c) = true →
           (s.supJudged c = false → t.flag (R.SUPCH_STAT_SKIP c) = true ∧ t.get (R.SUPCH_STAT_COUNT c) = s.get (R.SUPCH_STAT_COUNT c) ∧
             t.flag (R.CE_SUP_FLT.bit c) = s.flag (R.CE_SUP_FLT.bit c)) ∧
           (s.supJudged c = true → ∀ over_ n, over_ = Dy.lt ⟨s.get (R.SUPCH_BAND c), -16⟩ (t.supResid c) →
             n = (if over_ = true then min (s.get (R.SUPCH_STAT_COUNT c) + 1) 255 else 0) →
             t.flag (R.SUPCH_STAT_SKIP c) = false ∧ t.flag (R.SUPCH_STAT_OVER c) = over_ ∧ t.get (R.SUPCH_STAT_COUNT c) = n ∧
               t.get (R.SUPCH_RESID c) = min (((t.supResid c).scale 16).floor).toNat (2 ^ 32 - 1) ∧
               t.flag (R.CE_SUP_FLT.bit c) =
                 (s.flag (R.CE_SUP_FLT.bit c) || (over_ && decide (s.get (R.SUPCH_CFG_PERSIST c) ≤ n)))))) ∧
     (s.ce.frozen = false ∨ s.ce.computing = true → exec .computeStart s = .next s) ∧
     (s.ce.frozen = true → s.ce.computing = false →
       ∃ t o, exec .computeStart s = .next t ∧ t.ce.computing = true ∧
         t.time.now = (s.advTo (s.time.tickStart + (if s.fine then 6000 else 12000))).time.now ∧ s.sameMemory t ∧
         o = s.observe s.locIn ∧
         (s.flag R.CE_CTL_RUN = true → s.ce.faulted = false → s.ce.err2 = [] → t.ce.pc = s.vEntry ∧ t.ce.clk = 0 ∧ t.ce.loops = [] ∧
           t.ce.t0 = s.time.tickStart + (if s.fine then 6000 else 12000) ∧
           (s.supHolds = false → s.ce.injFault = false → t.ce.running = true ∧ t.flag R.CE_STAT_BUSY = true) ∧
           (s.supHolds = true → t.ce.running = false ∧ t.ce.faulted = true ∧ t.get R.CE_STAT_FCODE = 8) ∧
           (s.supHolds = false → s.ce.injFault = true →
             t.ce.running = false ∧ t.ce.faulted = true ∧ t.get R.CE_STAT_FCODE = 9 ∧ t.ce.injFault = false)) ∧
         (s.runsLocus = true → s.flag R.LOCUS_CTL_EN = true →
           t.get R.LOCUS_TICK_TICK = s.tickNo % 2 ^ 24 ∧ t.get R.LOCUS_THETA = fmtAngle t.loc.theta % 2 ^ 32 ∧
           t.get R.LOCUS_FREQ = fmtU 32 16 t.loc.freq ∧ t.getI R.LOCUS_P = fmtS 32 24 t.loc.p ∧ t.getI R.LOCUS_Q = fmtS 32 24 t.loc.q ∧
           t.ceWord 0x170 = packFmt 32 (fmtAngle t.loc.theta) ∧ t.ceWord 0x173 = packFmt 16 (fmtU 32 16 t.loc.freq) ∧
           t.ceWord 0x185 = packFmt 24 (fmtS 32 24 t.loc.p) ∧ t.ceWord 0x186 = packFmt 24 (fmtS 32 24 t.loc.q) ∧
           (s.inLock = true → (o.jumped || o.lowV || o.atClamp) = false →
             t.locState = lLOCK ∧ t.loc.freq = o.loc.f ∧ t.loc.theta = o.loc.live) ∧
           (s.inLock = true → (o.jumped || o.lowV || o.atClamp) = true →
             t.locState = lHOLD ∧ t.loc.freq = s.loc.freq ∧ t.get R.LOCUS_HOLDF = fmtU 32 16 s.loc.freq) ∧
           (s.locState = lSEEK ∨ s.locState = lHOLD → t.locState = (if o.lockTrack.lockHeld = true then lLOCK else s.locState)) ∧
           (s.majorMode = mFOLLOW ∨ s.majorMode = mFORM ∨ s.majorMode = mRIDE →
             t.get R.LOCUS_STAT_SECTOR = (12 * t.loc.gamma).floor.toNat % 12 ∧
             t.get R.LOCUS_STAT_VEC = tableVec (t.get R.LOCUS_STAT_SECTOR) (t.flag R.LOCUS_STAT_SP) (t.flag R.LOCUS_STAT_SQ) s.loc.prevVec)) ∧
         (s.flag R.LOCUS_CTL_EN = false → t.locState = lOFF)) ∧
     (s.poly.latched = true → exec .issueLatch s = .next s) ∧
     (s.poly.latched = false →
       ∃ t, exec .issueLatch s = .next t ∧ t.poly.latched = true ∧ t.ce.running = false ∧
         t.time.now = (s.advTo (s.time.tickStart + (if s.fine then 15000 else 30000))).time.now ∧ t.mram = s.mram ∧
         (s.switching = true → s.vComplete = true → s.poly.excused = false → s.ce.err2 = [] → t.poly.built = true) ∧
         (s.switching = false ∨ s.vComplete = false → t.poly.built = s.poly.built ∧ t.poly.set = [])) ∧
     (s.poly.built = false ∨ s.poly.released = true ∨ s.poly.guarded = true ∨ s.poly.excused = true → exec .edgeSetRelease s = .next s) ∧
     (s.poly.built = true → s.poly.released = false → s.poly.guarded = false → s.poly.excused = false →
       ∃ t, exec .edgeSetRelease s = .next t ∧ t.poly.released = true ∧ t.get R.COM_SET_SEQ = s.nextSeq ∧
         t.get R.COM_SET_BUILD = min ((s.time.now - (s.time.tickStart + (if s.fine then 15000 else 30000))) / 5) 65535 ∧
         t.time = s.time ∧ s.sameMemory t ∧
         s.sameElse t ([R.COM_SET_SEQ, R.COM_SET_BUILD] ++
           (List.range 64).flatMap fun n => [R.LEG_STAT_RUN n, R.LEG_STAT_TABLE n, R.LEG_STAT_FORCED n]) ∧
         (∀ n : Fin 64, t.flag (R.LEG_STAT_RUN n) = (t.leg n).src.runs ∧ t.flag (R.LEG_STAT_TABLE n) = decide ((t.leg n).src = .table) ∧
           t.flag (R.LEG_STAT_FORCED n) = ((t.leg n).src.forced.getD 0 != 0) ∧ (t.leg n).force = (t.leg n).src.forced.getD 0) ∧
         ((∀ q ∈ s.poly.set, q.2.resume = true → s.legPushed q.1 = true) →
           t.poly.set = s.poly.set ∧
           (∀ p : Fin 8, s.linkUp p = true → ∀ b ∈ s.portBlocks p, b ∈ (t.port p).wait ∨ ∃ k, (k, b.word) ∈ (t.port p).tx) ∧
           ((∀ n : Fin 64, (s.leg n).force = (s.leg n).src.forced.getD 0) → t.log = s.log))) ∧
     (s.poly.guarded = true → exec .guardStart s = .next s) ∧
     (s.poly.guarded = false →
       ∃ t, exec .guardStart s = .next t ∧ t.poly.guarded = true ∧
         t.time.now = (s.advTo (s.time.tickStart + (if s.fine then 18000 else 36000))).time.now ∧ t.mram = s.mram ∧
         (s.ce.running = false → s.unmet = none → t.get R.SYS_TICK_OVR_CONSEC = 0 ∧ t.log = s.log ∧ s.sameElse t [R.SYS_TICK_OVR_CONSEC]) ∧
         (∀ part c, s.ce.running = false → s.unmet = some part → c = min (s.get R.SYS_TICK_OVR_CONSEC + 1) 255 →
           t.get R.SYS_TICK_OVR_CONSEC = c ∧ t.flag R.SYS_TICK_OVR_OVR = true ∧ t.flag ((F.irqStat (pageBase .mode 0)).bit 2) = true ∧
           (s.switching = false →
             s.Logged t (s.time.tickStart + (if s.fine then 18000 else 36000)) 16 63 0x412 (c + 2 ^ part + s.tickNo % 2 ^ 24 * 2 ^ 16)) ∧
           { t := clockOf (s.time.tickStart + (if s.fine then 18000 else 36000)), src := 16, inst := 63, code := 0x412,
             data := c + 2 ^ part + s.tickNo % 2 ^ 24 * 2 ^ 16 } ∈ t.log.inflight ∧
           (s.switching = true → t.poly.released = true ∧ t.get R.COM_SET_SEQ = s.nextSeq ∧
             t.mode = { s.mode with
               dueRide := if (s.majorMode = mFOLLOW ∨ s.majorMode = mFORM) ∧ 2 ≤ c then 4 :: s.mode.dueRide else s.mode.dueRide
               dueHalt := if (s.majorMode = mISLAND ∧ 2 ≤ c) ∨ (s.majorMode = mRIDE ∧ s.get R.SYS_MODE_CFG_OVR_HALT ≤ c) then
                 12 :: s.mode.dueHalt else s.mode.dueHalt } ∧
             (s.poly.built = false → c < 2 → ∀ n : Fin 64,
               ((s.leg n).src = .own → (s.leg n).next < s.w1 → (s.leg n).last.resume = false → (n.val, (s.leg n).last) ∈ t.poly.set) ∧
               ((s.leg n).src = .off → ∀ x, (n.val, x) ∉ t.poly.set)))))) ∧
  (∀ s : State, s.alive = true →
     (∀ u, s.mode.autoUp = some u →
       ∃ t, exec .autoStart s = .next t ∧ t.mode = { s.mode with autoUp := none, autoReq := true } ∧
         t.time = (s.advUp (u + 1200000000000)).time ∧ t.regs = s.regs ∧ t.log = s.log ∧ s.sameMemory t) ∧
     (s.ce.running = true →
       ∃ t, exec .programAbandon s = .next t ∧ t.ce.running = false ∧ t.flag R.CE_STAT_UNFIN = true ∧ t.flag R.CE_STAT_BUSY = false ∧
         t.flag R.CE_STAT_DONE = false ∧ t.flag ((F.irqStat (pageBase .ce 0)).bit 1) = true ∧
         t.time = (s.advTo (s.ce.t0 + (if s.fine then 9000 else 18000))).time ∧ t.ce = { s.ce with running := false } ∧
         s.sameElse t [R.CE_STAT_UNFIN, R.CE_STAT_BUSY, R.CE_STAT_DONE, (F.irqStat (pageBase .ce 0)).bit 1] ∧ t.log = s.log ∧
         s.sameMemory t))

/-- R106, R107: a running auxiliary timer starts its next period one period on and pulses the lines that watch it; where its partner's
command has started the period in the same clock it finds it begun. AUXOFF of a paired timer whose gate is off, or is off after its next
planned turn-off (`auxReachOff`), is confirmed, and the partner's turn-on that waited for it proceeds DEAD after the turn-off; without it
both gates of the pair go off, both timers show CONF and a drive that owns them faults with cause 2. Where nothing is awaited neither acts.
A timeout acts in the TIME clock after its time has passed (R9, log entry 2). -/
def Obligations.AuxiliaryTimers : Prop :=
  ∀ (s : State) (m : Fin 20), s.alive = true →
    ((s.aux m).run = true → ¬ ((s.aux m).common = true ∧ (s.aux m).start = s.clk) →
      ∃ t, exec (.auxPeriodStart m) s = .next t ∧ (t.aux m).run = true ∧ (t.aux m).start = (s.aux m).start + (s.aux m).per ∧
        t.time.up = (s.advOsc (((s.aux m).start + (s.aux m).per) * 5)).time.up ∧ s.sameMemory t ∧
        ∀ x : Fin 16, t.get (R.TRIG_LINE_SRC x) = 9 → t.get (R.TRIG_LINE_INDEX x) = m → (x.val, t.time.now) ∈ t.time.lineDue) ∧
    ((s.aux m).common = true → (s.aux m).start = s.clk →
      exec (.auxPeriodStart m) s = .next (s.setAux m { s.aux m with common := false })) ∧
    ∀ u : State, u = s.auxReachOff m →
      (auxPaired m = true → (u.aux m).gate = false →
        ((u.aux (auxPartner m)).pendingOn = false → exec (.auxoffConfirm m) s = .next (u.put (R.AUXT_STAT_AUXOFF m) 1)) ∧
        (∀ v, (u.aux (auxPartner m)).pendingOn = true → (u.aux m).offAt = some v → u.auxConf (auxPartner m) = false →
          ∃ t, exec (.auxoffConfirm m) s = .next t ∧ t.flag (R.AUXT_STAT_AUXOFF m) = true ∧ (t.aux (auxPartner m)).gate = true ∧
            t.time = (u.advOsc ((v + u.get (R.AUXT_DEAD_DEAD (auxPartner m))) * 5)).time ∧ t.log = u.log ∧ s.sameMemory t)) ∧
      (auxPaired m = false ∨ (u.aux m).gate = true → exec (.auxoffConfirm m) s = .next u) ∧
      (u.auxWaits m = false → exec (.confTimeout m) s = .next u) ∧
      (u.auxWaits m = true →
        ∃ t, exec (.confTimeout m) s = .next t ∧ t.flag (R.AUXT_STAT_CONF m) = true ∧ t.flag (R.AUXT_STAT_CONF (auxPartner m)) = true ∧
          (t.aux m).gate = false ∧ (t.aux (auxPartner m)).gate = false ∧
          t.time = (u.advOsc (((u.aux m).offAt.getD 0 + u.get (R.AUXT_DEAD_CONF_TO m)) * 5)).idle.time ∧ s.sameMemory t ∧
          (u.drvState (m / 6) = dOFF ∨ u.drvState (m / 6) = dSHORT ∨ u.drvState (m / 6) = dFAULT →
            t.drvState (m / 6) = u.drvState (m / 6)) ∧
          (u.drvState (m / 6) ≠ dOFF → u.drvState (m / 6) ≠ dSHORT → u.drvState (m / 6) ≠ dFAULT →
            t.drvState (m / 6) = dFAULT ∧ t.get (R.MD_STAT_FCAUSE (m / 6)) = 2))

/-- R343 to R345, R280, R439, R441, R444: a generator pulses at the first TIME clock whose remainder by PER is PHASE and which lies at least half
a period after its last pulse or the last step. The next pulse of a line is taken, once: it starts the decision of every enabled drive that
waits for that line, makes every background slot that waits for it due or counts as an overrun of one that is, and is captured, in the TIME
clock of the pulse, by every enabled unit that selects the line and holds no capture, and as an overrun by one that does. An edge of
SYNC_IN is kept and captured; rising with ARM, it re-phases the clock outputs with RESYNC: the next rising edge of one is the first on the
new grid that lengthens the period in progress. Once a millisecond the grid loop takes its offset out, unless REF has failed. -/
def Obligations.TriggersAndSync : Prop :=
  ∀ s : State, s.alive = true → s.time.run = true →
    (∀ g : Fin 4, s.flag (R.GEN_CTL_EN g) = true → s.get (R.GEN_PHASE g) < s.get (R.GEN_PER g) →
      ∃ t n, exec (.generatorPulse g) s = .next t ∧ t.time.now = n * 5 ∧ (s.time.now + 4) / 5 ≤ n ∧
        (∀ k, Tab.get (fun _ => 0) s.time.genFrom g = k + 1 → k + (s.get (R.GEN_PER g) + 1) / 2 ≤ n) ∧
        n % s.get (R.GEN_PER g) = s.get (R.GEN_PHASE g) ∧
        (∀ j : Nat, (s.time.now + 4) / 5 ≤ j →
          (∀ k, Tab.get (fun _ => 0) s.time.genFrom g = k + 1 → k + (s.get (R.GEN_PER g) + 1) / 2 ≤ j) → j < n →
          j % s.get (R.GEN_PER g) ≠ s.get (R.GEN_PHASE g)) ∧
        Tab.get (fun _ => 0) t.time.genFrom g = n + 1 ∧
        (∀ x : Fin 16, s.get (R.TRIG_LINE_SRC x) = 6 → s.get (R.TRIG_LINE_INDEX x) = g → (x.val, t.time.now) ∈ t.time.lineDue) ∧
        t.regs = s.regs ∧ t.log = s.log ∧ s.sameMemory t) ∧
    (∀ x : Fin 16, s.lineNext x = none → exec (.triggerPulse x) s = .next s) ∧
    (∀ (x : Fin 16) (t0 : Nat), s.lineNext x = some t0 →
      ∃ t, exec (.triggerPulse x) s = .next t ∧ (x.val, t0) ∉ t.time.lineDue ∧ Tab.get (fun _ => 0) t.time.lineLast x = t0 + 1 ∧
        t.time.now = (s.advTo t0).time.now ∧ s.sameMemory t ∧
        (∀ d : Fin 3, t.flag (R.MD_CFG_EN d) = true → t.get (R.MD_CFG_TRIG d) = x.val → (s.drvSt d).pulseUp = none →
          (t.drvSt d).pulseUp = some t.time.up) ∧
        (∀ k : Fin 64, slotBit (s.slotEntry (128 + k.val)) 31 = true → slotBit (s.slotEntry (128 + k.val)) 28 = true →
          slotField (s.slotEntry (128 + k.val)) 27 24 = x.val →
          128 + k.val ∈ t.adc.trig ∧ (128 + k.val ∈ s.adc.trig → t.flag ((R.ADC_OVR ((128 + k.val) / 32)).bit ((128 + k.val) % 32)) = true)) ∧
        ∀ u : Fin 4, s.flag (R.CAP_CFG_EN u) = true → s.get (R.CAP_CFG_SEL u) = x.val →
          t.flag (R.CAP_STAT_VALID u) = true ∧
          (s.flag (R.CAP_STAT_VALID u) = false → t.get (R.CAP_SUB u) = clockOf t0 % 4000000000 ∧
            t.get (R.CAP_SEC u) = clockOf t0 / 4000000000 % 2 ^ 32 ∧ t.get (R.CAP_STAT_FINE u) = 0 ∧
            t.flag ((F.irqStat (pageBase .trig 0)).bit u) = true) ∧
          (s.flag (R.CAP_STAT_VALID u) = true → t.flag (R.CAP_STAT_OVR u) = true ∧ t.get (R.CAP_SUB u) = s.get (R.CAP_SUB u) ∧
            t.get (R.CAP_SEC u) = s.get (R.CAP_SEC u))) ∧
    (∀ (rising : Bool) (fine : Fin 16), ∃ t, exec (.syncInEdge rising fine) s = .next t ∧ t.time.sync = rising ∧ t.time.now = s.time.now ∧
      t.mram = s.mram ∧
      (∀ u : Fin 4, s.flag (R.CAP_CFG_EN u) = true → s.get (R.CAP_CFG_SEL u) = (if rising = true then 16 else 17) →
        s.flag (R.CAP_STAT_VALID u) = false → t.flag (R.CAP_STAT_VALID u) = true ∧ t.get (R.CAP_STAT_FINE u) = fine ∧
          t.get (R.CAP_SUB u) = s.time.now / 5 * 5 % 4000000000 ∧ t.get (R.CAP_SEC u) = s.time.now / 5 * 5 / 4000000000 % 2 ^ 32) ∧
      (rising = true → s.flag R.CLK_SYNC_ARM = true → t.flag R.CLK_SYNC_ARM = false ∧ t.flag R.CLK_SYNC_DONE = true ∧
        ∀ (n : Fin 4) (e grid : Rat), s.flag (R.CLKOUT_CTL_RESYNC n) = true →
          e = ((s.time.up / 5 * 5 : Nat) : Rat) / 4 + (fine.val : Rat) * 5 / 64 →
          grid = e + 10 + s.get (R.CLKOUT_DIV_DELAY n) * srcPeriod (s.get (R.CLKOUT_DIV_SRC n)) →
          Tab.get noEdge t.sys.outEdge n =
            some (edgeAfter grid (s.outPeriod n) (edgeBefore (s.outRef n) (s.outPeriod n) e + s.outPeriod n)))) ∧
    (s.flag (R.CLK_PLL_LOCK.bit 3) = true → s.sys.monCond.testBit 0 = false →
      ∃ t, exec .gridLoopTrim s = .next t ∧ t.time.gridOff = 0 ∧ t.time.now = (s.advTo ((s.time.now / 4000000 + 1) * 4000000)).time.now ∧
        t.regs = s.regs ∧ t.log = s.log ∧ s.sameMemory t) ∧
    (s.flag (R.CLK_PLL_LOCK.bit 3) = false ∨ s.sys.monCond.testBit 0 = true → exec .gridLoopTrim s = .next s)

/-- R135 to R138: training. The end of CLOCK enters EQ with the receivers' correction and the first request on each lane; DONE on both lanes
and at both ends enters LAT; 64 echoes whose spread is at most 4 units and whose latency is at most 6400 units give RTT, DDOWN and DTRAIN and
enter READY; a wider spread tries again up to three rounds and then fails with code 5, a longer latency with code 4; the exchange of READY
enters UP, or TEST for a test ahead, and one with another NEXT fails with code 6. A failure enters DOWN with the cause, its timeout in the
clock after it has passed (R9; which code a round of LAT without echoes gives: log entry 216), one more failure counted and logged, and the
backoff. -/
def Obligations.LinkTraining : Prop :=
  ∀ (s : State) (p : Fin 8), s.alive = true →
    (∀ wiring : BitVec 3, s.linkState p = stCLOCK →
      ∃ t, exec (.clockPhaseDone p wiring) s = .next t ∧ t.linkState p = stEQ ∧ t.linkUp p = false ∧ (t.port p).fix = wiring.toNat ∧
        (∀ l : Fin 2, (t.lane p l).reqs = 1 ∧ (t.lane p l).rseq = true) ∧ (t.port p).enterUp = s.time.up ∧
        s.sameElse t [R.LINK_STAT_STATE p, R.LINK_STAT_UP p] ∧ t.log = s.log ∧ t.time = s.time ∧ s.sameMemory t) ∧
    (s.linkState p = stEQ → (∀ l : Fin 2, (s.lane p l).done = true ∧ (s.lane p l).farDone = true) →
      ∃ t, exec (.eqPhaseDone p) s = .next t ∧ t.linkState p = stLAT ∧ (t.port p).enterUp = s.time.up ∧
        s.sameElse t [R.LINK_STAT_STATE p, R.LINK_STAT_UP p] ∧ t.log = s.log ∧ t.time = s.time ∧ s.sameMemory t) ∧
    (∀ (es : List (Nat × Dword)) (trips : List Int), s.linkState p = stLAT → latRound es = true → trips = es.map latTrip →
      (trips.foldl max (trips.headD 0) - trips.foldl min (trips.headD 0) ≤ 4 → 0 ≤ s.ddownOf p (rttMean trips) →
        s.ddownOf p (rttMean trips) ≤ 6400 →
        ∃ t, exec (.latPhaseDone p es) s = .next t ∧ t.linkState p = stREADY ∧ (t.port p).rtts = trips ∧
          t.get (R.LINK_LAT_DDOWN p) = (s.ddownOf p (rttMean trips)).toNat ∧ t.get (R.LINK_LATTRN_DTRAIN p) = t.get (R.LINK_LAT_DDOWN p) ∧
          t.get (R.LINK_LAT_RTT p) = (rttMean trips % 65536).toNat ∧
          s.sameElse t [R.LINK_STAT_STATE p, R.LINK_STAT_UP p, R.LINK_LAT_DDOWN p, R.LINK_LAT_RTT p, R.LINK_LATTRN_DTRAIN p] ∧
          t.log = s.log ∧ t.time = s.time ∧ s.sameMemory t) ∧
      (trips.foldl max (trips.headD 0) - trips.foldl min (trips.headD 0) ≤ 4 → 6400 < s.ddownOf p (rttMean trips) →
        ∃ t, exec (.latPhaseDone p es) s = .next t ∧ t.linkState p = stDOWN ∧ t.get (R.LINK_STAT_LASTFAIL p) = 4 ∧ t.time = s.time ∧
          s.sameMemory t) ∧
      (4 < trips.foldl max (trips.headD 0) - trips.foldl min (trips.headD 0) →
        ((s.port p).round < 3 →
          ∃ t, exec (.latPhaseDone p es) s = .next t ∧ t.linkState p = stLAT ∧ (t.port p).round = (s.port p).round + 1 ∧
            (t.port p).enterUp = s.time.up ∧ t.regs = s.regs ∧ t.log = s.log ∧ t.time = s.time ∧ s.sameMemory t) ∧
        (3 ≤ (s.port p).round →
          ∃ t, exec (.latPhaseDone p es) s = .next t ∧ t.linkState p = stDOWN ∧ t.get (R.LINK_STAT_LASTFAIL p) = 5 ∧ t.time = s.time ∧
            s.sameMemory t))) ∧
    (∀ (desat : BitVec 8) (ready : Dword), s.linkState p = stREADY → s.readyNext p = 0 → isReady 0 ready = true →
      ∃ t, exec (.linkUp p desat ready) s = .next t ∧ t.linkState p = stUP ∧ t.linkUp p = true ∧ t.get (R.LINK_STAT_FAILCNT p) = 0 ∧
        t.get (R.LINK_TAGQ p) = 0 ∧ (t.port p).desat = desat.toNat ∧ (t.port p).lastRx = s.time.up ∧
        s.Logged t s.time.now 19 p 0x030 (p.val + s.get (R.LINK_LAT_DDOWN p) * 8 + s.get (R.LINK_STAT_FAILCNT p) * 2 ^ 19) ∧
        t.flag ((F.irqStat (pageBase .link p)).bit 0) = true ∧ t.time = s.time ∧ s.sameMemory t) ∧
    (∀ ready : Dword, s.linkState p = stREADY → s.readyNext p ≠ 0 → isReady (s.readyNext p) ready = true →
      ∃ t, exec (.linkTestEntry p ready) s = .next t ∧ t.linkState p = stTEST ∧ t.linkUp p = false ∧ t.time = s.time ∧ s.sameMemory t ∧
        (t.port p).tx = [] ∧ (t.port p).wait = [] ∧ ((s.port p).push = [] → t.log = s.log)) ∧
    (∀ (desat : BitVec 8) (ready : Dword), s.linkState p = stREADY → rxValid true ready = true → bitsOf ready 54 52 = 3 →
      bitsOf ready 42 41 ≠ s.readyNext p →
      ∀ i ∈ [Instr.linkUp p desat ready, .linkTestEntry p ready], ∃ t, exec i s = .next t ∧ t.linkState p = stDOWN ∧
        t.get (R.LINK_STAT_LASTFAIL p) = 6 ∧ t.time = s.time ∧ s.sameMemory t) ∧
    (∀ (c : Fin 8) (u : State), failAllowed (s.linkState p) c = true →
      u = (if c = 2 ∨ c = 7 then s
        else s.advUp ((s.port p).enterUp + (if c = 3 then 8000000 else if c = 6 then 200000 else 800000))) →
      ∃ t, exec (.trainFail p c) s = .next t ∧ t.linkState p = stDOWN ∧ t.get (R.LINK_STAT_LASTFAIL p) = c ∧
        t.get (R.LINK_STAT_FAILCNT p) = min (s.get (R.LINK_STAT_FAILCNT p) + 1) 15 ∧ t.flag ((F.irqStat (pageBase .link p)).bit 2) = true ∧
        (t.port p).downUp = u.time.up + 4000000 * min (2 ^ (min (s.get (R.LINK_STAT_FAILCNT p) + 1) 15 - 1)) 128 ∧
        t.time = (if c = 2 ∨ c = 7 then s.time else u.idle.time) ∧ s.sameMemory t ∧
        ((s.port p).push = [] → s.Logged t u.time.now 19 p 0x832
          (p.val + c.val * 8 + min (s.get (R.LINK_STAT_FAILCNT p) + 1) 15 * 128)))

/-- R135, R137, R138, R140: the end of DOWN enters CLOCK when the port trains by itself, was told to, or has a test ahead, else OFF; a
loss of link takes an UP port to DOWN for 4 µs, sets LOSS and counts it, frees every tag and latches cause 6 on every leg (silence lasts
1.0 µs); a changed tap request is stepped within the ranges of R137 and answered; an acknowledged step is judged 20 µs later. Without the
LINK PLL DOWN does not end (R441). A timeout acts in the TIME clock after its time has passed (R9, log entry 2). -/
def Obligations.LinkEvents : Prop :=
  ∀ (s : State) (p : Fin 8), s.alive = true →
    (s.linkState p = stDOWN → s.flag (R.CLK_PLL_LOCK.bit 2) = true →
      ∃ t, exec (.backoffEnd p) s = .next t ∧ t.time = (s.advUp (s.port p).downUp).time ∧ t.log = s.log ∧ s.sameMemory t ∧
        t.linkState p = (if s.flag (R.LINK_CTL_AUTORT p) = true ∨ (s.port p).retrain = true ∨ (s.port p).testEnd = true ∨
          3 ≤ s.get (R.LINK_CTL_LOOP p) then stCLOCK else stOFF)) ∧
    (s.linkState p ≠ stDOWN ∨ s.flag (R.CLK_PLL_LOCK.bit 2) = false → exec (.backoffEnd p) s = .next s) ∧
    (∀ (why : BitVec 4) (u : State), why ≠ 0 → s.linkUp p = true →
      u = (if why.getLsbD 0 then s.advUp ((s.port p).lastRx + 4000) else s) →
      ∃ t, exec (.linkLoss p why) s = .next t ∧ t.linkState p = stDOWN ∧ t.linkUp p = false ∧ t.flag (R.LINK_STAT_LOSS p) = true ∧
        t.get (R.LINK_STAT_LOSSES p) = min (s.get (R.LINK_STAT_LOSSES p) + 1) 255 ∧ t.flag ((F.irqStat (pageBase .link p)).bit 1) = true ∧
        (∀ k : Fin 32, t.tagBusy p k = false) ∧ (∀ m : Fin 8, t.flag ((R.PROT_LATCH p m).bit 5) = true) ∧
        t.time = u.idle.time ∧ (t.port p).downUp = u.time.up + 16000 ∧ t.mram = s.mram) ∧
    (∀ (b : Dword) (l : Fin 2), s.linkState p = stEQ → isEq b = true → bitsOf b 51 51 = l.val → bitOf b 41 ≠ (s.lane p l).seen →
      ∃ t, exec (.tapRequest p b) s = .next t ∧ t.linkState p = stEQ ∧ (t.lane p l).seen = bitOf b 41 ∧
        ∃ pre main post a, tapRequest (s.get (if l.val = 0 then R.LINK_TAPS_LANE0 p else R.LINK_TAPS_LANE1 p) % 16)
            (s.get (if l.val = 0 then R.LINK_TAPS_LANE0 p else R.LINK_TAPS_LANE1 p) / 16 % 64)
            (s.get (if l.val = 0 then R.LINK_TAPS_LANE0 p else R.LINK_TAPS_LANE1 p) / 1024 % 32)
            (bitsOf b 40 39) (bitsOf b 38 37) (bitsOf b 36 35) = ((pre, main, post), a) ∧ (t.lane p l).ans = a ∧
          t.get (if l.val = 0 then R.LINK_TAPS_LANE0 p else R.LINK_TAPS_LANE1 p) % 32768 = pre + main * 16 + post * 1024 ∧
          s.sameElse t [if l.val = 0 then R.LINK_TAPS_LANE0 p else R.LINK_TAPS_LANE1 p] ∧ t.log = s.log ∧ t.time = s.time ∧ s.sameMemory t) ∧
    (∀ (l : Fin 2) (b : Dword) (eye : Nat), s.linkState p = stEQ → isEq b = true → bitsOf b 51 51 = l.val →
      bitOf b 34 = (s.lane p l).rseq → (s.lane p l).done = false →
      ∃ t, exec (.tapAck p l b eye) s = .next t ∧ t.linkState p = stEQ ∧ t.time = (s.advUp (s.time.up + 80000)).time ∧ t.regs = s.regs ∧ t.log = s.log ∧
        s.sameMemory t ∧ ((t.lane p l).done = true ∨ (t.lane p l).reqs = (s.lane p l).reqs + 1))

/-- R115, R121, R123, R129, R130, R140: blocks of a port that is UP. A probe waits, 1024 slots or a multiple of that after the last, for a
slot that nothing else takes, and is outstanding from its departure on; its echo updates RTT;
any other IDLE restarts the silence count alone; a pair of halves of one leg is a sample of the instant that its SEQ and TIME give, and each
half that has no partner counts; a STATUS updates the leg's flags, sequence and time, and latches a flag of cause 1 to 4 that rises and a REJECT
of cause 5; an invalid block counts on its lane, and as INVALID for its type or header, the first with an event. -/
def Obligations.LinkBlocks : Prop :=
  ∀ (s : State) (p : Fin 8), s.alive = true → s.linkUp p = true →
    (∃ t u n, exec (.latencyProbe p) s = .next t ∧ u = s.advUp (n * 528 / 10 - 5) ∧ (s.port p).probeSlot < n ∧
      n % 1024 = (s.port p).probeSlot % 1024 ∧ (t.port p).probeSlot = n ∧ (t.port p).pid = ((s.port p).pid + 1) % 256 ∧
      (t.port p).wait = insertTx ⟨prIDLE, 0, 8, probeBlock (s.port p).pid⟩ ((u.txRun p).port p).wait ∧
      t.regs = s.regs ∧ t.log = s.log ∧ t.time = u.time ∧ s.sameMemory t) ∧
    (∀ b : TxBlk, b.lane = 0 → blockType b.word = tIDLE → (s.port p).wait = [b] → (s.port p).place % 2 = 0 →
      (s.port p).place < 2 * s.slotsBegun →
      (bitsOf b.word 52 45, slotUp ((s.port p).place / 2)) ∈ ((s.txRun p).port p).probes) ∧
    (∀ (elapsed : Nat) (b : Dword) (q : Nat × Nat), rxValid false b = true → blockType b = tIDLE → bitOf b 54 = true → bitOf b 53 = true →
      (s.drained p).probes.find? (fun r => r.1 == bitsOf b 52 45) = some q →
      ∃ t, exec (.probeEcho p elapsed b) s = .next t ∧ (∀ r ∈ (t.port p).probes, r.1 ≠ bitsOf b 52 45) ∧
        t.time = (s.advUp (q.2 + unitsToQ elapsed)).time ∧ (t.port p).lastRx = t.time.up ∧
        (t.port p).rtts = ((s.port p).rtts ++ [(elapsed : Int) - bitsOf b 44 21]).drop ((s.port p).rtts.length - 63) ∧
        t.get (R.LINK_LAT_RTT p) = (rttMean (t.port p).rtts % 65536).toNat ∧ s.sameMemory t) ∧
    (∀ (elapsed : Nat) (b : Dword), rxValid false b = true → blockType b = tIDLE →
      (bitOf b 54 = false ∨ bitOf b 53 = false ∨ ∀ r ∈ (s.drained p).probes, r.1 ≠ bitsOf b 52 45) →
      ∃ t, exec (.probeEcho p elapsed b) s = .next t ∧ (t.port p).lastRx = s.time.up ∧ (t.port p).probes = (s.port p).probes ∧
        t.regs = s.regs ∧ t.log = s.log ∧ t.time = s.time ∧ s.sameMemory t) ∧
    (∀ head tail : Dword, isHalf 0 head = true → isHalf 1 tail = true → blockLeg head = blockLeg tail →
      ∃ t, exec (.sample p head tail) s = .next t ∧ t.flag (R.LEG_STAT_HELD (8 * p + blockLeg head)) = false ∧
        (t.leg (8 * p + blockLeg head)).skips = 0 ∧ (t.port p).lastRx = s.time.up ∧
        (t.leg (8 * p + blockLeg head)).x1 =
          [signed 16 (bitsOf head 53 38), signed 16 (bitsOf head 37 22), signed 16 (bitsOf tail 53 38)] ∧
        (t.leg (8 * p + blockLeg head)).sampleAt = s.seqInstant (bitsOf head 21 14) (bitsOf tail 37 14) ∧
        s.sameElse t [R.LEG_STAT_HELD (8 * p + blockLeg head)] ∧ t.log = s.log ∧ t.time = s.time ∧ s.sameMemory t) ∧
    (∀ head tail : Dword, ¬ (isHalf 0 head = true ∧ isHalf 1 tail = true ∧ blockLeg head = blockLeg tail) →
      ∃ t, exec (.sample p head tail) s = .next t ∧
        t.get (R.LINK_ERR_SAMPLE_ERR p) = min (s.get (R.LINK_ERR_SAMPLE_ERR p) +
          ((rxValid false head && blockType head == tSAMPLE).toNat + (rxValid false tail && blockType tail == tSAMPLE).toNat)) 255 ∧
        s.sameElse t [R.LINK_ERR_SAMPLE_ERR p] ∧ t.log = s.log ∧ t.time = s.time ∧ s.sameMemory t) ∧
    (∀ b : Dword, rxValid false b = true → blockType b = tSTATUS →
      ∃ t, exec (.status p b) s = .next t ∧ t.get (R.LINK_LEGSTAT_FLAGS p (blockLeg b)) = bitsOf b 54 41 ∧
        t.get (R.LINK_LEGSTAT_SEQ p (blockLeg b)) = bitsOf b 40 33 ∧ t.get (R.LINK_LEGTIME_TIME p (blockLeg b)) = bitsOf b 32 9 ∧
        (t.port p).lastRx = s.time.up ∧ t.time = s.time ∧ s.sameMemory t ∧
        (∀ q ∈ [(50, 9, 1), (49, 8, 2), (48, 7, 3), (47, 6, 4)], bitOf b q.1 = true →
          (s.get (R.LINK_LEGSTAT_FLAGS p (blockLeg b))).testBit q.2.1 = false →
          t.flag ((R.PROT_LATCH p (blockLeg b)).bit (q.2.2 - 1)) = true) ∧
        (bitOf b 44 = true → t.flag ((R.PROT_LATCH p (blockLeg b)).bit 4) = true)) ∧
    (∀ (l : Fin 2) (train : Bool) (b : Dword), rxValid train b = false →
      ∃ t, exec (.invalidBlock p l train b) s = .next t ∧ t.time = s.time ∧ s.sameMemory t ∧
        t.get (if l.val = 0 then R.LINK_CRC_UD0 p else R.LINK_CRC_UD1 p) =
          min (s.get (if l.val = 0 then R.LINK_CRC_UD0 p else R.LINK_CRC_UD1 p) + 1) 65535 ∧
        t.get (R.LINK_ERR_INVALID p) = (if wrongType train b = true then min (s.get (R.LINK_ERR_INVALID p) + 1) 255
          else s.get (R.LINK_ERR_INVALID p)) ∧
        (s.get (if l.val = 0 then R.LINK_CRC_UD0 p else R.LINK_CRC_UD1 p) = 0 →
          s.Logged t s.time.now 19 p 0x434 (p.val + l.val * 8)) ∧
        (s.get (if l.val = 0 then R.LINK_CRC_UD0 p else R.LINK_CRC_UD1 p) ≠ 0 → t.log = s.log))

/-- R200 to R203, R205, R208, R211, R212, R221 to R227, R230, R233: the engines of the millisecond, which do nothing in WAKE and DARK. The
grid-code engine evaluates once in the first tick of each millisecond and writes the front setpoints by the pseudocode of R200 (where it
takes the root of a negative number the value is free, log entry 241). Slope evaluates once there as well: the means and the estimate of
every channel, its fault of the lowest code, the step of a channel that stays in TRACK without curtailment, and whether curtailment holds. A limit or ROCOF that has stood long enough confirms an island with its cause, the first to confirm; the event waits for the
end of the tick; in RIDE without lock ROCOF is not judged. A slot that has ended is judged once, its own only if it was injected. After the ramp the contactors
are asked to open and CEASE shows; a missed deadline makes HALT with cause 15 due. A scan ends 40 ms after its start in TRACK at its choice. -/
def Obligations.GridEngines : Prop :=
  (∀ s : State, s.runsLocus = false →
    ∀ i ∈ [Instr.gcEvaluation, .slopeEvaluation, .rocofConfirm, .slotResponse, .islCeased, .clearMissed], exec i s = .next s) ∧
  ∀ s : State, s.runsLocus = true →
    (s.firstOfMs = true →
      (s.flag R.GC_CTL_EN = true → s.gc.ms ≠ some (s.time.tickStart / 4000000) →
        ∃ t, exec .gcEvaluation s = .next t ∧ t.gc.ms = some (s.time.tickStart / 4000000) ∧ t.time = s.time ∧ s.sameMemory t ∧
          exec .gcEvaluation { s with gc := t.gc } = .next { s with gc := t.gc } ∧
          ∀ (u v : State) (pb pt qt smax : Rat) (a b : Rat × Bool × Bool),
            u = (s.gcVolt s.gcInputs).suspJudge → pb = ofFmt 24 (if s.flag R.GC_CTL_PSRC = true then s.getI R.SLOPE_PAVAIL_PU else s.getI R.GC_PREQ) →
            a = u.gcCaps pb → v = u.gcFreq s.gcInputs.1 a.1 pb → b = (if s.flag R.GC_CTL_FW_EN = true then v.gcCaps v.gc.pfw else a) →
            pt = (if s.nightvar = true then 0 else b.1) → qt = puOf ((if s.nightvar = true then v.gc.vv else v.qTarget pt) + v.perturb) →
            smax = ofFmt 12 (s.get R.GC_SMAX_SMAX) →
            t.get R.GC_STAT % 32 = (s.outsideDb s.gcInputs.1).toNat + 2 * (a.2.1 || b.2.1).toNat + 4 * (a.2.2 || b.2.2).toNat +
              8 * (decide (smax * smax < pt * pt + qt * qt)).toNat + 16 * s.get R.GC_STAT_CEASE ∧
            (pt * pt + qt * qt ≤ smax * smax →
              t.getI R.LOCUS_PSET = fmtS 32 24 (pt * s.rampDown) ∧ t.getI R.LOCUS_QSET = fmtS 32 24 (qt * s.rampDown)) ∧
            (smax * smax < pt * pt + qt * qt → s.flag R.GC_CTL_QPRIO = true →
              t.getI R.LOCUS_QSET = fmtS 32 24 (clampR (-smax) smax qt * s.rampDown) ∧
              t.getI R.LOCUS_PSET = fmtS 32 24 (signR pt * rootRest smax (clampR (-smax) smax qt) * s.rampDown)) ∧
            (smax * smax < pt * pt + qt * qt → s.flag R.GC_CTL_QPRIO = false →
              t.getI R.LOCUS_PSET = fmtS 32 24 (pt * s.rampDown) ∧
              t.getI R.LOCUS_QSET = fmtS 32 24 (signR qt * rootRest smax pt * s.rampDown))) ∧
      (s.flag R.SLOPE_CTL_EN = true → s.slope.done ≠ some (s.time.tickStart / 4000000) →
        ∃ t, exec .slopeEvaluation s = .next t ∧ t.slope.done = some (s.time.tickStart / 4000000) ∧
          t.get R.SLOPE_MS_MS = s.time.tickStart / 4000000 % 2 ^ 24 ∧ t.time = s.time ∧ s.sameMemory t ∧
          t.flag R.SLOPE_STAT_CURT = decide (s.loc.pset < ofFmt 24 (s.getI R.SLOPE_PAVAIL_PU) *
            (1 - ofFmt 10 (s.get R.SLOPE_CTL_CMARG) / (if s.flag R.SLOPE_STAT_CURT = true then 2 else 1))) ∧
          t.getI R.SLOPE_PTGT = (if t.flag R.SLOPE_STAT_CURT = true then fmtS 32 4 s.slTarget else 0x7FFFFFFF) ∧
          ∀ (n : Fin 32) (h : SlCh) (e : State), h = s.slopeRoll.sl n →
            e = (((s.slopeRoll.forEach State.slEstimate (List.range 32)).forEach State.slRuns s.slEnabled).forEach State.slArise
              (List.range 32)) →
            t.getI (R.SLCH_V n) = fmtS 32 16 (h.last.mean h.last.sv) ∧ t.getI (R.SLCH_I n) = fmtS 32 16 (h.last.mean h.last.si) ∧
            t.getI (R.SLCH_P n) = fmtS 32 4 (h.last.mean h.last.sp) ∧
            (h.win = [] → t.getI (R.SLCH_DPDV n) = 0 ∧ t.flag (R.SLCH_STAT_VALID n) = false) ∧
            (∀ (k pc ps vc vs : Rat), h.win ≠ [] → k = 2 / (s.toneM : Rat) → pc = Machine.sq (k * sumRat (h.win.map (·.pc))) →
              ps = Machine.sq (k * sumRat (h.win.map (·.ps))) → vc = Machine.sq (k * sumRat (h.win.map (·.vc))) → vs = Machine.sq (k * sumRat (h.win.map (·.vs))) →
              t.getI (R.SLCH_DPDV n) = fmtS 32 16 (Machine.sq (sdiv (pc * vc + ps * vs) (vc * vc + vs * vs))) ∧
              t.getI (R.SLCH_VDITH n) = fmtS 32 16 (Machine.sq (hyp vc vs))) ∧
            (s.flag (R.SLCH_CFG_EN n) = false → t.slState n = cOFF) ∧
            (s.flag (R.SLCH_CFG_EN n) = true → s.slState n = cOFF → t.slState n = cOPEN) ∧
            (∀ c, s.flag (R.SLCH_CFG_EN n) = true → s.slState n ≠ cOFF → s.slState n ≠ cSUSP → e.slFaultNow n = some c →
              t.slState n = cFAULT ∧ t.flag (R.SLCH_STAT_FAULT n) = true ∧ t.get (R.SLCH_STAT_FCAUSE n) = c) ∧
            (s.slState n = cTRACK → t.slState n = cTRACK → t.flag R.SLOPE_STAT_CURT = false →
              (t.sl n).vb = Machine.sq (if t.flag (R.SLCH_STAT_VALID n) = true then clampR (s.vMin n) (s.vMax n) ((s.sl n).vb +
                clampR (-s.sMax n) (s.sMax n) (ofFmt 12 (s.get (R.SLCH_TRK_KT n)) * (t.sl n).dpdv)) else (s.sl n).vb)))) ∧
    (∀ (j : Fin 4) (u : Nat), s.flag R.ISL_CTL_PASV_EN = true → j.val ∉ s.isl.conf → s.limOnset j = some u →
      10 * s.get (R.ISL_FTRIP_CLR j) * 4000000 - s.get R.ISL_CLR_BUDGET * 4000000 ≤ s.limTimer j →
      ∃ t, exec (.freqLimitConfirm j) s = .next t ∧ t.islanded = true ∧ t.isl.conf = j.val :: s.isl.conf ∧ t.log = s.log ∧ t.time = s.time ∧
        s.sameMemory t ∧ s.sameElse t [R.ISL_STAT_ISLANDED, R.ISL_STAT_CAUSE, R.ISL_DEAD_LEFT, (F.irqStat (pageBase .isl 0)).bit 0] ∧
        (s.islanded = false → t.get R.ISL_STAT_CAUSE = j + 1 ∧ t.isl.confAt = some s.time.tickStart ∧ t.isl.confDue = true ∧
          t.flag ((F.irqStat (pageBase .isl 0)).bit 0) = true ∧
          (s.majorMode = mFOLLOW ∨ s.majorMode = mRIDE → t.mode.dueIsland = true))) ∧
    (s.majorMode = mRIDE → s.inLock = false → exec .rocofConfirm s = .next s) ∧
    (∀ u, s.majorMode ≠ mRIDE ∨ s.inLock = true → s.flag R.ISL_CTL_ROCOF_EN = true → s.isl.rocofConf = false → s.isl.rocofOn = some u →
      u + s.get R.ISL_ROCOF_DELAY * 4000000 ≤ s.time.tickStart →
      ∃ t, exec .rocofConfirm s = .next t ∧ t.islanded = true ∧ t.isl.rocofConf = true ∧ t.log = s.log ∧ t.time = s.time ∧ s.sameMemory t ∧
        s.sameElse t [R.ISL_STAT_ISLANDED, R.ISL_STAT_CAUSE, R.ISL_DEAD_LEFT, (F.irqStat (pageBase .isl 0)).bit 0] ∧
        (s.islanded = false → t.get R.ISL_STAT_CAUSE = 5 ∧ t.isl.confAt = some s.time.tickStart ∧ t.isl.confDue = true ∧
          t.flag ((F.irqStat (pageBase .isl 0)).bit 0) = true ∧
          (s.majorMode = mFOLLOW ∨ s.majorMode = mRIDE → t.mode.dueIsland = true))) ∧
    (∀ m, s.isl.ended = some m → ∃ t, exec .slotResponse s = .next t ∧ t.isl.ended = none ∧ t.time = s.time ∧ s.sameMemory t ∧
      ((s.get R.ISL_SLOT_OCC).testBit (s.gridSlot m.no) = true → m.good = true → m.n1 ≠ 0 → m.n2 ≠ 0 →
        s.gridSlot m.no ≠ s.get R.ISL_CTL_SLOT_ID ∨ m.injected = true →
        t.get R.ISL_RESP_SLOT = s.gridSlot m.no % 16 ∧
        t.getI R.ISL_RESP_D = fmtS 16 0 ((m.sum2 / (m.n2 : Rat) - m.sum1 / (m.n1 : Rat)) * 1000)) ∧
      ((s.get R.ISL_SLOT_OCC).testBit (s.gridSlot m.no) = false ∨ m.good = false ∨ m.n1 = 0 ∨ m.n2 = 0 ∨
        (s.gridSlot m.no = s.get R.ISL_CTL_SLOT_ID ∧ m.injected = false) →
        t.isl = { s.isl with ended := none } ∧ { t with isl := s.isl } = s)) ∧
    (s.majorMode = mISLAND →
      (∀ u, s.isl.entered = some u → s.isl.ceased = false → u + s.get R.ISL_CLR_RAMP * 4000000 < s.time.tickStart →
        ∃ t, exec .islCeased s = .next t ∧ t.isl.ceased = true ∧ t.flag R.GC_STAT_CEASE = true ∧
          t.get R.SAFE_OUT_REQ_REQ = s.get R.SAFE_OUT_REQ_REQ / 4 * 4 ∧ t.flag ((F.irqStat (pageBase .isl 0)).bit 2) = true ∧
          t.time = s.time ∧ s.sameMemory t) ∧
      (∀ d u, s.isl.deadline = some d → s.isl.missed = false → s.islComplete = false → u = s.advTo d →
        ∃ t, exec .clearMissed s = .next t ∧ t.isl = { s.isl with missed := true } ∧ t.mode = { s.mode with dueHalt := 15 :: s.mode.dueHalt } ∧
          t.time = u.idle.time ∧ t.flag ((F.irqStat (pageBase .isl 0)).bit 3) = true ∧
          s.sameElse t [(F.irqStat (pageBase .isl 0)).bit 3] ∧
          s.Logged t u.time.now 7 63 0x863 ((!s.isl.ceased).toNat + 2 * (!s.sfb 0).toNat + 4 * (!s.sfb 1).toNat) ∧ s.sameMemory t)) ∧
    ∀ (n : Fin 32) c b, (s.sl n).scan = some c → c.best = some b → s.slState n = cSCAN → c.t0 + 160000000 ≤ s.time.tickStart →
      ∃ t, exec (.scanDone n) s = .next t ∧ t.slState n = cTRACK ∧ (t.sl n).scan = none ∧ (t.sl n).vb = b.2.2.1 ∧ (t.sl n).pmpp = b.2.2.2 ∧
        t.flag (R.SLCH_STAT_SHADE n) = false ∧ (c.buf < 4 → t.flag (R.SCB_CTL_DONE c.buf) = true ∧ t.flag (R.SCB_CTL_BUSY c.buf) = false) ∧
        t.flag ((F.irqStat (pageBase .slope 0)).bit 0) = true ∧ t.time = s.time ∧ s.sameMemory t

/-- R278, R280, R283 to R286: the code of a tick slot reaches its input word, late ones after the freeze; the start-up calibration stores the
coefficients that pass, takes the converters that fail out of service and ends in CALDONE; a triggered slot is converted before the others, a
read-back and then the next in turn. The rotation: a calibration of the spare that passes leads to SHADOW_IN, one of the converter taken out
to SHADOW_OUT; a shadow whose mean mismatch is within MISM makes the swap due at the next tick; a first failure repeats the calibration, a
second retires the converter and stops; the end of DWELL moves on to the next position and calibrates the spare again. R288 to R291: Tangent.
The raw state of each comparator on a ball is above, below or inside its thresholds, with hysteresis on the way back; WIN takes it after
FILT + 1 AUX clocks of 5 ns; a blanking window opens 3 AUX clocks before its edge, holds WIN and ends BLANK AUX clocks after the edge; a
threshold side is refreshed with each command, the sides in turn; a self-test pass starts every SPER milliseconds. -/
def Obligations.ConvertersAndComparators : Prop :=
  (∀ s : State, s.alive = true →
     (∀ (k : Fin 128) (q partner shadow : Int) (conv : Nat) (pair : Bool), s.adcRuns = true → slotBit (s.slotEntry k) 31 = true →
       s.serves (slotPos k) = some conv →
       pair = (slotBit (s.slotEntry k) 30 && slotPos k % 2 == 0 && !s.legacyActive && (s.serves (slotPos k + 1)).isSome) →
       ∃ t, exec (.tickSlotResult k q partner shadow) s = .next t ∧ slotWord (s.slotEntry k) ∈ t.adc.words ∧
         t.flag ((R.ADC_FRESH (k / 32)).bit (k % 32)) = true ∧
         t.time.now = (s.advTo (s.sampleAt (slotPos k) (k % 16) + 250 + (if pair then 200 else 0))).time.now ∧ t.mram = s.mram ∧
         (pair = false → t.slotCode k = signedCode (slotIsZero s (s.slotEntry k)) (s.corrected conv (s.slotRaw (slotPos k) (s.slotEntry k) q)).1) ∧
         (∀ other, pair = true → s.serves (slotPos k + 1) = some other →
           t.slotCode k = (signedCode (slotIsZero s (s.slotEntry k)) (s.corrected conv (s.slotRaw (slotPos k) (s.slotEntry k) q)).1 +
             signedCode (slotIsZero s (s.slotEntry k)) (s.corrected other (s.slotRaw (slotPos k) (s.slotEntry k) partner)).1 + 1) / 2) ∧
         (s.ce.frozen = false → t.ceWord (slotWord (s.slotEntry k)) = packInt (t.slotCode k)) ∧
         (s.ce.frozen = true → t.flag ((R.ADC_LATE (k / 32)).bit (k % 32)) = true)) ∧
     (∀ sums : List (Nat × Nat × Nat), s.flag R.ADC_STAT_CALDONE = false → sums.length = 9 →
       ∃ t, exec (.adcStartupCal sums) s = .next t ∧ t.flag R.ADC_STAT_CALDONE = true ∧ t.flag ((F.irqStat (pageBase .adc 0)).bit 2) = true ∧
         t.time = s.time ∧ s.sameMemory t ∧ ∀ (c : Fin 9) (lo hi mid : Nat), sums.getD c (0, 0, 0) = (lo, hi, mid) →
           ((s.calibrate lo hi mid 0).pass = true → t.get (R.ADC_ROT_CAL_GAIN c) = (s.calibrate lo hi mid 0).gain) ∧
           ((s.calibrate lo hi mid 0).pass = false → t.get (R.ADC_ROT_CAL_GAIN c) = s.get (R.ADC_ROT_CAL_GAIN c) ∧
             if c.val = 8 then t.flag R.ADC_ROT_STAT_SPAREOUT = true else t.flag (R.ADC_ROT_STAT_RETIRED.bit c) = true)) ∧
     (∀ lo hi mid : Nat, s.rotMode = true →
       (s.rotPhase = rCALSPARE →
         ((s.calibrate lo hi mid (if s.adc.calErr then 1024 else 0)).pass = true →
           ∃ t, exec (.rotCalibrationDone lo hi mid) s = .next t ∧ t.rotPhase = rSHADOWIN ∧
             t.get (R.ADC_ROT_CAL_GAIN 8) = (s.calibrate lo hi mid (if s.adc.calErr then 1024 else 0)).gain ∧
             t.adc = { s.adc with calErr := false } ∧ t.log = s.log ∧ t.time = s.time ∧ s.sameMemory t) ∧
         ((s.calibrate lo hi mid (if s.adc.calErr then 1024 else 0)).pass = false →
           ∃ t, exec (.rotCalibrationDone lo hi mid) s = .next t ∧ t.rotPhase = (if s.adc.fails = 0 then rCALSPARE else rSTOPPED) ∧
             t.adc.fails = (if s.adc.fails = 0 then 1 else 0) ∧ (s.adc.fails ≠ 0 → t.flag R.ADC_ROT_STAT_SPAREOUT = true) ∧
             t.get (R.ADC_ROT_CAL_GAIN 8) = s.get (R.ADC_ROT_CAL_GAIN 8) ∧ t.time = s.time ∧ s.sameMemory t)) ∧
       (s.rotPhase = rCALOUT → s.adc.swap = 0 →
         ((s.calibrate lo hi mid 0).pass = true →
           ∃ t, exec (.rotCalibrationDone lo hi mid) s = .next t ∧ t.rotPhase = rSHADOWOUT ∧
             t.adc.pend = some ((s.calibrate lo hi mid 0).gain, ((s.calibrate lo hi mid 0).offs % 2 ^ 16).toNat) ∧
             t.log = s.log ∧ t.time = s.time ∧ s.sameMemory t) ∧
         ((s.calibrate lo hi mid 0).pass = false →
           ∃ t, exec (.rotCalibrationDone lo hi mid) s = .next t ∧ t.rotPhase = (if s.adc.fails = 0 then rCALOUT else rSTOPPED) ∧
             t.adc.fails = (if s.adc.fails = 0 then 1 else 0) ∧ (s.adc.fails ≠ 0 → t.flag (R.ADC_ROT_STAT_RETIRED.bit s.rotPos) = true) ∧
             t.time = s.time ∧ s.sameMemory t))) ∧
     (∀ (mids : List (Int × Int)) (d : Int) (n : Nat), s.rotMode = true → s.rotPhase = rSHADOWIN ∨ s.rotPhase = rSHADOWOUT → s.adc.swap = 0 →
       s.shadowTicks ≤ (s.adc.shadow.map (·.1)).getD 0 → s.shadowSum mids = (d, n) → n ≠ 0 →
       ∃ t, exec (.rotShadowDone mids) s = .next t ∧ t.getI R.ADC_ROT_MEAN_M = satI 16 ((32 * d + n) / (2 * n)) ∧ t.time = s.time ∧
         s.sameMemory t ∧ t.adc.shadow = none ∧
         (d.natAbs ≤ s.get R.ADC_ROT_CFG_MISM * n →
           t.adc.swap = (if s.rotPhase = rSHADOWIN then 1 else 2) ∧ t.adc.fails = 0 ∧ t.rotPhase = s.rotPhase ∧ t.log = s.log) ∧
         (s.get R.ADC_ROT_CFG_MISM * n < d.natAbs → s.adc.fails = 0 →
           t.adc.fails = 1 ∧ t.rotPhase = (if s.rotPhase = rSHADOWIN then rCALSPARE else rCALOUT)) ∧
         (s.get R.ADC_ROT_CFG_MISM * n < d.natAbs → s.adc.fails ≠ 0 → t.adc.fails = 0 ∧ t.rotPhase = rSTOPPED ∧
           t.flag (if s.rotPhase = rSHADOWIN then R.ADC_ROT_STAT_SPAREOUT else R.ADC_ROT_STAT_RETIRED.bit s.rotPos) = true)) ∧
     (s.rotMode = true → s.rotPhase = rWAIT → s.rotEnabled = true →
       ∃ t, exec .rotDwellEnd s = .next t ∧ t.rotPhase = rCALSPARE ∧ t.rotPos = (s.rotPos + 1) % 8 ∧
         t.time = (s.advUp (s.adc.waitUp + s.get R.ADC_ROT_CTL_DWELL * 4000000000)).time ∧
         s.sameElse t [R.ADC_ROT_STAT_PHASE, R.ADC_ROT_STAT_POS] ∧ t.log = s.log ∧ s.sameMemory t) ∧
     (∀ (pos : Fin 8) (q : Int) (conv : Nat), s.adcRuns = true → s.serves pos = some conv →
       (∀ k, s.bgTriggered pos = some k →
         ∃ t, exec (.backgroundConversion pos q) s = .next t ∧ k ∉ t.adc.trig ∧ t.flag ((R.ADC_FRESH (k / 32)).bit (k % 32)) = true ∧
           t.slotCode k = signedCode (slotIsZero s (s.slotEntry k)) (s.corrected conv (s.slotRaw (slotPos k) (s.slotEntry k) q)).1 ∧
           t.time = s.time ∧ t.mram = s.mram) ∧
       (∀ k, s.bgTriggered pos = none → s.get R.CMP_ST_CTL_CONV = pos.val → s.cmp.pass = some k → k < 96 → s.sideWaits k = false →
         ∃ t, exec (.backgroundConversion pos q) s = .next t ∧ t.time = s.time ∧ t.mram = s.mram ∧
           t.get (if k % 2 = 0 then R.TW_RB_HI (k / 2) else R.TW_RB_LO (k / 2)) = (s.corrected conv (rawCode (internalUv 13 q))).1 ∧
           (s.get R.CMP_ST_CTL_TOL < (((s.corrected conv (rawCode (internalUv 13 q))).1 : Int) - (64 * s.sideCode k + 32)).natAbs →
             t.flag (R.TW_STAT_STFAIL (k / 2)) = true ∧ t.flag ((F.irqStat (pageBase .cmp 0)).bit 0) = true)) ∧
       (∀ k, s.bgTriggered pos = none → s.get R.CMP_ST_CTL_CONV ≠ pos.val → s.bgNext pos = some k →
         ∃ t, exec (.backgroundConversion pos q) s = .next t ∧ t.flag ((R.ADC_FRESH (k / 32)).bit (k % 32)) = true ∧
           Tab.get noSlot t.adc.rr pos = (k - 128) % 8 + 1 ∧
           t.slotCode k = signedCode (slotIsZero s (s.slotEntry k)) (s.corrected conv (s.slotRaw (slotPos k) (s.slotEntry k) q)).1 ∧
           (slotBit (s.slotEntry k) 29 = false ∨ slotWord (s.slotEntry k) ∈ s.adc.words → t.ce = s.ce) ∧
           (slotBit (s.slotEntry k) 29 = true → slotWord (s.slotEntry k) ∉ s.adc.words → s.ce.frozen = false →
             t.ceWord (slotWord (s.slotEntry k)) = packInt (t.slotCode k)) ∧
           t.time = s.time ∧ t.mram = s.mram))) ∧
  (∀ s : State, s.alive = true →
     (∀ (ball : Fin 64) (uv : Int),
       ∃ t, exec (.cmpRawChange ball uv) s = .next t ∧ t.ballUv ball = uv ∧ t.regs = s.regs ∧ t.log = s.log ∧ t.time = s.time ∧ s.sameMemory t ∧
         ∀ c : Fin 48, (s.get (R.TW_CFG_AIN c) ≠ ball.val → t.cmpc c = s.cmpc c) ∧
           (s.get (R.TW_CFG_AIN c) = ball.val →
             ((s.cmpc c).raw = wINSIDE → (t.cmpc c).raw = (if ((2 * (s.cmpc c).hi + 1) * 2500000 : Nat) < 2048 * uv then wABOVE
               else if 2048 * uv < ((2 * (s.cmpc c).lo + 1) * 2500000 : Nat) then wBELOW else wINSIDE)) ∧
             ((s.cmpc c).raw = wABOVE → (t.cmpc c).raw =
               (if 2048 * (uv + hystUv (s.get (R.TW_CFG_HYST c))) < ((2 * (s.cmpc c).hi + 1) * 2500000 : Nat) then
                 (if 2048 * uv < ((2 * (s.cmpc c).lo + 1) * 2500000 : Nat) then wBELOW else wINSIDE) else wABOVE)) ∧
             ((s.cmpc c).raw = wBELOW → (t.cmpc c).raw =
               (if ((2 * (s.cmpc c).lo + 1) * 2500000 : Nat) < 2048 * (uv - hystUv (s.get (R.TW_CFG_HYST c))) then
                 (if ((2 * (s.cmpc c).hi + 1) * 2500000 : Nat) < 2048 * uv then wABOVE else wINSIDE) else wBELOW)))) ∧
     ∀ c : Fin 48,
       (s.flag (R.TW_CFG_EN c) = true → (s.cmpc c).blankUp = none → (s.cmpc c).raw ≠ (s.cmpc c).win →
         ∃ t, exec (.cmpWinChange c) s = .next t ∧ (t.cmpc c).win = (s.cmpc c).raw ∧
           t.time.up = (s.advUp ((s.cmpc c).rawUp + (s.get (R.TW_CFG_FILT c) + 1) * 20)).time.up ∧ t.mram = s.mram ∧
           (s.cmpForced c = false → (s.cmpc c).raw ≤ 2 → t.get (R.TW_STAT_WIN c) = (s.cmpc c).raw)) ∧
       (∀ te es, (s.cmpc c).edges = te :: es →
         ∃ t, exec (.blankingWindowStart c) s = .next t ∧ t.flag (R.TW_STAT_BLANKING c) = true ∧ (t.cmpc c).blankUp = some te ∧
           (t.cmpc c).edges = es ∧ t.time = (s.advUp (te - 60)).time ∧ (t.cmpc c).win = (s.cmpc c).win ∧
           s.sameElse t [R.TW_STAT_BLANKING c] ∧ t.log = s.log ∧ s.sameMemory t) ∧
       (∀ u, (s.cmpc c).blankUp = some u →
         ∃ t, exec (.blankingWindowEnd c) s = .next t ∧ t.flag (R.TW_STAT_BLANKING c) = false ∧ (t.cmpc c).blankUp = none ∧
           (t.cmpc c).rawUp = t.time.up ∧ t.time = (s.advUp (u + s.get (R.TW_BLK_BLANK c) * 20)).time ∧
           (t.cmpc c).win = (s.cmpc c).win ∧ s.sameElse t [R.TW_STAT_BLANKING c] ∧ t.log = s.log ∧ s.sameMemory t) ∧
       (∃ t, exec (.thresholdRefresh c) s = .next t ∧ t.regs = s.regs ∧ t.log = s.log ∧ t.time = s.time ∧ s.sameMemory t ∧
         (t.cmpc c).loNext = !(s.cmpc c).loNext ∧ (t.cmpc c).win = (s.cmpc c).win ∧
         (t.cmpc c).hi = (if (s.cmpc c).loNext then (s.cmpc c).hi else s.get (R.TW_THR_HI c)) ∧
         (t.cmpc c).lo = (if (s.cmpc c).loNext then s.get (R.TW_THR_LO c) else (s.cmpc c).lo) ∧
         ((s.cmpc c).raw = wINSIDE → (t.cmpc c).raw =
           (if ((2 * (t.cmpc c).hi + 1) * 2500000 : Nat) < 2048 * s.ballUv (s.get (R.TW_CFG_AIN c)) then wABOVE
             else if 2048 * s.ballUv (s.get (R.TW_CFG_AIN c)) < ((2 * (t.cmpc c).lo + 1) * 2500000 : Nat) then wBELOW else wINSIDE))) ∧
       (s.flag R.CMP_ST_CTL_EN = true → s.cmp.pass = none → s.rotMode = true →
         ∃ t, exec .cmpSelftestPass s = .next t ∧ t.cmp.passUp = t.time.up ∧
           t.time = (s.advUp (s.cmp.passUp + s.get R.CMP_ST_CTL_SPER * 4000000)).time ∧ s.sameMemory t ∧
           (s.sideWaits 0 = false → t.cmp.pass = some 0 ∧ t.regs = s.regs ∧ t.log = s.log)))

/-- R303, R305, R306, R308, R310 to R312, R314, R317, R319, R321, R323, R324: Annulus. A sample is taken at its instant, and a channel that
is off gives 0; a closed window is evaluated and counted: its RMS values and the powers of its elements and of the system are shown, its
energies are added to the accumulators, each to the one of its sign and quadrant, up to their end, and the low words, high words, window
registers, wraps and overflows of all are shown with it, all of them held back by HOLD; under a test injection nothing but the test energy
is added; and the lines that watch the window end pulse; a 10 s interval gives the frequency; each whole second stages a snapshot once; a
report instant is used once, and its report goes whole to its ring, with its frequency and ROCOF in the registers, or is dropped whole; at
the first whole second after the restore and the start-up calibration the accumulation starts, without the modulators whose calibration
failed and with the gain and offset of those that passed (the time of a calibration at other values of CALN than its reset is the model's
reading, log entry 132). R317: the steps of the meter's rotation: CAL_SPARE to
SHADOW_IN and sets the spare's gain and offset, a shadow within MISM makes the swap due, CAL_OUT to SHADOW_OUT, the end of DWELL to the next position; a first failure repeats the
calibration, a second stops; without EN it stops. -/
def Obligations.Metering : Prop :=
  (∀ s : State, s.alive = true → s.time.run = true →
     (s.meterOn = true →
       (∀ (codes : List Int) (spare : Int) (cross : Option (Fin 65536)),
         ∃ t, exec (.meterSample codes spare cross) s = .next t ∧ t.meter.last = some (s.nextSample * meterStep) ∧
           t.time.now = (s.advTo (s.nextSample * meterStep)).time.now ∧ t.mram = s.mram ∧
           ∀ c : Fin 16, s.flag ⟨(R.MCH_CFG c).addr, 0, 0⟩ = false → (t.meter.hist.headD []).getD c 0 = 0) ∧
       (s.flag R.PMU_CTL_EN = true →
         ∃ t t1, exec .pmuReport s = .next t ∧ t.meter.lastPmu = some t1 ∧ s.meter.lastPmu ≠ some t1 ∧ s.time.now ≤ t1 ∧
           t.time.now = (s.advTo t1).time.now ∧ t.mram = s.mram ∧
           (s.ringOn 13 = false → t.regs = s.regs ∧ t.log = s.log ∧ s.sameMemory t) ∧
           (s.ringOn 13 = true → s.ringFill 13 + (1 + (s.pmuChans.length + 5) / 6) ≤ s.ringN 13 →
             t.get (R.RING_PIDX 13) = (s.get (R.RING_PIDX 13) + (1 + (s.pmuChans.length + 5) / 6)) % 2 ^ 32 ∧
             t.flag ((F.irqStat (pageBase .mpmu 0)).bit 0) = true ∧
             ∀ src, src = (if s.flag R.PMU_CTL_PSEQ then 16 else s.get R.METER_CFG_REFCH) →
               t.get R.PMU_FREQ = fmtU 32 16 (Config.pmuFreq s.fresh src) ∧
               t.get R.PMU_ROCOF = twos 32 (fmtS 32 16 (Config.pmuRocof s.fresh src))) ∧
           (s.ringOn 13 = true → s.ringN 13 < s.ringFill 13 + (1 + (s.pmuChans.length + 5) / 6) →
             t.flag R.PMU_STAT_DROP = true ∧ t.flag ((F.irqStat (pageBase .mpmu 0)).bit 1) = true ∧ s.sameMemory t)) ∧
       (∀ (cals : List (Option (Int × Int × Int))) (u : Nat) (s1 : State), s.flag R.METER_STAT_RUN = false →
         s.meter.restoredUp.getD s.time.up = u → s1 = s.advUp (u + s.calTime) →
         ∃ t k, exec (.accumulationStart cals) s = .next t ∧ t.flag R.METER_STAT_RUN = true ∧
           s1.time.now ≤ k * 4000000000 ∧ k * 4000000000 < s1.time.now + 4000000000 ∧
           t.time.now = (s1.advTo (k * 4000000000)).time.now ∧ t.mram = s.mram ∧
           (∀ f : Fin 17, s.modPass (cals.getD f none) = false → if f.val = 16 then t.flag R.METER_ROT_STAT_SPAREOUT = true
             else t.flag (R.METER_ROT_STAT_RETIRED.bit f) = true) ∧
           (∀ (f : Fin 17) (g : Rat × Rat), (cals.getD f none).bind (modCal (s.get R.METER_ROT_CFG_CALN)) = some g → t.modOf f = g) ∧
           ∃ w, t.meter.win = some w ∧ w.n0 = (k * 4000000000 + meterDelay) / meterStep)) ∧
     (∀ (w : MWin) (ws : List MWin), s.meter.closed = w :: ws →
       ∃ t, exec .windowEnd s = .next t ∧ t.meter.closed = ws ∧ t.meter.seq = (s.meter.seq + 1) % 2 ^ 32 ∧ t.meter.tend = w.tau ∧
         t.flag R.METER_STAT_NOREF = w.noref ∧ t.flag ((F.irqStat (pageBase .meter 0)).bit 0) = true ∧ t.time.now = s.time.now ∧
         t.mram = s.mram ∧
         (s.flag R.METER_CTL_HOLD = false → t.get R.RES_SEQ = t.meter.seq ∧ t.get R.RES_N_N = w.xs.length % 2 ^ 16) ∧
         (s.flag R.METER_CTL_HOLD = true → t.get R.RES_SEQ = s.get R.RES_SEQ) ∧
         (s.flag R.METER_CTL_HOLD = false →
           (∀ c : Fin 16, t.get (R.RES_RMS c) = fmtU 32 12 (s.rmsOf c (chan c w.xs))) ∧
           (∀ e : Fin 8, t.get (R.RES_P e) = twos 32 (fmtS 32 4 (s.elemOut w e).p) ∧ t.get (R.RES_Q e) = twos 32 (fmtS 32 4 (s.elemOut w e).q) ∧
             t.get (R.RES_S e) = fmtU 32 4 (s.elemOut w e).va) ∧
           (t.get (R.RES_P 8) = twos 32 (fmtS 32 4 (s.systemSum fun e => (s.elemOut w e).p)) ∧
             t.get (R.RES_Q 8) = twos 32 (fmtS 32 4 (s.systemSum fun e => (s.elemOut w e).q))) ∧
           ∀ (k : Fin 9) (j : Fin 6), t.get (R.ACC_LO k j) = t.accA (6 * k + j) % 2 ^ 32 ∧
             t.get (R.ACC_HI k j) = t.accA (6 * k + j) / 2 ^ 32 % 2 ^ 32 ∧ t.get (R.ACC_WIN k j) = t.accA (6 * k + j) / 2 ^ 12 % 2 ^ 32 ∧
             t.get (R.ACC_WST_WRAP k j) = Tab.get noAcc t.meter.wraps (6 * k + j) % 256 ∧
             (1 < Tab.get noAcc s.meter.wraps (6 * k + j) + (t.accT (6 * k + j) / 2 ^ 76 - s.accT (6 * k + j) / 2 ^ 76) →
               s.accT (6 * k + j) / 2 ^ 76 < t.accT (6 * k + j) / 2 ^ 76 → t.flag (R.ACC_WST_OVF k j) = true)) ∧
         (w.test = true → t.meter.acc = s.meter.acc ∧ t.meter.wraps = s.meter.wraps ∧
           t.meter.tacc = s.meter.tacc + s.systemSum (t.windowEnergy s w (·.ea))) ∧
         (w.test = false → t.meter.tacc = s.meter.tacc ∧
           ∀ (k : Fin 9) (j : Fin 6) (a r : Int), s.setEnergy (t.windowEnergy s w (·.ea)) k = a → s.setEnergy (t.windowEnergy s w (·.er)) k = r →
             t.accT (6 * k + j) = (if j.val = (if 0 ≤ a then 0 else 1) then min (s.accT (6 * k + j) + a.natAbs) accTop
               else if j.val = (if 0 ≤ r then (if 0 ≤ a then 2 else 3) else (if 0 ≤ a then 5 else 4)) then
                 min (s.accT (6 * k + j) + r.natAbs) accTop
               else s.accT (6 * k + j)) ∧
             (Tab.get noAcc s.meter.wraps (6 * k + j) ≤ 255 → Tab.get noAcc t.meter.wraps (6 * k + j) =
               min 255 (Tab.get noAcc s.meter.wraps (6 * k + j) + (t.accT (6 * k + j) / 2 ^ 76 - s.accT (6 * k + j) / 2 ^ 76)))) ∧
         ∀ x : Fin 16, t.get (R.TRIG_LINE_SRC x) = 10 → (x.val, t.time.now) ∈ t.time.lineDue) ∧
     (∀ (i : MTen) (is_ : List MTen), s.meter.tens = i :: is_ →
       ∃ t, exec .freq10s s = .next t ∧ t.meter.tens = is_ ∧ t.flag ((F.irqStat (pageBase .meter 0)).bit 5) = true ∧
         t.get R.METER_FREQ = (if i.count < 2 then 0 else fmtU 32 16 (((i.count - 1) * 32000 * 65536 : Nat) / ((i.last - i.first : Int) : Rat))) ∧
         t.time = s.time ∧ t.mram = s.mram) ∧
     (s.flag R.METER_STAT_RUN = true →
       ∃ t k, exec .meterCheckpointStage s = .next t ∧ t.meter.lastSec = some k ∧
         k = max ((s.time.now + 3999999999) / 4000000000) ((s.meter.lastSec.map (· + 1)).getD 0) ∧
         t.time.now = (s.advTo (k * 4000000000)).time.now ∧
         (s.injOn = false → t.org.stage.map (·.take 54) = some ((List.range 54).map s.accA)) ∧
         (s.injOn = true → t.org.stage = s.org.stage) ∧ t.mram = s.mram)) ∧
  (∀ (s : State) (cal : Option (Int × Int × Int)) (ratio : Word), s.alive = true → s.time.run = true → mSTANDBY ≤ s.majorMode →
     s.flag R.METER_CTL_EN = true → s.meter.swap = 0 →
     ∃ t, exec (.meterRotationStep cal ratio) s = .next t ∧ s.sameMemory t ∧
       (s.flag R.METER_ROT_CTL_EN = true →
         (s.get R.METER_ROT_STAT_PHASE = 0 → s.flag R.METER_ROT_STAT_SPAREOUT = false → s.get R.METER_ROT_STAT_SPAREPOS = 31 →
           t.get R.METER_ROT_STAT_PHASE = 1 ∧ s.sameElse t [R.METER_ROT_STAT_PHASE] ∧ t.time = s.time) ∧
         (s.get R.METER_ROT_STAT_PHASE = 1 → t.get R.METER_ROT_RATIO = ratio.toNat ∧ t.time = s.time ∧
           (∀ g : Rat × Rat, cal.bind (modCal (s.get R.METER_ROT_CFG_CALN)) = some g →
             t.get R.METER_ROT_STAT_PHASE = 2 ∧ t.meter.shadowed = none ∧ t.modOf 16 = g) ∧
           (s.modPass cal = false → s.meter.fails = 0 → t.get R.METER_ROT_STAT_PHASE = 1 ∧ t.meter.fails = 1) ∧
           (s.modPass cal = false → s.meter.fails ≠ 0 →
             t.get R.METER_ROT_STAT_PHASE = 6 ∧ t.flag R.METER_ROT_STAT_SPAREOUT = true ∧ t.meter.fails = 0)) ∧
         (∀ sum n, s.get R.METER_ROT_STAT_PHASE = 2 ∨ s.get R.METER_ROT_STAT_PHASE = 4 → s.meter.shadowed = some (sum, n) →
           t.time = s.time ∧ t.meter.shadowed = none ∧
           (sum.natAbs * 100000 ≤ s.get R.METER_ROT_CFG_MISM * n * 2 ^ 23 →
             t.meter.swap = s.get R.METER_ROT_STAT_PHASE / 2 ∧ t.meter.fails = 0 ∧ t.regs = s.regs ∧ t.log = s.log) ∧
           (s.get R.METER_ROT_CFG_MISM * n * 2 ^ 23 < sum.natAbs * 100000 → s.meter.fails = 0 →
             t.meter.fails = 1 ∧ t.get R.METER_ROT_STAT_PHASE = s.get R.METER_ROT_STAT_PHASE - 1) ∧
           (s.get R.METER_ROT_CFG_MISM * n * 2 ^ 23 < sum.natAbs * 100000 → s.meter.fails ≠ 0 →
             t.meter.fails = 0 ∧ t.get R.METER_ROT_STAT_PHASE = 6)) ∧
         (s.get R.METER_ROT_STAT_PHASE = 3 → t.time = s.time ∧
           (∀ g : Rat × Rat, cal.bind (modCal (s.get R.METER_ROT_CFG_CALN)) = some g →
             t.get R.METER_ROT_STAT_PHASE = 4 ∧ t.modOf (s.get R.METER_ROT_STAT_POS) = g) ∧
           (s.modPass cal = false → t.get R.METER_ROT_STAT_PHASE = (if s.meter.fails = 0 then 3 else 6))) ∧
         (s.get R.METER_ROT_STAT_PHASE = 5 → t.get R.METER_ROT_STAT_PHASE = 1 ∧
           t.get R.METER_ROT_STAT_POS = (s.get R.METER_ROT_STAT_POS + 1) % 16 ∧
           t.time = (s.advUp (s.meter.waitUp + s.get R.METER_ROT_CTL_DWELL * 4000000000)).time)) ∧
       (s.flag R.METER_ROT_CTL_EN = false →
         s.get R.METER_ROT_STAT_PHASE = 1 ∨ s.get R.METER_ROT_STAT_PHASE = 2 ∨ s.get R.METER_ROT_STAT_PHASE = 5 →
         t.get R.METER_ROT_STAT_PHASE = 6 ∧ s.sameElse t [R.METER_ROT_STAT_PHASE] ∧ t.time = s.time ∧ t.log = s.log))

/-- R334, R335, R349: a frame that finds room in the receive area is stored there whole, behind the last one and round its end, and its entry
goes to the receive ring; one that finds none is dropped and counted, and one that the ring does not take is not stored; the head of the
transmit ring is taken, and the bytes that it names are sent, changed only where one-step is asked for; the link's state is kept and
signalled. -/
def Obligations.Ethernet : Prop :=
  ∀ (s : State) (n : Fin 2), s.alive = true →
    (s.flag (R.ETH_CTL_EN n) = true →
      (∀ (f : List Byte) (err : Bool) (used size : Nat), ((s.ethHeld n).map (·.2)).foldl (· + ·) 0 = used → 2 ^ s.get (R.ETH_RXBUF_LOG2 n) = size →
        (used + ethSpace f.length ≤ size → s.ringTakes (ethRx n) = true → (s.ethPort n).wr < size →
          (s.get (R.ETH_RXBUF_BASE n) * 64 + size ≤ s.ringSlot (ethRx n) (s.get (R.RING_PIDX (ethRx n))) ∨
            s.ringSlot (ethRx n) (s.get (R.RING_PIDX (ethRx n))) + ringBytes (ethRx n) ≤ s.get (R.ETH_RXBUF_BASE n) * 64) →
          ∃ t, exec (.ethFrameReceive n f err) s = .next t ∧
            (∀ i : Fin f.length, t.sramByte (s.get (R.ETH_RXBUF_BASE n) * 64 + ((s.ethPort n).wr + i) % size) = f[i]) ∧
            t.get (R.RING_PIDX (ethRx n)) = (s.get (R.RING_PIDX (ethRx n)) + 1) % 2 ^ 32 ∧
            (t.ethPort n).wr = ((s.ethPort n).wr + ethSpace f.length) % size ∧ t.log = s.log ∧ t.time = s.time ∧ t.mram = s.mram) ∧
        (used + ethSpace f.length ≤ size → s.ringTakes (ethRx n) = false →
          ∃ t, exec (.ethFrameReceive n f err) s = .next t ∧ t.get (R.RING_PIDX (ethRx n)) = s.get (R.RING_PIDX (ethRx n)) ∧ t.time = s.time ∧
            s.sameMemory t) ∧
        (size < used + ethSpace f.length →
          ∃ t, exec (.ethFrameReceive n f err) s = .next t ∧ t.get (R.ETH_STAT_RXDROP n) = min (s.get (R.ETH_STAT_RXDROP n) + 1) 65535 ∧
            t.get (R.RING_PIDX (ethRx n)) = s.get (R.RING_PIDX (ethRx n)) ∧
            s.Logged t s.time.now 14 n 0x4D1 (min (s.get (R.ETH_STAT_RXDROP n) + 1) 65535) ∧ t.time = s.time ∧ s.sameMemory t)) ∧
      (∀ d, s.ringHead (ethTx n) = some d → ¬ (s.testActive = true ∧ s.flag (R.ETH_CTL_LOOP n) = true) →
        ∃ t, exec (.ethTransmit n) s = .next t ∧ t.get (R.RING_CIDX (ethTx n)) = (s.get (R.RING_CIDX (ethTx n)) + 1) % 2 ^ 32 ∧
          (t.ethPort n).sent.length = d / 2 ^ 32 % 2 ^ 16 ∧
          (d.testBit 49 = false → (t.ethPort n).sent = (List.range (d / 2 ^ 32 % 2 ^ 16)).map fun i => s.sramByte (d % 2 ^ 32 + i)) ∧
          (d.testBit 48 = true → s.ringTakes (ethRx n) = true →
            t.get (R.RING_PIDX (ethRx n)) = (s.get (R.RING_PIDX (ethRx n)) + 1) % 2 ^ 32) ∧
          (d.testBit 48 = false → s.sameMemory t) ∧ t.time = s.time ∧ t.mram = s.mram) ∧
      (∀ align : Fin 10, ∃ t, exec (.ethLinkUp n align) s = .next t ∧ (t.ethPort n).up = true ∧
        t.flag ((F.irqStat (pageBase .eth n)).bit 0) = true ∧ (s.flag (R.ETH_CTL_IF n) = true → t.get (R.ETH_ALIGN_ALIGN n) = align) ∧
        s.sameElse t [R.ETH_ALIGN_ALIGN n, (F.irqStat (pageBase .eth n)).bit 0] ∧ t.log = s.log ∧ t.time = s.time ∧ s.sameMemory t)) ∧
    ((s.ethPort n).up = true →
      ∃ t, exec (.ethLinkDown n) s = .next t ∧ (t.ethPort n).up = false ∧ t.flag ((F.irqStat (pageBase .eth n)).bit 1) = true ∧
        s.sameElse t [(F.irqStat (pageBase .eth n)).bit 1] ∧ t.log = s.log ∧ t.time = s.time ∧ s.sameMemory t)

/-- R354, R365, R366, R370 to R372: the decision of a pulse is taken when the later of its current results arrives, whether a result or
the deadline asks, if that is within 2 µs of the pulse; otherwise the deadline takes it 2 µs after the pulse, MISS counts, and the fourth
miss in a row is fault 5, which a drive in SHORT records and takes at its end. CATCH_T leads to RUN at a caught speed with plausible flux, to RUN in Hall mode or ALIGN when the rotor stands,
else to a further catch, and the third that fails is fault 4; without voltage measurement Arc's speed is taken. ALIGN_T leads to RUN with the flux at PSI along phase U; the
V0 hold to IDLE or, reversing, to ALIGN; the position window to DECEL, or to COAST on a bus with a chopper fault, and a stow that is due is done; low currents out of SHORT once the
bus is below VSHORT, to IDLE, or to FAULT where one stands or was recorded meanwhile; a stow that runs out of time has failed. In another state, or with a
safety stop where the rule names one, the command does nothing. A timeout acts within the TIME clock after its time has passed (R9, log
entry 2). -/
def Obligations.DriveEvents : Prop :=
  ∀ (s : State) (d : Fin 3), s.alive = true →
    (∀ u, (s.drvSt d).pulseUp = some u →
      (s.drvInTime d u = true → ∀ c ∈ [Instr.driveDecision d, .decisionDeadline d],
        ∃ t, exec c s = .next t ∧ (t.drvSt d).pulseUp = none ∧ (t.drvSt d).misses = 0 ∧ t.time.up = (s.advUp (s.drvArrives d)).time.up ∧
          (t.drvSt d).lastUp = some t.time.up ∧ t.get (R.MD_VBUS d) = s.get (R.BRK_VBUS (s.get (R.MD_CFG_BUS d))) ∧
          t.get (R.MD_VEC_MISS d) = s.get (R.MD_VEC_MISS d) ∧
          (s.drvState d = dCATCH → s.drvStopped d = false → (t.drvSt d).vec = 8) ∧ s.sameMemory t) ∧
      (s.drvInTime d u = false → exec (.driveDecision d) s = .next s ∧
        ∃ t, exec (.decisionDeadline d) s = .next t ∧ (t.drvSt d).pulseUp = none ∧
          (t.drvSt d).misses = (if 3 ≤ (s.drvSt d).misses then 0 else (s.drvSt d).misses + 1) ∧
          t.get (R.MD_VEC_MISS d) = (s.get (R.MD_VEC_MISS d) + 1) % 256 ∧ t.time.up = (s.advUp (u + 8000)).time.up ∧
          (t.drvSt d).lastUp = some t.time.up ∧ s.sameMemory t ∧
          (3 ≤ (s.drvSt d).misses → s.drvState d ≠ dOFF → s.drvState d ≠ dSHORT → s.drvState d ≠ dFAULT →
            t.drvState d = dFAULT ∧ t.get (R.MD_STAT_FCAUSE d) = 5 ∧ t.flag (R.MD_STAT_FAULT d) = true) ∧
          (3 ≤ (s.drvSt d).misses → s.drvState d = dSHORT → t.drvState d = dSHORT ∧ t.get (R.MD_STAT_FCAUSE d) = 5 ∧
            (t.drvSt d).pending = 5))) ∧
    ((s.drvSt d).pulseUp = none → ∀ c ∈ [Instr.driveDecision d, .decisionDeadline d], exec c s = .next s) ∧
    (s.drvState d = dCATCH → s.drvStopped d = false →
      ∃ t, exec (.catchDone d) s = .next t ∧ t.time = (s.advUp ((s.drvSt d).catchUp + s.get (R.MD_TIMES_CATCH_T d) * 4000000)).time ∧
        s.sameMemory t ∧
        (s.flag (R.MD_CFG_VMEAS d) = true → t.get (R.MD_SPEED d) = s.get (R.MD_SPEED d)) ∧
        (s.flag (R.MD_CFG_VMEAS d) = false → t.getI (R.MD_SPEED d) = fmtS 32 8
          ((s.advUp ((s.drvSt d).catchUp + s.get (R.MD_TIMES_CATCH_T d) * 4000000)).arcRpm d)) ∧
        (absR (t.drvRpm d) < s.spdMin d → s.flag (R.MD_CFG_HALL d) = true →
          t.drvState d = dRUN ∧ t.flag (R.MD_STAT_HALLMODE d) = true ∧ (t.drvSt d).wRef = 0) ∧
        (absR (t.drvRpm d) < s.spdMin d → s.flag (R.MD_CFG_HALL d) = false → t.drvState d = dALIGN ∧ (t.drvSt d).alignUp = t.time.up) ∧
        (s.spdMin d ≤ absR (t.drvRpm d) →
          s.flag (R.MD_CFG_VMEAS d) = false ∨
            (s.psiRef d / 2 ≤ ofFmt 24 (s.getI (R.MD_FLUX d)) ∧ ofFmt 24 (s.getI (R.MD_FLUX d)) ≤ 3 / 2 * s.psiRef d) →
          t.drvState d = dRUN ∧ (t.drvSt d).wRef = t.drvRpm d) ∧
        (s.spdMin d ≤ absR (t.drvRpm d) → s.flag (R.MD_CFG_VMEAS d) = true →
          ofFmt 24 (s.getI (R.MD_FLUX d)) < s.psiRef d / 2 ∨ 3 / 2 * s.psiRef d < ofFmt 24 (s.getI (R.MD_FLUX d)) →
          ((s.drvSt d).catches < 2 → t.drvState d = dCATCH ∧ (t.drvSt d).catches = (s.drvSt d).catches + 1 ∧
            (t.drvSt d).catchUp = t.time.up ∧ t.regs = s.regs ∧ t.log = s.log) ∧
          (2 ≤ (s.drvSt d).catches → t.drvState d = dFAULT ∧ t.get (R.MD_STAT_FCAUSE d) = 4))) ∧
    (s.drvState d ≠ dCATCH ∨ s.drvStopped d = true → exec (.catchDone d) s = .next s) ∧
    (s.drvState d = dALIGN → s.drvStopped d = false →
      ∃ t, exec (.alignDone d) s = .next t ∧ t.drvState d = dRUN ∧ (t.drvSt d).wRef = 0 ∧
        (t.drvSt d).dir = (s.getI (R.MD_SPD_TGT d)).sign ∧
        (t.drvSt d).theta = 0 ∧ t.getI (R.MD_FLUX d) = fmtS 32 24 (s.psiRef0 d) ∧
        t.time = (s.advUp ((s.drvSt d).alignUp + s.get (R.MD_TIMES_ALIGN_T d) * 4000000)).time ∧ s.sameMemory t) ∧
    (s.drvState d ≠ dALIGN ∨ s.drvStopped d = true → exec (.alignDone d) s = .next s) ∧
    (∀ u, (s.drvSt d).holdUp = some u → s.drvState d = dDECEL ∨ (s.drvState d = dRUN ∧ (s.drvSt d).reversing = true) →
      ∃ t, exec (.stopHoldDone d) s = .next t ∧ t.drvState d = (if s.drvState d = dDECEL then dIDLE else dALIGN) ∧
        t.time = (s.advUp (u + s.get (R.MD_TIMES_REV_T d) * 4000000)).time ∧ (t.drvSt d).holdUp = none ∧ s.sameMemory t) ∧
    (∀ u, (s.drvSt d).posUp = some u → s.drvState d = dRUN →
      ∃ t, exec (.positionReached d) s = .next t ∧ t.drvState d = (if s.busFaulty d then dCOAST else dDECEL) ∧ (t.drvSt d).posUp = none ∧
        t.time = (s.advUp (u + 400000000)).time ∧ (t.drvSt d).stowUp = none ∧
        ((s.drvSt d).stowUp ≠ none → t.flag (R.MD_STAT_STOWED d) = true) ∧ s.sameMemory t) ∧
    (∀ u, (s.drvSt d).stowUp = some u →
      ∃ t, exec (.stowDone d) s = .next t ∧ (t.drvSt d).stowUp = none ∧ t.flag (R.MD_STAT_STOW_FAIL d) = true ∧
        t.flag ((F.irqStat (pageBase .md d)).bit 4) = true ∧
        t.time = (s.advUp (u + s.get (R.MD_POSCFG_STOW_TO d) * 40000000000)).idle.time ∧ t.drvState d = s.drvState d ∧
        s.sameElse t [R.MD_STAT_STOW_FAIL d, (F.irqStat (pageBase .md d)).bit 4] ∧ s.sameMemory t) ∧
    (∀ u, (s.drvSt d).lowUp = some u → s.drvState d = dSHORT →
      (s.getI (R.BRK_VBUS (s.get (R.MD_CFG_BUS d))) < (s.get (R.BRK_THR2_VSHORT (s.get (R.MD_CFG_BUS d))) : Int) * 4096 →
        ∃ t, exec (.shortEnd d) s = .next t ∧ t.drvState d = (if s.flag (R.MD_STAT_FAULT d) = false ∧ (s.drvSt d).pending = 0 then dIDLE else dFAULT) ∧
          ((s.drvSt d).pending ≠ 0 → t.flag (R.MD_STAT_FAULT d) = true ∧ (t.drvSt d).pending = 0) ∧
          t.flag (R.MD_STAT_SHORTED d) = true ∧ t.time = (s.advUp (u + 400000000)).time ∧ s.sameMemory t) ∧
      ((s.get (R.BRK_THR2_VSHORT (s.get (R.MD_CFG_BUS d))) : Int) * 4096 ≤ s.getI (R.BRK_VBUS (s.get (R.MD_CFG_BUS d))) →
        exec (.shortEnd d) s = .next s))

/-- R368 to R370: a chopper that is enabled and not latched is requested on above VON and off below VOFF and holds between them, else off;
a bus above VSHORT shows OVERV and takes its enabled drives to SHORT. Current absent CHK_T after a request on latches OPEN, present after
one off STUCK, whether or not the chopper is enabled (the model's reading, log entry 265); either takes the request off, and the bus's drives in DECEL coast. R374 to R377, R388: a new Hall code of an enabled
channel is taken with its sector by Arc, and by Chord through its own receivers; 0 and 7 and a change by three sectors set HALLERR and
count nothing; one sector forward counts one up (down with DIR 1), with the revolutions. An index edge latches POS and REV; with HOMEARM
it sets POS to HOME_POS and REV to 0, homes and aligns the channel; a homed channel with IDXEN is checked: an error of one or two counts
is corrected, a larger one sets SENSOR. A timeout acts within the TIME clock after its time has passed (R9, log entry 2). -/
def Obligations.ChoppersAndPosition : Prop :=
  (∀ (s : State) (k : Fin 2), s.alive = true →
     (∃ t, exec (.chopperUpdate k) s = .next t ∧ t.time = s.time ∧ s.sameMemory t ∧
       t.getI (R.BRK_VBUS k) = fmtS 32 16 ((s.slotCode (s.get (R.BRK_CFG_VSLOT k)) : Rat) * s.get (R.BRK_KV k) / 2 ^ 24) ∧
       t.flag (R.BRK_STAT_OVERV k) = decide ((s.get (R.BRK_THR2_VSHORT k) : Int) * 4096 < t.getI (R.BRK_VBUS k)) ∧
       (s.flag (R.BRK_CFG_EN k) = false ∨ s.brkLatched k = true → t.flag (R.BRK_STAT_ON k) = false) ∧
       (s.flag (R.BRK_CFG_EN k) = true → s.brkLatched k = false →
         t.flag (R.BRK_STAT_ON k) = (if (s.get (R.BRK_THR_VON k) : Int) * 4096 < t.getI (R.BRK_VBUS k) then true
           else if t.getI (R.BRK_VBUS k) < (s.get (R.BRK_THR_VOFF k) : Int) * 4096 then false else s.flag (R.BRK_STAT_ON k))) ∧
       ∀ d : Fin 3, t.flag (R.BRK_STAT_OVERV k) = true → s.flag (R.MD_CFG_EN d) = true → s.get (R.MD_CFG_BUS d) = k → s.drvState d ≠ dOFF →
         s.drvStopped d = false → t.drvState d = dSHORT) ∧
     ((s.brkSt k).present ≠ s.flag (R.BRK_STAT_ON k) → s.flag (if s.flag (R.BRK_STAT_ON k) then R.BRK_STAT_OPEN k else R.BRK_STAT_STUCK k) = false →
       ∃ t, exec (.brkFault k) s = .next t ∧ t.flag (if s.flag (R.BRK_STAT_ON k) then R.BRK_STAT_OPEN k else R.BRK_STAT_STUCK k) = true ∧
         t.flag (R.BRK_STAT_ON k) = false ∧ t.flag ((F.irqStat (pageBase .brk 0)).bit k) = true ∧
         t.time = (s.advUp (max (s.brkSt k).reqUp (s.brkSt k).curUp + s.get (R.BRK_THR2_CHK_T k) * 400)).idle.time ∧ s.sameMemory t ∧
         ∀ d : Fin 3, s.get (R.MD_CFG_BUS d) = k → t.drvState d = (if s.drvState d = dDECEL then dCOAST else s.drvState d)) ∧
     ((s.brkSt k).present = s.flag (R.BRK_STAT_ON k) ∨ s.flag (if s.flag (R.BRK_STAT_ON k) then R.BRK_STAT_OPEN k else R.BRK_STAT_STUCK k) = true →
       exec (.brkFault k) s = .next s)) ∧
  (∀ (s : State) (a : Fin 3), s.alive = true →
     (∀ (code : Fin 8) (rx : BitVec 2),
       ∃ t, exec (.hallChange a code rx) s = .next t ∧ t.time = s.time ∧ s.sameMemory t ∧
         (rx.getLsbD 1 = true → (t.chordSt a).sector = hallSector code ∧ (hallSector code = 7 → (t.chordSt a).hallFault = true)) ∧
         (rx.getLsbD 1 = false → (t.chordSt a).sector = (s.chordSt a).sector ∧ (t.chordSt a).xb = (s.chordSt a).xb) ∧
         (rx.getLsbD 0 = false ∨ s.flag (R.ARC_CFG_EN a) = false ∨ s.get (R.ARC_CODE_CODE a) = code → t.regs = s.regs ∧ t.log = s.log) ∧
         (rx.getLsbD 0 = true → s.flag (R.ARC_CFG_EN a) = true → s.get (R.ARC_CODE_CODE a) ≠ code →
           t.get (R.ARC_CODE_CODE a) = code ∧ t.get (R.ARC_STAT_SECTOR a) = hallSector code ∧
           (hallSector code = 7 ∨ (s.get (R.ARC_STAT_SECTOR a) < 6 ∧ hallSector code = (s.get (R.ARC_STAT_SECTOR a) + 3) % 6) →
             t.flag (R.ARC_STAT_HALLERR a) = true ∧ t.get (R.ARC_POS_POS a) = s.get (R.ARC_POS_POS a) ∧ t.get (R.ARC_REV a) = s.get (R.ARC_REV a) ∧
             (s.flag (R.MD_STAT_HALLMODE a) = true → s.drvState a = dRUN ∨ s.drvState a = dDECEL →
               t.drvState a = dFAULT ∧ t.get (R.MD_STAT_FCAUSE a) = 3)) ∧
           (s.get (R.ARC_STAT_SECTOR a) < 6 → hallSector code < 6 → 0 < s.get (R.ARC_CFG_PPR a) →
             (hallSector code = (s.get (R.ARC_STAT_SECTOR a) + (if s.flag (R.ARC_CFG_DIR a) then 5 else 1)) % 6 →
               t.get (R.ARC_POS_POS a) = (s.get (R.ARC_POS_POS a) + 1) % s.get (R.ARC_CFG_PPR a) ∧
               t.get (R.ARC_REV a) = (s.get (R.ARC_REV a) + (s.get (R.ARC_POS_POS a) + 1) / s.get (R.ARC_CFG_PPR a)) % 2 ^ 32) ∧
             (hallSector code = (s.get (R.ARC_STAT_SECTOR a) + (if s.flag (R.ARC_CFG_DIR a) then 1 else 5)) % 6 →
               (s.get (R.ARC_POS_POS a) = 0 → t.get (R.ARC_POS_POS a) = s.get (R.ARC_CFG_PPR a) - 1 ∧
                 t.get (R.ARC_REV a) = (s.get (R.ARC_REV a) + (2 ^ 32 - 1)) % 2 ^ 32) ∧
               (0 < s.get (R.ARC_POS_POS a) → s.get (R.ARC_POS_POS a) ≤ s.get (R.ARC_CFG_PPR a) →
                 t.get (R.ARC_POS_POS a) = s.get (R.ARC_POS_POS a) - 1 ∧ t.get (R.ARC_REV a) = s.get (R.ARC_REV a)))))) ∧
     (s.flag (R.ARC_CFG_EN a) = false → exec (.indexEdge a) s = .next s) ∧
     (s.flag (R.ARC_CFG_EN a) = true →
       ∃ t, exec (.indexEdge a) s = .next t ∧ t.get (R.ARC_LATCH_POS a) = s.get (R.ARC_POS_POS a) ∧
         t.get (R.ARC_LATCH_REV a) = s.get (R.ARC_REV a) % 65536 ∧ t.flag (R.ARC_STAT_LVALID a) = true ∧
         t.get (R.ARC_LTS_LO a) = stampOf (clockOf s.time.now) % 2 ^ 32 ∧ t.time = s.time ∧ s.sameMemory t ∧
         (s.flag (R.ARC_STAT_HOMEARM a) = true → t.get (R.ARC_POS_POS a) = s.get (R.ARC_HOME_HOME_POS a) ∧ t.get (R.ARC_REV a) = 0 ∧
           t.flag (R.ARC_STAT_HOMED a) = true ∧ t.flag (R.ARC_STAT_SENSOR a) = false ∧ t.flag (R.ARC_STAT_HOMEARM a) = false ∧
           t.flag (R.SDRV_STAT_ALIGNED a) = true) ∧
         (s.flag (R.ARC_STAT_HOMEARM a) = false →
           (s.flag (R.ARC_CFG_IDXEN a) = false ∨ s.flag (R.ARC_STAT_HOMED a) = false ∨ s.flag (R.ARC_STAT_SENSOR a) = true →
             t.get (R.ARC_POS_POS a) = s.get (R.ARC_POS_POS a) ∧ t.get (R.ARC_REV a) = s.get (R.ARC_REV a) ∧ t.log = s.log) ∧
           (s.flag (R.ARC_CFG_IDXEN a) = true → s.flag (R.ARC_STAT_HOMED a) = true → s.flag (R.ARC_STAT_SENSOR a) = false →
             ∀ e : Int, ((s.get (R.ARC_POS_POS a) : Int) - s.get (R.ARC_IDX_IDX_POS a) + (s.get (R.ARC_CFG_PPR a) : Int) / 2) %
                 (s.get (R.ARC_CFG_PPR a) : Int) - (s.get (R.ARC_CFG_PPR a) : Int) / 2 = e →
               (e = 0 → t.get (R.ARC_POS_POS a) = s.get (R.ARC_POS_POS a) ∧ t.flag (R.ARC_STAT_SENSOR a) = false ∧ t.log = s.log) ∧
               (e ≠ 0 → e.natAbs ≤ 2 → 0 < s.get (R.ARC_CFG_PPR a) →
                 (t.get (R.ARC_POS_POS a) : Int) = (s.get (R.ARC_POS_POS a) - e) % (s.get (R.ARC_CFG_PPR a) : Int) ∧
                 t.flag (R.ARC_STAT_CORR a) = true ∧ t.flag (R.ARC_STAT_SENSOR a) = false) ∧
               (2 < e.natAbs → t.get (R.ARC_POS_POS a) = s.get (R.ARC_POS_POS a) ∧ t.flag (R.ARC_STAT_SENSOR a) = true)))))

/-- R383 to R387, R404, R406: Secant and Chord. A Secant cycle ends 250 µs after it began, and the demands found from what was taken at
its start act then, plant safe state and drive stops; the next begins and takes the feedbacks and the written parameters in both channels'
copies; the injections asked for are raised; a Chord evaluation takes the feedbacks, and a pair with PLANT that it newly finds in demand
latches the plant safe state. A SIN level that holds is taken by the receiver named, Secant's or Chord's; a pair is in demand when either
channel finds it so, and a channel whose two inputs differ times the discrepancy: one that lasts DISC latches DISCF for both and demands.
A connection whose watchdog expires in RUN is FAILED; a frame is sent every TXPER ms with the next sequence, and one that its ring does
not take is dropped. A timeout acts within the TIME clock after its time has passed (R9, log entry 2). -/
def Obligations.SafetyCycles : Prop :=
  ∀ s : State, s.alive = true →
    (∀ sfb : BitVec 4, ∃ t, exec (.secantCycle sfb) s = .next t ∧ t.get R.SAFE_OUT_STAT_SFB = sfb.toNat ∧
      t.time.up = (s.advUp (s.safe.cycleUp + 1000000)).time.up ∧ t.safe.beatUp = t.safe.cycleUp ∧ t.time.up = t.safe.cycleUp ∧
      t.safe.demA = s.safe.nextA ∧ (newBits s.safe.nextA s.safe.demA % 2 ^ 16 ≠ 0 → t.flag R.SAFE_STAT_PSAFE = true) ∧
      (∀ d : Fin 3, newBits s.safe.nextA s.safe.demA / 2 ^ (16 + 8 * d.val) % 64 ≠ 0 → t.flag (R.SDRV_STAT_DSTOP d) = true) ∧
      t.safe.xinj = false ∧ t.safe.oinj = false ∧ (s.safe.xinj = true → (t.get R.SAFE_FAULT_FAULT).testBit 0 = true) ∧
      (s.safe.oinj = true → (t.get R.SAFE_FAULT_FAULT).testBit 3 = true) ∧
      (s.sys.upsets = [] → t.safe.par = s.safeWords ∧ t.safe.parB = s.chordWords) ∧ s.sameMemory t) ∧
    (∀ sfb : BitVec 4, ∃ t, exec (.chordEvaluation sfb) s = .next t ∧ t.get R.SAFE_OUT_STAT_SFB = sfb.toNat ∧ t.time = s.time ∧
      s.sameMemory t ∧
      ∀ x : Fin 8, s.pairOn true x R.SIN_CFG_PLANT = true → s.safe.demB.testBit x = false →
        t.flag R.SAFE_STAT_PSAFE = true ∧ (t.get R.SAFE_CAUSE_CAUSE).testBit x = true) ∧
    (∀ (x : Fin 8) (b level : Bool) (rx : BitVec 2), ∃ t, exec (.sinLevelChange x b level rx) s = .next t ∧
      t.flag (if b then R.SIN_STAT_B x else R.SIN_STAT_A x) =
        (if rx.getLsbD 0 then level else s.flag (if b then R.SIN_STAT_B x else R.SIN_STAT_A x)) ∧
      t.sinLevel true x b = (if rx.getLsbD 1 then level else s.sinLevel true x b) ∧
      t.flag (R.SIN_STAT_DEMAND x) = (t.pairDemand false x || t.pairDemand true x) ∧
      (s.flag (R.SIN_STAT_DISCF x) = false → ∀ chord : Bool, Tab.get noStart t.safe.discUp (pairIx chord x) =
        if (t.inDemandOf chord x).1 = (t.inDemandOf chord x).2 then none
        else some ((Tab.get noStart s.safe.discUp (pairIx chord x)).getD s.time.up)) ∧
      s.sameElse t [R.SIN_STAT_A x, R.SIN_STAT_B x, R.SIN_STAT_DEMAND x, R.SIN_STAT_DISCF x] ∧
      t.log = s.log ∧ t.time = s.time ∧ s.sameMemory t) ∧
    (∀ x : Fin 8,
      (∀ u, earliest (s.discDue x true) (s.discDue x false) = some u →
        ∃ t, exec (.discrepancy x) s = .next t ∧ t.flag (R.SIN_STAT_DISCF x) = true ∧ t.flag (R.SIN_STAT_DEMAND x) = true ∧
          (∀ chord : Bool, Tab.get noStart t.safe.discUp (pairIx chord x) = none) ∧ t.time = (s.advUp u).idle.time ∧
          s.sameElse t [R.SIN_STAT_DISCF x, R.SIN_STAT_DEMAND x] ∧ s.sameMemory t) ∧
      (earliest (s.discDue x true) (s.discDue x false) = none → exec (.discrepancy x) s = .next s)) ∧
    (∀ c : Fin 2,
      (∀ u, (s.connSt c).wdUp = some u → s.get (R.SCONN_STAT_STATE c) = 2 →
        ∃ t, exec (.connFail c) s = .next t ∧ t.get (R.SCONN_STAT_STATE c) = 3 ∧ (t.connSt c).wdUp = none ∧
          t.time = (s.advUp u).idle.time ∧ s.Logged t (s.advUp u).time.now 1 63 0x905 (c.val + 2) ∧
          s.sameElse t [R.SCONN_STAT_STATE c] ∧ s.sameMemory t) ∧
      ((s.connSt c).wdUp = none ∨ s.get (R.SCONN_STAT_STATE c) ≠ 2 → exec (.connFail c) s = .next s) ∧
      (s.get (R.SCONN_STAT_STATE c) = 1 ∨ s.get (R.SCONN_STAT_STATE c) = 2 →
        ∃ t, exec (.safeFrameTx c) s = .next t ∧ t.get (R.SCONN_TXSEQ c) = (s.get (R.SCONN_TXSEQ c) + 1) % 2 ^ 32 ∧
          (t.connSt c).first = false ∧ (t.connSt c).txUp = t.time.up ∧
          t.time = (s.advUp ((s.connSt c).txUp + s.spar (R.SCONN_CFG_TXPER c) * 4000000)).time ∧ t.mram = s.mram ∧
          (s.ringTakes (40 + 2 * c) = true → t.get (R.RING_PIDX (40 + 2 * c)) = (s.get (R.RING_PIDX (40 + 2 * c)) + 1) % 2 ^ 32) ∧
          (s.ringTakes (40 + 2 * c) = false → t.get (R.RING_PIDX (40 + 2 * c)) = s.get (R.RING_PIDX (40 + 2 * c)) ∧ s.sameMemory t)) ∧
      (s.get (R.SCONN_STAT_STATE c) = 0 ∨ s.get (R.SCONN_STAT_STATE c) = 3 → exec (.safeFrameTx c) s = .next s))

/-- R392, R397, R398, R410: a fault of the cluster latches its bit, and the first one the plant safe state, every drive stop and the
interrupt, and no output is permitted under it; a fault that is not found is not latched; the heartbeat's absence for 500 µs raises SECANT_WD and a disagreement of 20 ms
CROSS; a failed readback raises OUTPUT, 300 µs after the output was permitted or 200 µs after it was withdrawn. An output on whose load
still reads safe latches ONFAIL and goes off, one off whose load still reads active WELD; a load that reads as it should latches nothing.
The start-up test runs once: passed, on the built-in program or on a loaded image that is right and was read without a double-bit error, it
gives STARTOK; otherwise it faults. A timeout acts within the TIME clock after its time has passed (R9, log entry 2). -/
def Obligations.SafetyFaults : Prop :=
  ∀ s : State, s.alive = true →
    (∀ bits : BitVec 9,
      ∃ t, exec (.safeFault bits) s = .next t ∧ t.time = s.time ∧ s.sameMemory t ∧
        (∀ b : Fin 9, (t.get R.SAFE_FAULT_FAULT).testBit b = ((s.get R.SAFE_FAULT_FAULT).testBit b || bits.getLsbD b)) ∧
        (s.get R.SAFE_FAULT_FAULT = 0 → bits ≠ 0#9 → t.flag R.SAFE_STAT_PSAFE = true ∧ (∀ d : Fin 3, t.flag (R.SDRV_STAT_DSTOP d) = true) ∧
          t.flag ((F.irqStat (pageBase .safe 0)).bit 2) = true ∧ ∀ x : Fin 4, t.outOn x = false)) ∧
    (∃ t, exec .secantWd s = .next t ∧ (t.get R.SAFE_FAULT_FAULT).testBit 1 = true ∧
      t.time = (s.advUp (s.safe.beatUp + 2000000)).idle.time ∧ s.sameMemory t) ∧
    (∀ u, s.safe.crossUp = some u →
      ∃ t, exec .crossTimeout s = .next t ∧ (t.get R.SAFE_FAULT_FAULT).testBit 0 = true ∧ t.time = (s.advUp (u + 80000000)).idle.time ∧
        s.sameMemory t) ∧
    (s.safe.crossUp = none → exec .crossTimeout s = .next s) ∧
    (∀ x : Fin 4,
      (∃ t, exec (.outputReadbackFault x) s = .next t ∧ (t.get R.SAFE_FAULT_FAULT).testBit 3 = true ∧
        ((s.get R.SAFE_FAULT_FAULT).testBit 3 = false → t.flag ((F.irqStat (pageBase .safe 0)).bit 3) = true) ∧
        t.time = (s.advUp (s.outUp x + if s.outOn x then 1200000 else 800000)).time ∧ s.sameMemory t) ∧
      (s.outOn x = true → s.fbChecked x = true → ∀ sfb : Bool,
        ∃ t, exec (.onfail x sfb) s = .next t ∧ t.time = (s.advUp (s.outUp x + s.spar R.SAFE_OUT_CFG_FB_T * 4000000)).time ∧
          t.flag (R.SAFE_OUT_STAT_SFB.bit x) = sfb ∧ s.sameMemory t ∧
          (sfb = true → t.onfail x = true ∧ t.outOn x = false ∧ t.flag ((F.irqStat (pageBase .safe 0)).bit 3) = true) ∧
          (sfb = false → s.sameElse t [R.SAFE_OUT_STAT_SFB.bit x] ∧ t.log = s.log)) ∧
      (s.outOn x = false ∨ s.fbChecked x = false → ∀ sfb : Bool, exec (.onfail x sfb) s = .next s) ∧
      (s.outOn x = false → s.fbChecked x = true → s.welded x = false → ∀ sfb : Bool,
        ∃ t, exec (.weld x sfb) s = .next t ∧ t.time = (s.advUp (s.outUp x + s.spar R.SAFE_OUT_CFG_FB_T * 4000000)).time ∧
          t.flag (R.SAFE_OUT_STAT_SFB.bit x) = sfb ∧ s.sameMemory t ∧
          (sfb = false → t.welded x = true ∧ t.flag ((F.irqStat (pageBase .safe 0)).bit 3) = true) ∧
          (sfb = true → s.sameElse t [R.SAFE_OUT_STAT_SFB.bit x] ∧ t.log = s.log)) ∧
      (s.outOn x = true ∨ s.fbChecked x = false ∨ s.welded x = true → ∀ sfb : Bool, exec (.weld x sfb) s = .next s)) ∧
    (∀ pass imageOk erased : Bool, s.flag R.SAFE_MRAM_BUILTIN = erased → s.startJudged = false →
      ∃ t, exec (.safeStartupTest pass imageOk) s = .next t ∧ t.time = s.time ∧ s.sameMemory t ∧
        t.flag R.SAFE_MRAM_BUILTIN = erased ∧ t.flag R.SAFE_MRAM_LOADED = (!erased && imageOk && !s.safe.badLoad) ∧
        t.safe.imem = s.safe.imem ∧
        (pass = true → erased = true ∨ (imageOk = true ∧ s.safe.badLoad = false) →
          t.flag R.SAFE_STAT_STARTOK = true ∧ t.get R.SAFE_FAULT_FAULT = s.get R.SAFE_FAULT_FAULT) ∧
        (erased = false → imageOk = false ∨ s.safe.badLoad = true → (t.get R.SAFE_FAULT_FAULT).testBit 6 = true) ∧
        (pass = false ∨ (erased = false ∧ (imageOk = false ∨ s.safe.badLoad = true)) →
          (t.get R.SAFE_FAULT_FAULT).testBit 8 = true ∧ t.flag R.SAFE_STAT_STARTOK = false)) ∧
    (s.startJudged = true → ∀ pass imageOk : Bool, exec (.safeStartupTest pass imageOk) s = .next s)

/-- R417 to R419: harvesting and the cell. Samples come every 250 ms; HPRES rises after DAWN_T at or above HV_ON and falls after DUSK_T
below HV_OFF; two measurements at or above 3850 mV set PGOOD while harvesting and two below 3300 mV clear it, two below 3200 mV set CUT
and two at or above 3300 mV clear it; ESTORE follows; the charger goes from PRE to CC at 3.00 V, to CV at its voltage, to DONE below its
current, and charges again 100 mV lower (its current is at most what it delivers in its state, which the measurement tells); the comparator opens the switch at once and stops the charger; CHG_TO without DONE is a charger
fault. R422, R423, R433: the real-time clock adds one to its seconds at the end of each and trims the next by one KEEP clock when the
accumulated trim reaches 1024; under TLOCK it realigns to the whole second and, after 1024 s, learns TRIM; the temperature is kept and a cycle
counted when it has been below CYC_LO and rises above CYC_HI. Without VKEEP nothing of this happens. -/
def Obligations.HarvestAndClock : Prop :=
  (∀ s : State, s.org.vkeep = true →
     (∀ v : Fin 65536, ∃ t, exec (.harvestSample v) s = .next t ∧ t.get R.ORIGIN_VMEAS_VHARV = v ∧ t.org.harvUp = t.time.up ∧
       t.time = (s.advUp (s.org.harvUp + 1000000000)).time ∧
       t.org.onUp = (if s.get R.ORIGIN_HARV_HV_ON * 100 ≤ v.val then some (s.org.onUp.getD t.time.up) else none) ∧
       t.org.offUp = (if v.val < s.get R.ORIGIN_HARV_HV_OFF * 100 then some (s.org.offUp.getD t.time.up) else none) ∧
       s.sameElse t [R.ORIGIN_VMEAS_VHARV] ∧ t.log = s.log ∧ s.sameMemory t) ∧
     (∀ u, s.flag R.ORIGIN_STAT_HPRES = false → s.org.onUp = some u →
       ∃ t, exec .harvest s = .next t ∧ t.flag R.ORIGIN_STAT_HPRES = true ∧ t.flag R.ORIGIN_STAT_CELLON = true ∧
         (t.get R.ORIGIN_STAT_CHGSTATE = 0 ∨ t.get R.ORIGIN_STAT_CHGSTATE = 1 ∨ t.get R.ORIGIN_STAT_CHGSTATE = 2) ∧
         t.time = (s.advUp (u + s.get R.ORIGIN_HARV_DAWN_T * 4000000000)).time ∧ s.sameMemory t) ∧
     (∀ u, s.flag R.ORIGIN_STAT_HPRES = true → s.org.offUp = some u →
       ∃ t, exec .harvest s = .next t ∧ t.flag R.ORIGIN_STAT_HPRES = false ∧
         t.get R.ORIGIN_STAT_CHGSTATE = (if s.get R.ORIGIN_STAT_CHGSTATE = 5 then 5 else 0) ∧
         t.time = (s.advUp (u + s.get R.ORIGIN_HARV_DUSK_T * 4000000000)).time ∧ s.sameMemory t) ∧
     ((if s.flag R.ORIGIN_STAT_HPRES then s.org.offUp else s.org.onUp) = none → exec .harvest s = .next s) ∧
     (∀ (v : Fin 65536) (icell : Nat), ∃ t, exec (.cellMeasurement v icell) s = .next t ∧ t.get R.ORIGIN_VMEAS_VCELL = v ∧
       t.get R.ORIGIN_ESTORE = min (s.get R.ORIGIN_STORE_CAP * 100000 * (v.val - 3000) / 850) (2 ^ 32 - 1) ∧
       t.org.prevCell = v ∧ t.time = (s.advUp (s.org.cellUp + 1000000000)).time ∧ s.sameMemory t ∧
       (s.flag R.ORIGIN_STAT_HPRES = true → t.flag R.ORIGIN_STAT_CELLON = true) ∧
       (3850 ≤ v.val → 3850 ≤ s.org.prevCell → s.flag R.ORIGIN_STAT_HPRES = true → t.flag R.ORIGIN_STAT_PGOOD = true) ∧
       (v.val < 3300 → s.org.prevCell < 3300 → t.flag R.ORIGIN_STAT_PGOOD = false) ∧
       (3300 ≤ v.val ∨ 3300 ≤ s.org.prevCell → v.val < 3850 ∨ s.org.prevCell < 3850 ∨ s.flag R.ORIGIN_STAT_HPRES = false →
         t.flag R.ORIGIN_STAT_PGOOD = s.flag R.ORIGIN_STAT_PGOOD) ∧
       (v.val < 3200 → s.org.prevCell < 3200 → t.flag R.ORIGIN_STAT_CUT = true) ∧
       (3300 ≤ v.val → 3300 ≤ s.org.prevCell → t.flag R.ORIGIN_STAT_CUT = false) ∧
       (s.chargeOk = true →
         (s.get R.ORIGIN_STAT_CHGSTATE = 0 → t.get R.ORIGIN_STAT_CHGSTATE = if v.val < 3000 ∨ s.org.cellOpened = true then 1 else 2) ∧
         (s.get R.ORIGIN_STAT_CHGSTATE = 1 → t.get R.ORIGIN_STAT_CHGSTATE = if 3000 ≤ v.val then 2 else 1) ∧
         (s.get R.ORIGIN_STAT_CHGSTATE = 2 → t.get R.ORIGIN_STAT_CHGSTATE = if s.vchg ≤ v.val then 3 else 2) ∧
         (s.get R.ORIGIN_STAT_CHGSTATE = 3 → t.get R.ORIGIN_STAT_CHGSTATE = if 10 * icell < s.get R.ORIGIN_CHG_ICHG then 4 else 3) ∧
         (s.get R.ORIGIN_STAT_CHGSTATE = 4 → t.get R.ORIGIN_STAT_CHGSTATE = if v.val < s.vchg - 100 then 2 else 4)) ∧
       (s.flag R.ORIGIN_STAT_HPRES = false ∨ s.flag R.ORIGIN_CHG_EN = false →
         t.get R.ORIGIN_STAT_CHGSTATE = if s.get R.ORIGIN_STAT_CHGSTATE = 5 then 5 else 0)) ∧
     (∃ t, exec .cellDisconnect s = .next t ∧ t.flag R.ORIGIN_STAT_CELLON = false ∧ t.org.cellOpened = true ∧
       t.get R.ORIGIN_STAT_CHGSTATE = (if s.get R.ORIGIN_STAT_CHGSTATE = 5 then 5 else 0) ∧
       s.sameElse t [R.ORIGIN_STAT_CELLON, R.ORIGIN_STAT_CHGSTATE] ∧ t.log = s.log ∧ t.time = s.time ∧ s.sameMemory t) ∧
     (1 ≤ s.get R.ORIGIN_STAT_CHGSTATE → s.get R.ORIGIN_STAT_CHGSTATE ≤ 3 →
       ∃ t, exec .chgFault s = .next t ∧ t.get R.ORIGIN_STAT_CHGSTATE = 5 ∧
         t.time = (s.advUp (s.org.chgUp + s.get R.ORIGIN_CHG_CHG_TO * 14400000000000)).idle.time ∧ s.sameMemory t) ∧
     (s.get R.ORIGIN_STAT_CHGSTATE = 0 ∨ 3 < s.get R.ORIGIN_STAT_CHGSTATE → exec .chgFault s = .next s)) ∧
  (∀ s : State, s.org.vkeep = true →
     (∃ t, exec .rtcSecond s = .next t ∧ t.get R.ORIGIN_RTC_SEC + t.get R.ORIGIN_RTC_SECH_SECH * 2 ^ 32 = (s.rtcSec + 1) % 2 ^ 48 ∧
       t.time = (s.advUp (s.org.rtcUp + s.org.secLen * 1953125 / 16)).time ∧ t.org.rtcUp = t.time.up ∧ t.log = s.log ∧ s.sameMemory t ∧
       s.sameElse t [R.ORIGIN_RTC_SEC, R.ORIGIN_RTC_SECH_SECH] ∧
       (1024 ≤ s.org.ta + s.getI R.ORIGIN_RTC_TRIM → t.org.secLen = 32769 ∧ t.org.ta = s.org.ta + s.getI R.ORIGIN_RTC_TRIM - 1024) ∧
       (s.org.ta + s.getI R.ORIGIN_RTC_TRIM ≤ -1024 → t.org.secLen = 32767 ∧ t.org.ta = s.org.ta + s.getI R.ORIGIN_RTC_TRIM + 1024) ∧
       (-1024 < s.org.ta + s.getI R.ORIGIN_RTC_TRIM → s.org.ta + s.getI R.ORIGIN_RTC_TRIM < 1024 →
         t.org.secLen = 32768 ∧ t.org.ta = s.org.ta + s.getI R.ORIGIN_RTC_TRIM)) ∧
     (s.alive = true → s.time.run = true → s.tlock = true →
       (∃ t k, exec .rtcRealign s = .next t ∧ t.time = (s.advTo (k * 4000000000)).time ∧ t.rtcSec = k % 2 ^ 48 ∧ s.time.now ≤ k * 4000000000 ∧
         k * 4000000000 < s.time.now + 4000000000 ∧
         t.org.learnFrom = (if s.flag R.ORIGIN_CTL_AUTOTRIM then some (s.org.learnFrom.getD k) else none) ∧ t.flag R.ORIGIN_STAT_RTCVALID = true ∧ t.log = s.log ∧ s.sameMemory t) ∧
       (∀ (k : Nat) (keep : Fin 67108864), s.flag R.ORIGIN_CTL_AUTOTRIM = true → s.org.learnFrom = some k →
         ∃ t, exec (.trimLearn keep) s = .next t ∧ t.getI R.ORIGIN_RTC_TRIM = (keep.val : Int) - 33554432 ∧
           t.flag R.ORIGIN_STAT_TRIMVALID = true ∧ t.time = (s.advTo ((k + 1024) * 4000000000)).time ∧
           t.org.learnFrom = some (t.time.now / 4000000000) ∧ t.log = s.log ∧ s.sameMemory t)) ∧
     (s.alive = false ∨ s.time.run = false ∨ s.tlock = false →
       exec .rtcRealign s = .next s ∧ ∀ keep : Fin 67108864, exec (.trimLearn keep) s = .next s) ∧
     (∀ temp : Int, -128 ≤ temp → temp ≤ 127 → s.flag R.ORIGIN_STAT_CUT = false →
       ∃ t, exec (.tempRead temp) s = .next t ∧ t.getI R.ORIGIN_THERM_TEMP = temp ∧ t.time = s.time ∧ t.log = s.log ∧ s.sameMemory t ∧
         (temp < s.getI R.ORIGIN_THERM_CYC_LO → s.getI R.ORIGIN_THERM_CYC_LO ≤ s.getI R.ORIGIN_THERM_CYC_HI → t.org.cold = true) ∧
         (s.org.cold = true → s.getI R.ORIGIN_THERM_CYC_HI < temp → t.org.cold = false ∧
           t.get R.ORIGIN_LIFE_CYC = min (s.get R.ORIGIN_LIFE_CYC + 1) (2 ^ 32 - 1))) ∧
     (s.flag R.ORIGIN_STAT_CUT = true → ∀ temp : Int, exec (.tempRead temp) s = .next s)) ∧
  (∀ s : State, s.org.vkeep = false → ∀ (v : Fin 65536) (icell : Nat) (temp : Int) (keep : Fin 67108864),
     ∀ c ∈ [Instr.harvestSample v, .harvest, .cellMeasurement v icell, .cellDisconnect, .chgFault, .rtcSecond, .rtcRealign, .trimLearn keep,
       .tempRead temp], exec c s = .next s)

/-- R416, R424 to R428, R431, R433, R460: the checkpoint memory. A staged snapshot is written, with its sequence and the count of writes, to the
next slot of the active record, and no other word changes; after 65,536 commits, or once the record is retired, it goes to both slots of the
next good record, and so it does when the verify fails or the header of the slot holds a double-bit error, which retires the record; a
verify that fails in the next record retires that one. The LIFE record is written each hour in service and, in DARK,
by the hourly burst under the energy gate; a burst that loses its energy completes the words told, and a final one is lost; the Origin domain
can lose VKEEP and power on anew, and stays degraded with fewer than eight records in service; an aging count is reported, and a baseline that
holds a double-bit error is a bus error. -/
def Obligations.CheckpointMemory : Prop :=
  ∀ s : State,
    (∀ c r, s.org.vkeep = true → s.alive = true → s.org.burst = [] → s.org.stage = some c → s.get R.ORIGIN_CKP_STAT_ACTIVE = r →
      (s.get R.ORIGIN_CKP_ACTN < 65536 → s.org.retired.testBit r = false →
        (s.wrongBits 9 (ckAddr r s.nextSlot + 62) ≠ 2 → ∃ t, exec (.checkpointCommit true) s = .next t ∧ t.org.stage = none ∧ t.get R.ORIGIN_CKP_ACTN = s.get R.ORIGIN_CKP_ACTN + 1 ∧
          t.get R.ORIGIN_CKP_SEQ = (s.get R.ORIGIN_CKP_SEQ + 1) % 2 ^ 32 ∧ t.get R.ORIGIN_CKP_STAT_SLOT = s.nextSlot ∧
          t.get R.ORIGIN_CKP_STAT_ACTIVE = r ∧
          (∀ a, t.ckWord a = if ckAddr r s.nextSlot ≤ a ∧ a < ckAddr r s.nextSlot + 64 then
              (ckptWords (c ++ [0, 0, 0]) (s.get R.ORIGIN_CKP_SEQ + 1) (min (ckptCount (s.ckSlot r s.nextSlot) + 1) (2 ^ 31 - 1)) false).getD
                (a - ckAddr r s.nextSlot) 0
            else s.ckWord a) ∧
          t.time = s.time ∧ s.sameMemory t) ∧
        ∀ verified : Bool, (verified = true ↔ s.wrongBits 9 (ckAddr r s.nextSlot + 62) = 2) →
          ∃ t, exec (.checkpointCommit verified) s = .next t ∧ t.org.stage = none ∧ t.org.retired = s.org.retired + 2 ^ r ∧
          t.get R.ORIGIN_CKP_ACTN = 1 ∧ t.get R.ORIGIN_CKP_SEQ = (s.get R.ORIGIN_CKP_SEQ + 1) % 2 ^ 32 ∧ t.get R.ORIGIN_CKP_STAT_SLOT = 1 ∧
          (∀ q : Fin 16, q.val ≠ r → s.org.retired.testBit q = false →
            t.org.retired.testBit (t.get R.ORIGIN_CKP_STAT_ACTIVE) = false) ∧ t.time = s.time ∧ s.sameMemory t) ∧
      (65536 ≤ s.get R.ORIGIN_CKP_ACTN ∨ s.org.retired.testBit r = true → ∀ verified : Bool,
        ∃ t, exec (.checkpointCommit verified) s = .next t ∧ t.org.stage = none ∧
          t.get R.ORIGIN_CKP_ACTN = 1 ∧ t.get R.ORIGIN_CKP_SEQ = (s.get R.ORIGIN_CKP_SEQ + 1) % 2 ^ 32 ∧
          (verified = true → t.org.retired = s.org.retired ∧ t.get R.ORIGIN_CKP_STAT_ACTIVE = s.nextRec r) ∧
          (verified = false → t.org.retired.testBit (s.nextRec r) = true ∧ ∀ q : Fin 16, q.val ≠ s.nextRec r →
            t.org.retired.testBit q = s.org.retired.testBit q ∧
            (s.org.retired.testBit q = false → t.org.retired.testBit (t.get R.ORIGIN_CKP_STAT_ACTIVE) = false)) ∧
          t.get R.ORIGIN_CKP_STAT_SLOT = 1 ∧ t.time = s.time ∧ s.sameMemory t)) ∧
    (s.org.vkeep = false ∨ s.alive = false ∨ s.org.burst ≠ [] ∨ s.org.stage = none → ∀ verified : Bool,
      exec (.checkpointCommit verified) s = .next s) ∧
    (s.org.vkeep = true → s.alive = true →
      ∃ t, exec .lifeWrite s = .next t ∧ t.get R.ORIGIN_DARK = 0 ∧ t.org.lifeB = !s.org.lifeB ∧
        t.get R.ORIGIN_LIFE_ON = (if s.flag R.ORIGIN_STAT_CUT then s.get R.ORIGIN_LIFE_ON else min (s.get R.ORIGIN_LIFE_ON + 1) (2 ^ 32 - 1)) ∧
        (∀ a, a < lifeAddr s.org.lifeB ∨ lifeAddr s.org.lifeB + 8 ≤ a → t.ckWord a = s.ckWord a) ∧
        t.time = (s.advUp (s.org.hourUp + 14400000000000)).time ∧ t.org.hourUp = t.time.up ∧ s.sameMemory t) ∧
    (s.org.vkeep = true → s.rails = false →
      ∃ t, exec .housekeepingBurst s = .next t ∧ t.org.hourUp = t.time.up ∧ t.time = (s.advUp (s.org.hourUp + 14400000000000)).time ∧
        s.sameMemory t ∧
        (s.flag R.ORIGIN_STAT_CUT = true → t.org.burst = [] ∧ t.get R.ORIGIN_LIFE_DARK = s.get R.ORIGIN_LIFE_DARK) ∧
        (s.flag R.ORIGIN_STAT_CUT = false → t.get R.ORIGIN_LIFE_DARK = min (s.get R.ORIGIN_LIFE_DARK + 1) (2 ^ 32 - 1) ∧
          (s.gate (s.get R.ORIGIN_BCOST_HOUSE) = true → t.org.burst.length = 9 ∧ t.flag R.ORIGIN_STAT_BURST = true) ∧
          (s.gate (s.get R.ORIGIN_BCOST_HOUSE) = false → t.flag R.ORIGIN_DARK_HREF = true ∧ t.org.burst = []))) ∧
    (s.org.vkeep = false ∨ s.rails = true → exec .housekeepingBurst s = .next s ∧ ∀ words : Nat, exec (.vkeepLoss words) s = .next s) ∧
    (∀ words : Nat, s.org.vkeep = true →
      (s.org.burst ≠ [] → ∃ t, exec (.burstEnergyLost words) s = .next t ∧ t.org.burst = [] ∧ t.flag R.ORIGIN_STAT_BURST = false ∧
        t.flag R.ORIGIN_DARK_LOST = (s.flag R.ORIGIN_DARK_LOST || finalSteps s.org.burst) ∧ (words = 0 → t.org.ckpt = s.org.ckpt) ∧
        t.time = s.time ∧ s.sameMemory t) ∧
      (s.org.burst = [] → exec (.burstEnergyLost words) s = .next s) ∧
      (s.rails = false → ∃ t, exec (.vkeepLoss words) s = .next t ∧ t.org.vkeep = false ∧ t.org.burst = [] ∧ t.time = s.time ∧
        s.sameMemory t)) ∧
    (s.org.vkeep = false →
      ∃ t, exec .originPowerOn s = .next t ∧ t.org.vkeep = true ∧ t.flag R.ORIGIN_STAT_PGOOD = false ∧ t.flag R.ORIGIN_STAT_CUT = true ∧
        t.org.ckpt = s.org.ckpt ∧ t.org.retired = s.org.retired ∧ t.flag R.ORIGIN_DARK_POR = true ∧
        (((List.range 16).filter fun q => !s.org.retired.testBit q).length < 8 → t.flag R.ORIGIN_STAT_DEGRADED = true) ∧ t.time = s.time ∧ s.sameMemory t) ∧
    (s.org.vkeep = true → exec .originPowerOn s = .next s) ∧
    (∀ (m : Fin 3) (count : BitVec 16), s.alive = true →
      ∃ t, exec (.agingCount ⟨m, by omega⟩ count) s = .next t ∧ t.get (R.SYS_AGE_COUNT m) = count.toNat ∧
        t.flag ((F.irqStat (pageBase .sys 0)).bit 0) = true ∧ t.time = s.time ∧ t.sram = s.sram ∧
        (s.wordsHit 3 (baselineAddr m) 4 false = [] → t.log = s.log) ∧
        (s.mramBad (baselineAddr m) 4 = true → t.sys.busErrors = s.sys.busErrors + 1 ∧ t.get (R.SYS_AGE_BASE m) = s.get (R.SYS_AGE_BASE m) ∧
          t.mram = s.mram) ∧
        (s.mramBad (baselineAddr m) 4 = false → s.mramRead (baselineAddr m) 4 = 0xFFFFFFFF → t.get (R.SYS_AGE_BASE m) = count.toNat ∧
          t.mram = (s.mramStore (baselineAddr m) (leBytes 4 count.toNat)).mram) ∧
        (s.mramBad (baselineAddr m) 4 = false → s.mramRead (baselineAddr m) 4 ≠ 0xFFFFFFFF → t.get (R.SYS_AGE_BASE m) = s.get (R.SYS_AGE_BASE m) ∧ t.mram = s.mram)) ∧
    ∀ count : BitVec 16, s.org.vkeep = true → s.flag R.ORIGIN_STAT_CUT = false →
      ∃ t, exec (.agingCount 3 count) s = .next t ∧ t.get R.ORIGIN_AGE_COUNT = count.toNat ∧
        t.get R.ORIGIN_AGE_BASE = (if s.get R.ORIGIN_AGE_BASE = 0 then count.toNat else s.get R.ORIGIN_AGE_BASE) ∧
        t.time = s.time ∧ t.log = s.log ∧ s.sameMemory t

/-- R441, R392, R457: the monitors told, and that of REF when its frequency lies outside 24 to 26 MHz, fail: they set their bits of CLK_MON and
raise CLKMON; a lock that is lost reads 0 in PLL_LOCK and sets its bit of CLK_PLL; with LINK lock lost no port is UP; the loss of SYS lock
starts the time after which it resets. When none fails only the frequency is shown. In main reset a PLL out of lock shows in LOCK only. When
the locks return, in main reset as well, they read 1 again, that time is forgotten and nothing else changes, but that the TIME PLL takes the
rate set meanwhile where REF is good again. Without the main rails there is no monitor. A supply below 90 % acts as a failure of the main rails (R69). -/
def Obligations.ClockMonitors : Prop :=
  ∀ (s : State) (bits : BitVec 9) (ref : Word),
    (∀ b, monBits bits ref = b → s.alive = true →
      ∃ t, exec (.monFail bits false ref) s = .next t ∧ t.get R.CLK_REFF = ref.toNat ∧
        t.get R.CLK_MON_FAIL = s.get R.CLK_MON_FAIL ||| b ∧
        t.get R.CLK_PLL_LOCK = s.get R.CLK_PLL_LOCK &&& (15 - b / 2 % 16) ∧
        t.get R.CLK_PLL_UNLOCKED = s.get R.CLK_PLL_UNLOCKED ||| b / 2 % 16 ∧
        (b ≠ 0 → (t.get R.SAFE_FAULT_FAULT).testBit 7 = true) ∧
        (b = 0 → s.sameElse t [R.CLK_REFF] ∧ t.log = s.log ∧ s.sameMemory t) ∧
        (bits.getLsbD 3 = true → ∀ p : Fin 8, t.linkUp p = false) ∧
        (bits.getLsbD 1 = true → t.sys.lockLossUp = some (s.sys.lockLossUp.getD s.time.up)) ∧
        t.sys.monCond = s.sys.monCond ||| b ∧ t.time = s.time ∧ t.mram = s.mram) ∧
    (∀ (b : Nat) (low : Bool), monBits bits ref = b → s.majorMode ≠ mDARK → s.sys.inReset = true →
      ∃ t, exec (.monFail bits low ref) s = .next t ∧ t.get R.CLK_REFF = ref.toNat ∧
        t.get R.CLK_PLL_LOCK = s.get R.CLK_PLL_LOCK &&& (15 - b / 2 % 16) ∧ s.sameElse t [R.CLK_REFF, R.CLK_PLL_LOCK] ∧
        (bits.getLsbD 1 = true → t.sys.lockLossUp = some (s.sys.lockLossUp.getD s.time.up)) ∧
        t.sys.monCond = s.sys.monCond ||| b ∧ t.log = s.log ∧ t.time = s.time ∧ s.sameMemory t) ∧
    (s.majorMode = mDARK → (∀ low : Bool, exec (.monFail bits low ref) s = .next s) ∧ exec (.pllRelock bits ref) s = .next s) ∧
    (s.alive = true → ∃ t, exec (.monFail bits true ref) s = .next t ∧ t.majorMode = mDARK ∧ t.get R.ORIGIN_STAT_RAILS = 0 ∧ t.log = {} ∧ t.mram = s.mram) ∧
    (s.majorMode ≠ mDARK → ∃ t, exec (.pllRelock bits ref) s = .next t ∧ t.get R.CLK_PLL_LOCK = s.get R.CLK_PLL_LOCK ||| bits.toNat / 2 % 16 ∧
      t.get R.CLK_REFF = ref.toNat ∧ (bits.getLsbD 1 = true → t.sys.lockLossUp = none) ∧
      (bits.getLsbD 1 = false → t.sys.lockLossUp = s.sys.lockLossUp) ∧
      t.sys.monCond = s.sys.monCond - (s.sys.monCond &&& (bits.toNat / 2 * 2 + (!refBad ref).toNat)) ∧
      s.sameElse t [R.CLK_PLL_LOCK, R.CLK_REFF] ∧ (refBad ref = true → t.time = s.time) ∧
      (refBad ref = false → t.time = { s.time with rate := s.getI R.TIME_RATE }) ∧ s.sameMemory t)

/-- R450 to R452, R80, R471, R37, R74, R408: the search of the boot ROM at the first tick, the debug hold, the boundary scan and the seal.
The search takes the slots in the order of BOOTSEL. Where every slot of the search is invalid, for whatever reason of R452, each is logged with
its reason and the ROM profile of PROF runs; with BOOTSEL 10 it runs at once. The first valid image is taken: the sections load in their order
(the last of its kind stands, whole, in the program bank, the coefficients, the data memory or the SRAM), BOOT_IMAGE is logged, SOURCE and SECVER
tell what runs, the slots before it are logged as rejected, and HC0 has the entry; LOADERR is set by a write of the load list that is ignored,
and by nothing else. BOOTSEL 11 holds for the test port with the baselines loaded, and its release starts HC0. EXTEST drives its pattern only
while the test port holds main reset with BOOTSEL 11 and the part is not sealed. A new level of SEAL_N is kept, and sealing clears MRAM.WEN and
ends what boundary scan drives. An image that cannot be read whole is rejected as unreadable, which is the model's choice for a double-bit
error (log entry 34). -/
def Obligations.BootAndTestPort : Prop :=
  (∀ (s : State) (flashA flashB : List Byte) (keyX keyY : List (BitVec 256)),
    s.alive = true → s.time.run = true → s.sys.bootDone = false → s.get R.SYS_BOOT_SOURCE ≠ 5 → s.Wf →
    (s.sys.bootsel = 2 ∨ ((s.sys.bootsel = 0 ∨ s.sys.bootsel = 1) ∧
        ∀ slot ∈ slotOrder s.sys.bootsel, ∃ e, s.judgeSlot flashA flashB slot (keyX, keyY) = .error e) →
      ∃ t, exec (.bootSearch flashA flashB keyX keyY) s = .next t ∧ t.sys.bootDone = true ∧ t.get R.SYS_BOOT_SOURCE = 0 ∧
        t.get R.SYS_MODE_STAT_ROM = 1 ∧ t.flag R.CE_CTL_RUN = true ∧ t.flag R.CE_SUP_CTL_EN = true ∧
        t.get R.SYS_BOOT_REJECT = (if s.sys.bootsel = 2 then s.get R.SYS_BOOT_REJECT else 15) ∧
        (s.sys.bootsel ≠ 2 → ∀ slot ∈ slotOrder s.sys.bootsel, ∀ e, s.judgeSlot flashA flashB slot (keyX, keyY) = .error e →
          { t := clockOf s.time.now, src := 16, inst := 63, code := 0x41A, data := slot + e * 8 } ∈ t.log.inflight) ∧
        t.time.up = s.time.up ∧ t.time.now = s.time.now ∧ s.sameMemory t) ∧
    (s.sys.bootsel = 3 →
      ∃ t, exec (.bootSearch flashA flashB keyX keyY) s = .next t ∧ t.sys.bootDone = false ∧ t.get R.SYS_BOOT_SOURCE = 5 ∧
        t.get R.SYS_MODE_STAT_ROM = s.get R.SYS_MODE_STAT_ROM ∧
        (∀ m : Fin 3, s.mramBad (baselineAddr m) 4 = false → s.mramRead (baselineAddr m) 4 ≠ 0xFFFFFFFF →
          t.get (R.SYS_AGE_BASE m) = s.mramRead (baselineAddr m) 4 % 65536) ∧
        ((∀ m : Fin 3, s.wordsHit 3 (baselineAddr m) 4 false = []) → t.log = s.log) ∧ t.time = s.time ∧ s.sameMemory t) ∧
    ∀ (before after : List Nat) (slot : Nat) (h : Header) (secs : List Section),
      s.sys.bootsel = 0 ∨ s.sys.bootsel = 1 → slotOrder s.sys.bootsel = before ++ slot :: after →
      (∀ q ∈ before, ∃ e, s.judgeSlot flashA flashB q (keyX, keyY) = .error e) →
      s.judgeSlot flashA flashB slot (keyX, keyY) = .ok (h, secs) →
      ∃ t, exec (.bootSearch flashA flashB keyX keyY) s = .next t ∧ t.sys.bootDone = true ∧ t.sys.loading = false ∧
        t.sys.entry = some h.entry ∧ t.get R.SYS_BOOT_SOURCE = slot ∧ t.get R.SYS_BOOT_SECVER = h.secver % 65536 ∧
        (t.alive = true →
          { t := clockOf t.time.now, src := 16, inst := 63, code := 0x019, data := slot + h.secver % 65536 * 8 + h.keyidx * 2 ^ 19 } ∈
            (if t.time.run then t.log.inflight else t.log.early)) ∧
        ((∀ x ∈ secs, x.type ≠ 1) → t.get R.SYS_BOOT_LOADERR = s.get R.SYS_BOOT_LOADERR ∧ t.time = s.time ∧ t.mram = s.mram ∧
          (∀ q ∈ before, ∀ e, s.judgeSlot flashA flashB q (keyX, keyY) = .error e →
            { t := clockOf s.time.now, src := 16, inst := 63, code := 0x41A, data := q + e * 8 } ∈ t.log.inflight) ∧
          ∀ (l r : List Section) (x : Section) (bs : List Byte), secs = l ++ x :: r → (∀ y ∈ r, y.type ≠ x.type) →
            s.slotBytes flashA flashB slot x.offset x.length = bs →
            (x.type = 2 → ∀ i, i < bs.length / 8 → t.ceProg (x.dest + i) = leNat ((bs.drop (8 * i)).take 8)) ∧
            (x.type = 3 → ∀ i, i < bs.length / 4 → t.ceCoef (x.dest + i) = leNat ((bs.drop (4 * i)).take 4)) ∧
            (x.type = 4 → ∀ i, i < bs.length / 4 → x.dest + i < 0x1C0 ∨ 0x200 ≤ x.dest + i → x.dest + i < 0x300 ∨ 0x380 ≤ x.dest + i →
              t.ceWord (x.dest + i) = leNat ((bs.drop (4 * i)).take 4)) ∧
            (x.type = 5 → ∀ i, i < bs.length → t.sramByte (x.dest + i) = bs.getD i 0#8)) ∧
        ∀ (x : Section) (bs : List Byte) (a v : Nat), secs = [x] → x.type = 1 → s.slotBytes flashA flashB slot x.offset x.length = bs →
          imageWords 4 (bs.length / 8 * 2) bs = [a, v] → findPage a = none → t.flag R.SYS_BOOT_LOADERR = true) ∧
  (∀ s : State,
    (s.alive = false ∨ s.time.run = false ∨ s.sys.bootDone = true ∨ s.get R.SYS_BOOT_SOURCE = 5 →
      ∀ (flashA flashB : List Byte) (keyX keyY : List (BitVec 256)), exec (.bootSearch flashA flashB keyX keyY) s = .next s) ∧
    (s.alive = true → s.sys.bootsel = 3 →
      ∃ t, exec .debugHoldRelease s = .next t ∧ t = { s with sys := { s.sys with bootDone := true } }) ∧
    (s.alive = false ∨ s.sys.bootsel ≠ 3 → exec .debugHoldRelease s = .next s) ∧
    (∀ (extest : Bool) (pattern : Nat),
      ∃ t, exec (.boundaryScanInstruction extest pattern) s = .next t ∧
        (extest = true → s.sys.inReset = true → s.sys.rstSrc.testBit 4 = true → s.sys.bootsel = 3 → s.sys.sealed = false →
          t.sys.scan = some pattern) ∧
        (extest = false ∨ s.sys.inReset = false ∨ s.sys.rstSrc.testBit 4 = false ∨ s.sys.bootsel ≠ 3 ∨ s.sys.sealed = true →
          t.sys.scan = none) ∧
        t = { s with sys := { s.sys with scan := t.sys.scan } }) ∧
    ∀ level : Bool, ∃ t, exec (.sealChange level) s = .next t ∧ t.sys.sealed = level ∧
      t.sys.scan = (if level = true then none else s.sys.scan) ∧
      (level = true → t.flag R.SAFE_MRAM_WEN = false) ∧ (level = false → t = { s with sys := { s.sys with sealed := false } }) ∧
      s.sameElse t [R.SAFE_MRAM_WEN] ∧ t.time = s.time ∧ t.log = s.log ∧ s.sameMemory t)

/-- R19, R21, R408, R450: what an access of a host core that HC0 has released does to the shared SRAM and the embedded MRAM. A store is read
back, byte for byte, and every other byte stays; a word that it covers whole holds no error after it; the safety partition takes one only
while WEN is 1, and the boot area none while sealed: it then returns a bus error. A single-bit error in a word that is read is corrected,
written back and logged; a double-bit error is logged and returns a bus error, and a store that covers such a word in part stores nothing (a
store reads the words that it covers in part and no other, which is the model's choice, log entry 243); without an error a load changes
nothing. An address beyond the memory does not exist, and a core that is not released makes no access. -/
def Obligations.HostMemories : Prop :=
  (∀ (s : State) (who : Who) (a : Nat) (bs : List Byte), s.alive = true → s.initiates who = true → bs ≠ [] →
    (a + bs.length ≤ 0x400000 → s.wordsHit 2 a bs.length true = [] →
      ∃ t, exec (.hostMemoryAccess who false a (some bs) none) s = .next t ∧
        (∀ k, t.sramByte k = if a ≤ k ∧ k < a + bs.length then bs.getD (k - a) 0#8 else s.sramByte k) ∧
        (∀ n w, t.wrongBits n w = if n = 2 ∧ a ≤ w * 8 ∧ w * 8 + 8 ≤ a + bs.length then 0 else s.wrongBits n w) ∧
        t.sys.busErrors = s.sys.busErrors ∧ { t with sram := s.sram, sys := s.sys } = s) ∧
    (a + bs.length ≤ 0x800000 → a + bs.length ≤ 0x780000 ∨ s.flag R.SAFE_MRAM_WEN = true →
        a + bs.length ≤ 0x77F000 ∨ 0x780000 ≤ a ∨ s.sys.sealed = false → s.wordsHit 3 a bs.length true = [] →
      ∃ t, exec (.hostMemoryAccess who true a (some bs) none) s = .next t ∧
        (∀ k, t.mramByte k = if a ≤ k ∧ k < a + bs.length then bs.getD (k - a) 0#8 else s.mramByte k) ∧
        (∀ n w, t.wrongBits n w = if n = 3 ∧ a ≤ w * 16 ∧ w * 16 + 16 ≤ a + bs.length then 0 else s.wrongBits n w) ∧
        t.sys.busErrors = s.sys.busErrors ∧ { t with mram := s.mram, sys := s.sys } = s) ∧
    (a + bs.length ≤ 0x800000 →
      (0x780000 < a + bs.length → s.flag R.SAFE_MRAM_WEN = false →
        ∃ t, exec (.hostMemoryAccess who true a (some bs) none) s = .next t ∧ t.sys.busErrors = s.sys.busErrors + 1 ∧
          s.Logged t s.time.now 1 63 0x109 2 ∧ { t with sys := s.sys, log := s.log } = s) ∧
      (0x77F000 < a + bs.length → a + bs.length ≤ 0x780000 → s.sys.sealed = true →
        ∃ t, exec (.hostMemoryAccess who true a (some bs) none) s = .next t ∧ t.sys.busErrors = s.sys.busErrors + 1 ∧
          { t with sys := s.sys } = s)) ∧
    (∀ (m : Bool) (n w : Nat), n = (if m then 3 else 2) →
      (w = (if m then a / 16 else a / 8) → a < (if m then 0x800000 else 0x400000) →
        (s.wrongBits n w = 0 → exec (.hostMemoryAccess who m a none none) s = .next s) ∧
        (s.wrongBits n w = 1 →
          ∃ t, exec (.hostMemoryAccess who m a none none) s = .next t ∧ t.wrongBits n w = 0 ∧ s.Logged t s.time.now 16 63 0x3C8 (n + w * 16) ∧
            { t with sys := s.sys, log := s.log } = s) ∧
        (s.wrongBits n w = 2 → s.wordsHit n a 1 false = [w] →
          ∃ t, exec (.hostMemoryAccess who m a none none) s = .next t ∧ t.sys.busErrors = s.sys.busErrors + 1 ∧
            s.Logged t s.time.now 16 63 0xBC9 (n + w * 16) ∧ { t with sys := s.sys, log := s.log } = s) ∧
        ∃ t, exec (.hostMemoryAccess who m a none (some (if m then 3 else 2, w, true))) s = .next t ∧
          t.sys.busErrors = s.sys.busErrors + 1 ∧ t.wrongBits n w = 2 ∧ s.Logged t s.time.now 16 63 0xBC9 (n + w * 16) ∧
          { t with sys := s.sys, log := s.log } = s) ∧
      (a + bs.length ≤ (if m then 0x800000 else 0x400000) →
        (m = true → (a + bs.length ≤ 0x780000 ∨ s.flag R.SAFE_MRAM_WEN = true) ∧
          (a + bs.length ≤ 0x77F000 ∨ 0x780000 ≤ a ∨ s.sys.sealed = false)) →
        s.wordsHit n a bs.length true = [w] →
        (s.wrongBits n w = 1 →
          ∃ t, exec (.hostMemoryAccess who m a (some bs) none) s = .next t ∧ t.wrongBits n w = 0 ∧ t.sys.busErrors = s.sys.busErrors ∧
            s.Logged t s.time.now 16 63 0x3C8 (n + w * 16) ∧
            ∀ k, (if m then t.mramByte k else t.sramByte k) =
              if a ≤ k ∧ k < a + bs.length then bs.getD (k - a) 0#8 else if m then s.mramByte k else s.sramByte k) ∧
        (s.wrongBits n w = 2 →
          ∃ t, exec (.hostMemoryAccess who m a (some bs) none) s = .next t ∧ t.sys.busErrors = s.sys.busErrors + 1 ∧
            s.Logged t s.time.now 16 63 0xBC9 (n + w * 16) ∧ { t with sys := s.sys, log := s.log } = s))) ∧
    (∀ v : Dword, 0x780000 ≤ a → a + 8 ≤ 0x800000 →
      (s.flag R.SAFE_MRAM_WEN = true → s.wordsHit 3 a 8 true = [] →
        ∃ t, exec (.mramWrite who a v) s = .next t ∧ t.mramRead a 8 = v.toNat ∧ { t with mram := s.mram } = s ∧
          ∀ k, k < a ∨ a + 8 ≤ k → t.mramByte k = s.mramByte k) ∧
      (s.flag R.SAFE_MRAM_WEN = false →
        ∃ t, exec (.mramWrite who a v) s = .next t ∧ t.sys.busErrors = s.sys.busErrors + 1 ∧ s.Logged t s.time.now 1 63 0x109 2 ∧
          { t with sys := s.sys, log := s.log } = s))) ∧
  (∀ (s : State) (who : Who) (m : Bool) (a : Nat) (write : Option (List Byte)) (upset : Option (Fin 10 × Nat × Bool)) (v : Dword),
    ((if m then 0x800000 else 0x400000) < a + max 1 (write.getD []).length →
      exec (.hostMemoryAccess who m a write upset) s = .fault .noSuchAddress) ∧
    (a < 0x780000 ∨ 0x800000 < a + 8 → exec (.mramWrite who a v) s = .fault .noSuchAddress) ∧
    (s.alive = false ∨ s.initiates who = false →
      (a + max 1 (write.getD []).length ≤ (if m then 0x800000 else 0x400000) → exec (.hostMemoryAccess who m a write upset) s = .next s) ∧
      (0x780000 ≤ a → a + 8 ≤ 0x800000 → exec (.mramWrite who a v) s = .next s)))

/-- R245, R243, R244, R247, R249, R251: an instruction that writes a stage packs its exact results once, with the elements that its mask
keeps, into S[D] alone; a saturation sets SAT and counts; the program goes on. -/
def Obligations.StageResults : Prop :=
  ∀ (s : State) (w : Dword) (i : Ins), i = Ins.of w.toNat → s.VIssues w →
    ∀ q ∈ [(0x08, Instr.vAdd w, List.zipWith (fun a b => Exact.dy (Dy.add a b)) (s.stageVals i.a i.n) (s.stageVals i.b i.n)),
        (0x09, .vSub w, List.zipWith (fun a b => Exact.dy (Dy.sub a b)) (s.stageVals i.a i.n) (s.stageVals i.b i.n)),
        (0x0A, .vMul w, List.zipWith (fun a b => Exact.dy (Dy.mul a b)) (s.stageVals i.a i.n) (s.stageVals i.b i.n)),
        (0x0C, .vMax w, List.zipWith (fun a b => Exact.dy (Dy.max a b)) (s.stageVals i.a i.n) (s.stageVals i.b i.n)),
        (0x0D, .vMin w, List.zipWith (fun a b => Exact.dy (Dy.min a b)) (s.stageVals i.a i.n) (s.stageVals i.b i.n)),
        (0x0E, .vNeg w, (s.stageVals i.a i.n).map fun a => Exact.dy (Dy.neg a)),
        (0x0F, .vAbs w, (s.stageVals i.a i.n).map fun a => Exact.dy (Dy.abs a)),
        (0x10, .vShl w, (s.stageVals i.a i.n).map fun a => Exact.dy ⟨a.n, a.x + signed 8 i.exp⟩),
        (0x13, .vRsum w, [Exact.dy ((s.stageVals i.a i.n).foldl Dy.add Dy.zero)]),
        (0x18, .vAcc w, (List.range i.n).map fun k => Exact.dy ⟨(s.accu i.a).t.getD k 0, (s.accu i.a).e - 46⟩),
        (0x1B, .vSin w, (s.stageVals i.a i.n).map (sinTurns false)), (0x1C, .vCos w, (s.stageVals i.a i.n).map (sinTurns true)),
        (0x1D, .vSqrt w, (s.stageVals i.a i.n).map fun a => if a.n < 0 then Exact.dy Dy.zero else Exact.root a.n.toNat a.x),
        (0x1E, .vRcp w, (s.stageVals i.a i.n).map fun a => if a.n = 0 then Exact.dy ⟨2 ^ 23 - 1, 127 - 23⟩ else
          Exact.quot (if a.n < 0 then -1 else 1) a.n.natAbs (-a.x))],
      i.op = q.1 →
        ∃ t ms e sat, exec q.2.1 s = .next t ∧ pack (s.vMasked i q.2.2) i.fixedExp = (ms, e, sat) ∧
          t.stage i.d = ⟨ms ++ List.replicate (64 - ms.length) 0, e, q.2.2.length⟩ ∧ (∀ r, r ≠ i.d → t.stage r = s.stage r) ∧
          (sat.isSome = true → t.flag R.CE_STAT_SAT = true ∧ t.get R.CE_SATCNT = min (s.get R.CE_SATCNT + 1) (2 ^ 32 - 1)) ∧
          t.ce.accs = s.ce.accs ∧ t.ce.masks = s.ce.masks ∧ t.ce.ars = s.ce.ars ∧ t.ce.data = s.ce.data ∧ t.ce.slots = s.ce.slots ∧
          s.VDone t i ∧ s.VNext t

/-- R249, R250, R251, R252: the stage instructions that read the memories or select by a mask. LD and LDC load N words from the address of
AM, MULS and CLAMP take one and two coefficients there, SEL takes S[A] where the mask has a 1 and S[B] elsewhere; AM 2 moves AR on by N.
-/
def Obligations.MemoryOperands : Prop :=
  ∀ (s : State) (w : Dword) (i : Ins) (a : Nat), i = Ins.of w.toNat → s.VIssues w → a = s.vAddr i →
    ∀ q ∈ [(0x02, Instr.vLd w, (List.range i.n).map fun k => Exact.dy (s.vLoadVal (a + k))),
        (0x03, .vLdc w, (List.range i.n).map fun k => Exact.dy (elemVal (s.ceCoef (a + k)))),
        (0x0B, .vMuls w, (s.stageVals i.a i.n).map fun v => Exact.dy (Dy.mul v (elemVal (s.ceCoef a)))),
        (0x11, .vClamp w, (s.stageVals i.a i.n).map fun v => Exact.dy (Dy.max (elemVal (s.ceCoef a)) (Dy.min (elemVal (s.ceCoef (a + 1))) v))),
        (0x12, .vSel w, (List.range i.n).map fun k => Exact.dy (if (s.vmask i.msel).testBit k then (s.stageVals i.a i.n).getD k Dy.zero
          else (s.stageVals i.b i.n).getD k Dy.zero))],
      i.op = q.1 → (q.1 = 0x02 → ∀ k, k < i.n → s.vLoadable (a + k)) → (q.1 = 0x03 → s.vCoefs a i.n) → (q.1 = 0x0B → s.vCoefs a 1) →
      (q.1 = 0x11 → s.vCoefs a 2) →
        ∃ t ms e sat, exec q.2.1 s = .next t ∧ pack (s.vMasked (if q.1 = 0x12 then { i with men := false } else i) q.2.2) i.fixedExp = (ms, e, sat) ∧
          t.stage i.d = ⟨ms ++ List.replicate (64 - ms.length) 0, e, i.n⟩ ∧ (∀ r, r ≠ i.d → t.stage r = s.stage r) ∧
          (sat.isSome = true → t.flag R.CE_STAT_SAT = true ∧ t.get R.CE_SATCNT = min (s.get R.CE_SATCNT + 1) (2 ^ 32 - 1)) ∧ t.ce.accs = s.ce.accs ∧ t.ce.masks = s.ce.masks ∧
          (∀ r, t.areg r = s.vBumped i r) ∧ t.ce.data = s.ce.data ∧ t.ce.slots = s.ce.slots ∧ s.VDone t i ∧ s.VNext t

/-- R246, R251: MACZ and MACZS start an accumulator with the products of S[A] and S[B] or one coefficient, and clear the elements above N;
MAC and MACS add, the smaller exponent truncated to the larger; an element that would leave 64 bits stays at the nearer end. No other
accumulator changes. R243, R244: the pack rule for dyadic values. The exponent is the least from −128 to 127 at which every mantissa
floor(y × 2^(23 − e) + 1/2) fits in 24 bits, or 127 where none is, or the fixed one; the mantissas are those, each held to the range. -/
def Obligations.AccumulatorsAndPack : Prop :=
  (∀ (s : State) (w : Dword) (i : Ins), i = Ins.of w.toNat → s.VIssues w →
     ∀ q ∈ [(Instr.vMacz w, 0x14, true, fun k => (s.stage i.b).m.getD k 0, (s.stage i.b).e),
         (.vMac w, 0x15, false, fun k => (s.stage i.b).m.getD k 0, (s.stage i.b).e),
         (.vMaczs w, 0x16, true, fun _ => elemMant (s.ceCoef (s.vAddr i)), elemExp (s.ceCoef (s.vAddr i))),
         (.vMacs w, 0x17, false, fun _ => elemMant (s.ceCoef (s.vAddr i)), elemExp (s.ceCoef (s.vAddr i)))],
       i.op = q.2.1 → (q.2.1 = 0x16 ∨ q.2.1 = 0x17 → s.vCoefs (s.vAddr i) 1) →
         ∃ t, exec q.1 s = .next t ∧ (∀ r, r ≠ i.d → t.accu r = s.accu r) ∧ t.ce.stages = s.ce.stages ∧ t.ce.masks = s.ce.masks ∧
           (∀ r, t.areg r = s.vBumped i r) ∧ t.ce.data = s.ce.data ∧ t.ce.slots = s.ce.slots ∧ s.VDone t i ∧ s.VNext t ∧
           ∀ ep : Int, ep = (s.stage i.a).e + q.2.2.2.2 →
             (t.accu i.d).e = (if q.2.2.1 = true then ep else max (s.accu i.d).e ep) ∧
             ∀ k, k < 64 → ∀ p : Int, p = (if k < i.n then (s.stage i.a).m.getD k 0 * q.2.2.2.1 k else 0) →
               (t.accu i.d).t.getD k 0 = if q.2.2.1 = true then p else max (-2 ^ 63) (min (2 ^ 63 - 1)
                 (if ep ≤ (s.accu i.d).e then (s.accu i.d).t.getD k 0 + p / 2 ^ ((s.accu i.d).e - ep).toNat
                  else (s.accu i.d).t.getD k 0 / 2 ^ (ep - (s.accu i.d).e).toNat + p))) ∧
  (∀ (ys : List Dy) (fixed : Option Int) (ms : List Int) (e : Int) (sat : Option Nat), pack (ys.map .dy) fixed = (ms, e, sat) →
     ms.length = ys.length ∧ (∀ f, fixed = some f → e = f) ∧ (fixed = none → -128 ≤ e ∧ e ≤ 127) ∧
     (∀ (k : Nat) (y : Dy), ys[k]? = some y → ∃ m : Int, ms[k]? = some (max (-8388608) (min 8388607 m)) ∧
       (0 ≤ y.x + 23 - e → m = y.n * 2 ^ (y.x + 23 - e).toNat) ∧
       (y.x + 23 - e < 0 → m * 2 ^ (e - 23 - y.x).toNat * 2 ≤ 2 * y.n + 2 ^ (e - 23 - y.x).toNat ∧
         2 * y.n + 2 ^ (e - 23 - y.x).toNat < (m + 1) * 2 ^ (e - 23 - y.x).toNat * 2) ∧
       (sat = none → -8388608 ≤ m ∧ m ≤ 8388607)) ∧
     (fixed = none → (sat.isSome = true → e = 127) ∧ ∀ e', -128 ≤ e' → e' < e → ∃ y ∈ ys, mantFits ((Exact.dy y).mant e') = false))

/-- R249, R250, R251: the instructions of masks, addresses and flow. CGT and CGE set the bits of M[D] below N by comparing exact values;
SETA and LDA load an address register; JMP, JANY and JNONE go to ADDR, leaving every loop that does not hold it; LOOP pushes its body
and count; NOP does nothing. A word with one wrong bit is corrected and logged, and the instruction runs. -/
def Obligations.MasksJumpsAndLoops : Prop :=
  ∀ (s : State) (w : Dword) (i : Ins), i = Ins.of w.toNat → s.VIssues w →
    (i.op = 0x00 → ∃ t, exec (.vNop w) s = .next t ∧ s.VDone t i ∧ s.VNext t ∧ t.regs = s.regs ∧
      (s.wrongBits 4 (s.progAddr s.ce.pc) = 0 → t.log = s.log ∧ t.sys = s.sys) ∧
      t.ce = { s.ce with clk := t.ce.clk, pc := t.ce.pc, loops := t.ce.loops }) ∧
    (∀ q ∈ [(0x19, Instr.vCgt w, fun a b : Dy => Dy.lt b a), (0x1A, .vCge w, fun a b => Dy.le b a)], i.op = q.1 →
      ∃ t, exec q.2.1 s = .next t ∧ s.VDone t i ∧ s.VNext t ∧ (∀ r, r ≠ i.d → t.vmask r = s.vmask r) ∧ t.ce.stages = s.ce.stages ∧
        t.regs = s.regs ∧ ∀ k, (t.vmask i.d).testBit k =
          (decide (k < i.n) && q.2.2 ((s.stageVals i.a i.n).getD k Dy.zero) ((s.stageVals i.b i.n).getD k Dy.zero))) ∧
    (i.op = 0x07 → ∃ t, exec (.vSeta w) s = .next t ∧ t.areg i.d = i.addr ∧ (∀ r, r ≠ i.d → t.areg r = s.areg r) ∧
      t.regs = s.regs ∧ t.ce.stages = s.ce.stages ∧ s.VDone t i ∧ s.VNext t) ∧
    (i.op = 0x06 → s.vLoadable (s.vAddr i) →
      ∃ t, exec (.vLda w) s = .next t ∧ t.regs = s.regs ∧ t.ce.stages = s.ce.stages ∧ s.VDone t i ∧ s.VNext t ∧
        ∀ r x, x = (if r = i.d then ((s.vLoadVal (s.vAddr i)).floor % 65536).toNat else s.areg r) →
          t.areg r = if i.am = 2 ∧ r = i.areg then (x + i.n) % 65536 else x) ∧
    (i.addr < 8192 →
      ∀ q ∈ [(0x20, Instr.vJmp w, true), (0x21, .vJany w, (List.range i.n).any fun k => (s.vmask i.a).testBit k),
          (0x22, .vJnone w, !(List.range i.n).any fun k => (s.vmask i.a).testBit k)], i.op = q.1 →
        ∃ t, exec q.2.1 s = .next t ∧ s.VDone t i ∧ t.regs = s.regs ∧ t.ce.stages = s.ce.stages ∧ t.ce.masks = s.ce.masks ∧
          (q.2.2 = true → t.ce.pc = i.addr ∧ t.ce.loops = loopLeave i.addr s.ce.loops) ∧ (q.2.2 = false → s.VNext t)) ∧
    (i.op = 0x23 → i.addr < 8192 → s.ce.loops.length < 4 →
      ∃ t, exec (.vLoop w) s = .next t ∧ s.VDone t i ∧ t.regs = s.regs ∧ t.ce.stages = s.ce.stages ∧ t.ce.pc = (s.ce.pc + 1) % 8192 ∧
        t.ce.loops = ⟨(s.ce.pc + 1) % 8192, i.addr, i.exp + 1⟩ :: s.ce.loops) ∧
    (∀ q ∈ [(0x00, Instr.vNop w), (0x07, .vSeta w), (0x19, .vCgt w), (0x1A, .vCge w), (0x20, .vJmp w), (0x21, .vJany w), (0x22, .vJnone w),
        (0x23, .vLoop w)], i.op = q.1 → (0x20 ≤ q.1 → i.addr < 8192) → (q.1 = 0x23 → s.ce.loops.length < 4) →
      s.wrongBits 4 (s.progAddr s.ce.pc) = 1 → s.alive = true →
      ∃ t, exec q.2 s = .next t ∧ t.wrongBits 4 (s.progAddr s.ce.pc) = 0 ∧
        s.Logged t s.vNow (memSrc 4) 63 0x3C8 (4 + s.progAddr s.ce.pc * 16))

/-- R248, R252, R258: ST writes element words to data memory and STO duties to output slots, and nothing else of either, and a word written
holds no error; END commits the slots and predictions written in the tick, leaves the others as they were, and tells the clocks used. R19, R250, R251, R252, R256, R259: the faults of a tick program. An instruction
word with two wrong bits faults with code 1, a data word with 2, a coefficient with 3; an illegal word with 4; a coefficient or a target beyond
its memory with 5; a store or load of a word without that access, or a slot above 127, with 6; a fifth nested LOOP with 7. An instruction that
the running program does not hold at its counter, or after Compute, does nothing. -/
def Obligations.StoresFaultsAndEnd : Prop :=
  (∀ (s : State) (w : Dword) (i : Ins) (a : Nat), i = Ins.of w.toNat → s.VIssues w → a = s.vAddr i →
     (i.op = 0x04 → (∀ k, k < i.n → 0x400 ≤ (a + k) % 65536 ∨ (0x380 ≤ (a + k) % 65536 ∧ (a + k) % 65536 < 0x3A0)) →
       ∃ t, exec (.vSt w) s = .next t ∧ (∀ k, k < i.n → t.ceWord (a + k) = elemWord ((s.stage i.a).m.getD k 0) (s.stage i.a).e ∧
           (a + k) % 65536 ∉ t.ce.err2) ∧
         (∀ b, b < 65536 → (∀ k, k < i.n → (a + k) % 65536 ≠ b) → t.ceWord b = s.ceWord b) ∧ (∀ r, t.areg r = s.vBumped i r) ∧
         t.ce.slots = s.ce.slots ∧ t.ce.stages = s.ce.stages ∧ t.regs = s.regs ∧ s.VDone t i ∧ s.VNext t) ∧
     (i.op = 0x05 → a + i.n ≤ 128 →
       ∃ t, exec (.vSto w) s = .next t ∧
         (∀ k, k < i.n → Tab.get zeroIntAt t.ce.slots (a + k) =
           max (-2 ^ 25) (min (2 ^ 25 - 1) ((Exact.dy ((s.stageVals i.a i.n).getD k Dy.zero)).round 24))) ∧
         (∀ k, k < i.n → a + k ∈ t.ce.slotNew ∧ 0x300 + (a + k) ∉ t.ce.err2) ∧
         (∀ b, (b < a ∨ a + i.n ≤ b) → Tab.get zeroIntAt t.ce.slots b = Tab.get zeroIntAt s.ce.slots b) ∧ (∀ r, t.areg r = s.vBumped i r) ∧
         t.ce.data = s.ce.data ∧ t.ce.stages = s.ce.stages ∧ s.VDone t i ∧ s.VNext t) ∧
     (i.op = 0x01 →
       ∃ t, exec (.vEnd w) s = .next t ∧ t.ce.running = false ∧ t.ce.ended = true ∧
         (∀ k, k ∈ s.ce.slotNew → Tab.get zeroIntAt t.ce.duty k = Tab.get zeroIntAt s.ce.slots k) ∧
         (∀ k, k ∉ s.ce.slotNew → Tab.get zeroIntAt t.ce.duty k = Tab.get zeroIntAt s.ce.duty k) ∧ t.ce.predNow = s.ce.predNew ∧
         (∀ k, k ∈ s.ce.predNew → Tab.get zeroElemAt t.ce.pred k = Tab.get zeroElemAt s.ce.data (0x380 + k)) ∧
         (∀ k, k ∉ s.ce.predNew → Tab.get zeroElemAt t.ce.pred k = Tab.get zeroElemAt s.ce.pred k) ∧
         t.get R.CE_STAT_DONE = 1 ∧ t.get R.CE_STAT_BUSY = 0 ∧ t.get R.CE_TIME_USED = min (s.vStart i + 1) 65535 ∧
         t.get R.CE_TIME_MAX = max (s.get R.CE_TIME_MAX) (t.get R.CE_TIME_USED) ∧ t.ce.data = s.ce.data ∧ t.ce.slots = s.ce.slots ∧
         t.time = s.time ∧ (s.wrongBits 4 (s.progAddr s.ce.pc) = 0 → t.log = s.log) ∧ s.sameMemory t)) ∧
  (∀ (s : State) (w : Dword) (i : Ins), i = Ins.of w.toNat → s.vFetches w = true → s.ce.clk < s.vSpan →
     (s.wrongBits 4 (s.progAddr s.ce.pc) = 2 → ∀ q ∈ vInstrs w, i.op = q.1 → ∃ t, exec q.2 s = .next t ∧ s.VFaulted t 1) ∧
     (s.wrongBits 4 (s.progAddr s.ce.pc) ≠ 2 → i.illegal = true → ∃ t, exec (.illegalOpcode w) s = .next t ∧ s.VFaulted t 4) ∧
     (s.VIssues w →
       (∀ q ∈ [(0x03, Instr.vLdc w, i.n), (0x0B, .vMuls w, 1), (0x11, .vClamp w, 2), (0x16, .vMaczs w, 1), (0x17, .vMacs w, 1)], i.op = q.1 →
         (0x2000 < s.vAddr i + q.2.2 → ∃ t, exec q.2.1 s = .next t ∧ s.VFaulted t 5) ∧
         (s.vAddr i + q.2.2 ≤ 0x2000 → (∃ k, k < q.2.2 ∧ s.wrongBits 6 (s.vAddr i + k) = 2) →
           ∃ t, exec q.2.1 s = .next t ∧ s.VFaulted t 3)) ∧
       (∀ q ∈ [(0x20, Instr.vJmp w), (0x21, .vJany w), (0x22, .vJnone w), (0x23, .vLoop w)], i.op = q.1 → 0x2000 ≤ i.addr →
         ∃ t, exec q.2 s = .next t ∧ s.VFaulted t 5) ∧
       (i.op = 0x04 → (∃ k, k < i.n ∧ ((s.vAddr i + k) % 65536 < 0x380 ∨ (0x3A0 ≤ (s.vAddr i + k) % 65536 ∧ (s.vAddr i + k) % 65536 < 0x400))) →
         ∃ t, exec (.vSt w) s = .next t ∧ s.VFaulted t 6) ∧
       (i.op = 0x05 → 128 < s.vAddr i + i.n → ∃ t, exec (.vSto w) s = .next t ∧ s.VFaulted t 6) ∧
       (∀ q ∈ [(0x02, Instr.vLd w, i.n), (0x06, .vLda w, 1)], i.op = q.1 → ∀ k, k < q.2.2 → (∀ j, j < k → s.vLoadable (s.vAddr i + j)) →
         (0x3A0 ≤ (s.vAddr i + k) % 65536 ∧ (s.vAddr i + k) % 65536 < 0x400 → ∃ t, exec q.2.1 s = .next t ∧ s.VFaulted t 6) ∧
         ((s.vAddr i + k) % 65536 < 0x3A0 ∨ 0x400 ≤ (s.vAddr i + k) % 65536 → (s.vAddr i + k) % 65536 ∈ s.ce.err2 →
           ∃ t, exec q.2.1 s = .next t ∧ s.VFaulted t 2)) ∧
       (i.op = 0x23 → i.addr < 8192 → 4 ≤ s.ce.loops.length → ∃ t, exec (.vLoop w) s = .next t ∧ s.VFaulted t 7))) ∧
  (∀ (s : State) (w : Dword), s.vFetches w = false ∨ s.vSpan ≤ s.ce.clk →
     exec (.illegalOpcode w) s = .next s ∧ ∀ q ∈ vInstrs w, exec q.2 s = .next s)
end

