-- ==== Sys2Proof/Laws/State.lean ====
section
/-! SUPPORT. What each update of the state leaves as it was, one lemma for a field and an update. -/

namespace Sys2Proof.Machine

open Sys2Proof

@[simp] theorem State.setReg_parFlip (s : State) (a : Nat) (v : Word) : (s.setReg a v).parFlip = s.parFlip := (rfl)
@[simp] theorem State.setReg_sram (s : State) (a : Nat) (v : Word) : (s.setReg a v).sram = s.sram := (rfl)
@[simp] theorem State.setReg_mram (s : State) (a : Nat) (v : Word) : (s.setReg a v).mram = s.mram := (rfl)
@[simp] theorem State.setReg_time (s : State) (a : Nat) (v : Word) : (s.setReg a v).time = s.time := (rfl)
@[simp] theorem State.setReg_log (s : State) (a : Nat) (v : Word) : (s.setReg a v).log = s.log := (rfl)
@[simp] theorem State.setReg_mode (s : State) (a : Nat) (v : Word) : (s.setReg a v).mode = s.mode := (rfl)
@[simp] theorem State.setReg_sys (s : State) (a : Nat) (v : Word) : (s.setReg a v).sys = s.sys := (rfl)
@[simp] theorem State.setReg_poly (s : State) (a : Nat) (v : Word) : (s.setReg a v).poly = s.poly := (rfl)
@[simp] theorem State.setReg_ports (s : State) (a : Nat) (v : Word) : (s.setReg a v).ports = s.ports := (rfl)
@[simp] theorem State.setReg_prot (s : State) (a : Nat) (v : Word) : (s.setReg a v).prot = s.prot := (rfl)
@[simp] theorem State.setReg_ce (s : State) (a : Nat) (v : Word) : (s.setReg a v).ce = s.ce := (rfl)
@[simp] theorem State.setReg_loc (s : State) (a : Nat) (v : Word) : (s.setReg a v).loc = s.loc := (rfl)
@[simp] theorem State.setReg_gc (s : State) (a : Nat) (v : Word) : (s.setReg a v).gc = s.gc := (rfl)
@[simp] theorem State.setReg_isl (s : State) (a : Nat) (v : Word) : (s.setReg a v).isl = s.isl := (rfl)
@[simp] theorem State.setReg_slope (s : State) (a : Nat) (v : Word) : (s.setReg a v).slope = s.slope := (rfl)
@[simp] theorem State.setReg_adc (s : State) (a : Nat) (v : Word) : (s.setReg a v).adc = s.adc := (rfl)
@[simp] theorem State.setReg_cmp (s : State) (a : Nat) (v : Word) : (s.setReg a v).cmp = s.cmp := (rfl)
@[simp] theorem State.setReg_eth (s : State) (a : Nat) (v : Word) : (s.setReg a v).eth = s.eth := (rfl)
@[simp] theorem State.setReg_drv (s : State) (a : Nat) (v : Word) : (s.setReg a v).drv = s.drv := (rfl)
@[simp] theorem State.setReg_brk (s : State) (a : Nat) (v : Word) : (s.setReg a v).brk = s.brk := (rfl)
@[simp] theorem State.setReg_arc (s : State) (a : Nat) (v : Word) : (s.setReg a v).arc = s.arc := (rfl)
@[simp] theorem State.setReg_safe (s : State) (a : Nat) (v : Word) : (s.setReg a v).safe = s.safe := (rfl)
@[simp] theorem State.setReg_meter (s : State) (a : Nat) (v : Word) : (s.setReg a v).meter = s.meter := (rfl)
@[simp] theorem State.setReg_org (s : State) (a : Nat) (v : Word) : (s.setReg a v).org = s.org := (rfl)
@[simp] theorem State.setReg_fresh (s : State) (a : Nat) (v : Word) : (s.setReg a v).fresh = s.fresh := (rfl)
@[simp] theorem State.setReg_pending (s : State) (a : Nat) (v : Word) : (s.setReg a v).pending = s.pending := (rfl)

@[simp] theorem State.put_parFlip (s : State) (f : Fld) (v : Nat) : (s.put f v).parFlip = s.parFlip := (rfl)
@[simp] theorem State.put_sram (s : State) (f : Fld) (v : Nat) : (s.put f v).sram = s.sram := (rfl)
@[simp] theorem State.put_mram (s : State) (f : Fld) (v : Nat) : (s.put f v).mram = s.mram := (rfl)
@[simp] theorem State.put_time (s : State) (f : Fld) (v : Nat) : (s.put f v).time = s.time := (rfl)
@[simp] theorem State.put_log (s : State) (f : Fld) (v : Nat) : (s.put f v).log = s.log := (rfl)
@[simp] theorem State.put_mode (s : State) (f : Fld) (v : Nat) : (s.put f v).mode = s.mode := (rfl)
@[simp] theorem State.put_sys (s : State) (f : Fld) (v : Nat) : (s.put f v).sys = s.sys := (rfl)
@[simp] theorem State.put_poly (s : State) (f : Fld) (v : Nat) : (s.put f v).poly = s.poly := (rfl)
@[simp] theorem State.put_ports (s : State) (f : Fld) (v : Nat) : (s.put f v).ports = s.ports := (rfl)
@[simp] theorem State.put_prot (s : State) (f : Fld) (v : Nat) : (s.put f v).prot = s.prot := (rfl)
@[simp] theorem State.put_ce (s : State) (f : Fld) (v : Nat) : (s.put f v).ce = s.ce := (rfl)
@[simp] theorem State.put_loc (s : State) (f : Fld) (v : Nat) : (s.put f v).loc = s.loc := (rfl)
@[simp] theorem State.put_gc (s : State) (f : Fld) (v : Nat) : (s.put f v).gc = s.gc := (rfl)
@[simp] theorem State.put_isl (s : State) (f : Fld) (v : Nat) : (s.put f v).isl = s.isl := (rfl)
@[simp] theorem State.put_slope (s : State) (f : Fld) (v : Nat) : (s.put f v).slope = s.slope := (rfl)
@[simp] theorem State.put_adc (s : State) (f : Fld) (v : Nat) : (s.put f v).adc = s.adc := (rfl)
@[simp] theorem State.put_cmp (s : State) (f : Fld) (v : Nat) : (s.put f v).cmp = s.cmp := (rfl)
@[simp] theorem State.put_eth (s : State) (f : Fld) (v : Nat) : (s.put f v).eth = s.eth := (rfl)
@[simp] theorem State.put_drv (s : State) (f : Fld) (v : Nat) : (s.put f v).drv = s.drv := (rfl)
@[simp] theorem State.put_brk (s : State) (f : Fld) (v : Nat) : (s.put f v).brk = s.brk := (rfl)
@[simp] theorem State.put_arc (s : State) (f : Fld) (v : Nat) : (s.put f v).arc = s.arc := (rfl)
@[simp] theorem State.put_safe (s : State) (f : Fld) (v : Nat) : (s.put f v).safe = s.safe := (rfl)
@[simp] theorem State.put_meter (s : State) (f : Fld) (v : Nat) : (s.put f v).meter = s.meter := (rfl)
@[simp] theorem State.put_org (s : State) (f : Fld) (v : Nat) : (s.put f v).org = s.org := (rfl)
@[simp] theorem State.put_fresh (s : State) (f : Fld) (v : Nat) : (s.put f v).fresh = s.fresh := (rfl)
@[simp] theorem State.put_pending (s : State) (f : Fld) (v : Nat) : (s.put f v).pending = s.pending := (rfl)

@[simp] theorem State.putI_parFlip (s : State) (f : Fld) (v : Int) : (s.putI f v).parFlip = s.parFlip := (rfl)
@[simp] theorem State.putI_sram (s : State) (f : Fld) (v : Int) : (s.putI f v).sram = s.sram := (rfl)
@[simp] theorem State.putI_mram (s : State) (f : Fld) (v : Int) : (s.putI f v).mram = s.mram := (rfl)
@[simp] theorem State.putI_time (s : State) (f : Fld) (v : Int) : (s.putI f v).time = s.time := (rfl)
@[simp] theorem State.putI_log (s : State) (f : Fld) (v : Int) : (s.putI f v).log = s.log := (rfl)
@[simp] theorem State.putI_mode (s : State) (f : Fld) (v : Int) : (s.putI f v).mode = s.mode := (rfl)
@[simp] theorem State.putI_sys (s : State) (f : Fld) (v : Int) : (s.putI f v).sys = s.sys := (rfl)
@[simp] theorem State.putI_poly (s : State) (f : Fld) (v : Int) : (s.putI f v).poly = s.poly := (rfl)
@[simp] theorem State.putI_ports (s : State) (f : Fld) (v : Int) : (s.putI f v).ports = s.ports := (rfl)
@[simp] theorem State.putI_prot (s : State) (f : Fld) (v : Int) : (s.putI f v).prot = s.prot := (rfl)
@[simp] theorem State.putI_ce (s : State) (f : Fld) (v : Int) : (s.putI f v).ce = s.ce := (rfl)
@[simp] theorem State.putI_loc (s : State) (f : Fld) (v : Int) : (s.putI f v).loc = s.loc := (rfl)
@[simp] theorem State.putI_gc (s : State) (f : Fld) (v : Int) : (s.putI f v).gc = s.gc := (rfl)
@[simp] theorem State.putI_isl (s : State) (f : Fld) (v : Int) : (s.putI f v).isl = s.isl := (rfl)
@[simp] theorem State.putI_slope (s : State) (f : Fld) (v : Int) : (s.putI f v).slope = s.slope := (rfl)
@[simp] theorem State.putI_adc (s : State) (f : Fld) (v : Int) : (s.putI f v).adc = s.adc := (rfl)
@[simp] theorem State.putI_cmp (s : State) (f : Fld) (v : Int) : (s.putI f v).cmp = s.cmp := (rfl)
@[simp] theorem State.putI_eth (s : State) (f : Fld) (v : Int) : (s.putI f v).eth = s.eth := (rfl)
@[simp] theorem State.putI_drv (s : State) (f : Fld) (v : Int) : (s.putI f v).drv = s.drv := (rfl)
@[simp] theorem State.putI_brk (s : State) (f : Fld) (v : Int) : (s.putI f v).brk = s.brk := (rfl)
@[simp] theorem State.putI_arc (s : State) (f : Fld) (v : Int) : (s.putI f v).arc = s.arc := (rfl)
@[simp] theorem State.putI_safe (s : State) (f : Fld) (v : Int) : (s.putI f v).safe = s.safe := (rfl)
@[simp] theorem State.putI_meter (s : State) (f : Fld) (v : Int) : (s.putI f v).meter = s.meter := (rfl)
@[simp] theorem State.putI_org (s : State) (f : Fld) (v : Int) : (s.putI f v).org = s.org := (rfl)
@[simp] theorem State.putI_fresh (s : State) (f : Fld) (v : Int) : (s.putI f v).fresh = s.fresh := (rfl)
@[simp] theorem State.putI_pending (s : State) (f : Fld) (v : Int) : (s.putI f v).pending = s.pending := (rfl)

@[simp] theorem State.putB_parFlip (s : State) (f : Fld) (b : Bool) : (s.putB f b).parFlip = s.parFlip := (rfl)
@[simp] theorem State.putB_sram (s : State) (f : Fld) (b : Bool) : (s.putB f b).sram = s.sram := (rfl)
@[simp] theorem State.putB_mram (s : State) (f : Fld) (b : Bool) : (s.putB f b).mram = s.mram := (rfl)
@[simp] theorem State.putB_time (s : State) (f : Fld) (b : Bool) : (s.putB f b).time = s.time := (rfl)
@[simp] theorem State.putB_log (s : State) (f : Fld) (b : Bool) : (s.putB f b).log = s.log := (rfl)
@[simp] theorem State.putB_mode (s : State) (f : Fld) (b : Bool) : (s.putB f b).mode = s.mode := (rfl)
@[simp] theorem State.putB_sys (s : State) (f : Fld) (b : Bool) : (s.putB f b).sys = s.sys := (rfl)
@[simp] theorem State.putB_poly (s : State) (f : Fld) (b : Bool) : (s.putB f b).poly = s.poly := (rfl)
@[simp] theorem State.putB_ports (s : State) (f : Fld) (b : Bool) : (s.putB f b).ports = s.ports := (rfl)
@[simp] theorem State.putB_prot (s : State) (f : Fld) (b : Bool) : (s.putB f b).prot = s.prot := (rfl)
@[simp] theorem State.putB_ce (s : State) (f : Fld) (b : Bool) : (s.putB f b).ce = s.ce := (rfl)
@[simp] theorem State.putB_loc (s : State) (f : Fld) (b : Bool) : (s.putB f b).loc = s.loc := (rfl)
@[simp] theorem State.putB_gc (s : State) (f : Fld) (b : Bool) : (s.putB f b).gc = s.gc := (rfl)
@[simp] theorem State.putB_isl (s : State) (f : Fld) (b : Bool) : (s.putB f b).isl = s.isl := (rfl)
@[simp] theorem State.putB_slope (s : State) (f : Fld) (b : Bool) : (s.putB f b).slope = s.slope := (rfl)
@[simp] theorem State.putB_adc (s : State) (f : Fld) (b : Bool) : (s.putB f b).adc = s.adc := (rfl)
@[simp] theorem State.putB_cmp (s : State) (f : Fld) (b : Bool) : (s.putB f b).cmp = s.cmp := (rfl)
@[simp] theorem State.putB_eth (s : State) (f : Fld) (b : Bool) : (s.putB f b).eth = s.eth := (rfl)
@[simp] theorem State.putB_drv (s : State) (f : Fld) (b : Bool) : (s.putB f b).drv = s.drv := (rfl)
@[simp] theorem State.putB_brk (s : State) (f : Fld) (b : Bool) : (s.putB f b).brk = s.brk := (rfl)
@[simp] theorem State.putB_arc (s : State) (f : Fld) (b : Bool) : (s.putB f b).arc = s.arc := (rfl)
@[simp] theorem State.putB_safe (s : State) (f : Fld) (b : Bool) : (s.putB f b).safe = s.safe := (rfl)
@[simp] theorem State.putB_meter (s : State) (f : Fld) (b : Bool) : (s.putB f b).meter = s.meter := (rfl)
@[simp] theorem State.putB_org (s : State) (f : Fld) (b : Bool) : (s.putB f b).org = s.org := (rfl)
@[simp] theorem State.putB_fresh (s : State) (f : Fld) (b : Bool) : (s.putB f b).fresh = s.fresh := (rfl)
@[simp] theorem State.putB_pending (s : State) (f : Fld) (b : Bool) : (s.putB f b).pending = s.pending := (rfl)

@[simp] theorem State.putCfg_sram (s : State) (f : Fld) (v : Nat) : (s.putCfg f v).sram = s.sram := (rfl)
@[simp] theorem State.putCfg_mram (s : State) (f : Fld) (v : Nat) : (s.putCfg f v).mram = s.mram := (rfl)
@[simp] theorem State.putCfg_time (s : State) (f : Fld) (v : Nat) : (s.putCfg f v).time = s.time := (rfl)
@[simp] theorem State.putCfg_log (s : State) (f : Fld) (v : Nat) : (s.putCfg f v).log = s.log := (rfl)
@[simp] theorem State.putCfg_mode (s : State) (f : Fld) (v : Nat) : (s.putCfg f v).mode = s.mode := (rfl)
@[simp] theorem State.putCfg_sys (s : State) (f : Fld) (v : Nat) : (s.putCfg f v).sys = s.sys := (rfl)
@[simp] theorem State.putCfg_poly (s : State) (f : Fld) (v : Nat) : (s.putCfg f v).poly = s.poly := (rfl)
@[simp] theorem State.putCfg_ports (s : State) (f : Fld) (v : Nat) : (s.putCfg f v).ports = s.ports := (rfl)
@[simp] theorem State.putCfg_prot (s : State) (f : Fld) (v : Nat) : (s.putCfg f v).prot = s.prot := (rfl)
@[simp] theorem State.putCfg_ce (s : State) (f : Fld) (v : Nat) : (s.putCfg f v).ce = s.ce := (rfl)
@[simp] theorem State.putCfg_loc (s : State) (f : Fld) (v : Nat) : (s.putCfg f v).loc = s.loc := (rfl)
@[simp] theorem State.putCfg_gc (s : State) (f : Fld) (v : Nat) : (s.putCfg f v).gc = s.gc := (rfl)
@[simp] theorem State.putCfg_isl (s : State) (f : Fld) (v : Nat) : (s.putCfg f v).isl = s.isl := (rfl)
@[simp] theorem State.putCfg_slope (s : State) (f : Fld) (v : Nat) : (s.putCfg f v).slope = s.slope := (rfl)
@[simp] theorem State.putCfg_adc (s : State) (f : Fld) (v : Nat) : (s.putCfg f v).adc = s.adc := (rfl)
@[simp] theorem State.putCfg_cmp (s : State) (f : Fld) (v : Nat) : (s.putCfg f v).cmp = s.cmp := (rfl)
@[simp] theorem State.putCfg_eth (s : State) (f : Fld) (v : Nat) : (s.putCfg f v).eth = s.eth := (rfl)
@[simp] theorem State.putCfg_drv (s : State) (f : Fld) (v : Nat) : (s.putCfg f v).drv = s.drv := (rfl)
@[simp] theorem State.putCfg_brk (s : State) (f : Fld) (v : Nat) : (s.putCfg f v).brk = s.brk := (rfl)
@[simp] theorem State.putCfg_arc (s : State) (f : Fld) (v : Nat) : (s.putCfg f v).arc = s.arc := (rfl)
@[simp] theorem State.putCfg_safe (s : State) (f : Fld) (v : Nat) : (s.putCfg f v).safe = s.safe := (rfl)
@[simp] theorem State.putCfg_meter (s : State) (f : Fld) (v : Nat) : (s.putCfg f v).meter = s.meter := (rfl)
@[simp] theorem State.putCfg_org (s : State) (f : Fld) (v : Nat) : (s.putCfg f v).org = s.org := (rfl)
@[simp] theorem State.putCfg_fresh (s : State) (f : Fld) (v : Nat) : (s.putCfg f v).fresh = s.fresh := (rfl)
@[simp] theorem State.putCfg_pending (s : State) (f : Fld) (v : Nat) : (s.putCfg f v).pending = s.pending := (rfl)

@[simp] theorem State.bumpSat_parFlip (s : State) (f : Fld) : (s.bumpSat f).parFlip = s.parFlip := (rfl)
@[simp] theorem State.bumpSat_sram (s : State) (f : Fld) : (s.bumpSat f).sram = s.sram := (rfl)
@[simp] theorem State.bumpSat_mram (s : State) (f : Fld) : (s.bumpSat f).mram = s.mram := (rfl)
@[simp] theorem State.bumpSat_time (s : State) (f : Fld) : (s.bumpSat f).time = s.time := (rfl)
@[simp] theorem State.bumpSat_log (s : State) (f : Fld) : (s.bumpSat f).log = s.log := (rfl)
@[simp] theorem State.bumpSat_mode (s : State) (f : Fld) : (s.bumpSat f).mode = s.mode := (rfl)
@[simp] theorem State.bumpSat_sys (s : State) (f : Fld) : (s.bumpSat f).sys = s.sys := (rfl)
@[simp] theorem State.bumpSat_poly (s : State) (f : Fld) : (s.bumpSat f).poly = s.poly := (rfl)
@[simp] theorem State.bumpSat_ports (s : State) (f : Fld) : (s.bumpSat f).ports = s.ports := (rfl)
@[simp] theorem State.bumpSat_prot (s : State) (f : Fld) : (s.bumpSat f).prot = s.prot := (rfl)
@[simp] theorem State.bumpSat_ce (s : State) (f : Fld) : (s.bumpSat f).ce = s.ce := (rfl)
@[simp] theorem State.bumpSat_loc (s : State) (f : Fld) : (s.bumpSat f).loc = s.loc := (rfl)
@[simp] theorem State.bumpSat_gc (s : State) (f : Fld) : (s.bumpSat f).gc = s.gc := (rfl)
@[simp] theorem State.bumpSat_isl (s : State) (f : Fld) : (s.bumpSat f).isl = s.isl := (rfl)
@[simp] theorem State.bumpSat_slope (s : State) (f : Fld) : (s.bumpSat f).slope = s.slope := (rfl)
@[simp] theorem State.bumpSat_adc (s : State) (f : Fld) : (s.bumpSat f).adc = s.adc := (rfl)
@[simp] theorem State.bumpSat_cmp (s : State) (f : Fld) : (s.bumpSat f).cmp = s.cmp := (rfl)
@[simp] theorem State.bumpSat_eth (s : State) (f : Fld) : (s.bumpSat f).eth = s.eth := (rfl)
@[simp] theorem State.bumpSat_drv (s : State) (f : Fld) : (s.bumpSat f).drv = s.drv := (rfl)
@[simp] theorem State.bumpSat_brk (s : State) (f : Fld) : (s.bumpSat f).brk = s.brk := (rfl)
@[simp] theorem State.bumpSat_arc (s : State) (f : Fld) : (s.bumpSat f).arc = s.arc := (rfl)
@[simp] theorem State.bumpSat_safe (s : State) (f : Fld) : (s.bumpSat f).safe = s.safe := (rfl)
@[simp] theorem State.bumpSat_meter (s : State) (f : Fld) : (s.bumpSat f).meter = s.meter := (rfl)
@[simp] theorem State.bumpSat_org (s : State) (f : Fld) : (s.bumpSat f).org = s.org := (rfl)
@[simp] theorem State.bumpSat_fresh (s : State) (f : Fld) : (s.bumpSat f).fresh = s.fresh := (rfl)
@[simp] theorem State.bumpSat_pending (s : State) (f : Fld) : (s.bumpSat f).pending = s.pending := (rfl)

@[simp] theorem State.bumpMod_parFlip (s : State) (f : Fld) : (s.bumpMod f).parFlip = s.parFlip := (rfl)
@[simp] theorem State.bumpMod_sram (s : State) (f : Fld) : (s.bumpMod f).sram = s.sram := (rfl)
@[simp] theorem State.bumpMod_mram (s : State) (f : Fld) : (s.bumpMod f).mram = s.mram := (rfl)
@[simp] theorem State.bumpMod_time (s : State) (f : Fld) : (s.bumpMod f).time = s.time := (rfl)
@[simp] theorem State.bumpMod_log (s : State) (f : Fld) : (s.bumpMod f).log = s.log := (rfl)
@[simp] theorem State.bumpMod_mode (s : State) (f : Fld) : (s.bumpMod f).mode = s.mode := (rfl)
@[simp] theorem State.bumpMod_sys (s : State) (f : Fld) : (s.bumpMod f).sys = s.sys := (rfl)
@[simp] theorem State.bumpMod_poly (s : State) (f : Fld) : (s.bumpMod f).poly = s.poly := (rfl)
@[simp] theorem State.bumpMod_ports (s : State) (f : Fld) : (s.bumpMod f).ports = s.ports := (rfl)
@[simp] theorem State.bumpMod_prot (s : State) (f : Fld) : (s.bumpMod f).prot = s.prot := (rfl)
@[simp] theorem State.bumpMod_ce (s : State) (f : Fld) : (s.bumpMod f).ce = s.ce := (rfl)
@[simp] theorem State.bumpMod_loc (s : State) (f : Fld) : (s.bumpMod f).loc = s.loc := (rfl)
@[simp] theorem State.bumpMod_gc (s : State) (f : Fld) : (s.bumpMod f).gc = s.gc := (rfl)
@[simp] theorem State.bumpMod_isl (s : State) (f : Fld) : (s.bumpMod f).isl = s.isl := (rfl)
@[simp] theorem State.bumpMod_slope (s : State) (f : Fld) : (s.bumpMod f).slope = s.slope := (rfl)
@[simp] theorem State.bumpMod_adc (s : State) (f : Fld) : (s.bumpMod f).adc = s.adc := (rfl)
@[simp] theorem State.bumpMod_cmp (s : State) (f : Fld) : (s.bumpMod f).cmp = s.cmp := (rfl)
@[simp] theorem State.bumpMod_eth (s : State) (f : Fld) : (s.bumpMod f).eth = s.eth := (rfl)
@[simp] theorem State.bumpMod_drv (s : State) (f : Fld) : (s.bumpMod f).drv = s.drv := (rfl)
@[simp] theorem State.bumpMod_brk (s : State) (f : Fld) : (s.bumpMod f).brk = s.brk := (rfl)
@[simp] theorem State.bumpMod_arc (s : State) (f : Fld) : (s.bumpMod f).arc = s.arc := (rfl)
@[simp] theorem State.bumpMod_safe (s : State) (f : Fld) : (s.bumpMod f).safe = s.safe := (rfl)
@[simp] theorem State.bumpMod_meter (s : State) (f : Fld) : (s.bumpMod f).meter = s.meter := (rfl)
@[simp] theorem State.bumpMod_org (s : State) (f : Fld) : (s.bumpMod f).org = s.org := (rfl)
@[simp] theorem State.bumpMod_fresh (s : State) (f : Fld) : (s.bumpMod f).fresh = s.fresh := (rfl)
@[simp] theorem State.bumpMod_pending (s : State) (f : Fld) : (s.bumpMod f).pending = s.pending := (rfl)

@[simp] theorem State.irq_parFlip (s : State) (k : PageKind) (n i : Nat) : (s.irq k n i).parFlip = s.parFlip := (rfl)
@[simp] theorem State.irq_sram (s : State) (k : PageKind) (n i : Nat) : (s.irq k n i).sram = s.sram := (rfl)
@[simp] theorem State.irq_mram (s : State) (k : PageKind) (n i : Nat) : (s.irq k n i).mram = s.mram := (rfl)
@[simp] theorem State.irq_time (s : State) (k : PageKind) (n i : Nat) : (s.irq k n i).time = s.time := (rfl)
@[simp] theorem State.irq_log (s : State) (k : PageKind) (n i : Nat) : (s.irq k n i).log = s.log := (rfl)
@[simp] theorem State.irq_mode (s : State) (k : PageKind) (n i : Nat) : (s.irq k n i).mode = s.mode := (rfl)
@[simp] theorem State.irq_sys (s : State) (k : PageKind) (n i : Nat) : (s.irq k n i).sys = s.sys := (rfl)
@[simp] theorem State.irq_poly (s : State) (k : PageKind) (n i : Nat) : (s.irq k n i).poly = s.poly := (rfl)
@[simp] theorem State.irq_ports (s : State) (k : PageKind) (n i : Nat) : (s.irq k n i).ports = s.ports := (rfl)
@[simp] theorem State.irq_prot (s : State) (k : PageKind) (n i : Nat) : (s.irq k n i).prot = s.prot := (rfl)
@[simp] theorem State.irq_ce (s : State) (k : PageKind) (n i : Nat) : (s.irq k n i).ce = s.ce := (rfl)
@[simp] theorem State.irq_loc (s : State) (k : PageKind) (n i : Nat) : (s.irq k n i).loc = s.loc := (rfl)
@[simp] theorem State.irq_gc (s : State) (k : PageKind) (n i : Nat) : (s.irq k n i).gc = s.gc := (rfl)
@[simp] theorem State.irq_isl (s : State) (k : PageKind) (n i : Nat) : (s.irq k n i).isl = s.isl := (rfl)
@[simp] theorem State.irq_slope (s : State) (k : PageKind) (n i : Nat) : (s.irq k n i).slope = s.slope := (rfl)
@[simp] theorem State.irq_adc (s : State) (k : PageKind) (n i : Nat) : (s.irq k n i).adc = s.adc := (rfl)
@[simp] theorem State.irq_cmp (s : State) (k : PageKind) (n i : Nat) : (s.irq k n i).cmp = s.cmp := (rfl)
@[simp] theorem State.irq_eth (s : State) (k : PageKind) (n i : Nat) : (s.irq k n i).eth = s.eth := (rfl)
@[simp] theorem State.irq_drv (s : State) (k : PageKind) (n i : Nat) : (s.irq k n i).drv = s.drv := (rfl)
@[simp] theorem State.irq_brk (s : State) (k : PageKind) (n i : Nat) : (s.irq k n i).brk = s.brk := (rfl)
@[simp] theorem State.irq_arc (s : State) (k : PageKind) (n i : Nat) : (s.irq k n i).arc = s.arc := (rfl)
@[simp] theorem State.irq_safe (s : State) (k : PageKind) (n i : Nat) : (s.irq k n i).safe = s.safe := (rfl)
@[simp] theorem State.irq_meter (s : State) (k : PageKind) (n i : Nat) : (s.irq k n i).meter = s.meter := (rfl)
@[simp] theorem State.irq_org (s : State) (k : PageKind) (n i : Nat) : (s.irq k n i).org = s.org := (rfl)
@[simp] theorem State.irq_fresh (s : State) (k : PageKind) (n i : Nat) : (s.irq k n i).fresh = s.fresh := (rfl)
@[simp] theorem State.irq_pending (s : State) (k : PageKind) (n i : Nat) : (s.irq k n i).pending = s.pending := (rfl)

@[simp] theorem State.sramStore_regs (s : State) (a : Nat) (bs : List Byte) : (s.sramStore a bs).regs = s.regs := (rfl)
@[simp] theorem State.sramStore_parFlip (s : State) (a : Nat) (bs : List Byte) : (s.sramStore a bs).parFlip = s.parFlip := (rfl)
@[simp] theorem State.sramStore_mram (s : State) (a : Nat) (bs : List Byte) : (s.sramStore a bs).mram = s.mram := (rfl)
@[simp] theorem State.sramStore_time (s : State) (a : Nat) (bs : List Byte) : (s.sramStore a bs).time = s.time := (rfl)
@[simp] theorem State.sramStore_log (s : State) (a : Nat) (bs : List Byte) : (s.sramStore a bs).log = s.log := (rfl)
@[simp] theorem State.sramStore_mode (s : State) (a : Nat) (bs : List Byte) : (s.sramStore a bs).mode = s.mode := (rfl)
@[simp] theorem State.sramStore_sys (s : State) (a : Nat) (bs : List Byte) : (s.sramStore a bs).sys = s.sys := (rfl)
@[simp] theorem State.sramStore_poly (s : State) (a : Nat) (bs : List Byte) : (s.sramStore a bs).poly = s.poly := (rfl)
@[simp] theorem State.sramStore_ports (s : State) (a : Nat) (bs : List Byte) : (s.sramStore a bs).ports = s.ports := (rfl)
@[simp] theorem State.sramStore_prot (s : State) (a : Nat) (bs : List Byte) : (s.sramStore a bs).prot = s.prot := (rfl)
@[simp] theorem State.sramStore_ce (s : State) (a : Nat) (bs : List Byte) : (s.sramStore a bs).ce = s.ce := (rfl)
@[simp] theorem State.sramStore_loc (s : State) (a : Nat) (bs : List Byte) : (s.sramStore a bs).loc = s.loc := (rfl)
@[simp] theorem State.sramStore_gc (s : State) (a : Nat) (bs : List Byte) : (s.sramStore a bs).gc = s.gc := (rfl)
@[simp] theorem State.sramStore_isl (s : State) (a : Nat) (bs : List Byte) : (s.sramStore a bs).isl = s.isl := (rfl)
@[simp] theorem State.sramStore_slope (s : State) (a : Nat) (bs : List Byte) : (s.sramStore a bs).slope = s.slope := (rfl)
@[simp] theorem State.sramStore_adc (s : State) (a : Nat) (bs : List Byte) : (s.sramStore a bs).adc = s.adc := (rfl)
@[simp] theorem State.sramStore_cmp (s : State) (a : Nat) (bs : List Byte) : (s.sramStore a bs).cmp = s.cmp := (rfl)
@[simp] theorem State.sramStore_eth (s : State) (a : Nat) (bs : List Byte) : (s.sramStore a bs).eth = s.eth := (rfl)
@[simp] theorem State.sramStore_drv (s : State) (a : Nat) (bs : List Byte) : (s.sramStore a bs).drv = s.drv := (rfl)
@[simp] theorem State.sramStore_brk (s : State) (a : Nat) (bs : List Byte) : (s.sramStore a bs).brk = s.brk := (rfl)
@[simp] theorem State.sramStore_arc (s : State) (a : Nat) (bs : List Byte) : (s.sramStore a bs).arc = s.arc := (rfl)
@[simp] theorem State.sramStore_safe (s : State) (a : Nat) (bs : List Byte) : (s.sramStore a bs).safe = s.safe := (rfl)
@[simp] theorem State.sramStore_meter (s : State) (a : Nat) (bs : List Byte) : (s.sramStore a bs).meter = s.meter := (rfl)
@[simp] theorem State.sramStore_org (s : State) (a : Nat) (bs : List Byte) : (s.sramStore a bs).org = s.org := (rfl)
@[simp] theorem State.sramStore_fresh (s : State) (a : Nat) (bs : List Byte) : (s.sramStore a bs).fresh = s.fresh := (rfl)
@[simp] theorem State.sramStore_pending (s : State) (a : Nat) (bs : List Byte) : (s.sramStore a bs).pending = s.pending := (rfl)
@[simp] theorem State.sramStore_reg (s : State) (a : Nat) (bs : List Byte) (q : Nat) : (s.sramStore a bs).reg q = s.reg q := (rfl)
@[simp] theorem State.sramStore_get (s : State) (a : Nat) (bs : List Byte) (q : Fld) : (s.sramStore a bs).get q = s.get q := (rfl)
@[simp] theorem State.sramStore_getI (s : State) (a : Nat) (bs : List Byte) (q : Fld) : (s.sramStore a bs).getI q = s.getI q := (rfl)
@[simp] theorem State.sramStore_flag (s : State) (a : Nat) (bs : List Byte) (q : Fld) : (s.sramStore a bs).flag q = s.flag q := (rfl)

@[simp] theorem State.mramStore_regs (s : State) (a : Nat) (bs : List Byte) : (s.mramStore a bs).regs = s.regs := (rfl)
@[simp] theorem State.mramStore_parFlip (s : State) (a : Nat) (bs : List Byte) : (s.mramStore a bs).parFlip = s.parFlip := (rfl)
@[simp] theorem State.mramStore_sram (s : State) (a : Nat) (bs : List Byte) : (s.mramStore a bs).sram = s.sram := (rfl)
@[simp] theorem State.mramStore_time (s : State) (a : Nat) (bs : List Byte) : (s.mramStore a bs).time = s.time := (rfl)
@[simp] theorem State.mramStore_log (s : State) (a : Nat) (bs : List Byte) : (s.mramStore a bs).log = s.log := (rfl)
@[simp] theorem State.mramStore_mode (s : State) (a : Nat) (bs : List Byte) : (s.mramStore a bs).mode = s.mode := (rfl)
@[simp] theorem State.mramStore_sys (s : State) (a : Nat) (bs : List Byte) : (s.mramStore a bs).sys = s.sys := (rfl)
@[simp] theorem State.mramStore_poly (s : State) (a : Nat) (bs : List Byte) : (s.mramStore a bs).poly = s.poly := (rfl)
@[simp] theorem State.mramStore_ports (s : State) (a : Nat) (bs : List Byte) : (s.mramStore a bs).ports = s.ports := (rfl)
@[simp] theorem State.mramStore_prot (s : State) (a : Nat) (bs : List Byte) : (s.mramStore a bs).prot = s.prot := (rfl)
@[simp] theorem State.mramStore_ce (s : State) (a : Nat) (bs : List Byte) : (s.mramStore a bs).ce = s.ce := (rfl)
@[simp] theorem State.mramStore_loc (s : State) (a : Nat) (bs : List Byte) : (s.mramStore a bs).loc = s.loc := (rfl)
@[simp] theorem State.mramStore_gc (s : State) (a : Nat) (bs : List Byte) : (s.mramStore a bs).gc = s.gc := (rfl)
@[simp] theorem State.mramStore_isl (s : State) (a : Nat) (bs : List Byte) : (s.mramStore a bs).isl = s.isl := (rfl)
@[simp] theorem State.mramStore_slope (s : State) (a : Nat) (bs : List Byte) : (s.mramStore a bs).slope = s.slope := (rfl)
@[simp] theorem State.mramStore_adc (s : State) (a : Nat) (bs : List Byte) : (s.mramStore a bs).adc = s.adc := (rfl)
@[simp] theorem State.mramStore_cmp (s : State) (a : Nat) (bs : List Byte) : (s.mramStore a bs).cmp = s.cmp := (rfl)
@[simp] theorem State.mramStore_eth (s : State) (a : Nat) (bs : List Byte) : (s.mramStore a bs).eth = s.eth := (rfl)
@[simp] theorem State.mramStore_drv (s : State) (a : Nat) (bs : List Byte) : (s.mramStore a bs).drv = s.drv := (rfl)
@[simp] theorem State.mramStore_brk (s : State) (a : Nat) (bs : List Byte) : (s.mramStore a bs).brk = s.brk := (rfl)
@[simp] theorem State.mramStore_arc (s : State) (a : Nat) (bs : List Byte) : (s.mramStore a bs).arc = s.arc := (rfl)
@[simp] theorem State.mramStore_safe (s : State) (a : Nat) (bs : List Byte) : (s.mramStore a bs).safe = s.safe := (rfl)
@[simp] theorem State.mramStore_meter (s : State) (a : Nat) (bs : List Byte) : (s.mramStore a bs).meter = s.meter := (rfl)
@[simp] theorem State.mramStore_org (s : State) (a : Nat) (bs : List Byte) : (s.mramStore a bs).org = s.org := (rfl)
@[simp] theorem State.mramStore_fresh (s : State) (a : Nat) (bs : List Byte) : (s.mramStore a bs).fresh = s.fresh := (rfl)
@[simp] theorem State.mramStore_pending (s : State) (a : Nat) (bs : List Byte) : (s.mramStore a bs).pending = s.pending := (rfl)
@[simp] theorem State.mramStore_reg (s : State) (a : Nat) (bs : List Byte) (q : Nat) : (s.mramStore a bs).reg q = s.reg q := (rfl)
@[simp] theorem State.mramStore_get (s : State) (a : Nat) (bs : List Byte) (q : Fld) : (s.mramStore a bs).get q = s.get q := (rfl)
@[simp] theorem State.mramStore_getI (s : State) (a : Nat) (bs : List Byte) (q : Fld) : (s.mramStore a bs).getI q = s.getI q := (rfl)
@[simp] theorem State.mramStore_flag (s : State) (a : Nat) (bs : List Byte) (q : Fld) : (s.mramStore a bs).flag q = s.flag q := (rfl)

@[simp] theorem State.setTime_regs (s : State) (f : TimeSt → TimeSt) : (s.setTime f).regs = s.regs := (rfl)
@[simp] theorem State.setTime_parFlip (s : State) (f : TimeSt → TimeSt) : (s.setTime f).parFlip = s.parFlip := (rfl)
@[simp] theorem State.setTime_sram (s : State) (f : TimeSt → TimeSt) : (s.setTime f).sram = s.sram := (rfl)
@[simp] theorem State.setTime_mram (s : State) (f : TimeSt → TimeSt) : (s.setTime f).mram = s.mram := (rfl)
@[simp] theorem State.setTime_log (s : State) (f : TimeSt → TimeSt) : (s.setTime f).log = s.log := (rfl)
@[simp] theorem State.setTime_mode (s : State) (f : TimeSt → TimeSt) : (s.setTime f).mode = s.mode := (rfl)
@[simp] theorem State.setTime_sys (s : State) (f : TimeSt → TimeSt) : (s.setTime f).sys = s.sys := (rfl)
@[simp] theorem State.setTime_poly (s : State) (f : TimeSt → TimeSt) : (s.setTime f).poly = s.poly := (rfl)
@[simp] theorem State.setTime_ports (s : State) (f : TimeSt → TimeSt) : (s.setTime f).ports = s.ports := (rfl)
@[simp] theorem State.setTime_prot (s : State) (f : TimeSt → TimeSt) : (s.setTime f).prot = s.prot := (rfl)
@[simp] theorem State.setTime_ce (s : State) (f : TimeSt → TimeSt) : (s.setTime f).ce = s.ce := (rfl)
@[simp] theorem State.setTime_loc (s : State) (f : TimeSt → TimeSt) : (s.setTime f).loc = s.loc := (rfl)
@[simp] theorem State.setTime_gc (s : State) (f : TimeSt → TimeSt) : (s.setTime f).gc = s.gc := (rfl)
@[simp] theorem State.setTime_isl (s : State) (f : TimeSt → TimeSt) : (s.setTime f).isl = s.isl := (rfl)
@[simp] theorem State.setTime_slope (s : State) (f : TimeSt → TimeSt) : (s.setTime f).slope = s.slope := (rfl)
@[simp] theorem State.setTime_adc (s : State) (f : TimeSt → TimeSt) : (s.setTime f).adc = s.adc := (rfl)
@[simp] theorem State.setTime_cmp (s : State) (f : TimeSt → TimeSt) : (s.setTime f).cmp = s.cmp := (rfl)
@[simp] theorem State.setTime_eth (s : State) (f : TimeSt → TimeSt) : (s.setTime f).eth = s.eth := (rfl)
@[simp] theorem State.setTime_drv (s : State) (f : TimeSt → TimeSt) : (s.setTime f).drv = s.drv := (rfl)
@[simp] theorem State.setTime_brk (s : State) (f : TimeSt → TimeSt) : (s.setTime f).brk = s.brk := (rfl)
@[simp] theorem State.setTime_arc (s : State) (f : TimeSt → TimeSt) : (s.setTime f).arc = s.arc := (rfl)
@[simp] theorem State.setTime_safe (s : State) (f : TimeSt → TimeSt) : (s.setTime f).safe = s.safe := (rfl)
@[simp] theorem State.setTime_meter (s : State) (f : TimeSt → TimeSt) : (s.setTime f).meter = s.meter := (rfl)
@[simp] theorem State.setTime_org (s : State) (f : TimeSt → TimeSt) : (s.setTime f).org = s.org := (rfl)
@[simp] theorem State.setTime_fresh (s : State) (f : TimeSt → TimeSt) : (s.setTime f).fresh = s.fresh := (rfl)
@[simp] theorem State.setTime_pending (s : State) (f : TimeSt → TimeSt) : (s.setTime f).pending = s.pending := (rfl)
@[simp] theorem State.setTime_reg (s : State) (f : TimeSt → TimeSt) (q : Nat) : (s.setTime f).reg q = s.reg q := (rfl)
@[simp] theorem State.setTime_get (s : State) (f : TimeSt → TimeSt) (q : Fld) : (s.setTime f).get q = s.get q := (rfl)
@[simp] theorem State.setTime_getI (s : State) (f : TimeSt → TimeSt) (q : Fld) : (s.setTime f).getI q = s.getI q := (rfl)
@[simp] theorem State.setTime_flag (s : State) (f : TimeSt → TimeSt) (q : Fld) : (s.setTime f).flag q = s.flag q := (rfl)

@[simp] theorem State.setMode_regs (s : State) (f : ModeSt → ModeSt) : (s.setMode f).regs = s.regs := (rfl)
@[simp] theorem State.setMode_parFlip (s : State) (f : ModeSt → ModeSt) : (s.setMode f).parFlip = s.parFlip := (rfl)
@[simp] theorem State.setMode_sram (s : State) (f : ModeSt → ModeSt) : (s.setMode f).sram = s.sram := (rfl)
@[simp] theorem State.setMode_mram (s : State) (f : ModeSt → ModeSt) : (s.setMode f).mram = s.mram := (rfl)
@[simp] theorem State.setMode_time (s : State) (f : ModeSt → ModeSt) : (s.setMode f).time = s.time := (rfl)
@[simp] theorem State.setMode_log (s : State) (f : ModeSt → ModeSt) : (s.setMode f).log = s.log := (rfl)
@[simp] theorem State.setMode_sys (s : State) (f : ModeSt → ModeSt) : (s.setMode f).sys = s.sys := (rfl)
@[simp] theorem State.setMode_poly (s : State) (f : ModeSt → ModeSt) : (s.setMode f).poly = s.poly := (rfl)
@[simp] theorem State.setMode_ports (s : State) (f : ModeSt → ModeSt) : (s.setMode f).ports = s.ports := (rfl)
@[simp] theorem State.setMode_prot (s : State) (f : ModeSt → ModeSt) : (s.setMode f).prot = s.prot := (rfl)
@[simp] theorem State.setMode_ce (s : State) (f : ModeSt → ModeSt) : (s.setMode f).ce = s.ce := (rfl)
@[simp] theorem State.setMode_loc (s : State) (f : ModeSt → ModeSt) : (s.setMode f).loc = s.loc := (rfl)
@[simp] theorem State.setMode_gc (s : State) (f : ModeSt → ModeSt) : (s.setMode f).gc = s.gc := (rfl)
@[simp] theorem State.setMode_isl (s : State) (f : ModeSt → ModeSt) : (s.setMode f).isl = s.isl := (rfl)
@[simp] theorem State.setMode_slope (s : State) (f : ModeSt → ModeSt) : (s.setMode f).slope = s.slope := (rfl)
@[simp] theorem State.setMode_adc (s : State) (f : ModeSt → ModeSt) : (s.setMode f).adc = s.adc := (rfl)
@[simp] theorem State.setMode_cmp (s : State) (f : ModeSt → ModeSt) : (s.setMode f).cmp = s.cmp := (rfl)
@[simp] theorem State.setMode_eth (s : State) (f : ModeSt → ModeSt) : (s.setMode f).eth = s.eth := (rfl)
@[simp] theorem State.setMode_drv (s : State) (f : ModeSt → ModeSt) : (s.setMode f).drv = s.drv := (rfl)
@[simp] theorem State.setMode_brk (s : State) (f : ModeSt → ModeSt) : (s.setMode f).brk = s.brk := (rfl)
@[simp] theorem State.setMode_arc (s : State) (f : ModeSt → ModeSt) : (s.setMode f).arc = s.arc := (rfl)
@[simp] theorem State.setMode_safe (s : State) (f : ModeSt → ModeSt) : (s.setMode f).safe = s.safe := (rfl)
@[simp] theorem State.setMode_meter (s : State) (f : ModeSt → ModeSt) : (s.setMode f).meter = s.meter := (rfl)
@[simp] theorem State.setMode_org (s : State) (f : ModeSt → ModeSt) : (s.setMode f).org = s.org := (rfl)
@[simp] theorem State.setMode_fresh (s : State) (f : ModeSt → ModeSt) : (s.setMode f).fresh = s.fresh := (rfl)
@[simp] theorem State.setMode_pending (s : State) (f : ModeSt → ModeSt) : (s.setMode f).pending = s.pending := (rfl)
@[simp] theorem State.setMode_reg (s : State) (f : ModeSt → ModeSt) (q : Nat) : (s.setMode f).reg q = s.reg q := (rfl)
@[simp] theorem State.setMode_get (s : State) (f : ModeSt → ModeSt) (q : Fld) : (s.setMode f).get q = s.get q := (rfl)
@[simp] theorem State.setMode_getI (s : State) (f : ModeSt → ModeSt) (q : Fld) : (s.setMode f).getI q = s.getI q := (rfl)
@[simp] theorem State.setMode_flag (s : State) (f : ModeSt → ModeSt) (q : Fld) : (s.setMode f).flag q = s.flag q := (rfl)

@[simp] theorem State.setSys_regs (s : State) (f : SysSt → SysSt) : (s.setSys f).regs = s.regs := (rfl)
@[simp] theorem State.setSys_parFlip (s : State) (f : SysSt → SysSt) : (s.setSys f).parFlip = s.parFlip := (rfl)
@[simp] theorem State.setSys_sram (s : State) (f : SysSt → SysSt) : (s.setSys f).sram = s.sram := (rfl)
@[simp] theorem State.setSys_mram (s : State) (f : SysSt → SysSt) : (s.setSys f).mram = s.mram := (rfl)
@[simp] theorem State.setSys_time (s : State) (f : SysSt → SysSt) : (s.setSys f).time = s.time := (rfl)
@[simp] theorem State.setSys_log (s : State) (f : SysSt → SysSt) : (s.setSys f).log = s.log := (rfl)
@[simp] theorem State.setSys_mode (s : State) (f : SysSt → SysSt) : (s.setSys f).mode = s.mode := (rfl)
@[simp] theorem State.setSys_poly (s : State) (f : SysSt → SysSt) : (s.setSys f).poly = s.poly := (rfl)
@[simp] theorem State.setSys_ports (s : State) (f : SysSt → SysSt) : (s.setSys f).ports = s.ports := (rfl)
@[simp] theorem State.setSys_prot (s : State) (f : SysSt → SysSt) : (s.setSys f).prot = s.prot := (rfl)
@[simp] theorem State.setSys_ce (s : State) (f : SysSt → SysSt) : (s.setSys f).ce = s.ce := (rfl)
@[simp] theorem State.setSys_loc (s : State) (f : SysSt → SysSt) : (s.setSys f).loc = s.loc := (rfl)
@[simp] theorem State.setSys_gc (s : State) (f : SysSt → SysSt) : (s.setSys f).gc = s.gc := (rfl)
@[simp] theorem State.setSys_isl (s : State) (f : SysSt → SysSt) : (s.setSys f).isl = s.isl := (rfl)
@[simp] theorem State.setSys_slope (s : State) (f : SysSt → SysSt) : (s.setSys f).slope = s.slope := (rfl)
@[simp] theorem State.setSys_adc (s : State) (f : SysSt → SysSt) : (s.setSys f).adc = s.adc := (rfl)
@[simp] theorem State.setSys_cmp (s : State) (f : SysSt → SysSt) : (s.setSys f).cmp = s.cmp := (rfl)
@[simp] theorem State.setSys_eth (s : State) (f : SysSt → SysSt) : (s.setSys f).eth = s.eth := (rfl)
@[simp] theorem State.setSys_drv (s : State) (f : SysSt → SysSt) : (s.setSys f).drv = s.drv := (rfl)
@[simp] theorem State.setSys_brk (s : State) (f : SysSt → SysSt) : (s.setSys f).brk = s.brk := (rfl)
@[simp] theorem State.setSys_arc (s : State) (f : SysSt → SysSt) : (s.setSys f).arc = s.arc := (rfl)
@[simp] theorem State.setSys_safe (s : State) (f : SysSt → SysSt) : (s.setSys f).safe = s.safe := (rfl)
@[simp] theorem State.setSys_meter (s : State) (f : SysSt → SysSt) : (s.setSys f).meter = s.meter := (rfl)
@[simp] theorem State.setSys_org (s : State) (f : SysSt → SysSt) : (s.setSys f).org = s.org := (rfl)
@[simp] theorem State.setSys_fresh (s : State) (f : SysSt → SysSt) : (s.setSys f).fresh = s.fresh := (rfl)
@[simp] theorem State.setSys_pending (s : State) (f : SysSt → SysSt) : (s.setSys f).pending = s.pending := (rfl)
@[simp] theorem State.setSys_reg (s : State) (f : SysSt → SysSt) (q : Nat) : (s.setSys f).reg q = s.reg q := (rfl)
@[simp] theorem State.setSys_get (s : State) (f : SysSt → SysSt) (q : Fld) : (s.setSys f).get q = s.get q := (rfl)
@[simp] theorem State.setSys_getI (s : State) (f : SysSt → SysSt) (q : Fld) : (s.setSys f).getI q = s.getI q := (rfl)
@[simp] theorem State.setSys_flag (s : State) (f : SysSt → SysSt) (q : Fld) : (s.setSys f).flag q = s.flag q := (rfl)

@[simp] theorem State.setLeg_regs (s : State) (n : Nat) (l : LegSt) : (s.setLeg n l).regs = s.regs := (rfl)
@[simp] theorem State.setLeg_parFlip (s : State) (n : Nat) (l : LegSt) : (s.setLeg n l).parFlip = s.parFlip := (rfl)
@[simp] theorem State.setLeg_sram (s : State) (n : Nat) (l : LegSt) : (s.setLeg n l).sram = s.sram := (rfl)
@[simp] theorem State.setLeg_mram (s : State) (n : Nat) (l : LegSt) : (s.setLeg n l).mram = s.mram := (rfl)
@[simp] theorem State.setLeg_time (s : State) (n : Nat) (l : LegSt) : (s.setLeg n l).time = s.time := (rfl)
@[simp] theorem State.setLeg_log (s : State) (n : Nat) (l : LegSt) : (s.setLeg n l).log = s.log := (rfl)
@[simp] theorem State.setLeg_mode (s : State) (n : Nat) (l : LegSt) : (s.setLeg n l).mode = s.mode := (rfl)
@[simp] theorem State.setLeg_sys (s : State) (n : Nat) (l : LegSt) : (s.setLeg n l).sys = s.sys := (rfl)
@[simp] theorem State.setLeg_ports (s : State) (n : Nat) (l : LegSt) : (s.setLeg n l).ports = s.ports := (rfl)
@[simp] theorem State.setLeg_prot (s : State) (n : Nat) (l : LegSt) : (s.setLeg n l).prot = s.prot := (rfl)
@[simp] theorem State.setLeg_ce (s : State) (n : Nat) (l : LegSt) : (s.setLeg n l).ce = s.ce := (rfl)
@[simp] theorem State.setLeg_loc (s : State) (n : Nat) (l : LegSt) : (s.setLeg n l).loc = s.loc := (rfl)
@[simp] theorem State.setLeg_gc (s : State) (n : Nat) (l : LegSt) : (s.setLeg n l).gc = s.gc := (rfl)
@[simp] theorem State.setLeg_isl (s : State) (n : Nat) (l : LegSt) : (s.setLeg n l).isl = s.isl := (rfl)
@[simp] theorem State.setLeg_slope (s : State) (n : Nat) (l : LegSt) : (s.setLeg n l).slope = s.slope := (rfl)
@[simp] theorem State.setLeg_adc (s : State) (n : Nat) (l : LegSt) : (s.setLeg n l).adc = s.adc := (rfl)
@[simp] theorem State.setLeg_cmp (s : State) (n : Nat) (l : LegSt) : (s.setLeg n l).cmp = s.cmp := (rfl)
@[simp] theorem State.setLeg_eth (s : State) (n : Nat) (l : LegSt) : (s.setLeg n l).eth = s.eth := (rfl)
@[simp] theorem State.setLeg_drv (s : State) (n : Nat) (l : LegSt) : (s.setLeg n l).drv = s.drv := (rfl)
@[simp] theorem State.setLeg_brk (s : State) (n : Nat) (l : LegSt) : (s.setLeg n l).brk = s.brk := (rfl)
@[simp] theorem State.setLeg_arc (s : State) (n : Nat) (l : LegSt) : (s.setLeg n l).arc = s.arc := (rfl)
@[simp] theorem State.setLeg_safe (s : State) (n : Nat) (l : LegSt) : (s.setLeg n l).safe = s.safe := (rfl)
@[simp] theorem State.setLeg_meter (s : State) (n : Nat) (l : LegSt) : (s.setLeg n l).meter = s.meter := (rfl)
@[simp] theorem State.setLeg_org (s : State) (n : Nat) (l : LegSt) : (s.setLeg n l).org = s.org := (rfl)
@[simp] theorem State.setLeg_fresh (s : State) (n : Nat) (l : LegSt) : (s.setLeg n l).fresh = s.fresh := (rfl)
@[simp] theorem State.setLeg_pending (s : State) (n : Nat) (l : LegSt) : (s.setLeg n l).pending = s.pending := (rfl)
@[simp] theorem State.setLeg_reg (s : State) (n : Nat) (l : LegSt) (q : Nat) : (s.setLeg n l).reg q = s.reg q := (rfl)
@[simp] theorem State.setLeg_get (s : State) (n : Nat) (l : LegSt) (q : Fld) : (s.setLeg n l).get q = s.get q := (rfl)
@[simp] theorem State.setLeg_getI (s : State) (n : Nat) (l : LegSt) (q : Fld) : (s.setLeg n l).getI q = s.getI q := (rfl)
@[simp] theorem State.setLeg_flag (s : State) (n : Nat) (l : LegSt) (q : Fld) : (s.setLeg n l).flag q = s.flag q := (rfl)

@[simp] theorem State.setAux_regs (s : State) (m : Nat) (x : AuxSt) : (s.setAux m x).regs = s.regs := (rfl)
@[simp] theorem State.setAux_parFlip (s : State) (m : Nat) (x : AuxSt) : (s.setAux m x).parFlip = s.parFlip := (rfl)
@[simp] theorem State.setAux_sram (s : State) (m : Nat) (x : AuxSt) : (s.setAux m x).sram = s.sram := (rfl)
@[simp] theorem State.setAux_mram (s : State) (m : Nat) (x : AuxSt) : (s.setAux m x).mram = s.mram := (rfl)
@[simp] theorem State.setAux_time (s : State) (m : Nat) (x : AuxSt) : (s.setAux m x).time = s.time := (rfl)
@[simp] theorem State.setAux_log (s : State) (m : Nat) (x : AuxSt) : (s.setAux m x).log = s.log := (rfl)
@[simp] theorem State.setAux_mode (s : State) (m : Nat) (x : AuxSt) : (s.setAux m x).mode = s.mode := (rfl)
@[simp] theorem State.setAux_sys (s : State) (m : Nat) (x : AuxSt) : (s.setAux m x).sys = s.sys := (rfl)
@[simp] theorem State.setAux_ports (s : State) (m : Nat) (x : AuxSt) : (s.setAux m x).ports = s.ports := (rfl)
@[simp] theorem State.setAux_prot (s : State) (m : Nat) (x : AuxSt) : (s.setAux m x).prot = s.prot := (rfl)
@[simp] theorem State.setAux_ce (s : State) (m : Nat) (x : AuxSt) : (s.setAux m x).ce = s.ce := (rfl)
@[simp] theorem State.setAux_loc (s : State) (m : Nat) (x : AuxSt) : (s.setAux m x).loc = s.loc := (rfl)
@[simp] theorem State.setAux_gc (s : State) (m : Nat) (x : AuxSt) : (s.setAux m x).gc = s.gc := (rfl)
@[simp] theorem State.setAux_isl (s : State) (m : Nat) (x : AuxSt) : (s.setAux m x).isl = s.isl := (rfl)
@[simp] theorem State.setAux_slope (s : State) (m : Nat) (x : AuxSt) : (s.setAux m x).slope = s.slope := (rfl)
@[simp] theorem State.setAux_adc (s : State) (m : Nat) (x : AuxSt) : (s.setAux m x).adc = s.adc := (rfl)
@[simp] theorem State.setAux_cmp (s : State) (m : Nat) (x : AuxSt) : (s.setAux m x).cmp = s.cmp := (rfl)
@[simp] theorem State.setAux_eth (s : State) (m : Nat) (x : AuxSt) : (s.setAux m x).eth = s.eth := (rfl)
@[simp] theorem State.setAux_drv (s : State) (m : Nat) (x : AuxSt) : (s.setAux m x).drv = s.drv := (rfl)
@[simp] theorem State.setAux_brk (s : State) (m : Nat) (x : AuxSt) : (s.setAux m x).brk = s.brk := (rfl)
@[simp] theorem State.setAux_arc (s : State) (m : Nat) (x : AuxSt) : (s.setAux m x).arc = s.arc := (rfl)
@[simp] theorem State.setAux_safe (s : State) (m : Nat) (x : AuxSt) : (s.setAux m x).safe = s.safe := (rfl)
@[simp] theorem State.setAux_meter (s : State) (m : Nat) (x : AuxSt) : (s.setAux m x).meter = s.meter := (rfl)
@[simp] theorem State.setAux_org (s : State) (m : Nat) (x : AuxSt) : (s.setAux m x).org = s.org := (rfl)
@[simp] theorem State.setAux_fresh (s : State) (m : Nat) (x : AuxSt) : (s.setAux m x).fresh = s.fresh := (rfl)
@[simp] theorem State.setAux_pending (s : State) (m : Nat) (x : AuxSt) : (s.setAux m x).pending = s.pending := (rfl)
@[simp] theorem State.setAux_reg (s : State) (m : Nat) (x : AuxSt) (q : Nat) : (s.setAux m x).reg q = s.reg q := (rfl)
@[simp] theorem State.setAux_get (s : State) (m : Nat) (x : AuxSt) (q : Fld) : (s.setAux m x).get q = s.get q := (rfl)
@[simp] theorem State.setAux_getI (s : State) (m : Nat) (x : AuxSt) (q : Fld) : (s.setAux m x).getI q = s.getI q := (rfl)
@[simp] theorem State.setAux_flag (s : State) (m : Nat) (x : AuxSt) (q : Fld) : (s.setAux m x).flag q = s.flag q := (rfl)

@[simp] theorem State.setPort_regs (s : State) (p : Nat) (x : PortSt) : (s.setPort p x).regs = s.regs := (rfl)
@[simp] theorem State.setPort_parFlip (s : State) (p : Nat) (x : PortSt) : (s.setPort p x).parFlip = s.parFlip := (rfl)
@[simp] theorem State.setPort_sram (s : State) (p : Nat) (x : PortSt) : (s.setPort p x).sram = s.sram := (rfl)
@[simp] theorem State.setPort_mram (s : State) (p : Nat) (x : PortSt) : (s.setPort p x).mram = s.mram := (rfl)
@[simp] theorem State.setPort_time (s : State) (p : Nat) (x : PortSt) : (s.setPort p x).time = s.time := (rfl)
@[simp] theorem State.setPort_log (s : State) (p : Nat) (x : PortSt) : (s.setPort p x).log = s.log := (rfl)
@[simp] theorem State.setPort_mode (s : State) (p : Nat) (x : PortSt) : (s.setPort p x).mode = s.mode := (rfl)
@[simp] theorem State.setPort_sys (s : State) (p : Nat) (x : PortSt) : (s.setPort p x).sys = s.sys := (rfl)
@[simp] theorem State.setPort_poly (s : State) (p : Nat) (x : PortSt) : (s.setPort p x).poly = s.poly := (rfl)
@[simp] theorem State.setPort_prot (s : State) (p : Nat) (x : PortSt) : (s.setPort p x).prot = s.prot := (rfl)
@[simp] theorem State.setPort_ce (s : State) (p : Nat) (x : PortSt) : (s.setPort p x).ce = s.ce := (rfl)
@[simp] theorem State.setPort_loc (s : State) (p : Nat) (x : PortSt) : (s.setPort p x).loc = s.loc := (rfl)
@[simp] theorem State.setPort_gc (s : State) (p : Nat) (x : PortSt) : (s.setPort p x).gc = s.gc := (rfl)
@[simp] theorem State.setPort_isl (s : State) (p : Nat) (x : PortSt) : (s.setPort p x).isl = s.isl := (rfl)
@[simp] theorem State.setPort_slope (s : State) (p : Nat) (x : PortSt) : (s.setPort p x).slope = s.slope := (rfl)
@[simp] theorem State.setPort_adc (s : State) (p : Nat) (x : PortSt) : (s.setPort p x).adc = s.adc := (rfl)
@[simp] theorem State.setPort_cmp (s : State) (p : Nat) (x : PortSt) : (s.setPort p x).cmp = s.cmp := (rfl)
@[simp] theorem State.setPort_eth (s : State) (p : Nat) (x : PortSt) : (s.setPort p x).eth = s.eth := (rfl)
@[simp] theorem State.setPort_drv (s : State) (p : Nat) (x : PortSt) : (s.setPort p x).drv = s.drv := (rfl)
@[simp] theorem State.setPort_brk (s : State) (p : Nat) (x : PortSt) : (s.setPort p x).brk = s.brk := (rfl)
@[simp] theorem State.setPort_arc (s : State) (p : Nat) (x : PortSt) : (s.setPort p x).arc = s.arc := (rfl)
@[simp] theorem State.setPort_safe (s : State) (p : Nat) (x : PortSt) : (s.setPort p x).safe = s.safe := (rfl)
@[simp] theorem State.setPort_meter (s : State) (p : Nat) (x : PortSt) : (s.setPort p x).meter = s.meter := (rfl)
@[simp] theorem State.setPort_org (s : State) (p : Nat) (x : PortSt) : (s.setPort p x).org = s.org := (rfl)
@[simp] theorem State.setPort_fresh (s : State) (p : Nat) (x : PortSt) : (s.setPort p x).fresh = s.fresh := (rfl)
@[simp] theorem State.setPort_pending (s : State) (p : Nat) (x : PortSt) : (s.setPort p x).pending = s.pending := (rfl)
@[simp] theorem State.setPort_reg (s : State) (p : Nat) (x : PortSt) (q : Nat) : (s.setPort p x).reg q = s.reg q := (rfl)
@[simp] theorem State.setPort_get (s : State) (p : Nat) (x : PortSt) (q : Fld) : (s.setPort p x).get q = s.get q := (rfl)
@[simp] theorem State.setPort_getI (s : State) (p : Nat) (x : PortSt) (q : Fld) : (s.setPort p x).getI q = s.getI q := (rfl)
@[simp] theorem State.setPort_flag (s : State) (p : Nat) (x : PortSt) (q : Fld) : (s.setPort p x).flag q = s.flag q := (rfl)

@[simp] theorem State.setCe_regs (s : State) (f : CeSt → CeSt) : (s.setCe f).regs = s.regs := (rfl)
@[simp] theorem State.setCe_parFlip (s : State) (f : CeSt → CeSt) : (s.setCe f).parFlip = s.parFlip := (rfl)
@[simp] theorem State.setCe_sram (s : State) (f : CeSt → CeSt) : (s.setCe f).sram = s.sram := (rfl)
@[simp] theorem State.setCe_mram (s : State) (f : CeSt → CeSt) : (s.setCe f).mram = s.mram := (rfl)
@[simp] theorem State.setCe_time (s : State) (f : CeSt → CeSt) : (s.setCe f).time = s.time := (rfl)
@[simp] theorem State.setCe_log (s : State) (f : CeSt → CeSt) : (s.setCe f).log = s.log := (rfl)
@[simp] theorem State.setCe_mode (s : State) (f : CeSt → CeSt) : (s.setCe f).mode = s.mode := (rfl)
@[simp] theorem State.setCe_sys (s : State) (f : CeSt → CeSt) : (s.setCe f).sys = s.sys := (rfl)
@[simp] theorem State.setCe_poly (s : State) (f : CeSt → CeSt) : (s.setCe f).poly = s.poly := (rfl)
@[simp] theorem State.setCe_ports (s : State) (f : CeSt → CeSt) : (s.setCe f).ports = s.ports := (rfl)
@[simp] theorem State.setCe_prot (s : State) (f : CeSt → CeSt) : (s.setCe f).prot = s.prot := (rfl)
@[simp] theorem State.setCe_loc (s : State) (f : CeSt → CeSt) : (s.setCe f).loc = s.loc := (rfl)
@[simp] theorem State.setCe_gc (s : State) (f : CeSt → CeSt) : (s.setCe f).gc = s.gc := (rfl)
@[simp] theorem State.setCe_isl (s : State) (f : CeSt → CeSt) : (s.setCe f).isl = s.isl := (rfl)
@[simp] theorem State.setCe_slope (s : State) (f : CeSt → CeSt) : (s.setCe f).slope = s.slope := (rfl)
@[simp] theorem State.setCe_adc (s : State) (f : CeSt → CeSt) : (s.setCe f).adc = s.adc := (rfl)
@[simp] theorem State.setCe_cmp (s : State) (f : CeSt → CeSt) : (s.setCe f).cmp = s.cmp := (rfl)
@[simp] theorem State.setCe_eth (s : State) (f : CeSt → CeSt) : (s.setCe f).eth = s.eth := (rfl)
@[simp] theorem State.setCe_drv (s : State) (f : CeSt → CeSt) : (s.setCe f).drv = s.drv := (rfl)
@[simp] theorem State.setCe_brk (s : State) (f : CeSt → CeSt) : (s.setCe f).brk = s.brk := (rfl)
@[simp] theorem State.setCe_arc (s : State) (f : CeSt → CeSt) : (s.setCe f).arc = s.arc := (rfl)
@[simp] theorem State.setCe_safe (s : State) (f : CeSt → CeSt) : (s.setCe f).safe = s.safe := (rfl)
@[simp] theorem State.setCe_meter (s : State) (f : CeSt → CeSt) : (s.setCe f).meter = s.meter := (rfl)
@[simp] theorem State.setCe_org (s : State) (f : CeSt → CeSt) : (s.setCe f).org = s.org := (rfl)
@[simp] theorem State.setCe_fresh (s : State) (f : CeSt → CeSt) : (s.setCe f).fresh = s.fresh := (rfl)
@[simp] theorem State.setCe_pending (s : State) (f : CeSt → CeSt) : (s.setCe f).pending = s.pending := (rfl)
@[simp] theorem State.setCe_reg (s : State) (f : CeSt → CeSt) (q : Nat) : (s.setCe f).reg q = s.reg q := (rfl)
@[simp] theorem State.setCe_get (s : State) (f : CeSt → CeSt) (q : Fld) : (s.setCe f).get q = s.get q := (rfl)
@[simp] theorem State.setCe_getI (s : State) (f : CeSt → CeSt) (q : Fld) : (s.setCe f).getI q = s.getI q := (rfl)
@[simp] theorem State.setCe_flag (s : State) (f : CeSt → CeSt) (q : Fld) : (s.setCe f).flag q = s.flag q := (rfl)

@[simp] theorem State.setLoc_regs (s : State) (f : LocSt → LocSt) : (s.setLoc f).regs = s.regs := (rfl)
@[simp] theorem State.setLoc_parFlip (s : State) (f : LocSt → LocSt) : (s.setLoc f).parFlip = s.parFlip := (rfl)
@[simp] theorem State.setLoc_sram (s : State) (f : LocSt → LocSt) : (s.setLoc f).sram = s.sram := (rfl)
@[simp] theorem State.setLoc_mram (s : State) (f : LocSt → LocSt) : (s.setLoc f).mram = s.mram := (rfl)
@[simp] theorem State.setLoc_time (s : State) (f : LocSt → LocSt) : (s.setLoc f).time = s.time := (rfl)
@[simp] theorem State.setLoc_log (s : State) (f : LocSt → LocSt) : (s.setLoc f).log = s.log := (rfl)
@[simp] theorem State.setLoc_mode (s : State) (f : LocSt → LocSt) : (s.setLoc f).mode = s.mode := (rfl)
@[simp] theorem State.setLoc_sys (s : State) (f : LocSt → LocSt) : (s.setLoc f).sys = s.sys := (rfl)
@[simp] theorem State.setLoc_poly (s : State) (f : LocSt → LocSt) : (s.setLoc f).poly = s.poly := (rfl)
@[simp] theorem State.setLoc_ports (s : State) (f : LocSt → LocSt) : (s.setLoc f).ports = s.ports := (rfl)
@[simp] theorem State.setLoc_prot (s : State) (f : LocSt → LocSt) : (s.setLoc f).prot = s.prot := (rfl)
@[simp] theorem State.setLoc_ce (s : State) (f : LocSt → LocSt) : (s.setLoc f).ce = s.ce := (rfl)
@[simp] theorem State.setLoc_gc (s : State) (f : LocSt → LocSt) : (s.setLoc f).gc = s.gc := (rfl)
@[simp] theorem State.setLoc_isl (s : State) (f : LocSt → LocSt) : (s.setLoc f).isl = s.isl := (rfl)
@[simp] theorem State.setLoc_slope (s : State) (f : LocSt → LocSt) : (s.setLoc f).slope = s.slope := (rfl)
@[simp] theorem State.setLoc_adc (s : State) (f : LocSt → LocSt) : (s.setLoc f).adc = s.adc := (rfl)
@[simp] theorem State.setLoc_cmp (s : State) (f : LocSt → LocSt) : (s.setLoc f).cmp = s.cmp := (rfl)
@[simp] theorem State.setLoc_eth (s : State) (f : LocSt → LocSt) : (s.setLoc f).eth = s.eth := (rfl)
@[simp] theorem State.setLoc_drv (s : State) (f : LocSt → LocSt) : (s.setLoc f).drv = s.drv := (rfl)
@[simp] theorem State.setLoc_brk (s : State) (f : LocSt → LocSt) : (s.setLoc f).brk = s.brk := (rfl)
@[simp] theorem State.setLoc_arc (s : State) (f : LocSt → LocSt) : (s.setLoc f).arc = s.arc := (rfl)
@[simp] theorem State.setLoc_safe (s : State) (f : LocSt → LocSt) : (s.setLoc f).safe = s.safe := (rfl)
@[simp] theorem State.setLoc_meter (s : State) (f : LocSt → LocSt) : (s.setLoc f).meter = s.meter := (rfl)
@[simp] theorem State.setLoc_org (s : State) (f : LocSt → LocSt) : (s.setLoc f).org = s.org := (rfl)
@[simp] theorem State.setLoc_fresh (s : State) (f : LocSt → LocSt) : (s.setLoc f).fresh = s.fresh := (rfl)
@[simp] theorem State.setLoc_pending (s : State) (f : LocSt → LocSt) : (s.setLoc f).pending = s.pending := (rfl)
@[simp] theorem State.setLoc_reg (s : State) (f : LocSt → LocSt) (q : Nat) : (s.setLoc f).reg q = s.reg q := (rfl)
@[simp] theorem State.setLoc_get (s : State) (f : LocSt → LocSt) (q : Fld) : (s.setLoc f).get q = s.get q := (rfl)
@[simp] theorem State.setLoc_getI (s : State) (f : LocSt → LocSt) (q : Fld) : (s.setLoc f).getI q = s.getI q := (rfl)
@[simp] theorem State.setLoc_flag (s : State) (f : LocSt → LocSt) (q : Fld) : (s.setLoc f).flag q = s.flag q := (rfl)

@[simp] theorem State.setIsl_regs (s : State) (f : IslSt → IslSt) : (s.setIsl f).regs = s.regs := (rfl)
@[simp] theorem State.setIsl_parFlip (s : State) (f : IslSt → IslSt) : (s.setIsl f).parFlip = s.parFlip := (rfl)
@[simp] theorem State.setIsl_sram (s : State) (f : IslSt → IslSt) : (s.setIsl f).sram = s.sram := (rfl)
@[simp] theorem State.setIsl_mram (s : State) (f : IslSt → IslSt) : (s.setIsl f).mram = s.mram := (rfl)
@[simp] theorem State.setIsl_time (s : State) (f : IslSt → IslSt) : (s.setIsl f).time = s.time := (rfl)
@[simp] theorem State.setIsl_log (s : State) (f : IslSt → IslSt) : (s.setIsl f).log = s.log := (rfl)
@[simp] theorem State.setIsl_mode (s : State) (f : IslSt → IslSt) : (s.setIsl f).mode = s.mode := (rfl)
@[simp] theorem State.setIsl_sys (s : State) (f : IslSt → IslSt) : (s.setIsl f).sys = s.sys := (rfl)
@[simp] theorem State.setIsl_poly (s : State) (f : IslSt → IslSt) : (s.setIsl f).poly = s.poly := (rfl)
@[simp] theorem State.setIsl_ports (s : State) (f : IslSt → IslSt) : (s.setIsl f).ports = s.ports := (rfl)
@[simp] theorem State.setIsl_prot (s : State) (f : IslSt → IslSt) : (s.setIsl f).prot = s.prot := (rfl)
@[simp] theorem State.setIsl_ce (s : State) (f : IslSt → IslSt) : (s.setIsl f).ce = s.ce := (rfl)
@[simp] theorem State.setIsl_loc (s : State) (f : IslSt → IslSt) : (s.setIsl f).loc = s.loc := (rfl)
@[simp] theorem State.setIsl_gc (s : State) (f : IslSt → IslSt) : (s.setIsl f).gc = s.gc := (rfl)
@[simp] theorem State.setIsl_slope (s : State) (f : IslSt → IslSt) : (s.setIsl f).slope = s.slope := (rfl)
@[simp] theorem State.setIsl_adc (s : State) (f : IslSt → IslSt) : (s.setIsl f).adc = s.adc := (rfl)
@[simp] theorem State.setIsl_cmp (s : State) (f : IslSt → IslSt) : (s.setIsl f).cmp = s.cmp := (rfl)
@[simp] theorem State.setIsl_eth (s : State) (f : IslSt → IslSt) : (s.setIsl f).eth = s.eth := (rfl)
@[simp] theorem State.setIsl_drv (s : State) (f : IslSt → IslSt) : (s.setIsl f).drv = s.drv := (rfl)
@[simp] theorem State.setIsl_brk (s : State) (f : IslSt → IslSt) : (s.setIsl f).brk = s.brk := (rfl)
@[simp] theorem State.setIsl_arc (s : State) (f : IslSt → IslSt) : (s.setIsl f).arc = s.arc := (rfl)
@[simp] theorem State.setIsl_safe (s : State) (f : IslSt → IslSt) : (s.setIsl f).safe = s.safe := (rfl)
@[simp] theorem State.setIsl_meter (s : State) (f : IslSt → IslSt) : (s.setIsl f).meter = s.meter := (rfl)
@[simp] theorem State.setIsl_org (s : State) (f : IslSt → IslSt) : (s.setIsl f).org = s.org := (rfl)
@[simp] theorem State.setIsl_fresh (s : State) (f : IslSt → IslSt) : (s.setIsl f).fresh = s.fresh := (rfl)
@[simp] theorem State.setIsl_pending (s : State) (f : IslSt → IslSt) : (s.setIsl f).pending = s.pending := (rfl)
@[simp] theorem State.setIsl_reg (s : State) (f : IslSt → IslSt) (q : Nat) : (s.setIsl f).reg q = s.reg q := (rfl)
@[simp] theorem State.setIsl_get (s : State) (f : IslSt → IslSt) (q : Fld) : (s.setIsl f).get q = s.get q := (rfl)
@[simp] theorem State.setIsl_getI (s : State) (f : IslSt → IslSt) (q : Fld) : (s.setIsl f).getI q = s.getI q := (rfl)
@[simp] theorem State.setIsl_flag (s : State) (f : IslSt → IslSt) (q : Fld) : (s.setIsl f).flag q = s.flag q := (rfl)

@[simp] theorem State.setAdc_regs (s : State) (f : AdcSt → AdcSt) : (s.setAdc f).regs = s.regs := (rfl)
@[simp] theorem State.setAdc_parFlip (s : State) (f : AdcSt → AdcSt) : (s.setAdc f).parFlip = s.parFlip := (rfl)
@[simp] theorem State.setAdc_sram (s : State) (f : AdcSt → AdcSt) : (s.setAdc f).sram = s.sram := (rfl)
@[simp] theorem State.setAdc_mram (s : State) (f : AdcSt → AdcSt) : (s.setAdc f).mram = s.mram := (rfl)
@[simp] theorem State.setAdc_time (s : State) (f : AdcSt → AdcSt) : (s.setAdc f).time = s.time := (rfl)
@[simp] theorem State.setAdc_log (s : State) (f : AdcSt → AdcSt) : (s.setAdc f).log = s.log := (rfl)
@[simp] theorem State.setAdc_mode (s : State) (f : AdcSt → AdcSt) : (s.setAdc f).mode = s.mode := (rfl)
@[simp] theorem State.setAdc_sys (s : State) (f : AdcSt → AdcSt) : (s.setAdc f).sys = s.sys := (rfl)
@[simp] theorem State.setAdc_poly (s : State) (f : AdcSt → AdcSt) : (s.setAdc f).poly = s.poly := (rfl)
@[simp] theorem State.setAdc_ports (s : State) (f : AdcSt → AdcSt) : (s.setAdc f).ports = s.ports := (rfl)
@[simp] theorem State.setAdc_prot (s : State) (f : AdcSt → AdcSt) : (s.setAdc f).prot = s.prot := (rfl)
@[simp] theorem State.setAdc_ce (s : State) (f : AdcSt → AdcSt) : (s.setAdc f).ce = s.ce := (rfl)
@[simp] theorem State.setAdc_loc (s : State) (f : AdcSt → AdcSt) : (s.setAdc f).loc = s.loc := (rfl)
@[simp] theorem State.setAdc_gc (s : State) (f : AdcSt → AdcSt) : (s.setAdc f).gc = s.gc := (rfl)
@[simp] theorem State.setAdc_isl (s : State) (f : AdcSt → AdcSt) : (s.setAdc f).isl = s.isl := (rfl)
@[simp] theorem State.setAdc_slope (s : State) (f : AdcSt → AdcSt) : (s.setAdc f).slope = s.slope := (rfl)
@[simp] theorem State.setAdc_cmp (s : State) (f : AdcSt → AdcSt) : (s.setAdc f).cmp = s.cmp := (rfl)
@[simp] theorem State.setAdc_eth (s : State) (f : AdcSt → AdcSt) : (s.setAdc f).eth = s.eth := (rfl)
@[simp] theorem State.setAdc_drv (s : State) (f : AdcSt → AdcSt) : (s.setAdc f).drv = s.drv := (rfl)
@[simp] theorem State.setAdc_brk (s : State) (f : AdcSt → AdcSt) : (s.setAdc f).brk = s.brk := (rfl)
@[simp] theorem State.setAdc_arc (s : State) (f : AdcSt → AdcSt) : (s.setAdc f).arc = s.arc := (rfl)
@[simp] theorem State.setAdc_safe (s : State) (f : AdcSt → AdcSt) : (s.setAdc f).safe = s.safe := (rfl)
@[simp] theorem State.setAdc_meter (s : State) (f : AdcSt → AdcSt) : (s.setAdc f).meter = s.meter := (rfl)
@[simp] theorem State.setAdc_org (s : State) (f : AdcSt → AdcSt) : (s.setAdc f).org = s.org := (rfl)
@[simp] theorem State.setAdc_fresh (s : State) (f : AdcSt → AdcSt) : (s.setAdc f).fresh = s.fresh := (rfl)
@[simp] theorem State.setAdc_pending (s : State) (f : AdcSt → AdcSt) : (s.setAdc f).pending = s.pending := (rfl)
@[simp] theorem State.setAdc_reg (s : State) (f : AdcSt → AdcSt) (q : Nat) : (s.setAdc f).reg q = s.reg q := (rfl)
@[simp] theorem State.setAdc_get (s : State) (f : AdcSt → AdcSt) (q : Fld) : (s.setAdc f).get q = s.get q := (rfl)
@[simp] theorem State.setAdc_getI (s : State) (f : AdcSt → AdcSt) (q : Fld) : (s.setAdc f).getI q = s.getI q := (rfl)
@[simp] theorem State.setAdc_flag (s : State) (f : AdcSt → AdcSt) (q : Fld) : (s.setAdc f).flag q = s.flag q := (rfl)

@[simp] theorem State.setEth_regs (s : State) (n : Nat) (x : EthSt) : (s.setEth n x).regs = s.regs := (rfl)
@[simp] theorem State.setEth_parFlip (s : State) (n : Nat) (x : EthSt) : (s.setEth n x).parFlip = s.parFlip := (rfl)
@[simp] theorem State.setEth_sram (s : State) (n : Nat) (x : EthSt) : (s.setEth n x).sram = s.sram := (rfl)
@[simp] theorem State.setEth_mram (s : State) (n : Nat) (x : EthSt) : (s.setEth n x).mram = s.mram := (rfl)
@[simp] theorem State.setEth_time (s : State) (n : Nat) (x : EthSt) : (s.setEth n x).time = s.time := (rfl)
@[simp] theorem State.setEth_log (s : State) (n : Nat) (x : EthSt) : (s.setEth n x).log = s.log := (rfl)
@[simp] theorem State.setEth_mode (s : State) (n : Nat) (x : EthSt) : (s.setEth n x).mode = s.mode := (rfl)
@[simp] theorem State.setEth_sys (s : State) (n : Nat) (x : EthSt) : (s.setEth n x).sys = s.sys := (rfl)
@[simp] theorem State.setEth_poly (s : State) (n : Nat) (x : EthSt) : (s.setEth n x).poly = s.poly := (rfl)
@[simp] theorem State.setEth_ports (s : State) (n : Nat) (x : EthSt) : (s.setEth n x).ports = s.ports := (rfl)
@[simp] theorem State.setEth_prot (s : State) (n : Nat) (x : EthSt) : (s.setEth n x).prot = s.prot := (rfl)
@[simp] theorem State.setEth_ce (s : State) (n : Nat) (x : EthSt) : (s.setEth n x).ce = s.ce := (rfl)
@[simp] theorem State.setEth_loc (s : State) (n : Nat) (x : EthSt) : (s.setEth n x).loc = s.loc := (rfl)
@[simp] theorem State.setEth_gc (s : State) (n : Nat) (x : EthSt) : (s.setEth n x).gc = s.gc := (rfl)
@[simp] theorem State.setEth_isl (s : State) (n : Nat) (x : EthSt) : (s.setEth n x).isl = s.isl := (rfl)
@[simp] theorem State.setEth_slope (s : State) (n : Nat) (x : EthSt) : (s.setEth n x).slope = s.slope := (rfl)
@[simp] theorem State.setEth_adc (s : State) (n : Nat) (x : EthSt) : (s.setEth n x).adc = s.adc := (rfl)
@[simp] theorem State.setEth_cmp (s : State) (n : Nat) (x : EthSt) : (s.setEth n x).cmp = s.cmp := (rfl)
@[simp] theorem State.setEth_drv (s : State) (n : Nat) (x : EthSt) : (s.setEth n x).drv = s.drv := (rfl)
@[simp] theorem State.setEth_brk (s : State) (n : Nat) (x : EthSt) : (s.setEth n x).brk = s.brk := (rfl)
@[simp] theorem State.setEth_arc (s : State) (n : Nat) (x : EthSt) : (s.setEth n x).arc = s.arc := (rfl)
@[simp] theorem State.setEth_safe (s : State) (n : Nat) (x : EthSt) : (s.setEth n x).safe = s.safe := (rfl)
@[simp] theorem State.setEth_meter (s : State) (n : Nat) (x : EthSt) : (s.setEth n x).meter = s.meter := (rfl)
@[simp] theorem State.setEth_org (s : State) (n : Nat) (x : EthSt) : (s.setEth n x).org = s.org := (rfl)
@[simp] theorem State.setEth_fresh (s : State) (n : Nat) (x : EthSt) : (s.setEth n x).fresh = s.fresh := (rfl)
@[simp] theorem State.setEth_pending (s : State) (n : Nat) (x : EthSt) : (s.setEth n x).pending = s.pending := (rfl)
@[simp] theorem State.setEth_reg (s : State) (n : Nat) (x : EthSt) (q : Nat) : (s.setEth n x).reg q = s.reg q := (rfl)
@[simp] theorem State.setEth_get (s : State) (n : Nat) (x : EthSt) (q : Fld) : (s.setEth n x).get q = s.get q := (rfl)
@[simp] theorem State.setEth_getI (s : State) (n : Nat) (x : EthSt) (q : Fld) : (s.setEth n x).getI q = s.getI q := (rfl)
@[simp] theorem State.setEth_flag (s : State) (n : Nat) (x : EthSt) (q : Fld) : (s.setEth n x).flag q = s.flag q := (rfl)

@[simp] theorem State.setSafe_regs (s : State) (f : SafeSt → SafeSt) : (s.setSafe f).regs = s.regs := (rfl)
@[simp] theorem State.setSafe_parFlip (s : State) (f : SafeSt → SafeSt) : (s.setSafe f).parFlip = s.parFlip := (rfl)
@[simp] theorem State.setSafe_sram (s : State) (f : SafeSt → SafeSt) : (s.setSafe f).sram = s.sram := (rfl)
@[simp] theorem State.setSafe_mram (s : State) (f : SafeSt → SafeSt) : (s.setSafe f).mram = s.mram := (rfl)
@[simp] theorem State.setSafe_time (s : State) (f : SafeSt → SafeSt) : (s.setSafe f).time = s.time := (rfl)
@[simp] theorem State.setSafe_log (s : State) (f : SafeSt → SafeSt) : (s.setSafe f).log = s.log := (rfl)
@[simp] theorem State.setSafe_mode (s : State) (f : SafeSt → SafeSt) : (s.setSafe f).mode = s.mode := (rfl)
@[simp] theorem State.setSafe_sys (s : State) (f : SafeSt → SafeSt) : (s.setSafe f).sys = s.sys := (rfl)
@[simp] theorem State.setSafe_poly (s : State) (f : SafeSt → SafeSt) : (s.setSafe f).poly = s.poly := (rfl)
@[simp] theorem State.setSafe_ports (s : State) (f : SafeSt → SafeSt) : (s.setSafe f).ports = s.ports := (rfl)
@[simp] theorem State.setSafe_prot (s : State) (f : SafeSt → SafeSt) : (s.setSafe f).prot = s.prot := (rfl)
@[simp] theorem State.setSafe_ce (s : State) (f : SafeSt → SafeSt) : (s.setSafe f).ce = s.ce := (rfl)
@[simp] theorem State.setSafe_loc (s : State) (f : SafeSt → SafeSt) : (s.setSafe f).loc = s.loc := (rfl)
@[simp] theorem State.setSafe_gc (s : State) (f : SafeSt → SafeSt) : (s.setSafe f).gc = s.gc := (rfl)
@[simp] theorem State.setSafe_isl (s : State) (f : SafeSt → SafeSt) : (s.setSafe f).isl = s.isl := (rfl)
@[simp] theorem State.setSafe_slope (s : State) (f : SafeSt → SafeSt) : (s.setSafe f).slope = s.slope := (rfl)
@[simp] theorem State.setSafe_adc (s : State) (f : SafeSt → SafeSt) : (s.setSafe f).adc = s.adc := (rfl)
@[simp] theorem State.setSafe_cmp (s : State) (f : SafeSt → SafeSt) : (s.setSafe f).cmp = s.cmp := (rfl)
@[simp] theorem State.setSafe_eth (s : State) (f : SafeSt → SafeSt) : (s.setSafe f).eth = s.eth := (rfl)
@[simp] theorem State.setSafe_drv (s : State) (f : SafeSt → SafeSt) : (s.setSafe f).drv = s.drv := (rfl)
@[simp] theorem State.setSafe_brk (s : State) (f : SafeSt → SafeSt) : (s.setSafe f).brk = s.brk := (rfl)
@[simp] theorem State.setSafe_arc (s : State) (f : SafeSt → SafeSt) : (s.setSafe f).arc = s.arc := (rfl)
@[simp] theorem State.setSafe_meter (s : State) (f : SafeSt → SafeSt) : (s.setSafe f).meter = s.meter := (rfl)
@[simp] theorem State.setSafe_org (s : State) (f : SafeSt → SafeSt) : (s.setSafe f).org = s.org := (rfl)
@[simp] theorem State.setSafe_fresh (s : State) (f : SafeSt → SafeSt) : (s.setSafe f).fresh = s.fresh := (rfl)
@[simp] theorem State.setSafe_pending (s : State) (f : SafeSt → SafeSt) : (s.setSafe f).pending = s.pending := (rfl)
@[simp] theorem State.setSafe_reg (s : State) (f : SafeSt → SafeSt) (q : Nat) : (s.setSafe f).reg q = s.reg q := (rfl)
@[simp] theorem State.setSafe_get (s : State) (f : SafeSt → SafeSt) (q : Fld) : (s.setSafe f).get q = s.get q := (rfl)
@[simp] theorem State.setSafe_getI (s : State) (f : SafeSt → SafeSt) (q : Fld) : (s.setSafe f).getI q = s.getI q := (rfl)
@[simp] theorem State.setSafe_flag (s : State) (f : SafeSt → SafeSt) (q : Fld) : (s.setSafe f).flag q = s.flag q := (rfl)

@[simp] theorem State.setMeter_regs (s : State) (f : MeterSt → MeterSt) : (s.setMeter f).regs = s.regs := (rfl)
@[simp] theorem State.setMeter_parFlip (s : State) (f : MeterSt → MeterSt) : (s.setMeter f).parFlip = s.parFlip := (rfl)
@[simp] theorem State.setMeter_sram (s : State) (f : MeterSt → MeterSt) : (s.setMeter f).sram = s.sram := (rfl)
@[simp] theorem State.setMeter_mram (s : State) (f : MeterSt → MeterSt) : (s.setMeter f).mram = s.mram := (rfl)
@[simp] theorem State.setMeter_time (s : State) (f : MeterSt → MeterSt) : (s.setMeter f).time = s.time := (rfl)
@[simp] theorem State.setMeter_log (s : State) (f : MeterSt → MeterSt) : (s.setMeter f).log = s.log := (rfl)
@[simp] theorem State.setMeter_mode (s : State) (f : MeterSt → MeterSt) : (s.setMeter f).mode = s.mode := (rfl)
@[simp] theorem State.setMeter_sys (s : State) (f : MeterSt → MeterSt) : (s.setMeter f).sys = s.sys := (rfl)
@[simp] theorem State.setMeter_poly (s : State) (f : MeterSt → MeterSt) : (s.setMeter f).poly = s.poly := (rfl)
@[simp] theorem State.setMeter_ports (s : State) (f : MeterSt → MeterSt) : (s.setMeter f).ports = s.ports := (rfl)
@[simp] theorem State.setMeter_prot (s : State) (f : MeterSt → MeterSt) : (s.setMeter f).prot = s.prot := (rfl)
@[simp] theorem State.setMeter_ce (s : State) (f : MeterSt → MeterSt) : (s.setMeter f).ce = s.ce := (rfl)
@[simp] theorem State.setMeter_loc (s : State) (f : MeterSt → MeterSt) : (s.setMeter f).loc = s.loc := (rfl)
@[simp] theorem State.setMeter_gc (s : State) (f : MeterSt → MeterSt) : (s.setMeter f).gc = s.gc := (rfl)
@[simp] theorem State.setMeter_isl (s : State) (f : MeterSt → MeterSt) : (s.setMeter f).isl = s.isl := (rfl)
@[simp] theorem State.setMeter_slope (s : State) (f : MeterSt → MeterSt) : (s.setMeter f).slope = s.slope := (rfl)
@[simp] theorem State.setMeter_adc (s : State) (f : MeterSt → MeterSt) : (s.setMeter f).adc = s.adc := (rfl)
@[simp] theorem State.setMeter_cmp (s : State) (f : MeterSt → MeterSt) : (s.setMeter f).cmp = s.cmp := (rfl)
@[simp] theorem State.setMeter_eth (s : State) (f : MeterSt → MeterSt) : (s.setMeter f).eth = s.eth := (rfl)
@[simp] theorem State.setMeter_drv (s : State) (f : MeterSt → MeterSt) : (s.setMeter f).drv = s.drv := (rfl)
@[simp] theorem State.setMeter_brk (s : State) (f : MeterSt → MeterSt) : (s.setMeter f).brk = s.brk := (rfl)
@[simp] theorem State.setMeter_arc (s : State) (f : MeterSt → MeterSt) : (s.setMeter f).arc = s.arc := (rfl)
@[simp] theorem State.setMeter_safe (s : State) (f : MeterSt → MeterSt) : (s.setMeter f).safe = s.safe := (rfl)
@[simp] theorem State.setMeter_org (s : State) (f : MeterSt → MeterSt) : (s.setMeter f).org = s.org := (rfl)
@[simp] theorem State.setMeter_fresh (s : State) (f : MeterSt → MeterSt) : (s.setMeter f).fresh = s.fresh := (rfl)
@[simp] theorem State.setMeter_pending (s : State) (f : MeterSt → MeterSt) : (s.setMeter f).pending = s.pending := (rfl)
@[simp] theorem State.setMeter_reg (s : State) (f : MeterSt → MeterSt) (q : Nat) : (s.setMeter f).reg q = s.reg q := (rfl)
@[simp] theorem State.setMeter_get (s : State) (f : MeterSt → MeterSt) (q : Fld) : (s.setMeter f).get q = s.get q := (rfl)
@[simp] theorem State.setMeter_getI (s : State) (f : MeterSt → MeterSt) (q : Fld) : (s.setMeter f).getI q = s.getI q := (rfl)
@[simp] theorem State.setMeter_flag (s : State) (f : MeterSt → MeterSt) (q : Fld) : (s.setMeter f).flag q = s.flag q := (rfl)

@[simp] theorem State.setOrg_regs (s : State) (f : OrgSt → OrgSt) : (s.setOrg f).regs = s.regs := (rfl)
@[simp] theorem State.setOrg_parFlip (s : State) (f : OrgSt → OrgSt) : (s.setOrg f).parFlip = s.parFlip := (rfl)
@[simp] theorem State.setOrg_sram (s : State) (f : OrgSt → OrgSt) : (s.setOrg f).sram = s.sram := (rfl)
@[simp] theorem State.setOrg_mram (s : State) (f : OrgSt → OrgSt) : (s.setOrg f).mram = s.mram := (rfl)
@[simp] theorem State.setOrg_time (s : State) (f : OrgSt → OrgSt) : (s.setOrg f).time = s.time := (rfl)
@[simp] theorem State.setOrg_log (s : State) (f : OrgSt → OrgSt) : (s.setOrg f).log = s.log := (rfl)
@[simp] theorem State.setOrg_mode (s : State) (f : OrgSt → OrgSt) : (s.setOrg f).mode = s.mode := (rfl)
@[simp] theorem State.setOrg_sys (s : State) (f : OrgSt → OrgSt) : (s.setOrg f).sys = s.sys := (rfl)
@[simp] theorem State.setOrg_poly (s : State) (f : OrgSt → OrgSt) : (s.setOrg f).poly = s.poly := (rfl)
@[simp] theorem State.setOrg_ports (s : State) (f : OrgSt → OrgSt) : (s.setOrg f).ports = s.ports := (rfl)
@[simp] theorem State.setOrg_prot (s : State) (f : OrgSt → OrgSt) : (s.setOrg f).prot = s.prot := (rfl)
@[simp] theorem State.setOrg_ce (s : State) (f : OrgSt → OrgSt) : (s.setOrg f).ce = s.ce := (rfl)
@[simp] theorem State.setOrg_loc (s : State) (f : OrgSt → OrgSt) : (s.setOrg f).loc = s.loc := (rfl)
@[simp] theorem State.setOrg_gc (s : State) (f : OrgSt → OrgSt) : (s.setOrg f).gc = s.gc := (rfl)
@[simp] theorem State.setOrg_isl (s : State) (f : OrgSt → OrgSt) : (s.setOrg f).isl = s.isl := (rfl)
@[simp] theorem State.setOrg_slope (s : State) (f : OrgSt → OrgSt) : (s.setOrg f).slope = s.slope := (rfl)
@[simp] theorem State.setOrg_adc (s : State) (f : OrgSt → OrgSt) : (s.setOrg f).adc = s.adc := (rfl)
@[simp] theorem State.setOrg_cmp (s : State) (f : OrgSt → OrgSt) : (s.setOrg f).cmp = s.cmp := (rfl)
@[simp] theorem State.setOrg_eth (s : State) (f : OrgSt → OrgSt) : (s.setOrg f).eth = s.eth := (rfl)
@[simp] theorem State.setOrg_drv (s : State) (f : OrgSt → OrgSt) : (s.setOrg f).drv = s.drv := (rfl)
@[simp] theorem State.setOrg_brk (s : State) (f : OrgSt → OrgSt) : (s.setOrg f).brk = s.brk := (rfl)
@[simp] theorem State.setOrg_arc (s : State) (f : OrgSt → OrgSt) : (s.setOrg f).arc = s.arc := (rfl)
@[simp] theorem State.setOrg_safe (s : State) (f : OrgSt → OrgSt) : (s.setOrg f).safe = s.safe := (rfl)
@[simp] theorem State.setOrg_meter (s : State) (f : OrgSt → OrgSt) : (s.setOrg f).meter = s.meter := (rfl)
@[simp] theorem State.setOrg_fresh (s : State) (f : OrgSt → OrgSt) : (s.setOrg f).fresh = s.fresh := (rfl)
@[simp] theorem State.setOrg_pending (s : State) (f : OrgSt → OrgSt) : (s.setOrg f).pending = s.pending := (rfl)
@[simp] theorem State.setOrg_reg (s : State) (f : OrgSt → OrgSt) (q : Nat) : (s.setOrg f).reg q = s.reg q := (rfl)
@[simp] theorem State.setOrg_get (s : State) (f : OrgSt → OrgSt) (q : Fld) : (s.setOrg f).get q = s.get q := (rfl)
@[simp] theorem State.setOrg_getI (s : State) (f : OrgSt → OrgSt) (q : Fld) : (s.setOrg f).getI q = s.getI q := (rfl)
@[simp] theorem State.setOrg_flag (s : State) (f : OrgSt → OrgSt) (q : Fld) : (s.setOrg f).flag q = s.flag q := (rfl)

@[simp] theorem State.setKey_regs (s : State) (b : Nat) (u : Option Nat) : (s.setKey b u).regs = s.regs := (rfl)
@[simp] theorem State.setKey_parFlip (s : State) (b : Nat) (u : Option Nat) : (s.setKey b u).parFlip = s.parFlip := (rfl)
@[simp] theorem State.setKey_sram (s : State) (b : Nat) (u : Option Nat) : (s.setKey b u).sram = s.sram := (rfl)
@[simp] theorem State.setKey_mram (s : State) (b : Nat) (u : Option Nat) : (s.setKey b u).mram = s.mram := (rfl)
@[simp] theorem State.setKey_time (s : State) (b : Nat) (u : Option Nat) : (s.setKey b u).time = s.time := (rfl)
@[simp] theorem State.setKey_log (s : State) (b : Nat) (u : Option Nat) : (s.setKey b u).log = s.log := (rfl)
@[simp] theorem State.setKey_mode (s : State) (b : Nat) (u : Option Nat) : (s.setKey b u).mode = s.mode := (rfl)
@[simp] theorem State.setKey_poly (s : State) (b : Nat) (u : Option Nat) : (s.setKey b u).poly = s.poly := (rfl)
@[simp] theorem State.setKey_ports (s : State) (b : Nat) (u : Option Nat) : (s.setKey b u).ports = s.ports := (rfl)
@[simp] theorem State.setKey_prot (s : State) (b : Nat) (u : Option Nat) : (s.setKey b u).prot = s.prot := (rfl)
@[simp] theorem State.setKey_ce (s : State) (b : Nat) (u : Option Nat) : (s.setKey b u).ce = s.ce := (rfl)
@[simp] theorem State.setKey_loc (s : State) (b : Nat) (u : Option Nat) : (s.setKey b u).loc = s.loc := (rfl)
@[simp] theorem State.setKey_gc (s : State) (b : Nat) (u : Option Nat) : (s.setKey b u).gc = s.gc := (rfl)
@[simp] theorem State.setKey_isl (s : State) (b : Nat) (u : Option Nat) : (s.setKey b u).isl = s.isl := (rfl)
@[simp] theorem State.setKey_slope (s : State) (b : Nat) (u : Option Nat) : (s.setKey b u).slope = s.slope := (rfl)
@[simp] theorem State.setKey_adc (s : State) (b : Nat) (u : Option Nat) : (s.setKey b u).adc = s.adc := (rfl)
@[simp] theorem State.setKey_cmp (s : State) (b : Nat) (u : Option Nat) : (s.setKey b u).cmp = s.cmp := (rfl)
@[simp] theorem State.setKey_eth (s : State) (b : Nat) (u : Option Nat) : (s.setKey b u).eth = s.eth := (rfl)
@[simp] theorem State.setKey_drv (s : State) (b : Nat) (u : Option Nat) : (s.setKey b u).drv = s.drv := (rfl)
@[simp] theorem State.setKey_brk (s : State) (b : Nat) (u : Option Nat) : (s.setKey b u).brk = s.brk := (rfl)
@[simp] theorem State.setKey_arc (s : State) (b : Nat) (u : Option Nat) : (s.setKey b u).arc = s.arc := (rfl)
@[simp] theorem State.setKey_safe (s : State) (b : Nat) (u : Option Nat) : (s.setKey b u).safe = s.safe := (rfl)
@[simp] theorem State.setKey_meter (s : State) (b : Nat) (u : Option Nat) : (s.setKey b u).meter = s.meter := (rfl)
@[simp] theorem State.setKey_org (s : State) (b : Nat) (u : Option Nat) : (s.setKey b u).org = s.org := (rfl)
@[simp] theorem State.setKey_fresh (s : State) (b : Nat) (u : Option Nat) : (s.setKey b u).fresh = s.fresh := (rfl)
@[simp] theorem State.setKey_pending (s : State) (b : Nat) (u : Option Nat) : (s.setKey b u).pending = s.pending := (rfl)
@[simp] theorem State.setKey_reg (s : State) (b : Nat) (u : Option Nat) (q : Nat) : (s.setKey b u).reg q = s.reg q := (rfl)
@[simp] theorem State.setKey_get (s : State) (b : Nat) (u : Option Nat) (q : Fld) : (s.setKey b u).get q = s.get q := (rfl)
@[simp] theorem State.setKey_getI (s : State) (b : Nat) (u : Option Nat) (q : Fld) : (s.setKey b u).getI q = s.getI q := (rfl)
@[simp] theorem State.setKey_flag (s : State) (b : Nat) (u : Option Nat) (q : Fld) : (s.setKey b u).flag q = s.flag q := (rfl)

@[simp] theorem State.setDrv_regs (s : State) (d : Nat) (f : DrvSt → DrvSt) : (s.setDrv d f).regs = s.regs := (rfl)
@[simp] theorem State.setDrv_parFlip (s : State) (d : Nat) (f : DrvSt → DrvSt) : (s.setDrv d f).parFlip = s.parFlip := (rfl)
@[simp] theorem State.setDrv_sram (s : State) (d : Nat) (f : DrvSt → DrvSt) : (s.setDrv d f).sram = s.sram := (rfl)
@[simp] theorem State.setDrv_mram (s : State) (d : Nat) (f : DrvSt → DrvSt) : (s.setDrv d f).mram = s.mram := (rfl)
@[simp] theorem State.setDrv_time (s : State) (d : Nat) (f : DrvSt → DrvSt) : (s.setDrv d f).time = s.time := (rfl)
@[simp] theorem State.setDrv_log (s : State) (d : Nat) (f : DrvSt → DrvSt) : (s.setDrv d f).log = s.log := (rfl)
@[simp] theorem State.setDrv_mode (s : State) (d : Nat) (f : DrvSt → DrvSt) : (s.setDrv d f).mode = s.mode := (rfl)
@[simp] theorem State.setDrv_sys (s : State) (d : Nat) (f : DrvSt → DrvSt) : (s.setDrv d f).sys = s.sys := (rfl)
@[simp] theorem State.setDrv_poly (s : State) (d : Nat) (f : DrvSt → DrvSt) : (s.setDrv d f).poly = s.poly := (rfl)
@[simp] theorem State.setDrv_ports (s : State) (d : Nat) (f : DrvSt → DrvSt) : (s.setDrv d f).ports = s.ports := (rfl)
@[simp] theorem State.setDrv_prot (s : State) (d : Nat) (f : DrvSt → DrvSt) : (s.setDrv d f).prot = s.prot := (rfl)
@[simp] theorem State.setDrv_ce (s : State) (d : Nat) (f : DrvSt → DrvSt) : (s.setDrv d f).ce = s.ce := (rfl)
@[simp] theorem State.setDrv_loc (s : State) (d : Nat) (f : DrvSt → DrvSt) : (s.setDrv d f).loc = s.loc := (rfl)
@[simp] theorem State.setDrv_gc (s : State) (d : Nat) (f : DrvSt → DrvSt) : (s.setDrv d f).gc = s.gc := (rfl)
@[simp] theorem State.setDrv_isl (s : State) (d : Nat) (f : DrvSt → DrvSt) : (s.setDrv d f).isl = s.isl := (rfl)
@[simp] theorem State.setDrv_slope (s : State) (d : Nat) (f : DrvSt → DrvSt) : (s.setDrv d f).slope = s.slope := (rfl)
@[simp] theorem State.setDrv_adc (s : State) (d : Nat) (f : DrvSt → DrvSt) : (s.setDrv d f).adc = s.adc := (rfl)
@[simp] theorem State.setDrv_cmp (s : State) (d : Nat) (f : DrvSt → DrvSt) : (s.setDrv d f).cmp = s.cmp := (rfl)
@[simp] theorem State.setDrv_eth (s : State) (d : Nat) (f : DrvSt → DrvSt) : (s.setDrv d f).eth = s.eth := (rfl)
@[simp] theorem State.setDrv_brk (s : State) (d : Nat) (f : DrvSt → DrvSt) : (s.setDrv d f).brk = s.brk := (rfl)
@[simp] theorem State.setDrv_arc (s : State) (d : Nat) (f : DrvSt → DrvSt) : (s.setDrv d f).arc = s.arc := (rfl)
@[simp] theorem State.setDrv_safe (s : State) (d : Nat) (f : DrvSt → DrvSt) : (s.setDrv d f).safe = s.safe := (rfl)
@[simp] theorem State.setDrv_meter (s : State) (d : Nat) (f : DrvSt → DrvSt) : (s.setDrv d f).meter = s.meter := (rfl)
@[simp] theorem State.setDrv_org (s : State) (d : Nat) (f : DrvSt → DrvSt) : (s.setDrv d f).org = s.org := (rfl)
@[simp] theorem State.setDrv_fresh (s : State) (d : Nat) (f : DrvSt → DrvSt) : (s.setDrv d f).fresh = s.fresh := (rfl)
@[simp] theorem State.setDrv_pending (s : State) (d : Nat) (f : DrvSt → DrvSt) : (s.setDrv d f).pending = s.pending := (rfl)
@[simp] theorem State.setDrv_reg (s : State) (d : Nat) (f : DrvSt → DrvSt) (q : Nat) : (s.setDrv d f).reg q = s.reg q := (rfl)
@[simp] theorem State.setDrv_get (s : State) (d : Nat) (f : DrvSt → DrvSt) (q : Fld) : (s.setDrv d f).get q = s.get q := (rfl)
@[simp] theorem State.setDrv_getI (s : State) (d : Nat) (f : DrvSt → DrvSt) (q : Fld) : (s.setDrv d f).getI q = s.getI q := (rfl)
@[simp] theorem State.setDrv_flag (s : State) (d : Nat) (f : DrvSt → DrvSt) (q : Fld) : (s.setDrv d f).flag q = s.flag q := (rfl)

@[simp] theorem State.setBrk_regs (s : State) (k : Nat) (f : BrkSt → BrkSt) : (s.setBrk k f).regs = s.regs := (rfl)
@[simp] theorem State.setBrk_parFlip (s : State) (k : Nat) (f : BrkSt → BrkSt) : (s.setBrk k f).parFlip = s.parFlip := (rfl)
@[simp] theorem State.setBrk_sram (s : State) (k : Nat) (f : BrkSt → BrkSt) : (s.setBrk k f).sram = s.sram := (rfl)
@[simp] theorem State.setBrk_mram (s : State) (k : Nat) (f : BrkSt → BrkSt) : (s.setBrk k f).mram = s.mram := (rfl)
@[simp] theorem State.setBrk_time (s : State) (k : Nat) (f : BrkSt → BrkSt) : (s.setBrk k f).time = s.time := (rfl)
@[simp] theorem State.setBrk_log (s : State) (k : Nat) (f : BrkSt → BrkSt) : (s.setBrk k f).log = s.log := (rfl)
@[simp] theorem State.setBrk_mode (s : State) (k : Nat) (f : BrkSt → BrkSt) : (s.setBrk k f).mode = s.mode := (rfl)
@[simp] theorem State.setBrk_sys (s : State) (k : Nat) (f : BrkSt → BrkSt) : (s.setBrk k f).sys = s.sys := (rfl)
@[simp] theorem State.setBrk_poly (s : State) (k : Nat) (f : BrkSt → BrkSt) : (s.setBrk k f).poly = s.poly := (rfl)
@[simp] theorem State.setBrk_ports (s : State) (k : Nat) (f : BrkSt → BrkSt) : (s.setBrk k f).ports = s.ports := (rfl)
@[simp] theorem State.setBrk_prot (s : State) (k : Nat) (f : BrkSt → BrkSt) : (s.setBrk k f).prot = s.prot := (rfl)
@[simp] theorem State.setBrk_ce (s : State) (k : Nat) (f : BrkSt → BrkSt) : (s.setBrk k f).ce = s.ce := (rfl)
@[simp] theorem State.setBrk_loc (s : State) (k : Nat) (f : BrkSt → BrkSt) : (s.setBrk k f).loc = s.loc := (rfl)
@[simp] theorem State.setBrk_gc (s : State) (k : Nat) (f : BrkSt → BrkSt) : (s.setBrk k f).gc = s.gc := (rfl)
@[simp] theorem State.setBrk_isl (s : State) (k : Nat) (f : BrkSt → BrkSt) : (s.setBrk k f).isl = s.isl := (rfl)
@[simp] theorem State.setBrk_slope (s : State) (k : Nat) (f : BrkSt → BrkSt) : (s.setBrk k f).slope = s.slope := (rfl)
@[simp] theorem State.setBrk_adc (s : State) (k : Nat) (f : BrkSt → BrkSt) : (s.setBrk k f).adc = s.adc := (rfl)
@[simp] theorem State.setBrk_cmp (s : State) (k : Nat) (f : BrkSt → BrkSt) : (s.setBrk k f).cmp = s.cmp := (rfl)
@[simp] theorem State.setBrk_eth (s : State) (k : Nat) (f : BrkSt → BrkSt) : (s.setBrk k f).eth = s.eth := (rfl)
@[simp] theorem State.setBrk_drv (s : State) (k : Nat) (f : BrkSt → BrkSt) : (s.setBrk k f).drv = s.drv := (rfl)
@[simp] theorem State.setBrk_arc (s : State) (k : Nat) (f : BrkSt → BrkSt) : (s.setBrk k f).arc = s.arc := (rfl)
@[simp] theorem State.setBrk_safe (s : State) (k : Nat) (f : BrkSt → BrkSt) : (s.setBrk k f).safe = s.safe := (rfl)
@[simp] theorem State.setBrk_meter (s : State) (k : Nat) (f : BrkSt → BrkSt) : (s.setBrk k f).meter = s.meter := (rfl)
@[simp] theorem State.setBrk_org (s : State) (k : Nat) (f : BrkSt → BrkSt) : (s.setBrk k f).org = s.org := (rfl)
@[simp] theorem State.setBrk_fresh (s : State) (k : Nat) (f : BrkSt → BrkSt) : (s.setBrk k f).fresh = s.fresh := (rfl)
@[simp] theorem State.setBrk_pending (s : State) (k : Nat) (f : BrkSt → BrkSt) : (s.setBrk k f).pending = s.pending := (rfl)
@[simp] theorem State.setBrk_reg (s : State) (k : Nat) (f : BrkSt → BrkSt) (q : Nat) : (s.setBrk k f).reg q = s.reg q := (rfl)
@[simp] theorem State.setBrk_get (s : State) (k : Nat) (f : BrkSt → BrkSt) (q : Fld) : (s.setBrk k f).get q = s.get q := (rfl)
@[simp] theorem State.setBrk_getI (s : State) (k : Nat) (f : BrkSt → BrkSt) (q : Fld) : (s.setBrk k f).getI q = s.getI q := (rfl)
@[simp] theorem State.setBrk_flag (s : State) (k : Nat) (f : BrkSt → BrkSt) (q : Fld) : (s.setBrk k f).flag q = s.flag q := (rfl)

@[simp] theorem State.setArc_regs (s : State) (a : Nat) (x : ArcSt) : (s.setArc a x).regs = s.regs := (rfl)
@[simp] theorem State.setArc_parFlip (s : State) (a : Nat) (x : ArcSt) : (s.setArc a x).parFlip = s.parFlip := (rfl)
@[simp] theorem State.setArc_sram (s : State) (a : Nat) (x : ArcSt) : (s.setArc a x).sram = s.sram := (rfl)
@[simp] theorem State.setArc_mram (s : State) (a : Nat) (x : ArcSt) : (s.setArc a x).mram = s.mram := (rfl)
@[simp] theorem State.setArc_time (s : State) (a : Nat) (x : ArcSt) : (s.setArc a x).time = s.time := (rfl)
@[simp] theorem State.setArc_log (s : State) (a : Nat) (x : ArcSt) : (s.setArc a x).log = s.log := (rfl)
@[simp] theorem State.setArc_mode (s : State) (a : Nat) (x : ArcSt) : (s.setArc a x).mode = s.mode := (rfl)
@[simp] theorem State.setArc_sys (s : State) (a : Nat) (x : ArcSt) : (s.setArc a x).sys = s.sys := (rfl)
@[simp] theorem State.setArc_poly (s : State) (a : Nat) (x : ArcSt) : (s.setArc a x).poly = s.poly := (rfl)
@[simp] theorem State.setArc_ports (s : State) (a : Nat) (x : ArcSt) : (s.setArc a x).ports = s.ports := (rfl)
@[simp] theorem State.setArc_prot (s : State) (a : Nat) (x : ArcSt) : (s.setArc a x).prot = s.prot := (rfl)
@[simp] theorem State.setArc_ce (s : State) (a : Nat) (x : ArcSt) : (s.setArc a x).ce = s.ce := (rfl)
@[simp] theorem State.setArc_loc (s : State) (a : Nat) (x : ArcSt) : (s.setArc a x).loc = s.loc := (rfl)
@[simp] theorem State.setArc_gc (s : State) (a : Nat) (x : ArcSt) : (s.setArc a x).gc = s.gc := (rfl)
@[simp] theorem State.setArc_isl (s : State) (a : Nat) (x : ArcSt) : (s.setArc a x).isl = s.isl := (rfl)
@[simp] theorem State.setArc_slope (s : State) (a : Nat) (x : ArcSt) : (s.setArc a x).slope = s.slope := (rfl)
@[simp] theorem State.setArc_adc (s : State) (a : Nat) (x : ArcSt) : (s.setArc a x).adc = s.adc := (rfl)
@[simp] theorem State.setArc_cmp (s : State) (a : Nat) (x : ArcSt) : (s.setArc a x).cmp = s.cmp := (rfl)
@[simp] theorem State.setArc_eth (s : State) (a : Nat) (x : ArcSt) : (s.setArc a x).eth = s.eth := (rfl)
@[simp] theorem State.setArc_drv (s : State) (a : Nat) (x : ArcSt) : (s.setArc a x).drv = s.drv := (rfl)
@[simp] theorem State.setArc_brk (s : State) (a : Nat) (x : ArcSt) : (s.setArc a x).brk = s.brk := (rfl)
@[simp] theorem State.setArc_safe (s : State) (a : Nat) (x : ArcSt) : (s.setArc a x).safe = s.safe := (rfl)
@[simp] theorem State.setArc_meter (s : State) (a : Nat) (x : ArcSt) : (s.setArc a x).meter = s.meter := (rfl)
@[simp] theorem State.setArc_org (s : State) (a : Nat) (x : ArcSt) : (s.setArc a x).org = s.org := (rfl)
@[simp] theorem State.setArc_fresh (s : State) (a : Nat) (x : ArcSt) : (s.setArc a x).fresh = s.fresh := (rfl)
@[simp] theorem State.setArc_pending (s : State) (a : Nat) (x : ArcSt) : (s.setArc a x).pending = s.pending := (rfl)
@[simp] theorem State.setArc_reg (s : State) (a : Nat) (x : ArcSt) (q : Nat) : (s.setArc a x).reg q = s.reg q := (rfl)
@[simp] theorem State.setArc_get (s : State) (a : Nat) (x : ArcSt) (q : Fld) : (s.setArc a x).get q = s.get q := (rfl)
@[simp] theorem State.setArc_getI (s : State) (a : Nat) (x : ArcSt) (q : Fld) : (s.setArc a x).getI q = s.getI q := (rfl)
@[simp] theorem State.setArc_flag (s : State) (a : Nat) (x : ArcSt) (q : Fld) : (s.setArc a x).flag q = s.flag q := (rfl)

@[simp] theorem State.setSl_regs (s : State) (n : Nat) (f : SlCh → SlCh) : (s.setSl n f).regs = s.regs := (rfl)
@[simp] theorem State.setSl_parFlip (s : State) (n : Nat) (f : SlCh → SlCh) : (s.setSl n f).parFlip = s.parFlip := (rfl)
@[simp] theorem State.setSl_sram (s : State) (n : Nat) (f : SlCh → SlCh) : (s.setSl n f).sram = s.sram := (rfl)
@[simp] theorem State.setSl_mram (s : State) (n : Nat) (f : SlCh → SlCh) : (s.setSl n f).mram = s.mram := (rfl)
@[simp] theorem State.setSl_time (s : State) (n : Nat) (f : SlCh → SlCh) : (s.setSl n f).time = s.time := (rfl)
@[simp] theorem State.setSl_log (s : State) (n : Nat) (f : SlCh → SlCh) : (s.setSl n f).log = s.log := (rfl)
@[simp] theorem State.setSl_mode (s : State) (n : Nat) (f : SlCh → SlCh) : (s.setSl n f).mode = s.mode := (rfl)
@[simp] theorem State.setSl_sys (s : State) (n : Nat) (f : SlCh → SlCh) : (s.setSl n f).sys = s.sys := (rfl)
@[simp] theorem State.setSl_poly (s : State) (n : Nat) (f : SlCh → SlCh) : (s.setSl n f).poly = s.poly := (rfl)
@[simp] theorem State.setSl_ports (s : State) (n : Nat) (f : SlCh → SlCh) : (s.setSl n f).ports = s.ports := (rfl)
@[simp] theorem State.setSl_prot (s : State) (n : Nat) (f : SlCh → SlCh) : (s.setSl n f).prot = s.prot := (rfl)
@[simp] theorem State.setSl_ce (s : State) (n : Nat) (f : SlCh → SlCh) : (s.setSl n f).ce = s.ce := (rfl)
@[simp] theorem State.setSl_loc (s : State) (n : Nat) (f : SlCh → SlCh) : (s.setSl n f).loc = s.loc := (rfl)
@[simp] theorem State.setSl_gc (s : State) (n : Nat) (f : SlCh → SlCh) : (s.setSl n f).gc = s.gc := (rfl)
@[simp] theorem State.setSl_isl (s : State) (n : Nat) (f : SlCh → SlCh) : (s.setSl n f).isl = s.isl := (rfl)
@[simp] theorem State.setSl_adc (s : State) (n : Nat) (f : SlCh → SlCh) : (s.setSl n f).adc = s.adc := (rfl)
@[simp] theorem State.setSl_cmp (s : State) (n : Nat) (f : SlCh → SlCh) : (s.setSl n f).cmp = s.cmp := (rfl)
@[simp] theorem State.setSl_eth (s : State) (n : Nat) (f : SlCh → SlCh) : (s.setSl n f).eth = s.eth := (rfl)
@[simp] theorem State.setSl_drv (s : State) (n : Nat) (f : SlCh → SlCh) : (s.setSl n f).drv = s.drv := (rfl)
@[simp] theorem State.setSl_brk (s : State) (n : Nat) (f : SlCh → SlCh) : (s.setSl n f).brk = s.brk := (rfl)
@[simp] theorem State.setSl_arc (s : State) (n : Nat) (f : SlCh → SlCh) : (s.setSl n f).arc = s.arc := (rfl)
@[simp] theorem State.setSl_safe (s : State) (n : Nat) (f : SlCh → SlCh) : (s.setSl n f).safe = s.safe := (rfl)
@[simp] theorem State.setSl_meter (s : State) (n : Nat) (f : SlCh → SlCh) : (s.setSl n f).meter = s.meter := (rfl)
@[simp] theorem State.setSl_org (s : State) (n : Nat) (f : SlCh → SlCh) : (s.setSl n f).org = s.org := (rfl)
@[simp] theorem State.setSl_fresh (s : State) (n : Nat) (f : SlCh → SlCh) : (s.setSl n f).fresh = s.fresh := (rfl)
@[simp] theorem State.setSl_pending (s : State) (n : Nat) (f : SlCh → SlCh) : (s.setSl n f).pending = s.pending := (rfl)
@[simp] theorem State.setSl_reg (s : State) (n : Nat) (f : SlCh → SlCh) (q : Nat) : (s.setSl n f).reg q = s.reg q := (rfl)
@[simp] theorem State.setSl_get (s : State) (n : Nat) (f : SlCh → SlCh) (q : Fld) : (s.setSl n f).get q = s.get q := (rfl)
@[simp] theorem State.setSl_getI (s : State) (n : Nat) (f : SlCh → SlCh) (q : Fld) : (s.setSl n f).getI q = s.getI q := (rfl)
@[simp] theorem State.setSl_flag (s : State) (n : Nat) (f : SlCh → SlCh) (q : Fld) : (s.setSl n f).flag q = s.flag q := (rfl)

@[simp] theorem State.setCmp_regs (s : State) (c : Nat) (f : CmpSt → CmpSt) : (s.setCmp c f).regs = s.regs := (rfl)
@[simp] theorem State.setCmp_parFlip (s : State) (c : Nat) (f : CmpSt → CmpSt) : (s.setCmp c f).parFlip = s.parFlip := (rfl)
@[simp] theorem State.setCmp_sram (s : State) (c : Nat) (f : CmpSt → CmpSt) : (s.setCmp c f).sram = s.sram := (rfl)
@[simp] theorem State.setCmp_mram (s : State) (c : Nat) (f : CmpSt → CmpSt) : (s.setCmp c f).mram = s.mram := (rfl)
@[simp] theorem State.setCmp_time (s : State) (c : Nat) (f : CmpSt → CmpSt) : (s.setCmp c f).time = s.time := (rfl)
@[simp] theorem State.setCmp_log (s : State) (c : Nat) (f : CmpSt → CmpSt) : (s.setCmp c f).log = s.log := (rfl)
@[simp] theorem State.setCmp_mode (s : State) (c : Nat) (f : CmpSt → CmpSt) : (s.setCmp c f).mode = s.mode := (rfl)
@[simp] theorem State.setCmp_sys (s : State) (c : Nat) (f : CmpSt → CmpSt) : (s.setCmp c f).sys = s.sys := (rfl)
@[simp] theorem State.setCmp_poly (s : State) (c : Nat) (f : CmpSt → CmpSt) : (s.setCmp c f).poly = s.poly := (rfl)
@[simp] theorem State.setCmp_ports (s : State) (c : Nat) (f : CmpSt → CmpSt) : (s.setCmp c f).ports = s.ports := (rfl)
@[simp] theorem State.setCmp_prot (s : State) (c : Nat) (f : CmpSt → CmpSt) : (s.setCmp c f).prot = s.prot := (rfl)
@[simp] theorem State.setCmp_ce (s : State) (c : Nat) (f : CmpSt → CmpSt) : (s.setCmp c f).ce = s.ce := (rfl)
@[simp] theorem State.setCmp_loc (s : State) (c : Nat) (f : CmpSt → CmpSt) : (s.setCmp c f).loc = s.loc := (rfl)
@[simp] theorem State.setCmp_gc (s : State) (c : Nat) (f : CmpSt → CmpSt) : (s.setCmp c f).gc = s.gc := (rfl)
@[simp] theorem State.setCmp_isl (s : State) (c : Nat) (f : CmpSt → CmpSt) : (s.setCmp c f).isl = s.isl := (rfl)
@[simp] theorem State.setCmp_slope (s : State) (c : Nat) (f : CmpSt → CmpSt) : (s.setCmp c f).slope = s.slope := (rfl)
@[simp] theorem State.setCmp_adc (s : State) (c : Nat) (f : CmpSt → CmpSt) : (s.setCmp c f).adc = s.adc := (rfl)
@[simp] theorem State.setCmp_eth (s : State) (c : Nat) (f : CmpSt → CmpSt) : (s.setCmp c f).eth = s.eth := (rfl)
@[simp] theorem State.setCmp_drv (s : State) (c : Nat) (f : CmpSt → CmpSt) : (s.setCmp c f).drv = s.drv := (rfl)
@[simp] theorem State.setCmp_brk (s : State) (c : Nat) (f : CmpSt → CmpSt) : (s.setCmp c f).brk = s.brk := (rfl)
@[simp] theorem State.setCmp_arc (s : State) (c : Nat) (f : CmpSt → CmpSt) : (s.setCmp c f).arc = s.arc := (rfl)
@[simp] theorem State.setCmp_safe (s : State) (c : Nat) (f : CmpSt → CmpSt) : (s.setCmp c f).safe = s.safe := (rfl)
@[simp] theorem State.setCmp_meter (s : State) (c : Nat) (f : CmpSt → CmpSt) : (s.setCmp c f).meter = s.meter := (rfl)
@[simp] theorem State.setCmp_org (s : State) (c : Nat) (f : CmpSt → CmpSt) : (s.setCmp c f).org = s.org := (rfl)
@[simp] theorem State.setCmp_fresh (s : State) (c : Nat) (f : CmpSt → CmpSt) : (s.setCmp c f).fresh = s.fresh := (rfl)
@[simp] theorem State.setCmp_pending (s : State) (c : Nat) (f : CmpSt → CmpSt) : (s.setCmp c f).pending = s.pending := (rfl)
@[simp] theorem State.setCmp_reg (s : State) (c : Nat) (f : CmpSt → CmpSt) (q : Nat) : (s.setCmp c f).reg q = s.reg q := (rfl)
@[simp] theorem State.setCmp_get (s : State) (c : Nat) (f : CmpSt → CmpSt) (q : Fld) : (s.setCmp c f).get q = s.get q := (rfl)
@[simp] theorem State.setCmp_getI (s : State) (c : Nat) (f : CmpSt → CmpSt) (q : Fld) : (s.setCmp c f).getI q = s.getI q := (rfl)
@[simp] theorem State.setCmp_flag (s : State) (c : Nat) (f : CmpSt → CmpSt) (q : Fld) : (s.setCmp c f).flag q = s.flag q := (rfl)

@[simp] theorem State.pulse_regs (s : State) (src : Nat) : (s.pulse src).regs = s.regs := (rfl)
@[simp] theorem State.pulse_parFlip (s : State) (src : Nat) : (s.pulse src).parFlip = s.parFlip := (rfl)
@[simp] theorem State.pulse_sram (s : State) (src : Nat) : (s.pulse src).sram = s.sram := (rfl)
@[simp] theorem State.pulse_mram (s : State) (src : Nat) : (s.pulse src).mram = s.mram := (rfl)
@[simp] theorem State.pulse_log (s : State) (src : Nat) : (s.pulse src).log = s.log := (rfl)
@[simp] theorem State.pulse_mode (s : State) (src : Nat) : (s.pulse src).mode = s.mode := (rfl)
@[simp] theorem State.pulse_sys (s : State) (src : Nat) : (s.pulse src).sys = s.sys := (rfl)
@[simp] theorem State.pulse_poly (s : State) (src : Nat) : (s.pulse src).poly = s.poly := (rfl)
@[simp] theorem State.pulse_ports (s : State) (src : Nat) : (s.pulse src).ports = s.ports := (rfl)
@[simp] theorem State.pulse_prot (s : State) (src : Nat) : (s.pulse src).prot = s.prot := (rfl)
@[simp] theorem State.pulse_ce (s : State) (src : Nat) : (s.pulse src).ce = s.ce := (rfl)
@[simp] theorem State.pulse_loc (s : State) (src : Nat) : (s.pulse src).loc = s.loc := (rfl)
@[simp] theorem State.pulse_gc (s : State) (src : Nat) : (s.pulse src).gc = s.gc := (rfl)
@[simp] theorem State.pulse_isl (s : State) (src : Nat) : (s.pulse src).isl = s.isl := (rfl)
@[simp] theorem State.pulse_slope (s : State) (src : Nat) : (s.pulse src).slope = s.slope := (rfl)
@[simp] theorem State.pulse_adc (s : State) (src : Nat) : (s.pulse src).adc = s.adc := (rfl)
@[simp] theorem State.pulse_cmp (s : State) (src : Nat) : (s.pulse src).cmp = s.cmp := (rfl)
@[simp] theorem State.pulse_eth (s : State) (src : Nat) : (s.pulse src).eth = s.eth := (rfl)
@[simp] theorem State.pulse_drv (s : State) (src : Nat) : (s.pulse src).drv = s.drv := (rfl)
@[simp] theorem State.pulse_brk (s : State) (src : Nat) : (s.pulse src).brk = s.brk := (rfl)
@[simp] theorem State.pulse_arc (s : State) (src : Nat) : (s.pulse src).arc = s.arc := (rfl)
@[simp] theorem State.pulse_safe (s : State) (src : Nat) : (s.pulse src).safe = s.safe := (rfl)
@[simp] theorem State.pulse_meter (s : State) (src : Nat) : (s.pulse src).meter = s.meter := (rfl)
@[simp] theorem State.pulse_org (s : State) (src : Nat) : (s.pulse src).org = s.org := (rfl)
@[simp] theorem State.pulse_fresh (s : State) (src : Nat) : (s.pulse src).fresh = s.fresh := (rfl)
@[simp] theorem State.pulse_pending (s : State) (src : Nat) : (s.pulse src).pending = s.pending := (rfl)
@[simp] theorem State.pulse_reg (s : State) (src : Nat) (q : Nat) : (s.pulse src).reg q = s.reg q := (rfl)
@[simp] theorem State.pulse_get (s : State) (src : Nat) (q : Fld) : (s.pulse src).get q = s.get q := (rfl)
@[simp] theorem State.pulse_getI (s : State) (src : Nat) (q : Fld) : (s.pulse src).getI q = s.getI q := (rfl)
@[simp] theorem State.pulse_flag (s : State) (src : Nat) (q : Fld) : (s.pulse src).flag q = s.flag q := (rfl)

@[simp] theorem State.pulseAt_regs (s : State) (src idx t : Nat) : (s.pulseAt src idx t).regs = s.regs := (rfl)
@[simp] theorem State.pulseAt_parFlip (s : State) (src idx t : Nat) : (s.pulseAt src idx t).parFlip = s.parFlip := (rfl)
@[simp] theorem State.pulseAt_sram (s : State) (src idx t : Nat) : (s.pulseAt src idx t).sram = s.sram := (rfl)
@[simp] theorem State.pulseAt_mram (s : State) (src idx t : Nat) : (s.pulseAt src idx t).mram = s.mram := (rfl)
@[simp] theorem State.pulseAt_log (s : State) (src idx t : Nat) : (s.pulseAt src idx t).log = s.log := (rfl)
@[simp] theorem State.pulseAt_mode (s : State) (src idx t : Nat) : (s.pulseAt src idx t).mode = s.mode := (rfl)
@[simp] theorem State.pulseAt_sys (s : State) (src idx t : Nat) : (s.pulseAt src idx t).sys = s.sys := (rfl)
@[simp] theorem State.pulseAt_poly (s : State) (src idx t : Nat) : (s.pulseAt src idx t).poly = s.poly := (rfl)
@[simp] theorem State.pulseAt_ports (s : State) (src idx t : Nat) : (s.pulseAt src idx t).ports = s.ports := (rfl)
@[simp] theorem State.pulseAt_prot (s : State) (src idx t : Nat) : (s.pulseAt src idx t).prot = s.prot := (rfl)
@[simp] theorem State.pulseAt_ce (s : State) (src idx t : Nat) : (s.pulseAt src idx t).ce = s.ce := (rfl)
@[simp] theorem State.pulseAt_loc (s : State) (src idx t : Nat) : (s.pulseAt src idx t).loc = s.loc := (rfl)
@[simp] theorem State.pulseAt_gc (s : State) (src idx t : Nat) : (s.pulseAt src idx t).gc = s.gc := (rfl)
@[simp] theorem State.pulseAt_isl (s : State) (src idx t : Nat) : (s.pulseAt src idx t).isl = s.isl := (rfl)
@[simp] theorem State.pulseAt_slope (s : State) (src idx t : Nat) : (s.pulseAt src idx t).slope = s.slope := (rfl)
@[simp] theorem State.pulseAt_adc (s : State) (src idx t : Nat) : (s.pulseAt src idx t).adc = s.adc := (rfl)
@[simp] theorem State.pulseAt_cmp (s : State) (src idx t : Nat) : (s.pulseAt src idx t).cmp = s.cmp := (rfl)
@[simp] theorem State.pulseAt_eth (s : State) (src idx t : Nat) : (s.pulseAt src idx t).eth = s.eth := (rfl)
@[simp] theorem State.pulseAt_drv (s : State) (src idx t : Nat) : (s.pulseAt src idx t).drv = s.drv := (rfl)
@[simp] theorem State.pulseAt_brk (s : State) (src idx t : Nat) : (s.pulseAt src idx t).brk = s.brk := (rfl)
@[simp] theorem State.pulseAt_arc (s : State) (src idx t : Nat) : (s.pulseAt src idx t).arc = s.arc := (rfl)
@[simp] theorem State.pulseAt_safe (s : State) (src idx t : Nat) : (s.pulseAt src idx t).safe = s.safe := (rfl)
@[simp] theorem State.pulseAt_meter (s : State) (src idx t : Nat) : (s.pulseAt src idx t).meter = s.meter := (rfl)
@[simp] theorem State.pulseAt_org (s : State) (src idx t : Nat) : (s.pulseAt src idx t).org = s.org := (rfl)
@[simp] theorem State.pulseAt_fresh (s : State) (src idx t : Nat) : (s.pulseAt src idx t).fresh = s.fresh := (rfl)
@[simp] theorem State.pulseAt_pending (s : State) (src idx t : Nat) : (s.pulseAt src idx t).pending = s.pending := (rfl)
@[simp] theorem State.pulseAt_reg (s : State) (src idx t : Nat) (q : Nat) : (s.pulseAt src idx t).reg q = s.reg q := (rfl)
@[simp] theorem State.pulseAt_get (s : State) (src idx t : Nat) (q : Fld) : (s.pulseAt src idx t).get q = s.get q := (rfl)
@[simp] theorem State.pulseAt_getI (s : State) (src idx t : Nat) (q : Fld) : (s.pulseAt src idx t).getI q = s.getI q := (rfl)
@[simp] theorem State.pulseAt_flag (s : State) (src idx t : Nat) (q : Fld) : (s.pulseAt src idx t).flag q = s.flag q := (rfl)

@[simp] theorem State.setTime_time (s : State) (f : TimeSt → TimeSt) : (s.setTime f).time = f s.time := (rfl)
@[simp] theorem State.setMode_mode (s : State) (f : ModeSt → ModeSt) : (s.setMode f).mode = f s.mode := (rfl)
@[simp] theorem State.setSys_sys (s : State) (f : SysSt → SysSt) : (s.setSys f).sys = f s.sys := (rfl)
@[simp] theorem State.setCe_ce (s : State) (f : CeSt → CeSt) : (s.setCe f).ce = f s.ce := (rfl)
@[simp] theorem State.setLoc_loc (s : State) (f : LocSt → LocSt) : (s.setLoc f).loc = f s.loc := (rfl)
@[simp] theorem State.setIsl_isl (s : State) (f : IslSt → IslSt) : (s.setIsl f).isl = f s.isl := (rfl)
@[simp] theorem State.setAdc_adc (s : State) (f : AdcSt → AdcSt) : (s.setAdc f).adc = f s.adc := (rfl)
@[simp] theorem State.setSafe_safe (s : State) (f : SafeSt → SafeSt) : (s.setSafe f).safe = f s.safe := (rfl)
@[simp] theorem State.setMeter_meter (s : State) (f : MeterSt → MeterSt) : (s.setMeter f).meter = f s.meter := (rfl)
@[simp] theorem State.setOrg_org (s : State) (f : OrgSt → OrgSt) : (s.setOrg f).org = f s.org := (rfl)

@[simp] theorem State.emitAt_regs (s : State) (t src inst code data : Nat) : (s.emitAt t src inst code data).regs = s.regs := by
  unfold State.emitAt
  split
  · rfl
  · dsimp only
    split <;> rfl
@[simp] theorem State.emit_regs (s : State) (src inst code data : Nat) : (s.emit src inst code data).regs = s.regs :=
  s.emitAt_regs _ src inst code data
@[simp] theorem State.emitAt_parFlip (s : State) (t src inst code data : Nat) : (s.emitAt t src inst code data).parFlip = s.parFlip := by
  unfold State.emitAt
  split
  · rfl
  · dsimp only
    split <;> rfl
@[simp] theorem State.emit_parFlip (s : State) (src inst code data : Nat) : (s.emit src inst code data).parFlip = s.parFlip :=
  s.emitAt_parFlip _ src inst code data
@[simp] theorem State.emitAt_sram (s : State) (t src inst code data : Nat) : (s.emitAt t src inst code data).sram = s.sram := by
  unfold State.emitAt
  split
  · rfl
  · dsimp only
    split <;> rfl
@[simp] theorem State.emit_sram (s : State) (src inst code data : Nat) : (s.emit src inst code data).sram = s.sram :=
  s.emitAt_sram _ src inst code data
@[simp] theorem State.emitAt_mram (s : State) (t src inst code data : Nat) : (s.emitAt t src inst code data).mram = s.mram := by
  unfold State.emitAt
  split
  · rfl
  · dsimp only
    split <;> rfl
@[simp] theorem State.emit_mram (s : State) (src inst code data : Nat) : (s.emit src inst code data).mram = s.mram :=
  s.emitAt_mram _ src inst code data
@[simp] theorem State.emitAt_time (s : State) (t src inst code data : Nat) : (s.emitAt t src inst code data).time = s.time := by
  unfold State.emitAt
  split
  · rfl
  · dsimp only
    split <;> rfl
@[simp] theorem State.emit_time (s : State) (src inst code data : Nat) : (s.emit src inst code data).time = s.time :=
  s.emitAt_time _ src inst code data
@[simp] theorem State.emitAt_mode (s : State) (t src inst code data : Nat) : (s.emitAt t src inst code data).mode = s.mode := by
  unfold State.emitAt
  split
  · rfl
  · dsimp only
    split <;> rfl
@[simp] theorem State.emit_mode (s : State) (src inst code data : Nat) : (s.emit src inst code data).mode = s.mode :=
  s.emitAt_mode _ src inst code data
@[simp] theorem State.emitAt_sys (s : State) (t src inst code data : Nat) : (s.emitAt t src inst code data).sys = s.sys := by
  unfold State.emitAt
  split
  · rfl
  · dsimp only
    split <;> rfl
@[simp] theorem State.emit_sys (s : State) (src inst code data : Nat) : (s.emit src inst code data).sys = s.sys :=
  s.emitAt_sys _ src inst code data
@[simp] theorem State.emitAt_poly (s : State) (t src inst code data : Nat) : (s.emitAt t src inst code data).poly = s.poly := by
  unfold State.emitAt
  split
  · rfl
  · dsimp only
    split <;> rfl
@[simp] theorem State.emit_poly (s : State) (src inst code data : Nat) : (s.emit src inst code data).poly = s.poly :=
  s.emitAt_poly _ src inst code data
@[simp] theorem State.emitAt_ports (s : State) (t src inst code data : Nat) : (s.emitAt t src inst code data).ports = s.ports := by
  unfold State.emitAt
  split
  · rfl
  · dsimp only
    split <;> rfl
@[simp] theorem State.emit_ports (s : State) (src inst code data : Nat) : (s.emit src inst code data).ports = s.ports :=
  s.emitAt_ports _ src inst code data
@[simp] theorem State.emitAt_prot (s : State) (t src inst code data : Nat) : (s.emitAt t src inst code data).prot = s.prot := by
  unfold State.emitAt
  split
  · rfl
  · dsimp only
    split <;> rfl
@[simp] theorem State.emit_prot (s : State) (src inst code data : Nat) : (s.emit src inst code data).prot = s.prot :=
  s.emitAt_prot _ src inst code data
@[simp] theorem State.emitAt_ce (s : State) (t src inst code data : Nat) : (s.emitAt t src inst code data).ce = s.ce := by
  unfold State.emitAt
  split
  · rfl
  · dsimp only
    split <;> rfl
@[simp] theorem State.emit_ce (s : State) (src inst code data : Nat) : (s.emit src inst code data).ce = s.ce :=
  s.emitAt_ce _ src inst code data
@[simp] theorem State.emitAt_loc (s : State) (t src inst code data : Nat) : (s.emitAt t src inst code data).loc = s.loc := by
  unfold State.emitAt
  split
  · rfl
  · dsimp only
    split <;> rfl
@[simp] theorem State.emit_loc (s : State) (src inst code data : Nat) : (s.emit src inst code data).loc = s.loc :=
  s.emitAt_loc _ src inst code data
@[simp] theorem State.emitAt_gc (s : State) (t src inst code data : Nat) : (s.emitAt t src inst code data).gc = s.gc := by
  unfold State.emitAt
  split
  · rfl
  · dsimp only
    split <;> rfl
@[simp] theorem State.emit_gc (s : State) (src inst code data : Nat) : (s.emit src inst code data).gc = s.gc :=
  s.emitAt_gc _ src inst code data
@[simp] theorem State.emitAt_isl (s : State) (t src inst code data : Nat) : (s.emitAt t src inst code data).isl = s.isl := by
  unfold State.emitAt
  split
  · rfl
  · dsimp only
    split <;> rfl
@[simp] theorem State.emit_isl (s : State) (src inst code data : Nat) : (s.emit src inst code data).isl = s.isl :=
  s.emitAt_isl _ src inst code data
@[simp] theorem State.emitAt_slope (s : State) (t src inst code data : Nat) : (s.emitAt t src inst code data).slope = s.slope := by
  unfold State.emitAt
  split
  · rfl
  · dsimp only
    split <;> rfl
@[simp] theorem State.emit_slope (s : State) (src inst code data : Nat) : (s.emit src inst code data).slope = s.slope :=
  s.emitAt_slope _ src inst code data
@[simp] theorem State.emitAt_adc (s : State) (t src inst code data : Nat) : (s.emitAt t src inst code data).adc = s.adc := by
  unfold State.emitAt
  split
  · rfl
  · dsimp only
    split <;> rfl
@[simp] theorem State.emit_adc (s : State) (src inst code data : Nat) : (s.emit src inst code data).adc = s.adc :=
  s.emitAt_adc _ src inst code data
@[simp] theorem State.emitAt_cmp (s : State) (t src inst code data : Nat) : (s.emitAt t src inst code data).cmp = s.cmp := by
  unfold State.emitAt
  split
  · rfl
  · dsimp only
    split <;> rfl
@[simp] theorem State.emit_cmp (s : State) (src inst code data : Nat) : (s.emit src inst code data).cmp = s.cmp :=
  s.emitAt_cmp _ src inst code data
@[simp] theorem State.emitAt_eth (s : State) (t src inst code data : Nat) : (s.emitAt t src inst code data).eth = s.eth := by
  unfold State.emitAt
  split
  · rfl
  · dsimp only
    split <;> rfl
@[simp] theorem State.emit_eth (s : State) (src inst code data : Nat) : (s.emit src inst code data).eth = s.eth :=
  s.emitAt_eth _ src inst code data
@[simp] theorem State.emitAt_drv (s : State) (t src inst code data : Nat) : (s.emitAt t src inst code data).drv = s.drv := by
  unfold State.emitAt
  split
  · rfl
  · dsimp only
    split <;> rfl
@[simp] theorem State.emit_drv (s : State) (src inst code data : Nat) : (s.emit src inst code data).drv = s.drv :=
  s.emitAt_drv _ src inst code data
@[simp] theorem State.emitAt_brk (s : State) (t src inst code data : Nat) : (s.emitAt t src inst code data).brk = s.brk := by
  unfold State.emitAt
  split
  · rfl
  · dsimp only
    split <;> rfl
@[simp] theorem State.emit_brk (s : State) (src inst code data : Nat) : (s.emit src inst code data).brk = s.brk :=
  s.emitAt_brk _ src inst code data
@[simp] theorem State.emitAt_arc (s : State) (t src inst code data : Nat) : (s.emitAt t src inst code data).arc = s.arc := by
  unfold State.emitAt
  split
  · rfl
  · dsimp only
    split <;> rfl
@[simp] theorem State.emit_arc (s : State) (src inst code data : Nat) : (s.emit src inst code data).arc = s.arc :=
  s.emitAt_arc _ src inst code data
@[simp] theorem State.emitAt_safe (s : State) (t src inst code data : Nat) : (s.emitAt t src inst code data).safe = s.safe := by
  unfold State.emitAt
  split
  · rfl
  · dsimp only
    split <;> rfl
@[simp] theorem State.emit_safe (s : State) (src inst code data : Nat) : (s.emit src inst code data).safe = s.safe :=
  s.emitAt_safe _ src inst code data
@[simp] theorem State.emitAt_meter (s : State) (t src inst code data : Nat) : (s.emitAt t src inst code data).meter = s.meter := by
  unfold State.emitAt
  split
  · rfl
  · dsimp only
    split <;> rfl
@[simp] theorem State.emit_meter (s : State) (src inst code data : Nat) : (s.emit src inst code data).meter = s.meter :=
  s.emitAt_meter _ src inst code data
@[simp] theorem State.emitAt_org (s : State) (t src inst code data : Nat) : (s.emitAt t src inst code data).org = s.org := by
  unfold State.emitAt
  split
  · rfl
  · dsimp only
    split <;> rfl
@[simp] theorem State.emit_org (s : State) (src inst code data : Nat) : (s.emit src inst code data).org = s.org :=
  s.emitAt_org _ src inst code data
@[simp] theorem State.emitAt_fresh (s : State) (t src inst code data : Nat) : (s.emitAt t src inst code data).fresh = s.fresh := by
  unfold State.emitAt
  split
  · rfl
  · dsimp only
    split <;> rfl
@[simp] theorem State.emit_fresh (s : State) (src inst code data : Nat) : (s.emit src inst code data).fresh = s.fresh :=
  s.emitAt_fresh _ src inst code data
@[simp] theorem State.emitAt_pending (s : State) (t src inst code data : Nat) : (s.emitAt t src inst code data).pending = s.pending := by
  unfold State.emitAt
  split
  · rfl
  · dsimp only
    split <;> rfl
@[simp] theorem State.emit_pending (s : State) (src inst code data : Nat) : (s.emit src inst code data).pending = s.pending :=
  s.emitAt_pending _ src inst code data
/-! Time: every field but `time` stays as it was. -/

@[simp] theorem State.passed_regs (s : State) (d : Nat) : (s.passed d).regs = s.regs := (rfl)
@[simp] theorem State.idle_regs (s : State) : s.idle.regs = s.regs := (rfl)
@[simp] theorem State.advTo_regs (s : State) (t : Nat) : (s.advTo t).regs = s.regs := by
  unfold State.advTo
  split <;> rfl
@[simp] theorem State.advUp_regs (s : State) (u : Nat) : (s.advUp u).regs = s.regs := by
  unfold State.advUp
  split <;> rfl
@[simp] theorem State.advOsc_regs (s : State) (c : Nat) : (s.advOsc c).regs = s.regs := by
  unfold State.advOsc
  split <;> rfl
@[simp] theorem State.passed_parFlip (s : State) (d : Nat) : (s.passed d).parFlip = s.parFlip := (rfl)
@[simp] theorem State.idle_parFlip (s : State) : s.idle.parFlip = s.parFlip := (rfl)
@[simp] theorem State.advTo_parFlip (s : State) (t : Nat) : (s.advTo t).parFlip = s.parFlip := by
  unfold State.advTo
  split <;> rfl
@[simp] theorem State.advUp_parFlip (s : State) (u : Nat) : (s.advUp u).parFlip = s.parFlip := by
  unfold State.advUp
  split <;> rfl
@[simp] theorem State.advOsc_parFlip (s : State) (c : Nat) : (s.advOsc c).parFlip = s.parFlip := by
  unfold State.advOsc
  split <;> rfl
@[simp] theorem State.passed_sram (s : State) (d : Nat) : (s.passed d).sram = s.sram := (rfl)
@[simp] theorem State.idle_sram (s : State) : s.idle.sram = s.sram := (rfl)
@[simp] theorem State.advTo_sram (s : State) (t : Nat) : (s.advTo t).sram = s.sram := by
  unfold State.advTo
  split <;> rfl
@[simp] theorem State.advUp_sram (s : State) (u : Nat) : (s.advUp u).sram = s.sram := by
  unfold State.advUp
  split <;> rfl
@[simp] theorem State.advOsc_sram (s : State) (c : Nat) : (s.advOsc c).sram = s.sram := by
  unfold State.advOsc
  split <;> rfl
@[simp] theorem State.passed_mram (s : State) (d : Nat) : (s.passed d).mram = s.mram := (rfl)
@[simp] theorem State.idle_mram (s : State) : s.idle.mram = s.mram := (rfl)
@[simp] theorem State.advTo_mram (s : State) (t : Nat) : (s.advTo t).mram = s.mram := by
  unfold State.advTo
  split <;> rfl
@[simp] theorem State.advUp_mram (s : State) (u : Nat) : (s.advUp u).mram = s.mram := by
  unfold State.advUp
  split <;> rfl
@[simp] theorem State.advOsc_mram (s : State) (c : Nat) : (s.advOsc c).mram = s.mram := by
  unfold State.advOsc
  split <;> rfl
@[simp] theorem State.passed_log (s : State) (d : Nat) : (s.passed d).log = s.log := (rfl)
@[simp] theorem State.idle_log (s : State) : s.idle.log = s.log := (rfl)
@[simp] theorem State.advTo_log (s : State) (t : Nat) : (s.advTo t).log = s.log := by
  unfold State.advTo
  split <;> rfl
@[simp] theorem State.advUp_log (s : State) (u : Nat) : (s.advUp u).log = s.log := by
  unfold State.advUp
  split <;> rfl
@[simp] theorem State.advOsc_log (s : State) (c : Nat) : (s.advOsc c).log = s.log := by
  unfold State.advOsc
  split <;> rfl
@[simp] theorem State.passed_mode (s : State) (d : Nat) : (s.passed d).mode = s.mode := (rfl)
@[simp] theorem State.idle_mode (s : State) : s.idle.mode = s.mode := (rfl)
@[simp] theorem State.advTo_mode (s : State) (t : Nat) : (s.advTo t).mode = s.mode := by
  unfold State.advTo
  split <;> rfl
@[simp] theorem State.advUp_mode (s : State) (u : Nat) : (s.advUp u).mode = s.mode := by
  unfold State.advUp
  split <;> rfl
@[simp] theorem State.advOsc_mode (s : State) (c : Nat) : (s.advOsc c).mode = s.mode := by
  unfold State.advOsc
  split <;> rfl
@[simp] theorem State.passed_sys (s : State) (d : Nat) : (s.passed d).sys = s.sys := (rfl)
@[simp] theorem State.idle_sys (s : State) : s.idle.sys = s.sys := (rfl)
@[simp] theorem State.advTo_sys (s : State) (t : Nat) : (s.advTo t).sys = s.sys := by
  unfold State.advTo
  split <;> rfl
@[simp] theorem State.advUp_sys (s : State) (u : Nat) : (s.advUp u).sys = s.sys := by
  unfold State.advUp
  split <;> rfl
@[simp] theorem State.advOsc_sys (s : State) (c : Nat) : (s.advOsc c).sys = s.sys := by
  unfold State.advOsc
  split <;> rfl
@[simp] theorem State.passed_poly (s : State) (d : Nat) : (s.passed d).poly = s.poly := (rfl)
@[simp] theorem State.idle_poly (s : State) : s.idle.poly = s.poly := (rfl)
@[simp] theorem State.advTo_poly (s : State) (t : Nat) : (s.advTo t).poly = s.poly := by
  unfold State.advTo
  split <;> rfl
@[simp] theorem State.advUp_poly (s : State) (u : Nat) : (s.advUp u).poly = s.poly := by
  unfold State.advUp
  split <;> rfl
@[simp] theorem State.advOsc_poly (s : State) (c : Nat) : (s.advOsc c).poly = s.poly := by
  unfold State.advOsc
  split <;> rfl
@[simp] theorem State.passed_ports (s : State) (d : Nat) : (s.passed d).ports = s.ports := (rfl)
@[simp] theorem State.idle_ports (s : State) : s.idle.ports = s.ports := (rfl)
@[simp] theorem State.advTo_ports (s : State) (t : Nat) : (s.advTo t).ports = s.ports := by
  unfold State.advTo
  split <;> rfl
@[simp] theorem State.advUp_ports (s : State) (u : Nat) : (s.advUp u).ports = s.ports := by
  unfold State.advUp
  split <;> rfl
@[simp] theorem State.advOsc_ports (s : State) (c : Nat) : (s.advOsc c).ports = s.ports := by
  unfold State.advOsc
  split <;> rfl
@[simp] theorem State.passed_prot (s : State) (d : Nat) : (s.passed d).prot = s.prot := (rfl)
@[simp] theorem State.idle_prot (s : State) : s.idle.prot = s.prot := (rfl)
@[simp] theorem State.advTo_prot (s : State) (t : Nat) : (s.advTo t).prot = s.prot := by
  unfold State.advTo
  split <;> rfl
@[simp] theorem State.advUp_prot (s : State) (u : Nat) : (s.advUp u).prot = s.prot := by
  unfold State.advUp
  split <;> rfl
@[simp] theorem State.advOsc_prot (s : State) (c : Nat) : (s.advOsc c).prot = s.prot := by
  unfold State.advOsc
  split <;> rfl
@[simp] theorem State.passed_ce (s : State) (d : Nat) : (s.passed d).ce = s.ce := (rfl)
@[simp] theorem State.idle_ce (s : State) : s.idle.ce = s.ce := (rfl)
@[simp] theorem State.advTo_ce (s : State) (t : Nat) : (s.advTo t).ce = s.ce := by
  unfold State.advTo
  split <;> rfl
@[simp] theorem State.advUp_ce (s : State) (u : Nat) : (s.advUp u).ce = s.ce := by
  unfold State.advUp
  split <;> rfl
@[simp] theorem State.advOsc_ce (s : State) (c : Nat) : (s.advOsc c).ce = s.ce := by
  unfold State.advOsc
  split <;> rfl
@[simp] theorem State.passed_loc (s : State) (d : Nat) : (s.passed d).loc = s.loc := (rfl)
@[simp] theorem State.idle_loc (s : State) : s.idle.loc = s.loc := (rfl)
@[simp] theorem State.advTo_loc (s : State) (t : Nat) : (s.advTo t).loc = s.loc := by
  unfold State.advTo
  split <;> rfl
@[simp] theorem State.advUp_loc (s : State) (u : Nat) : (s.advUp u).loc = s.loc := by
  unfold State.advUp
  split <;> rfl
@[simp] theorem State.advOsc_loc (s : State) (c : Nat) : (s.advOsc c).loc = s.loc := by
  unfold State.advOsc
  split <;> rfl
@[simp] theorem State.passed_gc (s : State) (d : Nat) : (s.passed d).gc = s.gc := (rfl)
@[simp] theorem State.idle_gc (s : State) : s.idle.gc = s.gc := (rfl)
@[simp] theorem State.advTo_gc (s : State) (t : Nat) : (s.advTo t).gc = s.gc := by
  unfold State.advTo
  split <;> rfl
@[simp] theorem State.advUp_gc (s : State) (u : Nat) : (s.advUp u).gc = s.gc := by
  unfold State.advUp
  split <;> rfl
@[simp] theorem State.advOsc_gc (s : State) (c : Nat) : (s.advOsc c).gc = s.gc := by
  unfold State.advOsc
  split <;> rfl
@[simp] theorem State.passed_isl (s : State) (d : Nat) : (s.passed d).isl = s.isl := (rfl)
@[simp] theorem State.idle_isl (s : State) : s.idle.isl = s.isl := (rfl)
@[simp] theorem State.advTo_isl (s : State) (t : Nat) : (s.advTo t).isl = s.isl := by
  unfold State.advTo
  split <;> rfl
@[simp] theorem State.advUp_isl (s : State) (u : Nat) : (s.advUp u).isl = s.isl := by
  unfold State.advUp
  split <;> rfl
@[simp] theorem State.advOsc_isl (s : State) (c : Nat) : (s.advOsc c).isl = s.isl := by
  unfold State.advOsc
  split <;> rfl
@[simp] theorem State.passed_slope (s : State) (d : Nat) : (s.passed d).slope = s.slope := (rfl)
@[simp] theorem State.idle_slope (s : State) : s.idle.slope = s.slope := (rfl)
@[simp] theorem State.advTo_slope (s : State) (t : Nat) : (s.advTo t).slope = s.slope := by
  unfold State.advTo
  split <;> rfl
@[simp] theorem State.advUp_slope (s : State) (u : Nat) : (s.advUp u).slope = s.slope := by
  unfold State.advUp
  split <;> rfl
@[simp] theorem State.advOsc_slope (s : State) (c : Nat) : (s.advOsc c).slope = s.slope := by
  unfold State.advOsc
  split <;> rfl
@[simp] theorem State.passed_adc (s : State) (d : Nat) : (s.passed d).adc = s.adc := (rfl)
@[simp] theorem State.idle_adc (s : State) : s.idle.adc = s.adc := (rfl)
@[simp] theorem State.advTo_adc (s : State) (t : Nat) : (s.advTo t).adc = s.adc := by
  unfold State.advTo
  split <;> rfl
@[simp] theorem State.advUp_adc (s : State) (u : Nat) : (s.advUp u).adc = s.adc := by
  unfold State.advUp
  split <;> rfl
@[simp] theorem State.advOsc_adc (s : State) (c : Nat) : (s.advOsc c).adc = s.adc := by
  unfold State.advOsc
  split <;> rfl
@[simp] theorem State.passed_cmp (s : State) (d : Nat) : (s.passed d).cmp = s.cmp := (rfl)
@[simp] theorem State.idle_cmp (s : State) : s.idle.cmp = s.cmp := (rfl)
@[simp] theorem State.advTo_cmp (s : State) (t : Nat) : (s.advTo t).cmp = s.cmp := by
  unfold State.advTo
  split <;> rfl
@[simp] theorem State.advUp_cmp (s : State) (u : Nat) : (s.advUp u).cmp = s.cmp := by
  unfold State.advUp
  split <;> rfl
@[simp] theorem State.advOsc_cmp (s : State) (c : Nat) : (s.advOsc c).cmp = s.cmp := by
  unfold State.advOsc
  split <;> rfl
@[simp] theorem State.passed_eth (s : State) (d : Nat) : (s.passed d).eth = s.eth := (rfl)
@[simp] theorem State.idle_eth (s : State) : s.idle.eth = s.eth := (rfl)
@[simp] theorem State.advTo_eth (s : State) (t : Nat) : (s.advTo t).eth = s.eth := by
  unfold State.advTo
  split <;> rfl
@[simp] theorem State.advUp_eth (s : State) (u : Nat) : (s.advUp u).eth = s.eth := by
  unfold State.advUp
  split <;> rfl
@[simp] theorem State.advOsc_eth (s : State) (c : Nat) : (s.advOsc c).eth = s.eth := by
  unfold State.advOsc
  split <;> rfl
@[simp] theorem State.passed_drv (s : State) (d : Nat) : (s.passed d).drv = s.drv := (rfl)
@[simp] theorem State.idle_drv (s : State) : s.idle.drv = s.drv := (rfl)
@[simp] theorem State.advTo_drv (s : State) (t : Nat) : (s.advTo t).drv = s.drv := by
  unfold State.advTo
  split <;> rfl
@[simp] theorem State.advUp_drv (s : State) (u : Nat) : (s.advUp u).drv = s.drv := by
  unfold State.advUp
  split <;> rfl
@[simp] theorem State.advOsc_drv (s : State) (c : Nat) : (s.advOsc c).drv = s.drv := by
  unfold State.advOsc
  split <;> rfl
@[simp] theorem State.passed_brk (s : State) (d : Nat) : (s.passed d).brk = s.brk := (rfl)
@[simp] theorem State.idle_brk (s : State) : s.idle.brk = s.brk := (rfl)
@[simp] theorem State.advTo_brk (s : State) (t : Nat) : (s.advTo t).brk = s.brk := by
  unfold State.advTo
  split <;> rfl
@[simp] theorem State.advUp_brk (s : State) (u : Nat) : (s.advUp u).brk = s.brk := by
  unfold State.advUp
  split <;> rfl
@[simp] theorem State.advOsc_brk (s : State) (c : Nat) : (s.advOsc c).brk = s.brk := by
  unfold State.advOsc
  split <;> rfl
@[simp] theorem State.passed_arc (s : State) (d : Nat) : (s.passed d).arc = s.arc := (rfl)
@[simp] theorem State.idle_arc (s : State) : s.idle.arc = s.arc := (rfl)
@[simp] theorem State.advTo_arc (s : State) (t : Nat) : (s.advTo t).arc = s.arc := by
  unfold State.advTo
  split <;> rfl
@[simp] theorem State.advUp_arc (s : State) (u : Nat) : (s.advUp u).arc = s.arc := by
  unfold State.advUp
  split <;> rfl
@[simp] theorem State.advOsc_arc (s : State) (c : Nat) : (s.advOsc c).arc = s.arc := by
  unfold State.advOsc
  split <;> rfl
@[simp] theorem State.passed_safe (s : State) (d : Nat) : (s.passed d).safe = s.safe := (rfl)
@[simp] theorem State.idle_safe (s : State) : s.idle.safe = s.safe := (rfl)
@[simp] theorem State.advTo_safe (s : State) (t : Nat) : (s.advTo t).safe = s.safe := by
  unfold State.advTo
  split <;> rfl
@[simp] theorem State.advUp_safe (s : State) (u : Nat) : (s.advUp u).safe = s.safe := by
  unfold State.advUp
  split <;> rfl
@[simp] theorem State.advOsc_safe (s : State) (c : Nat) : (s.advOsc c).safe = s.safe := by
  unfold State.advOsc
  split <;> rfl
@[simp] theorem State.passed_meter (s : State) (d : Nat) : (s.passed d).meter = s.meter := (rfl)
@[simp] theorem State.idle_meter (s : State) : s.idle.meter = s.meter := (rfl)
@[simp] theorem State.advTo_meter (s : State) (t : Nat) : (s.advTo t).meter = s.meter := by
  unfold State.advTo
  split <;> rfl
@[simp] theorem State.advUp_meter (s : State) (u : Nat) : (s.advUp u).meter = s.meter := by
  unfold State.advUp
  split <;> rfl
@[simp] theorem State.advOsc_meter (s : State) (c : Nat) : (s.advOsc c).meter = s.meter := by
  unfold State.advOsc
  split <;> rfl
@[simp] theorem State.passed_org (s : State) (d : Nat) : (s.passed d).org = s.org := (rfl)
@[simp] theorem State.idle_org (s : State) : s.idle.org = s.org := (rfl)
@[simp] theorem State.advTo_org (s : State) (t : Nat) : (s.advTo t).org = s.org := by
  unfold State.advTo
  split <;> rfl
@[simp] theorem State.advUp_org (s : State) (u : Nat) : (s.advUp u).org = s.org := by
  unfold State.advUp
  split <;> rfl
@[simp] theorem State.advOsc_org (s : State) (c : Nat) : (s.advOsc c).org = s.org := by
  unfold State.advOsc
  split <;> rfl
@[simp] theorem State.passed_fresh (s : State) (d : Nat) : (s.passed d).fresh = s.fresh := (rfl)
@[simp] theorem State.idle_fresh (s : State) : s.idle.fresh = s.fresh := (rfl)
@[simp] theorem State.advTo_fresh (s : State) (t : Nat) : (s.advTo t).fresh = s.fresh := by
  unfold State.advTo
  split <;> rfl
@[simp] theorem State.advUp_fresh (s : State) (u : Nat) : (s.advUp u).fresh = s.fresh := by
  unfold State.advUp
  split <;> rfl
@[simp] theorem State.advOsc_fresh (s : State) (c : Nat) : (s.advOsc c).fresh = s.fresh := by
  unfold State.advOsc
  split <;> rfl
@[simp] theorem State.passed_pending (s : State) (d : Nat) : (s.passed d).pending = s.pending := (rfl)
@[simp] theorem State.idle_pending (s : State) : s.idle.pending = s.pending := (rfl)
@[simp] theorem State.advTo_pending (s : State) (t : Nat) : (s.advTo t).pending = s.pending := by
  unfold State.advTo
  split <;> rfl
@[simp] theorem State.advUp_pending (s : State) (u : Nat) : (s.advUp u).pending = s.pending := by
  unfold State.advUp
  split <;> rfl
@[simp] theorem State.advOsc_pending (s : State) (c : Nat) : (s.advOsc c).pending = s.pending := by
  unfold State.advOsc
  split <;> rfl

@[simp] theorem State.emitAt_reg (s : State) (t src inst code data q : Nat) : (s.emitAt t src inst code data).reg q = s.reg q := by
  simp [State.reg]
@[simp] theorem State.emit_reg (s : State) (src inst code data q : Nat) : (s.emit src inst code data).reg q = s.reg q := by
  simp [State.reg]
@[simp] theorem State.advTo_reg (s : State) (t q : Nat) : (s.advTo t).reg q = s.reg q := by simp [State.reg]
@[simp] theorem State.passed_reg (s : State) (d : Nat) (q : Nat) : (s.passed d).reg q = s.reg q := (rfl)
@[simp] theorem State.idle_reg (s : State) (q : Nat) : s.idle.reg q = s.reg q := (rfl)
@[simp] theorem State.advOsc_reg (s : State) (c : Nat) (q : Nat) : (s.advOsc c).reg q = s.reg q := by simp [State.reg]
@[simp] theorem State.advUp_reg (s : State) (u q : Nat) : (s.advUp u).reg q = s.reg q := by simp [State.reg]
@[simp] theorem State.emitAt_get (s : State) (t src inst code data : Nat) (q : Fld) :
    (s.emitAt t src inst code data).get q = s.get q := by simp [State.get]
@[simp] theorem State.emit_get (s : State) (src inst code data : Nat) (q : Fld) : (s.emit src inst code data).get q = s.get q := by
  simp [State.get]
@[simp] theorem State.advTo_get (s : State) (t : Nat) (q : Fld) : (s.advTo t).get q = s.get q := by simp [State.get]
@[simp] theorem State.passed_get (s : State) (d : Nat) (q : Fld) : (s.passed d).get q = s.get q := (rfl)
@[simp] theorem State.idle_get (s : State) (q : Fld) : s.idle.get q = s.get q := (rfl)
@[simp] theorem State.advOsc_get (s : State) (c : Nat) (q : Fld) : (s.advOsc c).get q = s.get q := by simp [State.get]
@[simp] theorem State.advUp_get (s : State) (u : Nat) (q : Fld) : (s.advUp u).get q = s.get q := by simp [State.get]
@[simp] theorem State.emitAt_flag (s : State) (t src inst code data : Nat) (q : Fld) :
    (s.emitAt t src inst code data).flag q = s.flag q := by simp [State.flag]
@[simp] theorem State.emit_flag (s : State) (src inst code data : Nat) (q : Fld) :
    (s.emit src inst code data).flag q = s.flag q := by simp [State.flag]
@[simp] theorem State.advTo_flag (s : State) (t : Nat) (q : Fld) : (s.advTo t).flag q = s.flag q := by simp [State.flag]
@[simp] theorem State.passed_flag (s : State) (d : Nat) (q : Fld) : (s.passed d).flag q = s.flag q := (rfl)
@[simp] theorem State.idle_flag (s : State) (q : Fld) : s.idle.flag q = s.flag q := (rfl)
@[simp] theorem State.advOsc_flag (s : State) (c : Nat) (q : Fld) : (s.advOsc c).flag q = s.flag q := by simp [State.flag]
@[simp] theorem State.advUp_flag (s : State) (u : Nat) (q : Fld) : (s.advUp u).flag q = s.flag q := by simp [State.flag]

end Sys2Proof.Machine
end

