-- ==== Sys2Proof/Laws/Tab.lean ====
section
/-! SUPPORT. Read over write for the sparse tables, and the canonical form kept by every write. -/

namespace Sys2Proof

@[simp] theorem Tab.get_nil {α : Type} (d : Nat → α) (q : Nat) : Tab.get d [] q = d q := rfl

variable {α : Type} [DecidableEq α] (d : Nat → α)

omit [DecidableEq α] in
theorem Tab.get_put_same (t : Tab α) (q : Nat) (v : α) : Tab.get d (Tab.put t q v) q = v := by
  induction t with
  | nil => simp [Tab.put, Tab.get]
  | cons p t ih =>
    obtain ⟨k, w⟩ := p
    simp only [Tab.put]
    split
    · simp [Tab.get]
    · split
      · simp [Tab.get]
      · rename_i hne
        have : k ≠ q := fun h => hne h.symm
        simp [Tab.get, this, ih]

omit [DecidableEq α] in
theorem Tab.get_put_ne (t : Tab α) (q r : Nat) (v : α) (h : r ≠ q) : Tab.get d (Tab.put t q v) r = Tab.get d t r := by
  induction t with
  | nil => simp [Tab.put, Tab.get, Ne.symm h]
  | cons p t ih =>
    obtain ⟨k, w⟩ := p
    simp only [Tab.put]
    split
    · simp [Tab.get, Ne.symm h]
    · split
      · rename_i heq
        subst heq
        simp [Tab.get, Ne.symm h]
      · by_cases hk : k = r <;> simp [Tab.get, hk, ih]

omit [DecidableEq α] in
theorem Tab.get_drop_same (t : Tab α) (q : Nat) : Tab.get d (t.filter fun e => e.1 != q) q = d q := by
  induction t with
  | nil => rfl
  | cons p t ih =>
    obtain ⟨k, w⟩ := p
    by_cases hk : k = q
    · simp [hk, ih]
    · simp [hk, Tab.get, ih]

omit [DecidableEq α] in
theorem Tab.get_drop_ne (t : Tab α) (q r : Nat) (h : r ≠ q) : Tab.get d (t.filter fun e => e.1 != q) r = Tab.get d t r := by
  induction t with
  | nil => rfl
  | cons p t ih =>
    obtain ⟨k, w⟩ := p
    by_cases hk : k = q
    · subst hk
      simp [Tab.get, Ne.symm h, ih]
    · by_cases hr : k = r <;> simp [hk, Tab.get, hr, ih, h]

/-- A key reads as what was written to it. -/
theorem Tab.get_set_same (t : Tab α) (q : Nat) (v : α) : Tab.get d (Tab.set d t q v) q = v := by
  unfold Tab.set
  split
  · rename_i h
    rw [Tab.get_drop_same, h]
  · exact Tab.get_put_same d t q v

/-- A write leaves every other key as it was. -/
theorem Tab.get_set_ne (t : Tab α) (q r : Nat) (v : α) (h : r ≠ q) :
    Tab.get d (Tab.set d t q v) r = Tab.get d t r := by
  unfold Tab.set
  split
  · exact Tab.get_drop_ne d t q r h
  · exact Tab.get_put_ne d t q r v h

/-- A table without some of its entries is still bounded below and canonical. -/
theorem Tab.above_filter (p : Nat × α → Bool) (t : Tab α) (b : Nat) (hw : Tab.wf d t = true) (h : Tab.above b t = true) :
    Tab.above b (t.filter p) = true := by
  induction t generalizing b with
  | nil => rfl
  | cons q t ih =>
    obtain ⟨k, v⟩ := q
    simp only [Tab.wf, Bool.and_eq_true] at hw
    simp only [Tab.above, decide_eq_true_eq] at h
    simp only [List.filter_cons]
    split
    · simpa [Tab.above] using h
    · refine ih b hw.2 ?_
      cases t with
      | nil => rfl
      | cons r t =>
        have h2 := hw.1.2
        simp only [Tab.above, decide_eq_true_eq] at h2 ⊢
        omega
theorem Tab.wf_filter (p : Nat × α → Bool) (t : Tab α) (hw : Tab.wf d t = true) : Tab.wf d (t.filter p) = true := by
  induction t with
  | nil => rfl
  | cons q t ih =>
    obtain ⟨k, v⟩ := q
    simp only [Tab.wf, Bool.and_eq_true] at hw
    simp only [List.filter_cons]
    split
    · simp only [Tab.wf, Bool.and_eq_true]
      exact ⟨⟨hw.1.1, Tab.above_filter d p t k hw.2 hw.1.2⟩, ih hw.2⟩
    · exact ih hw.2

omit [DecidableEq α] in
theorem Tab.above_put (t : Tab α) (b q : Nat) (v : α) (h : Tab.above b t = true) (hq : b < q) : Tab.above b (Tab.put t q v) = true := by
  cases t with
  | nil => simp [Tab.put, Tab.above, hq]
  | cons p t =>
    obtain ⟨k, w⟩ := p
    simp only [Tab.put]
    split
    · simp [Tab.above, hq]
    · split
      · simp [Tab.above, hq]
      · exact h

theorem Tab.wf_put (t : Tab α) (q : Nat) (v : α) (hv : v ≠ d q) (hw : Tab.wf d t = true) : Tab.wf d (Tab.put t q v) = true := by
  induction t with
  | nil => simp [Tab.put, Tab.wf, Tab.above, hv]
  | cons p t ih =>
    obtain ⟨k, w⟩ := p
    have hab := hw
    simp only [Tab.wf, Bool.and_eq_true, decide_eq_true_eq] at hab
    simp only [Tab.put]
    split
    · rename_i hlt
      simp only [Tab.wf, Bool.and_eq_true, decide_eq_true_eq]
      exact ⟨⟨hv, by simpa [Tab.above] using hlt⟩, hab⟩
    · split
      · rename_i heq
        subst heq
        simp [Tab.wf, hv, hab.1.2, hab.2]
      · rename_i h1 h2
        have hkq : k < q := by omega
        simp [Tab.wf, hab.1.1, ih hab.2, Tab.above_put t k q v hab.1.2 hkq]

/-- Every write keeps the canonical form. -/
theorem Tab.wf_set (t : Tab α) (q : Nat) (v : α) (hw : Tab.wf d t = true) :
    Tab.wf d (Tab.set d t q v) = true := by
  unfold Tab.set
  split
  · exact Tab.wf_filter d _ t hw
  · rename_i hv
    exact Tab.wf_put d t q v hv hw

/-- A key written with what it reads as leaves a canonical table as it was. -/
theorem Tab.set_get (t : Tab α) (q : Nat) (h : Tab.wf d t = true) : Tab.set d t q (Tab.get d t q) = t := by
  induction t with
  | nil => simp [Tab.set, Tab.get]
  | cons p t ih =>
    obtain ⟨k, v⟩ := p
    have h' := h
    simp only [Tab.wf, Bool.and_eq_true, decide_eq_true_eq] at h'
    have rest : ∀ b, Tab.wf d t = true → Tab.above b t = true → ∀ x, x ≤ b → Tab.get d t x = d x ∧ t.filter (fun e => e.1 != x) = t := by
      intro b
      clear ih h h'
      induction t generalizing b with
      | nil => intro _ _ x _; exact ⟨rfl, rfl⟩
      | cons r t iht =>
        obtain ⟨k2, v2⟩ := r
        intro hw ha x hx
        simp only [Tab.wf, Bool.and_eq_true] at hw
        simp only [Tab.above, decide_eq_true_eq] at ha
        have hne : k2 ≠ x := by omega
        have := iht k2 hw.2 hw.1.2 x (by omega)
        exact ⟨by simp [Tab.get, hne, this.1], by simp [hne, this.2]⟩
    have hk := rest k h'.2 h'.1.2
    unfold Tab.set
    by_cases e : k = q
    · subst e
      simp [Tab.get, h'.1.1, Tab.put]
    · by_cases l : q < k
      · have h1 := hk q (by omega)
        simp [Tab.get, e, h1.1, h1.2]
      · have i1 := ih h'.2
        unfold Tab.set at i1
        have e' : q ≠ k := fun x => e x.symm
        simp only [Tab.get, e, if_false]
        split
        · rename_i c
          rw [if_pos c] at i1
          simp [e, i1]
        · rename_i c
          rw [if_neg c] at i1
          simp [Tab.put, l, e', i1]

theorem Tab.wf_setMany (vs : List α) (t : Tab α) (k : Nat) (hw : Tab.wf d t = true) :
    Tab.wf d (Tab.setMany d t k vs) = true := by
  induction vs generalizing t k with
  | nil => exact hw
  | cons v vs ih => exact ih _ _ (Tab.wf_set d t k v hw)

/-- A write of consecutive keys leaves every other key as it was. -/
theorem Tab.get_setMany_ne (vs : List α) (t : Tab α) (k r : Nat) (h : r < k ∨ k + vs.length ≤ r) :
    Tab.get d (Tab.setMany d t k vs) r = Tab.get d t r := by
  induction vs generalizing t k with
  | nil => rfl
  | cons v vs ih =>
    simp only [List.length_cons] at h
    simp only [Tab.setMany]
    rw [ih _ _ (by omega), Tab.get_set_ne _ _ _ _ _ (by omega)]

end Sys2Proof
end

