-- ==== Sys2Proof/Laws/Ops.lean ====
section
/-! SUPPORT. Register fields: what a read gives after a write. -/

namespace Sys2Proof.Machine

open Sys2Proof


theorem insertField_bit (w : Word) (hi lo v i : Nat) (h : lo ≤ hi) (hh : hi ≤ 31) :
    (insertField w hi lo v).toNat.testBit i = if lo ≤ i ∧ i ≤ hi then v.testBit (i - lo) else w.toNat.testBit i := by
  have hw : w.toNat < 2 ^ 32 := w.isLt
  have e : w.toNat / 2 ^ (hi + 1) * 2 ^ (hi + 1) + v % 2 ^ (hi + 1 - lo) * 2 ^ lo + w.toNat % 2 ^ lo =
      2 ^ (hi + 1) * (w.toNat / 2 ^ (hi + 1)) + (2 ^ lo * (v % 2 ^ (hi + 1 - lo)) + w.toNat % 2 ^ lo) := by ring
  have b1 : w.toNat % 2 ^ lo < 2 ^ lo := Nat.mod_lt _ (by positivity)
  have b2 : 2 ^ lo * (v % 2 ^ (hi + 1 - lo)) + w.toNat % 2 ^ lo < 2 ^ (hi + 1) := by
    have : v % 2 ^ (hi + 1 - lo) + 1 ≤ 2 ^ (hi + 1 - lo) := Nat.mod_lt _ (by positivity)
    calc 2 ^ lo * (v % 2 ^ (hi + 1 - lo)) + w.toNat % 2 ^ lo < 2 ^ lo * (v % 2 ^ (hi + 1 - lo) + 1) := by
          rw [Nat.mul_add, Nat.mul_one]; omega
      _ ≤ 2 ^ lo * 2 ^ (hi + 1 - lo) := Nat.mul_le_mul_left _ this
      _ = 2 ^ (hi + 1) := by rw [← Nat.pow_add]; congr 1; omega
  unfold insertField
  rw [BitVec.toNat_ofNat, e, Nat.testBit_mod_two_pow]
  rw [Nat.testBit_two_pow_mul_add _ b2, Nat.testBit_two_pow_mul_add _ b1]
  by_cases h1 : i < lo
  · have h2 : i < hi + 1 := by omega
    have h3 : ¬(lo ≤ i ∧ i ≤ hi) := by omega
    have h4 : i < 32 := by omega
    rw [if_pos h2, if_pos h1, if_neg h3, Nat.testBit_mod_two_pow]
    simp [h1, h4]
  · by_cases h2 : i < hi + 1
    · have h3 : lo ≤ i ∧ i ≤ hi := by omega
      have h4 : i < 32 := by omega
      have h5 : i - lo < hi + 1 - lo := by omega
      rw [if_pos h2, if_neg h1, if_pos h3, Nat.testBit_mod_two_pow]
      simp [h4, h5]
    · have h3 : ¬(lo ≤ i ∧ i ≤ hi) := by omega
      rw [if_neg h2, if_neg h3, Nat.testBit_div_two_pow]
      have h6 : hi + 1 + (i - (hi + 1)) = i := by omega
      rw [Nat.add_comm] at h6
      rw [h6]
      by_cases h4 : i < 32
      · simp [h4]
      · have : w.toNat.testBit i = false := Nat.testBit_lt_two_pow (lt_of_lt_of_le hw (Nat.pow_le_pow_right (by omega) (by omega)))
        simp [this]

theorem fieldOf_bit (w : Word) (hi lo i : Nat) :
    (fieldOf w hi lo).testBit i = (decide (i < hi + 1 - lo) && w.toNat.testBit (lo + i)) := by
  unfold fieldOf
  rw [Nat.testBit_mod_two_pow, Nat.testBit_div_two_pow, Nat.add_comm lo i]

theorem fieldOf_insertField (w : Word) (hi lo v : Nat) (h : lo ≤ hi) (hh : hi ≤ 31) :
    fieldOf (insertField w hi lo v) hi lo = v % 2 ^ (hi + 1 - lo) := by
  apply Nat.eq_of_testBit_eq
  intro i
  rw [fieldOf_bit, insertField_bit _ _ _ _ _ h hh, Nat.testBit_mod_two_pow]
  by_cases hi' : i < hi + 1 - lo
  · have : lo ≤ lo + i ∧ lo + i ≤ hi := by omega
    simp [hi', this]
  · simp [hi']

theorem fieldOf_insertField_ne (w : Word) (hi lo v hi' lo' : Nat) (h : lo ≤ hi) (hh : hi ≤ 31) (k : lo' ≤ hi')
    (a : hi < lo' ∨ hi' < lo) : fieldOf (insertField w hi lo v) hi' lo' = fieldOf w hi' lo' := by
  apply Nat.eq_of_testBit_eq
  intro i
  rw [fieldOf_bit, fieldOf_bit, insertField_bit _ _ _ _ _ h hh]
  by_cases hi2 : i < hi' + 1 - lo'
  · have : ¬(lo ≤ lo' + i ∧ lo' + i ≤ hi) := by omega
    simp [this]
  · simp [hi2]

theorem fieldOf_lt (w : Word) (hi lo : Nat) : fieldOf w hi lo < 2 ^ (hi + 1 - lo) := Nat.mod_lt _ (by positivity)
theorem State.get_lt (s : State) (f : Fld) : s.get f < 2 ^ (f.hi + 1 - f.lo) := fieldOf_lt _ _ _

/-! ## The state's registers -/

theorem State.Wf.regs {s : State} (h : s.Wf) : Tab.wf regReset s.regs = true := h.1
/-- A state with the same register file and memories is as well formed. -/
theorem State.Wf.of_eq {s t : State} (h : s.Wf) (h1 : t.regs = s.regs) (h2 : t.sram = s.sram) (h3 : t.mram = s.mram) : t.Wf := by
  unfold State.Wf
  rw [h1, h2, h3]
  exact h

theorem State.setReg_wf {s : State} (h : s.Wf) (a : Nat) (v : Word) : (s.setReg a v).Wf := ⟨Tab.wf_set _ _ _ _ h.1, h.2⟩
theorem State.put_wf {s : State} (h : s.Wf) (f : Fld) (v : Nat) : (s.put f v).Wf := State.setReg_wf h _ _
theorem State.putI_wf {s : State} (h : s.Wf) (f : Fld) (v : Int) : (s.putI f v).Wf := State.put_wf h _ _
theorem State.putB_wf {s : State} (h : s.Wf) (f : Fld) (b : Bool) : (s.putB f b).Wf := State.put_wf h _ _
theorem State.putCfg_wf {s : State} (h : s.Wf) (f : Fld) (v : Nat) : (s.putCfg f v).Wf := State.put_wf h f v
theorem State.bumpSat_wf {s : State} (h : s.Wf) (f : Fld) : (s.bumpSat f).Wf := State.put_wf h f _
theorem State.bumpMod_wf {s : State} (h : s.Wf) (f : Fld) : (s.bumpMod f).Wf := State.put_wf h f _
theorem State.irq_wf {s : State} (h : s.Wf) (k : PageKind) (n i : Nat) : (s.irq k n i).Wf := State.put_wf h _ _
theorem State.emit_wf {s : State} (h : s.Wf) (a b c d : Nat) : (s.emit a b c d).Wf := by
  refine h.of_eq ?_ ?_ ?_ <;> simp
theorem State.emitAt_wf {s : State} (h : s.Wf) (t a b c d : Nat) : (s.emitAt t a b c d).Wf := by
  refine h.of_eq ?_ ?_ ?_ <;> simp

theorem State.reg_setReg (s : State) (a : Nat) (v : Word) : (s.setReg a v).reg a = v := Tab.get_set_same _ _ _ _
theorem State.reg_setReg_ne (s : State) {a b : Nat} (v : Word) (h : b ≠ a) : (s.setReg a v).reg b = s.reg b :=
  Tab.get_set_ne _ _ _ _ _ h
theorem State.reg_put_ne (s : State) {f : Fld} {b : Nat} (v : Nat) (h : b ≠ f.addr) : (s.put f v).reg b = s.reg b :=
  State.reg_setReg_ne _ _ h

theorem State.get_put (s : State) (f : Fld) (v : Nat) (hf : Fld.ok f) :
    (s.put f v).get f = v % 2 ^ (f.hi + 1 - f.lo) := by
  unfold State.get State.put
  rw [State.reg_setReg, fieldOf_insertField _ _ _ _ hf.1 hf.2]
theorem State.get_put_ne (s : State) {f g : Fld} (v : Nat) (hf : Fld.ok f) (hg : g.lo ≤ g.hi) (ha : Fld.apart f g) :
    (s.put f v).get g = s.get g := by
  unfold State.get State.put
  by_cases e : g.addr = f.addr
  · rw [e, State.reg_setReg]
    refine fieldOf_insertField_ne _ _ _ _ _ _ hf.1 hf.2 hg ?_
    unfold Fld.apart at ha
    omega
  · rw [State.reg_setReg_ne _ _ e]
theorem State.get_put_addr (s : State) {f g : Fld} (v : Nat) (ha : g.addr ≠ f.addr) : (s.put f v).get g = s.get g := by
  unfold State.get
  rw [State.reg_put_ne _ _ ha]

/-- An untouched register word put back is no change. -/
theorem State.setReg_reg {s : State} (h : s.Wf) (a : Nat) : s.setReg a (s.reg a) = s := by
  unfold State.setReg State.reg
  rw [Tab.set_get _ _ _ h.1]

end Sys2Proof.Machine
end

