-- ==== Sys2Proof/Laws/Writes.lean ====
section
/-! SUPPORT. What a register write does when nothing of it is refused. -/

namespace Sys2Proof

/-- The plain fields of a register. -/
def RegRef.plain (r : RegRef) : List FieldSpec := r.fam.fields.filter (Machine.isPlain r)
/-- Bit i belongs to a field. -/
def FieldSpec.covers (f : FieldSpec) (i : Nat) : Prop := f.lo ≤ i ∧ i ≤ f.hi
/-- Every field of a register lies in a 32-bit word. -/
def RegRef.fieldsOk (r : RegRef) : Prop := ∀ f ∈ r.fam.fields, f.lo ≤ f.hi ∧ f.hi ≤ 31

end Sys2Proof

namespace Sys2Proof.Machine

open Sys2Proof

theorem word_ext {v w : Word} (h : ∀ i, v.toNat.testBit i = w.toNat.testBit i) : v = w :=
  BitVec.eq_of_toNat_eq (Nat.eq_of_testBit_eq h)

theorem insertField_fieldOf_bit (w W : Word) (f : FieldSpec) (h : f.lo ≤ f.hi ∧ f.hi ≤ 31) (i : Nat) :
    (insertField w f.hi f.lo (fieldOf W f.hi f.lo)).toNat.testBit i =
      if f.lo ≤ i ∧ i ≤ f.hi then W.toNat.testBit i else w.toNat.testBit i := by
  rw [insertField_bit _ _ _ _ _ h.1 h.2]
  split
  · rename_i k
    have h1 : i - f.lo < f.hi + 1 - f.lo := by omega
    have h2 : f.lo + (i - f.lo) = i := by omega
    rw [fieldOf_bit, h2]
    simp [h1]
  · rfl

/-- Fields of a word W laid into another that agrees with W elsewhere give W. -/
theorem foldl_insertField (W : Word) (l : List (FieldSpec × Nat))
    (h : ∀ p ∈ l, (p.1.lo ≤ p.1.hi ∧ p.1.hi ≤ 31) ∧ p.2 = fieldOf W p.1.hi p.1.lo) :
    ∀ w : Word, (∀ i, (∀ p ∈ l, ¬ p.1.covers i) → w.toNat.testBit i = W.toNat.testBit i) →
      l.foldl (fun x p => insertField x p.1.hi p.1.lo p.2) w = W := by
  induction l with
  | nil => intro w k; exact word_ext fun i => k i (by simp)
  | cons p l ih =>
    intro w k
    have hp := h p (by simp)
    rw [List.foldl_cons, hp.2]
    refine ih (fun q hq => h q (by simp [hq])) _ fun i hi => ?_
    rw [insertField_fieldOf_bit _ _ _ hp.1]
    split
    · rfl
    · rename_i n
      refine k i fun q hq => ?_
      rcases List.mem_cons.mp hq with rfl | hq
      · exact n
      · exact hi q hq

theorem insertField_self (w : Word) (hi lo : Nat) (h : lo ≤ hi) (hh : hi ≤ 31) : insertField w hi lo (fieldOf w hi lo) = w := by
  refine word_ext fun i => ?_
  have := insertField_fieldOf_bit w w ⟨hi, lo, .ro, .const 0, none, none, .none, false⟩ ⟨h, hh⟩ i
  simpa using this

/-- A word that differs from another only in a field is that word with the field inserted. -/
theorem fieldOf_insert_of_apart (w : Word) (f g : FieldSpec) (x : Nat) (hf : f.lo ≤ f.hi ∧ f.hi ≤ 31) (hg : g.lo ≤ g.hi)
    (h : f.hi < g.lo ∨ g.hi < f.lo) : fieldOf (insertField w f.hi f.lo x) g.hi g.lo = fieldOf w g.hi g.lo :=
  fieldOf_insertField_ne _ _ _ _ _ _ hf.1 hf.2 hg h

theorem map_congr_mem {α β : Type} {l : List α} {f g : α → β} (h : ∀ a ∈ l, f a = g a) : l.map f = l.map g := by
  induction l with
  | nil => rfl
  | cons a l ih => simp [h a (by simp), ih fun b hb => h b (by simp [hb])]

/-- The state after a register has taken a word. -/
def State.took (s : State) (r : RegRef) (W : Word) : State :=
  { s.setReg r.addr W with parFlip := if r.plain.isEmpty then s.parFlip else s.parFlip.filter (· != r.addr) }.clearFlips r r.plain
/-- A register outside the SAFE region has one copy. -/
theorem State.clearFlips_of_ne {s : State} {r : RegRef} (fs : List FieldSpec) (h : r.kind.info.block ≠ PageKind.safe.info.block) :
    s.clearFlips r fs = s := by
  unfold State.clearFlips
  rw [if_pos (Or.inl h)]
theorem State.clearFlips_nil (s : State) (r : RegRef) : s.clearFlips r [] = s := by
  unfold State.clearFlips
  simp

/-- A write of which nothing is refused: the register takes the word W, then the write-only fields act, then the effects of changed
fields follow; an RWK field that changes uses the key. -/
theorem State.writeFields_accept (s : State) (who : Who) (r : RegRef) (v : Nat) (al : Bool) (W : Word) (hok : r.fieldsOk)
    (h1 : ∀ g ∈ r.plain, s.judgeField r g (fieldOf (BitVec.ofNat 32 v) g.hi g.lo) = (fieldOf W g.hi g.lo, none))
    (h0 : ∀ i, (∀ g ∈ r.plain, ¬ g.covers i) → W.toNat.testBit i = (s.reg r.addr).toNat.testBit i)
    (h2 : ∀ g ∈ r.plain, fieldOf W g.hi g.lo ≠ fieldOf (s.reg r.addr) g.hi g.lo →
      s.refuses (s.setReg r.addr W) r g (fieldOf W g.hi g.lo) = false)
    (h3 : ∀ g ∈ r.plain, s.staging r g = false)
    (h4 : v &&& clearMask r.fam.fields &&& (s.reg r.addr).toNat = 0)
    (h5 : ((r.fam.fields.filter (isAction r)).map fun f => fieldOf (BitVec.ofNat 32 v) f.hi f.lo).all (· == 0) = true)
    (h6 : ((s.took r W).act r v al).2 = false) :
    s.writeFields who r v al =
      (let t := s.after ((s.took r W).act r v al).1 r v al
       if r.plain.any (fun g => g.acc == .rwk && fieldOf W g.hi g.lo != fieldOf (s.reg r.addr) g.hi g.lo) then
         t.setKey (pageBase r.kind r.pn) none else t) := by
  have e1 : ((r.fam.fields.filter (isPlain r)).map fun f => (f, s.judgeField r f (fieldOf (BitVec.ofNat 32 v) f.hi f.lo))) =
      r.plain.map fun f => (f, fieldOf W f.hi f.lo, (none : Option Nat)) :=
    map_congr_mem fun g hg => by rw [h1 g hg]
  have e2 : (r.plain.map fun f => (f, fieldOf W f.hi f.lo)).foldl (fun x p => insertField x p.1.hi p.1.lo p.2) (s.reg r.addr) = W := by
    refine foldl_insertField W _ ?_ _ ?_
    · intro p hp
      obtain ⟨g, hg, rfl⟩ := List.mem_map.mp hp
      exact ⟨hok g (List.mem_of_mem_filter hg), rfl⟩
    · intro i hi
      exact (h0 i fun g hg => hi (g, fieldOf W g.hi g.lo) (List.mem_map.mpr ⟨g, hg, rfl⟩)).symm
  have e2' : (r.plain.map fun f => (f, fieldOf W f.hi f.lo, (none : Option Nat))).foldl
      (fun w j => insertField w j.1.hi j.1.lo j.2.1) (s.reg r.addr) = W := by
    rw [List.foldl_map] at e2 ⊢
    exact e2
  have ej : s.judgeWrite r v = (r.plain.map fun f => (f, fieldOf W f.hi f.lo), [], false) := by
    unfold State.judgeWrite
    simp only [e1, e2']
    have eb : ∀ j ∈ r.plain.map (fun f => (f, fieldOf W f.hi f.lo, (none : Option Nat))),
        (j.2.1 != fieldOf (s.reg r.addr) j.1.hi j.1.lo && s.refuses (s.setReg r.addr W) r j.1 j.2.1) = false := by
      intro j hj
      obtain ⟨g, hg, rfl⟩ := List.mem_map.mp hj
      by_cases e : fieldOf W g.hi g.lo = fieldOf (s.reg r.addr) g.hi g.lo
      · simp [e]
      · simp [h2 g hg e]
    have er : (r.plain.map fun f => (f, fieldOf W f.hi f.lo, (none : Option Nat))).filter
        (fun j => j.2.1 != fieldOf (s.reg r.addr) j.1.hi j.1.lo && s.refuses (s.setReg r.addr W) r j.1 j.2.1) = [] := by
      rw [List.filter_eq_nil_iff]
      intro j hj
      simp only [eb j hj, Bool.false_eq_true, not_false_eq_true]
    rw [er]
    have ek : (r.plain.map fun f => (f, fieldOf W f.hi f.lo, (none : Option Nat))).filter
        (fun j => !(j.2.1 != fieldOf (s.reg r.addr) j.1.hi j.1.lo && s.refuses (s.setReg r.addr W) r j.1 j.2.1) &&
          (j.2.2.isNone || j.2.1 != fieldOf (s.reg r.addr) j.1.hi j.1.lo)) =
        r.plain.map fun f => (f, fieldOf W f.hi f.lo, (none : Option Nat)) := by
      rw [List.filter_eq_self]
      intro j hj
      have := eb j hj
      obtain ⟨g, hg, rfl⟩ := List.mem_map.mp hj
      simp only [this]
      rfl
    rw [ek]
    simp [List.filterMap_map, Function.comp_def]
  unfold State.writeFields
  have es : (r.plain.map fun f => (f, fieldOf W f.hi f.lo)).filter (fun q => s.staging r q.1 &&
      (q.2 != fieldOf (s.reg r.addr) q.1.hi q.1.lo || s.isStaged r q.1)) = [] := by
    rw [List.filter_eq_nil_iff]
    intro j hj
    obtain ⟨g, hg, rfl⟩ := List.mem_map.mp hj
    simp [h3 g hg]
  have et : (r.plain.map fun f => (f, fieldOf W f.hi f.lo)).filter (fun q => !s.staging r q.1) =
      r.plain.map fun f => (f, fieldOf W f.hi f.lo) := by
    rw [List.filter_eq_self]
    intro j hj
    obtain ⟨g, hg, rfl⟩ := List.mem_map.mp hj
    simp [h3 g hg]
  have eS : (if r.plain.isEmpty = true then s.setReg r.addr W
        else { s.setReg r.addr W with parFlip := (s.setReg r.addr W).parFlip.filter (· != r.addr) }).clearFlips r
        r.plain = s.took r W := by
    unfold State.took
    cases r.plain.isEmpty <;> rfl
  have em : (r.plain.map fun f => (f, fieldOf W f.hi f.lo)).map (·.1) = r.plain := by simp [Function.comp_def]
  have ea : ∀ t : State, t.actKeyed r v = (t, false, []) := by
    intro t
    unfold State.actKeyed
    simp only [h5, if_true]
  simp only [ej, es, et, e2, em, List.isEmpty_map, eS, List.foldl_nil]
  unfold State.writeRest
  simp only [h4, Nat.zero_and, Nat.sub_self, if_true, h6, ea,
    List.any_map, Function.comp_def, Bool.false_eq_true, if_false, Bool.or_false, List.append_nil, minCause]

/-! ## A read-modify-write of one field (R30) -/

/-- The plain fields of a register as held, laid into an empty word. -/
def State.heldWord (s : State) (r : RegRef) : Word :=
  r.plain.foldl (fun x g => insertField x g.hi g.lo (fieldOf (s.reg r.addr) g.hi g.lo)) 0

theorem foldl_held_bit (W : Word) (l : List FieldSpec) (h : ∀ g ∈ l, g.lo ≤ g.hi ∧ g.hi ≤ 31) (i : Nat) :
    ∀ w : Word, (l.foldl (fun x g => insertField x g.hi g.lo (fieldOf W g.hi g.lo)) w).toNat.testBit i =
      if l.any (fun g => decide (g.lo ≤ i) && decide (i ≤ g.hi)) then W.toNat.testBit i else w.toNat.testBit i := by
  induction l with
  | nil => intro w; simp
  | cons g l ih =>
    intro w
    rw [List.foldl_cons, ih (fun q hq => h q (by simp [hq])), insertField_fieldOf_bit _ _ _ (h g (by simp))]
    by_cases c : g.lo ≤ i ∧ i ≤ g.hi
    · simp [c]
    · have : (decide (g.lo ≤ i) && decide (i ≤ g.hi)) = false := by
        rw [Bool.and_eq_false_iff]; simp only [decide_eq_false_iff_not]; omega
      simp [this, c]

/-- A register whose simple write the lemmas below cover: its fields lie in the word and share no bit, none is cleared by writing 1,
and none is an action. -/
def RegRefSimple (r : RegRef) : Prop :=
  r.fieldsOk ∧ (∀ f ∈ r.plain, ∀ g ∈ r.plain, f ≠ g → f.hi < g.lo ∨ g.hi < f.lo) ∧ clearMask r.fam.fields = 0 ∧
    r.fam.fields.filter (isAction r) = []

/-- The word that a read-modify-write of a plain field leaves in the register, and the plain fields it writes. -/
theorem rmw_fields (s : State) (r : RegRef) (hr : RegRefSimple r) (f : FieldSpec) (hf : f ∈ r.plain) (w : Nat) :
    ∀ g ∈ r.plain, fieldOf (insertField (s.heldWord r) f.hi f.lo w) g.hi g.lo =
      fieldOf (insertField (s.reg r.addr) f.hi f.lo w) g.hi g.lo := by
  intro g hg
  have ok := hr.1
  have of := ok f (List.mem_of_mem_filter hf)
  have og := ok g (List.mem_of_mem_filter hg)
  apply Nat.eq_of_testBit_eq
  intro i
  rw [fieldOf_bit, fieldOf_bit, insertField_bit _ _ _ _ _ of.1 of.2, insertField_bit _ _ _ _ _ of.1 of.2]
  by_cases c : i < g.hi + 1 - g.lo
  · have e : (s.heldWord r).toNat.testBit (g.lo + i) = (s.reg r.addr).toNat.testBit (g.lo + i) := by
      unfold State.heldWord
      rw [foldl_held_bit _ r.plain (fun q hq => ok q (List.mem_of_mem_filter hq))]
      have : r.plain.any (fun q => decide (q.lo ≤ g.lo + i) && decide (g.lo + i ≤ q.hi)) = true := by
        rw [List.any_eq_true]
        exact ⟨g, hg, by simp only [Bool.and_eq_true, decide_eq_true_eq]; omega⟩
      rw [this, if_pos rfl]
    rw [e]
  · simp [c]

theorem State.writeFields_rmw (s : State) (who : Who) (r : RegRef) (hr : RegRefSimple r) (f : FieldSpec) (hf : f ∈ r.plain) (w : Nat)
    (al : Bool) (hj : s.judgeField r f (w % 2 ^ (f.hi + 1 - f.lo)) = (w % 2 ^ (f.hi + 1 - f.lo), none))
    (hn : w % 2 ^ (f.hi + 1 - f.lo) ≠ fieldOf (s.reg r.addr) f.hi f.lo →
      s.refuses (s.setReg r.addr (insertField (s.reg r.addr) f.hi f.lo w)) r f (w % 2 ^ (f.hi + 1 - f.lo)) = false)
    (hs : ∀ g ∈ r.plain, s.staging r g = false)
    (ha : ((s.took r (insertField (s.reg r.addr) f.hi f.lo w)).act r (insertField (s.heldWord r) f.hi f.lo w).toNat al).2 = false) :
    s.writeFields who r (insertField (s.heldWord r) f.hi f.lo w).toNat al =
      (let t := s.after ((s.took r (insertField (s.reg r.addr) f.hi f.lo w)).act r (insertField (s.heldWord r) f.hi f.lo w).toNat al).1 r
        (insertField (s.heldWord r) f.hi f.lo w).toNat al
       if f.acc == .rwk && w % 2 ^ (f.hi + 1 - f.lo) != fieldOf (s.reg r.addr) f.hi f.lo then
         t.setKey (pageBase r.kind r.pn) none else t) := by
  have of := hr.1 f (List.mem_of_mem_filter hf)
  have ev : BitVec.ofNat 32 (insertField (s.heldWord r) f.hi f.lo w).toNat = insertField (s.heldWord r) f.hi f.lo w := by simp
  have key : ∀ g ∈ r.plain, g ≠ f → fieldOf (insertField (s.reg r.addr) f.hi f.lo w) g.hi g.lo = fieldOf (s.reg r.addr) g.hi g.lo :=
    fun g hg e => fieldOf_insert_of_apart _ _ _ _ of (hr.1 g (List.mem_of_mem_filter hg)).1 (hr.2.1 f hf g hg (Ne.symm e))
  have self := fieldOf_insertField (s.reg r.addr) f.hi f.lo w of.1 of.2
  rw [State.writeFields_accept s who r _ al (insertField (s.reg r.addr) f.hi f.lo w) hr.1 ?_ ?_ ?_ hs ?_ ?_ ha]
  · have : (r.plain.any fun g => g.acc == .rwk && fieldOf (insertField (s.reg r.addr) f.hi f.lo w) g.hi g.lo !=
        fieldOf (s.reg r.addr) g.hi g.lo) = (f.acc == .rwk && w % 2 ^ (f.hi + 1 - f.lo) != fieldOf (s.reg r.addr) f.hi f.lo) := by
      rw [← self, Bool.eq_iff_iff, List.any_eq_true]
      constructor
      · rintro ⟨g, hg, h⟩
        by_cases e : g = f
        · subst e; exact h
        · simp [key g hg e] at h
      · intro h
        exact ⟨f, hf, h⟩
    rw [this]
  · intro g hg
    rw [ev, rmw_fields s r hr f hf w g hg]
    by_cases e : g = f
    · subst e
      rw [self]; exact hj
    · rw [key g hg e]
      unfold State.judgeField
      simp
  · intro i hi
    rw [insertField_bit _ _ _ _ _ of.1 of.2, if_neg]
    have := hi f hf
    unfold FieldSpec.covers at this
    exact this
  · intro g hg h
    by_cases e : g = f
    · subst e
      rw [self] at h ⊢
      exact hn h
    · exact absurd (key g hg e) h
  · simp [hr.2.2.1]
  · simp [hr.2.2.2]

/-- A read-modify-write of a field of a simple register by a machine-mode access, none of it refused. -/
theorem State.fieldWrite_accept (s : State) (who : Who) (q : Fld) (w : Nat) (al : Bool) (r : RegRef) (f : FieldSpec)
    (hm : machineAccess who = true) (hi : s.initiates who = true) (h1 : findReg q.addr = some r) (h2 : findPage q.addr = some (r.kind, r.pn)) (h3 : r.addr = q.addr)
    (h4 : q.addr % 4 = 0) (h5 : r.off ≠ 0x008) (h6 : ¬ (r.kind = .ring ∧ (r.fam.off = 0x048 ∨ r.fam.off = 0x04C))) (hf : f ∈ r.plain) (hq : f.hi = q.hi ∧ f.lo = q.lo)
    (hr : RegRefSimple r)
    (hj : s.judgeField r f (w % 2 ^ (f.hi + 1 - f.lo)) = (w % 2 ^ (f.hi + 1 - f.lo), none))
    (hn : w % 2 ^ (f.hi + 1 - f.lo) ≠ s.get q →
      s.refuses (s.put q w) r f (w % 2 ^ (f.hi + 1 - f.lo)) = false)
    (hs : ∀ g ∈ r.plain, s.staging r g = false)
    (ha : ((s.took r ((s.put q w).reg q.addr)).act r (insertField (s.heldWord r) q.hi q.lo w).toNat al).2 = false) :
    s.fieldWrite who q w al =
      (let t := s.after ((s.took r ((s.put q w).reg q.addr)).act r (insertField (s.heldWord r) q.hi q.lo w).toNat al).1 r
        (insertField (s.heldWord r) q.hi q.lo w).toNat al
       if f.acc == .rwk && w % 2 ^ (f.hi + 1 - f.lo) != s.get q then t.setKey (pageBase r.kind r.pn) none else t) := by
  have ep : (s.put q w).reg q.addr = insertField (s.reg r.addr) f.hi f.lo w := by
    unfold State.put
    rw [State.reg_setReg, h3, hq.1, hq.2]
  have eg : s.get q = fieldOf (s.reg r.addr) f.hi f.lo := by unfold State.get; rw [h3, hq.1, hq.2]
  have ex : s.put q w = s.setReg r.addr (insertField (s.reg r.addr) f.hi f.lo w) := by
    unfold State.put; rw [h3, hq.1, hq.2]
  have hel : BitVec.ofNat 32 ((r.fam.fields.filter (isPlain r)).foldl
      (fun x g => insertField x g.hi g.lo (fieldOf (s.reg q.addr) g.hi g.lo)) (0 : Word)).toNat = s.heldWord r := by
    rw [BitVec.ofNat_toNat, BitVec.setWidth_eq, ← h3]; rfl
  rw [eg, ex] at hn
  rw [ep, ← hq.1, ← hq.2] at ha
  have main := State.writeFields_rmw s who r hr f hf w al hj hn hs ha
  unfold State.fieldWrite
  simp only [h1, hel]
  unfold State.writeReg
  simp only [hi, Bool.true_eq_false, h1, h2, hm, beq_self_eq_true, Bool.true_or, Bool.not_true, Bool.false_and, Bool.false_eq_true, if_false, h4,
    bne_self_eq_false, Bool.or_false, h5, h6]
  rw [← hq.1, ← hq.2, main, ep, eg]

/-! ## A write that changes no plain field -/

theorem foldl_self (W : Word) (l : List FieldSpec) (h : ∀ f ∈ l, f.lo ≤ f.hi ∧ f.hi ≤ 31) :
    (l.map fun f => (f, fieldOf W f.hi f.lo)).foldl (fun x p => insertField x p.1.hi p.1.lo p.2) W = W := by
  refine foldl_insertField W _ ?_ _ fun i _ => rfl
  intro p hp
  obtain ⟨g, hg, rfl⟩ := List.mem_map.mp hp
  exact ⟨h g hg, rfl⟩

/-- A write in which every plain field has the value that it holds. -/
theorem State.writeFields_held (s : State) (who : Who) (r : RegRef) (v : Nat) (al : Bool) (hok : r.fieldsOk)
    (h1 : ∀ g ∈ r.plain, fieldOf (BitVec.ofNat 32 v) g.hi g.lo = fieldOf (s.reg r.addr) g.hi g.lo)
    (h3 : ∀ g ∈ r.plain, s.staging r g = false) :
    s.writeFields who r v al = s.writeRest (s.took r (s.reg r.addr)) who r v al false false [] := by
  have hok' : ∀ g ∈ r.plain, g.lo ≤ g.hi ∧ g.hi ≤ 31 := fun g hg => hok g (List.mem_of_mem_filter hg)
  have e1 : ((r.fam.fields.filter (isPlain r)).map fun f => (f, s.judgeField r f (fieldOf (BitVec.ofNat 32 v) f.hi f.lo))) =
      r.plain.map fun f => (f, fieldOf (s.reg r.addr) f.hi f.lo, (none : Option Nat)) :=
    map_congr_mem fun g hg => by
      rw [h1 g hg]
      unfold State.judgeField
      simp
  have e2 := foldl_self (s.reg r.addr) r.plain hok'
  have e2' : (r.plain.map fun f => (f, fieldOf (s.reg r.addr) f.hi f.lo, (none : Option Nat))).foldl
      (fun w j => insertField w j.1.hi j.1.lo j.2.1) (s.reg r.addr) = s.reg r.addr := by
    rw [List.foldl_map] at e2 ⊢
    exact e2
  have ej : s.judgeWrite r v = (r.plain.map fun f => (f, fieldOf (s.reg r.addr) f.hi f.lo), [], false) := by
    unfold State.judgeWrite
    simp only [e1, e2']
    have er : (r.plain.map fun f => (f, fieldOf (s.reg r.addr) f.hi f.lo, (none : Option Nat))).filter
        (fun j => j.2.1 != fieldOf (s.reg r.addr) j.1.hi j.1.lo && s.refuses (s.setReg r.addr (s.reg r.addr)) r j.1 j.2.1) = [] := by
      rw [List.filter_eq_nil_iff]
      intro j hj
      obtain ⟨g, hg, rfl⟩ := List.mem_map.mp hj
      simp
    have ek : (r.plain.map fun f => (f, fieldOf (s.reg r.addr) f.hi f.lo, (none : Option Nat))).filter
        (fun j => !(j.2.1 != fieldOf (s.reg r.addr) j.1.hi j.1.lo && s.refuses (s.setReg r.addr (s.reg r.addr)) r j.1 j.2.1) &&
          (j.2.2.isNone || j.2.1 != fieldOf (s.reg r.addr) j.1.hi j.1.lo)) =
        r.plain.map fun f => (f, fieldOf (s.reg r.addr) f.hi f.lo, (none : Option Nat)) := by
      rw [List.filter_eq_self]
      intro j hj
      obtain ⟨g, hg, rfl⟩ := List.mem_map.mp hj
      simp
    rw [er, ek]
    simp [List.filterMap_map, Function.comp_def]
  have es : (r.plain.map fun f => (f, fieldOf (s.reg r.addr) f.hi f.lo)).filter (fun q => s.staging r q.1 &&
      (q.2 != fieldOf (s.reg r.addr) q.1.hi q.1.lo || s.isStaged r q.1)) = [] := by
    rw [List.filter_eq_nil_iff]
    intro j hj
    obtain ⟨g, hg, rfl⟩ := List.mem_map.mp hj
    simp [h3 g hg]
  have et : (r.plain.map fun f => (f, fieldOf (s.reg r.addr) f.hi f.lo)).filter (fun q => !s.staging r q.1) =
      r.plain.map fun f => (f, fieldOf (s.reg r.addr) f.hi f.lo) := by
    rw [List.filter_eq_self]
    intro j hj
    obtain ⟨g, hg, rfl⟩ := List.mem_map.mp hj
    simp [h3 g hg]
  have eS : (if r.plain.isEmpty = true then s.setReg r.addr (s.reg r.addr)
        else { s.setReg r.addr (s.reg r.addr) with parFlip := (s.setReg r.addr (s.reg r.addr)).parFlip.filter (· != r.addr) }).clearFlips
        r r.plain = s.took r (s.reg r.addr) := by
    unfold State.took
    cases r.plain.isEmpty <;> rfl
  have em : (r.plain.map fun f => (f, fieldOf (s.reg r.addr) f.hi f.lo)).map (·.1) = r.plain := by simp [Function.comp_def]
  have ek : (r.plain.map fun f => (f, fieldOf (s.reg r.addr) f.hi f.lo)).any (fun q => q.1.acc == .rwk && q.2 !=
      fieldOf (s.reg r.addr) q.1.hi q.1.lo) = false := by
    rw [List.any_eq_false]
    intro j hj
    obtain ⟨g, hg, rfl⟩ := List.mem_map.mp hj
    simp
  unfold State.writeFields
  simp only [ej, es, et, e2, em, List.isEmpty_map, eS, List.foldl_nil, ek]

/-- A read-modify-write of a field that stores nothing, a write-only field or an action, by a machine-mode access. -/
theorem State.fieldWrite_rest (s : State) (who : Who) (q : Fld) (w : Nat) (al : Bool) (r : RegRef)
    (hm : machineAccess who = true) (hi : s.initiates who = true) (h1 : findReg q.addr = some r) (h2 : findPage q.addr = some (r.kind, r.pn)) (h3 : r.addr = q.addr)
    (h4 : q.addr % 4 = 0) (h5 : r.off ≠ 0x008) (h6 : ¬ (r.kind = .ring ∧ (r.fam.off = 0x048 ∨ r.fam.off = 0x04C))) (hok : r.fieldsOk) (hq : q.lo ≤ q.hi ∧ q.hi ≤ 31)
    (ha : ∀ g ∈ r.plain, g.hi < q.lo ∨ q.hi < g.lo)
    (hs : ∀ g ∈ r.plain, s.staging r g = false) :
    s.fieldWrite who q w al =
      s.writeRest (s.took r (s.reg r.addr)) who r (insertField (s.heldWord r) q.hi q.lo w).toNat al false false [] := by
  have hel : BitVec.ofNat 32 ((r.fam.fields.filter (isPlain r)).foldl
      (fun x g => insertField x g.hi g.lo (fieldOf (s.reg q.addr) g.hi g.lo)) (0 : Word)).toNat = s.heldWord r := by
    rw [BitVec.ofNat_toNat, BitVec.setWidth_eq, ← h3]; rfl
  unfold State.fieldWrite
  simp only [h1, hel]
  unfold State.writeReg
  simp only [hi, Bool.true_eq_false, h1, h2, hm, beq_self_eq_true, Bool.true_or, Bool.not_true, Bool.false_and, Bool.false_eq_true, if_false, h4,
    bne_self_eq_false, Bool.or_false, h5, h6]
  refine State.writeFields_held s who r _ al hok (fun g hg => ?_) hs
  have og := hok g (List.mem_of_mem_filter hg)
  rw [BitVec.ofNat_toNat, BitVec.setWidth_eq, fieldOf_insertField_ne _ _ _ _ _ _ hq.1 hq.2 og.1 ((ha g hg).symm)]
  apply Nat.eq_of_testBit_eq
  intro i
  rw [fieldOf_bit, fieldOf_bit]
  by_cases c : i < g.hi + 1 - g.lo
  · unfold State.heldWord
    rw [foldl_held_bit _ r.plain (fun q hq => hok q (List.mem_of_mem_filter hq))]
    have : r.plain.any (fun q => decide (q.lo ≤ g.lo + i) && decide (g.lo + i ≤ q.hi)) = true := by
      rw [List.any_eq_true]
      exact ⟨g, hg, by simp only [Bool.and_eq_true, decide_eq_true_eq]; omega⟩
    rw [this, if_pos rfl]
  · simp [c]

/-- A write of a whole register, each of whose plain fields has the value that it holds, by a machine-mode access. -/
theorem State.wordWrite_rest (s : State) (who : Who) (q : Fld) (v : Word) (r : RegRef)
    (hm : machineAccess who = true) (hi : s.initiates who = true) (h1 : findReg q.addr = some r) (h2 : findPage q.addr = some (r.kind, r.pn))
    (h4 : q.addr % 4 = 0) (h5 : r.off ≠ 0x008) (h6 : ¬ (r.kind = .ring ∧ (r.fam.off = 0x048 ∨ r.fam.off = 0x04C))) (hok : r.fieldsOk)
    (ha : ∀ g ∈ r.plain, fieldOf v g.hi g.lo = fieldOf (s.reg r.addr) g.hi g.lo) (hs : ∀ g ∈ r.plain, s.staging r g = false) :
    s.wordWrite who q v = s.writeRest (s.took r (s.reg r.addr)) who r v.toNat false false false [] := by
  unfold State.wordWrite State.writeReg
  simp only [hi, Bool.true_eq_false, h1, h2, hm, beq_self_eq_true, Bool.true_or, Bool.not_true, Bool.false_and, Bool.false_eq_true, if_false, h4,
    bne_self_eq_false, Bool.or_false, h5, h6]
  refine State.writeFields_held s who r _ false hok (fun g hg => ?_) hs
  rw [BitVec.ofNat_toNat, BitVec.setWidth_eq, ha g hg]

/-! ## A write of a register of write-only fields -/

theorem State.took_self (s : State) (hw : s.Wf) (r : RegRef) (h : r.plain = []) : s.took r (s.reg r.addr) = s := by
  unfold State.took
  rw [h, State.setReg_reg hw]
  exact State.clearFlips_nil _ _

/-- A write of a register without plain fields by a machine-mode access: its write-only fields act. -/
theorem State.wordWrite_accept (s : State) (who : Who) (q : Fld) (v : Word) (r : RegRef)
    (hm : machineAccess who = true) (hi : s.initiates who = true) (h1 : findReg q.addr = some r) (h2 : findPage q.addr = some (r.kind, r.pn))
    (h4 : q.addr % 4 = 0) (h5 : r.off ≠ 0x008) (h6 : ¬ (r.kind = .ring ∧ (r.fam.off = 0x048 ∨ r.fam.off = 0x04C))) (hp : r.plain = []) (hc : clearMask r.fam.fields = 0)
    (hk : r.fam.fields.filter (isAction r) = []) (ha : (s.act r v.toNat false).2 = false) (hw : s.Wf) :
    s.wordWrite who q v = s.after (s.act r v.toNat false).1 r v.toNat false := by
  have ht := s.took_self hw r hp
  have hok : ∀ i, (∀ g ∈ r.plain, ¬ g.covers i) → (s.reg r.addr).toNat.testBit i = (s.reg r.addr).toNat.testBit i := fun _ _ => rfl
  unfold State.wordWrite State.writeReg
  simp only [hi, Bool.true_eq_false, h1, h2, hm, beq_self_eq_true, Bool.true_or, Bool.not_true, Bool.false_and, Bool.false_eq_true, if_false, h4,
    bne_self_eq_false, Bool.or_false, h5, h6]
  have hj : s.judgeWrite r v.toNat = ([], [], false) := by
    have hp' : r.fam.fields.filter (isPlain r) = [] := hp
    unfold State.judgeWrite
    simp only [hp', List.map_nil, List.filter_nil, List.filterMap_nil, List.append_nil, List.isEmpty_nil, Bool.not_true]
  have hka : ∀ t : State, t.actKeyed r v.toNat = (t, false, []) := by
    intro t
    unfold State.actKeyed
    simp only [hk, List.map_nil, List.all_nil, if_true]
  unfold State.writeFields State.writeRest
  simp only [hj, hc, Nat.and_zero, Nat.zero_and, Nat.sub_self, if_true, List.filter_nil, List.foldl_nil, List.isEmpty_nil, List.any_nil,
    State.setReg_reg hw, State.clearFlips_nil, List.map_nil, hka, ha, Bool.false_eq_true, if_false, Bool.or_false, List.append_nil, minCause]

end Sys2Proof.Machine
end

