-- ==== Sys2Proof/Laws/Commands.lean ====
section
/-! SUPPORT. What the commands that write one register do when the access is a machine-mode access: the closed form of each. -/

set_option linter.unusedSimpArgs false

namespace Sys2Proof.Machine

open Sys2Proof

/-- A field of a register that stores what is written, in a register without clears and actions. -/
abbrev Stores (q : Fld) (r : RegRef) (f : FieldSpec) : Prop :=
  findReg q.addr = some r ∧ findPage q.addr = some (r.kind, r.pn) ∧ r.addr = q.addr ∧ q.addr % 4 = 0 ∧ r.off ≠ 0x008 ∧ ¬ (r.kind = .ring ∧ (r.fam.off = 0x048 ∨ r.fam.off = 0x04C)) ∧
    f ∈ r.fam.fields.filter (isPlain r) ∧ f.hi = q.hi ∧ f.lo = q.lo ∧ (∀ f ∈ r.fam.fields, f.lo ≤ f.hi ∧ f.hi ≤ 31) ∧
    (∀ f ∈ r.fam.fields.filter (isPlain r), ∀ g ∈ r.fam.fields.filter (isPlain r), f ≠ g → f.hi < g.lo ∨ g.hi < f.lo) ∧
    clearMask r.fam.fields = 0 ∧ r.fam.fields.filter (isAction r) = []

/-- The word of a read-modify-write. -/
def State.rmwWord (s : State) (r : RegRef) (q : Fld) (w : Nat) : Nat := (insertField (s.heldWord r) q.hi q.lo w).toNat

/-- A bit of the word of a read-modify-write that belongs neither to the field nor to a plain field is 0. -/
theorem State.rmwWord_bit (s : State) (r : RegRef) (q : Fld) (w i : Nat) (hq : q.lo ≤ q.hi ∧ q.hi ≤ 31) (hok : r.fieldsOk)
    (h : i < q.lo ∨ q.hi < i) (hp : r.plain.any (fun g => decide (g.lo ≤ i) && decide (i ≤ g.hi)) = false) :
    (s.rmwWord r q w).testBit i = false := by
  unfold State.rmwWord State.heldWord
  rw [insertField_bit _ _ _ _ _ hq.1 hq.2, if_neg (by omega),
    foldl_held_bit _ r.plain (fun q hq => hok q (List.mem_of_mem_filter hq)), hp]
  simp

theorem State.clearFlips_of {s : State} {r : RegRef} (fs : List FieldSpec)
    (h : r.kind.info.block ≠ PageKind.safe.info.block ∨ s.safe.flips = []) : s.clearFlips r fs = s := by
  unfold State.clearFlips
  rw [if_pos (h.imp_right fun e => Or.inl (by rw [e]; rfl))]
theorem State.took_of {s : State} {r : RegRef} (W : Word) (h : r.kind.info.block ≠ PageKind.safe.info.block ∨ s.safe.flips = []) :
    s.took r W = { s.setReg r.addr W with parFlip := if r.plain.isEmpty then s.parFlip else s.parFlip.filter (· != r.addr) } :=
  State.clearFlips_of _ h
/-- Clearing an upset changes nothing but the record of upsets. -/
theorem State.clearFlips_eq (s : State) (r : RegRef) (fs : List FieldSpec) :
    s.clearFlips r fs = { s with safe := { s.safe with flips := (s.clearFlips r fs).safe.flips } } := by
  unfold State.clearFlips
  split <;> rfl
@[simp] theorem State.clearFlips_regs (s : State) (r : RegRef) (fs : List FieldSpec) : (s.clearFlips r fs).regs = s.regs := by
  rw [State.clearFlips_eq]
@[simp] theorem State.clearFlips_time (s : State) (r : RegRef) (fs : List FieldSpec) : (s.clearFlips r fs).time = s.time := by
  rw [State.clearFlips_eq]

theorem State.fieldWrite_put {s : State} {who : Who} {q : Fld} {w : Nat} {r : RegRef} {f : FieldSpec} (hm : machineAccess who = true) (hi : s.initiates who = true)
    (hb : r.kind.info.block ≠ PageKind.safe.info.block ∨ s.safe.flips = []) (h : Stores q r f)
    (hj : s.judgeField r f (w % 2 ^ (f.hi + 1 - f.lo)) = (w % 2 ^ (f.hi + 1 - f.lo), none))
    (hn : w % 2 ^ (f.hi + 1 - f.lo) ≠ s.get q → s.refuses (s.put q w) r f (w % 2 ^ (f.hi + 1 - f.lo)) = false)
    (hs : ∀ g ∈ r.plain, s.staging r g = false)
    (ha : ((s.putCfg q w).act r (s.rmwWord r q w) false).2 = false) :
    s.fieldWrite who q w false =
      (let t := s.after ((s.putCfg q w).act r (s.rmwWord r q w) false).1 r (s.rmwWord r q w) false
       if f.acc == .rwk && w % 2 ^ (f.hi + 1 - f.lo) != s.get q then t.setKey (pageBase r.kind r.pn) none else t) := by
  obtain ⟨h1, h2, h3, h4, h5, h6, h7, h8, h9, h10, h11, h12, h13⟩ := h
  have ht : s.took r ((s.put q w).reg q.addr) = s.putCfg q w := by
    rw [State.took_of _ hb]
    unfold State.putCfg
    have : r.plain.isEmpty = false := by
      cases e : r.plain with
      | nil => exact absurd (e ▸ h7 : f ∈ []) (by simp)
      | cons a l => rfl
    rw [this, h3]
    unfold State.put
    rw [State.reg_setReg]
    rfl
  have := State.fieldWrite_accept s who q w false r f hm hi h1 h2 h3 h4 h5 h6 h7 ⟨h8, h9⟩ ⟨h10, h11, h12, h13⟩ hj hn hs
    (by rw [ht]; exact ha)
  rw [ht] at this
  exact this

/-- A field whose write stores nothing: a write-only field or an action. -/
abbrev Acts (q : Fld) (r : RegRef) : Prop :=
  findReg q.addr = some r ∧ findPage q.addr = some (r.kind, r.pn) ∧ r.addr = q.addr ∧ q.addr % 4 = 0 ∧ r.off ≠ 0x008 ∧ ¬ (r.kind = .ring ∧ (r.fam.off = 0x048 ∨ r.fam.off = 0x04C)) ∧
    (q.lo ≤ q.hi ∧ q.hi ≤ 31) ∧ (∀ f ∈ r.fam.fields, f.lo ≤ f.hi ∧ f.hi ≤ 31) ∧
    (∀ g ∈ r.fam.fields.filter (isPlain r), g.hi < q.lo ∨ q.hi < g.lo)

/-- A write that stores the words that a register holds sets its parity bit anew (R40). -/
def State.reparity (s : State) (r : RegRef) : State :=
  { s with parFlip := if r.plain.isEmpty then s.parFlip else s.parFlip.filter (· != r.addr) }.clearFlips r r.plain

theorem State.took_held {s : State} (hw : s.Wf) (r : RegRef) : s.took r (s.reg r.addr) = s.reparity r := by
  unfold State.took State.reparity
  rw [State.setReg_reg hw]

theorem State.fieldWrite_act {s : State} {who : Who} {q : Fld} {w : Nat} {r : RegRef} (hm : machineAccess who = true) (hi : s.initiates who = true) (hw : s.Wf)
    (h : Acts q r) (hs : ∀ g ∈ r.plain, s.staging r g = false) :
    s.fieldWrite who q w false = s.writeRest (s.reparity r) who r (s.rmwWord r q w) false false false [] := by
  obtain ⟨h1, h2, h3, h4, h5, h6, h7, h8, h9⟩ := h
  rw [State.fieldWrite_rest s who q w false r hm hi h1 h2 h3 h4 h5 h6 h8 h7 h9 hs, State.took_held hw]
  rfl

theorem State.wordWrite_act {s : State} {who : Who} {q : Fld} {v : Word} {r : RegRef} (hm : machineAccess who = true) (hi : s.initiates who = true) (hw : s.Wf)
    (h : Acts q r) (hp : r.plain = []) :
    s.wordWrite who q v = s.writeRest s who r v.toNat false false false [] := by
  obtain ⟨h1, h2, h3, h4, h5, h6, h7, h8, h9⟩ := h
  rw [State.wordWrite_rest s who q v r hm hi h1 h2 h4 h5 h6 h8 (by rw [hp]; simp) (by rw [hp]; simp), State.took_held hw]
  unfold State.reparity
  rw [hp, State.clearFlips_nil]
  rfl

/-- No clear hits and no action is asked: the write-only fields act, and the effects of changed fields follow. -/
theorem State.writeRest_act {s0 s : State} {who : Who} {r : RegRef} {v : Nat} {al : Bool}
    (hc : v &&& clearMask r.fam.fields &&& (s0.reg r.addr).toNat = 0) (hk : r.fam.fields.filter (isAction r) = []) :
    s0.writeRest s who r v al false false [] =
      if (s.act r v al).2 then (s0.after (s.act r v al).1 r v al).ignored who r.addr 7 else s0.after (s.act r v al).1 r v al := by
  have hka : ∀ t : State, t.actKeyed r v = (t, false, []) := by
    intro t
    unfold State.actKeyed
    simp only [hk, List.map_nil, List.all_nil, if_true]
  unfold State.writeRest
  simp only [hc, Nat.zero_and, Nat.sub_self, if_true, hka, Bool.false_eq_true, if_false, Bool.or_false, Bool.false_or, List.nil_append,
    List.append_nil]
  cases (s.act r v al).2 <;> rfl

/-- Every bit that the write clears is judged by a chapter. -/
theorem State.writeRest_clear {s0 s : State} {who : Who} {r : RegRef} {v : Nat} {al : Bool}
    (h0 : v &&& clearMask r.fam.fields &&& (s0.reg r.addr).toNat ≠ 0)
    (hc : v &&& clearMask r.fam.fields &&& (s0.reg r.addr).toNat &&& judgedBits r = v &&& clearMask r.fam.fields &&& (s0.reg r.addr).toNat)
    (hk : r.fam.fields.filter (isAction r) = [])
    (ha : ∀ t : State, t.act r v al = (t, false)) :
    s0.writeRest s who r v al false false [] =
      (let c := s.clearJudged r (v &&& clearMask r.fam.fields &&& (s0.reg r.addr).toNat)
       if c.2 then (s0.after c.1 r v al).ignored who r.addr 7 else s0.after c.1 r v al) := by
  have hka : ∀ t : State, t.actKeyed r v = (t, false, []) := by
    intro t
    unfold State.actKeyed
    simp only [hk, List.map_nil, List.all_nil, if_true]
  unfold State.writeRest
  simp only [hc, Nat.sub_self, if_true, if_neg h0, hka, ha, Bool.false_eq_true, if_false, Bool.or_false,
    List.nil_append, List.append_nil]
  cases (s.clearJudged r (v &&& clearMask r.fam.fields &&& (s0.reg r.addr).toNat)).2 <;> rfl

theorem State.whenAlive_of {s : State} (h : s.alive = true) (f : State → State) : s.whenAlive f = f s := by
  unfold State.whenAlive
  rw [if_pos h]

/-! ## The registers of the commands -/

def noReg : RegRef := ⟨.sys, 0, 0, ⟨0, [], []⟩, []⟩
/-- The register at an address. -/
def regAt (a : Nat) : RegRef := (findReg a).getD noReg
/-- Where a register stands. -/
abbrev RegAt (r : RegRef) (k : PageKind) (pn off foff m : Nat) : Prop :=
  r.kind = k ∧ r.pn = pn ∧ r.off = off ∧ r.fam.off = foff ∧ r.m = m

/-- A plain field without lock, range or tightening takes any value, unless sealed or key-protected. -/
theorem State.judgeField_rw {s : State} {r : RegRef} {f : FieldSpec} {w : Nat} (h : f.acc = .rw) (hr : inRange f w = true)
    (hl : s.lockHolds r f.lock = false) (hs : ¬ (r.kind = .sys ∧ r.off = 0x050)) : s.judgeField r f w = (w, none) := by
  unfold State.judgeField
  simp only [h, hr, hl, if_neg hs, Bool.not_false, Bool.and_self, if_true]
  split
  · rename_i e; rw [e]
  · rfl

theorem State.judgeField_rwk {s : State} {r : RegRef} {f : FieldSpec} {w : Nat} (h : f.acc = .rwk) (hr : inRange f w = true)
    (hl : s.lockHolds r f.lock = false) (hk : s.keyOpen (pageBase r.kind r.pn) = true) : s.judgeField r f w = (w, none) := by
  unfold State.judgeField
  simp only [h, hr, hl, hk, Bool.not_false, Bool.and_self, if_true]
  split
  · rename_i e; rw [e]
  · rfl

theorem State.staging_other {s : State} {r : RegRef} (h1 : r.kind ≠ .leg) (h2 : r.kind ≠ .auxt) (g : FieldSpec) : s.staging r g = false := by
  unfold State.staging latchedField
  split <;> simp_all


theorem State.rmwWord_nil (s : State) {r : RegRef} (hp : r.plain = []) (q : Fld) (w : Nat) :
    s.rmwWord r q w = (insertField 0 q.hi q.lo w).toNat := by
  unfold State.rmwWord State.heldWord
  rw [hp]
  rfl

theorem State.rmwWord_self (s : State) (r : RegRef) (q : Fld) (w i : Nat) (hq : q.lo ≤ q.hi ∧ q.hi ≤ 31) (h : q.lo ≤ i ∧ i ≤ q.hi) :
    (s.rmwWord r q w).testBit i = w.testBit (i - q.lo) := by
  unfold State.rmwWord
  rw [insertField_bit _ _ _ _ _ hq.1 hq.2, if_pos h]

theorem State.reparity_nil (s : State) {r : RegRef} (hp : r.plain = []) : s.reparity r = s := by
  unfold State.reparity
  rw [hp]
  exact State.clearFlips_nil _ _

theorem State.get_putCfg (s : State) (q : Fld) (w : Nat) (h : Fld.ok q) : (s.putCfg q w).get q = w % 2 ^ (q.hi + 1 - q.lo) :=
  State.get_put s q w h
theorem State.flag_putCfg (s : State) (q : Fld) (b : Bool) (h : Fld.ok q) : (s.putCfg q b.toNat).flag q = b := by
  unfold State.flag
  rw [State.get_putCfg s q _ h]
  have : 0 < q.hi + 1 - q.lo := by have := h.1; omega
  cases b
  · simp
  · have h1 : (1 : Nat) < 2 ^ (q.hi + 1 - q.lo) := Nat.one_lt_two_pow (by omega)
    simp [Nat.mod_eq_of_lt h1]
theorem State.get_putCfg_ne (s : State) {q g : Fld} (w : Nat) (hq : Fld.ok q) (hg : g.lo ≤ g.hi) (h : Fld.apart q g) :
    (s.putCfg q w).get g = s.get g := State.get_put_ne s w hq hg h
theorem State.flag_putCfg_ne (s : State) {q g : Fld} (w : Nat) (hq : Fld.ok q) (hg : g.lo ≤ g.hi) (h : Fld.apart q g) :
    (s.putCfg q w).flag g = s.flag g := by unfold State.flag; rw [State.get_putCfg_ne s w hq hg h]

theorem State.wordWrite_put {s : State} {who : Who} {q : Fld} {v : Word} {r : RegRef} {f : FieldSpec} (hm : machineAccess who = true) (hi : s.initiates who = true)
    (hb : r.kind.info.block ≠ PageKind.safe.info.block ∨ s.safe.flips = []) (h : Stores q r f) (hp : r.plain = [f]) (hj : s.judgeField r f (fieldOf v q.hi q.lo) = (fieldOf v q.hi q.lo, none))
    (hn : fieldOf v q.hi q.lo ≠ s.get q → s.refuses (s.put q (fieldOf v q.hi q.lo)) r f (fieldOf v q.hi q.lo) = false)
    (hs : s.staging r f = false)
    (ha : ∀ t : State, t.act r v.toNat false = (t, false)) (hk : f.acc ≠ .rwk) :
    s.wordWrite who q v = s.after (s.putCfg q (fieldOf v q.hi q.lo)) r v.toNat false := by
  obtain ⟨h1, h2, h3, h4, h5, h6, h7, h8, h9, h10, h11, h12, h13⟩ := h
  have of := h10 f (List.mem_of_mem_filter h7)
  have ht : s.took r ((s.put q (fieldOf v q.hi q.lo)).reg q.addr) = s.putCfg q (fieldOf v q.hi q.lo) := by
    rw [State.took_of _ hb]
    unfold State.putCfg State.put
    rw [hp, h3, State.reg_setReg]
    rfl
  have e1 : (s.put q (fieldOf v q.hi q.lo)).reg q.addr = insertField (s.reg r.addr) f.hi f.lo (fieldOf v q.hi q.lo) := by
    unfold State.put
    rw [State.reg_setReg, h3, h8, h9]
  have e2 : fieldOf (insertField (s.reg r.addr) f.hi f.lo (fieldOf v q.hi q.lo)) f.hi f.lo = fieldOf v q.hi q.lo := by
    rw [fieldOf_insertField _ _ _ _ of.1 of.2, h8, h9]
    exact Nat.mod_eq_of_lt (fieldOf_lt v q.hi q.lo)
  have e3 : s.get q = fieldOf (s.reg r.addr) f.hi f.lo := by unfold State.get; rw [h3, h8, h9]
  have e4 : s.put q (fieldOf v q.hi q.lo) = s.setReg r.addr (insertField (s.reg r.addr) f.hi f.lo (fieldOf v q.hi q.lo)) := by
    unfold State.put; rw [h3, h8, h9]
  rw [e3, e4] at hn
  unfold State.wordWrite State.writeReg
  simp only [hi, Bool.true_eq_false, h1, h2, hm, beq_self_eq_true, Bool.true_or, Bool.not_true, Bool.false_and, Bool.false_eq_true, if_false, h4,
    bne_self_eq_false, Bool.or_false, h5, h6]
  rw [State.writeFields_accept s who r v.toNat false (insertField (s.reg r.addr) f.hi f.lo (fieldOf v q.hi q.lo)) h10 ?_ ?_ ?_ ?_ ?_ ?_ ?_]
  · rw [← e1, ht, ha, hp]
    simp [hk]
  · intro g hg
    rw [hp, List.mem_singleton] at hg
    subst hg
    rw [BitVec.ofNat_toNat, BitVec.setWidth_eq, e2, h8, h9, hj]
  · intro i hi
    have hi := hi f (by rw [hp]; simp)
    unfold FieldSpec.covers at hi
    rw [insertField_bit _ _ _ _ _ of.1 of.2, if_neg hi]
  · intro g hg
    rw [hp, List.mem_singleton] at hg
    subst hg
    rw [e2]
    exact hn
  · intro g hg
    rw [hp, List.mem_singleton] at hg
    subst hg
    exact hs
  · rw [h12, Nat.and_zero, Nat.zero_and]
  · rw [h13]; rfl
  · rw [ha]

theorem State.writeReg_act {s : State} {who : Who} {q : Fld} {v : Nat} {al : Bool} {r : RegRef} (hm : machineAccess who = true) (hi : s.initiates who = true) (hw : s.Wf)
    (h : Acts q r) (hp : r.plain = []) :
    s.writeReg who q.addr 4 v al = s.writeRest s who r v al false false [] := by
  obtain ⟨h1, h2, h3, h4, h5, h6, h7, h8, h9⟩ := h
  unfold State.writeReg
  simp only [hi, Bool.true_eq_false, h1, h2, hm, beq_self_eq_true, Bool.true_or, Bool.not_true, Bool.false_and, Bool.false_eq_true, if_false, h4,
    bne_self_eq_false, Bool.or_false, h5, h6]
  rw [State.writeFields_held s who r _ al h8 (by rw [hp]; simp) (by rw [hp]; simp), State.took_held hw, State.reparity_nil s hp]

@[simp] theorem State.reparity_reg (s : State) (r : RegRef) (a : Nat) : (s.reparity r).reg a = s.reg a := by
  simp [State.reparity, State.reg]
@[simp] theorem State.reparity_get (s : State) (r : RegRef) (q : Fld) : (s.reparity r).get q = s.get q := by simp [State.get]
@[simp] theorem State.reparity_flag (s : State) (r : RegRef) (q : Fld) : (s.reparity r).flag q = s.flag q := by simp [State.flag]
@[simp] theorem State.reparity_testActive (s : State) (r : RegRef) : (s.reparity r).testActive = s.testActive := by
  simp [State.testActive, State.modStatus]
@[simp] theorem State.reparity_tlock (s : State) (r : RegRef) : (s.reparity r).tlock = s.tlock := by
  unfold State.reparity
  rw [State.clearFlips_eq]
  rfl
@[simp] theorem State.reparity_keyOpen (s : State) (r : RegRef) (b : Nat) : (s.reparity r).keyOpen b = s.keyOpen b := by
  unfold State.reparity
  rw [State.clearFlips_eq]
  rfl
@[simp] theorem State.reparity_time (s : State) (r : RegRef) : (s.reparity r).time = s.time := by simp [State.reparity]

theorem exec_modeRequestStandby {s : State} {who : Who}  (hm : machineAccess who = true) (hi : s.initiates who = true) (ha : s.alive = true) :
    exec (.modeRequestStandby who) s = .next ((s.putCfg R.SYS_MODE_REQ_TARGET mSTANDBY).modeRequest mSTANDBY) := by
  have hS : Stores (R.SYS_MODE_REQ_TARGET) (regAt (R.SYS_MODE_REQ_TARGET).addr) (fld 2 0 .rw 2) := by decide
  have hA : RegAt (regAt (R.SYS_MODE_REQ_TARGET).addr) .mode 0 0x40 0x40 0 := by decide
  generalize regAt _ = r at hS hA
  obtain ⟨k1, k2, k3, k4, k5⟩ := hA
  have k6 : r.addr = (R.SYS_MODE_REQ_TARGET).addr := hS.2.2.1
  show Host.Outcome.next (s.whenAlive _) = _
  rw [State.whenAlive_of ha, State.fieldWrite_put hm hi (Or.inl (by rw [k1]; decide)) hS (State.judgeField_rw rfl (rfl) (rfl) (by rw [k1]; simp)) (fun _ => by unfold State.refuses; simp only [show ¬ r.off < 64 by omega, if_false, k1, k6, fld]; unfold State.refusesMode; rw [if_neg (by decide), if_neg (by decide)]) (fun _ _ => State.staging_other (by rw [k1]; decide) (by rw [k1]; decide) _) (by unfold State.act; simp [k1, k2, k3, k4, k5])]
  unfold State.act State.after
  have : (s.putCfg R.SYS_MODE_REQ_TARGET mSTANDBY).get R.SYS_MODE_REQ_TARGET = mSTANDBY := State.get_put s _ _ ⟨by decide, by decide⟩
  simp [k1, k3, this, fld]

theorem exec_modeRequestFollow {s : State} {who : Who}  (hm : machineAccess who = true) (hi : s.initiates who = true) (ha : s.alive = true) :
    exec (.modeRequestFollow who) s = .next ((s.putCfg R.SYS_MODE_REQ_TARGET mFOLLOW).modeRequest mFOLLOW) := by
  have hS : Stores (R.SYS_MODE_REQ_TARGET) (regAt (R.SYS_MODE_REQ_TARGET).addr) (fld 2 0 .rw 2) := by decide
  have hA : RegAt (regAt (R.SYS_MODE_REQ_TARGET).addr) .mode 0 0x40 0x40 0 := by decide
  generalize regAt _ = r at hS hA
  obtain ⟨k1, k2, k3, k4, k5⟩ := hA
  have k6 : r.addr = (R.SYS_MODE_REQ_TARGET).addr := hS.2.2.1
  show Host.Outcome.next (s.whenAlive _) = _
  rw [State.whenAlive_of ha, State.fieldWrite_put hm hi (Or.inl (by rw [k1]; decide)) hS (State.judgeField_rw rfl (rfl) (rfl) (by rw [k1]; simp)) (fun _ => by unfold State.refuses; simp only [show ¬ r.off < 64 by omega, if_false, k1, k6, fld]; unfold State.refusesMode; rw [if_neg (by decide), if_neg (by decide)]) (fun _ _ => State.staging_other (by rw [k1]; decide) (by rw [k1]; decide) _) (by unfold State.act; simp [k1, k2, k3, k4, k5])]
  unfold State.act State.after
  have : (s.putCfg R.SYS_MODE_REQ_TARGET mFOLLOW).get R.SYS_MODE_REQ_TARGET = mFOLLOW := State.get_put s _ _ ⟨by decide, by decide⟩
  simp [k1, k3, this, fld]

theorem exec_modeRequestForm {s : State} {who : Who}  (hm : machineAccess who = true) (hi : s.initiates who = true) (ha : s.alive = true) :
    exec (.modeRequestForm who) s = .next ((s.putCfg R.SYS_MODE_REQ_TARGET mFORM).modeRequest mFORM) := by
  have hS : Stores (R.SYS_MODE_REQ_TARGET) (regAt (R.SYS_MODE_REQ_TARGET).addr) (fld 2 0 .rw 2) := by decide
  have hA : RegAt (regAt (R.SYS_MODE_REQ_TARGET).addr) .mode 0 0x40 0x40 0 := by decide
  generalize regAt _ = r at hS hA
  obtain ⟨k1, k2, k3, k4, k5⟩ := hA
  have k6 : r.addr = (R.SYS_MODE_REQ_TARGET).addr := hS.2.2.1
  show Host.Outcome.next (s.whenAlive _) = _
  rw [State.whenAlive_of ha, State.fieldWrite_put hm hi (Or.inl (by rw [k1]; decide)) hS (State.judgeField_rw rfl (rfl) (rfl) (by rw [k1]; simp)) (fun _ => by unfold State.refuses; simp only [show ¬ r.off < 64 by omega, if_false, k1, k6, fld]; unfold State.refusesMode; rw [if_neg (by decide), if_neg (by decide)]) (fun _ _ => State.staging_other (by rw [k1]; decide) (by rw [k1]; decide) _) (by unfold State.act; simp [k1, k2, k3, k4, k5])]
  unfold State.act State.after
  have : (s.putCfg R.SYS_MODE_REQ_TARGET mFORM).get R.SYS_MODE_REQ_TARGET = mFORM := State.get_put s _ _ ⟨by decide, by decide⟩
  simp [k1, k3, this, fld]

theorem exec_modeRequestHalt {s : State} {who : Who}  (hm : machineAccess who = true) (hi : s.initiates who = true) (ha : s.alive = true) :
    exec (.modeRequestHalt who) s = .next ((s.putCfg R.SYS_MODE_REQ_TARGET mHALT).modeRequest mHALT) := by
  have hS : Stores (R.SYS_MODE_REQ_TARGET) (regAt (R.SYS_MODE_REQ_TARGET).addr) (fld 2 0 .rw 2) := by decide
  have hA : RegAt (regAt (R.SYS_MODE_REQ_TARGET).addr) .mode 0 0x40 0x40 0 := by decide
  generalize regAt _ = r at hS hA
  obtain ⟨k1, k2, k3, k4, k5⟩ := hA
  have k6 : r.addr = (R.SYS_MODE_REQ_TARGET).addr := hS.2.2.1
  show Host.Outcome.next (s.whenAlive _) = _
  rw [State.whenAlive_of ha, State.fieldWrite_put hm hi (Or.inl (by rw [k1]; decide)) hS (State.judgeField_rw rfl (rfl) (rfl) (by rw [k1]; simp)) (fun _ => by unfold State.refuses; simp only [show ¬ r.off < 64 by omega, if_false, k1, k6, fld]; unfold State.refusesMode; rw [if_neg (by decide), if_neg (by decide)]) (fun _ _ => State.staging_other (by rw [k1]; decide) (by rw [k1]; decide) _) (by unfold State.act; simp [k1, k2, k3, k4, k5])]
  unfold State.act State.after
  have : (s.putCfg R.SYS_MODE_REQ_TARGET mHALT).get R.SYS_MODE_REQ_TARGET = mHALT := State.get_put s _ _ ⟨by decide, by decide⟩
  simp [k1, k3, this, fld]

theorem exec_modeRequestInvalid {s : State} {who : Who} {target : Fin 8} (hm : machineAccess who = true) (hi : s.initiates who = true) (ha : s.alive = true) :
    exec (.modeRequestInvalid who target) s = .next ((s.putCfg R.SYS_MODE_REQ_TARGET target).modeRequest target) := by
  have hS : Stores (R.SYS_MODE_REQ_TARGET) (regAt (R.SYS_MODE_REQ_TARGET).addr) (fld 2 0 .rw 2) := by decide
  have hA : RegAt (regAt (R.SYS_MODE_REQ_TARGET).addr) .mode 0 0x40 0x40 0 := by decide
  generalize regAt _ = r at hS hA
  obtain ⟨k1, k2, k3, k4, k5⟩ := hA
  have k6 : r.addr = (R.SYS_MODE_REQ_TARGET).addr := hS.2.2.1
  show Host.Outcome.next (s.whenAlive _) = _
  rw [State.whenAlive_of ha, State.fieldWrite_put hm hi (Or.inl (by rw [k1]; decide)) hS (State.judgeField_rw rfl (rfl) (rfl) (by rw [k1]; simp)) (fun _ => by unfold State.refuses; simp only [show ¬ r.off < 64 by omega, if_false, k1, k6, fld]; unfold State.refusesMode; rw [if_neg (by decide), if_neg (by decide)]) (fun _ _ => State.staging_other (by rw [k1]; decide) (by rw [k1]; decide) _) (by unfold State.act; simp [k1, k2, k3, k4, k5])]
  unfold State.act State.after
  have e : target.val % 2 ^ (R.SYS_MODE_REQ_TARGET.hi + 1 - R.SYS_MODE_REQ_TARGET.lo) = target.val := Nat.mod_eq_of_lt target.isLt
  have : (s.putCfg R.SYS_MODE_REQ_TARGET target).get R.SYS_MODE_REQ_TARGET = target :=
    (State.get_put s _ _ ⟨by decide, by decide⟩).trans e
  simp [k1, k3, this, fld]

theorem exec_curtail {s : State} {who : Who} {on : Bool} (hm : machineAccess who = true) (hi : s.initiates who = true) (ha : s.alive = true) :
    exec (.curtail who on) s = .next ((s.putCfg R.SYS_MODE_MOD_CURTAIL on.toNat).modWritten 15) := by
  have hS : Stores (R.SYS_MODE_MOD_CURTAIL) (regAt (R.SYS_MODE_MOD_CURTAIL).addr) (fld 0 0 .rw 0) := by decide
  have hA : RegAt (regAt (R.SYS_MODE_MOD_CURTAIL).addr) .mode 0 0x44 0x44 0 := by decide
  generalize regAt _ = r at hS hA
  obtain ⟨k1, k2, k3, k4, k5⟩ := hA
  have k6 : r.addr = (R.SYS_MODE_MOD_CURTAIL).addr := hS.2.2.1
  show Host.Outcome.next (s.whenAlive _) = _
  rw [State.whenAlive_of ha, State.fieldWrite_put hm hi (Or.inl (by rw [k1]; decide)) hS (State.judgeField_rw rfl (rfl) (rfl) (by rw [k1]; simp)) (fun _ => by unfold State.refuses; simp only [show ¬ r.off < 64 by omega, if_false, k1, k6, fld]; unfold State.refusesMode; rw [if_neg (by decide), if_neg (by decide)]) (fun _ _ => State.staging_other (by rw [k1]; decide) (by rw [k1]; decide) _) (by unfold State.act; simp [k1, k2, k3, k4, k5])]
  unfold State.act State.after
  simp [k1, k3, fld]

theorem exec_nightvar {s : State} {who : Who} {on : Bool} (hm : machineAccess who = true) (hi : s.initiates who = true) (ha : s.alive = true) :
    exec (.nightvar who on) s = .next ((s.putCfg R.SYS_MODE_MOD_NIGHTVAR on.toNat).modWritten 15) := by
  have hS : Stores (R.SYS_MODE_MOD_NIGHTVAR) (regAt (R.SYS_MODE_MOD_NIGHTVAR).addr) (fld 1 1 .rw 0) := by decide
  have hA : RegAt (regAt (R.SYS_MODE_MOD_NIGHTVAR).addr) .mode 0 0x44 0x44 0 := by decide
  generalize regAt _ = r at hS hA
  obtain ⟨k1, k2, k3, k4, k5⟩ := hA
  have k6 : r.addr = (R.SYS_MODE_MOD_NIGHTVAR).addr := hS.2.2.1
  show Host.Outcome.next (s.whenAlive _) = _
  rw [State.whenAlive_of ha, State.fieldWrite_put hm hi (Or.inl (by rw [k1]; decide)) hS (State.judgeField_rw rfl (rfl) (rfl) (by rw [k1]; simp)) (fun _ => by unfold State.refuses; simp only [show ¬ r.off < 64 by omega, if_false, k1, k6, fld]; unfold State.refusesMode; rw [if_neg (by decide), if_neg (by decide)]) (fun _ _ => State.staging_other (by rw [k1]; decide) (by rw [k1]; decide) _) (by unfold State.act; simp [k1, k2, k3, k4, k5])]
  unfold State.act State.after
  simp [k1, k3, fld]

theorem exec_test {s : State} {who : Who} {on : Bool} (hm : machineAccess who = true) (hi : s.initiates who = true) (ha : s.alive = true) :
    exec (.test who on) s = .next ((s.putCfg R.SYS_MODE_MOD_TEST on.toNat).modWritten 15) := by
  have hS : Stores (R.SYS_MODE_MOD_TEST) (regAt (R.SYS_MODE_MOD_TEST).addr) (fld 2 2 .rw 0) := by decide
  have hA : RegAt (regAt (R.SYS_MODE_MOD_TEST).addr) .mode 0 0x44 0x44 0 := by decide
  generalize regAt _ = r at hS hA
  obtain ⟨k1, k2, k3, k4, k5⟩ := hA
  have k6 : r.addr = (R.SYS_MODE_MOD_TEST).addr := hS.2.2.1
  show Host.Outcome.next (s.whenAlive _) = _
  rw [State.whenAlive_of ha, State.fieldWrite_put hm hi (Or.inl (by rw [k1]; decide)) hS (State.judgeField_rw rfl (rfl) (rfl) (by rw [k1]; simp)) (fun _ => by unfold State.refuses; simp only [show ¬ r.off < 64 by omega, if_false, k1, k6, fld]; unfold State.refusesMode; rw [if_neg (by decide), if_neg (by decide)]) (fun _ _ => State.staging_other (by rw [k1]; decide) (by rw [k1]; decide) _) (by unfold State.act; simp [k1, k2, k3, k4, k5])]
  unfold State.act State.after
  simp [k1, k3, fld]

theorem exec_legacy {s : State} {who : Who} {on : Bool} (hm : machineAccess who = true) (hi : s.initiates who = true) (ha : s.alive = true) :
    exec (.legacy who on) s = .next ((s.putCfg R.SYS_MODE_MOD_LEGACY on.toNat).modWritten 15) := by
  have hS : Stores (R.SYS_MODE_MOD_LEGACY) (regAt (R.SYS_MODE_MOD_LEGACY).addr) (fld 3 3 .rw 0) := by decide
  have hA : RegAt (regAt (R.SYS_MODE_MOD_LEGACY).addr) .mode 0 0x44 0x44 0 := by decide
  generalize regAt _ = r at hS hA
  obtain ⟨k1, k2, k3, k4, k5⟩ := hA
  have k6 : r.addr = (R.SYS_MODE_MOD_LEGACY).addr := hS.2.2.1
  show Host.Outcome.next (s.whenAlive _) = _
  rw [State.whenAlive_of ha, State.fieldWrite_put hm hi (Or.inl (by rw [k1]; decide)) hS (State.judgeField_rw rfl (rfl) (rfl) (by rw [k1]; simp)) (fun _ => by unfold State.refuses; simp only [show ¬ r.off < 64 by omega, if_false, k1, k6, fld]; unfold State.refusesMode; rw [if_neg (by decide), if_neg (by decide)]) (fun _ _ => State.staging_other (by rw [k1]; decide) (by rw [k1]; decide) _) (by unfold State.act; simp [k1, k2, k3, k4, k5])]
  unfold State.act State.after
  simp [k1, k3, fld]

theorem exec_profileRequest {s : State} {who : Who} {fine : Bool} (hm : machineAccess who = true) (hi : s.initiates who = true) (ha : s.alive = true)
    (hr : s.refusesMode (s.put R.SYS_TICK_CFG_PROFILE fine.toNat) R.SYS_TICK_CFG_PROFILE fine.toNat = false) :
    exec (.profileRequest who fine) s = .next (s.putCfg R.SYS_TICK_CFG_PROFILE fine.toNat) := by
  have hS : Stores (R.SYS_TICK_CFG_PROFILE) (regAt (R.SYS_TICK_CFG_PROFILE).addr) (fld 0 0 .rw 0) := by decide
  have hA : RegAt (regAt (R.SYS_TICK_CFG_PROFILE).addr) .mode 0 0x50 0x50 0 := by decide
  generalize regAt _ = r at hS hA
  obtain ⟨k1, k2, k3, k4, k5⟩ := hA
  have k6 : r.addr = (R.SYS_TICK_CFG_PROFILE).addr := hS.2.2.1
  show Host.Outcome.next (s.whenAlive _) = _
  rw [State.whenAlive_of ha, State.fieldWrite_put hm hi (Or.inl (by rw [k1]; decide)) hS (State.judgeField_rw rfl (rfl) (rfl) (by rw [k1]; simp)) (fun _ => by unfold State.refuses; simp only [show ¬ r.off < 64 by omega, if_false, k1, k6, fld]; cases fine <;> exact hr) (fun _ _ => State.staging_other (by rw [k1]; decide) (by rw [k1]; decide) _) (by unfold State.act; simp [k1, k2, k3, k4, k5])]
  unfold State.act State.after
  simp [k1, k3, fld]

theorem exec_linkEnable {s : State} {who : Who} {port : Fin 8} {en : Bool} (hm : machineAccess who = true) (hi : s.initiates who = true) (ha : s.alive = true) :
    exec (.linkEnable who port en) s = .next ((s.putCfg (R.LINK_CTL_EN port) en.toNat).linkCtl port (s.flag (R.LINK_CTL_EN port)) (s.get (R.LINK_CTL_LOOP port)) false) := by
  have hS : Stores (R.LINK_CTL_EN port) (regAt (R.LINK_CTL_EN port).addr) (fld 0 0 .rw 0) := (by decide : ∀ x : Fin 8, Stores (R.LINK_CTL_EN x) (regAt (R.LINK_CTL_EN x).addr) (fld 0 0 .rw 0)) port
  have hA : RegAt (regAt (R.LINK_CTL_EN port).addr) .link port 0x40 0x40 0 := (by decide : ∀ x : Fin 8, RegAt (regAt (R.LINK_CTL_EN x).addr) .link x 0x40 0x40 0) port
  have b3 : ((regAt (R.LINK_CTL_EN port).addr)).plain.any (fun g => decide (g.lo ≤ 3) && decide (3 ≤ g.hi)) = false := (by decide : ∀ x : Fin 8, ((regAt (R.LINK_CTL_EN x).addr)).plain.any (fun g => decide (g.lo ≤ 3) && decide (3 ≤ g.hi)) = false) port
  generalize regAt _ = r at hS hA b3
  obtain ⟨k1, k2, k3, k4, k5⟩ := hA
  have k6 : r.addr = (R.LINK_CTL_EN port).addr := hS.2.2.1
  have hb : (s.rmwWord r (R.LINK_CTL_EN port) (en.toNat)).testBit 3 = false :=
    s.rmwWord_bit r _ _ _ ⟨by simp [R.LINK_CTL_EN, R.LINK_CTL_LOOP], by simp [R.LINK_CTL_EN, R.LINK_CTL_LOOP]⟩ hS.2.2.2.2.2.2.2.2.2.1 (by simp [R.LINK_CTL_EN, R.LINK_CTL_LOOP]) b3
  show Host.Outcome.next (s.whenAlive _) = _
  rw [State.whenAlive_of ha, State.fieldWrite_put hm hi (Or.inl (by rw [k1]; decide)) hS (State.judgeField_rw rfl (rfl) (rfl) (by rw [k1]; simp)) (fun _ => by unfold State.refuses; simp only [show ¬ r.off < 64 by omega, if_false, k1, k2, k6, fld]; rw [if_neg (by simp [R.LINK_CTL_LOOP])]) (fun _ _ => State.staging_other (by rw [k1]; decide) (by rw [k1]; decide) _) (by unfold State.act; simp [k1, k2, k3, k4, k5])]
  unfold State.act State.after
  simp [k1, k2, k3, k4, k5, fld, hb]

theorem exec_loopNearSerial {s : State} {who : Who} {port : Fin 8} (hm : machineAccess who = true) (hi : s.initiates who = true) (ha : s.alive = true)
    (hl : s.loopAllowed port 1 = true) :
    exec (.loopNearSerial who port) s = .next ((s.putCfg (R.LINK_CTL_LOOP port) 1).linkCtl port (s.flag (R.LINK_CTL_EN port)) (s.get (R.LINK_CTL_LOOP port)) false) := by
  have hS : Stores (R.LINK_CTL_LOOP port) (regAt (R.LINK_CTL_LOOP port).addr) ((fld 18 16 .rw 0).within 0 4) := (by decide : ∀ x : Fin 8, Stores (R.LINK_CTL_LOOP x) (regAt (R.LINK_CTL_LOOP x).addr) ((fld 18 16 .rw 0).within 0 4)) port
  have hA : RegAt (regAt (R.LINK_CTL_LOOP port).addr) .link port 0x40 0x40 0 := (by decide : ∀ x : Fin 8, RegAt (regAt (R.LINK_CTL_LOOP x).addr) .link x 0x40 0x40 0) port
  have b3 : ((regAt (R.LINK_CTL_LOOP port).addr)).plain.any (fun g => decide (g.lo ≤ 3) && decide (3 ≤ g.hi)) = false := (by decide : ∀ x : Fin 8, ((regAt (R.LINK_CTL_LOOP x).addr)).plain.any (fun g => decide (g.lo ≤ 3) && decide (3 ≤ g.hi)) = false) port
  generalize regAt _ = r at hS hA b3
  obtain ⟨k1, k2, k3, k4, k5⟩ := hA
  have k6 : r.addr = (R.LINK_CTL_LOOP port).addr := hS.2.2.1
  have hb : (s.rmwWord r (R.LINK_CTL_LOOP port) (1)).testBit 3 = false :=
    s.rmwWord_bit r _ _ _ ⟨by simp [R.LINK_CTL_EN, R.LINK_CTL_LOOP], by simp [R.LINK_CTL_EN, R.LINK_CTL_LOOP]⟩ hS.2.2.2.2.2.2.2.2.2.1 (by simp [R.LINK_CTL_EN, R.LINK_CTL_LOOP]) b3
  show Host.Outcome.next (s.whenAlive _) = _
  rw [State.whenAlive_of ha, State.fieldWrite_put hm hi (Or.inl (by rw [k1]; decide)) hS (State.judgeField_rw rfl (rfl) (rfl) (by rw [k1]; simp)) (fun _ => by unfold State.refuses; simp only [show ¬ r.off < 64 by omega, if_false, k1, k2, k6, fld, FieldSpec.within]; rw [if_pos (by simp [R.LINK_CTL_LOOP])]; simp [hl]) (fun _ _ => State.staging_other (by rw [k1]; decide) (by rw [k1]; decide) _) (by unfold State.act; simp [k1, k2, k3, k4, k5])]
  unfold State.act State.after
  simp [k1, k2, k3, k4, k5, fld, hb, FieldSpec.within]

theorem exec_loopNearParallel {s : State} {who : Who} {port : Fin 8} (hm : machineAccess who = true) (hi : s.initiates who = true) (ha : s.alive = true)
    (hl : s.loopAllowed port 2 = true) :
    exec (.loopNearParallel who port) s = .next ((s.putCfg (R.LINK_CTL_LOOP port) 2).linkCtl port (s.flag (R.LINK_CTL_EN port)) (s.get (R.LINK_CTL_LOOP port)) false) := by
  have hS : Stores (R.LINK_CTL_LOOP port) (regAt (R.LINK_CTL_LOOP port).addr) ((fld 18 16 .rw 0).within 0 4) := (by decide : ∀ x : Fin 8, Stores (R.LINK_CTL_LOOP x) (regAt (R.LINK_CTL_LOOP x).addr) ((fld 18 16 .rw 0).within 0 4)) port
  have hA : RegAt (regAt (R.LINK_CTL_LOOP port).addr) .link port 0x40 0x40 0 := (by decide : ∀ x : Fin 8, RegAt (regAt (R.LINK_CTL_LOOP x).addr) .link x 0x40 0x40 0) port
  have b3 : ((regAt (R.LINK_CTL_LOOP port).addr)).plain.any (fun g => decide (g.lo ≤ 3) && decide (3 ≤ g.hi)) = false := (by decide : ∀ x : Fin 8, ((regAt (R.LINK_CTL_LOOP x).addr)).plain.any (fun g => decide (g.lo ≤ 3) && decide (3 ≤ g.hi)) = false) port
  generalize regAt _ = r at hS hA b3
  obtain ⟨k1, k2, k3, k4, k5⟩ := hA
  have k6 : r.addr = (R.LINK_CTL_LOOP port).addr := hS.2.2.1
  have hb : (s.rmwWord r (R.LINK_CTL_LOOP port) (2)).testBit 3 = false :=
    s.rmwWord_bit r _ _ _ ⟨by simp [R.LINK_CTL_EN, R.LINK_CTL_LOOP], by simp [R.LINK_CTL_EN, R.LINK_CTL_LOOP]⟩ hS.2.2.2.2.2.2.2.2.2.1 (by simp [R.LINK_CTL_EN, R.LINK_CTL_LOOP]) b3
  show Host.Outcome.next (s.whenAlive _) = _
  rw [State.whenAlive_of ha, State.fieldWrite_put hm hi (Or.inl (by rw [k1]; decide)) hS (State.judgeField_rw rfl (rfl) (rfl) (by rw [k1]; simp)) (fun _ => by unfold State.refuses; simp only [show ¬ r.off < 64 by omega, if_false, k1, k2, k6, fld, FieldSpec.within]; rw [if_pos (by simp [R.LINK_CTL_LOOP])]; simp [hl]) (fun _ _ => State.staging_other (by rw [k1]; decide) (by rw [k1]; decide) _) (by unfold State.act; simp [k1, k2, k3, k4, k5])]
  unfold State.act State.after
  simp [k1, k2, k3, k4, k5, fld, hb, FieldSpec.within]

theorem exec_loopFarEnd {s : State} {who : Who} {port : Fin 8} (hm : machineAccess who = true) (hi : s.initiates who = true) (ha : s.alive = true)
    (hl : s.loopAllowed port 3 = true) :
    exec (.loopFarEnd who port) s = .next ((s.putCfg (R.LINK_CTL_LOOP port) 3).linkCtl port (s.flag (R.LINK_CTL_EN port)) (s.get (R.LINK_CTL_LOOP port)) false) := by
  have hS : Stores (R.LINK_CTL_LOOP port) (regAt (R.LINK_CTL_LOOP port).addr) ((fld 18 16 .rw 0).within 0 4) := (by decide : ∀ x : Fin 8, Stores (R.LINK_CTL_LOOP x) (regAt (R.LINK_CTL_LOOP x).addr) ((fld 18 16 .rw 0).within 0 4)) port
  have hA : RegAt (regAt (R.LINK_CTL_LOOP port).addr) .link port 0x40 0x40 0 := (by decide : ∀ x : Fin 8, RegAt (regAt (R.LINK_CTL_LOOP x).addr) .link x 0x40 0x40 0) port
  have b3 : ((regAt (R.LINK_CTL_LOOP port).addr)).plain.any (fun g => decide (g.lo ≤ 3) && decide (3 ≤ g.hi)) = false := (by decide : ∀ x : Fin 8, ((regAt (R.LINK_CTL_LOOP x).addr)).plain.any (fun g => decide (g.lo ≤ 3) && decide (3 ≤ g.hi)) = false) port
  generalize regAt _ = r at hS hA b3
  obtain ⟨k1, k2, k3, k4, k5⟩ := hA
  have k6 : r.addr = (R.LINK_CTL_LOOP port).addr := hS.2.2.1
  have hb : (s.rmwWord r (R.LINK_CTL_LOOP port) (3)).testBit 3 = false :=
    s.rmwWord_bit r _ _ _ ⟨by simp [R.LINK_CTL_EN, R.LINK_CTL_LOOP], by simp [R.LINK_CTL_EN, R.LINK_CTL_LOOP]⟩ hS.2.2.2.2.2.2.2.2.2.1 (by simp [R.LINK_CTL_EN, R.LINK_CTL_LOOP]) b3
  show Host.Outcome.next (s.whenAlive _) = _
  rw [State.whenAlive_of ha, State.fieldWrite_put hm hi (Or.inl (by rw [k1]; decide)) hS (State.judgeField_rw rfl (rfl) (rfl) (by rw [k1]; simp)) (fun _ => by unfold State.refuses; simp only [show ¬ r.off < 64 by omega, if_false, k1, k2, k6, fld, FieldSpec.within]; rw [if_pos (by simp [R.LINK_CTL_LOOP])]; simp [hl]) (fun _ _ => State.staging_other (by rw [k1]; decide) (by rw [k1]; decide) _) (by unfold State.act; simp [k1, k2, k3, k4, k5])]
  unfold State.act State.after
  simp [k1, k2, k3, k4, k5, fld, hb, FieldSpec.within]

theorem exec_prbs31Test {s : State} {who : Who} {port : Fin 8} (hm : machineAccess who = true) (hi : s.initiates who = true) (ha : s.alive = true)
    (hl : s.loopAllowed port 4 = true) :
    exec (.prbs31Test who port) s = .next ((s.putCfg (R.LINK_CTL_LOOP port) 4).linkCtl port (s.flag (R.LINK_CTL_EN port)) (s.get (R.LINK_CTL_LOOP port)) false) := by
  have hS : Stores (R.LINK_CTL_LOOP port) (regAt (R.LINK_CTL_LOOP port).addr) ((fld 18 16 .rw 0).within 0 4) := (by decide : ∀ x : Fin 8, Stores (R.LINK_CTL_LOOP x) (regAt (R.LINK_CTL_LOOP x).addr) ((fld 18 16 .rw 0).within 0 4)) port
  have hA : RegAt (regAt (R.LINK_CTL_LOOP port).addr) .link port 0x40 0x40 0 := (by decide : ∀ x : Fin 8, RegAt (regAt (R.LINK_CTL_LOOP x).addr) .link x 0x40 0x40 0) port
  have b3 : ((regAt (R.LINK_CTL_LOOP port).addr)).plain.any (fun g => decide (g.lo ≤ 3) && decide (3 ≤ g.hi)) = false := (by decide : ∀ x : Fin 8, ((regAt (R.LINK_CTL_LOOP x).addr)).plain.any (fun g => decide (g.lo ≤ 3) && decide (3 ≤ g.hi)) = false) port
  generalize regAt _ = r at hS hA b3
  obtain ⟨k1, k2, k3, k4, k5⟩ := hA
  have k6 : r.addr = (R.LINK_CTL_LOOP port).addr := hS.2.2.1
  have hb : (s.rmwWord r (R.LINK_CTL_LOOP port) (4)).testBit 3 = false :=
    s.rmwWord_bit r _ _ _ ⟨by simp [R.LINK_CTL_EN, R.LINK_CTL_LOOP], by simp [R.LINK_CTL_EN, R.LINK_CTL_LOOP]⟩ hS.2.2.2.2.2.2.2.2.2.1 (by simp [R.LINK_CTL_EN, R.LINK_CTL_LOOP]) b3
  show Host.Outcome.next (s.whenAlive _) = _
  rw [State.whenAlive_of ha, State.fieldWrite_put hm hi (Or.inl (by rw [k1]; decide)) hS (State.judgeField_rw rfl (rfl) (rfl) (by rw [k1]; simp)) (fun _ => by unfold State.refuses; simp only [show ¬ r.off < 64 by omega, if_false, k1, k2, k6, fld, FieldSpec.within]; rw [if_pos (by simp [R.LINK_CTL_LOOP])]; simp [hl]) (fun _ _ => State.staging_other (by rw [k1]; decide) (by rw [k1]; decide) _) (by unfold State.act; simp [k1, k2, k3, k4, k5])]
  unfold State.act State.after
  simp [k1, k2, k3, k4, k5, fld, hb, FieldSpec.within]

theorem exec_loopEnd {s : State} {who : Who} {port : Fin 8} (hm : machineAccess who = true) (hi : s.initiates who = true) (ha : s.alive = true) :
    exec (.loopEnd who port) s = .next ((s.putCfg (R.LINK_CTL_LOOP port) 0).linkCtl port (s.flag (R.LINK_CTL_EN port)) (s.get (R.LINK_CTL_LOOP port)) false) := by
  have hS : Stores (R.LINK_CTL_LOOP port) (regAt (R.LINK_CTL_LOOP port).addr) ((fld 18 16 .rw 0).within 0 4) := (by decide : ∀ x : Fin 8, Stores (R.LINK_CTL_LOOP x) (regAt (R.LINK_CTL_LOOP x).addr) ((fld 18 16 .rw 0).within 0 4)) port
  have hA : RegAt (regAt (R.LINK_CTL_LOOP port).addr) .link port 0x40 0x40 0 := (by decide : ∀ x : Fin 8, RegAt (regAt (R.LINK_CTL_LOOP x).addr) .link x 0x40 0x40 0) port
  have b3 : ((regAt (R.LINK_CTL_LOOP port).addr)).plain.any (fun g => decide (g.lo ≤ 3) && decide (3 ≤ g.hi)) = false := (by decide : ∀ x : Fin 8, ((regAt (R.LINK_CTL_LOOP x).addr)).plain.any (fun g => decide (g.lo ≤ 3) && decide (3 ≤ g.hi)) = false) port
  generalize regAt _ = r at hS hA b3
  obtain ⟨k1, k2, k3, k4, k5⟩ := hA
  have k6 : r.addr = (R.LINK_CTL_LOOP port).addr := hS.2.2.1
  have hb : (s.rmwWord r (R.LINK_CTL_LOOP port) (0)).testBit 3 = false :=
    s.rmwWord_bit r _ _ _ ⟨by simp [R.LINK_CTL_EN, R.LINK_CTL_LOOP], by simp [R.LINK_CTL_EN, R.LINK_CTL_LOOP]⟩ hS.2.2.2.2.2.2.2.2.2.1 (by simp [R.LINK_CTL_EN, R.LINK_CTL_LOOP]) b3
  show Host.Outcome.next (s.whenAlive _) = _
  rw [State.whenAlive_of ha, State.fieldWrite_put hm hi (Or.inl (by rw [k1]; decide)) hS (State.judgeField_rw rfl (rfl) (rfl) (by rw [k1]; simp)) (fun _ => by unfold State.refuses; simp only [show ¬ r.off < 64 by omega, if_false, k1, k2, k6, fld, FieldSpec.within]; rw [if_pos (by simp [R.LINK_CTL_LOOP])]; rfl) (fun _ _ => State.staging_other (by rw [k1]; decide) (by rw [k1]; decide) _) (by unfold State.act; simp [k1, k2, k3, k4, k5])]
  unfold State.act State.after
  simp [k1, k2, k3, k4, k5, fld, hb, FieldSpec.within]

theorem exec_run {s : State} {who : Who} {on : Bool} (hm : machineAccess who = true) (hi : s.initiates who = true) (ha : s.alive = true)
    (hr : on = true ∨ s.switching = false) :
    exec (.run who on) s = .next (if !s.flag R.CE_CTL_RUN && on then (s.putCfg R.CE_CTL_RUN on.toNat).setCe fun c => { c with firstRun := true } else if s.flag R.CE_CTL_RUN && !on then (s.putCfg R.CE_CTL_RUN on.toNat).vHalt else s.putCfg R.CE_CTL_RUN on.toNat) := by
  have hS : Stores (R.CE_CTL_RUN) (regAt (R.CE_CTL_RUN).addr) (fld 0 0 .rw 0) := by decide
  have hA : RegAt (regAt (R.CE_CTL_RUN).addr) .ce 0 0x40 0x40 0 := by decide
  generalize regAt _ = r at hS hA
  obtain ⟨k1, k2, k3, k4, k5⟩ := hA
  have k6 : r.addr = (R.CE_CTL_RUN).addr := hS.2.2.1
  show Host.Outcome.next (s.whenAlive _) = _
  rw [State.whenAlive_of ha, State.fieldWrite_put hm hi (Or.inl (by rw [k1]; decide)) hS (State.judgeField_rw rfl (rfl) (rfl) (by rw [k1]; simp)) (fun _ => by unfold State.refuses; simp only [show ¬ r.off < 64 by omega, if_false, k1, k6, fld]; unfold State.refusesCe; rw [if_pos (by decide)]; rcases hr with rfl | hr <;> simp [*]) (fun _ _ => State.staging_other (by rw [k1]; decide) (by rw [k1]; decide) _) (by unfold State.act State.actCe; simp [k1, k3])]
  have e : (s.putCfg R.CE_CTL_RUN on.toNat).flag R.CE_CTL_RUN = on := State.flag_putCfg s _ on ⟨by decide, by decide⟩
  unfold State.act State.actCe State.after
  simp [k1, k3, fld, e]

theorem exec_meterHold {s : State} {who : Who} {on : Bool} (hm : machineAccess who = true) (hi : s.initiates who = true) (ha : s.alive = true) :
    exec (.meterHold who on) s = .next (if s.flag R.METER_CTL_HOLD && !on then (s.putCfg R.METER_CTL_HOLD on.toNat).unhold else s.putCfg R.METER_CTL_HOLD on.toNat) := by
  have hS : Stores (R.METER_CTL_HOLD) (regAt (R.METER_CTL_HOLD).addr) (fld 8 8 .rw 0) := by decide
  have hA : RegAt (regAt (R.METER_CTL_HOLD).addr) .meter 0 0x40 0x40 0 := by decide
  generalize regAt _ = r at hS hA
  obtain ⟨k1, k2, k3, k4, k5⟩ := hA
  have k6 : r.addr = (R.METER_CTL_HOLD).addr := hS.2.2.1
  show Host.Outcome.next (s.whenAlive _) = _
  rw [State.whenAlive_of ha, State.fieldWrite_put hm hi (Or.inl (by rw [k1]; decide)) hS (State.judgeField_rw rfl (rfl) (rfl) (by rw [k1]; simp)) (fun _ => by unfold State.refuses; simp only [show ¬ r.off < 64 by omega, if_false, k1, k6]; rw [show ((R.METER_CTL_HOLD.addr == R.METER_TEST.addr) = false) by decide]; rfl) (fun _ _ => State.staging_other (by rw [k1]; decide) (by rw [k1]; decide) _) (by unfold State.act; simp [k1, k2, k3, k4, k5])]
  have e : (s.putCfg (R.METER_CTL_HOLD) on.toNat).flag (R.METER_CTL_HOLD) = on := State.flag_putCfg s (R.METER_CTL_HOLD) on ⟨by decide, by decide⟩
  have e0 : (s.putCfg (R.METER_CTL_HOLD) on.toNat).flag (R.METER_TEST_INJ) = s.flag (R.METER_TEST_INJ) := State.flag_putCfg_ne s _ ⟨by decide, by decide⟩ (by decide) (by unfold Fld.apart; decide)
  have e1 : (s.putCfg (R.METER_CTL_HOLD) on.toNat).flag (R.METER_ROT_CTL_EN) = s.flag (R.METER_ROT_CTL_EN) := State.flag_putCfg_ne s _ ⟨by decide, by decide⟩ (by decide) (by unfold Fld.apart; decide)
  have e2 : (s.putCfg (R.METER_CTL_HOLD) on.toNat).flag (R.METER_CTL_EN) = s.flag (R.METER_CTL_EN) := State.flag_putCfg_ne s _ ⟨by decide, by decide⟩ (by decide) (by unfold Fld.apart; decide)
  have g0 : (s.putCfg (R.METER_CTL_HOLD) on.toNat).get (R.METER_ROT_CFG_REFTOL) = s.get (R.METER_ROT_CFG_REFTOL) := State.get_putCfg_ne s _ ⟨by decide, by decide⟩ (by decide) (by unfold Fld.apart; decide)
  unfold State.act State.after
  simp [k1, k3, fld, e, e0, e1, e2, g0]

theorem exec_srcSelect {s : State} {who : Who} {src : Fin 4} (hm : machineAccess who = true) (hi : s.initiates who = true) (ha : s.alive = true)
    (hr : src.val ≤ 2) :
    exec (.srcSelect who src) s = .next (if src.val != s.get R.TIME_CTL_SRC then (s.putCfg R.TIME_CTL_SRC src).srcChanged else s.putCfg R.TIME_CTL_SRC src) := by
  have hS : Stores (R.TIME_CTL_SRC) (regAt (R.TIME_CTL_SRC).addr) ((fld 1 0 .rw 0).within 0 2) := by decide
  have hA : RegAt (regAt (R.TIME_CTL_SRC).addr) .time 0 0x40 0x40 0 := by decide
  have b4 : ((regAt (R.TIME_CTL_SRC).addr)).plain.any (fun g => decide (g.lo ≤ 4) && decide (4 ≤ g.hi)) = false := by decide
  generalize regAt _ = r at hS hA b4
  obtain ⟨k1, k2, k3, k4, k5⟩ := hA
  have k6 : r.addr = (R.TIME_CTL_SRC).addr := hS.2.2.1
  show Host.Outcome.next (s.whenAlive _) = _
  rw [State.whenAlive_of ha, State.fieldWrite_put hm hi (Or.inl (by rw [k1]; decide)) hS (State.judgeField_rw rfl (by simp [inRange, FieldSpec.within, fld]; omega) (rfl) (by rw [k1]; simp)) (fun _ => by unfold State.refuses; simp only [show ¬ r.off < 64 by omega, if_false, k1]) (fun _ _ => State.staging_other (by rw [k1]; decide) (by rw [k1]; decide) _) (by unfold State.act State.actTime; simp [k1, k3])]
  have hb : (s.rmwWord r R.TIME_CTL_SRC src).testBit 4 = false :=
    s.rmwWord_bit r _ _ _ ⟨by decide, by decide⟩ hS.2.2.2.2.2.2.2.2.2.1 (by decide) b4
  have e : (s.putCfg R.TIME_CTL_SRC src.val).get R.TIME_CTL_SRC = src.val :=
    (State.get_putCfg s _ _ ⟨by decide, by decide⟩).trans (Nat.mod_eq_of_lt src.isLt)
  unfold State.act State.actTime State.after
  simp [k1, k3, fld, FieldSpec.within, hb, e]

theorem exec_driveEnable {s : State} {who : Who} {drive : Fin 3} {en : Bool} (hm : machineAccess who = true) (hi : s.initiates who = true) (ha : s.alive = true)
    (hr : en = true → s.driveReady (s.put (R.MD_CFG_EN drive) en.toNat) drive = true) :
    exec (.driveEnable who drive en) s = .next (if en && !s.flag (R.MD_CFG_EN drive) then (s.putCfg (R.MD_CFG_EN drive) en.toNat).drvEnable drive else if !en && s.flag (R.MD_CFG_EN drive) then (s.putCfg (R.MD_CFG_EN drive) en.toNat).drvDisable drive else s.putCfg (R.MD_CFG_EN drive) en.toNat) := by
  have hS : Stores (R.MD_CFG_EN drive) (regAt (R.MD_CFG_EN drive).addr) (fld 31 31 .rw 0) := (by decide : ∀ x : Fin 3, Stores (R.MD_CFG_EN x) (regAt (R.MD_CFG_EN x).addr) (fld 31 31 .rw 0)) drive
  have hA : RegAt (regAt (R.MD_CFG_EN drive).addr) .md drive 0x40 0x40 0 := (by decide : ∀ x : Fin 3, RegAt (regAt (R.MD_CFG_EN x).addr) .md x 0x40 0x40 0) drive
  generalize regAt _ = r at hS hA
  obtain ⟨k1, k2, k3, k4, k5⟩ := hA
  have k6 : r.addr = (R.MD_CFG_EN drive).addr := hS.2.2.1
  show Host.Outcome.next (s.whenAlive _) = _
  rw [State.whenAlive_of ha, State.fieldWrite_put hm hi (Or.inl (by rw [k1]; decide)) hS (State.judgeField_rw rfl (rfl) (rfl) (by rw [k1]; simp)) (fun _ => by unfold State.refuses; simp only [show ¬ r.off < 64 by omega, if_false, k1, k2, k6, fld]; unfold State.refusesMd; rw [if_pos (by simp [R.MD_CFG_EN])]; cases en <;> simp_all) (fun _ _ => State.staging_other (by rw [k1]; decide) (by rw [k1]; decide) _) (by unfold State.act; simp [k1, k2, k3, k4, k5])]
  have e : (s.putCfg (R.MD_CFG_EN drive) en.toNat).flag (R.MD_CFG_EN drive) = en :=
    State.flag_putCfg s _ en ⟨by simp [R.MD_CFG_EN], by simp [R.MD_CFG_EN]⟩
  unfold State.act State.after
  simp only [k1, k2, k3, fld, e]
  cases en <;> cases h : s.flag (R.MD_CFG_EN drive) <;> simp [h] <;> simp_all

theorem exec_wen {s : State} {who : Who} {on : Bool} (hm : machineAccess who = true) (hi : s.initiates who = true) (ha : s.alive = true)
    (hk : s.keyOpen (pageBase .safe 0) = true) (hl : s.sys.sealed = false) (hf : s.safe.flips = []) :
    exec (.wen who on) s = .next (if on.toNat = s.get R.SAFE_MRAM_WEN then s.putCfg R.SAFE_MRAM_WEN on.toNat else if on then (s.putCfg R.SAFE_MRAM_WEN on.toNat).wenOpened.setKey (pageBase .safe 0) none else (s.putCfg R.SAFE_MRAM_WEN on.toNat).setKey (pageBase .safe 0) none) := by
  have hS : Stores (R.SAFE_MRAM_WEN) (regAt (R.SAFE_MRAM_WEN).addr) ((fld 0 0 .rwk 0).locked .sealed) := by decide
  have hA : RegAt (regAt (R.SAFE_MRAM_WEN).addr) .safe 0 0x60 0x60 0 := by decide
  generalize regAt _ = r at hS hA
  obtain ⟨k1, k2, k3, k4, k5⟩ := hA
  have k6 : r.addr = (R.SAFE_MRAM_WEN).addr := hS.2.2.1
  show Host.Outcome.next (s.whenAlive _) = _
  rw [State.whenAlive_of ha, State.fieldWrite_put hm hi (Or.inr hf) hS (State.judgeField_rwk rfl rfl (by simp [State.lockHolds, FieldSpec.locked, fld, State.sealedNow, hl]) (by rw [k1, k2]; exact hk)) (fun _ => by unfold State.refuses; simp only [show ¬ r.off < 64 by omega, if_false, k1, hl, Bool.and_false]) (fun _ _ => State.staging_other (by rw [k1]; decide) (by rw [k1]; decide) _) (by unfold State.act; simp [k1, k2, k3, k4, k5])]
  have e : (s.putCfg R.SAFE_MRAM_WEN on.toNat).flag R.SAFE_MRAM_WEN = on := State.flag_putCfg s _ on ⟨by decide, by decide⟩
  have e1 : s.flag R.SAFE_MRAM_WEN = (s.get R.SAFE_MRAM_WEN != 0) := rfl
  have e2 : s.get R.SAFE_MRAM_WEN < 2 := State.get_lt s R.SAFE_MRAM_WEN
  unfold State.act State.after
  simp only [k1, k2, k3, k6, fld, FieldSpec.locked, e, e1]
  generalize s.get R.SAFE_MRAM_WEN = g at *
  have : g = 0 ∨ g = 1 := by omega
  have q1 : ¬ R.SAFE_MRAM_WEN.hi + 1 - R.SAFE_MRAM_WEN.lo = 0 := by decide
  rcases this with rfl | rfl <;> cases on <;> simp only [Bool.toNat_false, Bool.toNat_true] at e ⊢ <;> simp [e]

theorem exec_clockOutputSetup {s : State} {who : Who} {out : Fin 4} {setup : Bool} (hm : machineAccess who = true) (hi : s.initiates who = true) (ha : s.alive = true)
    (hr : (if setup then s.setupAllowed else s.outAllowed out) = true) :
    exec (.clockOutputSetup who out setup) s = .next (if setup.toNat = s.get (R.CLKOUT_CTL_SETUP out) then s.putCfg (R.CLKOUT_CTL_SETUP out) setup.toNat else (s.putCfg (R.CLKOUT_CTL_SETUP out) setup.toNat).outState out) := by
  have hS : Stores (R.CLKOUT_CTL_SETUP out) (regAt (R.CLKOUT_CTL_SETUP out).addr) (fld 8 8 .rw 1) := (by decide : ∀ x : Fin 4, Stores (R.CLKOUT_CTL_SETUP x) (regAt (R.CLKOUT_CTL_SETUP x).addr) (fld 8 8 .rw 1)) out
  have hA : RegAt (regAt (R.CLKOUT_CTL_SETUP out).addr) .clk 0 (0x88 + 16 * out) 0x88 out := (by decide : ∀ x : Fin 4, RegAt (regAt (R.CLKOUT_CTL_SETUP x).addr) .clk 0 (0x88 + 16 * x) 0x88 x) out
  generalize regAt _ = r at hS hA
  obtain ⟨k1, k2, k3, k4, k5⟩ := hA
  have k6 : r.addr = (R.CLKOUT_CTL_SETUP out).addr := hS.2.2.1
  show Host.Outcome.next (s.whenAlive _) = _
  rw [State.whenAlive_of ha, State.fieldWrite_put hm hi (Or.inl (by rw [k1]; decide)) hS (State.judgeField_rw rfl (rfl) (rfl) (by rw [k1]; simp)) (fun _ => by unfold State.refuses; simp only [show ¬ r.off < 64 by omega, if_false, k1, k5, k6, fld]; unfold State.refusesClk; rw [if_neg (by simp [R.CLKOUT_CTL_SETUP, R.CLK_REF_MULT]), if_pos (by simp [R.CLKOUT_CTL_SETUP])]; cases setup <;> simp_all) (fun _ _ => State.staging_other (by rw [k1]; decide) (by rw [k1]; decide) _) (by
      have n1 : ¬ r.off = 28 := by omega
      unfold State.act
      simp [k1, n1])]
  have e : (s.putCfg (R.CLKOUT_CTL_SETUP out) setup.toNat).get (R.CLKOUT_CTL_SETUP out) = setup.toNat :=
    (State.get_putCfg s _ _ ⟨by simp [R.CLKOUT_CTL_SETUP], by simp [R.CLKOUT_CTL_SETUP]⟩).trans
      (Nat.mod_eq_of_lt (by simp [R.CLKOUT_CTL_SETUP]; cases setup <;> simp))
  have n1 : ¬ r.off = 28 := by omega
  have n2 : ¬ r.off < 64 := by omega
  unfold State.act State.after
  simp only [n1, n2, k1, k4, k5, fld, e, if_false]
  by_cases h : setup.toNat = s.get (R.CLKOUT_CTL_SETUP out) <;> simp [h]

theorem exec_clockFormatChange {s : State} {who : Who} {out : Fin 4} {fmt : Fin 4} (hm : machineAccess who = true) (hi : s.initiates who = true) (ha : s.alive = true) :
    exec (.clockFormatChange who out fmt) s = .next (if fmt = s.get (R.CLKOUT_CFG_FMT out) then s.putCfg (R.CLKOUT_CFG_FMT out) fmt
      else (s.putCfg (R.CLKOUT_CFG_FMT out) fmt).outFormat out) := by
  have hS : Stores (R.CLKOUT_CFG_FMT out) (regAt (R.CLKOUT_CFG_FMT out).addr) (fld 1 0 .rw 0) := (by decide : ∀ x : Fin 4, Stores (R.CLKOUT_CFG_FMT x) (regAt (R.CLKOUT_CFG_FMT x).addr) (fld 1 0 .rw 0)) out
  have hA : RegAt (regAt (R.CLKOUT_CFG_FMT out).addr) .clk 0 (0x80 + 16 * out) 0x80 out := (by decide : ∀ x : Fin 4, RegAt (regAt (R.CLKOUT_CFG_FMT x).addr) .clk 0 (0x80 + 16 * x) 0x80 x) out
  generalize regAt _ = r at hS hA
  obtain ⟨k1, k2, k3, k4, k5⟩ := hA
  have k6 : r.addr = (R.CLKOUT_CFG_FMT out).addr := hS.2.2.1
  show Host.Outcome.next (s.whenAlive _) = _
  rw [State.whenAlive_of ha, State.fieldWrite_put hm hi (Or.inl (by rw [k1]; decide)) hS (State.judgeField_rw rfl (rfl) (rfl) (by rw [k1]; simp)) (fun _ => by unfold State.refuses; simp only [show ¬ r.off < 64 by omega, if_false, k1, k5, k6, fld]; unfold State.refusesClk; rw [if_neg (by simp [R.CLKOUT_CFG_FMT, R.CLK_REF_MULT, R.CLKOUT_CFG, R.CLK_REF]; omega), if_neg (by simp [R.CLKOUT_CTL_SETUP, R.CLKOUT_CFG_FMT]), if_neg (by simp [R.CLKOUT_DIV_DIV, R.CLKOUT_DIV_DELAY, R.CLKOUT_CFG_FMT])]) (fun _ _ => State.staging_other (by rw [k1]; decide) (by rw [k1]; decide) _) (by
      have n1 : ¬ r.off = 28 := by omega
      unfold State.act
      simp [k1, n1])]
  have e : (s.putCfg (R.CLKOUT_CFG_FMT out) fmt).get (R.CLKOUT_CFG_FMT out) = fmt :=
    (State.get_putCfg s _ _ ⟨by simp [R.CLKOUT_CFG_FMT], by simp [R.CLKOUT_CFG_FMT]⟩).trans
      (Nat.mod_eq_of_lt (by simp [R.CLKOUT_CFG_FMT]))
  have n1 : ¬ r.off = 28 := by omega
  have n2 : ¬ r.off < 64 := by omega
  unfold State.act State.after
  simp only [n1, n2, k1, k4, k5, fld, e, if_false]
  by_cases h : (fmt : Nat) = s.get (R.CLKOUT_CFG_FMT out) <;> simp [h]

theorem exec_legEnable {s : State} {who : Who} {leg : Fin 64} {en : Bool} (hm : machineAccess who = true) (hi : s.initiates who = true) (ha : s.alive = true)
    (hg : s.held (s.groupOf .leg leg) = false) (hr : en = true → (s.put (R.LEG_CTL_EN leg) en.toNat).legCheck leg s.tickU = 0 ∧ s.legRoom = true) :
    exec (.legEnable who leg en) s = .next ((s.putCfg (R.LEG_CTL_EN leg) en.toNat).refreshLegCount) := by
  have hS : Stores (R.LEG_CTL_EN leg) (regAt (R.LEG_CTL_EN leg).addr) (fld 0 0 .rw 0) := (by decide : ∀ x : Fin 64, Stores (R.LEG_CTL_EN x) (regAt (R.LEG_CTL_EN x).addr) (fld 0 0 .rw 0)) leg
  have hA : RegAt (regAt (R.LEG_CTL_EN leg).addr) .leg leg 0x40 0x40 0 := (by decide : ∀ x : Fin 64, RegAt (regAt (R.LEG_CTL_EN x).addr) .leg x 0x40 0x40 0) leg
  generalize regAt _ = r at hS hA
  obtain ⟨k1, k2, k3, k4, k5⟩ := hA
  have k6 : r.addr = (R.LEG_CTL_EN leg).addr := hS.2.2.1
  show Host.Outcome.next (s.whenAlive _) = _
  rw [State.whenAlive_of ha, State.fieldWrite_put hm hi (Or.inl (by rw [k1]; decide)) hS (State.judgeField_rw rfl (rfl) (rfl) (by rw [k1]; simp)) (fun _ => by unfold State.refuses; simp only [show ¬ r.off < 64 by omega, if_false, k1, k2, k6, fld]; unfold State.refusesLeg; rw [if_neg (by simp [R.LEG_CTL_EN, R.LEG_CTL_INJ]), if_pos (by simp [R.LEG_CTL_EN])]; cases en <;> simp_all) (fun g _ => by unfold State.staging; rw [k1, k2, hg]; simp) (by unfold State.act; simp [k1, k2, k3, k4, k5])]
  unfold State.act State.after
  simp [k1, k2, k3, k4, k5, fld]

theorem exec_speedTargetWrite {s : State} {who : Who} {drive : Fin 3} {v : Word} (hm : machineAccess who = true) (hi : s.initiates who = true) (ha : s.alive = true)
    (hr : s.refusesMd (s.put (R.MD_SPD_TGT drive) (fieldOf v 31 0)) drive (R.MD_SPD_TGT drive) (fieldOf v 31 0) = false) :
    exec (.speedTargetWrite who drive v) s = .next (s.putCfg (R.MD_SPD_TGT drive) (fieldOf v 31 0)) := by
  have hS : Stores (R.MD_SPD_TGT drive) (regAt (R.MD_SPD_TGT drive).addr) (fld 31 0 .rw 0) := (by decide : ∀ x : Fin 3, Stores (R.MD_SPD_TGT x) (regAt (R.MD_SPD_TGT x).addr) (fld 31 0 .rw 0)) drive
  have hA : RegAt (regAt (R.MD_SPD_TGT drive).addr) .md drive 0x84 0x84 0 := (by decide : ∀ x : Fin 3, RegAt (regAt (R.MD_SPD_TGT x).addr) .md x 0x84 0x84 0) drive
  have hp : (regAt (R.MD_SPD_TGT drive).addr).fam.fields.filter (isPlain (regAt (R.MD_SPD_TGT drive).addr)) = [fld 31 0 .rw 0] := (by decide : ∀ x : Fin 3, (regAt (R.MD_SPD_TGT x).addr).fam.fields.filter (isPlain (regAt (R.MD_SPD_TGT x).addr)) = [fld 31 0 .rw 0]) drive
  generalize regAt _ = r at hS hA hp
  obtain ⟨k1, k2, k3, k4, k5⟩ := hA
  have k6 : r.addr = (R.MD_SPD_TGT drive).addr := hS.2.2.1
  show Host.Outcome.next (s.whenAlive _) = _
  rw [State.whenAlive_of ha, State.wordWrite_put hm hi (Or.inl (by rw [k1]; decide)) hS hp (State.judgeField_rw rfl rfl rfl (by rw [k1]; simp)) (fun _ => by unfold State.refuses; simp only [show ¬ r.off < 64 by omega, if_false, k1, k2, k6, fld]; exact hr) (State.staging_other (by rw [k1]; decide) (by rw [k1]; decide) _)
    (fun t => by unfold State.act; simp [k1, k3]) (by decide)]
  unfold State.after
  simp [k1, k2, k3, k4, k5, k6, fld, R.MD_SPD_TGT]

theorem exec_outputRequest {s : State} {who : Who} {v : Word} (hm : machineAccess who = true) (hi : s.initiates who = true) (ha : s.alive = true) (hf : s.safe.flips = []) :
    exec (.outputRequest who v) s = .next (if (s.putCfg R.SAFE_OUT_REQ_REQ (fieldOf v 3 0)).reg R.SAFE_OUT_REQ.addr = s.reg R.SAFE_OUT_REQ.addr then s.putCfg R.SAFE_OUT_REQ_REQ (fieldOf v 3 0) else (s.putCfg R.SAFE_OUT_REQ_REQ (fieldOf v 3 0)).safeSync) := by
  have hS : Stores (R.SAFE_OUT_REQ_REQ) (regAt (R.SAFE_OUT_REQ_REQ).addr) ({ fld 3 0 .rw 0 with perBit := true }) := by decide
  have hA : RegAt (regAt (R.SAFE_OUT_REQ_REQ).addr) .safe 0 0x50 0x50 0 := by decide
  have hp : (regAt (R.SAFE_OUT_REQ_REQ).addr).fam.fields.filter (isPlain (regAt (R.SAFE_OUT_REQ_REQ).addr)) = [{ fld 3 0 .rw 0 with perBit := true }] := by decide
  generalize regAt _ = r at hS hA hp
  obtain ⟨k1, k2, k3, k4, k5⟩ := hA
  have k6 : r.addr = (R.SAFE_OUT_REQ_REQ).addr := hS.2.2.1
  show Host.Outcome.next (s.whenAlive fun s => s.wordWrite who R.SAFE_OUT_REQ_REQ v) = _
  rw [State.whenAlive_of ha, State.wordWrite_put hm hi (Or.inr hf) hS hp (State.judgeField_rw rfl rfl rfl (by rw [k1]; simp)) (fun _ => by unfold State.refuses; simp only [show ¬ r.off < 64 by omega, if_false, k1, k6, show ((⟨R.SAFE_OUT_REQ_REQ.addr, (fld 3 0 .rw 0).hi, (fld 3 0 .rw 0).lo⟩ : Fld) == R.SAFE_MRAM_WEN) = false from by decide, Bool.false_and]) (State.staging_other (by rw [k1]; decide) (by rw [k1]; decide) _)
    (fun t => by unfold State.act; simp [k1, k3]) (by decide)]
  unfold State.after
  have e : R.SAFE_OUT_REQ_REQ.addr = R.SAFE_OUT_REQ.addr := rfl
  have e2 : fieldOf v R.SAFE_OUT_REQ_REQ.hi R.SAFE_OUT_REQ_REQ.lo = fieldOf v 3 0 := rfl
  simp only [k1, k3, k6, e, e2]
  by_cases h : (s.putCfg R.SAFE_OUT_REQ_REQ (fieldOf v 3 0)).reg R.SAFE_OUT_REQ.addr = s.reg R.SAFE_OUT_REQ.addr <;> simp [h]

theorem exec_wdogKick {s : State} {who : Who}  (hm : machineAccess who = true) (hi : s.initiates who = true) (ha : s.alive = true) (hw : s.Wf) :
    exec (.wdogKick who 0x5AA5) s = .next (s.setSys fun y => { y with wdtUp := s.time.up }) := by
  have hS : Acts (R.SYS_WDT_KICK) (regAt (R.SYS_WDT_KICK).addr) := by decide
  have hA : RegAt (regAt (R.SYS_WDT_KICK).addr) .sys 0 0x58 0x58 0 := by decide
  have hc : clearMask (regAt (R.SYS_WDT_KICK).addr).fam.fields = 0 := by decide
  have hk : (regAt (R.SYS_WDT_KICK).addr).fam.fields.filter (isAction (regAt (R.SYS_WDT_KICK).addr)) = [] := by decide
  have hp : (regAt (R.SYS_WDT_KICK).addr).fam.fields.filter (isPlain (regAt (R.SYS_WDT_KICK).addr)) = [] := by decide
  generalize regAt _ = r at hS hA hc hk hp
  obtain ⟨k1, k2, k3, k4, k5⟩ := hA
  have k6 : r.addr = (R.SYS_WDT_KICK).addr := hS.2.2.1
  show Host.Outcome.next (s.whenAlive _) = _
  rw [State.whenAlive_of ha, State.wordWrite_act hm hi hw hS hp, State.writeRest_act (by rw [hc]; simp) hk]
  unfold State.act State.after
  simp [k1, k2, k3, k4, k5]

theorem exec_linkCntclrCrc {s : State} {who : Who} {port : Fin 8} (hm : machineAccess who = true) (hi : s.initiates who = true) (ha : s.alive = true) (hw : s.Wf) :
    exec (.linkCntclrCrc who port) s = .next (s.setReg (R.LINK_CRC port).addr 0) := by
  have hS : Acts (R.LINK_CNTCLR port) (regAt (R.LINK_CNTCLR port).addr) := (by decide : ∀ x : Fin 8, Acts (R.LINK_CNTCLR x) (regAt (R.LINK_CNTCLR x).addr)) port
  have hA : RegAt (regAt (R.LINK_CNTCLR port).addr) .link port 0x6C 0x6C 0 := (by decide : ∀ x : Fin 8, RegAt (regAt (R.LINK_CNTCLR x).addr) .link x 0x6C 0x6C 0) port
  have hc : clearMask (regAt (R.LINK_CNTCLR port).addr).fam.fields = 0 := (by decide : ∀ x : Fin 8, clearMask (regAt (R.LINK_CNTCLR x).addr).fam.fields = 0) port
  have hk : (regAt (R.LINK_CNTCLR port).addr).fam.fields.filter (isAction (regAt (R.LINK_CNTCLR port).addr)) = [] := (by decide : ∀ x : Fin 8, (regAt (R.LINK_CNTCLR x).addr).fam.fields.filter (isAction (regAt (R.LINK_CNTCLR x).addr)) = []) port
  have hp : (regAt (R.LINK_CNTCLR port).addr).fam.fields.filter (isPlain (regAt (R.LINK_CNTCLR port).addr)) = [] := (by decide : ∀ x : Fin 8, (regAt (R.LINK_CNTCLR x).addr).fam.fields.filter (isPlain (regAt (R.LINK_CNTCLR x).addr)) = []) port
  generalize regAt _ = r at hS hA hc hk hp
  obtain ⟨k1, k2, k3, k4, k5⟩ := hA
  have k6 : r.addr = (R.LINK_CNTCLR port).addr := hS.2.2.1
  show Host.Outcome.next (s.whenAlive _) = _
  rw [State.whenAlive_of ha, State.wordWrite_act hm hi hw hS hp, State.writeRest_act (by rw [hc]; simp) hk]
  unfold State.act State.after
  simp [k1, k2, k3, k4, k5, Nat.testBit, Nat.shiftRight_eq_div_pow]

theorem exec_linkCntclrPrbs {s : State} {who : Who} {port : Fin 8} (hm : machineAccess who = true) (hi : s.initiates who = true) (ha : s.alive = true) (hw : s.Wf) :
    exec (.linkCntclrPrbs who port) s = .next ((s.setReg (R.LINK_PRBS0 port).addr 0).setReg (R.LINK_PRBS1 port).addr 0) := by
  have hS : Acts (R.LINK_CNTCLR port) (regAt (R.LINK_CNTCLR port).addr) := (by decide : ∀ x : Fin 8, Acts (R.LINK_CNTCLR x) (regAt (R.LINK_CNTCLR x).addr)) port
  have hA : RegAt (regAt (R.LINK_CNTCLR port).addr) .link port 0x6C 0x6C 0 := (by decide : ∀ x : Fin 8, RegAt (regAt (R.LINK_CNTCLR x).addr) .link x 0x6C 0x6C 0) port
  have hc : clearMask (regAt (R.LINK_CNTCLR port).addr).fam.fields = 0 := (by decide : ∀ x : Fin 8, clearMask (regAt (R.LINK_CNTCLR x).addr).fam.fields = 0) port
  have hk : (regAt (R.LINK_CNTCLR port).addr).fam.fields.filter (isAction (regAt (R.LINK_CNTCLR port).addr)) = [] := (by decide : ∀ x : Fin 8, (regAt (R.LINK_CNTCLR x).addr).fam.fields.filter (isAction (regAt (R.LINK_CNTCLR x).addr)) = []) port
  have hp : (regAt (R.LINK_CNTCLR port).addr).fam.fields.filter (isPlain (regAt (R.LINK_CNTCLR port).addr)) = [] := (by decide : ∀ x : Fin 8, (regAt (R.LINK_CNTCLR x).addr).fam.fields.filter (isPlain (regAt (R.LINK_CNTCLR x).addr)) = []) port
  generalize regAt _ = r at hS hA hc hk hp
  obtain ⟨k1, k2, k3, k4, k5⟩ := hA
  have k6 : r.addr = (R.LINK_CNTCLR port).addr := hS.2.2.1
  show Host.Outcome.next (s.whenAlive _) = _
  rw [State.whenAlive_of ha, State.wordWrite_act hm hi hw hS hp, State.writeRest_act (by rw [hc]; simp) hk]
  unfold State.act State.after
  simp [k1, k2, k3, k4, k5, Nat.testBit, Nat.shiftRight_eq_div_pow]

theorem exec_linkCntclrLooperr {s : State} {who : Who} {port : Fin 8} (hm : machineAccess who = true) (hi : s.initiates who = true) (ha : s.alive = true) (hw : s.Wf) :
    exec (.linkCntclrLooperr who port) s = .next (s.setReg (R.LINK_LOOPERR port).addr 0) := by
  have hS : Acts (R.LINK_CNTCLR port) (regAt (R.LINK_CNTCLR port).addr) := (by decide : ∀ x : Fin 8, Acts (R.LINK_CNTCLR x) (regAt (R.LINK_CNTCLR x).addr)) port
  have hA : RegAt (regAt (R.LINK_CNTCLR port).addr) .link port 0x6C 0x6C 0 := (by decide : ∀ x : Fin 8, RegAt (regAt (R.LINK_CNTCLR x).addr) .link x 0x6C 0x6C 0) port
  have hc : clearMask (regAt (R.LINK_CNTCLR port).addr).fam.fields = 0 := (by decide : ∀ x : Fin 8, clearMask (regAt (R.LINK_CNTCLR x).addr).fam.fields = 0) port
  have hk : (regAt (R.LINK_CNTCLR port).addr).fam.fields.filter (isAction (regAt (R.LINK_CNTCLR port).addr)) = [] := (by decide : ∀ x : Fin 8, (regAt (R.LINK_CNTCLR x).addr).fam.fields.filter (isAction (regAt (R.LINK_CNTCLR x).addr)) = []) port
  have hp : (regAt (R.LINK_CNTCLR port).addr).fam.fields.filter (isPlain (regAt (R.LINK_CNTCLR port).addr)) = [] := (by decide : ∀ x : Fin 8, (regAt (R.LINK_CNTCLR x).addr).fam.fields.filter (isPlain (regAt (R.LINK_CNTCLR x).addr)) = []) port
  generalize regAt _ = r at hS hA hc hk hp
  obtain ⟨k1, k2, k3, k4, k5⟩ := hA
  have k6 : r.addr = (R.LINK_CNTCLR port).addr := hS.2.2.1
  show Host.Outcome.next (s.whenAlive _) = _
  rw [State.whenAlive_of ha, State.wordWrite_act hm hi hw hS hp, State.writeRest_act (by rw [hc]; simp) hk]
  unfold State.act State.after
  simp [k1, k2, k3, k4, k5, Nat.testBit, Nat.shiftRight_eq_div_pow]

theorem exec_linkCntclrErr {s : State} {who : Who} {port : Fin 8} (hm : machineAccess who = true) (hi : s.initiates who = true) (ha : s.alive = true) (hw : s.Wf) :
    exec (.linkCntclrErr who port) s = .next (s.setReg (R.LINK_ERR port).addr 0) := by
  have hS : Acts (R.LINK_CNTCLR port) (regAt (R.LINK_CNTCLR port).addr) := (by decide : ∀ x : Fin 8, Acts (R.LINK_CNTCLR x) (regAt (R.LINK_CNTCLR x).addr)) port
  have hA : RegAt (regAt (R.LINK_CNTCLR port).addr) .link port 0x6C 0x6C 0 := (by decide : ∀ x : Fin 8, RegAt (regAt (R.LINK_CNTCLR x).addr) .link x 0x6C 0x6C 0) port
  have hc : clearMask (regAt (R.LINK_CNTCLR port).addr).fam.fields = 0 := (by decide : ∀ x : Fin 8, clearMask (regAt (R.LINK_CNTCLR x).addr).fam.fields = 0) port
  have hk : (regAt (R.LINK_CNTCLR port).addr).fam.fields.filter (isAction (regAt (R.LINK_CNTCLR port).addr)) = [] := (by decide : ∀ x : Fin 8, (regAt (R.LINK_CNTCLR x).addr).fam.fields.filter (isAction (regAt (R.LINK_CNTCLR x).addr)) = []) port
  have hp : (regAt (R.LINK_CNTCLR port).addr).fam.fields.filter (isPlain (regAt (R.LINK_CNTCLR port).addr)) = [] := (by decide : ∀ x : Fin 8, (regAt (R.LINK_CNTCLR x).addr).fam.fields.filter (isPlain (regAt (R.LINK_CNTCLR x).addr)) = []) port
  generalize regAt _ = r at hS hA hc hk hp
  obtain ⟨k1, k2, k3, k4, k5⟩ := hA
  have k6 : r.addr = (R.LINK_CNTCLR port).addr := hS.2.2.1
  show Host.Outcome.next (s.whenAlive _) = _
  rw [State.whenAlive_of ha, State.wordWrite_act hm hi hw hS hp, State.writeRest_act (by rw [hc]; simp) hk]
  unfold State.act State.after
  simp [k1, k2, k3, k4, k5, Nat.testBit, Nat.shiftRight_eq_div_pow]

theorem exec_islInj {s : State} {who : Who}  (hm : machineAccess who = true) (hi : s.initiates who = true) (ha : s.alive = true) (hw : s.Wf)
    (ht : s.testActive = true) :
    exec (.islInj who) s = .next (((s.reparity (regAt (R.ISL_CTL_INJ).addr)).islInject)) := by
  have hS : Acts (R.ISL_CTL_INJ) (regAt (R.ISL_CTL_INJ).addr) := by decide
  have hA : RegAt (regAt (R.ISL_CTL_INJ).addr) .isl 0 0x40 0x40 0 := by decide
  have hc : clearMask (regAt (R.ISL_CTL_INJ).addr).fam.fields = 0 := by decide
  have hk : (regAt (R.ISL_CTL_INJ).addr).fam.fields.filter (isAction (regAt (R.ISL_CTL_INJ).addr)) = [] := by decide
  generalize regAt _ = r at hS hA hc hk
  obtain ⟨k1, k2, k3, k4, k5⟩ := hA
  have k6 : r.addr = (R.ISL_CTL_INJ).addr := hS.2.2.1
  have hb : (s.rmwWord r (R.ISL_CTL_INJ) 1).testBit 4 = true := by
    rw [State.rmwWord_self _ _ _ _ _ hS.2.2.2.2.2.2.1 (by decide)]; rfl
  show Host.Outcome.next (s.whenAlive _) = _
  rw [State.whenAlive_of ha, State.fieldWrite_act hm hi hw hS (fun _ _ => State.staging_other (by rw [k1]; decide) (by rw [k1]; decide) _), State.writeRest_act (by rw [hc]; simp) hk]
  unfold State.act State.after
  simp [k1, k2, k3, k4, k5, hb, State.underTest, ht]

theorem exec_rearm {s : State} {who : Who}  (hm : machineAccess who = true) (hi : s.initiates who = true) (ha : s.alive = true) (hw : s.Wf) :
    exec (.rearm who) s = .next (((s.reparity (regAt (R.TIME_CTL_REARM).addr)).put R.TIME_STAT_ARMED 1)) := by
  have hS : Acts (R.TIME_CTL_REARM) (regAt (R.TIME_CTL_REARM).addr) := by decide
  have hA : RegAt (regAt (R.TIME_CTL_REARM).addr) .time 0 0x40 0x40 0 := by decide
  have hc : clearMask (regAt (R.TIME_CTL_REARM).addr).fam.fields = 0 := by decide
  have hk : (regAt (R.TIME_CTL_REARM).addr).fam.fields.filter (isAction (regAt (R.TIME_CTL_REARM).addr)) = [] := by decide
  generalize regAt _ = r at hS hA hc hk
  obtain ⟨k1, k2, k3, k4, k5⟩ := hA
  have k6 : r.addr = (R.TIME_CTL_REARM).addr := hS.2.2.1
  have hb : (s.rmwWord r (R.TIME_CTL_REARM) 1).testBit 4 = true := by
    rw [State.rmwWord_self _ _ _ _ _ hS.2.2.2.2.2.2.1 (by decide)]; rfl
  have e : ((s.reparity r).put R.TIME_STAT_ARMED 1).get R.TIME_CTL_SRC = s.get R.TIME_CTL_SRC :=
    (State.get_put_addr (f := R.TIME_STAT_ARMED) (g := R.TIME_CTL_SRC) _ _ (by decide)).trans (by simp)
  show Host.Outcome.next (s.whenAlive _) = _
  rw [State.whenAlive_of ha, State.fieldWrite_act hm hi hw hS (fun _ _ => State.staging_other (by rw [k1]; decide) (by rw [k1]; decide) _), State.writeRest_act (by rw [hc]; simp) hk]
  unfold State.act State.after
  simp [k1, k2, k3, k4, k5, hb, State.actTime, e]

theorem exec_arcHome {s : State} {who : Who} {chan : Fin 3} (hm : machineAccess who = true) (hi : s.initiates who = true) (ha : s.alive = true) (hw : s.Wf) :
    exec (.arcHome who chan) s = .next (((s.reparity (regAt (R.ARC_HOME_HOME chan).addr)).armHome chan)) := by
  have hS : Acts (R.ARC_HOME_HOME chan) (regAt (R.ARC_HOME_HOME chan).addr) := (by decide : ∀ x : Fin 3, Acts (R.ARC_HOME_HOME x) (regAt (R.ARC_HOME_HOME x).addr)) chan
  have hA : RegAt (regAt (R.ARC_HOME_HOME chan).addr) .arc 0 (0x48 + 64 * chan) 0x48 chan := (by decide : ∀ x : Fin 3, RegAt (regAt (R.ARC_HOME_HOME x).addr) .arc 0 (0x48 + 64 * x) 0x48 x) chan
  have hc : clearMask (regAt (R.ARC_HOME_HOME chan).addr).fam.fields = 0 := (by decide : ∀ x : Fin 3, clearMask (regAt (R.ARC_HOME_HOME x).addr).fam.fields = 0) chan
  have hk : (regAt (R.ARC_HOME_HOME chan).addr).fam.fields.filter (isAction (regAt (R.ARC_HOME_HOME chan).addr)) = [] := (by decide : ∀ x : Fin 3, (regAt (R.ARC_HOME_HOME x).addr).fam.fields.filter (isAction (regAt (R.ARC_HOME_HOME x).addr)) = []) chan
  generalize regAt _ = r at hS hA hc hk
  obtain ⟨k1, k2, k3, k4, k5⟩ := hA
  have k6 : r.addr = (R.ARC_HOME_HOME chan).addr := hS.2.2.1
  have hb : (s.rmwWord r (R.ARC_HOME_HOME chan) 1).testBit 0 = true := by
    rw [State.rmwWord_self _ _ _ _ _ hS.2.2.2.2.2.2.1 (by simp [R.ARC_HOME_HOME])]; simp [R.ARC_HOME_HOME]
  have n1 : ¬ r.off = 28 := by omega
  have n2 : ¬ r.off < 64 := by omega
  show Host.Outcome.next (s.whenAlive _) = _
  rw [State.whenAlive_of ha, State.fieldWrite_act hm hi hw hS (fun _ _ => State.staging_other (by rw [k1]; decide) (by rw [k1]; decide) _), State.writeRest_act (by rw [hc]; simp) hk]
  unfold State.act State.after
  simp [k1, k2, n1, n2, k4, k5, hb]

theorem exec_connRestart {s : State} {who : Who} {conn : Fin 2} (hm : machineAccess who = true) (hi : s.initiates who = true) (ha : s.alive = true) (hw : s.Wf) :
    exec (.connRestart who conn) s = .next (((s.reparity (regAt (R.SCONN_CFG_RESTART conn).addr)).connRestart conn)) := by
  have hS : Acts (R.SCONN_CFG_RESTART conn) (regAt (R.SCONN_CFG_RESTART conn).addr) := (by decide : ∀ x : Fin 2, Acts (R.SCONN_CFG_RESTART x) (regAt (R.SCONN_CFG_RESTART x).addr)) conn
  have hA : RegAt (regAt (R.SCONN_CFG_RESTART conn).addr) .sconn 0 (0x40 + 32 * conn) 0x40 conn := (by decide : ∀ x : Fin 2, RegAt (regAt (R.SCONN_CFG_RESTART x).addr) .sconn 0 (0x40 + 32 * x) 0x40 x) conn
  have hc : clearMask (regAt (R.SCONN_CFG_RESTART conn).addr).fam.fields = 0 := (by decide : ∀ x : Fin 2, clearMask (regAt (R.SCONN_CFG_RESTART x).addr).fam.fields = 0) conn
  have hk : (regAt (R.SCONN_CFG_RESTART conn).addr).fam.fields.filter (isAction (regAt (R.SCONN_CFG_RESTART conn).addr)) = [] := (by decide : ∀ x : Fin 2, (regAt (R.SCONN_CFG_RESTART x).addr).fam.fields.filter (isAction (regAt (R.SCONN_CFG_RESTART x).addr)) = []) conn
  generalize regAt _ = r at hS hA hc hk
  obtain ⟨k1, k2, k3, k4, k5⟩ := hA
  have k6 : r.addr = (R.SCONN_CFG_RESTART conn).addr := hS.2.2.1
  have hb : (s.rmwWord r (R.SCONN_CFG_RESTART conn) 1).testBit 1 = true := by
    rw [State.rmwWord_self _ _ _ _ _ hS.2.2.2.2.2.2.1 (by simp [R.SCONN_CFG_RESTART])]; simp [R.SCONN_CFG_RESTART]
  have n1 : ¬ r.off = 28 := by omega
  have n2 : ¬ r.off < 64 := by omega
  show Host.Outcome.next (s.whenAlive _) = _
  rw [State.whenAlive_of ha, State.fieldWrite_act hm hi hw hS (fun _ _ => State.staging_other (by rw [k1]; decide) (by rw [k1]; decide) _), State.writeRest_act (by rw [hc]; simp) hk]
  unfold State.act State.after
  simp [k1, k2, n1, n2, k4, k5, hb]

theorem exec_retrain {s : State} {who : Who} {port : Fin 8} (hm : machineAccess who = true) (hi : s.initiates who = true) (ha : s.alive = true) (hw : s.Wf) :
    exec (.retrain who port) s = .next (((s.reparity (regAt (R.LINK_CTL_RETRAIN port).addr)).linkCtl port (s.flag (R.LINK_CTL_EN port)) (s.get (R.LINK_CTL_LOOP port)) true)) := by
  have hS : Acts (R.LINK_CTL_RETRAIN port) (regAt (R.LINK_CTL_RETRAIN port).addr) := (by decide : ∀ x : Fin 8, Acts (R.LINK_CTL_RETRAIN x) (regAt (R.LINK_CTL_RETRAIN x).addr)) port
  have hA : RegAt (regAt (R.LINK_CTL_RETRAIN port).addr) .link port 0x40 0x40 0 := (by decide : ∀ x : Fin 8, RegAt (regAt (R.LINK_CTL_RETRAIN x).addr) .link x 0x40 0x40 0) port
  have hc : clearMask (regAt (R.LINK_CTL_RETRAIN port).addr).fam.fields = 0 := (by decide : ∀ x : Fin 8, clearMask (regAt (R.LINK_CTL_RETRAIN x).addr).fam.fields = 0) port
  have hk : (regAt (R.LINK_CTL_RETRAIN port).addr).fam.fields.filter (isAction (regAt (R.LINK_CTL_RETRAIN port).addr)) = [] := (by decide : ∀ x : Fin 8, (regAt (R.LINK_CTL_RETRAIN x).addr).fam.fields.filter (isAction (regAt (R.LINK_CTL_RETRAIN x).addr)) = []) port
  generalize regAt _ = r at hS hA hc hk
  obtain ⟨k1, k2, k3, k4, k5⟩ := hA
  have k6 : r.addr = (R.LINK_CTL_RETRAIN port).addr := hS.2.2.1
  have hb : (s.rmwWord r (R.LINK_CTL_RETRAIN port) 1).testBit 3 = true := by
    rw [State.rmwWord_self _ _ _ _ _ hS.2.2.2.2.2.2.1 (by simp [R.LINK_CTL_RETRAIN])]; simp [R.LINK_CTL_RETRAIN]
  show Host.Outcome.next (s.whenAlive _) = _
  rw [State.whenAlive_of ha, State.fieldWrite_act hm hi hw hS (fun _ _ => State.staging_other (by rw [k1]; decide) (by rw [k1]; decide) _), State.writeRest_act (by rw [hc]; simp) hk]
  unfold State.act State.after
  simp [k1, k2, k3, k4, k5, hb]

theorem exec_inj {s : State} {who : Who} {port leg : Fin 8} (hm : machineAccess who = true) (hi : s.initiates who = true) (ha : s.alive = true) (hw : s.Wf)
    (ht : s.testActive = true) :
    exec (.inj who port leg) s = .next (((s.reparity (regAt (R.PROT_CFG_INJ port leg).addr)).latchLeg (8 * port + leg) 8 s.time.now)) := by
  have hS : Acts (R.PROT_CFG_INJ port leg) (regAt (R.PROT_CFG_INJ port leg).addr) := (by decide : ∀ (x : Fin 8) (y : Fin 8), Acts (R.PROT_CFG_INJ x y) (regAt (R.PROT_CFG_INJ x y).addr)) port leg
  have hA : RegAt (regAt (R.PROT_CFG_INJ port leg).addr) .prot port (0x40 + 32 * leg) 0x40 leg := (by decide : ∀ (x : Fin 8) (y : Fin 8), RegAt (regAt (R.PROT_CFG_INJ x y).addr) .prot x (0x40 + 32 * y) 0x40 y) port leg
  have hc : clearMask (regAt (R.PROT_CFG_INJ port leg).addr).fam.fields = 0 := (by decide : ∀ (x : Fin 8) (y : Fin 8), clearMask (regAt (R.PROT_CFG_INJ x y).addr).fam.fields = 0) port leg
  have hk : (regAt (R.PROT_CFG_INJ port leg).addr).fam.fields.filter (isAction (regAt (R.PROT_CFG_INJ port leg).addr)) = [] := (by decide : ∀ (x : Fin 8) (y : Fin 8), (regAt (R.PROT_CFG_INJ x y).addr).fam.fields.filter (isAction (regAt (R.PROT_CFG_INJ x y).addr)) = []) port leg
  generalize regAt _ = r at hS hA hc hk
  obtain ⟨k1, k2, k3, k4, k5⟩ := hA
  have k6 : r.addr = (R.PROT_CFG_INJ port leg).addr := hS.2.2.1
  have hb : (s.rmwWord r (R.PROT_CFG_INJ port leg) 1).testBit 1 = true := by
    rw [State.rmwWord_self _ _ _ _ _ hS.2.2.2.2.2.2.1 (by simp [R.PROT_CFG_INJ])]; simp [R.PROT_CFG_INJ]
  have n1 : ¬ r.off = 28 := by omega
  have n2 : ¬ r.off < 64 := by omega
  have n3 : 64 ≤ r.off ∧ (r.off - 64) % 32 = 0 := by omega
  have n4 : ¬ 8 ≤ (r.off - 64) % 32 := by omega
  show Host.Outcome.next (s.whenAlive _) = _
  rw [State.whenAlive_of ha, State.fieldWrite_act hm hi hw hS (fun _ _ => State.staging_other (by rw [k1]; decide) (by rw [k1]; decide) _), State.writeRest_act (by rw [hc]; simp) hk]
  unfold State.act State.after
  simp [k1, k2, n1, n2, n3, n4, show r.off < 320 by omega, k4, k5, hb, State.underTest, ht]

theorem exec_adcStep {s : State} {who : Who}  (hm : machineAccess who = true) (hi : s.initiates who = true) (ha : s.alive = true) (hw : s.Wf)
    (ht : s.testActive = true) :
    exec (.adcStep who) s = .next (((s.reparity (regAt (R.ADC_TEST_STEP).addr)).rotStepTest)) := by
  have hS : Acts (R.ADC_TEST_STEP) (regAt (R.ADC_TEST_STEP).addr) := by decide
  have hA : RegAt (regAt (R.ADC_TEST_STEP).addr) .rot 0 0x60 0x60 0 := by decide
  have hc : clearMask (regAt (R.ADC_TEST_STEP).addr).fam.fields = 0 := by decide
  have hk : (regAt (R.ADC_TEST_STEP).addr).fam.fields.filter (isAction (regAt (R.ADC_TEST_STEP).addr)) = [] := by decide
  have b4 : (regAt (R.ADC_TEST_STEP).addr).plain.any (fun g => decide (g.lo ≤ 1) && decide (1 ≤ g.hi)) = false := by decide
  generalize regAt _ = r at b4 hS hA hc hk
  obtain ⟨k1, k2, k3, k4, k5⟩ := hA
  have k6 : r.addr = (R.ADC_TEST_STEP).addr := hS.2.2.1
  have hb : (s.rmwWord r (R.ADC_TEST_STEP) 1).testBit 0 = true := by
    rw [State.rmwWord_self _ _ _ _ _ hS.2.2.2.2.2.2.1 (by decide)]; rfl
  have hd : (s.rmwWord r R.ADC_TEST_STEP 1).testBit 1 = false :=
    s.rmwWord_bit r _ _ _ ⟨by decide, by decide⟩ hS.2.2.2.2.2.2.2.1 (by decide) b4
  show Host.Outcome.next (s.whenAlive _) = _
  rw [State.whenAlive_of ha, State.fieldWrite_act hm hi hw hS (fun _ _ => State.staging_other (by rw [k1]; decide) (by rw [k1]; decide) _), State.writeRest_act (by rw [hc]; simp) hk]
  unfold State.act State.after
  simp [k1, k2, k3, k4, k5, hb, State.underTest, ht, hd, andThen]

theorem exec_calerr {s : State} {who : Who}  (hm : machineAccess who = true) (hi : s.initiates who = true) (ha : s.alive = true) (hw : s.Wf)
    (ht : s.testActive = true) :
    exec (.calerr who) s = .next (((s.reparity (regAt (R.ADC_TEST_CALERR).addr)).rotCalErr)) := by
  have hS : Acts (R.ADC_TEST_CALERR) (regAt (R.ADC_TEST_CALERR).addr) := by decide
  have hA : RegAt (regAt (R.ADC_TEST_CALERR).addr) .rot 0 0x60 0x60 0 := by decide
  have hc : clearMask (regAt (R.ADC_TEST_CALERR).addr).fam.fields = 0 := by decide
  have hk : (regAt (R.ADC_TEST_CALERR).addr).fam.fields.filter (isAction (regAt (R.ADC_TEST_CALERR).addr)) = [] := by decide
  have b4 : (regAt (R.ADC_TEST_CALERR).addr).plain.any (fun g => decide (g.lo ≤ 0) && decide (0 ≤ g.hi)) = false := by decide
  generalize regAt _ = r at b4 hS hA hc hk
  obtain ⟨k1, k2, k3, k4, k5⟩ := hA
  have k6 : r.addr = (R.ADC_TEST_CALERR).addr := hS.2.2.1
  have hb : (s.rmwWord r (R.ADC_TEST_CALERR) 1).testBit 1 = true := by
    rw [State.rmwWord_self _ _ _ _ _ hS.2.2.2.2.2.2.1 (by decide)]; rfl
  have hd : (s.rmwWord r R.ADC_TEST_CALERR 1).testBit 0 = false :=
    s.rmwWord_bit r _ _ _ ⟨by decide, by decide⟩ hS.2.2.2.2.2.2.2.1 (by decide) b4
  show Host.Outcome.next (s.whenAlive _) = _
  rw [State.whenAlive_of ha, State.fieldWrite_act hm hi hw hS (fun _ _ => State.staging_other (by rw [k1]; decide) (by rw [k1]; decide) _), State.writeRest_act (by rw [hc]; simp) hk]
  unfold State.act State.after
  simp [k1, k2, k3, k4, k5, hb, State.underTest, ht, hd, andThen]

/-- Loading the clock leaves AUTOTRIM. -/
theorem State.rtcSet_autotrim (s : State) : s.rtcSet.flag R.ORIGIN_CTL_AUTOTRIM = s.flag R.ORIGIN_CTL_AUTOTRIM := by
  have h : ∀ (t : State) (q : Fld) (v : Nat), R.ORIGIN_CTL_AUTOTRIM.addr ≠ q.addr →
      (t.put q v).flag R.ORIGIN_CTL_AUTOTRIM = t.flag R.ORIGIN_CTL_AUTOTRIM := fun t q v e => by
    unfold State.flag
    rw [State.get_put_addr _ _ e]
  have ho : ∀ (t : State) (f : OrgSt → OrgSt) (q : Fld), (t.setOrg f).flag q = t.flag q := fun _ _ _ => rfl
  unfold State.rtcSet State.rtcLoad
  rw [h _ _ _ (by decide), ho, h _ _ _ (by decide), h _ _ _ (by decide)]

theorem exec_rtcset {s : State} {who : Who}  (hm : machineAccess who = true) (hi : s.initiates who = true) (ha : s.alive = true) (hw : s.Wf)
    (hl : s.tlock = false) :
    exec (.rtcset who) s = .next (((s.reparity (regAt (R.ORIGIN_CTL_RTCSET).addr)).rtcSet)) := by
  have hS : Acts (R.ORIGIN_CTL_RTCSET) (regAt (R.ORIGIN_CTL_RTCSET).addr) := by decide
  have hA : RegAt (regAt (R.ORIGIN_CTL_RTCSET).addr) .origin 0 0x5C 0x5C 0 := by decide
  have hc : clearMask (regAt (R.ORIGIN_CTL_RTCSET).addr).fam.fields = 0 := by decide
  have hk : (regAt (R.ORIGIN_CTL_RTCSET).addr).fam.fields.filter (isAction (regAt (R.ORIGIN_CTL_RTCSET).addr)) = [] := by decide
  have b4 : (regAt (R.ORIGIN_CTL_RTCSET).addr).plain.any (fun g => decide (g.lo ≤ 2) && decide (2 ≤ g.hi)) = false := by decide
  generalize regAt _ = r at b4 hS hA hc hk
  obtain ⟨k1, k2, k3, k4, k5⟩ := hA
  have k6 : r.addr = (R.ORIGIN_CTL_RTCSET).addr := hS.2.2.1
  have hb : (s.rmwWord r (R.ORIGIN_CTL_RTCSET) 1).testBit 1 = true := by
    rw [State.rmwWord_self _ _ _ _ _ hS.2.2.2.2.2.2.1 (by decide)]; rfl
  have hd : (s.rmwWord r R.ORIGIN_CTL_RTCSET 1).testBit 2 = false :=
    s.rmwWord_bit r _ _ _ ⟨by decide, by decide⟩ hS.2.2.2.2.2.2.2.1 (by decide) b4
  have hl2 : (s.reparity r).tlock = false := by simpa using hl
  show Host.Outcome.next (s.whenAlive _) = _
  rw [State.whenAlive_of ha, State.fieldWrite_act hm hi hw hS (fun _ _ => State.staging_other (by rw [k1]; decide) (by rw [k1]; decide) _), State.writeRest_act (by rw [hc]; simp) hk]
  have hq : (s.reparity r).rtcSet.flag R.ORIGIN_CTL_AUTOTRIM = s.flag R.ORIGIN_CTL_AUTOTRIM :=
    (State.rtcSet_autotrim _).trans (by simp)
  unfold State.act State.after
  simp [k1, k2, k3, k4, k5, hb, hd, andThen, hl2, State.underTest, hq]

theorem exec_tfail {s : State} {who : Who}  (hm : machineAccess who = true) (hi : s.initiates who = true) (ha : s.alive = true) (hw : s.Wf)
    (ht : s.testActive = true) :
    exec (.tfail who) s = .next (((s.reparity (regAt (R.ORIGIN_CTL_TFAIL).addr)).setOrg fun o => { o with tfail := true })) := by
  have hS : Acts (R.ORIGIN_CTL_TFAIL) (regAt (R.ORIGIN_CTL_TFAIL).addr) := by decide
  have hA : RegAt (regAt (R.ORIGIN_CTL_TFAIL).addr) .origin 0 0x5C 0x5C 0 := by decide
  have hc : clearMask (regAt (R.ORIGIN_CTL_TFAIL).addr).fam.fields = 0 := by decide
  have hk : (regAt (R.ORIGIN_CTL_TFAIL).addr).fam.fields.filter (isAction (regAt (R.ORIGIN_CTL_TFAIL).addr)) = [] := by decide
  have b4 : (regAt (R.ORIGIN_CTL_TFAIL).addr).plain.any (fun g => decide (g.lo ≤ 1) && decide (1 ≤ g.hi)) = false := by decide
  generalize regAt _ = r at b4 hS hA hc hk
  obtain ⟨k1, k2, k3, k4, k5⟩ := hA
  have k6 : r.addr = (R.ORIGIN_CTL_TFAIL).addr := hS.2.2.1
  have hb : (s.rmwWord r (R.ORIGIN_CTL_TFAIL) 1).testBit 2 = true := by
    rw [State.rmwWord_self _ _ _ _ _ hS.2.2.2.2.2.2.1 (by decide)]; rfl
  have hd : (s.rmwWord r R.ORIGIN_CTL_TFAIL 1).testBit 1 = false :=
    s.rmwWord_bit r _ _ _ ⟨by decide, by decide⟩ hS.2.2.2.2.2.2.2.1 (by decide) b4
  show Host.Outcome.next (s.whenAlive _) = _
  rw [State.whenAlive_of ha, State.fieldWrite_act hm hi hw hS (fun _ _ => State.staging_other (by rw [k1]; decide) (by rw [k1]; decide) _), State.writeRest_act (by rw [hc]; simp) hk]
  unfold State.act State.after
  simp [k1, k2, k3, k4, k5, hb, State.underTest, ht, hd, andThen]

theorem exec_scanRequest {s : State} {who : Who} {v : Word} (hm : machineAccess who = true) (hi : s.initiates who = true) (ha : s.alive = true) (hw : s.Wf) :
    exec (.scanRequest who v) s = .next (s.scanRequest v.toNat) := by
  have hS : Acts (R.SLOPE_SCANREQ) (regAt (R.SLOPE_SCANREQ).addr) := by decide
  have hA : RegAt (regAt (R.SLOPE_SCANREQ).addr) .slope 0 0x50 0x50 0 := by decide
  have hc : clearMask (regAt (R.SLOPE_SCANREQ).addr).fam.fields = 0 := by decide
  have hk : (regAt (R.SLOPE_SCANREQ).addr).fam.fields.filter (isAction (regAt (R.SLOPE_SCANREQ).addr)) = [] := by decide
  have hp : (regAt (R.SLOPE_SCANREQ).addr).fam.fields.filter (isPlain (regAt (R.SLOPE_SCANREQ).addr)) = [] := by decide
  generalize regAt _ = r at hS hA hc hk hp
  obtain ⟨k1, k2, k3, k4, k5⟩ := hA
  have k6 : r.addr = (R.SLOPE_SCANREQ).addr := hS.2.2.1
  show Host.Outcome.next (s.whenAlive _) = _
  rw [State.whenAlive_of ha, State.wordWrite_act hm hi hw hS hp, State.writeRest_act (by rw [hc]; simp) hk]
  unfold State.act State.after
  simp [k1, k2, k3, k4, k5]

theorem exec_slopeTestFault {s : State} {who : Who} {ch : Fin 32} (hm : machineAccess who = true) (hi : s.initiates who = true) (ha : s.alive = true) (hw : s.Wf)
    (ht : s.testActive = true) :
    exec (.slopeTestFault who ch) s = .next (s.slInject ch) := by
  have hS : Acts (R.SLOPE_TEST) (regAt (R.SLOPE_TEST).addr) := by decide
  have hA : RegAt (regAt (R.SLOPE_TEST).addr) .slope 0 0x54 0x54 0 := by decide
  have hc : clearMask (regAt (R.SLOPE_TEST).addr).fam.fields = 0 := by decide
  have hk : (regAt (R.SLOPE_TEST).addr).fam.fields.filter (isAction (regAt (R.SLOPE_TEST).addr)) = [] := by decide
  have hp : (regAt (R.SLOPE_TEST).addr).fam.fields.filter (isPlain (regAt (R.SLOPE_TEST).addr)) = [] := by decide
  generalize regAt _ = r at hS hA hc hk hp
  obtain ⟨k1, k2, k3, k4, k5⟩ := hA
  have k6 : r.addr = (R.SLOPE_TEST).addr := hS.2.2.1
  have e : ch.val % 4294967296 % 32 = ch.val := by omega
  show Host.Outcome.next (s.whenAlive _) = _
  rw [State.whenAlive_of ha, State.wordWrite_act hm hi hw hS hp, State.writeRest_act (by rw [hc]; simp) hk]
  unfold State.act State.after
  simp [k1, k2, k3, k4, k5, ht, e]

theorem exec_swap {s : State} {who : Who}  (hm : machineAccess who = true) (hi : s.initiates who = true) (ha : s.alive = true) (hw : s.Wf) :
    exec (.swap who) s = .next (s.put R.CE_PROG_PEND 1) := by
  have hS : Acts (R.CE_PROG_SWAP) (regAt (R.CE_PROG_SWAP).addr) := by decide
  have hA : RegAt (regAt (R.CE_PROG_SWAP).addr) .ce 0 0x44 0x44 0 := by decide
  have hc : clearMask (regAt (R.CE_PROG_SWAP).addr).fam.fields = 0 := by decide
  have hk : (regAt (R.CE_PROG_SWAP).addr).fam.fields.filter (isAction (regAt (R.CE_PROG_SWAP).addr)) = [] := by decide
  have hp : (regAt (R.CE_PROG_SWAP).addr).fam.fields.filter (isPlain (regAt (R.CE_PROG_SWAP).addr)) = [] := by decide
  generalize regAt _ = r at hS hA hc hk hp
  obtain ⟨k1, k2, k3, k4, k5⟩ := hA
  have k6 : r.addr = (R.CE_PROG_SWAP).addr := hS.2.2.1
  show Host.Outcome.next (s.whenAlive _) = _
  rw [State.whenAlive_of ha, State.fieldWrite_act hm hi hw hS (fun _ _ => State.staging_other (by rw [k1]; decide) (by rw [k1]; decide) _), State.writeRest_act (by rw [hc]; simp) hk]
  rw [State.reparity_nil s hp, State.rmwWord_nil s hp]
  rw [show (insertField 0 (R.CE_PROG_SWAP).hi (R.CE_PROG_SWAP).lo 1).toNat = 65536 from by decide]
  unfold State.act State.after
  simp [k1, k2, k3, k4, k5, State.actCe, show Nat.testBit 65536 16 = true from by decide]

theorem exec_programWordWrite {s : State} {who : Who} {v : Word} (hm : machineAccess who = true) (hi : s.initiates who = true) (ha : s.alive = true) (hw : s.Wf)
    (hr : ¬ (s.flag R.CE_CTL_RUN = true ∧ s.get R.CE_PADDR_ADDR / 8192 = s.get R.CE_PROG_BANK)) :
    exec (.programWordWrite who v) s = .next ((s.setProg (s.get R.CE_PADDR_ADDR) (s.ce.pdataLo + v.toNat * 2 ^ 32)).putCfg R.CE_PADDR_ADDR (s.get R.CE_PADDR_ADDR + 1)) := by
  have hS : Acts (R.CE_PDATA_HI) (regAt (R.CE_PDATA_HI).addr) := by decide
  have hA : RegAt (regAt (R.CE_PDATA_HI).addr) .ce 0 0x68 0x68 0 := by decide
  have hc : clearMask (regAt (R.CE_PDATA_HI).addr).fam.fields = 0 := by decide
  have hk : (regAt (R.CE_PDATA_HI).addr).fam.fields.filter (isAction (regAt (R.CE_PDATA_HI).addr)) = [] := by decide
  have hp : (regAt (R.CE_PDATA_HI).addr).fam.fields.filter (isPlain (regAt (R.CE_PDATA_HI).addr)) = [] := by decide
  generalize regAt _ = r at hS hA hc hk hp
  obtain ⟨k1, k2, k3, k4, k5⟩ := hA
  have k6 : r.addr = (R.CE_PDATA_HI).addr := hS.2.2.1
  show Host.Outcome.next (s.whenAlive _) = _
  rw [State.whenAlive_of ha, State.wordWrite_act hm hi hw hS hp, State.writeRest_act (by rw [hc]; simp) hk]
  unfold State.act State.after
  simp [k1, k2, k3, k4, k5, State.actCe, hr]

theorem exec_dataWordWrite {s : State} {who : Who} {v : Word} (hm : machineAccess who = true) (hi : s.initiates who = true) (ha : s.alive = true) (hw : s.Wf)
    (hr : s.flag R.CE_CTL_RUN = false) :
    exec (.dataWordWrite who v) s = .next ((s.hostData (s.get R.CE_DADDR_ADDR) v.toNat).putCfg R.CE_DADDR_ADDR (s.get R.CE_DADDR_ADDR + 1)) := by
  have hS : Acts (R.CE_DDATA) (regAt (R.CE_DDATA).addr) := by decide
  have hA : RegAt (regAt (R.CE_DDATA).addr) .ce 0 0x78 0x78 0 := by decide
  have hc : clearMask (regAt (R.CE_DDATA).addr).fam.fields = 0 := by decide
  have hk : (regAt (R.CE_DDATA).addr).fam.fields.filter (isAction (regAt (R.CE_DDATA).addr)) = [] := by decide
  have hp : (regAt (R.CE_DDATA).addr).fam.fields.filter (isPlain (regAt (R.CE_DDATA).addr)) = [] := by decide
  generalize regAt _ = r at hS hA hc hk hp
  obtain ⟨k1, k2, k3, k4, k5⟩ := hA
  have k6 : r.addr = (R.CE_DDATA).addr := hS.2.2.1
  show Host.Outcome.next (s.whenAlive _) = _
  rw [State.whenAlive_of ha, State.wordWrite_act hm hi hw hS hp, State.writeRest_act (by rw [hc]; simp) hk]
  unfold State.act State.after
  simp [k1, k2, k3, k4, k5, State.actCe, hr]

theorem exec_coefWrite {s : State} {who : Who} {v : Word} (hm : machineAccess who = true) (hi : s.initiates who = true) (ha : s.alive = true) (hw : s.Wf)
    (hr : s.ce.coefQ.length < 32) :
    exec (.coefWrite who v) s = .next (((s.setCe fun c => { c with coefQ := c.coefQ ++ [(s.get R.CE_CADDR_ADDR, v.toNat)] }).bumpMod R.CE_CSTAT_QCOUNT).putCfg R.CE_CADDR_ADDR (s.get R.CE_CADDR_ADDR + 1)) := by
  have hS : Acts (R.CE_CDATA) (regAt (R.CE_CDATA).addr) := by decide
  have hA : RegAt (regAt (R.CE_CDATA).addr) .ce 0 0x84 0x84 0 := by decide
  have hc : clearMask (regAt (R.CE_CDATA).addr).fam.fields = 0 := by decide
  have hk : (regAt (R.CE_CDATA).addr).fam.fields.filter (isAction (regAt (R.CE_CDATA).addr)) = [] := by decide
  have hp : (regAt (R.CE_CDATA).addr).fam.fields.filter (isPlain (regAt (R.CE_CDATA).addr)) = [] := by decide
  generalize regAt _ = r at hS hA hc hk hp
  obtain ⟨k1, k2, k3, k4, k5⟩ := hA
  have k6 : r.addr = (R.CE_CDATA).addr := hS.2.2.1
  show Host.Outcome.next (s.whenAlive _) = _
  rw [State.whenAlive_of ha, State.wordWrite_act hm hi hw hS hp, State.writeRest_act (by rw [hc]; simp) hk]
  unfold State.act State.after
  simp [k1, k2, k3, k4, k5, State.actCe, hr]

theorem exec_clrMax {s : State} {who : Who}  (hm : machineAccess who = true) (hi : s.initiates who = true) (ha : s.alive = true) (hw : s.Wf) :
    exec (.clrMax who) s = .next (s.put R.CE_TIME_MAX 0) := by
  have hS : Acts (R.CE_CLR) (regAt (R.CE_CLR).addr) := by decide
  have hA : RegAt (regAt (R.CE_CLR).addr) .ce 0 0x5C 0x5C 0 := by decide
  have hc : clearMask (regAt (R.CE_CLR).addr).fam.fields = 0 := by decide
  have hk : (regAt (R.CE_CLR).addr).fam.fields.filter (isAction (regAt (R.CE_CLR).addr)) = [] := by decide
  have hp : (regAt (R.CE_CLR).addr).fam.fields.filter (isPlain (regAt (R.CE_CLR).addr)) = [] := by decide
  generalize regAt _ = r at hS hA hc hk hp
  obtain ⟨k1, k2, k3, k4, k5⟩ := hA
  have k6 : r.addr = (R.CE_CLR).addr := hS.2.2.1
  show Host.Outcome.next (s.whenAlive _) = _
  rw [State.whenAlive_of ha, State.wordWrite_act hm hi hw hS hp, State.writeRest_act (by rw [hc]; simp) hk]
  unfold State.act State.after
  simp [k1, k2, k3, k4, k5, State.actCe, Nat.testBit]

theorem exec_clrSatcnt {s : State} {who : Who}  (hm : machineAccess who = true) (hi : s.initiates who = true) (ha : s.alive = true) (hw : s.Wf) :
    exec (.clrSatcnt who) s = .next (s.setReg R.CE_SATCNT.addr 0) := by
  have hS : Acts (R.CE_CLR) (regAt (R.CE_CLR).addr) := by decide
  have hA : RegAt (regAt (R.CE_CLR).addr) .ce 0 0x5C 0x5C 0 := by decide
  have hc : clearMask (regAt (R.CE_CLR).addr).fam.fields = 0 := by decide
  have hk : (regAt (R.CE_CLR).addr).fam.fields.filter (isAction (regAt (R.CE_CLR).addr)) = [] := by decide
  have hp : (regAt (R.CE_CLR).addr).fam.fields.filter (isPlain (regAt (R.CE_CLR).addr)) = [] := by decide
  generalize regAt _ = r at hS hA hc hk hp
  obtain ⟨k1, k2, k3, k4, k5⟩ := hA
  have k6 : r.addr = (R.CE_CLR).addr := hS.2.2.1
  show Host.Outcome.next (s.whenAlive _) = _
  rw [State.whenAlive_of ha, State.wordWrite_act hm hi hw hS hp, State.writeRest_act (by rw [hc]; simp) hk]
  unfold State.act State.after
  simp [k1, k2, k3, k4, k5, State.actCe, Nat.testBit]

theorem exec_ceTestFault {s : State} {who : Who}  (hm : machineAccess who = true) (hi : s.initiates who = true) (ha : s.alive = true) (hw : s.Wf)
    (ht : s.testActive = true) :
    exec (.ceTestFault who) s = .next (s.setCe fun c => { c with injFault := true }) := by
  have hS : Acts (R.CE_TEST) (regAt (R.CE_TEST).addr) := by decide
  have hA : RegAt (regAt (R.CE_TEST).addr) .ce 0 0x90 0x90 0 := by decide
  have hc : clearMask (regAt (R.CE_TEST).addr).fam.fields = 0 := by decide
  have hk : (regAt (R.CE_TEST).addr).fam.fields.filter (isAction (regAt (R.CE_TEST).addr)) = [] := by decide
  have hp : (regAt (R.CE_TEST).addr).fam.fields.filter (isPlain (regAt (R.CE_TEST).addr)) = [] := by decide
  generalize regAt _ = r at hS hA hc hk hp
  obtain ⟨k1, k2, k3, k4, k5⟩ := hA
  have k6 : r.addr = (R.CE_TEST).addr := hS.2.2.1
  show Host.Outcome.next (s.whenAlive _) = _
  rw [State.whenAlive_of ha, State.wordWrite_act hm hi hw hS hp, State.writeRest_act (by rw [hc]; simp) hk]
  unfold State.act State.after
  simp [k1, k2, k3, k4, k5, State.actCe, Nat.testBit, andThen, State.underTest, ht]

theorem exec_ecc1 {s : State} {who : Who}  (hm : machineAccess who = true) (hi : s.initiates who = true) (ha : s.alive = true) (hw : s.Wf)
    (ht : s.testActive = true) :
    exec (.ecc1 who) s = .next (s.setCe fun c => { c with err1 := s.get R.CE_DADDR_ADDR :: c.err1.filter (· != s.get R.CE_DADDR_ADDR), planted := s.get R.CE_DADDR_ADDR :: c.planted.filter (· != s.get R.CE_DADDR_ADDR) }) := by
  have hS : Acts (R.CE_TEST) (regAt (R.CE_TEST).addr) := by decide
  have hA : RegAt (regAt (R.CE_TEST).addr) .ce 0 0x90 0x90 0 := by decide
  have hc : clearMask (regAt (R.CE_TEST).addr).fam.fields = 0 := by decide
  have hk : (regAt (R.CE_TEST).addr).fam.fields.filter (isAction (regAt (R.CE_TEST).addr)) = [] := by decide
  have hp : (regAt (R.CE_TEST).addr).fam.fields.filter (isPlain (regAt (R.CE_TEST).addr)) = [] := by decide
  generalize regAt _ = r at hS hA hc hk hp
  obtain ⟨k1, k2, k3, k4, k5⟩ := hA
  have k6 : r.addr = (R.CE_TEST).addr := hS.2.2.1
  show Host.Outcome.next (s.whenAlive _) = _
  rw [State.whenAlive_of ha, State.wordWrite_act hm hi hw hS hp, State.writeRest_act (by rw [hc]; simp) hk]
  unfold State.act State.after
  simp [k1, k2, k3, k4, k5, State.actCe, Nat.testBit, andThen, State.underTest, ht]

theorem exec_ecc2 {s : State} {who : Who}  (hm : machineAccess who = true) (hi : s.initiates who = true) (ha : s.alive = true) (hw : s.Wf)
    (ht : s.testActive = true) :
    exec (.ecc2 who) s = .next (s.setCe fun c => { c with err2 := s.get R.CE_DADDR_ADDR :: c.err2.filter (· != s.get R.CE_DADDR_ADDR), planted := s.get R.CE_DADDR_ADDR :: c.planted.filter (· != s.get R.CE_DADDR_ADDR) }) := by
  have hS : Acts (R.CE_TEST) (regAt (R.CE_TEST).addr) := by decide
  have hA : RegAt (regAt (R.CE_TEST).addr) .ce 0 0x90 0x90 0 := by decide
  have hc : clearMask (regAt (R.CE_TEST).addr).fam.fields = 0 := by decide
  have hk : (regAt (R.CE_TEST).addr).fam.fields.filter (isAction (regAt (R.CE_TEST).addr)) = [] := by decide
  have hp : (regAt (R.CE_TEST).addr).fam.fields.filter (isPlain (regAt (R.CE_TEST).addr)) = [] := by decide
  generalize regAt _ = r at hS hA hc hk hp
  obtain ⟨k1, k2, k3, k4, k5⟩ := hA
  have k6 : r.addr = (R.CE_TEST).addr := hS.2.2.1
  show Host.Outcome.next (s.whenAlive _) = _
  rw [State.whenAlive_of ha, State.wordWrite_act hm hi hw hS hp, State.writeRest_act (by rw [hc]; simp) hk]
  unfold State.act State.after
  simp [k1, k2, k3, k4, k5, State.actCe, Nat.testBit, Nat.shiftRight_eq_div_pow, andThen, State.underTest, ht]

theorem exec_trigSw {s : State} {who : Who} {v : Word} (hm : machineAccess who = true) (hi : s.initiates who = true) (ha : s.alive = true) (hw : s.Wf) :
    exec (.trigSw who v) s = .next (s.setTime fun t => { t with lineDue := t.lineDue ++ ((List.range 16).filter fun x => v.toNat.testBit x && !s.time.lineDue.contains (x, s.time.now)).map fun x => (x, t.now) }) := by
  have hS : Acts (R.TRIG_SW) (regAt (R.TRIG_SW).addr) := by decide
  have hA : RegAt (regAt (R.TRIG_SW).addr) .trig 0 0x80 0x80 0 := by decide
  have hc : clearMask (regAt (R.TRIG_SW).addr).fam.fields = 0 := by decide
  have hk : (regAt (R.TRIG_SW).addr).fam.fields.filter (isAction (regAt (R.TRIG_SW).addr)) = [] := by decide
  have hp : (regAt (R.TRIG_SW).addr).fam.fields.filter (isPlain (regAt (R.TRIG_SW).addr)) = [] := by decide
  generalize regAt _ = r at hS hA hc hk hp
  obtain ⟨k1, k2, k3, k4, k5⟩ := hA
  have k6 : r.addr = (R.TRIG_SW).addr := hS.2.2.1
  show Host.Outcome.next (s.whenAlive _) = _
  rw [State.whenAlive_of ha, State.wordWrite_act hm hi hw hS hp, State.writeRest_act (by rw [hc]; simp) hk]
  unfold State.act State.after
  simp [k1, k2, k3, k4, k5]

theorem exec_wack {s : State} {who : Who}  (hm : machineAccess who = true) (hi : s.initiates who = true) (ha : s.alive = true) (hw : s.Wf) :
    exec (.wack who) s = .next (s.wackAll) := by
  have hS : Acts (R.METER_ACC_WACK) (regAt (R.METER_ACC_WACK).addr) := by decide
  have hA : RegAt (regAt (R.METER_ACC_WACK).addr) .macc 0 0x44 0x44 0 := by decide
  have hc : clearMask (regAt (R.METER_ACC_WACK).addr).fam.fields = 0 := by decide
  have hk : (regAt (R.METER_ACC_WACK).addr).fam.fields.filter (isAction (regAt (R.METER_ACC_WACK).addr)) = [] := by decide
  have hp : (regAt (R.METER_ACC_WACK).addr).fam.fields.filter (isPlain (regAt (R.METER_ACC_WACK).addr)) = [] := by decide
  generalize regAt _ = r at hS hA hc hk hp
  obtain ⟨k1, k2, k3, k4, k5⟩ := hA
  have k6 : r.addr = (R.METER_ACC_WACK).addr := hS.2.2.1
  show Host.Outcome.next (s.whenAlive _) = _
  rw [State.whenAlive_of ha, State.wordWrite_act hm hi hw hS hp, State.writeRest_act (by rw [hc]; simp) hk]
  unfold State.act State.after
  simp [k1, k2, k3, k4, k5, Nat.testBit]

theorem exec_timeMeasurement {s : State} {who : Who} {v : Word} (hm : machineAccess who = true) (hi : s.initiates who = true) (ha : s.alive = true) (hw : s.Wf)
    (hr : s.get R.TIME_CTL_SRC = 0) :
    exec (.timeMeasurement who v) s = .next (s.submitMeas 0 (BitVec.ofNat 64 (s.time.measLo + v.toNat * 2 ^ 32)).toInt) := by
  have hS : Acts (R.TIME_MEAS_HI) (regAt (R.TIME_MEAS_HI).addr) := by decide
  have hA : RegAt (regAt (R.TIME_MEAS_HI).addr) .time 0 0x64 0x64 0 := by decide
  have hc : clearMask (regAt (R.TIME_MEAS_HI).addr).fam.fields = 0 := by decide
  have hk : (regAt (R.TIME_MEAS_HI).addr).fam.fields.filter (isAction (regAt (R.TIME_MEAS_HI).addr)) = [] := by decide
  have hp : (regAt (R.TIME_MEAS_HI).addr).fam.fields.filter (isPlain (regAt (R.TIME_MEAS_HI).addr)) = [] := by decide
  generalize regAt _ = r at hS hA hc hk hp
  obtain ⟨k1, k2, k3, k4, k5⟩ := hA
  have k6 : r.addr = (R.TIME_MEAS_HI).addr := hS.2.2.1
  show Host.Outcome.next (s.whenAlive _) = _
  rw [State.whenAlive_of ha, State.wordWrite_act hm hi hw hS hp, State.writeRest_act (by rw [hc]; simp) hk]
  unfold State.act State.after
  simp [k1, k2, k3, k4, k5, State.actTime, hr]

theorem exec_measinj {s : State} {who : Who} {v : Word} (hm : machineAccess who = true) (hi : s.initiates who = true) (ha : s.alive = true) (hw : s.Wf)
    (ht : s.testActive = true) :
    exec (.measinj who v) s = .next (s.submitMeas 0 (4 * v.toInt)) := by
  have hS : Acts (R.TIME_TEST) (regAt (R.TIME_TEST).addr) := by decide
  have hA : RegAt (regAt (R.TIME_TEST).addr) .time 0 0x84 0x84 0 := by decide
  have hc : clearMask (regAt (R.TIME_TEST).addr).fam.fields = 0 := by decide
  have hk : (regAt (R.TIME_TEST).addr).fam.fields.filter (isAction (regAt (R.TIME_TEST).addr)) = [] := by decide
  have hp : (regAt (R.TIME_TEST).addr).fam.fields.filter (isPlain (regAt (R.TIME_TEST).addr)) = [] := by decide
  generalize regAt _ = r at hS hA hc hk hp
  obtain ⟨k1, k2, k3, k4, k5⟩ := hA
  have k6 : r.addr = (R.TIME_TEST).addr := hS.2.2.1
  show Host.Outcome.next (s.whenAlive _) = _
  rw [State.whenAlive_of ha, State.wordWrite_act hm hi hw hS hp, State.writeRest_act (by rw [hc]; simp) hk]
  unfold State.act State.after
  simp [k1, k2, k3, k4, k5, State.actTime, ht]

theorem exec_snap {s : State} {who : Who}  (hm : machineAccess who = true) (hi : s.initiates who = true) (ha : s.alive = true) (hw : s.Wf) :
    exec (.snap who) s = .next (s.snapTime) := by
  have hS : Acts (R.TIME_SNAP) (regAt (R.TIME_SNAP).addr) := by decide
  have hA : RegAt (regAt (R.TIME_SNAP).addr) .time 0 0x48 0x48 0 := by decide
  have hc : clearMask (regAt (R.TIME_SNAP).addr).fam.fields = 0 := by decide
  have hk : (regAt (R.TIME_SNAP).addr).fam.fields.filter (isAction (regAt (R.TIME_SNAP).addr)) = [] := by decide
  have hp : (regAt (R.TIME_SNAP).addr).fam.fields.filter (isPlain (regAt (R.TIME_SNAP).addr)) = [] := by decide
  generalize regAt _ = r at hS hA hc hk hp
  obtain ⟨k1, k2, k3, k4, k5⟩ := hA
  have k6 : r.addr = (R.TIME_SNAP).addr := hS.2.2.1
  show Host.Outcome.next (s.whenAlive _) = _
  rw [State.whenAlive_of ha, State.wordWrite_act hm hi hw hS hp, State.writeRest_act (by rw [hc]; simp) hk]
  unfold State.act State.after
  simp [k1, k2, k3, k4, k5, State.actTime, Nat.testBit]

theorem exec_start {s : State} {who : Who} {drive : Fin 3} (hm : machineAccess who = true) (hi : s.initiates who = true) (ha : s.alive = true) (hw : s.Wf)
    (hr : (s.drvCommand drive 1).2 = true) :
    exec (.start who drive) s = .next ((s.drvCommand drive 1).1) := by
  have hS : Acts (R.MD_CMD_OP drive) (regAt (R.MD_CMD_OP drive).addr) := (by decide : ∀ x : Fin 3, Acts (R.MD_CMD_OP x) (regAt (R.MD_CMD_OP x).addr)) drive
  have hA : RegAt (regAt (R.MD_CMD_OP drive).addr) .md drive 0x80 0x80 0 := (by decide : ∀ x : Fin 3, RegAt (regAt (R.MD_CMD_OP x).addr) .md x 0x80 0x80 0) drive
  have hc : clearMask (regAt (R.MD_CMD_OP drive).addr).fam.fields = 0 := (by decide : ∀ x : Fin 3, clearMask (regAt (R.MD_CMD_OP x).addr).fam.fields = 0) drive
  have hk : (regAt (R.MD_CMD_OP drive).addr).fam.fields.filter (isAction (regAt (R.MD_CMD_OP drive).addr)) = [] := (by decide : ∀ x : Fin 3, (regAt (R.MD_CMD_OP x).addr).fam.fields.filter (isAction (regAt (R.MD_CMD_OP x).addr)) = []) drive
  have hp : (regAt (R.MD_CMD_OP drive).addr).fam.fields.filter (isPlain (regAt (R.MD_CMD_OP drive).addr)) = [] := (by decide : ∀ x : Fin 3, (regAt (R.MD_CMD_OP x).addr).fam.fields.filter (isPlain (regAt (R.MD_CMD_OP x).addr)) = []) drive
  generalize regAt _ = r at hS hA hc hk hp
  obtain ⟨k1, k2, k3, k4, k5⟩ := hA
  have k6 : r.addr = (R.MD_CMD_OP drive).addr := hS.2.2.1
  show Host.Outcome.next (s.whenAlive _) = _
  rw [State.whenAlive_of ha, State.fieldWrite_act hm hi hw hS (fun _ _ => State.staging_other (by rw [k1]; decide) (by rw [k1]; decide) _), State.writeRest_act (by rw [hc]; simp) hk]
  rw [State.reparity_nil s hp, State.rmwWord_nil s hp]
  rw [show (insertField 0 (R.MD_CMD_OP drive).hi (R.MD_CMD_OP drive).lo 1).toNat = 1 from by simp [R.MD_CMD_OP, insertField]]
  unfold State.act State.after
  simp [k1, k2, k3, k4, k5, State.actMd, andThen, State.underTest, hr, show Nat.testBit 1 3 = false from by decide]

theorem exec_stop {s : State} {who : Who} {drive : Fin 3} (hm : machineAccess who = true) (hi : s.initiates who = true) (ha : s.alive = true) (hw : s.Wf)
    (hr : (s.drvCommand drive 2).2 = true) :
    exec (.stop who drive) s = .next ((s.drvCommand drive 2).1) := by
  have hS : Acts (R.MD_CMD_OP drive) (regAt (R.MD_CMD_OP drive).addr) := (by decide : ∀ x : Fin 3, Acts (R.MD_CMD_OP x) (regAt (R.MD_CMD_OP x).addr)) drive
  have hA : RegAt (regAt (R.MD_CMD_OP drive).addr) .md drive 0x80 0x80 0 := (by decide : ∀ x : Fin 3, RegAt (regAt (R.MD_CMD_OP x).addr) .md x 0x80 0x80 0) drive
  have hc : clearMask (regAt (R.MD_CMD_OP drive).addr).fam.fields = 0 := (by decide : ∀ x : Fin 3, clearMask (regAt (R.MD_CMD_OP x).addr).fam.fields = 0) drive
  have hk : (regAt (R.MD_CMD_OP drive).addr).fam.fields.filter (isAction (regAt (R.MD_CMD_OP drive).addr)) = [] := (by decide : ∀ x : Fin 3, (regAt (R.MD_CMD_OP x).addr).fam.fields.filter (isAction (regAt (R.MD_CMD_OP x).addr)) = []) drive
  have hp : (regAt (R.MD_CMD_OP drive).addr).fam.fields.filter (isPlain (regAt (R.MD_CMD_OP drive).addr)) = [] := (by decide : ∀ x : Fin 3, (regAt (R.MD_CMD_OP x).addr).fam.fields.filter (isPlain (regAt (R.MD_CMD_OP x).addr)) = []) drive
  generalize regAt _ = r at hS hA hc hk hp
  obtain ⟨k1, k2, k3, k4, k5⟩ := hA
  have k6 : r.addr = (R.MD_CMD_OP drive).addr := hS.2.2.1
  show Host.Outcome.next (s.whenAlive _) = _
  rw [State.whenAlive_of ha, State.fieldWrite_act hm hi hw hS (fun _ _ => State.staging_other (by rw [k1]; decide) (by rw [k1]; decide) _), State.writeRest_act (by rw [hc]; simp) hk]
  rw [State.reparity_nil s hp, State.rmwWord_nil s hp]
  rw [show (insertField 0 (R.MD_CMD_OP drive).hi (R.MD_CMD_OP drive).lo 2).toNat = 2 from by simp [R.MD_CMD_OP, insertField]]
  unfold State.act State.after
  simp [k1, k2, k3, k4, k5, State.actMd, andThen, State.underTest, hr, show Nat.testBit 2 3 = false from by decide]

theorem exec_coast {s : State} {who : Who} {drive : Fin 3} (hm : machineAccess who = true) (hi : s.initiates who = true) (ha : s.alive = true) (hw : s.Wf)
    (hr : (s.drvCommand drive 3).2 = true) :
    exec (.coast who drive) s = .next ((s.drvCommand drive 3).1) := by
  have hS : Acts (R.MD_CMD_OP drive) (regAt (R.MD_CMD_OP drive).addr) := (by decide : ∀ x : Fin 3, Acts (R.MD_CMD_OP x) (regAt (R.MD_CMD_OP x).addr)) drive
  have hA : RegAt (regAt (R.MD_CMD_OP drive).addr) .md drive 0x80 0x80 0 := (by decide : ∀ x : Fin 3, RegAt (regAt (R.MD_CMD_OP x).addr) .md x 0x80 0x80 0) drive
  have hc : clearMask (regAt (R.MD_CMD_OP drive).addr).fam.fields = 0 := (by decide : ∀ x : Fin 3, clearMask (regAt (R.MD_CMD_OP x).addr).fam.fields = 0) drive
  have hk : (regAt (R.MD_CMD_OP drive).addr).fam.fields.filter (isAction (regAt (R.MD_CMD_OP drive).addr)) = [] := (by decide : ∀ x : Fin 3, (regAt (R.MD_CMD_OP x).addr).fam.fields.filter (isAction (regAt (R.MD_CMD_OP x).addr)) = []) drive
  have hp : (regAt (R.MD_CMD_OP drive).addr).fam.fields.filter (isPlain (regAt (R.MD_CMD_OP drive).addr)) = [] := (by decide : ∀ x : Fin 3, (regAt (R.MD_CMD_OP x).addr).fam.fields.filter (isPlain (regAt (R.MD_CMD_OP x).addr)) = []) drive
  generalize regAt _ = r at hS hA hc hk hp
  obtain ⟨k1, k2, k3, k4, k5⟩ := hA
  have k6 : r.addr = (R.MD_CMD_OP drive).addr := hS.2.2.1
  show Host.Outcome.next (s.whenAlive _) = _
  rw [State.whenAlive_of ha, State.fieldWrite_act hm hi hw hS (fun _ _ => State.staging_other (by rw [k1]; decide) (by rw [k1]; decide) _), State.writeRest_act (by rw [hc]; simp) hk]
  rw [State.reparity_nil s hp, State.rmwWord_nil s hp]
  rw [show (insertField 0 (R.MD_CMD_OP drive).hi (R.MD_CMD_OP drive).lo 3).toNat = 3 from by simp [R.MD_CMD_OP, insertField]]
  unfold State.act State.after
  simp [k1, k2, k3, k4, k5, State.actMd, andThen, State.underTest, hr, show Nat.testBit 3 3 = false from by decide]

theorem exec_position {s : State} {who : Who} {drive : Fin 3} (hm : machineAccess who = true) (hi : s.initiates who = true) (ha : s.alive = true) (hw : s.Wf)
    (hr : (s.drvCommand drive 4).2 = true) :
    exec (.position who drive) s = .next ((s.drvCommand drive 4).1) := by
  have hS : Acts (R.MD_CMD_OP drive) (regAt (R.MD_CMD_OP drive).addr) := (by decide : ∀ x : Fin 3, Acts (R.MD_CMD_OP x) (regAt (R.MD_CMD_OP x).addr)) drive
  have hA : RegAt (regAt (R.MD_CMD_OP drive).addr) .md drive 0x80 0x80 0 := (by decide : ∀ x : Fin 3, RegAt (regAt (R.MD_CMD_OP x).addr) .md x 0x80 0x80 0) drive
  have hc : clearMask (regAt (R.MD_CMD_OP drive).addr).fam.fields = 0 := (by decide : ∀ x : Fin 3, clearMask (regAt (R.MD_CMD_OP x).addr).fam.fields = 0) drive
  have hk : (regAt (R.MD_CMD_OP drive).addr).fam.fields.filter (isAction (regAt (R.MD_CMD_OP drive).addr)) = [] := (by decide : ∀ x : Fin 3, (regAt (R.MD_CMD_OP x).addr).fam.fields.filter (isAction (regAt (R.MD_CMD_OP x).addr)) = []) drive
  have hp : (regAt (R.MD_CMD_OP drive).addr).fam.fields.filter (isPlain (regAt (R.MD_CMD_OP drive).addr)) = [] := (by decide : ∀ x : Fin 3, (regAt (R.MD_CMD_OP x).addr).fam.fields.filter (isPlain (regAt (R.MD_CMD_OP x).addr)) = []) drive
  generalize regAt _ = r at hS hA hc hk hp
  obtain ⟨k1, k2, k3, k4, k5⟩ := hA
  have k6 : r.addr = (R.MD_CMD_OP drive).addr := hS.2.2.1
  show Host.Outcome.next (s.whenAlive _) = _
  rw [State.whenAlive_of ha, State.fieldWrite_act hm hi hw hS (fun _ _ => State.staging_other (by rw [k1]; decide) (by rw [k1]; decide) _), State.writeRest_act (by rw [hc]; simp) hk]
  rw [State.reparity_nil s hp, State.rmwWord_nil s hp]
  rw [show (insertField 0 (R.MD_CMD_OP drive).hi (R.MD_CMD_OP drive).lo 4).toNat = 4 from by simp [R.MD_CMD_OP, insertField]]
  unfold State.act State.after
  simp [k1, k2, k3, k4, k5, State.actMd, andThen, State.underTest, hr, show Nat.testBit 4 3 = false from by decide]

theorem exec_stow {s : State} {who : Who} {drive : Fin 3} (hm : machineAccess who = true) (hi : s.initiates who = true) (ha : s.alive = true) (hw : s.Wf)
    (hr : (s.drvCommand drive 5).2 = true) :
    exec (.stow who drive) s = .next ((s.drvCommand drive 5).1) := by
  have hS : Acts (R.MD_CMD_OP drive) (regAt (R.MD_CMD_OP drive).addr) := (by decide : ∀ x : Fin 3, Acts (R.MD_CMD_OP x) (regAt (R.MD_CMD_OP x).addr)) drive
  have hA : RegAt (regAt (R.MD_CMD_OP drive).addr) .md drive 0x80 0x80 0 := (by decide : ∀ x : Fin 3, RegAt (regAt (R.MD_CMD_OP x).addr) .md x 0x80 0x80 0) drive
  have hc : clearMask (regAt (R.MD_CMD_OP drive).addr).fam.fields = 0 := (by decide : ∀ x : Fin 3, clearMask (regAt (R.MD_CMD_OP x).addr).fam.fields = 0) drive
  have hk : (regAt (R.MD_CMD_OP drive).addr).fam.fields.filter (isAction (regAt (R.MD_CMD_OP drive).addr)) = [] := (by decide : ∀ x : Fin 3, (regAt (R.MD_CMD_OP x).addr).fam.fields.filter (isAction (regAt (R.MD_CMD_OP x).addr)) = []) drive
  have hp : (regAt (R.MD_CMD_OP drive).addr).fam.fields.filter (isPlain (regAt (R.MD_CMD_OP drive).addr)) = [] := (by decide : ∀ x : Fin 3, (regAt (R.MD_CMD_OP x).addr).fam.fields.filter (isPlain (regAt (R.MD_CMD_OP x).addr)) = []) drive
  generalize regAt _ = r at hS hA hc hk hp
  obtain ⟨k1, k2, k3, k4, k5⟩ := hA
  have k6 : r.addr = (R.MD_CMD_OP drive).addr := hS.2.2.1
  show Host.Outcome.next (s.whenAlive _) = _
  rw [State.whenAlive_of ha, State.fieldWrite_act hm hi hw hS (fun _ _ => State.staging_other (by rw [k1]; decide) (by rw [k1]; decide) _), State.writeRest_act (by rw [hc]; simp) hk]
  rw [State.reparity_nil s hp, State.rmwWord_nil s hp]
  rw [show (insertField 0 (R.MD_CMD_OP drive).hi (R.MD_CMD_OP drive).lo 5).toNat = 5 from by simp [R.MD_CMD_OP, insertField]]
  unfold State.act State.after
  simp [k1, k2, k3, k4, k5, State.actMd, andThen, State.underTest, hr, show Nat.testBit 5 3 = false from by decide]

theorem exec_home {s : State} {who : Who} {drive : Fin 3} (hm : machineAccess who = true) (hi : s.initiates who = true) (ha : s.alive = true) (hw : s.Wf)
    (hr : (s.drvCommand drive 6).2 = true) :
    exec (.home who drive) s = .next ((s.drvCommand drive 6).1) := by
  have hS : Acts (R.MD_CMD_OP drive) (regAt (R.MD_CMD_OP drive).addr) := (by decide : ∀ x : Fin 3, Acts (R.MD_CMD_OP x) (regAt (R.MD_CMD_OP x).addr)) drive
  have hA : RegAt (regAt (R.MD_CMD_OP drive).addr) .md drive 0x80 0x80 0 := (by decide : ∀ x : Fin 3, RegAt (regAt (R.MD_CMD_OP x).addr) .md x 0x80 0x80 0) drive
  have hc : clearMask (regAt (R.MD_CMD_OP drive).addr).fam.fields = 0 := (by decide : ∀ x : Fin 3, clearMask (regAt (R.MD_CMD_OP x).addr).fam.fields = 0) drive
  have hk : (regAt (R.MD_CMD_OP drive).addr).fam.fields.filter (isAction (regAt (R.MD_CMD_OP drive).addr)) = [] := (by decide : ∀ x : Fin 3, (regAt (R.MD_CMD_OP x).addr).fam.fields.filter (isAction (regAt (R.MD_CMD_OP x).addr)) = []) drive
  have hp : (regAt (R.MD_CMD_OP drive).addr).fam.fields.filter (isPlain (regAt (R.MD_CMD_OP drive).addr)) = [] := (by decide : ∀ x : Fin 3, (regAt (R.MD_CMD_OP x).addr).fam.fields.filter (isPlain (regAt (R.MD_CMD_OP x).addr)) = []) drive
  generalize regAt _ = r at hS hA hc hk hp
  obtain ⟨k1, k2, k3, k4, k5⟩ := hA
  have k6 : r.addr = (R.MD_CMD_OP drive).addr := hS.2.2.1
  show Host.Outcome.next (s.whenAlive _) = _
  rw [State.whenAlive_of ha, State.fieldWrite_act hm hi hw hS (fun _ _ => State.staging_other (by rw [k1]; decide) (by rw [k1]; decide) _), State.writeRest_act (by rw [hc]; simp) hk]
  rw [State.reparity_nil s hp, State.rmwWord_nil s hp]
  rw [show (insertField 0 (R.MD_CMD_OP drive).hi (R.MD_CMD_OP drive).lo 6).toNat = 6 from by simp [R.MD_CMD_OP, insertField]]
  unfold State.act State.after
  simp [k1, k2, k3, k4, k5, State.actMd, andThen, State.underTest, hr, show Nat.testBit 6 3 = false from by decide]

theorem exec_drvInj {s : State} {who : Who} {drive : Fin 3} (hm : machineAccess who = true) (hi : s.initiates who = true) (ha : s.alive = true) (hw : s.Wf)
    (ht : s.testActive = true) :
    exec (.drvInj who drive) s = .next (s.drvFault drive 6) := by
  have hS : Acts (R.MD_CMD_INJ drive) (regAt (R.MD_CMD_INJ drive).addr) := (by decide : ∀ x : Fin 3, Acts (R.MD_CMD_INJ x) (regAt (R.MD_CMD_INJ x).addr)) drive
  have hA : RegAt (regAt (R.MD_CMD_INJ drive).addr) .md drive 0x80 0x80 0 := (by decide : ∀ x : Fin 3, RegAt (regAt (R.MD_CMD_INJ x).addr) .md x 0x80 0x80 0) drive
  have hc : clearMask (regAt (R.MD_CMD_INJ drive).addr).fam.fields = 0 := (by decide : ∀ x : Fin 3, clearMask (regAt (R.MD_CMD_INJ x).addr).fam.fields = 0) drive
  have hk : (regAt (R.MD_CMD_INJ drive).addr).fam.fields.filter (isAction (regAt (R.MD_CMD_INJ drive).addr)) = [] := (by decide : ∀ x : Fin 3, (regAt (R.MD_CMD_INJ x).addr).fam.fields.filter (isAction (regAt (R.MD_CMD_INJ x).addr)) = []) drive
  have hp : (regAt (R.MD_CMD_INJ drive).addr).fam.fields.filter (isPlain (regAt (R.MD_CMD_INJ drive).addr)) = [] := (by decide : ∀ x : Fin 3, (regAt (R.MD_CMD_INJ x).addr).fam.fields.filter (isPlain (regAt (R.MD_CMD_INJ x).addr)) = []) drive
  generalize regAt _ = r at hS hA hc hk hp
  obtain ⟨k1, k2, k3, k4, k5⟩ := hA
  have k6 : r.addr = (R.MD_CMD_INJ drive).addr := hS.2.2.1
  show Host.Outcome.next (s.whenAlive _) = _
  rw [State.whenAlive_of ha, State.fieldWrite_act hm hi hw hS (fun _ _ => State.staging_other (by rw [k1]; decide) (by rw [k1]; decide) _), State.writeRest_act (by rw [hc]; simp) hk]
  rw [State.reparity_nil s hp, State.rmwWord_nil s hp]
  rw [show (insertField 0 (R.MD_CMD_INJ drive).hi (R.MD_CMD_INJ drive).lo 1).toNat = 8 from by simp [R.MD_CMD_INJ, insertField]]
  unfold State.act State.after
  simp [k1, k2, k3, k4, k5, State.actMd, andThen, State.underTest, ht, show Nat.testBit 8 3 = true from by decide]

theorem exec_xinj {s : State} {who : Who}  (hm : machineAccess who = true) (hi : s.initiates who = true) (ha : s.alive = true) (hw : s.Wf)
    (ht : s.testActive = true) :
    exec (.xinj who) s = .next (s.setSafe fun e => { e with xinj := true }) := by
  have hS : Acts (R.SAFE_TEST) (regAt (R.SAFE_TEST).addr) := by decide
  have hA : RegAt (regAt (R.SAFE_TEST).addr) .safe 0 0x64 0x64 0 := by decide
  have hc : clearMask (regAt (R.SAFE_TEST).addr).fam.fields = 0 := by decide
  have hk : (regAt (R.SAFE_TEST).addr).fam.fields.filter (isAction (regAt (R.SAFE_TEST).addr)) = [] := by decide
  have hp : (regAt (R.SAFE_TEST).addr).fam.fields.filter (isPlain (regAt (R.SAFE_TEST).addr)) = [] := by decide
  generalize regAt _ = r at hS hA hc hk hp
  obtain ⟨k1, k2, k3, k4, k5⟩ := hA
  have k6 : r.addr = (R.SAFE_TEST).addr := hS.2.2.1
  show Host.Outcome.next (s.whenAlive _) = _
  rw [State.whenAlive_of ha, State.wordWrite_act hm hi hw hS hp, State.writeRest_act (by rw [hc]; simp) hk]
  unfold State.act State.after
  simp [k1, k2, k3, k4, k5, Nat.testBit, andThen, State.underTest, ht]

theorem exec_oinj {s : State} {who : Who}  (hm : machineAccess who = true) (hi : s.initiates who = true) (ha : s.alive = true) (hw : s.Wf)
    (ht : s.testActive = true) :
    exec (.oinj who) s = .next (s.setSafe fun e => { e with oinj := true }) := by
  have hS : Acts (R.SAFE_TEST) (regAt (R.SAFE_TEST).addr) := by decide
  have hA : RegAt (regAt (R.SAFE_TEST).addr) .safe 0 0x64 0x64 0 := by decide
  have hc : clearMask (regAt (R.SAFE_TEST).addr).fam.fields = 0 := by decide
  have hk : (regAt (R.SAFE_TEST).addr).fam.fields.filter (isAction (regAt (R.SAFE_TEST).addr)) = [] := by decide
  have hp : (regAt (R.SAFE_TEST).addr).fam.fields.filter (isPlain (regAt (R.SAFE_TEST).addr)) = [] := by decide
  generalize regAt _ = r at hS hA hc hk hp
  obtain ⟨k1, k2, k3, k4, k5⟩ := hA
  have k6 : r.addr = (R.SAFE_TEST).addr := hS.2.2.1
  show Host.Outcome.next (s.whenAlive _) = _
  rw [State.whenAlive_of ha, State.wordWrite_act hm hi hw hS hp, State.writeRest_act (by rw [hc]; simp) hk]
  unfold State.act State.after
  simp [k1, k2, k3, k4, k5, Nat.testBit, andThen, State.underTest, ht]

theorem exec_stringFaultClear {s : State} {who : Who} {ch : Fin 32} (hm : machineAccess who = true) (hi : s.initiates who = true) (ha : s.alive = true) (hw : s.Wf)
    (hf : 0x800 &&& (s.reg (R.SLCH_STAT ch).addr).toNat = 0x800)
    (hr : (s.slClear ch).2 = false) :
    exec (.stringFaultClear who ch) s = .next ((s.slClear ch).1) := by
  have hS : Acts (R.SLCH_STAT ch) (regAt (R.SLCH_STAT ch).addr) := (by decide : ∀ x : Fin 32, Acts (R.SLCH_STAT x) (regAt (R.SLCH_STAT x).addr)) ch
  have hA : RegAt (regAt (R.SLCH_STAT ch).addr) .slch ch 0x80 0x80 0 := (by decide : ∀ x : Fin 32, RegAt (regAt (R.SLCH_STAT x).addr) .slch x 0x80 0x80 0) ch
  have hc : 0x800 &&& clearMask (regAt (R.SLCH_STAT ch).addr).fam.fields = 0x800 ∧ 0x800 &&& judgedBits (regAt (R.SLCH_STAT ch).addr) = 0x800 := (by decide : ∀ x : Fin 32, 0x800 &&& clearMask (regAt (R.SLCH_STAT x).addr).fam.fields = 0x800 ∧ 0x800 &&& judgedBits (regAt (R.SLCH_STAT x).addr) = 0x800) ch
  have hk : (regAt (R.SLCH_STAT ch).addr).fam.fields.filter (isAction (regAt (R.SLCH_STAT ch).addr)) = [] := (by decide : ∀ x : Fin 32, (regAt (R.SLCH_STAT x).addr).fam.fields.filter (isAction (regAt (R.SLCH_STAT x).addr)) = []) ch
  have hp : (regAt (R.SLCH_STAT ch).addr).fam.fields.filter (isPlain (regAt (R.SLCH_STAT ch).addr)) = [] := (by decide : ∀ x : Fin 32, (regAt (R.SLCH_STAT x).addr).fam.fields.filter (isPlain (regAt (R.SLCH_STAT x).addr)) = []) ch
  generalize regAt _ = r at hS hA hc hk hp
  obtain ⟨k1, k2, k3, k4, k5⟩ := hA
  have k6 : r.addr = (R.SLCH_STAT ch).addr := hS.2.2.1
  have hit : 0x800 &&& clearMask r.fam.fields &&& (s.reg r.addr).toNat = 0x800 := by rw [hc.1, k6]; exact hf
  show Host.Outcome.next (s.whenAlive _) = _
  have hact : ∀ t : State, t.act r 0x800 false = (t, false) := by
    intro t
    unfold State.act
    simp [k1, k3, k4]
  rw [State.whenAlive_of ha, State.wordWrite_act hm hi hw hS hp]
  show Host.Outcome.next (s.writeRest s who r 0x800 false false false []) = _
  rw [State.writeRest_clear (by rw [hit]; decide) (by rw [hit]; exact hc.2) hk hact, hit]
  unfold State.clearJudged State.after
  simp only [k1, k2, k5]
  simp [show Nat.testBit 2048 11 = true from by decide, hr]

theorem exec_driveFaultClear {s : State} {who : Who} {drive : Fin 3} (hm : machineAccess who = true) (hi : s.initiates who = true) (ha : s.alive = true) (hw : s.Wf)
    (hf : 0x100 &&& (s.reg (R.MD_STAT drive).addr).toNat = 0x100)
    (hr : (s.drvClear drive).2 = false) :
    exec (.driveFaultClear who drive) s = .next ((s.drvClear drive).1) := by
  have hS : Acts (R.MD_STAT drive) (regAt (R.MD_STAT drive).addr) := (by decide : ∀ x : Fin 3, Acts (R.MD_STAT x) (regAt (R.MD_STAT x).addr)) drive
  have hA : RegAt (regAt (R.MD_STAT drive).addr) .md drive 0xA0 0xA0 0 := (by decide : ∀ x : Fin 3, RegAt (regAt (R.MD_STAT x).addr) .md x 0xA0 0xA0 0) drive
  have hc : 0x100 &&& clearMask (regAt (R.MD_STAT drive).addr).fam.fields = 0x100 ∧ 0x100 &&& judgedBits (regAt (R.MD_STAT drive).addr) = 0x100 := (by decide : ∀ x : Fin 3, 0x100 &&& clearMask (regAt (R.MD_STAT x).addr).fam.fields = 0x100 ∧ 0x100 &&& judgedBits (regAt (R.MD_STAT x).addr) = 0x100) drive
  have hk : (regAt (R.MD_STAT drive).addr).fam.fields.filter (isAction (regAt (R.MD_STAT drive).addr)) = [] := (by decide : ∀ x : Fin 3, (regAt (R.MD_STAT x).addr).fam.fields.filter (isAction (regAt (R.MD_STAT x).addr)) = []) drive
  have hp : (regAt (R.MD_STAT drive).addr).fam.fields.filter (isPlain (regAt (R.MD_STAT drive).addr)) = [] := (by decide : ∀ x : Fin 3, (regAt (R.MD_STAT x).addr).fam.fields.filter (isPlain (regAt (R.MD_STAT x).addr)) = []) drive
  generalize regAt _ = r at hS hA hc hk hp
  obtain ⟨k1, k2, k3, k4, k5⟩ := hA
  have k6 : r.addr = (R.MD_STAT drive).addr := hS.2.2.1
  have hit : 0x100 &&& clearMask r.fam.fields &&& (s.reg r.addr).toNat = 0x100 := by rw [hc.1, k6]; exact hf
  show Host.Outcome.next (s.whenAlive _) = _
  have hact : ∀ t : State, t.act r 0x100 false = (t, false) := by
    intro t
    unfold State.act
    simp [k1, k3, k4]
  rw [State.whenAlive_of ha, State.wordWrite_act hm hi hw hS hp]
  show Host.Outcome.next (s.writeRest s who r 0x100 false false false []) = _
  rw [State.writeRest_clear (by rw [hit]; decide) (by rw [hit]; exact hc.2) hk hact, hit]
  unfold State.clearJudged State.after
  simp only [k1, k2, k5]
  simp [show Nat.testBit 256 8 = true from by decide, hr, k3]

theorem exec_allOffClear {s : State} {who : Who}  (hm : machineAccess who = true) (hi : s.initiates who = true) (ha : s.alive = true) (hw : s.Wf)
    (hf : 1 &&& (s.reg (R.TRIP_STAT).addr).toNat = 1)
    (hr : s.clearAllOff.2 = false) :
    exec (.channelClear who 8) s = .next (s.clearAllOff.1.safeSync) := by
  have hS : Acts (R.TRIP_STAT) (regAt (R.TRIP_STAT).addr) := by decide
  have hA : RegAt (regAt (R.TRIP_STAT).addr) .tripp 0 0x44 0x44 0 := by decide
  have hc : 1 &&& clearMask (regAt (R.TRIP_STAT).addr).fam.fields = 1 ∧ 1 &&& judgedBits (regAt (R.TRIP_STAT).addr) = 1 := by decide
  have hk : (regAt (R.TRIP_STAT).addr).fam.fields.filter (isAction (regAt (R.TRIP_STAT).addr)) = [] := by decide
  have hp : (regAt (R.TRIP_STAT).addr).fam.fields.filter (isPlain (regAt (R.TRIP_STAT).addr)) = [] := by decide
  generalize regAt _ = r at hS hA hc hk hp
  obtain ⟨k1, k2, k3, k4, k5⟩ := hA
  have k6 : r.addr = (R.TRIP_STAT).addr := hS.2.2.1
  have hit : 1 &&& clearMask r.fam.fields &&& (s.reg r.addr).toNat = 1 := by rw [hc.1, k6]; exact hf
  show Host.Outcome.next (s.whenAlive fun s => s.wordWrite who R.TRIP_STAT 1) = _
  have hact : ∀ t : State, t.act r 1 false = (t, false) := by
    intro t
    unfold State.act
    simp [k1, k3, k4]
  rw [State.whenAlive_of ha, State.wordWrite_act hm hi hw hS hp]
  show Host.Outcome.next (s.writeRest s who r 1 false false false []) = _
  rw [State.writeRest_clear (by rw [hit]; decide) (by rw [hit]; exact hc.2) hk hact, hit]
  unfold State.clearJudged State.after
  simp only [k1, k2, k5]
  simp [hr, k3]

theorem exec_channelClear {s : State} {who : Who} {x : Fin 8} (hm : machineAccess who = true) (hi : s.initiates who = true) (ha : s.alive = true) (hw : s.Wf)
    (hf : 1 &&& (s.reg (R.TCH_STAT x).addr).toNat = 1)
    (hr : (s.clearChannel x).2 = false) :
    exec (.channelClear who ⟨x, by omega⟩) s = .next (if (s.clearChannel x).1.reg (R.TCH_STAT x).addr = s.reg (R.TCH_STAT x).addr then (s.clearChannel x).1 else ((s.clearChannel x).1.evalChannel x).refreshTripped) := by
  have hS : Acts (R.TCH_STAT x) (regAt (R.TCH_STAT x).addr) := (by decide : ∀ x : Fin 8, Acts (R.TCH_STAT x) (regAt (R.TCH_STAT x).addr)) x
  have hA : RegAt (regAt (R.TCH_STAT x).addr) .tripp 0 (0x94 + 32 * x) 0x94 x := (by decide : ∀ x : Fin 8, RegAt (regAt (R.TCH_STAT x).addr) .tripp 0 (0x94 + 32 * x) 0x94 x) x
  have hc : 1 &&& clearMask (regAt (R.TCH_STAT x).addr).fam.fields = 1 ∧ 1 &&& judgedBits (regAt (R.TCH_STAT x).addr) = 1 := (by decide : ∀ x : Fin 8, 1 &&& clearMask (regAt (R.TCH_STAT x).addr).fam.fields = 1 ∧ 1 &&& judgedBits (regAt (R.TCH_STAT x).addr) = 1) x
  have hk : (regAt (R.TCH_STAT x).addr).fam.fields.filter (isAction (regAt (R.TCH_STAT x).addr)) = [] := (by decide : ∀ x : Fin 8, (regAt (R.TCH_STAT x).addr).fam.fields.filter (isAction (regAt (R.TCH_STAT x).addr)) = []) x
  have hp : (regAt (R.TCH_STAT x).addr).fam.fields.filter (isPlain (regAt (R.TCH_STAT x).addr)) = [] := (by decide : ∀ x : Fin 8, (regAt (R.TCH_STAT x).addr).fam.fields.filter (isPlain (regAt (R.TCH_STAT x).addr)) = []) x
  generalize regAt _ = r at hS hA hc hk hp
  obtain ⟨k1, k2, k3, k4, k5⟩ := hA
  have k6 : r.addr = (R.TCH_STAT x).addr := hS.2.2.1
  have hit : 1 &&& clearMask r.fam.fields &&& (s.reg r.addr).toNat = 1 := by rw [hc.1, k6]; exact hf
  have n1 : ¬ r.off = 28 := by omega
  have n2 : ¬ r.off < 64 := by omega
  show Host.Outcome.next (s.whenAlive fun s => s.wordWrite who (if x.val = 8 then R.TRIP_STAT else R.TCH_STAT x) 1) = _
  have hact : ∀ t : State, t.act r 1 false = (t, false) := by
    intro t
    unfold State.act
    simp [k1, n1, n2, k4]
  rw [State.whenAlive_of ha, if_neg (by omega : ¬ x.val = 8), State.wordWrite_act hm hi hw hS hp]
  show Host.Outcome.next (s.writeRest s who r 1 false false false []) = _
  rw [State.writeRest_clear (by rw [hit]; decide) (by rw [hit]; exact hc.2) hk hact, hit]
  unfold State.clearJudged State.after
  simp only [k1, k2, k5]
  have n3 : ¬ r.off = 68 := by omega
  have n4 : ¬ r.off = 388 := by omega
  have n5 : ¬ r.off = 384 := by omega
  have n6 : 128 ≤ r.off := by omega
  simp only [n2, n3, n4, n5, n6, k6, show Nat.testBit 1 0 = true from rfl, hr, if_true, if_false]
  by_cases h : (s.clearChannel x).1.reg (R.TCH_STAT x).addr = s.reg (R.TCH_STAT x).addr <;> simp [h]

theorem exec_brkFaultClear {s : State} {who : Who} {k : Fin 2} {v : Word} (hm : machineAccess who = true) (hi : s.initiates who = true) (ha : s.alive = true) (hw : s.Wf)
    (hM : v.toNat &&& 0xC = v.toNat) (h0 : v.toNat &&& (s.reg (R.BRK_STAT k).addr).toNat ≠ 0)
    (hr : (s.brkClear k (v.toNat &&& (s.reg (R.BRK_STAT k).addr).toNat)).2 = false) :
    exec (.brkFaultClear who k v) s = .next ((s.brkClear k (v.toNat &&& (s.reg (R.BRK_STAT k).addr).toNat)).1) := by
  have hS : Acts (R.BRK_STAT k) (regAt (R.BRK_STAT k).addr) := (by decide : ∀ x : Fin 2, Acts (R.BRK_STAT x) (regAt (R.BRK_STAT x).addr)) k
  have hA : RegAt (regAt (R.BRK_STAT k).addr) .brk 0 (0x50 + 32 * k) 0x50 k := (by decide : ∀ x : Fin 2, RegAt (regAt (R.BRK_STAT x).addr) .brk 0 (0x50 + 32 * x) 0x50 x) k
  have hc : 0xC &&& clearMask (regAt (R.BRK_STAT k).addr).fam.fields = 0xC ∧ 0xC &&& judgedBits (regAt (R.BRK_STAT k).addr) = 0xC := (by decide : ∀ x : Fin 2, 0xC &&& clearMask (regAt (R.BRK_STAT x).addr).fam.fields = 0xC ∧ 0xC &&& judgedBits (regAt (R.BRK_STAT x).addr) = 0xC) k
  have hk : (regAt (R.BRK_STAT k).addr).fam.fields.filter (isAction (regAt (R.BRK_STAT k).addr)) = [] := (by decide : ∀ x : Fin 2, (regAt (R.BRK_STAT x).addr).fam.fields.filter (isAction (regAt (R.BRK_STAT x).addr)) = []) k
  have hp : (regAt (R.BRK_STAT k).addr).fam.fields.filter (isPlain (regAt (R.BRK_STAT k).addr)) = [] := (by decide : ∀ x : Fin 2, (regAt (R.BRK_STAT x).addr).fam.fields.filter (isPlain (regAt (R.BRK_STAT x).addr)) = []) k
  generalize regAt _ = r at hS hA hc hk hp
  obtain ⟨k1, k2, k3, k4, k5⟩ := hA
  have k6 : r.addr = (R.BRK_STAT k).addr := hS.2.2.1
  have e1 : v.toNat &&& clearMask r.fam.fields = v.toNat := by rw [← hM, Nat.and_assoc, hc.1]
  have e2 : v.toNat &&& judgedBits r = v.toNat := by rw [← hM, Nat.and_assoc, hc.2]
  have e3 : v.toNat &&& clearMask r.fam.fields &&& (s.reg r.addr).toNat = v.toNat &&& (s.reg (R.BRK_STAT k).addr).toNat := by rw [e1, k6]
  have e4 : v.toNat &&& (s.reg (R.BRK_STAT k).addr).toNat &&& judgedBits r = v.toNat &&& (s.reg (R.BRK_STAT k).addr).toNat := by
    rw [Nat.and_assoc, Nat.and_comm (s.reg (R.BRK_STAT k).addr).toNat, ← Nat.and_assoc, e2]
  have n1 : ¬ r.off = 28 := by omega
  have n2 : ¬ r.off < 64 := by omega
  show Host.Outcome.next (s.whenAlive _) = _
  have hact : ∀ t : State, t.act r v.toNat false = (t, false) := by
    intro t
    unfold State.act
    simp [k1, n1, n2, k4]
  rw [State.whenAlive_of ha, State.wordWrite_act hm hi hw hS hp, State.writeRest_clear (by rw [e3]; exact h0) (by rw [e3]; exact e4) hk hact, e3]
  unfold State.clearJudged State.after
  simp only [k1, k2, k5]
  simp [n2, k4, hr]

theorem exec_tripClear {s : State} {who : Who} {port leg : Fin 8} {v : Word} (hm : machineAccess who = true) (hi : s.initiates who = true) (ha : s.alive = true) (hw : s.Wf)
    (hM : v.toNat &&& 0xFF = v.toNat) (h0 : v.toNat &&& (s.reg (R.PROT_LATCH port leg).addr).toNat ≠ 0)
    (hr : (s.clearLatch (8 * port + leg) (v.toNat &&& (s.reg (R.PROT_LATCH port leg).addr).toNat)).2 = false) :
    exec (.tripClear who port leg v) s = .next ((s.clearLatch (8 * port + leg) (v.toNat &&& (s.reg (R.PROT_LATCH port leg).addr).toNat)).1) := by
  have hS : Acts (R.PROT_LATCH port leg) (regAt (R.PROT_LATCH port leg).addr) := (by decide : ∀ (x : Fin 8) (y : Fin 8), Acts (R.PROT_LATCH x y) (regAt (R.PROT_LATCH x y).addr)) port leg
  have hA : RegAt (regAt (R.PROT_LATCH port leg).addr) .prot port (0x44 + 32 * leg) 0x44 leg := (by decide : ∀ (x : Fin 8) (y : Fin 8), RegAt (regAt (R.PROT_LATCH x y).addr) .prot x (0x44 + 32 * y) 0x44 y) port leg
  have hc : 0xFF &&& clearMask (regAt (R.PROT_LATCH port leg).addr).fam.fields = 0xFF ∧ 0xFF &&& judgedBits (regAt (R.PROT_LATCH port leg).addr) = 0xFF := (by decide : ∀ (x : Fin 8) (y : Fin 8), 0xFF &&& clearMask (regAt (R.PROT_LATCH x y).addr).fam.fields = 0xFF ∧ 0xFF &&& judgedBits (regAt (R.PROT_LATCH x y).addr) = 0xFF) port leg
  have hk : (regAt (R.PROT_LATCH port leg).addr).fam.fields.filter (isAction (regAt (R.PROT_LATCH port leg).addr)) = [] := (by decide : ∀ (x : Fin 8) (y : Fin 8), (regAt (R.PROT_LATCH x y).addr).fam.fields.filter (isAction (regAt (R.PROT_LATCH x y).addr)) = []) port leg
  have hp : (regAt (R.PROT_LATCH port leg).addr).fam.fields.filter (isPlain (regAt (R.PROT_LATCH port leg).addr)) = [] := (by decide : ∀ (x : Fin 8) (y : Fin 8), (regAt (R.PROT_LATCH x y).addr).fam.fields.filter (isPlain (regAt (R.PROT_LATCH x y).addr)) = []) port leg
  generalize regAt _ = r at hS hA hc hk hp
  obtain ⟨k1, k2, k3, k4, k5⟩ := hA
  have k6 : r.addr = (R.PROT_LATCH port leg).addr := hS.2.2.1
  have e1 : v.toNat &&& clearMask r.fam.fields = v.toNat := by rw [← hM, Nat.and_assoc, hc.1]
  have e2 : v.toNat &&& judgedBits r = v.toNat := by rw [← hM, Nat.and_assoc, hc.2]
  have e3 : v.toNat &&& clearMask r.fam.fields &&& (s.reg r.addr).toNat = v.toNat &&& (s.reg (R.PROT_LATCH port leg).addr).toNat := by rw [e1, k6]
  have e4 : v.toNat &&& (s.reg (R.PROT_LATCH port leg).addr).toNat &&& judgedBits r = v.toNat &&& (s.reg (R.PROT_LATCH port leg).addr).toNat := by
    rw [Nat.and_assoc, Nat.and_comm (s.reg (R.PROT_LATCH port leg).addr).toNat, ← Nat.and_assoc, e2]
  have n1 : ¬ r.off = 28 := by omega
  have n2 : ¬ r.off < 64 := by omega
  have n3 : ¬ (r.off < 320 ∧ (r.off - 64) % 32 = 0) := by omega
  have n4 : ¬ 8 ≤ (r.off - 64) % 32 := by omega
  show Host.Outcome.next (s.whenAlive _) = _
  have hact : ∀ t : State, t.act r v.toNat false = (t, false) := by
    intro t
    unfold State.act
    simp [k1, n1, n2, n3, k4]
  rw [State.whenAlive_of ha, State.wordWrite_act hm hi hw hS hp, State.writeRest_clear (by rw [e3]; exact h0) (by rw [e3]; exact e4) hk hact, e3]
  unfold State.clearJudged State.after
  simp only [k1, k2, k5]
  simp [n2, n4, hr]

theorem exec_supLatchClear {s : State} {who : Who} {v : Word} (hm : machineAccess who = true) (hi : s.initiates who = true) (ha : s.alive = true) (hw : s.Wf)
    (h0 : v.toNat &&& (s.reg R.CE_SUP_FLT.addr).toNat ≠ 0) :
    exec (.supLatchClear who v) s = .next ((s.setReg R.CE_SUP_FLT.addr
      (BitVec.ofNat 32 ((s.reg R.CE_SUP_FLT.addr).toNat - (v.toNat &&& (s.reg R.CE_SUP_FLT.addr).toNat)))).supClear
      (v.toNat &&& (s.reg R.CE_SUP_FLT.addr).toNat)) := by
  have hS : Acts R.CE_SUP_FLT (regAt R.CE_SUP_FLT.addr) := by decide
  have hA : RegAt (regAt R.CE_SUP_FLT.addr) .cesup 0 0x44 0x44 0 := by decide
  have hc : clearMask (regAt R.CE_SUP_FLT.addr).fam.fields = 2 ^ 32 - 1 := by decide
  have hk : (regAt R.CE_SUP_FLT.addr).fam.fields.filter (isAction (regAt R.CE_SUP_FLT.addr)) = [] := by decide
  have hp : (regAt R.CE_SUP_FLT.addr).fam.fields.filter (isPlain (regAt R.CE_SUP_FLT.addr)) = [] := by decide
  generalize regAt _ = r at hS hA hc hk hp
  obtain ⟨k1, k2, k3, k4, k5⟩ := hA
  have k6 : r.addr = R.CE_SUP_FLT.addr := hS.2.2.1
  have e1 : v.toNat &&& (2 ^ 32 - 1) = v.toNat := by rw [Nat.and_two_pow_sub_one_eq_mod]; exact Nat.mod_eq_of_lt v.isLt
  have e2 : judgedBits r = 0 := by unfold judgedBits; simp [k1, k3]
  have hka : ∀ t : State, t.actKeyed r v.toNat = (t, false, []) := by
    intro t
    unfold State.actKeyed
    simp only [hk, List.map_nil, List.all_nil, if_true]
  have hact : ∀ t : State, t.act r v.toNat false = (t, false) := by
    intro t
    unfold State.act
    simp [k1, k3]
  have haft : ∀ t : State, s.after t r v.toNat false = t := by
    intro t
    unfold State.after
    simp [k1, k3]
  show Host.Outcome.next (s.whenAlive _) = _
  rw [State.whenAlive_of ha, State.wordWrite_act hm hi hw hS hp]
  unfold State.writeRest State.cleared
  simp only [hc, e1, e2, Nat.and_zero, Nat.sub_zero, if_true, hact, haft, hka, k6, if_neg h0, k1, k3]
  rfl

theorem exec_swrst {s : State} {who : Who}  (hm : machineAccess who = true) (hi : s.initiates who = true) (ha : s.alive = true) (hw : s.Wf)
    (hk : s.keyOpen (pageBase .sys 0) = true) :
    exec (.swrst who) s = .next ((s.resetRequest 2).setKey (pageBase .sys 0) none) := by
  have hS : Acts (R.SYS_RST_CTL_SWRST) (regAt (R.SYS_RST_CTL_SWRST).addr) := by decide
  have hA : RegAt (regAt (R.SYS_RST_CTL_SWRST).addr) .sys 0 0x48 0x48 0 := by decide
  have hc : clearMask (regAt (R.SYS_RST_CTL_SWRST).addr).fam.fields = 0 := by decide
  have hp : (regAt (R.SYS_RST_CTL_SWRST).addr).fam.fields.filter (isPlain (regAt (R.SYS_RST_CTL_SWRST).addr)) = [] := by decide
  have hl : ∀ w : Nat, ((regAt (R.SYS_RST_CTL_SWRST).addr).fam.fields.filter (isAction (regAt (R.SYS_RST_CTL_SWRST).addr))).map (fun f => fieldOf (BitVec.ofNat 32 w) f.hi f.lo) = [fieldOf (BitVec.ofNat 32 w) 0 0] := by
    intro w
    rw [show (regAt (R.SYS_RST_CTL_SWRST).addr).fam.fields.filter (isAction (regAt (R.SYS_RST_CTL_SWRST).addr)) = [fld 0 0 .rwk 0] by decide]
    rfl
  generalize regAt _ = r at hS hA hc hp hl
  obtain ⟨k1, k2, k3, k4, k5⟩ := hA
  have k6 : r.addr = (R.SYS_RST_CTL_SWRST).addr := hS.2.2.1
  show Host.Outcome.next (s.whenAlive _) = _
  rw [State.whenAlive_of ha, State.fieldWrite_act hm hi hw hS (fun _ _ => State.staging_other (by rw [k1]; decide) (by rw [k1]; decide) _)]
  rw [State.reparity_nil s hp, State.rmwWord_nil s hp, show (insertField 0 R.SYS_RST_CTL_SWRST.hi R.SYS_RST_CTL_SWRST.lo 1).toNat = 1 from by decide]
  have hact : ∀ t : State, t.act r (1) false = (t, false) := by
    intro t
    unfold State.act
    simp [k1, k3]
  have haft : ∀ t : State, (t.reg r.addr = s.reg r.addr) → s.after t r (1) false = t := by
    intro t h
    unfold State.after
    simp [k1, k3, h]
  unfold State.writeRest
  simp only [hc, Nat.and_zero, Nat.zero_and, Nat.sub_self, if_true, hact, Bool.false_eq_true, if_false, Bool.or_false, Bool.false_or,
    List.nil_append]
  rw [haft s rfl]
  unfold State.actKeyed
  simp only [hl]
  simp [hl, show fieldOf (BitVec.ofNat 32 1) 0 0 = 1 from by decide, k1, k2, hk, minCause]

theorem exec_meterClear {s : State} {who : Who} {v : Word} (hm : machineAccess who = true) (hi : s.initiates who = true) (ha : s.alive = true) (hw : s.Wf)
    (hk : s.keyOpen (pageBase .macc 0) = true) (hs : s.sys.sealed = false) (hv : fieldOf v 7 0 = 0x5A) :
    exec (.meterClear who v) s = .next (s.clearMeter.setKey (pageBase .macc 0) none) := by
  have hS : Acts (R.METER_ACC_CLR) (regAt (R.METER_ACC_CLR).addr) := by decide
  have hA : RegAt (regAt (R.METER_ACC_CLR).addr) .macc 0 0x40 0x40 0 := by decide
  have hc : clearMask (regAt (R.METER_ACC_CLR).addr).fam.fields = 0 := by decide
  have hp : (regAt (R.METER_ACC_CLR).addr).fam.fields.filter (isPlain (regAt (R.METER_ACC_CLR).addr)) = [] := by decide
  have hl : ∀ w : Nat, ((regAt (R.METER_ACC_CLR).addr).fam.fields.filter (isAction (regAt (R.METER_ACC_CLR).addr))).map (fun f => fieldOf (BitVec.ofNat 32 w) f.hi f.lo) = [fieldOf (BitVec.ofNat 32 w) 7 0] := by
    intro w
    rw [show (regAt (R.METER_ACC_CLR).addr).fam.fields.filter (isAction (regAt (R.METER_ACC_CLR).addr)) = [fld 7 0 .rwk 0] by decide]
    rfl
  generalize regAt _ = r at hS hA hc hp hl
  obtain ⟨k1, k2, k3, k4, k5⟩ := hA
  have k6 : r.addr = (R.METER_ACC_CLR).addr := hS.2.2.1
  show Host.Outcome.next (s.whenAlive _) = _
  rw [State.whenAlive_of ha, State.wordWrite_act hm hi hw hS hp]
  have hact : ∀ t : State, t.act r (v.toNat) false = (t, false) := by
    intro t
    unfold State.act
    simp [k1, k3]
  have haft : ∀ t : State, (t.reg r.addr = s.reg r.addr) → s.after t r (v.toNat) false = t := by
    intro t h
    unfold State.after
    simp [k1, k3, h]
  unfold State.writeRest
  simp only [hc, Nat.and_zero, Nat.zero_and, Nat.sub_self, if_true, hact, Bool.false_eq_true, if_false, Bool.or_false, Bool.false_or,
    List.nil_append]
  rw [haft s rfl]
  unfold State.actKeyed
  simp only [hl]
  simp [hl, hv, hs, k1, k2, hk, minCause]

theorem exec_driveRelease {s : State} {who : Who} {v : Word} (hm : machineAccess who = true) (hi : s.initiates who = true) (ha : s.alive = true) (hw : s.Wf)
    (hk : s.keyOpen (pageBase .sfn 0) = true) (hv : fieldOf v 2 0 ≠ 0) :
    exec (.driveRelease who v) s = .next ((s.driveRelease (v.toNat % 8)).setKey (pageBase .sfn 0) none) := by
  have hS : Acts (R.SAFE_DRV_REL) (regAt (R.SAFE_DRV_REL).addr) := by decide
  have hA : RegAt (regAt (R.SAFE_DRV_REL).addr) .sfn 0 0xC0 0xC0 0 := by decide
  have hc : clearMask (regAt (R.SAFE_DRV_REL).addr).fam.fields = 0 := by decide
  have hp : (regAt (R.SAFE_DRV_REL).addr).fam.fields.filter (isPlain (regAt (R.SAFE_DRV_REL).addr)) = [] := by decide
  have hl : ∀ w : Nat, ((regAt (R.SAFE_DRV_REL).addr).fam.fields.filter (isAction (regAt (R.SAFE_DRV_REL).addr))).map (fun f => fieldOf (BitVec.ofNat 32 w) f.hi f.lo) = [fieldOf (BitVec.ofNat 32 w) 2 0] := by
    intro w
    rw [show (regAt (R.SAFE_DRV_REL).addr).fam.fields.filter (isAction (regAt (R.SAFE_DRV_REL).addr)) = [fld 2 0 .rwk 0] by decide]
    rfl
  generalize regAt _ = r at hS hA hc hp hl
  obtain ⟨k1, k2, k3, k4, k5⟩ := hA
  have k6 : r.addr = (R.SAFE_DRV_REL).addr := hS.2.2.1
  show Host.Outcome.next (s.whenAlive _) = _
  rw [State.whenAlive_of ha, State.wordWrite_act hm hi hw hS hp]
  have hact : ∀ t : State, t.act r (v.toNat) false = (t, false) := by
    intro t
    unfold State.act
    simp [k1, k3]
  have haft : ∀ t : State, (t.reg r.addr = s.reg r.addr) → s.after t r (v.toNat) false = t := by
    intro t h
    unfold State.after
    simp [k1, k3, h]
  unfold State.writeRest
  simp only [hc, Nat.and_zero, Nat.zero_and, Nat.sub_self, if_true, hact, Bool.false_eq_true, if_false, Bool.or_false, Bool.false_or,
    List.nil_append]
  rw [haft s rfl]
  unfold State.actKeyed
  simp only [hl]
  simp [hl, hv, k1, k2, hk, minCause]

theorem exec_release {s : State} {who : Who}  (hm : machineAccess who = true) (hi : s.initiates who = true) (ha : s.alive = true) (hw : s.Wf)
    (hk : s.keyOpen (pageBase .safe 0) = true) :
    exec (.release who) s = .next (((s.reparity (regAt R.SAFE_CTL_RELEASE.addr)).plantRelease).setKey (pageBase .safe 0) none) := by
  have hS : Acts (R.SAFE_CTL_RELEASE) (regAt (R.SAFE_CTL_RELEASE).addr) := by decide
  have hA : RegAt (regAt (R.SAFE_CTL_RELEASE).addr) .safe 0 0x40 0x40 0 := by decide
  have hc : clearMask (regAt (R.SAFE_CTL_RELEASE).addr).fam.fields = 0 := by decide
  have hl : ∀ w : Nat, ((regAt (R.SAFE_CTL_RELEASE).addr).fam.fields.filter (isAction (regAt (R.SAFE_CTL_RELEASE).addr))).map (fun f => fieldOf (BitVec.ofNat 32 w) f.hi f.lo) = [fieldOf (BitVec.ofNat 32 w) 0 0] := by
    intro w
    rw [show (regAt (R.SAFE_CTL_RELEASE).addr).fam.fields.filter (isAction (regAt (R.SAFE_CTL_RELEASE).addr)) = [fld 0 0 .rwk 0] by decide]
    rfl
  generalize regAt _ = r at hS hA hc hl
  obtain ⟨k1, k2, k3, k4, k5⟩ := hA
  have k6 : r.addr = (R.SAFE_CTL_RELEASE).addr := hS.2.2.1
  show Host.Outcome.next (s.whenAlive _) = _
  rw [State.whenAlive_of ha, State.fieldWrite_act hm hi hw hS (fun _ _ => State.staging_other (by rw [k1]; decide) (by rw [k1]; decide) _)]
  have hb : (s.rmwWord r R.SAFE_CTL_RELEASE 1).testBit 0 = true := by
    rw [State.rmwWord_self _ _ _ _ _ hS.2.2.2.2.2.2.1 (by decide)]; rfl
  have hf : fieldOf (BitVec.ofNat 32 (s.rmwWord r R.SAFE_CTL_RELEASE 1)) 0 0 = 1 := by
    unfold fieldOf
    rw [BitVec.toNat_ofNat]
    have : s.rmwWord r R.SAFE_CTL_RELEASE 1 % 2 = 1 := by
      rw [Nat.testBit_zero] at hb
      simpa using hb
    omega
  have hk2 : (s.reparity r).keyOpen (pageBase .safe 0) = true := by simpa using hk
  have hact : ∀ t : State, t.act r (s.rmwWord r R.SAFE_CTL_RELEASE 1) false = (t, false) := by
    intro t
    unfold State.act
    simp [k1, k3]
  have haft : ∀ t : State, (t.reg r.addr = s.reg r.addr) → s.after t r (s.rmwWord r R.SAFE_CTL_RELEASE 1) false = t := by
    intro t h
    unfold State.after
    simp [k1, k3, h]
  unfold State.writeRest
  simp only [hc, Nat.and_zero, Nat.zero_and, Nat.sub_self, if_true, hact, Bool.false_eq_true, if_false, Bool.or_false, Bool.false_or,
    List.nil_append]
  rw [haft (s.reparity r) (by simp)]
  unfold State.actKeyed
  simp only [hl]
  simp [hl, hf, k1, k2, hk2, minCause]

theorem exec_commit {s : State} {who : Who} {group : Fin 16} {al : Bool} (hm : machineAccess who = true) (hi : s.initiates who = true) (ha : s.alive = true) (hw : s.Wf) :
    exec (.commit who group al) s = .next (s.commitGroup group al) := by
  have hS : Acts (R.COM_COMMIT) (regAt (R.COM_COMMIT).addr) := by decide
  have hA : RegAt (regAt (R.COM_COMMIT).addr) .com 0 0x44 0x44 0 := by decide
  have hc : clearMask (regAt (R.COM_COMMIT).addr).fam.fields = 0 := by decide
  have hk : (regAt (R.COM_COMMIT).addr).fam.fields.filter (isAction (regAt (R.COM_COMMIT).addr)) = [] := by decide
  have hp : (regAt (R.COM_COMMIT).addr).fam.fields.filter (isPlain (regAt (R.COM_COMMIT).addr)) = [] := by decide
  generalize regAt _ = r at hS hA hc hk hp
  obtain ⟨k1, k2, k3, k4, k5⟩ := hA
  have k6 : r.addr = (R.COM_COMMIT).addr := hS.2.2.1
  show Host.Outcome.next (s.whenAlive _) = _
  rw [State.whenAlive_of ha, State.writeReg_act hm hi hw hS hp, State.writeRest_act (by rw [hc]; simp) hk]
  have hg : (List.range 16).filter (fun g => (2 ^ group.val).testBit g) = [group.val] :=
    (by decide : ∀ x : Fin 16, (List.range 16).filter (fun g => (2 ^ x.val).testBit g) = [x.val]) group
  unfold State.act State.after
  simp [k1, k2, k3, k4, k5, hg, State.forEach]

/-- RING_CFG with the fields of a word written to it. -/
def ringCfgWord (w v : Word) : Word :=
  insertField (insertField (insertField w 31 16 (fieldOf v 31 16)) 8 4 (fieldOf v 8 4)) 0 0 (fieldOf v 0 0)

theorem ringCfgWord_fields (w v : Word) :
    fieldOf (ringCfgWord w v) 31 16 = fieldOf v 31 16 ∧ fieldOf (ringCfgWord w v) 8 4 = fieldOf v 8 4 ∧
      fieldOf (ringCfgWord w v) 0 0 = fieldOf v 0 0 := by
  unfold ringCfgWord
  refine ⟨?_, ?_, ?_⟩
  · rw [fieldOf_insertField_ne _ _ _ _ _ _ (by decide) (by decide) (by decide) (by decide),
      fieldOf_insertField_ne _ _ _ _ _ _ (by decide) (by decide) (by decide) (by decide),
      fieldOf_insertField _ _ _ _ (by decide) (by decide)]
    exact Nat.mod_eq_of_lt (fieldOf_lt _ _ _)
  · rw [fieldOf_insertField_ne _ _ _ _ _ _ (by decide) (by decide) (by decide) (by decide),
      fieldOf_insertField _ _ _ _ (by decide) (by decide)]
    exact Nat.mod_eq_of_lt (fieldOf_lt _ _ _)
  · rw [fieldOf_insertField _ _ _ _ (by decide) (by decide)]
    exact Nat.mod_eq_of_lt (fieldOf_lt _ _ _)

/-- A write of RING_CFG, none of it refused. -/
theorem State.ringCfg_accept {s : State} {who : Who} {ring : Fin 48} {v : Word} (hm : machineAccess who = true) (hi : s.initiates who = true)
    (h1 : fieldOf v 8 4 = s.get (R.RING_CFG_LOG2N ring) ∨ (s.ringOn ring = false ∧ 4 ≤ fieldOf v 8 4 ∧ fieldOf v 8 4 ≤ 16))
    (h2 : fieldOf v 0 0 = s.get (R.RING_CFG_EN ring) ∨ fieldOf v 0 0 = 0 ∨
      (s.setReg (R.RING_CFG ring).addr (ringCfgWord (s.reg (R.RING_CFG ring).addr) v)).ringFits ring = true) :
    s.wordWrite who (R.RING_CFG ring) v =
      s.ringWritten (s.took (regAt (R.RING_CFG ring).addr) (ringCfgWord (s.reg (R.RING_CFG ring).addr) v)) ring := by
  have hA : RegAt (regAt (R.RING_CFG ring).addr) .ring (ring / 24) (0x44 + 32 * (ring % 24)) 0x44 (ring % 24) := (by decide : ∀ x : Fin 48, RegAt (regAt (R.RING_CFG x).addr) .ring (x / 24) (0x44 + 32 * (x % 24)) 0x44 (x % 24)) ring
  have hS : findReg (R.RING_CFG ring).addr = some (regAt (R.RING_CFG ring).addr) ∧ findPage (R.RING_CFG ring).addr = some ((regAt (R.RING_CFG ring).addr).kind, (regAt (R.RING_CFG ring).addr).pn) ∧
      (regAt (R.RING_CFG ring).addr).addr = (R.RING_CFG ring).addr ∧ (R.RING_CFG ring).addr % 4 = 0 ∧ (∀ f ∈ (regAt (R.RING_CFG ring).addr).fam.fields, f.lo ≤ f.hi ∧ f.hi ≤ 31) ∧
      clearMask (regAt (R.RING_CFG ring).addr).fam.fields = 0 ∧ (regAt (R.RING_CFG ring).addr).fam.fields.filter (isAction (regAt (R.RING_CFG ring).addr)) = [] := (by decide : ∀ x : Fin 48, findReg (R.RING_CFG x).addr = some (regAt (R.RING_CFG x).addr) ∧ findPage (R.RING_CFG x).addr = some ((regAt (R.RING_CFG x).addr).kind, (regAt (R.RING_CFG x).addr).pn) ∧
      (regAt (R.RING_CFG x).addr).addr = (R.RING_CFG x).addr ∧ (R.RING_CFG x).addr % 4 = 0 ∧ (∀ f ∈ (regAt (R.RING_CFG x).addr).fam.fields, f.lo ≤ f.hi ∧ f.hi ≤ 31) ∧
      clearMask (regAt (R.RING_CFG x).addr).fam.fields = 0 ∧ (regAt (R.RING_CFG x).addr).fam.fields.filter (isAction (regAt (R.RING_CFG x).addr)) = []) ring
  have hp : (regAt (R.RING_CFG ring).addr).fam.fields.filter (isPlain (regAt (R.RING_CFG ring).addr)) =
      [fld 31 16 .rw 0, ((fld 8 4 .rw 0).within 4 16).locked (.bit 0 0 true), fld 0 0 .rw 0] := (by decide : ∀ x : Fin 48, (regAt (R.RING_CFG x).addr).fam.fields.filter (isPlain (regAt (R.RING_CFG x).addr)) =
      [fld 31 16 .rw 0, ((fld 8 4 .rw 0).within 4 16).locked (.bit 0 0 true), fld 0 0 .rw 0]) ring
  generalize regAt _ = r at hA hS hp ⊢
  obtain ⟨k1, k2, k3, k4, k5⟩ := hA
  obtain ⟨a1, a2, a3, a4, a5, a6, a7⟩ := hS
  have n1 : ¬ r.off = 28 := by omega
  have n2 : ¬ r.off < 64 := by omega
  have n3 : ¬ r.off = 8 := by omega
  have n4 : ¬ (r.kind = .ring ∧ (r.fam.off = 0x048 ∨ r.fam.off = 0x04C)) := by omega
  have e24 : 24 * (ring.val / 24) + ring.val % 24 = ring := by omega
  have hW := ringCfgWord_fields (s.reg (R.RING_CFG ring).addr) v
  have eon : s.ringOn ring = (s.reg r.addr).getLsbD 0 := by
    unfold State.ringOn State.flag State.get
    rw [a3]
    show (fieldOf (s.reg (R.RING_CFG ring).addr) 0 0 != 0) = _
    unfold fieldOf BitVec.getLsbD
    rw [Nat.testBit_zero]
    simp
    rcases Nat.mod_two_eq_zero_or_one (s.reg (R.RING_CFG ring).addr).toNat with h | h <;> simp [h]
  have hact : ∀ t : State, t.act r v.toNat false = (t, false) := by
    intro t
    unfold State.act
    simp [k1, n1]
  unfold State.wordWrite State.writeReg
  simp only [hi, Bool.true_eq_false, a1, a2, hm, beq_self_eq_true, Bool.true_or, Bool.not_true, Bool.false_and, Bool.false_eq_true, if_false, a4,
    bne_self_eq_false, Bool.or_false, n3, n4]
  have hg3 : s.get (R.RING_CFG_LOG2N ring) = fieldOf (s.reg r.addr) 8 4 := by rw [a3]; rfl
  have hg0 : s.get (R.RING_CFG_EN ring) = fieldOf (s.reg r.addr) 0 0 := by rw [a3]; rfl
  have hs : ∀ g : FieldSpec, s.staging r g = false := fun g => State.staging_other (by rw [k1]; decide) (by rw [k1]; decide) g
  rw [State.writeFields_accept s who r v.toNat false (ringCfgWord (s.reg (R.RING_CFG ring).addr) v) a5 ?_ ?_ ?_ (fun g _ => hs g)
    (by rw [a6]; simp) (by rw [a7]; rfl) (by rw [hact])]
  · rw [hact]
    have : (r.plain.any fun g => g.acc == .rwk && fieldOf (ringCfgWord (s.reg (R.RING_CFG ring).addr) v) g.hi g.lo !=
        fieldOf (s.reg r.addr) g.hi g.lo) = false := by
      show ((r.fam.fields.filter (isPlain r)).any _) = false
      rw [hp]
      rfl
    rw [this]
    unfold State.after
    simp [n2, k1, k2, k5, e24]
  · intro g hg
    have hg' : g ∈ r.fam.fields.filter (isPlain r) := hg
    rw [hp] at hg'
    rw [BitVec.ofNat_toNat, BitVec.setWidth_eq]
    simp only [List.mem_cons, List.not_mem_nil, or_false] at hg'
    rcases hg' with rfl | rfl | rfl
    · simp only [fld]
      rw [hW.1]
      exact State.judgeField_rw rfl rfl rfl (by rw [k1]; simp)
    · show s.judgeField r _ (fieldOf v 8 4) = (fieldOf _ 8 4, none)
      rw [hW.2.1]
      rcases h1 with h | ⟨h, h4, h5⟩
      · unfold State.judgeField
        rw [hg3] at h
        simp [fld, FieldSpec.within, FieldSpec.locked, h]
      · refine State.judgeField_rw rfl ?_ ?_ (by rw [k1]; simp)
        · simp [inRange, fld, FieldSpec.within, FieldSpec.locked, h4, h5]
        · rw [eon] at h
          show ((s.reg ((r.addr : Int) + 0).toNat).getLsbD 0 == true) = false
          simpa using h
    · simp only [fld]
      rw [hW.2.2]
      exact State.judgeField_rw rfl rfl rfl (by rw [k1]; simp)
  · intro i hi
    have c : ∀ f ∈ [fld 31 16 .rw 0, ((fld 8 4 .rw 0).within 4 16).locked (.bit 0 0 true), fld 0 0 .rw 0], ¬ f.covers i := by
      intro f hf
      exact hi f (by show f ∈ r.fam.fields.filter (isPlain r); rw [hp]; exact hf)
    simp [FieldSpec.covers, fld, FieldSpec.within, FieldSpec.locked] at c
    unfold ringCfgWord
    rw [insertField_bit _ _ _ _ _ (by decide) (by decide), if_neg (by omega), insertField_bit _ _ _ _ _ (by decide) (by decide),
      if_neg (by omega), insertField_bit _ _ _ _ _ (by decide) (by decide), if_neg (by omega), a3]
  · intro g hg hne
    have hg' : g ∈ r.fam.fields.filter (isPlain r) := hg
    rw [hp] at hg'
    unfold State.refuses
    simp only [k1, k2, k5, e24, a3]
    simp only [List.mem_cons, List.not_mem_nil, or_false] at hg'
    rcases hg' with rfl | rfl | rfl
    · simp [fld, R.RING_CFG_EN]
    · simp [fld, FieldSpec.within, FieldSpec.locked, R.RING_CFG_EN]
    · simp only [fld] at hne ⊢
      rw [hW.2.2] at hne ⊢
      rw [hg0] at h2
      rcases h2 with h | h | h
      · exact absurd h hne
      · rw [h]; simp
      · rw [h]; simp

/-- A write of the index that firmware owns in a ring (R45), the fill staying within the ring. -/
theorem exec_ringPointerWrite {s : State} {who : Who} {ring : Fin 48} {v : Word} (hm : machineAccess who = true) (hi : s.initiates who = true) (ha : s.alive = true)
    (q : Fld) (hq : q = if ringIsConsumer ring.val then R.RING_PIDX ring else R.RING_CIDX ring)
    (hn : v ≠ s.reg q.addr)
    (hf : (if ringIsConsumer ring.val then (v.toNat + 2 ^ 32 - s.get (R.RING_CIDX ring)) % 2 ^ 32
      else (s.get (R.RING_PIDX ring) + 2 ^ 32 - v.toNat) % 2 ^ 32) ≤ s.ringN ring) :
    exec (.ringPointerWrite who ring v) s =
      .next (s.ringWritten { s.setReg q.addr v with parFlip := s.parFlip.filter (· != q.addr) } ring) := by
  have hA : RegAt (regAt (if ringIsConsumer ring.val then R.RING_PIDX ring else R.RING_CIDX ring).addr) .ring (ring / 24) ((if ringIsConsumer ring.val then 0x48 else 0x4C) + 32 * (ring % 24)) (if ringIsConsumer ring.val then 0x48 else 0x4C) (ring % 24) := (by decide : ∀ x : Fin 48, RegAt (regAt (if ringIsConsumer x.val then R.RING_PIDX x else R.RING_CIDX x).addr) .ring (x / 24) ((if ringIsConsumer x.val then 0x48 else 0x4C) + 32 * (x % 24)) (if ringIsConsumer x.val then 0x48 else 0x4C) (x % 24)) ring
  have hS : findReg (if ringIsConsumer ring.val then R.RING_PIDX ring else R.RING_CIDX ring).addr = some (regAt (if ringIsConsumer ring.val then R.RING_PIDX ring else R.RING_CIDX ring).addr) ∧ findPage (if ringIsConsumer ring.val then R.RING_PIDX ring else R.RING_CIDX ring).addr = some ((regAt (if ringIsConsumer ring.val then R.RING_PIDX ring else R.RING_CIDX ring).addr).kind, (regAt (if ringIsConsumer ring.val then R.RING_PIDX ring else R.RING_CIDX ring).addr).pn) ∧ (regAt (if ringIsConsumer ring.val then R.RING_PIDX ring else R.RING_CIDX ring).addr).addr = (if ringIsConsumer ring.val then R.RING_PIDX ring else R.RING_CIDX ring).addr ∧ (if ringIsConsumer ring.val then R.RING_PIDX ring else R.RING_CIDX ring).addr % 4 = 0 := (by decide : ∀ x : Fin 48, findReg (if ringIsConsumer x.val then R.RING_PIDX x else R.RING_CIDX x).addr = some (regAt (if ringIsConsumer x.val then R.RING_PIDX x else R.RING_CIDX x).addr) ∧ findPage (if ringIsConsumer x.val then R.RING_PIDX x else R.RING_CIDX x).addr = some ((regAt (if ringIsConsumer x.val then R.RING_PIDX x else R.RING_CIDX x).addr).kind, (regAt (if ringIsConsumer x.val then R.RING_PIDX x else R.RING_CIDX x).addr).pn) ∧ (regAt (if ringIsConsumer x.val then R.RING_PIDX x else R.RING_CIDX x).addr).addr = (if ringIsConsumer x.val then R.RING_PIDX x else R.RING_CIDX x).addr ∧ (if ringIsConsumer x.val then R.RING_PIDX x else R.RING_CIDX x).addr % 4 = 0) ring
  show Host.Outcome.next (s.whenAlive fun s => s.wordWrite who (if ringIsConsumer ring.val then R.RING_PIDX ring else R.RING_CIDX ring) v) = _
  rw [← hq] at hA hS ⊢
  generalize regAt _ = r at hA hS
  obtain ⟨k1, k2, k3, k4, k5⟩ := hA
  obtain ⟨a1, a2, a3, a4⟩ := hS
  have n3 : ¬ r.off = 8 := by split at k3 <;> omega
  have n4 : r.kind = .ring ∧ (r.fam.off = 0x048 ∨ r.fam.off = 0x04C) := ⟨k1, by split at k4 <;> simp [k4]⟩
  have e24 : 24 * (ring.val / 24) + ring.val % 24 = ring := by omega
  have hP : (r.fam.off == 0x048) = ringIsConsumer ring.val := by
    rw [k4]; cases ringIsConsumer ring.val <;> rfl
  have hn' : ¬ v.toNat = (s.reg r.addr).toNat := by
    rw [a3]
    intro h
    exact hn (BitVec.eq_of_toNat_eq h)
  rw [State.whenAlive_of ha]
  unfold State.wordWrite State.writeReg
  simp only [hi, Bool.true_eq_false, a1, a2, hm, beq_self_eq_true, Bool.true_or, Bool.not_true, Bool.false_and, Bool.false_eq_true, if_false, a4,
    bne_self_eq_false, Bool.or_false, n3, n4, if_true, and_self]
  unfold State.writePointer
  simp only [if_neg hn', k2, k5, e24, hP, bne_self_eq_false, Bool.false_eq_true, if_false]
  rw [if_neg (by omega), a3, BitVec.ofNat_toNat, BitVec.setWidth_eq]

theorem exec_ringEnable {s : State} {who : Who} {ring : Fin 48} {v : Word} (hm : machineAccess who = true) (hi : s.initiates who = true) (ha : s.alive = true)
    (h1 : fieldOf (v ||| 1#32) 8 4 = s.get (R.RING_CFG_LOG2N ring) ∨ (s.ringOn ring = false ∧ 4 ≤ fieldOf (v ||| 1#32) 8 4 ∧ fieldOf (v ||| 1#32) 8 4 ≤ 16))
    (h2 : (s.setReg (R.RING_CFG ring).addr (ringCfgWord (s.reg (R.RING_CFG ring).addr) (v ||| 1#32))).ringFits ring = true) :
    exec (.ringEnable who ring v) s =
      .next (s.ringWritten (s.took (regAt (R.RING_CFG ring).addr) (ringCfgWord (s.reg (R.RING_CFG ring).addr) (v ||| 1#32))) ring) := by
  show Host.Outcome.next (s.whenAlive _) = _
  rw [State.whenAlive_of ha, State.ringCfg_accept hm hi h1 (.inr (.inr h2))]

theorem exec_ringDisable {s : State} {who : Who} {ring : Fin 48} {v : Word} (hm : machineAccess who = true) (hi : s.initiates who = true) (ha : s.alive = true)
    (h1 : fieldOf (v &&& ~~~1#32) 8 4 = s.get (R.RING_CFG_LOG2N ring) ∨ (s.ringOn ring = false ∧ 4 ≤ fieldOf (v &&& ~~~1#32) 8 4 ∧ fieldOf (v &&& ~~~1#32) 8 4 ≤ 16)) :
    exec (.ringDisable who ring v) s =
      .next (s.ringWritten (s.took (regAt (R.RING_CFG ring).addr) (ringCfgWord (s.reg (R.RING_CFG ring).addr) (v &&& ~~~1#32))) ring) := by
  have h0 : fieldOf (v &&& ~~~1#32) 0 0 = 0 := by
    unfold fieldOf
    rw [BitVec.toNat_and]
    have : (v.toNat &&& (~~~1#32 : Word).toNat).testBit 0 = false := by
      rw [Nat.testBit_and, show (~~~1#32 : Word).toNat.testBit 0 = false from by decide, Bool.and_false]
    rw [Nat.testBit_zero, decide_eq_false_iff_not] at this
    rw [Nat.pow_zero, Nat.div_one]
    show _ % 2 = 0
    omega
  show Host.Outcome.next (s.whenAlive _) = _
  rw [State.whenAlive_of ha, State.ringCfg_accept hm hi h1 (.inr (.inl h0))]

theorem exec_hcRelease {s : State} {who : Who} {v : Word} (hm : machineAccess who = true) (hi : s.initiates who = true) (ha : s.alive = true)
    (hv : s.get R.SYS_HC_REL_REL ||| fieldOf v 3 1 = fieldOf v 3 1 ∧ s.get R.SYS_HC_REL_REL &&& fieldOf v 3 1 = s.get R.SYS_HC_REL_REL) :
    exec (.hcRelease who v) s = .next (s.putCfg R.SYS_HC_REL_REL (fieldOf v 3 1)) := by
  have hS : Stores (R.SYS_HC_REL_REL) (regAt (R.SYS_HC_REL_REL).addr) ({ fld 3 1 .rw 0 with perBit := true }) := by decide
  have hA : RegAt (regAt (R.SYS_HC_REL_REL).addr) .sys 0 0x50 0x50 0 := by decide
  have hp : (regAt (R.SYS_HC_REL_REL).addr).fam.fields.filter (isPlain (regAt (R.SYS_HC_REL_REL).addr)) = [{ fld 3 1 .rw 0 with perBit := true }] := by decide
  generalize regAt _ = r at hS hA hp
  obtain ⟨k1, k2, k3, k4, k5⟩ := hA
  have k6 : r.addr = (R.SYS_HC_REL_REL).addr := hS.2.2.1
  have hj : s.judgeField r { fld 3 1 .rw 0 with perBit := true } (fieldOf v 3 1) = (fieldOf v 3 1, none) := by
    have e : s.get R.SYS_HC_REL_REL = fieldOf (s.reg r.addr) 3 1 := by rw [k6]; rfl
    rw [e] at hv
    unfold State.judgeField
    by_cases h : fieldOf v 3 1 = fieldOf (s.reg r.addr) 3 1
    · simp [fld, h]
    · simp [fld, h, k1, k3, hv.1, hv.2]
  show Host.Outcome.next (s.whenAlive fun s => s.wordWrite who R.SYS_HC_REL_REL v) = _
  rw [State.whenAlive_of ha, State.wordWrite_put hm hi (Or.inl (by rw [k1]; decide)) hS hp hj (fun _ => by unfold State.refuses; simp only [show ¬ r.off < 64 by omega, if_false, k1]) (State.staging_other (by rw [k1]; decide) (by rw [k1]; decide) _)
    (fun t => by unfold State.act; simp [k1, k3]) (by decide)]
  unfold State.after
  have e9 : fieldOf v R.SYS_HC_REL_REL.hi R.SYS_HC_REL_REL.lo = fieldOf v 3 1 := rfl
  simp [e9, k1, k2, k3, k4, k5, k6, fld]

/-- METER_TEST with the fields of a word written to it. -/
def meterTestWord (w v : Word) : Word :=
  insertField (insertField (insertField w 6 5 (fieldOf v 6 5)) 4 1 (fieldOf v 4 1)) 0 0 (fieldOf v 0 0)

theorem meterTestWord_fields (w v : Word) :
    fieldOf (meterTestWord w v) 6 5 = fieldOf v 6 5 ∧ fieldOf (meterTestWord w v) 4 1 = fieldOf v 4 1 ∧
      fieldOf (meterTestWord w v) 0 0 = fieldOf v 0 0 := by
  unfold meterTestWord
  refine ⟨?_, ?_, ?_⟩
  · rw [fieldOf_insertField_ne _ _ _ _ _ _ (by decide) (by decide) (by decide) (by decide),
      fieldOf_insertField_ne _ _ _ _ _ _ (by decide) (by decide) (by decide) (by decide),
      fieldOf_insertField _ _ _ _ (by decide) (by decide)]
    exact Nat.mod_eq_of_lt (fieldOf_lt _ _ _)
  · rw [fieldOf_insertField_ne _ _ _ _ _ _ (by decide) (by decide) (by decide) (by decide),
      fieldOf_insertField _ _ _ _ (by decide) (by decide)]
    exact Nat.mod_eq_of_lt (fieldOf_lt _ _ _)
  · rw [fieldOf_insertField _ _ _ _ (by decide) (by decide)]
    exact Nat.mod_eq_of_lt (fieldOf_lt _ _ _)

theorem exec_meterTestInj {s : State} {who : Who} {v : Word} (hm : machineAccess who = true) (hi : s.initiates who = true) (ha : s.alive = true)
    (ht : s.testActive = true) (hv : fieldOf v 6 5 ≤ 2) :
    exec (.meterTestInj who v) s =
      .next (if s.flag R.METER_TEST_INJ = false ∧ fieldOf v 0 0 = 1 then
        (s.took (regAt R.METER_TEST.addr) (meterTestWord (s.reg R.METER_TEST.addr) v)).injStart
        else s.took (regAt R.METER_TEST.addr) (meterTestWord (s.reg R.METER_TEST.addr) v)) := by
  have hA : RegAt (regAt R.METER_TEST.addr) .meter 0 0x64 0x64 0 := by decide
  have hS : findReg R.METER_TEST.addr = some (regAt R.METER_TEST.addr) ∧ findPage R.METER_TEST.addr = some ((regAt R.METER_TEST.addr).kind, (regAt R.METER_TEST.addr).pn) ∧
      (regAt R.METER_TEST.addr).addr = R.METER_TEST.addr ∧ R.METER_TEST.addr % 4 = 0 ∧ (∀ f ∈ (regAt R.METER_TEST.addr).fam.fields, f.lo ≤ f.hi ∧ f.hi ≤ 31) ∧
      clearMask (regAt R.METER_TEST.addr).fam.fields = 0 ∧ (regAt R.METER_TEST.addr).fam.fields.filter (isAction (regAt R.METER_TEST.addr)) = [] := by decide
  have hp : (regAt R.METER_TEST.addr).fam.fields.filter (isPlain (regAt R.METER_TEST.addr)) =
      [(fld 6 5 .rw 0).within 0 2, fld 4 1 .rw 0, fld 0 0 .rw 0] := by decide
  generalize regAt _ = r at hA hS hp ⊢
  obtain ⟨k1, k2, k3, k4, k5⟩ := hA
  obtain ⟨a1, a2, a3, a4, a5, a6, a7⟩ := hS
  have n3 : ¬ r.off = 8 := by omega
  have n4 : ¬ (r.kind = .ring ∧ (r.fam.off = 0x048 ∨ r.fam.off = 0x04C)) := by omega
  have hW := meterTestWord_fields (s.reg R.METER_TEST.addr) v
  have hact : ∀ t : State, t.act r v.toNat false = (t, false) := by
    intro t
    unfold State.act
    simp [k1, k3]
  have hs : ∀ g : FieldSpec, s.staging r g = false := fun g => State.staging_other (by rw [k1]; decide) (by rw [k1]; decide) g
  show Host.Outcome.next (s.whenAlive _) = _
  rw [State.whenAlive_of ha]
  unfold State.wordWrite State.writeReg
  simp only [hi, Bool.true_eq_false, a1, a2, hm, beq_self_eq_true, Bool.true_or, Bool.not_true, Bool.false_and, Bool.false_eq_true, if_false, a4,
    bne_self_eq_false, Bool.or_false, n3, n4]
  rw [State.writeFields_accept s who r v.toNat false (meterTestWord (s.reg R.METER_TEST.addr) v) a5 ?_ ?_ ?_ (fun g _ => hs g)
    (by rw [a6]; simp) (by rw [a7]; rfl) (by rw [hact])]
  · rw [hact]
    have : (r.plain.any fun g => g.acc == .rwk && fieldOf (meterTestWord (s.reg R.METER_TEST.addr) v) g.hi g.lo !=
        fieldOf (s.reg r.addr) g.hi g.lo) = false := by
      show ((r.fam.fields.filter (isPlain r)).any _) = false
      rw [hp]
      rfl
    rw [this]
    have eI : (s.took r (meterTestWord (s.reg R.METER_TEST.addr) v)).flag R.METER_TEST_INJ = (fieldOf v 0 0 != 0) := by
      rw [State.took_of _ (Or.inl (by rw [k1]; decide))]
      show (fieldOf ((s.setReg r.addr _).reg R.METER_TEST.addr) 0 0 != 0) = _
      rw [a3, State.reg_setReg, hW.2.2]
    have e1 : fieldOf v 0 0 < 2 := fieldOf_lt v 0 0
    unfold State.after
    simp only [k1, k3, eI]
    have : fieldOf v 0 0 = 0 ∨ fieldOf v 0 0 = 1 := by omega
    rcases this with h | h <;> cases hI : s.flag R.METER_TEST_INJ <;> simp [h]
  · intro g hg
    have hg' : g ∈ r.fam.fields.filter (isPlain r) := hg
    rw [hp] at hg'
    rw [BitVec.ofNat_toNat, BitVec.setWidth_eq]
    simp only [List.mem_cons, List.not_mem_nil, or_false] at hg'
    rcases hg' with rfl | rfl | rfl
    · show s.judgeField r _ (fieldOf v 6 5) = (fieldOf _ 6 5, none)
      rw [hW.1]
      exact State.judgeField_rw rfl (by simp [inRange, fld, FieldSpec.within, hv]) rfl (by rw [k1]; simp)
    · simp only [fld]
      rw [hW.2.1]
      exact State.judgeField_rw rfl rfl rfl (by rw [k1]; simp)
    · simp only [fld]
      rw [hW.2.2]
      exact State.judgeField_rw rfl rfl rfl (by rw [k1]; simp)
  · intro i hi
    have c : ∀ f ∈ [(fld 6 5 .rw 0).within 0 2, fld 4 1 .rw 0, fld 0 0 .rw 0], ¬ f.covers i := by
      intro f hf
      exact hi f (by show f ∈ r.fam.fields.filter (isPlain r); rw [hp]; exact hf)
    simp [FieldSpec.covers, fld, FieldSpec.within] at c
    unfold meterTestWord
    rw [insertField_bit _ _ _ _ _ (by decide) (by decide), if_neg (by omega), insertField_bit _ _ _ _ _ (by decide) (by decide),
      if_neg (by omega), insertField_bit _ _ _ _ _ (by decide) (by decide), if_neg (by omega), a3]
  · intro g hg hne
    unfold State.refuses
    simp [k1, ht]

end Sys2Proof.Machine
end

