-- ==== Sys2Proof/Laws/Keeps.lean ====
section
/-! SUPPORT. What an operation keeps: the queue of commands, elapsed time (it never goes back), the canonical form, the embedded MRAM
with the level of SEAL_N (fx), and the shared SRAM (fm). -/

namespace Sys2Proof.Machine
open Sys2Proof
/-- What every operation keeps; fx adds the MRAM and the level of SEAL_N, fm the shared SRAM. -/
structure Keeps (fx fm : Bool) (s t : State) : Prop where
  pending : t.pending = s.pending
  up : s.time.up ≤ t.time.up
  wf : s.Wf → t.Wf
  fixed : fx = true → t.mram = s.mram ∧ t.sys.sealed = s.sys.sealed
  shared : fm = true → t.sram = s.sram
variable {fx fm : Bool}
theorem Keeps.refl (s : State) : Keeps fx fm s s := ⟨rfl, Nat.le_refl _, id, fun _ => ⟨rfl, rfl⟩, fun _ => rfl⟩
theorem Keeps.trans {a b c : State} (h : Keeps fx fm a b) (k : Keeps fx fm b c) : Keeps fx fm a c :=
  ⟨k.pending.trans h.pending, h.up.trans k.up, fun w => k.wf (h.wf w),
   fun e => ⟨(k.fixed e).1.trans (h.fixed e).1, (k.fixed e).2.trans (h.fixed e).2⟩, fun e => (k.shared e).trans (h.shared e)⟩
theorem Keeps.same {b0 s t : State} (h : Keeps fx fm b0 s) (h1 : t.pending = s.pending) (h2 : t.time.up = s.time.up)
   (h3 : t.regs = s.regs) (h4 : t.sram = s.sram) (h5 : t.mram = s.mram) (h6 : t.sys.sealed = s.sys.sealed) : Keeps fx fm b0 t := by
  refine h.trans ⟨h1, h2 ▸ Nat.le_refl _, fun w => ?_, fun _ => ⟨h5, h6⟩, fun _ => h4⟩
  unfold State.Wf at *; rw [h3, h4, h5]; exact w
theorem Keeps.lit {b0 s : State} {parFlip_ : List Nat} {time_ : TimeSt} {log_ : LogSt} {mode_ : ModeSt} {sys_ : SysSt} {poly_ : PolySt} {ports_ : Tab PortSt} {prot_ : ProtSt} {ce_ : CeSt} {loc_ : LocSt} {gc_ : GcSt} {isl_ : IslSt} {slope_ : SlopeSt} {adc_ : AdcSt} {cmp_ : TangentSt} {eth_ : Tab EthSt} {drv_ : Tab DrvSt} {brk_ : Tab BrkSt} {arc_ : Tab ArcSt} {safe_ : SafeSt} {meter_ : MeterSt} {org_ : OrgSt} {fresh_ : Nat} (h : Keeps fx fm b0 s) (e : time_.up = s.time.up) (e2 : sys_.sealed = s.sys.sealed) :
    Keeps fx fm b0 { regs := s.regs, parFlip := parFlip_, sram := s.sram, mram := s.mram, time := time_, log := log_, mode := mode_, sys := sys_, poly := poly_, ports := ports_, prot := prot_, ce := ce_, loc := loc_, gc := gc_, isl := isl_, slope := slope_, adc := adc_, cmp := cmp_, eth := eth_, drv := drv_, brk := brk_, arc := arc_, safe := safe_, meter := meter_, org := org_, fresh := fresh_, pending := s.pending } := h.same rfl e rfl rfl rfl e2
theorem Keeps.ofEq {b0 t : State} {β : Type} {p : State × β} {y : β} (e : p = (t, y)) (h : Keeps fx fm b0 p.1) : Keeps fx fm b0 t := by
  subst e
  exact h
theorem Keeps.ite {a x y : State} {c : Prop} [Decidable c] (h : Keeps fx fm a x) (k : Keeps fx fm a y) : Keeps fx fm a (if c then x else y) := by
  split <;> assumption
theorem Keeps.iteFst {b0 : State} {β : Type} {x y : State × β} {c : Prop} [Decidable c] (h : Keeps fx fm b0 x.1) (k : Keeps fx fm b0 y.1) :
    Keeps fx fm b0 (if c then x else y).1 := by
  split <;> assumption
theorem Keeps.foldl {β : Type} {a s : State} {f : State → β → State} {l : List β} (h : Keeps fx fm a s)
    (k : ∀ t b, Keeps fx fm a t → Keeps fx fm a (f t b)) : Keeps fx fm a (l.foldl f s) := by
  induction l generalizing s with
  | nil => exact h
  | cons b l ih => exact ih (k _ _ h)
/-- The state of an operation's result. -/
def VOut.state : VOut → State
  | .ok s _ _ => s
  | .fault s _ => s
theorem Keeps.ofState {b0 : State} {p q : VOut} (e : p = q) (h : Keeps fx fm b0 p.state) : Keeps fx fm b0 q.state := e ▸ h
end Sys2Proof.Machine
end

