-- ==== Sys2Proof/Laws/KeepsOps.lean ====
section
/-! SUPPORT. What the operations of Machine/Ops.lean keep. -/

namespace Sys2Proof.Machine

open Sys2Proof

theorem State.setReg_keeps {fx fm : Bool} {a s : State} (x : Nat) (v : Word) (h : Keeps fx fm a s) : Keeps fx fm a (s.setReg x v) :=
  h.trans ⟨rfl, Nat.le_refl _, fun w => ⟨Tab.wf_set _ _ _ _ w.1, w.2⟩, fun _ => ⟨rfl, rfl⟩, fun _ => rfl⟩

theorem State.put_keeps {fx fm : Bool} {b0 s : State} (f : Fld) (v : Nat) (hk : Keeps fx fm b0 s) : Keeps fx fm b0 (State.put s f v) := by
  unfold State.put
  apply State.setReg_keeps
  first | with_reducible assumption | assumption

theorem State.putI_keeps {fx fm : Bool} {b0 s : State} (f : Fld) (v : Int) (hk : Keeps fx fm b0 s) : Keeps fx fm b0 (State.putI s f v) := by
  unfold State.putI
  apply State.put_keeps
  first | with_reducible assumption | assumption

theorem State.putCfg_keeps {fx fm : Bool} {b0 s : State} (f : Fld) (v : Nat) (hk : Keeps fx fm b0 s) : Keeps fx fm b0 (State.putCfg s f v) := by
  unfold State.putCfg
  extract_lets +onlyGivenNames x0
  refine (fun (k0 : Keeps fx fm b0 x0) => ?_) (?_ : Keeps fx fm b0 x0)
  refine Keeps.lit ?_ rfl rfl
  first | with_reducible assumption | assumption
  dsimp -zeta only [x0]
  apply State.put_keeps
  first | with_reducible assumption | assumption

theorem State.putPar_keeps {fx fm : Bool} {b0 s : State} (f : Fld) (v : Nat) (hk : Keeps fx fm b0 s) : Keeps fx fm b0 (State.putPar s f v) := by
  unfold State.putPar
  extract_lets +onlyGivenNames x0
  extract_lets +onlyGivenNames x1
  refine (fun (k1 : Keeps fx fm b0 x1) => ?_) (?_ : Keeps fx fm b0 x1)
  refine Keeps.lit ?_ rfl rfl
  first | with_reducible assumption | assumption
  dsimp -zeta only [x1]
  apply State.putCfg_keeps
  first | with_reducible assumption | assumption

theorem State.putB_keeps {fx fm : Bool} {b0 s : State} (f : Fld) (b : Bool) (hk : Keeps fx fm b0 s) : Keeps fx fm b0 (State.putB s f b) := by
  unfold State.putB
  apply State.put_keeps
  first | with_reducible assumption | assumption

theorem State.bumpSat_keeps {fx fm : Bool} {b0 s : State} (f : Fld) (hk : Keeps fx fm b0 s) : Keeps fx fm b0 (State.bumpSat s f) := by
  unfold State.bumpSat
  apply State.put_keeps
  first | with_reducible assumption | assumption

theorem State.bumpMod_keeps {fx fm : Bool} {b0 s : State} (f : Fld) (hk : Keeps fx fm b0 s) : Keeps fx fm b0 (State.bumpMod s f) := by
  unfold State.bumpMod
  apply State.put_keeps
  first | with_reducible assumption | assumption

theorem State.irq_keeps {fx fm : Bool} {b0 s : State} (k : PageKind) (n i : Nat) (hk : Keeps fx fm b0 s) : Keeps fx fm b0 (State.irq s k n i) := by
  unfold State.irq
  apply State.put_keeps
  first | with_reducible assumption | assumption

theorem State.whenAlive_keeps {fx fm : Bool} {a s : State} {f : State → State} (h : Keeps fx fm a s) (k : Keeps fx fm a (f s)) : Keeps fx fm a (s.whenAlive f) := by
  unfold State.whenAlive
  split <;> assumption

theorem State.passed_keeps {fx fm : Bool} {a s : State} (d : Nat) (h : Keeps fx fm a s) : Keeps fx fm a (s.passed d) :=
  h.trans ⟨rfl, Nat.le_add_right _ _, id, fun _ => ⟨rfl, rfl⟩, fun _ => rfl⟩

theorem State.advTo_keeps {fx fm : Bool} {a s : State} (t : Nat) (h : Keeps fx fm a s) : Keeps fx fm a (s.advTo t) := by
  unfold State.advTo
  split
  · exact State.passed_keeps _ h
  · exact h

theorem State.advUp_keeps {fx fm : Bool} {a s : State} (u : Nat) (h : Keeps fx fm a s) : Keeps fx fm a (s.advUp u) := by
  unfold State.advUp
  split
  · exact State.passed_keeps _ h
  · exact h

theorem State.advOsc_keeps {fx fm : Bool} {a s : State} (c : Nat) (h : Keeps fx fm a s) : Keeps fx fm a (s.advOsc c) := by
  unfold State.advOsc
  split
  · exact State.passed_keeps _ h
  · exact h

theorem State.idle_keeps {fx fm : Bool} {b0 s : State} (hk : Keeps fx fm b0 s) : Keeps fx fm b0 (State.idle s) :=
  State.passed_keeps 5 hk

theorem State.sramStore_keeps {fx : Bool} {a s : State} (x : Nat) (bs : List Byte) (h : Keeps fx false a s) : Keeps fx false a (s.sramStore x bs) :=
  h.trans ⟨rfl, Nat.le_refl _, fun w => ⟨w.1, Tab.wf_setMany _ _ _ _ w.2.1, w.2.2⟩, fun _ => ⟨rfl, rfl⟩, fun e => by cases e⟩

theorem State.mramStore_keeps {fm : Bool} {a s : State} (x : Nat) (bs : List Byte) (h : Keeps false fm a s) : Keeps false fm a (s.mramStore x bs) :=
  h.trans ⟨rfl, Nat.le_refl _, fun w => ⟨w.1, w.2.1, Tab.wf_setMany _ _ _ _ w.2.2⟩, fun e => (by cases e), fun _ => rfl⟩

theorem State.sramWrite_keeps {fx : Bool} {b0 s : State} (a n v : Nat) (hk : Keeps fx false b0 s) : Keeps fx false b0 (State.sramWrite s a n v) := by
  unfold State.sramWrite
  apply State.sramStore_keeps
  first | with_reducible assumption | assumption

theorem State.emitAt_keeps {fx fm : Bool} {b0 s : State} (t src inst code data : Nat) (hk : Keeps fx fm b0 s) : Keeps fx fm b0 (State.emitAt s t src inst code data) := by
  unfold State.emitAt
  split
  first | with_reducible assumption | assumption
  extract_lets +onlyGivenNames x0
  split
  refine Keeps.lit ?_ rfl rfl
  first | with_reducible assumption | assumption
  refine Keeps.lit ?_ rfl rfl
  first | with_reducible assumption | assumption

theorem State.emit_keeps {fx fm : Bool} {b0 s : State} (src inst code data : Nat) (hk : Keeps fx fm b0 s) : Keeps fx fm b0 (State.emit s src inst code data) := by
  unfold State.emit
  apply State.emitAt_keeps
  first | with_reducible assumption | assumption

theorem State.memMend_keeps {fx fm : Bool} {b0 s : State} (mem w : Nat) (hk : Keeps fx fm b0 s) : Keeps fx fm b0 (State.memMend s mem w) := by
  unfold State.memMend
  refine Keeps.lit ?_ rfl rfl
  first | with_reducible assumption | assumption

theorem State.memReadAt_keeps {fx fm : Bool} {b0 s : State} (t mem w : Nat) (hk : Keeps fx fm b0 s) : Keeps fx fm b0 (State.memReadAt s t mem w) := by
  unfold State.memReadAt
  split
  first | with_reducible assumption | assumption
  apply State.emitAt_keeps
  apply State.memMend_keeps
  first | with_reducible assumption | assumption
  apply State.emitAt_keeps
  first | with_reducible assumption | assumption

theorem State.memRead_keeps {fx fm : Bool} {b0 s : State} (mem w : Nat) (hk : Keeps fx fm b0 s) : Keeps fx fm b0 (State.memRead s mem w) := by
  unfold State.memRead
  apply State.memReadAt_keeps
  first | with_reducible assumption | assumption

theorem State.upset_keeps {fx fm : Bool} {b0 s : State} (mem w : Nat) (double : Bool) (hk : Keeps fx fm b0 s) : Keeps fx fm b0 (State.upset s mem w double) := by
  unfold State.upset
  extract_lets +onlyGivenNames x0
  refine (fun (k0 : Keeps fx fm b0 x0) => ?_) (?_ : Keeps fx fm b0 x0)
  refine Keeps.lit ?_ rfl rfl
  first | with_reducible assumption | assumption
  dsimp -zeta only [x0]
  apply State.memMend_keeps
  first | with_reducible assumption | assumption

theorem State.forEach_keeps {fx fm : Bool} {a s : State} {f : State → Nat → State} {l : List Nat} (h : Keeps fx fm a s)
    (k : ∀ t n, Keeps fx fm a t → Keeps fx fm a (f t n)) : Keeps fx fm a (s.forEach f l) := by
  induction l generalizing s with
  | nil => exact h
  | cons b l ih => exact ih (k _ _ h)

theorem State.wordsMend_keeps {fx fm : Bool} {b0 s : State} (mem a n : Nat) (hk : Keeps fx fm b0 s) : Keeps fx fm b0 (State.wordsMend s mem a n) := by
  unfold State.wordsMend
  extract_lets +onlyGivenNames x0
  extract_lets +onlyGivenNames x1
  refine Keeps.lit ?_ rfl rfl
  first | with_reducible assumption | assumption

theorem State.sramMend_keeps {fx fm : Bool} {b0 s : State} (a n : Nat) (hk : Keeps fx fm b0 s) : Keeps fx fm b0 (State.sramMend s a n) := by
  unfold State.sramMend
  refine Keeps.lit ?_ rfl rfl
  first | with_reducible assumption | assumption

theorem State.wordsMeet_keeps {fx fm : Bool} {b0 s : State} (mem : Nat) (ws : List Nat) (hk : Keeps fx fm b0 s) : Keeps fx fm b0 (State.wordsMeet s mem ws) := by
  unfold State.wordsMeet
  apply State.forEach_keeps
  first | with_reducible assumption | assumption
  intro v0
  intro v1
  intro v2
  apply State.memRead_keeps
  first | with_reducible assumption | assumption

theorem State.mramMeet_keeps {fx fm : Bool} {b0 s : State} (a n : Nat) (hk : Keeps fx fm b0 s) : Keeps fx fm b0 (State.mramMeet s a n) := by
  unfold State.mramMeet
  apply State.wordsMeet_keeps
  first | with_reducible assumption | assumption

theorem State.busError_keeps {fx fm : Bool} {b0 s : State}  (hk : Keeps fx fm b0 s) : Keeps fx fm b0 (State.busError s) := by
  unfold State.busError
  refine Keeps.lit ?_ rfl rfl
  first | with_reducible assumption | assumption

theorem State.sramPut_keeps {fx : Bool} {b0 s : State} (a : Nat) (bs : List Byte) (hk : Keeps fx false b0 s) : Keeps fx false b0 (State.sramPut s a bs) := by
  unfold State.sramPut
  apply State.sramStore_keeps
  apply State.sramMend_keeps
  apply State.wordsMeet_keeps
  first | with_reducible assumption | assumption

theorem State.memStore_keeps {b0 s : State} (mem a : Nat) (bs : List Byte) (hk : Keeps false false b0 s) : Keeps false false b0 (State.memStore s mem a bs) := by
  unfold State.memStore
  extract_lets +onlyGivenNames x0
  extract_lets +onlyGivenNames x1
  refine (fun (k1 : Keeps false false b0 x1) => ?_) (?_ : Keeps false false b0 x1)
  split
  apply State.busError_keeps
  first | with_reducible assumption | assumption
  extract_lets +onlyGivenNames x2
  refine (fun (k2 : Keeps false false b0 x2) => ?_) (?_ : Keeps false false b0 x2)
  split
  apply State.mramStore_keeps
  first | with_reducible assumption | assumption
  apply State.sramStore_keeps
  first | with_reducible assumption | assumption
  dsimp -zeta only [x2]
  apply State.wordsMend_keeps
  first | with_reducible assumption | assumption
  dsimp -zeta only [x1]
  apply State.wordsMeet_keeps
  first | with_reducible assumption | assumption

theorem State.sramFetch_keeps {fx fm : Bool} {b0 s : State} (a n : Nat) (hk : Keeps fx fm b0 s) : Keeps fx fm b0 (State.sramFetch s a n) := by
  unfold State.sramFetch
  apply State.forEach_keeps
  first | with_reducible assumption | assumption
  intro v0
  intro v1
  intro v2
  split
  apply State.busError_keeps
  apply State.memRead_keeps
  first | with_reducible assumption | assumption
  apply State.memRead_keeps
  first | with_reducible assumption | assumption

theorem State.ringMark_keeps {fx fm : Bool} {b0 s : State} (r : Nat) (hk : Keeps fx fm b0 s) : Keeps fx fm b0 (State.ringMark s r) := by
  unfold State.ringMark
  extract_lets +onlyGivenNames x0
  extract_lets +onlyGivenNames x1
  split
  apply State.irq_keeps
  first | with_reducible assumption | assumption
  first | with_reducible assumption | assumption

theorem State.ringDrop_keeps {fx fm : Bool} {b0 s : State} (r : Nat) (hk : Keeps fx fm b0 s) : Keeps fx fm b0 (State.ringDrop s r) := by
  unfold State.ringDrop
  extract_lets +onlyGivenNames x0
  refine (fun (k0 : Keeps fx fm b0 x0) => ?_) (?_ : Keeps fx fm b0 x0)
  split
  first | with_reducible assumption | assumption
  apply State.emit_keeps
  apply State.put_keeps
  first | with_reducible assumption | assumption
  dsimp -zeta only [x0]
  apply State.bumpSat_keeps
  first | with_reducible assumption | assumption

theorem State.ringPush_keeps {fx : Bool} {b0 s : State} (r : Nat) (entry : Nat) (hk : Keeps fx false b0 s) : Keeps fx false b0 (State.ringPush s r entry) := by
  unfold State.ringPush
  split
  split
  apply State.ringDrop_keeps
  first | with_reducible assumption | assumption
  extract_lets +onlyGivenNames x0
  apply State.ringMark_keeps
  apply State.put_keeps
  apply State.sramWrite_keeps
  apply State.sramMend_keeps
  first | with_reducible assumption | assumption
  first | with_reducible assumption | assumption

theorem State.ringPop_keeps {fx fm : Bool} {b0 s : State} (r : Nat) (hk : Keeps fx fm b0 s) : Keeps fx fm b0 (State.ringPop s r) := by
  unfold State.ringPop
  extract_lets +onlyGivenNames x0
  refine (fun (k0 : Keeps fx fm b0 x0) => ?_) (?_ : Keeps fx fm b0 x0)
  apply State.ringMark_keeps
  apply State.put_keeps
  first | with_reducible assumption | assumption
  dsimp -zeta only [x0]
  apply State.sramFetch_keeps
  first | with_reducible assumption | assumption

theorem State.setLost_keeps {fx fm : Bool} {b0 s : State} (r n : Nat) (hk : Keeps fx fm b0 s) : Keeps fx fm b0 (State.setLost s r n) := by
  unfold State.setLost
  refine Keeps.lit ?_ rfl rfl
  first | with_reducible assumption | assumption

theorem State.reportLost_keeps {fx : Bool} {b0 s : State} (r : Nat) (hk : Keeps fx false b0 s) : Keeps fx false b0 (State.reportLost s r) := by
  unfold State.reportLost
  extract_lets +onlyGivenNames x0
  split
  apply State.setLost_keeps
  apply State.ringPush_keeps
  first | with_reducible assumption | assumption
  first | with_reducible assumption | assumption

theorem State.writeEv_keeps {fx : Bool} {b0 s : State} (e : Ev) (hk : Keeps fx false b0 s) : Keeps fx false b0 (State.writeEv s e) := by
  unfold State.writeEv
  extract_lets +onlyGivenNames x0
  extract_lets +onlyGivenNames x1
  refine (fun (k1 : Keeps fx false b0 x1) => ?_) (?_ : Keeps fx false b0 x1)
  split
  apply State.ringPush_keeps
  first | with_reducible assumption | assumption
  apply State.setLost_keeps
  split
  apply State.ringDrop_keeps
  first | with_reducible assumption | assumption
  first | with_reducible assumption | assumption
  dsimp -zeta only [x1]
  apply State.reportLost_keeps
  first | with_reducible assumption | assumption

theorem State.endRun_keeps {fx : Bool} {b0 s : State}  (hk : Keeps fx false b0 s) : Keeps fx false b0 (State.endRun s) := by
  unfold State.endRun
  split
  first | with_reducible assumption | assumption
  extract_lets +onlyGivenNames x0
  extract_lets +onlyGivenNames x1
  refine (fun (k1 : Keeps fx false b0 x1) => ?_) (?_ : Keeps fx false b0 x1)
  refine Keeps.lit ?_ rfl rfl
  first | with_reducible assumption | assumption
  dsimp -zeta only [x1]
  apply State.writeEv_keeps
  first | with_reducible assumption | assumption

theorem State.releaseAll_keeps {fx : Bool} {a s : State} (n : Nat) (h : Keeps fx false a s) : Keeps fx false a (s.releaseAll n) := by
  induction n generalizing s with
  | zero => exact h
  | succ n ih =>
    unfold State.releaseAll
    split
    · exact h
    · exact ih (State.writeEv_keeps _ (h.same rfl rfl rfl rfl rfl rfl))

theorem State.pulseAt_keeps {fx fm : Bool} {b0 s : State} (src idx t : Nat) (hk : Keeps fx fm b0 s) : Keeps fx fm b0 (State.pulseAt s src idx t) := by
  unfold State.pulseAt
  extract_lets +onlyGivenNames x0
  refine Keeps.lit ?_ rfl rfl
  first | with_reducible assumption | assumption

theorem State.pulse_keeps {fx fm : Bool} {b0 s : State} (src : Nat) (hk : Keeps fx fm b0 s) : Keeps fx fm b0 (State.pulse s src) := by
  unfold State.pulse
  extract_lets +onlyGivenNames x0
  refine Keeps.lit ?_ rfl rfl
  first | with_reducible assumption | assumption

theorem State.setLeg_keeps {fx fm : Bool} {b0 s : State} (n : Nat) (l : LegSt) (hk : Keeps fx fm b0 s) : Keeps fx fm b0 (State.setLeg s n l) := by
  unfold State.setLeg
  refine Keeps.lit ?_ rfl rfl
  first | with_reducible assumption | assumption

theorem State.setAux_keeps {fx fm : Bool} {b0 s : State} (m : Nat) (a : AuxSt) (hk : Keeps fx fm b0 s) : Keeps fx fm b0 (State.setAux s m a) := by
  unfold State.setAux
  refine Keeps.lit ?_ rfl rfl
  first | with_reducible assumption | assumption

theorem State.setPort_keeps {fx fm : Bool} {b0 s : State} (p : Nat) (x : PortSt) (hk : Keeps fx fm b0 s) : Keeps fx fm b0 (State.setPort s p x) := by
  unfold State.setPort
  refine Keeps.lit ?_ rfl rfl
  first | with_reducible assumption | assumption

end Sys2Proof.Machine
end

