-- ==== Sys2Proof/Laws/KeepsBlocks.lean ====
section
/-! SUPPORT. What the operations of Machine/Blocks.lean keep. -/

namespace Sys2Proof.Machine

open Sys2Proof

theorem State.setCmp_keeps {fx fm : Bool} {b0 s : State} (c : Nat) (f : CmpSt → CmpSt) (hk : Keeps fx fm b0 s) : Keeps fx fm b0 (State.setCmp s c f) := by
  unfold State.setCmp
  refine Keeps.lit ?_ rfl rfl
  first | with_reducible assumption | assumption

theorem State.blankEdge_keeps {fx fm : Bool} {b0 s : State} (kind idx : Nat) (high on : Bool) (up : Nat) (hk : Keeps fx fm b0 s) : Keeps fx fm b0 (State.blankEdge s kind idx high on up) := by
  unfold State.blankEdge
  apply State.forEach_keeps
  first | with_reducible assumption | assumption
  intro v0
  intro v1
  intro v2
  split
  apply State.setCmp_keeps
  first | with_reducible assumption | assumption
  first | with_reducible assumption | assumption

theorem State.txRun_keeps {fx fm : Bool} {b0 s : State} (p : Nat) (hk : Keeps fx fm b0 s) : Keeps fx fm b0 (State.txRun s p) := by
  unfold State.txRun
  extract_lets +onlyGivenNames x0
  split
  first | with_reducible assumption | assumption
  apply State.setPort_keeps
  first | with_reducible assumption | assumption

theorem State.send_keeps {fx fm : Bool} {b0 s : State} (p : Nat) (b : TxBlk) (hk : Keeps fx fm b0 s) : Keeps fx fm b0 (State.send s p b) := by
  unfold State.send
  extract_lets +onlyGivenNames x0
  refine (fun (k0 : Keeps fx fm b0 x0) => ?_) (?_ : Keeps fx fm b0 x0)
  extract_lets +onlyGivenNames x1
  apply State.setPort_keeps
  first | with_reducible assumption | assumption
  dsimp -zeta only [x0]
  apply State.txRun_keeps
  first | with_reducible assumption | assumption

theorem State.sendAll_keeps {fx fm : Bool} {b0 s : State} (p : Nat) (x1 : List TxBlk) (hk : Keeps fx fm b0 s) : Keeps fx fm b0 (State.sendAll s p x1) := by
  induction x1 generalizing s p with
  | nil =>
    unfold State.sendAll
    first | with_reducible assumption | assumption
  | cons c l ih =>
    unfold State.sendAll
    apply ih
    apply State.send_keeps
    first | with_reducible assumption | assumption

theorem State.dropTx_keeps {fx fm : Bool} {b0 s : State} (p : Nat) (keep : TxBlk → Bool) (hk : Keeps fx fm b0 s) : Keeps fx fm b0 (State.dropTx s p keep) := by
  unfold State.dropTx
  extract_lets +onlyGivenNames x0
  refine (fun (k0 : Keeps fx fm b0 x0) => ?_) (?_ : Keeps fx fm b0 x0)
  apply State.setPort_keeps
  first | with_reducible assumption | assumption
  dsimp -zeta only [x0]
  apply State.txRun_keeps
  first | with_reducible assumption | assumption

end Sys2Proof.Machine
end

