-- ==== Sys2Proof/Laws/KeepsProt.lean ====
section
/-! SUPPORT. What the operations of Machine/Prot.lean keep. -/

namespace Sys2Proof.Machine

open Sys2Proof

theorem State.setTag_keeps {fx fm : Bool} {b0 s : State} (p t : Nat) (v : TagSt) (hk : Keeps fx fm b0 s) : Keeps fx fm b0 (State.setTag s p t v) := by
  unfold State.setTag
  apply State.setPort_keeps
  first | with_reducible assumption | assumption

theorem State.issueTag_keeps {fx fm : Bool} {b0 s : State} (p t : Nat) (r : TagSt) (data : Nat) (hk : Keeps fx fm b0 s) : Keeps fx fm b0 (State.issueTag s p t r data) := by
  unfold State.issueTag
  apply State.send_keeps
  apply State.put_keeps
  apply State.setTag_keeps
  first | with_reducible assumption | assumption

theorem State.dropOwn_keeps {fx fm : Bool} {b0 s : State} (p leg word : Nat) (hk : Keeps fx fm b0 s) : Keeps fx fm b0 (State.dropOwn s p leg word) := by
  unfold State.dropOwn
  split
  refine Keeps.lit ?_ rfl rfl
  first | with_reducible assumption | assumption
  apply State.setPort_keeps
  first | with_reducible assumption | assumption

theorem State.pump_keeps {fx fm : Bool} {b0 s : State} (p : Nat) (x1 : Nat) (hk : Keeps fx fm b0 s) : Keeps fx fm b0 (State.pump s p x1) := by
  induction x1 generalizing s  with
  | zero =>
    unfold State.pump
    first | with_reducible assumption | assumption
  | succ n ih =>
    unfold State.pump
    split
    split
    apply ih
    apply State.issueTag_keeps
    apply State.dropOwn_keeps
    first | with_reducible assumption | assumption
    first | with_reducible assumption | assumption
    first | with_reducible assumption | assumption

theorem State.legStop_keeps {fx fm : Bool} {b0 s : State} (n : Nat) (hk : Keeps fx fm b0 s) : Keeps fx fm b0 (State.legStop s n) := by
  unfold State.legStop
  extract_lets +onlyGivenNames x0
  extract_lets +onlyGivenNames x1
  refine (fun (k1 : Keeps fx fm b0 x1) => ?_) (?_ : Keeps fx fm b0 x1)
  extract_lets +onlyGivenNames x2
  extract_lets +onlyGivenNames x3
  refine (fun (k3 : Keeps fx fm b0 x3) => ?_) (?_ : Keeps fx fm b0 x3)
  extract_lets +onlyGivenNames x4
  refine (fun (k4 : Keeps fx fm b0 x4) => ?_) (?_ : Keeps fx fm b0 x4)
  split
  first | with_reducible assumption | assumption
  apply State.emit_keeps
  first | with_reducible assumption | assumption
  dsimp -zeta only [x4]
  split
  first | with_reducible assumption | assumption
  apply State.dropTx_keeps
  first | with_reducible assumption | assumption
  dsimp -zeta only [x3]
  refine Keeps.lit ?_ rfl rfl
  first | with_reducible assumption | assumption
  dsimp -zeta only [x1]
  apply State.put_keeps
  apply State.put_keeps
  apply State.put_keeps
  apply State.setLeg_keeps
  first | with_reducible assumption | assumption

theorem State.startPush_keeps {fx fm : Bool} {b0 s : State} (p leg : Nat) (hk : Keeps fx fm b0 s) : Keeps fx fm b0 (State.startPush s p leg) := by
  unfold State.startPush
  split
  extract_lets +onlyGivenNames x0
  refine (fun (k0 : Keeps fx fm b0 x0) => ?_) (?_ : Keeps fx fm b0 x0)
  extract_lets +onlyGivenNames x1
  extract_lets +onlyGivenNames x2
  apply State.pump_keeps
  apply State.put_keeps
  apply State.setPort_keeps
  first | with_reducible assumption | assumption
  dsimp -zeta only [x0]
  split
  apply State.legStop_keeps
  first | with_reducible assumption | assumption
  first | with_reducible assumption | assumption
  first | with_reducible assumption | assumption

theorem State.refreshLeg_keeps {fx fm : Bool} {b0 s : State} (n : Nat) (hk : Keeps fx fm b0 s) : Keeps fx fm b0 (State.refreshLeg s n) := by
  unfold State.refreshLeg
  extract_lets +onlyGivenNames x0
  extract_lets +onlyGivenNames x1
  extract_lets +onlyGivenNames x2
  refine (fun (k2 : Keeps fx fm b0 x2) => ?_) (?_ : Keeps fx fm b0 x2)
  split
  apply State.legStop_keeps
  first | with_reducible assumption | assumption
  split
  apply State.emit_keeps
  first | with_reducible assumption | assumption
  first | with_reducible assumption | assumption
  dsimp -zeta only [x2]
  apply State.putB_keeps
  apply State.putB_keeps
  apply State.putB_keeps
  first | with_reducible assumption | assumption

theorem State.refreshTripped_keeps {fx fm : Bool} {b0 s : State}  (hk : Keeps fx fm b0 s) : Keeps fx fm b0 (State.refreshTripped s) := by
  unfold State.refreshTripped
  apply State.forEach_keeps
  first | with_reducible assumption | assumption
  intro v0
  intro v1
  intro v2
  apply State.refreshLeg_keeps
  first | with_reducible assumption | assumption

theorem State.draw_keeps {fx fm : Bool} {b0 s : State}  (hk : Keeps fx fm b0 s) : Keeps fx fm b0 (State.draw s) := by
  unfold State.draw
  refine Keeps.lit ?_ rfl rfl
  first | with_reducible assumption | assumption

theorem State.sendOff_keeps {fx : Bool} {b0 s : State} (p lane leg dep after arg : Nat) (hk : Keeps fx false b0 s) : Keeps fx false b0 (State.sendOff s p lane leg dep after arg) := by
  unfold State.sendOff
  extract_lets +onlyGivenNames x0
  apply State.send_keeps
  first | with_reducible assumption | assumption

theorem State.legOffReaction_keeps {fx : Bool} {b0 s : State} (n : Nat) (hk : Keeps fx false b0 s) : Keeps fx false b0 (State.legOffReaction s n) := by
  unfold State.legOffReaction
  extract_lets +onlyGivenNames x0
  extract_lets +onlyGivenNames x1
  refine (fun (k1 : Keeps fx false b0 x1) => ?_) (?_ : Keeps fx false b0 x1)
  split
  apply State.draw_keeps
  apply State.sendOff_keeps
  first | with_reducible assumption | assumption
  first | with_reducible assumption | assumption
  dsimp -zeta only [x1]
  apply State.legStop_keeps
  first | with_reducible assumption | assumption

theorem State.softPort_keeps {fx : Bool} {b0 s : State} (p : Nat) (hk : Keeps fx false b0 s) : Keeps fx false b0 (State.softPort s p) := by
  unfold State.softPort
  split
  extract_lets +onlyGivenNames x0
  extract_lets +onlyGivenNames x1
  extract_lets +onlyGivenNames x2
  apply State.forEach_keeps
  apply State.dropTx_keeps
  first | with_reducible assumption | assumption
  intro v3
  intro v4
  intro v5
  extract_lets +onlyGivenNames x6
  apply State.sendOff_keeps
  first | with_reducible assumption | assumption
  first | with_reducible assumption | assumption

theorem State.softAllOff_keeps {fx : Bool} {b0 s : State}  (hk : Keeps fx false b0 s) : Keeps fx false b0 (State.softAllOff s) := by
  unfold State.softAllOff
  extract_lets +onlyGivenNames x0
  refine (fun (k0 : Keeps fx false b0 x0) => ?_) (?_ : Keeps fx false b0 x0)
  extract_lets +onlyGivenNames x1
  refine (fun (k1 : Keeps fx false b0 x1) => ?_) (?_ : Keeps fx false b0 x1)
  refine Keeps.lit ?_ rfl rfl
  first | with_reducible assumption | assumption
  dsimp -zeta only [x1]
  apply State.draw_keeps
  apply State.forEach_keeps
  first | with_reducible assumption | assumption
  intro v2
  intro v3
  intro v4
  apply State.legStop_keeps
  first | with_reducible assumption | assumption
  dsimp -zeta only [x0]
  apply State.forEach_keeps
  first | with_reducible assumption | assumption
  intro v5
  intro v6
  intro v7
  apply State.softPort_keeps
  first | with_reducible assumption | assumption

theorem State.haltDue_keeps {fx fm : Bool} {b0 s : State} (cause : Nat) (hk : Keeps fx fm b0 s) : Keeps fx fm b0 (State.haltDue s cause) := by
  unfold State.haltDue
  refine Keeps.lit ?_ rfl rfl
  first | with_reducible assumption | assumption

theorem State.startAllOff_keeps {fx : Bool} {b0 s : State} (cause grp trig : Nat) (isCh : Bool) (hk : Keeps fx false b0 s) : Keeps fx false b0 (State.startAllOff s cause grp trig isCh) := by
  unfold State.startAllOff
  split
  first | with_reducible assumption | assumption
  extract_lets +onlyGivenNames x0
  extract_lets +onlyGivenNames x1
  refine (fun (k1 : Keeps fx false b0 x1) => ?_) (?_ : Keeps fx false b0 x1)
  extract_lets +onlyGivenNames x2
  refine (fun (k2 : Keeps fx false b0 x2) => ?_) (?_ : Keeps fx false b0 x2)
  extract_lets +onlyGivenNames x3
  refine (fun (k3 : Keeps fx false b0 x3) => ?_) (?_ : Keeps fx false b0 x3)
  extract_lets +onlyGivenNames x4
  extract_lets +onlyGivenNames x5
  refine (fun (k5 : Keeps fx false b0 x5) => ?_) (?_ : Keeps fx false b0 x5)
  apply State.refreshTripped_keeps
  split
  apply State.haltDue_keeps
  first | with_reducible assumption | assumption
  first | with_reducible assumption | assumption
  dsimp -zeta only [x5]
  refine Keeps.lit ?_ rfl rfl
  first | with_reducible assumption | assumption
  dsimp -zeta only [x3]
  apply State.softAllOff_keeps
  first | with_reducible assumption | assumption
  dsimp -zeta only [x2]
  apply State.emit_keeps
  apply State.irq_keeps
  first | with_reducible assumption | assumption
  dsimp -zeta only [x1]
  apply State.put_keeps
  apply State.put_keeps
  apply State.put_keeps
  first | with_reducible assumption | assumption

theorem State.escalate_keeps {fx : Bool} {b0 s : State} (g trig : Nat) (isCh : Bool) (hk : Keeps fx false b0 s) : Keeps fx false b0 (State.escalate s g trig isCh) := by
  unfold State.escalate
  split
  apply State.startAllOff_keeps
  first | with_reducible assumption | assumption
  first | with_reducible assumption | assumption

theorem State.latchLeg_keeps {fx : Bool} {b0 s : State} (n cause t : Nat) (hk : Keeps fx false b0 s) : Keeps fx false b0 (State.latchLeg s n cause t) := by
  unfold State.latchLeg
  extract_lets +onlyGivenNames x0
  split
  first | with_reducible assumption | assumption
  extract_lets +onlyGivenNames x1
  extract_lets +onlyGivenNames x2
  extract_lets +onlyGivenNames x3
  extract_lets +onlyGivenNames x4
  refine (fun (k4 : Keeps fx false b0 x4) => ?_) (?_ : Keeps fx false b0 x4)
  extract_lets +onlyGivenNames x5
  refine (fun (k5 : Keeps fx false b0 x5) => ?_) (?_ : Keeps fx false b0 x5)
  extract_lets +onlyGivenNames x6
  refine (fun (k6 : Keeps fx false b0 x6) => ?_) (?_ : Keeps fx false b0 x6)
  extract_lets +onlyGivenNames x7
  refine (fun (k7 : Keeps fx false b0 x7) => ?_) (?_ : Keeps fx false b0 x7)
  apply State.escalate_keeps
  first | with_reducible assumption | assumption
  dsimp -zeta only [x7]
  split
  apply State.legOffReaction_keeps
  first | with_reducible assumption | assumption
  apply State.startAllOff_keeps
  first | with_reducible assumption | assumption
  dsimp -zeta only [x6]
  apply State.refreshTripped_keeps
  first | with_reducible assumption | assumption
  dsimp -zeta only [x5]
  apply State.emitAt_keeps
  apply State.irq_keeps
  apply State.put_keeps
  first | with_reducible assumption | assumption
  dsimp -zeta only [x4]
  split
  apply State.put_keeps
  first | with_reducible assumption | assumption
  first | with_reducible assumption | assumption

theorem State.setClearing_keeps {fx fm : Bool} {b0 s : State} (n v : Nat) (hk : Keeps fx fm b0 s) : Keeps fx fm b0 (State.setClearing s n v) := by
  unfold State.setClearing
  refine Keeps.lit ?_ rfl rfl
  first | with_reducible assumption | assumption

theorem State.addClrWait_keeps {fx fm : Bool} {b0 s : State} (n : Nat) (hk : Keeps fx fm b0 s) : Keeps fx fm b0 (State.addClrWait s n) := by
  unfold State.addClrWait
  refine Keeps.lit ?_ rfl rfl
  first | with_reducible assumption | assumption

theorem State.dropClrWait_keeps {fx fm : Bool} {b0 s : State} (n : Nat) (hk : Keeps fx fm b0 s) : Keeps fx fm b0 (State.dropClrWait s n) := by
  unfold State.dropClrWait
  refine Keeps.lit ?_ rfl rfl
  first | with_reducible assumption | assumption

theorem State.legClrRefused_keeps {fx fm : Bool} {b0 s : State} (n data : Nat) (hk : Keeps fx fm b0 s) : Keeps fx fm b0 (State.legClrRefused s n data) := by
  unfold State.legClrRefused
  apply State.emit_keeps
  apply State.irq_keeps
  apply State.put_keeps
  first | with_reducible assumption | assumption

theorem State.clearLatch_keeps {fx fm : Bool} {b0 s : State} (n mask : Nat) (hk : Keeps fx fm b0 s) : Keeps fx fm b0 (State.clearLatch s n mask).1 := by
  unfold State.clearLatch
  extract_lets +onlyGivenNames x0
  extract_lets +onlyGivenNames x1
  extract_lets +onlyGivenNames x2
  extract_lets +onlyGivenNames x3
  extract_lets +onlyGivenNames x4
  refine (fun (k4 : Keeps fx fm b0 x4) => ?_) (?_ : Keeps fx fm b0 x4)
  extract_lets +onlyGivenNames x5
  refine (fun (k5 : Keeps fx fm b0 x5) => ?_) (?_ : Keeps fx fm b0 x5)
  extract_lets +onlyGivenNames x6
  refine (fun (k6 : Keeps fx fm b0 x6) => ?_) (?_ : Keeps fx fm b0 x6)
  dsimp only
  apply State.refreshTripped_keeps
  first | with_reducible assumption | assumption
  dsimp -zeta only [x6]
  split
  first | with_reducible assumption | assumption
  split
  apply State.setClearing_keeps
  first | with_reducible assumption | assumption
  apply State.pump_keeps
  apply State.put_keeps
  apply State.addClrWait_keeps
  apply State.setClearing_keeps
  first | with_reducible assumption | assumption
  dsimp -zeta only [x5]
  split
  first | with_reducible assumption | assumption
  apply State.legClrRefused_keeps
  first | with_reducible assumption | assumption
  dsimp -zeta only [x4]
  apply State.put_keeps
  first | with_reducible assumption | assumption

theorem State.tripClrDone_keeps {fx fm : Bool} {b0 s : State} (n : Nat) (good : Bool) (hk : Keeps fx fm b0 s) : Keeps fx fm b0 (State.tripClrDone s n good) := by
  unfold State.tripClrDone
  extract_lets +onlyGivenNames x0
  extract_lets +onlyGivenNames x1
  refine (fun (k1 : Keeps fx fm b0 x1) => ?_) (?_ : Keeps fx fm b0 x1)
  extract_lets +onlyGivenNames x2
  refine (fun (k2 : Keeps fx fm b0 x2) => ?_) (?_ : Keeps fx fm b0 x2)
  split
  apply State.refreshTripped_keeps
  apply State.put_keeps
  first | with_reducible assumption | assumption
  apply State.legClrRefused_keeps
  first | with_reducible assumption | assumption
  dsimp -zeta only [x2]
  apply State.put_keeps
  first | with_reducible assumption | assumption
  dsimp -zeta only [x1]
  apply State.dropClrWait_keeps
  apply State.setClearing_keeps
  first | with_reducible assumption | assumption

theorem State.clearChannel_keeps {fx fm : Bool} {b0 s : State} (x : Nat) (hk : Keeps fx fm b0 s) : Keeps fx fm b0 (State.clearChannel s x).1 := by
  unfold State.clearChannel
  split
  split
  dsimp only
  apply State.emit_keeps
  apply State.irq_keeps
  apply State.put_keeps
  apply State.put_keeps
  first | with_reducible assumption | assumption
  dsimp only
  apply State.refreshTripped_keeps
  apply State.put_keeps
  first | with_reducible assumption | assumption
  dsimp only
  first | with_reducible assumption | assumption

theorem State.clearAllOff_keeps {fx fm : Bool} {b0 s : State}  (hk : Keeps fx fm b0 s) : Keeps fx fm b0 (State.clearAllOff s).1 := by
  unfold State.clearAllOff
  split
  split
  dsimp only
  apply State.emit_keeps
  apply State.irq_keeps
  apply State.put_keeps
  first | with_reducible assumption | assumption
  extract_lets +onlyGivenNames x0
  refine (fun (k0 : Keeps fx fm b0 x0) => ?_) (?_ : Keeps fx fm b0 x0)
  dsimp only
  apply State.refreshTripped_keeps
  refine Keeps.lit ?_ rfl rfl
  first | with_reducible assumption | assumption
  dsimp -zeta only [x0]
  apply State.put_keeps
  apply State.put_keeps
  first | with_reducible assumption | assumption
  first | with_reducible assumption | assumption

theorem State.latchChannel_keeps {fx : Bool} {b0 s : State} (x : Nat) (hk : Keeps fx false b0 s) : Keeps fx false b0 (State.latchChannel s x) := by
  unfold State.latchChannel
  extract_lets +onlyGivenNames x0
  extract_lets +onlyGivenNames x1
  extract_lets +onlyGivenNames x2
  refine (fun (k2 : Keeps fx false b0 x2) => ?_) (?_ : Keeps fx false b0 x2)
  extract_lets +onlyGivenNames x3
  extract_lets +onlyGivenNames x4
  refine (fun (k4 : Keeps fx false b0 x4) => ?_) (?_ : Keeps fx false b0 x4)
  extract_lets +onlyGivenNames x5
  refine (fun (k5 : Keeps fx false b0 x5) => ?_) (?_ : Keeps fx false b0 x5)
  apply State.forEach_keeps
  first | with_reducible assumption | assumption
  intro v6
  intro v7
  intro v8
  apply State.escalate_keeps
  first | with_reducible assumption | assumption
  dsimp -zeta only [x5]
  split
  apply State.forEach_keeps
  first | with_reducible assumption | assumption
  intro v9
  intro v10
  intro v11
  apply State.legOffReaction_keeps
  first | with_reducible assumption | assumption
  apply State.startAllOff_keeps
  first | with_reducible assumption | assumption
  dsimp -zeta only [x4]
  apply State.refreshTripped_keeps
  first | with_reducible assumption | assumption
  dsimp -zeta only [x2]
  apply State.emit_keeps
  apply State.irq_keeps
  apply State.put_keeps
  first | with_reducible assumption | assumption

theorem State.evalChannel_keeps {fx : Bool} {b0 s : State} (x : Nat) (hk : Keeps fx false b0 s) : Keeps fx false b0 (State.evalChannel s x) := by
  unfold State.evalChannel
  extract_lets +onlyGivenNames x0
  extract_lets +onlyGivenNames x1
  refine (fun (k1 : Keeps fx false b0 x1) => ?_) (?_ : Keeps fx false b0 x1)
  split
  apply State.latchChannel_keeps
  first | with_reducible assumption | assumption
  first | with_reducible assumption | assumption
  dsimp -zeta only [x1]
  apply State.putB_keeps
  apply State.putB_keeps
  first | with_reducible assumption | assumption

theorem State.evalChannels_keeps {fx : Bool} {b0 s : State}  (hk : Keeps fx false b0 s) : Keeps fx false b0 (State.evalChannels s) := by
  unfold State.evalChannels
  apply State.forEach_keeps
  first | with_reducible assumption | assumption
  intro v0
  intro v1
  intro v2
  apply State.evalChannel_keeps
  first | with_reducible assumption | assumption

theorem State.clearPg_keeps {fx fm : Bool} {b0 s : State} (mask : Nat) (hk : Keeps fx fm b0 s) : Keeps fx fm b0 (State.clearPg s mask).1 := by
  unfold State.clearPg
  extract_lets +onlyGivenNames x0
  split
  first | with_reducible assumption | assumption
  split
  dsimp only
  apply State.put_keeps
  first | with_reducible assumption | assumption
  dsimp only
  apply State.emit_keeps
  apply State.irq_keeps
  apply State.put_keeps
  first | with_reducible assumption | assumption

end Sys2Proof.Machine
end

