-- ==== Sys2Proof/Laws/KeepsVertex.lean ====
section
/-! SUPPORT. What the operations of Machine/Vertex.lean keep. -/

namespace Sys2Proof.Machine

open Sys2Proof

theorem State.setCe_keeps {fx fm : Bool} {b0 s : State} (f : CeSt → CeSt) (hk : Keeps fx fm b0 s) : Keeps fx fm b0 (State.setCe s f) := by
  unfold State.setCe
  refine Keeps.lit ?_ rfl rfl
  first | with_reducible assumption | assumption

theorem State.setStage_keeps {fx fm : Bool} {b0 s : State} (r : Nat) (v : Stage) (hk : Keeps fx fm b0 s) : Keeps fx fm b0 (State.setStage s r v) := by
  unfold State.setStage
  apply State.setCe_keeps
  first | with_reducible assumption | assumption

theorem State.setAccu_keeps {fx fm : Bool} {b0 s : State} (r : Nat) (v : Accu) (hk : Keeps fx fm b0 s) : Keeps fx fm b0 (State.setAccu s r v) := by
  unfold State.setAccu
  apply State.setCe_keeps
  first | with_reducible assumption | assumption

theorem State.setVmask_keeps {fx fm : Bool} {b0 s : State} (r v : Nat) (hk : Keeps fx fm b0 s) : Keeps fx fm b0 (State.setVmask s r v) := by
  unfold State.setVmask
  apply State.setCe_keeps
  first | with_reducible assumption | assumption

theorem State.setAreg_keeps {fx fm : Bool} {b0 s : State} (r v : Nat) (hk : Keeps fx fm b0 s) : Keeps fx fm b0 (State.setAreg s r v) := by
  unfold State.setAreg
  apply State.setCe_keeps
  first | with_reducible assumption | assumption

theorem State.setCeWord_keeps {fx fm : Bool} {b0 s : State} (a w : Nat) (hk : Keeps fx fm b0 s) : Keeps fx fm b0 (State.setCeWord s a w) := by
  unfold State.setCeWord
  apply State.setCe_keeps
  first | with_reducible assumption | assumption

theorem State.hostData_keeps {fx fm : Bool} {b0 s : State} (a w : Nat) (hk : Keeps fx fm b0 s) : Keeps fx fm b0 (State.hostData s a w) := by
  unfold State.hostData
  split
  first | with_reducible assumption | assumption
  apply State.setCeWord_keeps
  first | with_reducible assumption | assumption

theorem State.setCoef_keeps {fx fm : Bool} {b0 s : State} (a w : Nat) (hk : Keeps fx fm b0 s) : Keeps fx fm b0 (State.setCoef s a w) := by
  unfold State.setCoef
  apply State.setCe_keeps
  apply State.memMend_keeps
  first | with_reducible assumption | assumption

theorem State.setProg_keeps {fx fm : Bool} {b0 s : State} (a w : Nat) (hk : Keeps fx fm b0 s) : Keeps fx fm b0 (State.setProg s a w) := by
  unfold State.setProg
  apply State.setCe_keeps
  apply State.memMend_keeps
  first | with_reducible assumption | assumption

theorem State.vFault_keeps {fx fm : Bool} {b0 s : State} (t code : Nat) (hk : Keeps fx fm b0 s) : Keeps fx fm b0 (State.vFault s t code) := by
  unfold State.vFault
  extract_lets +onlyGivenNames x0
  extract_lets +onlyGivenNames x1
  extract_lets +onlyGivenNames x2
  refine (fun (k2 : Keeps fx fm b0 x2) => ?_) (?_ : Keeps fx fm b0 x2)
  extract_lets +onlyGivenNames x3
  refine (fun (k3 : Keeps fx fm b0 x3) => ?_) (?_ : Keeps fx fm b0 x3)
  apply State.irq_keeps
  apply State.emitAt_keeps
  first | with_reducible assumption | assumption
  dsimp -zeta only [x3]
  apply State.put_keeps
  apply State.put_keeps
  apply State.put_keeps
  apply State.put_keeps
  apply State.put_keeps
  apply State.put_keeps
  first | with_reducible assumption | assumption
  dsimp -zeta only [x2]
  apply State.setCe_keeps
  first | with_reducible assumption | assumption

theorem State.vSat_keeps {fx fm : Bool} {b0 s : State} (t pc : Nat) (x1 : Option Nat) (hk : Keeps fx fm b0 s) : Keeps fx fm b0 (State.vSat s t pc x1) := by
  unfold State.vSat
  split
  first | with_reducible assumption | assumption
  extract_lets +onlyGivenNames x0
  extract_lets +onlyGivenNames x1
  refine (fun (k1 : Keeps fx fm b0 x1) => ?_) (?_ : Keeps fx fm b0 x1)
  split
  apply State.emitAt_keeps
  first | with_reducible assumption | assumption
  first | with_reducible assumption | assumption
  dsimp -zeta only [x1]
  apply State.irq_keeps
  apply State.put_keeps
  apply State.bumpSat_keeps
  first | with_reducible assumption | assumption

theorem State.vNext_keeps {fx fm : Bool} {b0 s : State} (i : Ins) (t : Nat) (jump : Option Nat) (hk : Keeps fx fm b0 s) : Keeps fx fm b0 (State.vNext s i t jump) := by
  unfold State.vNext
  extract_lets +onlyGivenNames x0
  refine (fun (k0 : Keeps fx fm b0 x0) => ?_) (?_ : Keeps fx fm b0 x0)
  extract_lets +onlyGivenNames x1
  extract_lets +onlyGivenNames x2
  extract_lets +onlyGivenNames x3
  apply State.setCe_keeps
  first | with_reducible assumption | assumption
  dsimp -zeta only [x0]
  split
  apply State.setAreg_keeps
  first | with_reducible assumption | assumption
  first | with_reducible assumption | assumption

theorem State.vIssue_keeps {fx fm : Bool} {b0 s : State} (i : Ins) {act : Nat → State → State} (h : Keeps fx fm b0 s)
    (k : ∀ n t, Keeps fx fm b0 t → Keeps fx fm b0 (act n t)) : Keeps fx fm b0 (s.vIssue i act) := by
  have hr : ∀ t mem w, Keeps fx fm b0 (s.memReadAt t mem w) := fun _ _ _ => State.memReadAt_keeps _ _ _ h
  unfold State.vIssue
  dsimp only
  split
  · exact h
  split
  · exact State.vFault_keeps _ _ (hr _ _ _)
  split
  · exact State.vFault_keeps _ _ (hr _ _ _)
  split
  · exact hr _ _ _
  · exact k _ _ (hr _ _ _)

theorem State.vStep_keeps {fx fm : Bool} {b0 s : State} (op : Nat) (w : Dword) {body : Ins → State → VOut} (h : Keeps fx fm b0 s)
    (k : ∀ i t, Keeps fx fm b0 t → Keeps fx fm b0 (body i t).state) : Keeps fx fm b0 (s.vStep op w body) := by
  unfold State.vStep
  dsimp only
  split
  · refine State.vIssue_keeps _ h fun n t ht => ?_
    have kk := k (Ins.of w.toNat) t ht
    split
    · rename_i e
      rw [e] at kk
      exact State.vFault_keeps _ _ kk
    · rename_i e
      rw [e] at kk
      exact State.vNext_keeps _ _ _ (State.vSat_keeps _ _ _ kk)
  · exact h

theorem State.ceCheck_keeps {fx fm : Bool} {b0 s : State} (t a : Nat) (hk : Keeps fx fm b0 s) : Keeps fx fm b0 (State.ceCheck s t a).1 := by
  unfold State.ceCheck
  split
  dsimp only
  apply State.emitAt_keeps
  first | with_reducible assumption | assumption
  split
  dsimp only
  apply State.emitAt_keeps
  apply State.setCe_keeps
  first | with_reducible assumption | assumption
  dsimp only
  first | with_reducible assumption | assumption

theorem State.ceLoad_keeps {fx fm : Bool} {b0 s : State} (a : Nat) (hk : Keeps fx fm b0 s) : Keeps fx fm b0 (State.ceLoad s a).1 := by
  unfold State.ceLoad
  extract_lets +onlyGivenNames x0
  split
  dsimp only
  first | with_reducible assumption | assumption
  extract_lets +onlyGivenNames x1
  extract_lets +onlyGivenNames x2
  refine (fun (k2 : Keeps fx fm b0 x2.1) => ?_) (?_ : Keeps fx fm b0 x2.1)
  dsimp only
  first | with_reducible assumption | assumption
  dsimp -zeta only [x2]
  apply State.ceCheck_keeps
  first | with_reducible assumption | assumption

theorem State.ceSeen_keeps {fx fm : Bool} {b0 s : State} (a : Nat) (hk : Keeps fx fm b0 s) : Keeps fx fm b0 (State.ceSeen s a) := by
  unfold State.ceSeen
  extract_lets +onlyGivenNames x0
  refine (fun (k0 : Keeps fx fm b0 x0.1) => ?_) (?_ : Keeps fx fm b0 x0.1)
  split
  apply State.vFault_keeps
  first | with_reducible assumption | assumption
  first | with_reducible assumption | assumption
  dsimp -zeta only [x0]
  apply State.ceCheck_keeps
  first | with_reducible assumption | assumption

theorem State.ceSees_keeps {fx fm : Bool} {b0 s : State} (reads : Nat → Bool) (hk : Keeps fx fm b0 s) : Keeps fx fm b0 (State.ceSees s reads) := by
  unfold State.ceSees
  apply State.forEach_keeps
  first | with_reducible assumption | assumption
  intro v0
  intro v1
  intro v2
  apply State.ceSeen_keeps
  first | with_reducible assumption | assumption

theorem State.ceLoads_keeps {fx fm : Bool} {b0 s : State} (a : Nat) (x1 : Nat) (hk : Keeps fx fm b0 s) : Keeps fx fm b0 (State.ceLoads s a x1).1 := by
  induction x1 generalizing s a with
  | zero =>
    unfold State.ceLoads
    first | with_reducible assumption | assumption
  | succ n ih =>
    unfold State.ceLoads
    split
    dsimp only
    rename_i e0
    refine Keeps.ofEq e0 ?_
    apply State.ceLoad_keeps
    first | with_reducible assumption | assumption
    split
    dsimp only
    rename_i e1
    refine Keeps.ofEq e1 ?_
    apply ih
    rename_i e2 y2_0 y2_1 y2_2
    refine Keeps.ofEq e2 ?_
    apply State.ceLoad_keeps
    first | with_reducible assumption | assumption
    dsimp only
    rename_i e3
    refine Keeps.ofEq e3 ?_
    apply ih
    rename_i e4 y4_0 y4_1 y4_2
    refine Keeps.ofEq e4 ?_
    apply State.ceLoad_keeps
    first | with_reducible assumption | assumption

theorem State.coefFetch_keeps {fx fm : Bool} {b0 s : State} (a n : Nat) (hk : Keeps fx fm b0 s) : Keeps fx fm b0 (State.coefFetch s a n).1 := by
  unfold State.coefFetch
  split
  dsimp only
  first | with_reducible assumption | assumption
  extract_lets +onlyGivenNames x0
  dsimp only
  apply State.forEach_keeps
  first | with_reducible assumption | assumption
  intro v1
  intro v2
  intro v3
  apply State.memReadAt_keeps
  first | with_reducible assumption | assumption

theorem vWithCoef_keeps {fx fm : Bool} {b0 s : State} (n : Nat) {f : Ins → State → VOut} (i : Ins) (h : Keeps fx fm b0 s)
    (k : ∀ t, Keeps fx fm b0 t → Keeps fx fm b0 (f i t).state) : Keeps fx fm b0 (vWithCoef n f i s).state := by
  have hc := State.coefFetch_keeps (s.vAddr i) n h
  unfold vWithCoef
  split
  · rename_i e
    rw [e] at hc
    exact hc
  · rename_i e
    rw [e] at hc
    exact k _ hc

theorem State.packStage_keeps {fx fm : Bool} {b0 s : State} (i : Ins) (useMen : Bool) (ys : List Exact) (pre : Option Nat) (hk : Keeps fx fm b0 s) : Keeps fx fm b0 (State.packStage s i useMen ys pre).state := by
  unfold State.packStage
  extract_lets +onlyGivenNames x0
  extract_lets +onlyGivenNames x1
  split
  dsimp only [VOut.state]
  apply State.setStage_keeps
  first | with_reducible assumption | assumption

theorem vUnary_keeps {fx fm : Bool} {b0 s : State} (f : Dy → Exact × Bool) (i : Ins) (hk : Keeps fx fm b0 s) : Keeps fx fm b0 (vUnary f i s).state := by
  unfold vUnary
  extract_lets +onlyGivenNames x0
  apply State.packStage_keeps
  first | with_reducible assumption | assumption

theorem vMap_keeps {fx fm : Bool} {b0 s : State} (f : Dy → Dy) (i : Ins) (hk : Keeps fx fm b0 s) : Keeps fx fm b0 (vMap f i s).state := by
  unfold vMap
  apply vUnary_keeps
  first | with_reducible assumption | assumption

theorem vBinary_keeps {fx fm : Bool} {b0 s : State} (f : Dy → Dy → Dy) (i : Ins) (hk : Keeps fx fm b0 s) : Keeps fx fm b0 (vBinary f i s).state := by
  unfold vBinary
  apply State.packStage_keeps
  first | with_reducible assumption | assumption

theorem vCoefOp_keeps {fx fm : Bool} {b0 s : State} (f : Dy → Dy → Dy) (i : Ins) (hk : Keeps fx fm b0 s) :
    Keeps fx fm b0 (vCoefOp f i s).state :=
  vWithCoef_keeps 1 i hk fun _ h => vMap_keeps _ _ h

theorem vCompare_keeps {fx fm : Bool} {b0 s : State} (f : Dy → Dy → Bool) (i : Ins) (hk : Keeps fx fm b0 s) : Keeps fx fm b0 (vCompare f i s).state := by
  unfold vCompare
  extract_lets +onlyGivenNames x0
  dsimp only [VOut.state]
  apply State.setVmask_keeps
  first | with_reducible assumption | assumption

theorem State.accStart_keeps {fx fm : Bool} {b0 s : State} (i : Ins) (p : List Int × Int) (hk : Keeps fx fm b0 s) : Keeps fx fm b0 (State.accStart s i p).state := by
  unfold State.accStart
  dsimp only [VOut.state]
  apply State.setAccu_keeps
  first | with_reducible assumption | assumption

theorem State.accAdd_keeps {fx fm : Bool} {b0 s : State} (i : Ins) (p : List Int × Int) (hk : Keeps fx fm b0 s) : Keeps fx fm b0 (State.accAdd s i p).state := by
  unfold State.accAdd
  extract_lets +onlyGivenNames x0
  dsimp only [VOut.state]
  apply State.setAccu_keeps
  first | with_reducible assumption | assumption

theorem vMacB_keeps {fx fm : Bool} {b0 s : State} {f : State → Ins → List Int × Int → VOut} (i : Ins) (h : Keeps fx fm b0 s)
    (k : ∀ t i p, Keeps fx fm b0 t → Keeps fx fm b0 (f t i p).state) : Keeps fx fm b0 (vMacB f i s).state := k _ _ _ h

theorem vMacC_keeps {fx fm : Bool} {b0 s : State} {f : State → Ins → List Int × Int → VOut} (i : Ins) (h : Keeps fx fm b0 s)
    (k : ∀ t i p, Keeps fx fm b0 t → Keeps fx fm b0 (f t i p).state) : Keeps fx fm b0 (vMacC f i s).state :=
  vWithCoef_keeps 1 i h fun _ h => k _ _ _ h

theorem vBodyNop_keeps {fx fm : Bool} {b0 s : State} (i : Ins) (hk : Keeps fx fm b0 s) : Keeps fx fm b0 (vBodyNop i s).state := by
  unfold vBodyNop
  dsimp only [VOut.state]
  first | with_reducible assumption | assumption

theorem vBodyLd_keeps {fx fm : Bool} {b0 s : State} (i : Ins) (hk : Keeps fx fm b0 s) : Keeps fx fm b0 (vBodyLd i s).state := by
  unfold vBodyLd
  split
  dsimp only [VOut.state]
  rename_i e0
  refine Keeps.ofEq e0 ?_
  apply State.ceLoads_keeps
  first | with_reducible assumption | assumption
  apply State.packStage_keeps
  rename_i e1
  refine Keeps.ofEq e1 ?_
  apply State.ceLoads_keeps
  first | with_reducible assumption | assumption

theorem vBodyLdc_keeps {fx fm : Bool} {b0 s : State} (i : Ins) (hk : Keeps fx fm b0 s) : Keeps fx fm b0 (vBodyLdc i s).state := by
  unfold vBodyLdc
  apply vWithCoef_keeps
  first | with_reducible assumption | assumption
  intro v0
  intro v1
  apply State.packStage_keeps
  first | with_reducible assumption | assumption

theorem State.storeElem_keeps {fx fm : Bool} {b0 s : State} (a w : Nat) (hk : Keeps fx fm b0 s) : Keeps fx fm b0 (State.storeElem s a w) := by
  unfold State.storeElem
  extract_lets +onlyGivenNames x0
  refine (fun (k0 : Keeps fx fm b0 x0) => ?_) (?_ : Keeps fx fm b0 x0)
  split
  apply State.setCe_keeps
  first | with_reducible assumption | assumption
  first | with_reducible assumption | assumption
  dsimp -zeta only [x0]
  apply State.setCeWord_keeps
  first | with_reducible assumption | assumption

theorem vBodySt_keeps {fx fm : Bool} {b0 s : State} (i : Ins) (hk : Keeps fx fm b0 s) : Keeps fx fm b0 (vBodySt i s).state := by
  unfold vBodySt
  extract_lets +onlyGivenNames x0
  extract_lets +onlyGivenNames x1
  split
  dsimp only [VOut.state]
  apply State.forEach_keeps
  first | with_reducible assumption | assumption
  intro v2
  intro v3
  intro v4
  apply State.storeElem_keeps
  first | with_reducible assumption | assumption
  dsimp only [VOut.state]
  first | with_reducible assumption | assumption

theorem State.storeSlot_keeps {fx fm : Bool} {b0 s : State} (k : Nat) (d : Int) (hk : Keeps fx fm b0 s) : Keeps fx fm b0 (State.storeSlot s k d) := by
  unfold State.storeSlot
  apply State.setCe_keeps
  first | with_reducible assumption | assumption

theorem vBodySto_keeps {fx fm : Bool} {b0 s : State} (i : Ins) (hk : Keeps fx fm b0 s) : Keeps fx fm b0 (vBodySto i s).state := by
  unfold vBodySto
  extract_lets +onlyGivenNames x0
  extract_lets +onlyGivenNames x1
  split
  dsimp only [VOut.state]
  apply State.forEach_keeps
  first | with_reducible assumption | assumption
  intro v2
  intro v3
  intro v4
  apply State.storeSlot_keeps
  first | with_reducible assumption | assumption
  dsimp only [VOut.state]
  first | with_reducible assumption | assumption

theorem vBodyLda_keeps {fx fm : Bool} {b0 s : State} (i : Ins) (hk : Keeps fx fm b0 s) : Keeps fx fm b0 (vBodyLda i s).state := by
  unfold vBodyLda
  split
  dsimp only [VOut.state]
  rename_i e0
  refine Keeps.ofEq e0 ?_
  apply State.ceLoad_keeps
  first | with_reducible assumption | assumption
  dsimp only [VOut.state]
  apply State.setAreg_keeps
  rename_i e1
  refine Keeps.ofEq e1 ?_
  apply State.ceLoad_keeps
  first | with_reducible assumption | assumption

theorem vBodySeta_keeps {fx fm : Bool} {b0 s : State} (i : Ins) (hk : Keeps fx fm b0 s) : Keeps fx fm b0 (vBodySeta i s).state := by
  unfold vBodySeta
  dsimp only [VOut.state]
  apply State.setAreg_keeps
  first | with_reducible assumption | assumption

theorem vBodyClamp_keeps {fx fm : Bool} {b0 s : State} (i : Ins) (hk : Keeps fx fm b0 s) : Keeps fx fm b0 (vBodyClamp i s).state :=
  vWithCoef_keeps 2 i hk fun _ h => vMap_keeps _ _ h

theorem vBodySel_keeps {fx fm : Bool} {b0 s : State} (i : Ins) (hk : Keeps fx fm b0 s) : Keeps fx fm b0 (vBodySel i s).state := by
  unfold vBodySel
  extract_lets +onlyGivenNames x0
  extract_lets +onlyGivenNames x1
  apply State.packStage_keeps
  first | with_reducible assumption | assumption

theorem vBodyRsum_keeps {fx fm : Bool} {b0 s : State} (i : Ins) (hk : Keeps fx fm b0 s) : Keeps fx fm b0 (vBodyRsum i s).state := by
  unfold vBodyRsum
  apply State.packStage_keeps
  first | with_reducible assumption | assumption

theorem vBodyAcc_keeps {fx fm : Bool} {b0 s : State} (i : Ins) (hk : Keeps fx fm b0 s) : Keeps fx fm b0 (vBodyAcc i s).state := by
  unfold vBodyAcc
  extract_lets +onlyGivenNames x0
  apply State.packStage_keeps
  first | with_reducible assumption | assumption

theorem vJump_keeps {fx fm : Bool} {b0 s : State} (taken : Bool) (i : Ins) (hk : Keeps fx fm b0 s) : Keeps fx fm b0 (vJump taken i s).state := by
  unfold vJump
  split
  dsimp only [VOut.state]
  first | with_reducible assumption | assumption
  dsimp only [VOut.state]
  first | with_reducible assumption | assumption

theorem vBodyLoop_keeps {fx fm : Bool} {b0 s : State} (i : Ins) (hk : Keeps fx fm b0 s) : Keeps fx fm b0 (vBodyLoop i s).state := by
  unfold vBodyLoop
  split
  dsimp only [VOut.state]
  first | with_reducible assumption | assumption
  split
  dsimp only [VOut.state]
  first | with_reducible assumption | assumption
  dsimp only [VOut.state]
  apply State.setCe_keeps
  first | with_reducible assumption | assumption

theorem State.vEndProgram_keeps {fx fm : Bool} {b0 s : State} (t : Nat) (hk : Keeps fx fm b0 s) : Keeps fx fm b0 (State.vEndProgram s t) := by
  unfold State.vEndProgram
  extract_lets +onlyGivenNames x0
  refine (fun (k0 : Keeps fx fm b0 x0) => ?_) (?_ : Keeps fx fm b0 x0)
  extract_lets +onlyGivenNames x1
  apply State.put_keeps
  apply State.put_keeps
  apply State.put_keeps
  apply State.put_keeps
  first | with_reducible assumption | assumption
  dsimp -zeta only [x0]
  apply State.setCe_keeps
  first | with_reducible assumption | assumption

theorem State.vStartProgram_keeps {fx fm : Bool} {b0 s : State} (lclk sclk : Nat) (hk : Keeps fx fm b0 s) : Keeps fx fm b0 (State.vStartProgram s lclk sclk) := by
  unfold State.vStartProgram
  split
  extract_lets +onlyGivenNames x0
  refine (fun (k0 : Keeps fx fm b0 x0) => ?_) (?_ : Keeps fx fm b0 x0)
  split
  apply State.vFault_keeps
  first | with_reducible assumption | assumption
  split
  apply State.vFault_keeps
  apply State.setCe_keeps
  first | with_reducible assumption | assumption
  apply State.put_keeps
  apply State.setCe_keeps
  first | with_reducible assumption | assumption
  dsimp -zeta only [x0]
  apply State.setCe_keeps
  first | with_reducible assumption | assumption
  first | with_reducible assumption | assumption

theorem State.vAbandon_keeps {fx fm : Bool} {b0 s : State}  (hk : Keeps fx fm b0 s) : Keeps fx fm b0 (State.vAbandon s) := by
  unfold State.vAbandon
  split
  apply State.irq_keeps
  apply State.put_keeps
  apply State.put_keeps
  apply State.put_keeps
  apply State.setCe_keeps
  first | with_reducible assumption | assumption
  first | with_reducible assumption | assumption

theorem State.vHalt_keeps {fx fm : Bool} {b0 s : State}  (hk : Keeps fx fm b0 s) : Keeps fx fm b0 (State.vHalt s) := by
  unfold State.vHalt
  split
  apply State.put_keeps
  apply State.put_keeps
  apply State.setCe_keeps
  first | with_reducible assumption | assumption
  first | with_reducible assumption | assumption

theorem State.vPublish_keeps {fx fm : Bool} {b0 s : State}  (hk : Keeps fx fm b0 s) : Keeps fx fm b0 (State.vPublish s) := by
  unfold State.vPublish
  split
  extract_lets +onlyGivenNames x0
  refine (fun (k0 : Keeps fx fm b0 x0) => ?_) (?_ : Keeps fx fm b0 x0)
  split
  first | with_reducible assumption | assumption
  apply State.setCe_keeps
  apply State.put_keeps
  apply State.forEach_keeps
  first | with_reducible assumption | assumption
  intro v1
  intro v2
  intro v3
  apply State.put_keeps
  first | with_reducible assumption | assumption
  dsimp -zeta only [x0]
  apply State.ceSees_keeps
  first | with_reducible assumption | assumption
  first | with_reducible assumption | assumption

theorem State.inputWord_keeps {fx fm : Bool} {b0 s : State} (a w : Nat) (hk : Keeps fx fm b0 s) : Keeps fx fm b0 (State.inputWord s a w) := by
  unfold State.inputWord
  split
  apply State.setCe_keeps
  first | with_reducible assumption | assumption
  apply State.setCeWord_keeps
  first | with_reducible assumption | assumption

theorem State.inputLeg_keeps {fx fm : Bool} {b0 s : State} (n : Nat) (v0 v1 v2 : Int) (l : LegIn) (hk : Keeps fx fm b0 s) : Keeps fx fm b0 (State.inputLeg s n v0 v1 v2 l) := by
  unfold State.inputLeg
  extract_lets +onlyGivenNames x0
  refine (fun (k0 : Keeps fx fm b0 x0) => ?_) (?_ : Keeps fx fm b0 x0)
  split
  apply State.setCe_keeps
  first | with_reducible assumption | assumption
  apply State.setCe_keeps
  first | with_reducible assumption | assumption
  dsimp -zeta only [x0]
  apply State.inputWord_keeps
  apply State.inputWord_keeps
  apply State.inputWord_keeps
  first | with_reducible assumption | assumption

theorem State.tickWords_keeps {fx fm : Bool} {b0 s : State}  (hk : Keeps fx fm b0 s) : Keeps fx fm b0 (State.tickWords s) := by
  unfold State.tickWords
  apply State.setCeWord_keeps
  apply State.setCeWord_keeps
  apply State.setCeWord_keeps
  apply State.setCeWord_keeps
  apply State.setCeWord_keeps
  apply State.setCeWord_keeps
  apply State.setCeWord_keeps
  first | with_reducible assumption | assumption

theorem State.setpointSwap_keeps {fx fm : Bool} {b0 s : State}  (hk : Keeps fx fm b0 s) : Keeps fx fm b0 (State.setpointSwap s) := by
  unfold State.setpointSwap
  apply State.forEach_keeps
  first | with_reducible assumption | assumption
  intro v0
  intro v1
  intro v2
  apply State.setCeWord_keeps
  first | with_reducible assumption | assumption

theorem State.coefApply_keeps {fx fm : Bool} {b0 s : State}  (hk : Keeps fx fm b0 s) : Keeps fx fm b0 (State.coefApply s) := by
  unfold State.coefApply
  split
  first | with_reducible assumption | assumption
  apply State.put_keeps
  apply State.put_keeps
  apply State.setCe_keeps
  apply Keeps.foldl
  first | with_reducible assumption | assumption
  intro v0
  intro v1
  intro v2
  apply State.setCoef_keeps
  first | with_reducible assumption | assumption

theorem State.bankSwap_keeps {fx fm : Bool} {b0 s : State}  (hk : Keeps fx fm b0 s) : Keeps fx fm b0 (State.bankSwap s) := by
  unfold State.bankSwap
  split
  extract_lets +onlyGivenNames x0
  refine (fun (k0 : Keeps fx fm b0 x0) => ?_) (?_ : Keeps fx fm b0 x0)
  extract_lets +onlyGivenNames x1
  refine (fun (k1 : Keeps fx fm b0 x1) => ?_) (?_ : Keeps fx fm b0 x1)
  apply State.irq_keeps
  apply State.emit_keeps
  first | with_reducible assumption | assumption
  dsimp -zeta only [x1]
  apply State.setCe_keeps
  first | with_reducible assumption | assumption
  dsimp -zeta only [x0]
  apply State.put_keeps
  apply State.put_keeps
  first | with_reducible assumption | assumption
  first | with_reducible assumption | assumption

theorem State.vTickStart_keeps {fx fm : Bool} {b0 s : State}  (hk : Keeps fx fm b0 s) : Keeps fx fm b0 (State.vTickStart s) := by
  unfold State.vTickStart
  extract_lets +onlyGivenNames x0
  refine (fun (k0 : Keeps fx fm b0 x0) => ?_) (?_ : Keeps fx fm b0 x0)
  extract_lets +onlyGivenNames x1
  refine (fun (k1 : Keeps fx fm b0 x1) => ?_) (?_ : Keeps fx fm b0 x1)
  extract_lets +onlyGivenNames x2
  extract_lets +onlyGivenNames x3
  refine (fun (k3 : Keeps fx fm b0 x3) => ?_) (?_ : Keeps fx fm b0 x3)
  extract_lets +onlyGivenNames x4
  refine (fun (k4 : Keeps fx fm b0 x4) => ?_) (?_ : Keeps fx fm b0 x4)
  extract_lets +onlyGivenNames x5
  refine (fun (k5 : Keeps fx fm b0 x5) => ?_) (?_ : Keeps fx fm b0 x5)
  apply State.setCe_keeps
  first | with_reducible assumption | assumption
  dsimp -zeta only [x5]
  apply State.tickWords_keeps
  apply State.bankSwap_keeps
  first | with_reducible assumption | assumption
  dsimp -zeta only [x4]
  apply Keeps.foldl
  first | with_reducible assumption | assumption
  intro v6
  intro v7
  intro v8
  apply State.setCeWord_keeps
  first | with_reducible assumption | assumption
  dsimp -zeta only [x3]
  apply State.setCe_keeps
  first | with_reducible assumption | assumption
  dsimp -zeta only [x1]
  apply State.coefApply_keeps
  apply State.setpointSwap_keeps
  apply State.setCe_keeps
  first | with_reducible assumption | assumption
  dsimp -zeta only [x0]
  apply State.putB_keeps
  apply State.vAbandon_keeps
  first | with_reducible assumption | assumption

theorem State.supFault_keeps {fx fm : Bool} {b0 s : State} (c : Nat) (hk : Keeps fx fm b0 s) : Keeps fx fm b0 (State.supFault s c) := by
  unfold State.supFault
  extract_lets +onlyGivenNames x0
  extract_lets +onlyGivenNames x1
  refine (fun (k1 : Keeps fx fm b0 x1) => ?_) (?_ : Keeps fx fm b0 x1)
  extract_lets +onlyGivenNames x2
  refine (fun (k2 : Keeps fx fm b0 x2) => ?_) (?_ : Keeps fx fm b0 x2)
  extract_lets +onlyGivenNames x3
  refine (fun (k3 : Keeps fx fm b0 x3) => ?_) (?_ : Keeps fx fm b0 x3)
  split
  apply State.setCe_keeps
  first | with_reducible assumption | assumption
  first | with_reducible assumption | assumption
  dsimp -zeta only [x3]
  split
  first | with_reducible assumption | assumption
  apply State.irq_keeps
  first | with_reducible assumption | assumption
  dsimp -zeta only [x2]
  apply State.emit_keeps
  first | with_reducible assumption | assumption
  dsimp -zeta only [x1]
  apply State.put_keeps
  first | with_reducible assumption | assumption

theorem State.supChannel_keeps {fx fm : Bool} {b0 s : State} (c : Nat) (hk : Keeps fx fm b0 s) : Keeps fx fm b0 (State.supChannel s c) := by
  unfold State.supChannel
  split
  split
  extract_lets +onlyGivenNames x0
  refine (fun (k0 : Keeps fx fm b0 x0) => ?_) (?_ : Keeps fx fm b0 x0)
  extract_lets +onlyGivenNames x1
  extract_lets +onlyGivenNames x2
  extract_lets +onlyGivenNames x3
  extract_lets +onlyGivenNames x4
  refine (fun (k4 : Keeps fx fm b0 x4) => ?_) (?_ : Keeps fx fm b0 x4)
  split
  apply State.supFault_keeps
  first | with_reducible assumption | assumption
  first | with_reducible assumption | assumption
  dsimp -zeta only [x4]
  apply State.put_keeps
  apply State.put_keeps
  apply State.putB_keeps
  apply State.put_keeps
  first | with_reducible assumption | assumption
  dsimp -zeta only [x0]
  apply State.ceSeen_keeps
  first | with_reducible assumption | assumption
  apply State.put_keeps
  first | with_reducible assumption | assumption
  first | with_reducible assumption | assumption

theorem State.supJudge_keeps {fx fm : Bool} {b0 s : State}  (hk : Keeps fx fm b0 s) : Keeps fx fm b0 (State.supJudge s) := by
  unfold State.supJudge
  split
  apply State.forEach_keeps
  first | with_reducible assumption | assumption
  intro v0
  intro v1
  intro v2
  apply State.supChannel_keeps
  first | with_reducible assumption | assumption
  first | with_reducible assumption | assumption

theorem State.vFreeze_keeps {fx fm : Bool} {b0 s : State}  (hk : Keeps fx fm b0 s) : Keeps fx fm b0 (State.vFreeze s) := by
  unfold State.vFreeze
  split
  first | with_reducible assumption | assumption
  extract_lets +onlyGivenNames x0
  refine (fun (k0 : Keeps fx fm b0 x0) => ?_) (?_ : Keeps fx fm b0 x0)
  apply State.setCe_keeps
  apply State.supJudge_keeps
  first | with_reducible assumption | assumption
  dsimp -zeta only [x0]
  apply State.forEach_keeps
  first | with_reducible assumption | assumption
  intro v1
  intro v2
  intro v3
  apply State.setCeWord_keeps
  first | with_reducible assumption | assumption

end Sys2Proof.Machine
end

