-- ==== Sys2Proof/Laws/KeepsAdc.lean ====
section
/-! SUPPORT. What the operations of Machine/Adc.lean keep. -/

namespace Sys2Proof.Machine

open Sys2Proof

theorem State.setAdc_keeps {fx fm : Bool} {b0 s : State} (f : AdcSt → AdcSt) (hk : Keeps fx fm b0 s) : Keeps fx fm b0 (State.setAdc s f) := by
  unfold State.setAdc
  refine Keeps.lit ?_ rfl rfl
  first | with_reducible assumption | assumption

theorem State.slotOvr_keeps {fx fm : Bool} {b0 s : State} (k conv : Nat) (missed : Bool) (hk : Keeps fx fm b0 s) : Keeps fx fm b0 (State.slotOvr s k conv missed) := by
  unfold State.slotOvr
  extract_lets +onlyGivenNames x0
  extract_lets +onlyGivenNames x1
  refine (fun (k1 : Keeps fx fm b0 x1) => ?_) (?_ : Keeps fx fm b0 x1)
  split
  first | with_reducible assumption | assumption
  apply State.emit_keeps
  first | with_reducible assumption | assumption
  dsimp -zeta only [x1]
  apply State.irq_keeps
  apply State.put_keeps
  first | with_reducible assumption | assumption

theorem State.noteCode_keeps {fx fm : Bool} {b0 s : State} (k : Nat) (v : Int) (hk : Keeps fx fm b0 s) : Keeps fx fm b0 (State.noteCode s k v) := by
  unfold State.noteCode
  apply State.setAdc_keeps
  first | with_reducible assumption | assumption

theorem State.slotFresh_keeps {fx fm : Bool} {b0 s : State} (k conv : Nat) (v : Nat) (hk : Keeps fx fm b0 s) : Keeps fx fm b0 (State.slotFresh s k conv v) := by
  unfold State.slotFresh
  extract_lets +onlyGivenNames x0
  refine (fun (k0 : Keeps fx fm b0 x0) => ?_) (?_ : Keeps fx fm b0 x0)
  extract_lets +onlyGivenNames x1
  apply State.put_keeps
  split
  apply State.slotOvr_keeps
  first | with_reducible assumption | assumption
  first | with_reducible assumption | assumption
  dsimp -zeta only [x0]
  apply State.put_keeps
  first | with_reducible assumption | assumption

theorem State.slotRecord_keeps {fx : Bool} {b0 s : State} (e k conv t : Nat) (d1 d2 : Int) (pair late clip trig : Bool) (hk : Keeps fx false b0 s) : Keeps fx false b0 (State.slotRecord s e k conv t d1 d2 pair late clip trig) := by
  unfold State.slotRecord
  extract_lets +onlyGivenNames x0
  split
  extract_lets +onlyGivenNames x1
  extract_lets +onlyGivenNames x2
  apply State.ringPush_keeps
  apply State.draw_keeps
  first | with_reducible assumption | assumption
  first | with_reducible assumption | assumption

theorem State.slotLate_keeps {fx fm : Bool} {b0 s : State} (k conv : Nat) (hk : Keeps fx fm b0 s) : Keeps fx fm b0 (State.slotLate s k conv) := by
  unfold State.slotLate
  apply State.emit_keeps
  apply State.irq_keeps
  apply State.bumpSat_keeps
  apply State.put_keeps
  first | with_reducible assumption | assumption

theorem State.shadowPair_keeps {fx fm : Bool} {b0 s : State} (c served raw : Nat) (hk : Keeps fx fm b0 s) : Keeps fx fm b0 (State.shadowPair s c served raw) := by
  unfold State.shadowPair
  split
  split
  apply State.setAdc_keeps
  first | with_reducible assumption | assumption
  first | with_reducible assumption | assumption
  first | with_reducible assumption | assumption

theorem State.tickResult_keeps {fx : Bool} {b0 s : State} (k : Nat) (q q2 q3 : Int) (hk : Keeps fx false b0 s) : Keeps fx false b0 (State.tickResult s k q q2 q3) := by
  unfold State.tickResult
  extract_lets +onlyGivenNames x0
  extract_lets +onlyGivenNames x1
  split
  first | with_reducible assumption | assumption
  extract_lets +onlyGivenNames x2
  extract_lets +onlyGivenNames x3
  extract_lets +onlyGivenNames x4
  extract_lets +onlyGivenNames x5
  extract_lets +onlyGivenNames x6
  refine (fun (k6 : Keeps fx false b0 x6) => ?_) (?_ : Keeps fx false b0 x6)
  extract_lets +onlyGivenNames x7
  extract_lets +onlyGivenNames x8
  extract_lets +onlyGivenNames x9
  extract_lets +onlyGivenNames x10
  extract_lets +onlyGivenNames x11
  extract_lets +onlyGivenNames x12
  extract_lets +onlyGivenNames x13
  extract_lets +onlyGivenNames x14
  refine (fun (k14 : Keeps fx false b0 x14) => ?_) (?_ : Keeps fx false b0 x14)
  extract_lets +onlyGivenNames x15
  refine (fun (k15 : Keeps fx false b0 x15) => ?_) (?_ : Keeps fx false b0 x15)
  extract_lets +onlyGivenNames x16
  refine (fun (k16 : Keeps fx false b0 x16) => ?_) (?_ : Keeps fx false b0 x16)
  extract_lets +onlyGivenNames x17
  extract_lets +onlyGivenNames x18
  extract_lets +onlyGivenNames x19
  refine (fun (k19 : Keeps fx false b0 x19) => ?_) (?_ : Keeps fx false b0 x19)
  split
  apply State.slotLate_keeps
  first | with_reducible assumption | assumption
  first | with_reducible assumption | assumption
  dsimp -zeta only [x19]
  apply State.slotRecord_keeps
  first | with_reducible assumption | assumption
  dsimp -zeta only [x16]
  apply State.noteCode_keeps
  apply State.slotFresh_keeps
  first | with_reducible assumption | assumption
  dsimp -zeta only [x15]
  apply State.setAdc_keeps
  first | with_reducible assumption | assumption
  dsimp -zeta only [x14]
  apply State.inputWord_keeps
  apply State.advTo_keeps
  first | with_reducible assumption | assumption
  dsimp -zeta only [x6]
  apply State.shadowPair_keeps
  first | with_reducible assumption | assumption

theorem execTickSlotResult_keeps {fx : Bool} {b0 s t : State} (slot : Fin 128) (q partner shadow : Int) (hk : Keeps fx false b0 s) (e : execTickSlotResult slot q partner shadow s = .next t) : Keeps fx false b0 t := by
  unfold execTickSlotResult at e
  cases e
  split
  apply State.tickResult_keeps
  first | with_reducible assumption | assumption
  first | with_reducible assumption | assumption

theorem State.bgResult_keeps {fx : Bool} {b0 s : State} (k conv : Nat) (q : Int) (trig : Bool) (hk : Keeps fx false b0 s) : Keeps fx false b0 (State.bgResult s k conv q trig) := by
  unfold State.bgResult
  extract_lets +onlyGivenNames x0
  extract_lets +onlyGivenNames x1
  extract_lets +onlyGivenNames x2
  extract_lets +onlyGivenNames x3
  extract_lets +onlyGivenNames x4
  refine (fun (k4 : Keeps fx false b0 x4) => ?_) (?_ : Keeps fx false b0 x4)
  apply State.slotRecord_keeps
  apply State.noteCode_keeps
  apply State.slotFresh_keeps
  first | with_reducible assumption | assumption
  dsimp -zeta only [x4]
  split
  apply State.inputWord_keeps
  first | with_reducible assumption | assumption
  first | with_reducible assumption | assumption

theorem State.adcTrigger_keeps {fx fm : Bool} {b0 s : State} (line : Nat) (hk : Keeps fx fm b0 s) : Keeps fx fm b0 (State.adcTrigger s line) := by
  unfold State.adcTrigger
  apply State.forEach_keeps
  first | with_reducible assumption | assumption
  intro v0
  intro v1
  intro v2
  extract_lets +onlyGivenNames x3
  split
  split
  apply State.slotOvr_keeps
  first | with_reducible assumption | assumption
  apply State.setAdc_keeps
  first | with_reducible assumption | assumption
  first | with_reducible assumption | assumption

theorem State.setCal_keeps {fx fm : Bool} {b0 s : State} (conv : Nat) (c : CalOut) (hk : Keeps fx fm b0 s) : Keeps fx fm b0 (State.setCal s conv c) := by
  unfold State.setCal
  apply State.putCfg_keeps
  apply State.putCfg_keeps
  first | with_reducible assumption | assumption

theorem State.setMid_keeps {fx fm : Bool} {b0 s : State} (conv : Nat) (c : CalOut) (hk : Keeps fx fm b0 s) : Keeps fx fm b0 (State.setMid s conv c) := by
  unfold State.setMid
  apply State.putI_keeps
  first | with_reducible assumption | assumption

theorem State.startupRetire_keeps {fx fm : Bool} {b0 s : State} (conv : Nat) (hk : Keeps fx fm b0 s) : Keeps fx fm b0 (State.startupRetire s conv) := by
  unfold State.startupRetire
  extract_lets +onlyGivenNames x0
  refine (fun (k0 : Keeps fx fm b0 x0) => ?_) (?_ : Keeps fx fm b0 x0)
  split
  apply State.put_keeps
  first | with_reducible assumption | assumption
  extract_lets +onlyGivenNames x1
  refine (fun (k1 : Keeps fx fm b0 x1) => ?_) (?_ : Keeps fx fm b0 x1)
  split
  apply State.put_keeps
  first | with_reducible assumption | assumption
  apply State.emit_keeps
  apply State.irq_keeps
  first | with_reducible assumption | assumption
  dsimp -zeta only [x1]
  apply State.put_keeps
  first | with_reducible assumption | assumption
  dsimp -zeta only [x0]
  apply State.emit_keeps
  apply State.irq_keeps
  first | with_reducible assumption | assumption

theorem State.startupCal_keeps {fx fm : Bool} {b0 s : State} (sums : List (Nat × Nat × Nat)) (hk : Keeps fx fm b0 s) : Keeps fx fm b0 (State.startupCal s sums) := by
  unfold State.startupCal
  extract_lets +onlyGivenNames x0
  extract_lets +onlyGivenNames x1
  extract_lets +onlyGivenNames x2
  refine (fun (k2 : Keeps fx fm b0 x2) => ?_) (?_ : Keeps fx fm b0 x2)
  extract_lets +onlyGivenNames x3
  extract_lets +onlyGivenNames x4
  refine (fun (k4 : Keeps fx fm b0 x4) => ?_) (?_ : Keeps fx fm b0 x4)
  extract_lets +onlyGivenNames x5
  refine (fun (k5 : Keeps fx fm b0 x5) => ?_) (?_ : Keeps fx fm b0 x5)
  extract_lets +onlyGivenNames x6
  refine (fun (k6 : Keeps fx fm b0 x6) => ?_) (?_ : Keeps fx fm b0 x6)
  apply State.irq_keeps
  apply State.put_keeps
  first | with_reducible assumption | assumption
  dsimp -zeta only [x6]
  split
  first | with_reducible assumption | assumption
  apply State.put_keeps
  first | with_reducible assumption | assumption
  dsimp -zeta only [x5]
  apply State.forEach_keeps
  first | with_reducible assumption | assumption
  intro v7
  intro v8
  intro v9
  apply State.startupRetire_keeps
  first | with_reducible assumption | assumption
  dsimp -zeta only [x4]
  split
  apply State.startupRetire_keeps
  first | with_reducible assumption | assumption
  first | with_reducible assumption | assumption
  dsimp -zeta only [x2]
  apply Keeps.foldl
  first | with_reducible assumption | assumption
  intro v10
  intro v11
  intro v12
  apply State.setMid_keeps
  split
  apply State.setCal_keeps
  first | with_reducible assumption | assumption
  first | with_reducible assumption | assumption

theorem execAdcStartupCal_keeps {fx fm : Bool} {b0 s t : State} (sums : List (Nat × Nat × Nat)) (hk : Keeps fx fm b0 s) (e : execAdcStartupCal sums s = .next t) : Keeps fx fm b0 t := by
  unfold execAdcStartupCal at e
  cases e
  split
  apply State.startupCal_keeps
  first | with_reducible assumption | assumption
  first | with_reducible assumption | assumption

theorem State.rotFail_keeps {fx fm : Bool} {b0 s : State} (outPhase calFailed : Bool) (hk : Keeps fx fm b0 s) : Keeps fx fm b0 (State.rotFail s outPhase calFailed) := by
  unfold State.rotFail
  extract_lets +onlyGivenNames x0
  extract_lets +onlyGivenNames x1
  extract_lets +onlyGivenNames x2
  refine (fun (k2 : Keeps fx fm b0 x2) => ?_) (?_ : Keeps fx fm b0 x2)
  split
  extract_lets +onlyGivenNames x3
  refine (fun (k3 : Keeps fx fm b0 x3) => ?_) (?_ : Keeps fx fm b0 x3)
  apply State.emit_keeps
  apply State.irq_keeps
  apply State.put_keeps
  first | with_reducible assumption | assumption
  dsimp -zeta only [x3]
  apply State.setAdc_keeps
  first | with_reducible assumption | assumption
  extract_lets +onlyGivenNames x4
  refine (fun (k4 : Keeps fx fm b0 x4) => ?_) (?_ : Keeps fx fm b0 x4)
  extract_lets +onlyGivenNames x5
  refine (fun (k5 : Keeps fx fm b0 x5) => ?_) (?_ : Keeps fx fm b0 x5)
  apply State.emit_keeps
  apply State.irq_keeps
  apply State.put_keeps
  first | with_reducible assumption | assumption
  dsimp -zeta only [x5]
  split
  apply State.put_keeps
  first | with_reducible assumption | assumption
  apply State.put_keeps
  first | with_reducible assumption | assumption
  dsimp -zeta only [x4]
  apply State.setAdc_keeps
  first | with_reducible assumption | assumption
  dsimp -zeta only [x2]
  apply State.setAdc_keeps
  first | with_reducible assumption | assumption

theorem execRotCalibrationDone_keeps {fx fm : Bool} {b0 s t : State} (lo hi mid : Nat) (hk : Keeps fx fm b0 s) (e : execRotCalibrationDone lo hi mid s = .next t) : Keeps fx fm b0 t := by
  unfold execRotCalibrationDone at e
  cases e
  extract_lets +onlyGivenNames x0
  split
  extract_lets +onlyGivenNames x1
  extract_lets +onlyGivenNames x2
  refine (fun (k2 : Keeps fx fm b0 x2) => ?_) (?_ : Keeps fx fm b0 x2)
  split
  apply State.put_keeps
  apply State.setCal_keeps
  first | with_reducible assumption | assumption
  apply State.rotFail_keeps
  first | with_reducible assumption | assumption
  dsimp -zeta only [x2]
  apply State.setMid_keeps
  apply State.setAdc_keeps
  first | with_reducible assumption | assumption
  split
  extract_lets +onlyGivenNames x3
  extract_lets +onlyGivenNames x4
  refine (fun (k4 : Keeps fx fm b0 x4) => ?_) (?_ : Keeps fx fm b0 x4)
  split
  apply State.put_keeps
  apply State.setAdc_keeps
  first | with_reducible assumption | assumption
  apply State.rotFail_keeps
  first | with_reducible assumption | assumption
  dsimp -zeta only [x4]
  apply State.setMid_keeps
  first | with_reducible assumption | assumption
  first | with_reducible assumption | assumption

theorem State.shadowJudge_keeps {fx fm : Bool} {b0 s : State} (d : Int) (n : Nat) (hk : Keeps fx fm b0 s) : Keeps fx fm b0 (State.shadowJudge s d n) := by
  unfold State.shadowJudge
  extract_lets +onlyGivenNames x0
  extract_lets +onlyGivenNames x1
  refine (fun (k1 : Keeps fx fm b0 x1) => ?_) (?_ : Keeps fx fm b0 x1)
  split
  apply State.rotFail_keeps
  first | with_reducible assumption | assumption
  apply State.setAdc_keeps
  first | with_reducible assumption | assumption
  dsimp -zeta only [x1]
  apply State.putI_keeps
  first | with_reducible assumption | assumption

theorem execRotShadowDone_keeps {fx fm : Bool} {b0 s t : State} (mids : List (Int × Int)) (hk : Keeps fx fm b0 s) (e : execRotShadowDone mids s = .next t) : Keeps fx fm b0 t := by
  unfold execRotShadowDone at e
  cases e
  split
  apply State.shadowJudge_keeps
  first | with_reducible assumption | assumption
  first | with_reducible assumption | assumption

theorem State.rotAdvance_keeps {fx fm : Bool} {b0 s : State}  (hk : Keeps fx fm b0 s) : Keeps fx fm b0 (State.rotAdvance s) := by
  unfold State.rotAdvance
  apply State.put_keeps
  apply State.put_keeps
  first | with_reducible assumption | assumption

theorem execRotDwellEnd_keeps {fx fm : Bool} {b0 s t : State}  (hk : Keeps fx fm b0 s) (e : execRotDwellEnd s = .next t) : Keeps fx fm b0 t := by
  unfold execRotDwellEnd at e
  cases e
  split
  apply State.rotAdvance_keeps
  apply State.advUp_keeps
  first | with_reducible assumption | assumption
  first | with_reducible assumption | assumption

theorem State.rotStepTest_keeps {fx fm : Bool} {b0 s : State}  (hk : Keeps fx fm b0 s) : Keeps fx fm b0 (State.rotStepTest s) := by
  unfold State.rotStepTest
  split
  apply State.rotAdvance_keeps
  first | with_reducible assumption | assumption
  first | with_reducible assumption | assumption

theorem State.rotCalErr_keeps {fx fm : Bool} {b0 s : State}  (hk : Keeps fx fm b0 s) : Keeps fx fm b0 (State.rotCalErr s) := by
  unfold State.rotCalErr
  apply State.setAdc_keeps
  first | with_reducible assumption | assumption

theorem State.rotRestart_keeps {fx fm : Bool} {b0 s : State}  (hk : Keeps fx fm b0 s) : Keeps fx fm b0 (State.rotRestart s) := by
  unfold State.rotRestart
  split
  apply State.rotAdvance_keeps
  first | with_reducible assumption | assumption
  first | with_reducible assumption | assumption

theorem State.rotSwap_keeps {fx fm : Bool} {b0 s : State}  (hk : Keeps fx fm b0 s) : Keeps fx fm b0 (State.rotSwap s) := by
  unfold State.rotSwap
  extract_lets +onlyGivenNames x0
  split
  apply State.setAdc_keeps
  apply State.put_keeps
  apply State.put_keeps
  first | with_reducible assumption | assumption
  split
  extract_lets +onlyGivenNames x1
  extract_lets +onlyGivenNames x2
  refine (fun (k2 : Keeps fx fm b0 x2) => ?_) (?_ : Keeps fx fm b0 x2)
  extract_lets +onlyGivenNames x3
  refine (fun (k3 : Keeps fx fm b0 x3) => ?_) (?_ : Keeps fx fm b0 x3)
  extract_lets +onlyGivenNames x4
  refine (fun (k4 : Keeps fx fm b0 x4) => ?_) (?_ : Keeps fx fm b0 x4)
  apply State.emit_keeps
  first | with_reducible assumption | assumption
  dsimp -zeta only [x4]
  apply State.setAdc_keeps
  first | with_reducible assumption | assumption
  dsimp -zeta only [x3]
  apply State.irq_keeps
  apply State.put_keeps
  apply State.bumpSat_keeps
  first | with_reducible assumption | assumption
  dsimp -zeta only [x2]
  apply State.put_keeps
  apply State.putCfg_keeps
  apply State.putCfg_keeps
  first | with_reducible assumption | assumption
  first | with_reducible assumption | assumption

theorem State.rotStart_keeps {fx fm : Bool} {b0 s : State}  (hk : Keeps fx fm b0 s) : Keeps fx fm b0 (State.rotStart s) := by
  unfold State.rotStart
  extract_lets +onlyGivenNames x0
  split
  split
  apply State.put_keeps
  first | with_reducible assumption | assumption
  first | with_reducible assumption | assumption
  split
  apply State.put_keeps
  first | with_reducible assumption | assumption
  first | with_reducible assumption | assumption

theorem State.rotCount_keeps {fx fm : Bool} {b0 s : State}  (hk : Keeps fx fm b0 s) : Keeps fx fm b0 (State.rotCount s) := by
  unfold State.rotCount
  apply State.setAdc_keeps
  first | with_reducible assumption | assumption

theorem State.rotTick_keeps {fx fm : Bool} {b0 s : State}  (hk : Keeps fx fm b0 s) : Keeps fx fm b0 (State.rotTick s) := by
  unfold State.rotTick
  apply State.rotCount_keeps
  apply State.rotStart_keeps
  apply State.rotSwap_keeps
  first | with_reducible assumption | assumption

theorem State.slotCut_keeps {fx fm : Bool} {b0 s : State}  (hk : Keeps fx fm b0 s) : Keeps fx fm b0 (State.slotCut s) := by
  unfold State.slotCut
  extract_lets +onlyGivenNames x0
  split
  first | with_reducible assumption | assumption
  extract_lets +onlyGivenNames x1
  refine (fun (k1 : Keeps fx fm b0 x1) => ?_) (?_ : Keeps fx fm b0 x1)
  apply State.emit_keeps
  apply State.irq_keeps
  apply State.put_keeps
  first | with_reducible assumption | assumption
  dsimp -zeta only [x1]
  apply State.forEach_keeps
  first | with_reducible assumption | assumption
  intro v2
  intro v3
  intro v4
  apply State.putCfg_keeps
  first | with_reducible assumption | assumption

theorem State.adcFreeze_keeps {fx fm : Bool} {b0 s : State}  (hk : Keeps fx fm b0 s) : Keeps fx fm b0 (State.adcFreeze s) := by
  unfold State.adcFreeze
  apply State.setAdc_keeps
  first | with_reducible assumption | assumption

theorem State.adcTickStart_keeps {fx fm : Bool} {b0 s : State}  (hk : Keeps fx fm b0 s) : Keeps fx fm b0 (State.adcTickStart s) := by
  unfold State.adcTickStart
  extract_lets +onlyGivenNames x0
  extract_lets +onlyGivenNames x1
  refine (fun (k1 : Keeps fx fm b0 x1) => ?_) (?_ : Keeps fx fm b0 x1)
  split
  apply State.rotTick_keeps
  first | with_reducible assumption | assumption
  first | with_reducible assumption | assumption
  dsimp -zeta only [x1]
  apply State.setAdc_keeps
  first | with_reducible assumption | assumption

end Sys2Proof.Machine
end

