-- ==== Sys2Proof/Laws/KeepsLink.lean ====
section
/-! SUPPORT. What the operations of Machine/Link.lean keep. -/

namespace Sys2Proof.Machine

open Sys2Proof

theorem State.pushWordDone_keeps {fx : Bool} {b0 s : State} (p leg : Nat) (good : Bool) (hk : Keeps fx false b0 s) : Keeps fx false b0 (State.pushWordDone s p leg good) := by
  unfold State.pushWordDone
  extract_lets +onlyGivenNames x0
  split
  extract_lets +onlyGivenNames x1
  split
  apply State.put_keeps
  first | with_reducible assumption | assumption
  first | with_reducible assumption | assumption
  apply State.latchLeg_keeps
  apply State.setPort_keeps
  first | with_reducible assumption | assumption

theorem State.endTag_keeps {fx : Bool} {b0 s : State} (p t status rdata : Nat) (quar : Bool) (hk : Keeps fx false b0 s) : Keeps fx false b0 (State.endTag s p t status rdata quar) := by
  unfold State.endTag
  extract_lets +onlyGivenNames x0
  extract_lets +onlyGivenNames x1
  refine (fun (k1 : Keeps fx false b0 x1) => ?_) (?_ : Keeps fx false b0 x1)
  extract_lets +onlyGivenNames x2
  refine (fun (k2 : Keeps fx false b0 x2) => ?_) (?_ : Keeps fx false b0 x2)
  split
  apply State.ringPush_keeps
  first | with_reducible assumption | assumption
  split
  apply State.pushWordDone_keeps
  first | with_reducible assumption | assumption
  apply State.tripClrDone_keeps
  first | with_reducible assumption | assumption
  dsimp -zeta only [x2]
  split
  apply State.put_keeps
  first | with_reducible assumption | assumption
  first | with_reducible assumption | assumption
  dsimp -zeta only [x1]
  apply State.setTag_keeps
  apply State.put_keeps
  first | with_reducible assumption | assumption

theorem State.abortRequest_keeps {fx : Bool} {b0 s : State} (p q : Nat) (hk : Keeps fx false b0 s) : Keeps fx false b0 (State.abortRequest s p q) := by
  unfold State.abortRequest
  apply State.draw_keeps
  apply State.ringPush_keeps
  first | with_reducible assumption | assumption

theorem State.abortFrom_keeps {fx : Bool} {b0 s : State} (p i : Nat) (x1 : Nat) (hk : Keeps fx false b0 s) : Keeps fx false b0 (State.abortFrom s p i x1) := by
  induction x1 generalizing s i with
  | zero =>
    unfold State.abortFrom
    first | with_reducible assumption | assumption
  | succ n ih =>
    unfold State.abortFrom
    apply ih
    apply State.abortRequest_keeps
    first | with_reducible assumption | assumption

theorem State.abortRing_keeps {fx : Bool} {b0 s : State} (p : Nat) (hk : Keeps fx false b0 s) : Keeps fx false b0 (State.abortRing s p) := by
  unfold State.abortRing
  apply State.put_keeps
  apply State.abortFrom_keeps
  first | with_reducible assumption | assumption

theorem State.takeRequest_keeps {fx : Bool} {b0 s : State} (p : Nat) (hk : Keeps fx false b0 s) : Keeps fx false b0 (State.takeRequest s p) := by
  unfold State.takeRequest
  split
  first | with_reducible assumption | assumption
  extract_lets +onlyGivenNames x0
  extract_lets +onlyGivenNames x1
  extract_lets +onlyGivenNames x2
  extract_lets +onlyGivenNames x3
  extract_lets +onlyGivenNames x4
  extract_lets +onlyGivenNames x5
  split
  first | with_reducible assumption | assumption
  split
  first | with_reducible assumption | assumption
  extract_lets +onlyGivenNames x6
  refine (fun (k6 : Keeps fx false b0 x6) => ?_) (?_ : Keeps fx false b0 x6)
  split
  apply State.abortRequest_keeps
  first | with_reducible assumption | assumption
  apply State.issueTag_keeps
  first | with_reducible assumption | assumption
  dsimp -zeta only [x6]
  apply State.ringPop_keeps
  first | with_reducible assumption | assumption

theorem State.response_keeps {fx : Bool} {b0 s : State} (p : Nat) (b : Dword) (hk : Keeps fx false b0 s) : Keeps fx false b0 (State.response s p b) := by
  unfold State.response
  extract_lets +onlyGivenNames x0
  split
  apply State.pump_keeps
  apply State.endTag_keeps
  first | with_reducible assumption | assumption
  apply State.emit_keeps
  first | with_reducible assumption | assumption

theorem State.enterLink_keeps {fx fm : Bool} {b0 s : State} (p st : Nat) (hk : Keeps fx fm b0 s) : Keeps fx fm b0 (State.enterLink s p st) := by
  unfold State.enterLink
  apply State.putB_keeps
  apply State.put_keeps
  apply State.setPort_keeps
  first | with_reducible assumption | assumption

theorem State.dropTags_keeps {fx : Bool} {b0 s : State} (p : Nat) (hk : Keeps fx false b0 s) : Keeps fx false b0 (State.dropTags s p) := by
  unfold State.dropTags
  apply State.forEach_keeps
  first | with_reducible assumption | assumption
  intro v0
  intro v1
  intro v2
  split
  apply State.endTag_keeps
  first | with_reducible assumption | assumption
  first | with_reducible assumption | assumption

theorem State.clearLink_keeps {fx : Bool} {b0 s : State} (p : Nat) (hk : Keeps fx false b0 s) : Keeps fx false b0 (State.clearLink s p) := by
  unfold State.clearLink
  extract_lets +onlyGivenNames x0
  extract_lets +onlyGivenNames x1
  extract_lets +onlyGivenNames x2
  refine (fun (k2 : Keeps fx false b0 x2) => ?_) (?_ : Keeps fx false b0 x2)
  apply State.forEach_keeps
  first | with_reducible assumption | assumption
  intro v3
  intro v4
  intro v5
  apply State.latchLeg_keeps
  first | with_reducible assumption | assumption
  dsimp -zeta only [x2]
  apply State.put_keeps
  apply State.setPort_keeps
  first | with_reducible assumption | assumption

theorem State.enterClock_keeps {fx fm : Bool} {b0 s : State} (p : Nat) (hk : Keeps fx fm b0 s) : Keeps fx fm b0 (State.enterClock s p) := by
  unfold State.enterClock
  apply State.enterLink_keeps
  apply State.put_keeps
  apply State.put_keeps
  apply State.setPort_keeps
  first | with_reducible assumption | assumption

theorem State.enterDown_keeps {fx fm : Bool} {b0 s : State} (p dwell : Nat) (hk : Keeps fx fm b0 s) : Keeps fx fm b0 (State.enterDown s p dwell) := by
  unfold State.enterDown
  extract_lets +onlyGivenNames x0
  refine (fun (k0 : Keeps fx fm b0 x0) => ?_) (?_ : Keeps fx fm b0 x0)
  apply State.setPort_keeps
  first | with_reducible assumption | assumption
  dsimp -zeta only [x0]
  apply State.enterLink_keeps
  first | with_reducible assumption | assumption

theorem State.trainFail_keeps {fx : Bool} {b0 s : State} (p cause : Nat) (hk : Keeps fx false b0 s) : Keeps fx false b0 (State.trainFail s p cause) := by
  unfold State.trainFail
  extract_lets +onlyGivenNames x0
  extract_lets +onlyGivenNames x1
  refine (fun (k1 : Keeps fx false b0 x1) => ?_) (?_ : Keeps fx false b0 x1)
  apply State.enterDown_keeps
  apply State.clearLink_keeps
  apply State.emit_keeps
  first | with_reducible assumption | assumption
  dsimp -zeta only [x1]
  apply State.irq_keeps
  apply State.put_keeps
  apply State.put_keeps
  first | with_reducible assumption | assumption

theorem State.lossOfLink_keeps {fx : Bool} {b0 s : State} (p why : Nat) (off : Bool) (hk : Keeps fx false b0 s) : Keeps fx false b0 (State.lossOfLink s p why off) := by
  unfold State.lossOfLink
  extract_lets +onlyGivenNames x0
  extract_lets +onlyGivenNames x1
  refine (fun (k1 : Keeps fx false b0 x1) => ?_) (?_ : Keeps fx false b0 x1)
  extract_lets +onlyGivenNames x2
  refine (fun (k2 : Keeps fx false b0 x2) => ?_) (?_ : Keeps fx false b0 x2)
  extract_lets +onlyGivenNames x3
  refine (fun (k3 : Keeps fx false b0 x3) => ?_) (?_ : Keeps fx false b0 x3)
  apply State.forEach_keeps
  first | with_reducible assumption | assumption
  intro v4
  intro v5
  intro v6
  apply State.latchLeg_keeps
  first | with_reducible assumption | assumption
  dsimp -zeta only [x3]
  apply State.emit_keeps
  apply State.irq_keeps
  apply State.bumpSat_keeps
  first | with_reducible assumption | assumption
  dsimp -zeta only [x2]
  apply State.put_keeps
  apply State.clearLink_keeps
  apply State.dropTags_keeps
  first | with_reducible assumption | assumption
  dsimp -zeta only [x1]
  split
  apply State.enterLink_keeps
  first | with_reducible assumption | assumption
  apply State.enterDown_keeps
  first | with_reducible assumption | assumption

theorem State.linkComesUp_keeps {fx fm : Bool} {b0 s : State} (p desat : Nat) (hk : Keeps fx fm b0 s) : Keeps fx fm b0 (State.linkComesUp s p desat) := by
  unfold State.linkComesUp
  extract_lets +onlyGivenNames x0
  extract_lets +onlyGivenNames x1
  refine (fun (k1 : Keeps fx fm b0 x1) => ?_) (?_ : Keeps fx fm b0 x1)
  extract_lets +onlyGivenNames x2
  extract_lets +onlyGivenNames x3
  refine (fun (k3 : Keeps fx fm b0 x3) => ?_) (?_ : Keeps fx fm b0 x3)
  extract_lets +onlyGivenNames x4
  refine (fun (k4 : Keeps fx fm b0 x4) => ?_) (?_ : Keeps fx fm b0 x4)
  extract_lets +onlyGivenNames x5
  refine (fun (k5 : Keeps fx fm b0 x5) => ?_) (?_ : Keeps fx fm b0 x5)
  apply State.forEach_keeps
  first | with_reducible assumption | assumption
  intro v6
  intro v7
  intro v8
  apply State.startPush_keeps
  first | with_reducible assumption | assumption
  dsimp -zeta only [x5]
  apply State.emit_keeps
  first | with_reducible assumption | assumption
  dsimp -zeta only [x4]
  apply State.irq_keeps
  apply State.put_keeps
  apply State.put_keeps
  first | with_reducible assumption | assumption
  dsimp -zeta only [x3]
  apply State.setPort_keeps
  first | with_reducible assumption | assumption
  dsimp -zeta only [x1]
  apply State.enterLink_keeps
  first | with_reducible assumption | assumption

theorem State.logTest_keeps {fx fm : Bool} {b0 s : State} (p loop : Nat) (hk : Keeps fx fm b0 s) : Keeps fx fm b0 (State.logTest s p loop) := by
  unfold State.logTest
  extract_lets +onlyGivenNames x0
  apply State.irq_keeps
  apply State.emit_keeps
  first | with_reducible assumption | assumption

theorem State.endTest_keeps {fx fm : Bool} {b0 s : State} (p loop : Nat) (hk : Keeps fx fm b0 s) : Keeps fx fm b0 (State.endTest s p loop) := by
  unfold State.endTest
  extract_lets +onlyGivenNames x0
  refine (fun (k0 : Keeps fx fm b0 x0) => ?_) (?_ : Keeps fx fm b0 x0)
  split
  apply State.enterLink_keeps
  first | with_reducible assumption | assumption
  extract_lets +onlyGivenNames x1
  refine (fun (k1 : Keeps fx fm b0 x1) => ?_) (?_ : Keeps fx fm b0 x1)
  apply State.setPort_keeps
  first | with_reducible assumption | assumption
  dsimp -zeta only [x1]
  apply State.enterDown_keeps
  first | with_reducible assumption | assumption
  dsimp -zeta only [x0]
  apply State.logTest_keeps
  first | with_reducible assumption | assumption

theorem State.linkCtl_keeps {fx : Bool} {b0 s : State} (p : Nat) (en0 : Bool) (loop0 : Nat) (retrain : Bool) (hk : Keeps fx false b0 s) : Keeps fx false b0 (State.linkCtl s p en0 loop0 retrain) := by
  unfold State.linkCtl
  extract_lets +onlyGivenNames x0
  extract_lets +onlyGivenNames x1
  extract_lets +onlyGivenNames x2
  split
  split
  apply State.lossOfLink_keeps
  first | with_reducible assumption | assumption
  apply State.enterLink_keeps
  apply State.clearLink_keeps
  split
  apply State.logTest_keeps
  first | with_reducible assumption | assumption
  first | with_reducible assumption | assumption
  split
  split
  apply State.endTest_keeps
  first | with_reducible assumption | assumption
  first | with_reducible assumption | assumption
  split
  apply State.enterLink_keeps
  apply State.clearLink_keeps
  apply State.dropTags_keeps
  first | with_reducible assumption | assumption
  split
  apply State.enterDown_keeps
  apply State.clearLink_keeps
  apply State.dropTags_keeps
  first | with_reducible assumption | assumption
  split
  apply State.enterClock_keeps
  first | with_reducible assumption | assumption
  split
  extract_lets +onlyGivenNames x3
  refine (fun (k3 : Keeps fx false b0 x3) => ?_) (?_ : Keeps fx false b0 x3)
  apply State.setPort_keeps
  first | with_reducible assumption | assumption
  dsimp -zeta only [x3]
  apply State.lossOfLink_keeps
  first | with_reducible assumption | assumption
  split
  apply State.setPort_keeps
  first | with_reducible assumption | assumption
  first | with_reducible assumption | assumption

theorem State.linkTestOff_keeps {fx fm : Bool} {b0 s : State} (p : Nat) (hk : Keeps fx fm b0 s) : Keeps fx fm b0 (State.linkTestOff s p) := by
  unfold State.linkTestOff
  extract_lets +onlyGivenNames x0
  split
  first | with_reducible assumption | assumption
  split
  apply State.endTest_keeps
  apply State.putCfg_keeps
  first | with_reducible assumption | assumption
  apply State.putCfg_keeps
  first | with_reducible assumption | assumption

theorem State.setLane_keeps {fx fm : Bool} {b0 s : State} (p l : Nat) (v : LaneSt) (hk : Keeps fx fm b0 s) : Keeps fx fm b0 (State.setLane s p l v) := by
  unfold State.setLane
  apply State.setPort_keeps
  first | with_reducible assumption | assumption

theorem State.sayEq_keeps {fx fm : Bool} {b0 s : State} (p l : Nat) (v : LaneSt) (hk : Keeps fx fm b0 s) : Keeps fx fm b0 (State.sayEq s p l v) := by
  unfold State.sayEq
  apply State.send_keeps
  apply State.setLane_keeps
  first | with_reducible assumption | assumption

theorem State.eqRequest_keeps {fx fm : Bool} {b0 s : State} (p l : Nat) (v : LaneSt) (cPre cMain cPost move : Nat) (hk : Keeps fx fm b0 s) : Keeps fx fm b0 (State.eqRequest s p l v cPre cMain cPost move) := by
  unfold State.eqRequest
  apply State.sayEq_keeps
  first | with_reducible assumption | assumption

theorem State.eqDone_keeps {fx fm : Bool} {b0 s : State} (p l : Nat) (v : LaneSt) (hk : Keeps fx fm b0 s) : Keeps fx fm b0 (State.eqDone s p l v) := by
  unfold State.eqDone
  apply State.sayEq_keeps
  first | with_reducible assumption | assumption

theorem State.eqNext_keeps {fx fm : Bool} {b0 s : State} (p l : Nat) (v : LaneSt) (hk : Keeps fx fm b0 s) : Keeps fx fm b0 (State.eqNext s p l v) := by
  unfold State.eqNext
  extract_lets +onlyGivenNames x0
  split
  apply State.eqDone_keeps
  first | with_reducible assumption | assumption
  split
  apply State.eqRequest_keeps
  first | with_reducible assumption | assumption
  apply State.eqRequest_keeps
  first | with_reducible assumption | assumption

theorem State.eqJudge_keeps {fx fm : Bool} {b0 s : State} (p l eye : Nat) (st : Nat × Nat × Nat) (hk : Keeps fx fm b0 s) : Keeps fx fm b0 (State.eqJudge s p l eye st) := by
  unfold State.eqJudge
  extract_lets +onlyGivenNames x0
  extract_lets +onlyGivenNames x1
  split
  split
  apply State.eqNext_keeps
  first | with_reducible assumption | assumption
  apply State.eqNext_keeps
  first | with_reducible assumption | assumption
  extract_lets +onlyGivenNames x2
  extract_lets +onlyGivenNames x3
  split
  apply State.eqNext_keeps
  first | with_reducible assumption | assumption
  split
  split
  apply State.eqNext_keeps
  first | with_reducible assumption | assumption
  split
  apply State.eqDone_keeps
  first | with_reducible assumption | assumption
  split
  apply State.eqRequest_keeps
  first | with_reducible assumption | assumption
  apply State.eqNext_keeps
  first | with_reducible assumption | assumption
  split
  apply State.eqNext_keeps
  first | with_reducible assumption | assumption
  split
  apply State.eqDone_keeps
  first | with_reducible assumption | assumption
  split
  apply State.eqRequest_keeps
  first | with_reducible assumption | assumption
  apply State.eqNext_keeps
  first | with_reducible assumption | assumption

theorem State.answerTaps_keeps {fx fm : Bool} {b0 s : State} (p : Nat) (b : Dword) (hk : Keeps fx fm b0 s) : Keeps fx fm b0 (State.answerTaps s p b) := by
  unfold State.answerTaps
  extract_lets +onlyGivenNames x0
  extract_lets +onlyGivenNames x1
  extract_lets +onlyGivenNames x2
  extract_lets +onlyGivenNames x3
  extract_lets +onlyGivenNames x4
  refine (fun (k4 : Keeps fx fm b0 x4) => ?_) (?_ : Keeps fx fm b0 x4)
  split
  first | with_reducible assumption | assumption
  extract_lets +onlyGivenNames x5
  extract_lets +onlyGivenNames x6
  extract_lets +onlyGivenNames x7
  refine (fun (k7 : Keeps fx fm b0 x7) => ?_) (?_ : Keeps fx fm b0 x7)
  apply State.sayEq_keeps
  first | with_reducible assumption | assumption
  dsimp -zeta only [x7]
  apply State.put_keeps
  first | with_reducible assumption | assumption
  dsimp -zeta only [x4]
  apply State.setLane_keeps
  first | with_reducible assumption | assumption

theorem State.latShift_keeps {fx fm : Bool} {b0 s : State} (p : Nat) (hk : Keeps fx fm b0 s) : Keeps fx fm b0 (State.latShift s p) := by
  unfold State.latShift
  extract_lets +onlyGivenNames x0
  extract_lets +onlyGivenNames x1
  split
  apply State.emit_keeps
  apply State.irq_keeps
  apply State.put_keeps
  first | with_reducible assumption | assumption
  first | with_reducible assumption | assumption

theorem State.latDone_keeps {fx : Bool} {b0 s : State} (p : Nat) (ts : List Int) (hk : Keeps fx false b0 s) : Keeps fx false b0 (State.latDone s p ts) := by
  unfold State.latDone
  extract_lets +onlyGivenNames x0
  extract_lets +onlyGivenNames x1
  split
  extract_lets +onlyGivenNames x2
  extract_lets +onlyGivenNames x3
  split
  apply State.trainFail_keeps
  first | with_reducible assumption | assumption
  extract_lets +onlyGivenNames x4
  refine (fun (k4 : Keeps fx false b0 x4) => ?_) (?_ : Keeps fx false b0 x4)
  apply State.enterLink_keeps
  apply State.setPort_keeps
  first | with_reducible assumption | assumption
  dsimp -zeta only [x4]
  apply State.putI_keeps
  apply State.putI_keeps
  apply State.putI_keeps
  first | with_reducible assumption | assumption
  split
  apply State.setPort_keeps
  first | with_reducible assumption | assumption
  apply State.trainFail_keeps
  first | with_reducible assumption | assumption

theorem State.linkTick_keeps {fx fm : Bool} {b0 s : State} (p : Nat) (hk : Keeps fx fm b0 s) : Keeps fx fm b0 (State.linkTick s p) := by
  unfold State.linkTick
  extract_lets +onlyGivenNames x0
  refine (fun (k0 : Keeps fx fm b0 x0) => ?_) (?_ : Keeps fx fm b0 x0)
  extract_lets +onlyGivenNames x1
  extract_lets +onlyGivenNames x2
  refine (fun (k2 : Keeps fx fm b0 x2) => ?_) (?_ : Keeps fx fm b0 x2)
  split
  extract_lets +onlyGivenNames x3
  extract_lets +onlyGivenNames x4
  extract_lets +onlyGivenNames x5
  refine (fun (k5 : Keeps fx fm b0 x5) => ?_) (?_ : Keeps fx fm b0 x5)
  extract_lets +onlyGivenNames x6
  apply State.latShift_keeps
  apply State.send_keeps
  first | with_reducible assumption | assumption
  dsimp -zeta only [x5]
  apply State.putI_keeps
  first | with_reducible assumption | assumption
  first | with_reducible assumption | assumption
  dsimp -zeta only [x2]
  apply State.setPort_keeps
  first | with_reducible assumption | assumption
  dsimp -zeta only [x0]
  apply State.txRun_keeps
  first | with_reducible assumption | assumption

theorem State.heard_keeps {fx fm : Bool} {b0 s : State} (p : Nat) (hk : Keeps fx fm b0 s) : Keeps fx fm b0 (State.heard s p) := by
  unfold State.heard
  apply State.setPort_keeps
  first | with_reducible assumption | assumption

theorem State.countInvalid_keeps {fx fm : Bool} {b0 s : State} (p lane : Nat) (wrongType : Bool) (hk : Keeps fx fm b0 s) : Keeps fx fm b0 (State.countInvalid s p lane wrongType) := by
  unfold State.countInvalid
  extract_lets +onlyGivenNames x0
  extract_lets +onlyGivenNames x1
  extract_lets +onlyGivenNames x2
  refine (fun (k2 : Keeps fx fm b0 x2) => ?_) (?_ : Keeps fx fm b0 x2)
  extract_lets +onlyGivenNames x3
  refine (fun (k3 : Keeps fx fm b0 x3) => ?_) (?_ : Keeps fx fm b0 x3)
  split
  apply State.emit_keeps
  apply State.irq_keeps
  first | with_reducible assumption | assumption
  first | with_reducible assumption | assumption
  dsimp -zeta only [x3]
  split
  apply State.bumpSat_keeps
  first | with_reducible assumption | assumption
  first | with_reducible assumption | assumption
  dsimp -zeta only [x2]
  apply State.bumpSat_keeps
  first | with_reducible assumption | assumption

theorem State.delivered_keeps {fx fm : Bool} {b0 s : State} (n : Nat) (v : List Int) (hk : Keeps fx fm b0 s) : Keeps fx fm b0 (State.delivered s n v) := by
  unfold State.delivered
  extract_lets +onlyGivenNames x0
  apply State.setLeg_keeps
  first | with_reducible assumption | assumption

theorem State.samplePair_keeps {fx fm : Bool} {b0 s : State} (n : Nat) (v0 v1 v2 : Int) (at_ : Nat) (hk : Keeps fx fm b0 s) : Keeps fx fm b0 (State.samplePair s n v0 v1 v2 at_) := by
  unfold State.samplePair
  extract_lets +onlyGivenNames x0
  refine (fun (k0 : Keeps fx fm b0 x0) => ?_) (?_ : Keeps fx fm b0 x0)
  apply State.put_keeps
  apply State.setLeg_keeps
  first | with_reducible assumption | assumption
  dsimp -zeta only [x0]
  apply State.delivered_keeps
  apply State.inputLeg_keeps
  first | with_reducible assumption | assumption

theorem State.statusBlock_keeps {fx : Bool} {b0 s : State} (p : Nat) (b : Dword) (hk : Keeps fx false b0 s) : Keeps fx false b0 (State.statusBlock s p b) := by
  unfold State.statusBlock
  extract_lets +onlyGivenNames x0
  extract_lets +onlyGivenNames x1
  extract_lets +onlyGivenNames x2
  extract_lets +onlyGivenNames x3
  extract_lets +onlyGivenNames x4
  extract_lets +onlyGivenNames x5
  refine (fun (k5 : Keeps fx false b0 x5) => ?_) (?_ : Keeps fx false b0 x5)
  extract_lets +onlyGivenNames x6
  refine (fun (k6 : Keeps fx false b0 x6) => ?_) (?_ : Keeps fx false b0 x6)
  extract_lets +onlyGivenNames x7
  refine (fun (k7 : Keeps fx false b0 x7) => ?_) (?_ : Keeps fx false b0 x7)
  extract_lets +onlyGivenNames x8
  refine (fun (k8 : Keeps fx false b0 x8) => ?_) (?_ : Keeps fx false b0 x8)
  extract_lets +onlyGivenNames x9
  extract_lets +onlyGivenNames x10
  refine (fun (k10 : Keeps fx false b0 x10) => ?_) (?_ : Keeps fx false b0 x10)
  extract_lets +onlyGivenNames x11
  refine (fun (k11 : Keeps fx false b0 x11) => ?_) (?_ : Keeps fx false b0 x11)
  extract_lets +onlyGivenNames x12
  refine (fun (k12 : Keeps fx false b0 x12) => ?_) (?_ : Keeps fx false b0 x12)
  extract_lets +onlyGivenNames x13
  refine (fun (k13 : Keeps fx false b0 x13) => ?_) (?_ : Keeps fx false b0 x13)
  split
  apply State.latchLeg_keeps
  first | with_reducible assumption | assumption
  first | with_reducible assumption | assumption
  dsimp -zeta only [x13]
  dsimp -zeta only [x9]
  split
  apply State.latchLeg_keeps
  first | with_reducible assumption | assumption
  first | with_reducible assumption | assumption
  dsimp -zeta only [x12]
  dsimp -zeta only [x9]
  split
  apply State.latchLeg_keeps
  first | with_reducible assumption | assumption
  first | with_reducible assumption | assumption
  dsimp -zeta only [x11]
  dsimp -zeta only [x9]
  split
  apply State.latchLeg_keeps
  first | with_reducible assumption | assumption
  first | with_reducible assumption | assumption
  dsimp -zeta only [x10]
  dsimp -zeta only [x9]
  split
  apply State.latchLeg_keeps
  first | with_reducible assumption | assumption
  first | with_reducible assumption | assumption
  dsimp -zeta only [x8]
  split
  apply State.emit_keeps
  first | with_reducible assumption | assumption
  first | with_reducible assumption | assumption
  dsimp -zeta only [x7]
  split
  apply State.bumpSat_keeps
  first | with_reducible assumption | assumption
  first | with_reducible assumption | assumption
  dsimp -zeta only [x6]
  split
  apply State.bumpSat_keeps
  first | with_reducible assumption | assumption
  first | with_reducible assumption | assumption
  dsimp -zeta only [x5]
  apply State.put_keeps
  apply State.put_keeps
  apply State.put_keeps
  first | with_reducible assumption | assumption

theorem State.prbsSlot_keeps {fx fm : Bool} {b0 s : State} (p lane : Nat) (b : Dword) (hk : Keeps fx fm b0 s) : Keeps fx fm b0 (State.prbsSlot s p lane b) := by
  unfold State.prbsSlot
  extract_lets +onlyGivenNames x0
  extract_lets +onlyGivenNames x1
  extract_lets +onlyGivenNames x2
  split
  apply State.setLane_keeps
  first | with_reducible assumption | assumption
  extract_lets +onlyGivenNames x3
  apply State.put_keeps
  apply State.setLane_keeps
  first | with_reducible assumption | assumption

theorem State.loopSlot_keeps {fx fm : Bool} {b0 s : State} (p lane : Nat) (train : Bool) (b : Dword) (hk : Keeps fx fm b0 s) : Keeps fx fm b0 (State.loopSlot s p lane train b) := by
  unfold State.loopSlot
  extract_lets +onlyGivenNames x0
  extract_lets +onlyGivenNames x1
  extract_lets +onlyGivenNames x2
  extract_lets +onlyGivenNames x3
  extract_lets +onlyGivenNames x4
  extract_lets +onlyGivenNames x5
  refine (fun (k5 : Keeps fx fm b0 x5) => ?_) (?_ : Keeps fx fm b0 x5)
  extract_lets +onlyGivenNames x6
  refine (fun (k6 : Keeps fx fm b0 x6) => ?_) (?_ : Keeps fx fm b0 x6)
  split
  first | with_reducible assumption | assumption
  apply State.bumpSat_keeps
  first | with_reducible assumption | assumption
  dsimp -zeta only [x6]
  split
  first | with_reducible assumption | assumption
  apply State.countInvalid_keeps
  first | with_reducible assumption | assumption
  dsimp -zeta only [x5]
  apply State.setLane_keeps
  first | with_reducible assumption | assumption

theorem State.loopBlock_keeps {fx fm : Bool} {b0 s : State} (p lane : Nat) (train : Bool) (b : Dword) (hk : Keeps fx fm b0 s) : Keeps fx fm b0 (State.loopBlock s p lane train b) := by
  unfold State.loopBlock
  split
  apply State.prbsSlot_keeps
  first | with_reducible assumption | assumption
  apply State.loopSlot_keeps
  first | with_reducible assumption | assumption

end Sys2Proof.Machine
end

