-- ==== Sys2Proof/Laws/KeepsPoly.lean ====
section
/-! SUPPORT. What the operations of Machine/Poly.lean keep. -/

namespace Sys2Proof.Machine

open Sys2Proof

theorem State.legFlag_keeps {fx fm : Bool} {b0 s : State} (n bit : Nat) (ev : Option (Nat × Nat)) (hk : Keeps fx fm b0 s) : Keeps fx fm b0 (State.legFlag s n bit ev) := by
  unfold State.legFlag
  extract_lets +onlyGivenNames x0
  extract_lets +onlyGivenNames x1
  refine (fun (k1 : Keeps fx fm b0 x1) => ?_) (?_ : Keeps fx fm b0 x1)
  split
  split
  first | with_reducible assumption | assumption
  apply State.emitAt_keeps
  first | with_reducible assumption | assumption
  first | with_reducible assumption | assumption
  dsimp -zeta only [x1]
  apply State.irq_keeps
  apply State.put_keeps
  first | with_reducible assumption | assumption

theorem State.legOn_keeps {fx fm : Bool} {b0 s : State} (n : Nat) (L d : Int) (low : Bool) (hk : Keeps fx fm b0 s) : Keeps fx fm b0 (State.legOn s n L d low).1 := by
  unfold State.legOn
  extract_lets +onlyGivenNames x0
  extract_lets +onlyGivenNames x1
  refine (fun (k1 : Keeps fx fm b0 x1) => ?_) (?_ : Keeps fx fm b0 x1)
  extract_lets +onlyGivenNames x2
  extract_lets +onlyGivenNames x3
  extract_lets +onlyGivenNames x4
  refine (fun (k4 : Keeps fx fm b0 x4) => ?_) (?_ : Keeps fx fm b0 x4)
  extract_lets +onlyGivenNames x5
  extract_lets +onlyGivenNames x6
  refine (fun (k6 : Keeps fx fm b0 x6) => ?_) (?_ : Keeps fx fm b0 x6)
  extract_lets +onlyGivenNames x7
  extract_lets +onlyGivenNames x8
  refine (fun (k8 : Keeps fx fm b0 x8) => ?_) (?_ : Keeps fx fm b0 x8)
  first | with_reducible assumption | assumption
  dsimp -zeta only [x8]
  split
  first | with_reducible assumption | assumption
  apply State.bumpSat_keeps
  apply State.legFlag_keeps
  first | with_reducible assumption | assumption
  dsimp -zeta only [x6]
  split
  first | with_reducible assumption | assumption
  split
  first | with_reducible assumption | assumption
  apply State.bumpSat_keeps
  apply State.setLeg_keeps
  first | with_reducible assumption | assumption
  dsimp -zeta only [x4]
  apply State.legFlag_keeps
  first | with_reducible assumption | assumption
  dsimp -zeta only [x1]
  split
  first | with_reducible assumption | assumption
  apply State.legFlag_keeps
  first | with_reducible assumption | assumption

theorem State.bothOn_keeps {fx fm : Bool} {b0 s : State} (n : Nat) (off : Int) (hk : Keeps fx fm b0 s) : Keeps fx fm b0 (State.bothOn s n off) := by
  unfold State.bothOn
  apply State.emitAt_keeps
  apply State.legFlag_keeps
  first | with_reducible assumption | assumption

theorem State.planEnd_keeps {fx fm : Bool} {b0 s : State} (n : Nat) (p : Plan) (hk : Keeps fx fm b0 s) : Keeps fx fm b0 (State.planEnd s n p).s := by
  unfold State.planEnd
  extract_lets +onlyGivenNames x0
  extract_lets +onlyGivenNames x1
  refine (fun (k1 : Keeps fx fm b0 x1) => ?_) (?_ : Keeps fx fm b0 x1)
  extract_lets +onlyGivenNames x2
  refine (fun (k2 : Keeps fx fm b0 x2) => ?_) (?_ : Keeps fx fm b0 x2)
  extract_lets +onlyGivenNames x3
  refine (fun (k3 : Keeps fx fm b0 x3) => ?_) (?_ : Keeps fx fm b0 x3)
  dsimp only
  first | with_reducible assumption | assumption
  dsimp -zeta only [x3]
  split
  first | with_reducible assumption | assumption
  apply State.bothOn_keeps
  first | with_reducible assumption | assumption
  dsimp -zeta only [x2]
  split
  apply State.putCfg_keeps
  first | with_reducible assumption | assumption
  first | with_reducible assumption | assumption
  dsimp -zeta only [x1]
  apply State.setLeg_keeps
  first | with_reducible assumption | assumption

theorem State.planSegment_keeps {fx fm : Bool} {b0 s : State} (n : Nat) (t0 : Int) (sw : Sw) (sched : List Edge) (hi lo : Wave) (hk : Keeps fx fm b0 s) : Keeps fx fm b0 (State.planSegment s n t0 sw sched hi lo).s := by
  unfold State.planSegment
  extract_lets +onlyGivenNames x0
  apply State.planEnd_keeps
  first | with_reducible assumption | assumption

theorem State.planFixed_keeps {fx fm : Bool} {b0 s : State} (n : Nat) (t1 : Int) (sw : Sw) (sched : List Edge) (hi lo : Bool) (hk : Keeps fx fm b0 s) : Keeps fx fm b0 (State.planFixed s n t1 sw sched hi lo).s := by
  unfold State.planFixed
  extract_lets +onlyGivenNames x0
  extract_lets +onlyGivenNames x1
  refine (fun (k1 : Keeps fx fm b0 x1) => ?_) (?_ : Keeps fx fm b0 x1)
  apply State.planEnd_keeps
  first | with_reducible assumption | assumption
  dsimp -zeta only [x1]
  apply State.setLeg_keeps
  first | with_reducible assumption | assumption

theorem State.predictLeg_keeps {fx fm : Bool} {b0 s : State} (n : Nat) (hk : Keeps fx fm b0 s) : Keeps fx fm b0 (State.predictLeg s n) := by
  unfold State.predictLeg
  extract_lets +onlyGivenNames x0
  extract_lets +onlyGivenNames x1
  extract_lets +onlyGivenNames x2
  extract_lets +onlyGivenNames x3
  refine (fun (k3 : Keeps fx fm b0 x3) => ?_) (?_ : Keeps fx fm b0 x3)
  extract_lets +onlyGivenNames x4
  refine (fun (k4 : Keeps fx fm b0 x4) => ?_) (?_ : Keeps fx fm b0 x4)
  extract_lets +onlyGivenNames x5
  refine (fun (k5 : Keeps fx fm b0 x5) => ?_) (?_ : Keeps fx fm b0 x5)
  apply State.setLeg_keeps
  first | with_reducible assumption | assumption
  dsimp -zeta only [x5]
  apply State.delivered_keeps
  apply State.inputLeg_keeps
  first | with_reducible assumption | assumption
  dsimp -zeta only [x4]
  split
  apply State.legFlag_keeps
  first | with_reducible assumption | assumption
  first | with_reducible assumption | assumption
  dsimp -zeta only [x3]
  apply State.legFlag_keeps
  first | with_reducible assumption | assumption

theorem State.legSample_keeps {fx fm : Bool} {b0 : State} {b : Built} (n : Nat) (t : Int) (sched : List Edge) (hk : Keeps fx fm b0 b.s) : Keeps fx fm b0 (State.legSample b n t sched).s := by
  unfold State.legSample
  split
  extract_lets +onlyGivenNames x0
  split
  dsimp only
  apply State.predictLeg_keeps
  first | with_reducible assumption | assumption
  first | with_reducible assumption | assumption
  first | with_reducible assumption | assumption

theorem State.reloadStart_keeps {fx fm : Bool} {b0 s : State} (n : Nat) (s0 : Int) (sw : Sw) (sched : List Edge) (hk : Keeps fx fm b0 s) : Keeps fx fm b0 (State.reloadStart s n s0 sw sched).s := by
  unfold State.reloadStart
  extract_lets +onlyGivenNames x0
  extract_lets +onlyGivenNames x1
  extract_lets +onlyGivenNames x2
  extract_lets +onlyGivenNames x3
  refine (fun (k3 : Keeps fx fm b0 x3) => ?_) (?_ : Keeps fx fm b0 x3)
  extract_lets +onlyGivenNames x4
  extract_lets +onlyGivenNames x5
  extract_lets +onlyGivenNames x6
  refine (fun (k6 : Keeps fx fm b0 x6) => ?_) (?_ : Keeps fx fm b0 x6)
  extract_lets +onlyGivenNames x7
  extract_lets +onlyGivenNames x8
  extract_lets +onlyGivenNames x9
  refine (fun (k9 : Keeps fx fm b0 x9) => ?_) (?_ : Keeps fx fm b0 x9)
  extract_lets +onlyGivenNames x10
  extract_lets +onlyGivenNames x11
  apply State.legSample_keeps
  apply State.planSegment_keeps
  first | with_reducible assumption | assumption
  dsimp -zeta only [x9]
  apply State.setLeg_keeps
  first | with_reducible assumption | assumption
  dsimp -zeta only [x6]
  dsimp -zeta only [x5]
  split
  apply State.legOn_keeps
  dsimp -zeta only [x4]
  apply State.legOn_keeps
  first | with_reducible assumption | assumption
  dsimp only
  dsimp -zeta only [x4]
  apply State.legOn_keeps
  first | with_reducible assumption | assumption
  dsimp -zeta only [x3]
  apply State.setLeg_keeps
  first | with_reducible assumption | assumption

theorem State.reloadMid_keeps {fx : Bool} {b0 s : State} (n : Nat) (sw : Sw) (sched : List Edge) (hk : Keeps fx false b0 s) : Keeps fx false b0 (State.reloadMid s n sw sched).s := by
  unfold State.reloadMid
  extract_lets +onlyGivenNames x0
  extract_lets +onlyGivenNames x1
  extract_lets +onlyGivenNames x2
  extract_lets +onlyGivenNames x3
  refine (fun (k3 : Keeps fx false b0 x3) => ?_) (?_ : Keeps fx false b0 x3)
  extract_lets +onlyGivenNames x4
  extract_lets +onlyGivenNames x5
  extract_lets +onlyGivenNames x6
  refine (fun (k6 : Keeps fx false b0 x6) => ?_) (?_ : Keeps fx false b0 x6)
  extract_lets +onlyGivenNames x7
  apply State.planSegment_keeps
  first | with_reducible assumption | assumption
  dsimp -zeta only [x6]
  apply State.setLeg_keeps
  first | with_reducible assumption | assumption
  dsimp -zeta only [x3]
  dsimp -zeta only [x2]
  split
  apply State.legOn_keeps
  dsimp -zeta only [x1]
  apply State.legOn_keeps
  first | with_reducible assumption | assumption
  dsimp only
  dsimp -zeta only [x1]
  apply State.legOn_keeps
  first | with_reducible assumption | assumption

theorem Built.append_keeps {fx fm : Bool} {b0 : State} {x b : Built} (h : Keeps fx fm b0 b.s) : Keeps fx fm b0 (x.append b).s := h

theorem State.legWindow_keeps {fx : Bool} {b0 s : State} (n : Nat) (sw : Sw) (sched : List Edge) (x1 : Nat) (hk : Keeps fx false b0 s) : Keeps fx false b0 (State.legWindow s n sw sched x1).s := by
  induction x1 generalizing s sw sched with
  | zero =>
    unfold State.legWindow
    first | with_reducible assumption | assumption
  | succ n ih =>
    unfold State.legWindow
    extract_lets +onlyGivenNames x0
    extract_lets +onlyGivenNames x1
    split
    extract_lets +onlyGivenNames x2
    apply Built.append_keeps
    apply ih
    dsimp -zeta only [x2]
    apply State.reloadMid_keeps
    first | with_reducible assumption | assumption
    split
    extract_lets +onlyGivenNames x3
    apply Built.append_keeps
    apply ih
    dsimp -zeta only [x3]
    apply State.reloadStart_keeps
    first | with_reducible assumption | assumption
    first | with_reducible assumption | assumption

theorem State.enterOwn_keeps {fx : Bool} {b0 s : State} (n : Nat) (sw : Sw) (past : List Edge) (hk : Keeps fx false b0 s) : Keeps fx false b0 (State.enterOwn s n sw past).s := by
  unfold State.enterOwn
  extract_lets +onlyGivenNames x0
  extract_lets +onlyGivenNames x1
  extract_lets +onlyGivenNames x2
  extract_lets +onlyGivenNames x3
  extract_lets +onlyGivenNames x4
  extract_lets +onlyGivenNames x5
  refine (fun (k5 : Keeps fx false b0 x5) => ?_) (?_ : Keeps fx false b0 x5)
  extract_lets +onlyGivenNames x6
  extract_lets +onlyGivenNames x7
  extract_lets +onlyGivenNames x8
  refine (fun (k8 : Keeps fx false b0 x8) => ?_) (?_ : Keeps fx false b0 x8)
  extract_lets +onlyGivenNames x9
  extract_lets +onlyGivenNames x10
  extract_lets +onlyGivenNames x11
  refine (fun (k11 : Keeps fx false b0 x11) => ?_) (?_ : Keeps fx false b0 x11)
  extract_lets +onlyGivenNames x12
  extract_lets +onlyGivenNames x13
  extract_lets +onlyGivenNames x14
  extract_lets +onlyGivenNames x15
  extract_lets +onlyGivenNames x16
  apply Built.append_keeps
  apply State.legWindow_keeps
  dsimp -zeta only [x16]
  split
  apply State.legSample_keeps
  dsimp -zeta only [x14]
  apply State.planSegment_keeps
  first | with_reducible assumption | assumption
  dsimp -zeta only [x14]
  apply State.planSegment_keeps
  first | with_reducible assumption | assumption
  dsimp -zeta only [x11]
  apply State.setLeg_keeps
  first | with_reducible assumption | assumption
  dsimp -zeta only [x8]
  dsimp -zeta only [x7]
  split
  apply State.legOn_keeps
  dsimp -zeta only [x6]
  apply State.legOn_keeps
  first | with_reducible assumption | assumption
  dsimp only
  dsimp -zeta only [x6]
  apply State.legOn_keeps
  first | with_reducible assumption | assumption
  dsimp -zeta only [x5]
  apply State.setLeg_keeps
  first | with_reducible assumption | assumption

theorem State.injectIdle_keeps {fx fm : Bool} {b0 : State} {b : Built} (n : Nat) (t1 : Int) (sched : List Edge) (hk : Keeps fx fm b0 b.s) : Keeps fx fm b0 (State.injectIdle b n t1 sched).s := by
  unfold State.injectIdle
  split
  dsimp only
  apply State.planEnd_keeps
  first | with_reducible assumption | assumption
  first | with_reducible assumption | assumption

theorem State.legStatus_keeps {fx fm : Bool} {b0 s : State} (n : Nat) (hk : Keeps fx fm b0 s) : Keeps fx fm b0 (State.legStatus s n) := by
  unfold State.legStatus
  extract_lets +onlyGivenNames x0
  extract_lets +onlyGivenNames x1
  extract_lets +onlyGivenNames x2
  refine (fun (k2 : Keeps fx fm b0 x2) => ?_) (?_ : Keeps fx fm b0 x2)
  split
  first | with_reducible assumption | assumption
  apply State.emitAt_keeps
  apply State.setLeg_keeps
  first | with_reducible assumption | assumption
  dsimp -zeta only [x2]
  apply State.putB_keeps
  apply State.putB_keeps
  apply State.putB_keeps
  first | with_reducible assumption | assumption

theorem State.addContrib_keeps {fx fm : Bool} {b0 s : State} (n : Nat) (sw : Sw) (sched : List Edge) (c : Contrib) (remember : Bool) (hk : Keeps fx fm b0 s) : Keeps fx fm b0 (State.addContrib s n sw sched c remember) := by
  unfold State.addContrib
  extract_lets +onlyGivenNames x0
  extract_lets +onlyGivenNames x1
  extract_lets +onlyGivenNames x2
  refine (fun (k2 : Keeps fx fm b0 x2) => ?_) (?_ : Keeps fx fm b0 x2)
  refine Keeps.lit ?_ rfl rfl
  first | with_reducible assumption | assumption
  dsimp -zeta only [x2]
  apply State.setLeg_keeps
  first | with_reducible assumption | assumption

theorem State.buildLeg_keeps {fx : Bool} {b0 s : State} (n : Nat) (hk : Keeps fx false b0 s) : Keeps fx false b0 (State.buildLeg s n) := by
  unfold State.buildLeg
  extract_lets +onlyGivenNames x0
  extract_lets +onlyGivenNames x1
  extract_lets +onlyGivenNames x2
  extract_lets +onlyGivenNames x3
  extract_lets +onlyGivenNames x4
  extract_lets +onlyGivenNames x5
  extract_lets +onlyGivenNames x6
  refine (fun (k6 : Keeps fx false b0 x6) => ?_) (?_ : Keeps fx false b0 x6)
  extract_lets +onlyGivenNames x7
  extract_lets +onlyGivenNames x8
  extract_lets +onlyGivenNames x9
  extract_lets +onlyGivenNames x10
  extract_lets +onlyGivenNames x11
  clear_value x5
  split
  extract_lets +onlyGivenNames x12
  refine (fun (k12 : Keeps fx false b0 x12.s) => ?_) (?_ : Keeps fx false b0 x12.s)
  extract_lets +onlyGivenNames x13
  refine (fun (k13 : Keeps fx false b0 x13.s) => ?_) (?_ : Keeps fx false b0 x13.s)
  extract_lets +onlyGivenNames x14
  apply State.addContrib_keeps
  first | with_reducible assumption | assumption
  dsimp -zeta only [x13]
  apply State.injectIdle_keeps
  first | with_reducible assumption | assumption
  dsimp -zeta only [x12]
  split
  apply State.enterOwn_keeps
  first | with_reducible assumption | assumption
  apply State.legWindow_keeps
  first | with_reducible assumption | assumption
  extract_lets +onlyGivenNames x15
  extract_lets +onlyGivenNames x16
  refine (fun (k16 : Keeps fx false b0 x16.s) => ?_) (?_ : Keeps fx false b0 x16.s)
  extract_lets +onlyGivenNames x17
  apply State.addContrib_keeps
  first | with_reducible assumption | assumption
  dsimp -zeta only [x16]
  apply State.planFixed_keeps
  first | with_reducible assumption | assumption
  extract_lets +onlyGivenNames x18
  refine (fun (k18 : Keeps fx false b0 x18.s) => ?_) (?_ : Keeps fx false b0 x18.s)
  apply State.addContrib_keeps
  first | with_reducible assumption | assumption
  dsimp -zeta only [x18]
  apply State.planFixed_keeps
  first | with_reducible assumption | assumption
  split
  apply State.addContrib_keeps
  first | with_reducible assumption | assumption
  apply State.setLeg_keeps
  first | with_reducible assumption | assumption
  dsimp -zeta only [x6]
  apply State.setLeg_keeps
  first | with_reducible assumption | assumption

theorem State.recordOn_keeps {fx fm : Bool} {b0 s : State} (n : Nat) (hk : Keeps fx fm b0 s) : Keeps fx fm b0 (State.recordOn s n) := by
  unfold State.recordOn
  extract_lets +onlyGivenNames x0
  apply State.setLeg_keeps
  first | with_reducible assumption | assumption

theorem State.recordOns_keeps {fx fm : Bool} {b0 s : State}  (hk : Keeps fx fm b0 s) : Keeps fx fm b0 (State.recordOns s) := by
  unfold State.recordOns
  apply State.forEach_keeps
  first | with_reducible assumption | assumption
  intro v0
  intro v1
  intro v2
  apply State.recordOn_keeps
  first | with_reducible assumption | assumption

theorem State.buildSet_keeps {fx : Bool} {b0 s : State}  (hk : Keeps fx false b0 s) : Keeps fx false b0 (State.buildSet s) := by
  unfold State.buildSet
  extract_lets +onlyGivenNames x0
  extract_lets +onlyGivenNames x1
  refine (fun (k1 : Keeps fx false b0 x1) => ?_) (?_ : Keeps fx false b0 x1)
  split
  extract_lets +onlyGivenNames x2
  extract_lets +onlyGivenNames x3
  refine (fun (k3 : Keeps fx false b0 x3) => ?_) (?_ : Keeps fx false b0 x3)
  refine Keeps.lit ?_ rfl rfl
  first | with_reducible assumption | assumption
  dsimp -zeta only [x3]
  apply State.forEach_keeps
  first | with_reducible assumption | assumption
  intro v4
  intro v5
  intro v6
  apply State.buildLeg_keeps
  first | with_reducible assumption | assumption
  first | with_reducible assumption | assumption
  dsimp -zeta only [x1]
  refine Keeps.lit ?_ rfl rfl
  first | with_reducible assumption | assumption

theorem State.announceLeg_keeps {fx fm : Bool} {b0 s : State} (q : Nat × Contrib) (hk : Keeps fx fm b0 s) : Keeps fx fm b0 (State.announceLeg s q) := by
  unfold State.announceLeg
  split
  apply Keeps.foldl
  first | with_reducible assumption | assumption
  intro v0
  intro v1
  intro v2
  apply State.blankEdge_keeps
  first | with_reducible assumption | assumption
  first | with_reducible assumption | assumption

theorem State.withhold_keeps {fx fm : Bool} {b0 s : State} (q : Nat × Contrib) (hk : Keeps fx fm b0 s) : Keeps fx fm b0 (State.withhold s q) := by
  unfold State.withhold
  split
  apply State.legStop_keeps
  first | with_reducible assumption | assumption
  first | with_reducible assumption | assumption

theorem State.releaseSet_keeps {fx fm : Bool} {b0 s : State}  (hk : Keeps fx fm b0 s) : Keeps fx fm b0 (State.releaseSet s) := by
  unfold State.releaseSet
  extract_lets +onlyGivenNames x0
  refine (fun (k0 : Keeps fx fm b0 x0) => ?_) (?_ : Keeps fx fm b0 x0)
  extract_lets +onlyGivenNames x1
  refine (fun (k1 : Keeps fx fm b0 x1) => ?_) (?_ : Keeps fx fm b0 x1)
  extract_lets +onlyGivenNames x2
  refine (fun (k2 : Keeps fx fm b0 x2) => ?_) (?_ : Keeps fx fm b0 x2)
  extract_lets +onlyGivenNames x3
  refine (fun (k3 : Keeps fx fm b0 x3) => ?_) (?_ : Keeps fx fm b0 x3)
  refine Keeps.lit ?_ rfl rfl
  first | with_reducible assumption | assumption
  dsimp -zeta only [x3]
  apply State.put_keeps
  first | with_reducible assumption | assumption
  dsimp -zeta only [x2]
  apply State.forEach_keeps
  first | with_reducible assumption | assumption
  intro v4
  intro v5
  intro v6
  split
  apply State.sendAll_keeps
  first | with_reducible assumption | assumption
  first | with_reducible assumption | assumption
  dsimp -zeta only [x1]
  apply State.forEach_keeps
  apply Keeps.foldl
  first | with_reducible assumption | assumption
  intro v7
  intro v8
  intro v9
  apply State.announceLeg_keeps
  first | with_reducible assumption | assumption
  intro v10
  intro v11
  intro v12
  apply State.legStatus_keeps
  first | with_reducible assumption | assumption
  dsimp -zeta only [x0]
  apply Keeps.foldl
  first | with_reducible assumption | assumption
  intro v13
  intro v14
  intro v15
  apply State.withhold_keeps
  first | with_reducible assumption | assumption

theorem State.repeatLeg_keeps {fx fm : Bool} {b0 s : State} (n : Nat) (hk : Keeps fx fm b0 s) : Keeps fx fm b0 (State.repeatLeg s n) := by
  unfold State.repeatLeg
  extract_lets +onlyGivenNames x0
  extract_lets +onlyGivenNames x1
  extract_lets +onlyGivenNames x2
  extract_lets +onlyGivenNames x3
  extract_lets +onlyGivenNames x4
  split
  split
  apply State.addContrib_keeps
  apply State.setLeg_keeps
  first | with_reducible assumption | assumption
  split
  apply State.addContrib_keeps
  apply State.setLeg_keeps
  first | with_reducible assumption | assumption
  apply State.setLeg_keeps
  first | with_reducible assumption | assumption
  apply State.addContrib_keeps
  first | with_reducible assumption | assumption
  apply State.setLeg_keeps
  first | with_reducible assumption | assumption

theorem State.keepLeg_keeps {fx fm : Bool} {b0 s : State} (n : Nat) (hk : Keeps fx fm b0 s) : Keeps fx fm b0 (State.keepLeg s n) := by
  unfold State.keepLeg
  extract_lets +onlyGivenNames x0
  extract_lets +onlyGivenNames x1
  apply State.setLeg_keeps
  first | with_reducible assumption | assumption

theorem State.discardSet_keeps {fx fm : Bool} {b0 s : State}  (hk : Keeps fx fm b0 s) : Keeps fx fm b0 (State.discardSet s) := by
  unfold State.discardSet
  refine Keeps.lit ?_ rfl rfl
  first | with_reducible assumption | assumption

theorem State.repeatSet_keeps {fx : Bool} {b0 s : State}  (hk : Keeps fx false b0 s) : Keeps fx false b0 (State.repeatSet s) := by
  unfold State.repeatSet
  split
  extract_lets +onlyGivenNames x0
  apply State.releaseSet_keeps
  apply State.forEach_keeps
  apply State.discardSet_keeps
  first | with_reducible assumption | assumption
  intro v1
  intro v2
  intro v3
  split
  split
  apply State.buildLeg_keeps
  first | with_reducible assumption | assumption
  apply State.keepLeg_keeps
  first | with_reducible assumption | assumption
  apply State.repeatLeg_keeps
  first | with_reducible assumption | assumption
  first | with_reducible assumption | assumption

theorem State.rideDue_keeps {fx fm : Bool} {b0 s : State} (cause : Nat) (hk : Keeps fx fm b0 s) : Keeps fx fm b0 (State.rideDue s cause) := by
  unfold State.rideDue
  refine Keeps.lit ?_ rfl rfl
  first | with_reducible assumption | assumption

theorem State.overrunMode_keeps {fx fm : Bool} {b0 s : State}  (hk : Keeps fx fm b0 s) : Keeps fx fm b0 (State.overrunMode s) := by
  unfold State.overrunMode
  extract_lets +onlyGivenNames x0
  extract_lets +onlyGivenNames x1
  split
  apply State.rideDue_keeps
  first | with_reducible assumption | assumption
  split
  apply State.haltDue_keeps
  first | with_reducible assumption | assumption
  split
  apply State.haltDue_keeps
  first | with_reducible assumption | assumption
  first | with_reducible assumption | assumption

theorem State.overrun_keeps {fx : Bool} {b0 s : State} (part : Nat) (hk : Keeps fx false b0 s) : Keeps fx false b0 (State.overrun s part) := by
  unfold State.overrun
  extract_lets +onlyGivenNames x0
  refine (fun (k0 : Keeps fx false b0 x0) => ?_) (?_ : Keeps fx false b0 x0)
  extract_lets +onlyGivenNames x1
  refine (fun (k1 : Keeps fx false b0 x1) => ?_) (?_ : Keeps fx false b0 x1)
  apply State.repeatSet_keeps
  apply State.overrunMode_keeps
  first | with_reducible assumption | assumption
  dsimp -zeta only [x1]
  apply State.emitAt_keeps
  first | with_reducible assumption | assumption
  dsimp -zeta only [x0]
  apply State.irq_keeps
  apply State.put_keeps
  apply State.bumpSat_keeps
  apply State.bumpSat_keeps
  first | with_reducible assumption | assumption

theorem State.refreshLegCount_keeps {fx fm : Bool} {b0 s : State}  (hk : Keeps fx fm b0 s) : Keeps fx fm b0 (State.refreshLegCount s) := by
  unfold State.refreshLegCount
  apply State.put_keeps
  first | with_reducible assumption | assumption

theorem State.recheckLeg_keeps {fx fm : Bool} {b0 s : State} (n : Nat) (hk : Keeps fx fm b0 s) : Keeps fx fm b0 (State.recheckLeg s n) := by
  unfold State.recheckLeg
  extract_lets +onlyGivenNames x0
  split
  apply State.emit_keeps
  apply State.putCfg_keeps
  first | with_reducible assumption | assumption
  first | with_reducible assumption | assumption

theorem State.recheckLegs_keeps {fx fm : Bool} {b0 s : State}  (hk : Keeps fx fm b0 s) : Keeps fx fm b0 (State.recheckLegs s) := by
  unfold State.recheckLegs
  apply State.refreshLegCount_keeps
  apply State.forEach_keeps
  first | with_reducible assumption | assumption
  intro v0
  intro v1
  intro v2
  apply State.recheckLeg_keeps
  first | with_reducible assumption | assumption

theorem State.stage4_keeps {fx fm : Bool} {b0 s : State} (q : Nat × Nat × Nat × Nat) (hk : Keeps fx fm b0 s) : Keeps fx fm b0 (State.stage4 s q) := by
  unfold State.stage4
  refine Keeps.lit ?_ rfl rfl
  first | with_reducible assumption | assumption

theorem State.commitGroup_keeps {fx fm : Bool} {b0 s : State} (g : Nat) (atLatch : Bool) (hk : Keeps fx fm b0 s) : Keeps fx fm b0 (State.commitGroup s g atLatch) := by
  unfold State.commitGroup
  extract_lets +onlyGivenNames x0
  extract_lets +onlyGivenNames x1
  extract_lets +onlyGivenNames x2
  refine (fun (k2 : Keeps fx fm b0 x2) => ?_) (?_ : Keeps fx fm b0 x2)
  extract_lets +onlyGivenNames x3
  refine (fun (k3 : Keeps fx fm b0 x3) => ?_) (?_ : Keeps fx fm b0 x3)
  extract_lets +onlyGivenNames x4
  split
  extract_lets +onlyGivenNames x5
  extract_lets +onlyGivenNames x6
  refine (fun (k6 : Keeps fx fm b0 x6) => ?_) (?_ : Keeps fx fm b0 x6)
  split
  first | with_reducible assumption | assumption
  apply State.emitAt_keeps
  first | with_reducible assumption | assumption
  dsimp -zeta only [x6]
  apply State.put_keeps
  first | with_reducible assumption | assumption
  first | with_reducible assumption | assumption
  dsimp -zeta only [x3]
  apply Keeps.foldl
  first | with_reducible assumption | assumption
  intro v7
  intro v8
  intro v9
  apply State.putCfg_keeps
  first | with_reducible assumption | assumption
  dsimp -zeta only [x2]
  refine Keeps.lit ?_ rfl rfl
  first | with_reducible assumption | assumption

theorem State.lateWrite_keeps {fx fm : Bool} {b0 s : State} (n bit : Nat) (hk : Keeps fx fm b0 s) : Keeps fx fm b0 (State.lateWrite s n bit) := by
  unfold State.lateWrite
  apply State.legFlag_keeps
  first | with_reducible assumption | assumption

end Sys2Proof.Machine
end

