-- ==== Sys2Proof/Laws/KeepsLocus.lean ====
section
/-! SUPPORT. What the operations of Machine/Locus.lean keep. -/

namespace Sys2Proof.Machine

open Sys2Proof

theorem State.setLoc_keeps {fx fm : Bool} {b0 s : State} (f : LocSt → LocSt) (hk : Keeps fx fm b0 s) : Keeps fx fm b0 (State.setLoc s f) := by
  unfold State.setLoc
  refine Keeps.lit ?_ rfl rfl
  first | with_reducible assumption | assumption

theorem State.enterSeek_keeps {fx fm : Bool} {b0 s : State}  (hk : Keeps fx fm b0 s) : Keeps fx fm b0 (State.enterSeek s) := by
  unfold State.enterSeek
  extract_lets +onlyGivenNames x0
  extract_lets +onlyGivenNames x1
  extract_lets +onlyGivenNames x2
  refine (fun (k2 : Keeps fx fm b0 x2) => ?_) (?_ : Keeps fx fm b0 x2)
  apply State.put_keeps
  first | with_reducible assumption | assumption
  dsimp -zeta only [x2]
  apply State.setLoc_keeps
  first | with_reducible assumption | assumption

theorem State.observe_keeps {fx fm : Bool} {b0 s : State} (i : LocIn) (hk : Keeps fx fm b0 s) : Keeps fx fm b0 (State.observe s i) := by
  unfold State.observe
  extract_lets +onlyGivenNames x0
  extract_lets +onlyGivenNames x1
  extract_lets +onlyGivenNames x2
  extract_lets +onlyGivenNames x3
  extract_lets +onlyGivenNames x4
  extract_lets +onlyGivenNames x5
  extract_lets +onlyGivenNames x6
  extract_lets +onlyGivenNames x7
  extract_lets +onlyGivenNames x8
  extract_lets +onlyGivenNames x9
  extract_lets +onlyGivenNames x10
  extract_lets +onlyGivenNames x11
  extract_lets +onlyGivenNames x12
  extract_lets +onlyGivenNames x13
  extract_lets +onlyGivenNames x14
  extract_lets +onlyGivenNames x15
  extract_lets +onlyGivenNames x16
  extract_lets +onlyGivenNames x17
  extract_lets +onlyGivenNames x18
  extract_lets +onlyGivenNames x19
  extract_lets +onlyGivenNames x20
  extract_lets +onlyGivenNames x21
  extract_lets +onlyGivenNames x22
  extract_lets +onlyGivenNames x23
  extract_lets +onlyGivenNames x24
  apply State.setLoc_keeps
  first | with_reducible assumption | assumption

theorem State.lockLost_keeps {fx fm : Bool} {b0 s : State}  (hk : Keeps fx fm b0 s) : Keeps fx fm b0 (State.lockLost s) := by
  unfold State.lockLost
  extract_lets +onlyGivenNames x0
  extract_lets +onlyGivenNames x1
  extract_lets +onlyGivenNames x2
  extract_lets +onlyGivenNames x3
  extract_lets +onlyGivenNames x4
  extract_lets +onlyGivenNames x5
  extract_lets +onlyGivenNames x6
  refine (fun (k6 : Keeps fx fm b0 x6) => ?_) (?_ : Keeps fx fm b0 x6)
  extract_lets +onlyGivenNames x7
  refine (fun (k7 : Keeps fx fm b0 x7) => ?_) (?_ : Keeps fx fm b0 x7)
  apply State.emit_keeps
  apply State.irq_keeps
  first | with_reducible assumption | assumption
  dsimp -zeta only [x7]
  apply State.put_keeps
  apply State.bumpSat_keeps
  apply State.put_keeps
  apply State.put_keeps
  first | with_reducible assumption | assumption
  dsimp -zeta only [x6]
  apply State.setLoc_keeps
  first | with_reducible assumption | assumption

theorem State.lockGained_keeps {fx fm : Bool} {b0 s : State}  (hk : Keeps fx fm b0 s) : Keeps fx fm b0 (State.lockGained s) := by
  unfold State.lockGained
  extract_lets +onlyGivenNames x0
  extract_lets +onlyGivenNames x1
  refine (fun (k1 : Keeps fx fm b0 x1) => ?_) (?_ : Keeps fx fm b0 x1)
  apply State.emit_keeps
  apply State.irq_keeps
  apply State.put_keeps
  first | with_reducible assumption | assumption
  dsimp -zeta only [x1]
  split
  apply State.setLoc_keeps
  first | with_reducible assumption | assumption
  first | with_reducible assumption | assumption

theorem State.lockTrack_keeps {fx fm : Bool} {b0 s : State}  (hk : Keeps fx fm b0 s) : Keeps fx fm b0 (State.lockTrack s) := by
  unfold State.lockTrack
  apply State.setLoc_keeps
  first | with_reducible assumption | assumption

theorem State.lockJudge_keeps {fx fm : Bool} {b0 s : State}  (hk : Keeps fx fm b0 s) : Keeps fx fm b0 (State.lockJudge s).1 := by
  unfold State.lockJudge
  split
  split
  dsimp only
  apply State.lockLost_keeps
  first | with_reducible assumption | assumption
  first | with_reducible assumption | assumption
  split
  dsimp only
  apply State.lockGained_keeps
  apply State.lockTrack_keeps
  first | with_reducible assumption | assumption
  dsimp only
  apply State.lockTrack_keeps
  first | with_reducible assumption | assumption

theorem State.outputs_keeps {fx fm : Bool} {b0 s : State}  (hk : Keeps fx fm b0 s) : Keeps fx fm b0 (State.outputs s) := by
  unfold State.outputs
  split
  extract_lets +onlyGivenNames x0
  apply State.setLoc_keeps
  first | with_reducible assumption | assumption
  apply State.setLoc_keeps
  first | with_reducible assumption | assumption

theorem State.flux_keeps {fx fm : Bool} {b0 s : State} (i : LocIn) (hk : Keeps fx fm b0 s) : Keeps fx fm b0 (State.flux s i) := by
  unfold State.flux
  extract_lets +onlyGivenNames x0
  extract_lets +onlyGivenNames x1
  extract_lets +onlyGivenNames x2
  extract_lets +onlyGivenNames x3
  extract_lets +onlyGivenNames x4
  extract_lets +onlyGivenNames x5
  apply State.setLoc_keeps
  first | with_reducible assumption | assumption

theorem State.power_keeps {fx fm : Bool} {b0 s : State} (i : LocIn) (hk : Keeps fx fm b0 s) : Keeps fx fm b0 (State.power s i) := by
  unfold State.power
  extract_lets +onlyGivenNames x0
  split
  extract_lets +onlyGivenNames x1
  apply State.setLoc_keeps
  first | with_reducible assumption | assumption
  apply State.setLoc_keeps
  first | with_reducible assumption | assumption

theorem State.limitJudge_keeps {fx fm : Bool} {b0 s : State} (i : LocIn) (hk : Keeps fx fm b0 s) : Keeps fx fm b0 (State.limitJudge s i) := by
  unfold State.limitJudge
  extract_lets +onlyGivenNames x0
  refine (fun (k0 : Keeps fx fm b0 x0) => ?_) (?_ : Keeps fx fm b0 x0)
  split
  apply State.setLoc_keeps
  apply State.put_keeps
  first | with_reducible assumption | assumption
  first | with_reducible assumption | assumption
  dsimp -zeta only [x0]
  apply State.setLoc_keeps
  first | with_reducible assumption | assumption

theorem State.machine_keeps {fx fm : Bool} {b0 s : State}  (hk : Keeps fx fm b0 s) : Keeps fx fm b0 (State.machine s) := by
  unfold State.machine
  split
  extract_lets +onlyGivenNames x0
  extract_lets +onlyGivenNames x1
  extract_lets +onlyGivenNames x2
  extract_lets +onlyGivenNames x3
  extract_lets +onlyGivenNames x4
  extract_lets +onlyGivenNames x5
  extract_lets +onlyGivenNames x6
  extract_lets +onlyGivenNames x7
  apply State.setLoc_keeps
  first | with_reducible assumption | assumption
  apply State.setLoc_keeps
  first | with_reducible assumption | assumption

theorem State.limitClear_keeps {fx fm : Bool} {b0 s : State}  (hk : Keeps fx fm b0 s) : Keeps fx fm b0 (State.limitClear s) := by
  unfold State.limitClear
  split
  extract_lets +onlyGivenNames x0
  extract_lets +onlyGivenNames x1
  extract_lets +onlyGivenNames x2
  extract_lets +onlyGivenNames x3
  extract_lets +onlyGivenNames x4
  apply State.setLoc_keeps
  first | with_reducible assumption | assumption
  first | with_reducible assumption | assumption

theorem State.setRtTimer_keeps {fx fm : Bool} {b0 s : State} (r t : Nat) (hk : Keeps fx fm b0 s) : Keeps fx fm b0 (State.setRtTimer s r t) := by
  unfold State.setRtTimer
  apply State.put_keeps
  apply State.setLoc_keeps
  first | with_reducible assumption | assumption

theorem State.rtAdvance_keeps {fx fm : Bool} {b0 s : State}  (hk : Keeps fx fm b0 s) : Keeps fx fm b0 (State.rtAdvance s) := by
  unfold State.rtAdvance
  split
  extract_lets +onlyGivenNames x0
  extract_lets +onlyGivenNames x1
  refine (fun (k1 : Keeps fx fm b0 x1) => ?_) (?_ : Keeps fx fm b0 x1)
  split
  apply State.setLoc_keeps
  apply State.forEach_keeps
  first | with_reducible assumption | assumption
  intro v2
  intro v3
  intro v4
  apply State.setRtTimer_keeps
  first | with_reducible assumption | assumption
  first | with_reducible assumption | assumption
  dsimp -zeta only [x1]
  apply State.setLoc_keeps
  first | with_reducible assumption | assumption
  extract_lets +onlyGivenNames x5
  refine (fun (k5 : Keeps fx fm b0 x5) => ?_) (?_ : Keeps fx fm b0 x5)
  extract_lets +onlyGivenNames x6
  extract_lets +onlyGivenNames x7
  apply State.forEach_keeps
  first | with_reducible assumption | assumption
  intro v8
  intro v9
  intro v10
  apply State.setRtTimer_keeps
  first | with_reducible assumption | assumption
  dsimp -zeta only [x5]
  apply State.setLoc_keeps
  first | with_reducible assumption | assumption

theorem State.rtLimit_keeps {fx fm : Bool} {b0 s : State} (r : Nat) (hk : Keeps fx fm b0 s) : Keeps fx fm b0 (State.rtLimit s r) := by
  unfold State.rtLimit
  extract_lets +onlyGivenNames x0
  split
  extract_lets +onlyGivenNames x1
  refine (fun (k1 : Keeps fx fm b0 x1) => ?_) (?_ : Keeps fx fm b0 x1)
  split
  apply State.haltDue_keeps
  apply State.emit_keeps
  first | with_reducible assumption | assumption
  first | with_reducible assumption | assumption
  dsimp -zeta only [x1]
  split
  first | with_reducible assumption | assumption
  apply State.setLoc_keeps
  apply State.irq_keeps
  first | with_reducible assumption | assumption
  first | with_reducible assumption | assumption

theorem State.giveTable_keeps {fx fm : Bool} {b0 s : State} (cease : Bool) (vec : Nat) (hk : Keeps fx fm b0 s) : Keeps fx fm b0 (State.giveTable s cease vec) := by
  unfold State.giveTable
  extract_lets +onlyGivenNames x0
  refine Keeps.lit ?_ rfl rfl
  first | with_reducible assumption | assumption

theorem State.ppreNow_keeps {fx fm : Bool} {b0 s : State} (rideNow : Bool) (hk : Keeps fx fm b0 s) : Keeps fx fm b0 (State.ppreNow s rideNow) := by
  unfold State.ppreNow
  split
  apply State.setLoc_keeps
  first | with_reducible assumption | assumption
  first | with_reducible assumption | assumption

theorem State.tableDecide_keeps {fx fm : Bool} {b0 s : State} (rideNow mc : Bool) (hk : Keeps fx fm b0 s) : Keeps fx fm b0 (State.tableDecide s rideNow mc) := by
  unfold State.tableDecide
  extract_lets +onlyGivenNames x0
  refine (fun (k0 : Keeps fx fm b0 x0) => ?_) (?_ : Keeps fx fm b0 x0)
  extract_lets +onlyGivenNames x1
  extract_lets +onlyGivenNames x2
  refine (fun (k2 : Keeps fx fm b0 x2) => ?_) (?_ : Keeps fx fm b0 x2)
  extract_lets +onlyGivenNames x3
  extract_lets +onlyGivenNames x4
  extract_lets +onlyGivenNames x5
  extract_lets +onlyGivenNames x6
  extract_lets +onlyGivenNames x7
  refine (fun (k7 : Keeps fx fm b0 x7) => ?_) (?_ : Keeps fx fm b0 x7)
  extract_lets +onlyGivenNames x8
  refine (fun (k8 : Keeps fx fm b0 x8) => ?_) (?_ : Keeps fx fm b0 x8)
  apply State.giveTable_keeps
  first | with_reducible assumption | assumption
  dsimp -zeta only [x8]
  apply State.put_keeps
  apply State.put_keeps
  apply State.putB_keeps
  apply State.putB_keeps
  first | with_reducible assumption | assumption
  dsimp -zeta only [x7]
  apply State.setLoc_keeps
  first | with_reducible assumption | assumption
  dsimp -zeta only [x2]
  apply State.setLoc_keeps
  first | with_reducible assumption | assumption
  dsimp -zeta only [x0]
  apply State.ppreNow_keeps
  first | with_reducible assumption | assumption

theorem State.locPublish_keeps {fx fm : Bool} {b0 s : State}  (hk : Keeps fx fm b0 s) : Keeps fx fm b0 (State.locPublish s) := by
  unfold State.locPublish
  extract_lets +onlyGivenNames x0
  extract_lets +onlyGivenNames x1
  refine (fun (k1 : Keeps fx fm b0 x1) => ?_) (?_ : Keeps fx fm b0 x1)
  apply State.putB_keeps
  apply State.putB_keeps
  first | with_reducible assumption | assumption
  dsimp -zeta only [x1]
  apply State.putI_keeps
  apply State.putI_keeps
  apply State.put_keeps
  apply State.put_keeps
  apply State.putI_keeps
  apply State.putI_keeps
  apply State.putI_keeps
  apply State.put_keeps
  apply State.put_keeps
  apply State.put_keeps
  first | with_reducible assumption | assumption

theorem State.putSlots_keeps {fx fm : Bool} {b0 s : State} (a : Nat) (x1 : List Nat) (hk : Keeps fx fm b0 s) : Keeps fx fm b0 (State.putSlots s a x1) := by
  induction x1 generalizing s a with
  | nil =>
    unfold State.putSlots
    first | with_reducible assumption | assumption
  | cons c l ih =>
    unfold State.putSlots
    apply ih
    apply State.setCeWord_keeps
    first | with_reducible assumption | assumption

theorem State.rideJudge_keeps {fx fm : Bool} {b0 s : State} (lost : Bool) (hk : Keeps fx fm b0 s) : Keeps fx fm b0 (State.rideJudge s lost).1 := by
  unfold State.rideJudge
  extract_lets +onlyGivenNames x0
  extract_lets +onlyGivenNames x1
  extract_lets +onlyGivenNames x2
  refine (fun (k2 : Keeps fx fm b0 x2) => ?_) (?_ : Keeps fx fm b0 x2)
  extract_lets +onlyGivenNames x3
  extract_lets +onlyGivenNames x4
  extract_lets +onlyGivenNames x5
  refine (fun (k5 : Keeps fx fm b0 x5) => ?_) (?_ : Keeps fx fm b0 x5)
  extract_lets +onlyGivenNames x6
  extract_lets +onlyGivenNames x7
  extract_lets +onlyGivenNames x8
  extract_lets +onlyGivenNames x9
  extract_lets +onlyGivenNames x10
  extract_lets +onlyGivenNames x11
  refine (fun (k11 : Keeps fx fm b0 x11) => ?_) (?_ : Keeps fx fm b0 x11)
  extract_lets +onlyGivenNames x12
  extract_lets +onlyGivenNames x13
  refine (fun (k13 : Keeps fx fm b0 x13) => ?_) (?_ : Keeps fx fm b0 x13)
  extract_lets +onlyGivenNames x14
  refine (fun (k14 : Keeps fx fm b0 x14) => ?_) (?_ : Keeps fx fm b0 x14)
  extract_lets +onlyGivenNames x15
  refine (fun (k15 : Keeps fx fm b0 x15) => ?_) (?_ : Keeps fx fm b0 x15)
  extract_lets +onlyGivenNames x16
  refine (fun (k16 : Keeps fx fm b0 x16) => ?_) (?_ : Keeps fx fm b0 x16)
  extract_lets +onlyGivenNames x17
  refine (fun (k17 : Keeps fx fm b0 x17) => ?_) (?_ : Keeps fx fm b0 x17)
  extract_lets +onlyGivenNames x18
  refine (fun (k18 : Keeps fx fm b0 x18) => ?_) (?_ : Keeps fx fm b0 x18)
  first | with_reducible assumption | assumption
  dsimp -zeta only [x18]
  split
  first | with_reducible assumption | assumption
  apply State.emit_keeps
  apply State.irq_keeps
  apply State.put_keeps
  first | with_reducible assumption | assumption
  dsimp -zeta only [x17]
  apply State.put_keeps
  first | with_reducible assumption | assumption
  dsimp -zeta only [x16]
  split
  apply State.tableDecide_keeps
  first | with_reducible assumption | assumption
  first | with_reducible assumption | assumption
  dsimp -zeta only [x15]
  apply State.putB_keeps
  first | with_reducible assumption | assumption
  dsimp -zeta only [x14]
  split
  split
  apply State.setLoc_keeps
  first | with_reducible assumption | assumption
  split
  apply State.setLoc_keeps
  first | with_reducible assumption | assumption
  first | with_reducible assumption | assumption
  first | with_reducible assumption | assumption
  dsimp -zeta only [x13]
  split
  refine Keeps.lit ?_ rfl rfl
  first | with_reducible assumption | assumption
  first | with_reducible assumption | assumption
  dsimp -zeta only [x11]
  apply State.putB_keeps
  apply State.setLoc_keeps
  first | with_reducible assumption | assumption
  dsimp -zeta only [x5]
  split
  apply State.rideDue_keeps
  first | with_reducible assumption | assumption
  first | with_reducible assumption | assumption
  dsimp -zeta only [x2]
  apply State.forEach_keeps
  first | with_reducible assumption | assumption
  intro v19
  intro v20
  intro v21
  apply State.rtLimit_keeps
  first | with_reducible assumption | assumption

theorem State.locusPass_keeps {fx fm : Bool} {b0 s : State}  (hk : Keeps fx fm b0 s) : Keeps fx fm b0 (State.locusPass s) := by
  unfold State.locusPass
  extract_lets +onlyGivenNames x0
  split
  extract_lets +onlyGivenNames x1
  refine (fun (k1 : Keeps fx fm b0 x1) => ?_) (?_ : Keeps fx fm b0 x1)
  apply State.setCeWord_keeps
  first | with_reducible assumption | assumption
  dsimp -zeta only [x1]
  apply State.setLoc_keeps
  apply State.put_keeps
  first | with_reducible assumption | assumption
  extract_lets +onlyGivenNames x2
  extract_lets +onlyGivenNames x3
  refine (fun (k3 : Keeps fx fm b0 x3) => ?_) (?_ : Keeps fx fm b0 x3)
  extract_lets +onlyGivenNames x4
  refine (fun (k4 : Keeps fx fm b0 x4) => ?_) (?_ : Keeps fx fm b0 x4)
  split
  extract_lets +onlyGivenNames x5
  refine (fun (k5 : Keeps fx fm b0 x5) => ?_) (?_ : Keeps fx fm b0 x5)
  split
  extract_lets +onlyGivenNames x6
  refine (fun (k6 : Keeps fx fm b0 x6) => ?_) (?_ : Keeps fx fm b0 x6)
  apply State.putSlots_keeps
  first | with_reducible assumption | assumption
  dsimp -zeta only [x6]
  apply State.locPublish_keeps
  rename_i e7
  refine Keeps.ofEq e7 ?_
  apply State.rideJudge_keeps
  first | with_reducible assumption | assumption
  dsimp -zeta only [x5]
  apply State.rtAdvance_keeps
  apply State.limitClear_keeps
  apply State.machine_keeps
  apply State.limitJudge_keeps
  apply State.power_keeps
  apply State.flux_keeps
  apply State.outputs_keeps
  rename_i e8
  refine Keeps.ofEq e8 ?_
  apply State.lockJudge_keeps
  apply State.observe_keeps
  first | with_reducible assumption | assumption
  dsimp -zeta only [x4]
  split
  apply State.enterSeek_keeps
  first | with_reducible assumption | assumption
  first | with_reducible assumption | assumption
  dsimp -zeta only [x3]
  apply State.ceSees_keeps
  first | with_reducible assumption | assumption

theorem State.locTickStart_keeps {fx fm : Bool} {b0 s : State}  (hk : Keeps fx fm b0 s) : Keeps fx fm b0 (State.locTickStart s) := by
  unfold State.locTickStart
  extract_lets +onlyGivenNames x0
  refine (fun (k0 : Keeps fx fm b0 x0) => ?_) (?_ : Keeps fx fm b0 x0)
  extract_lets +onlyGivenNames x1
  refine (fun (k1 : Keeps fx fm b0 x1) => ?_) (?_ : Keeps fx fm b0 x1)
  apply State.setCeWord_keeps
  apply State.setCeWord_keeps
  first | with_reducible assumption | assumption
  dsimp -zeta only [x1]
  apply State.setLoc_keeps
  first | with_reducible assumption | assumption
  dsimp -zeta only [x0]
  split
  first | with_reducible assumption | assumption
  split
  first | with_reducible assumption | assumption
  apply State.putCfg_keeps
  first | with_reducible assumption | assumption

theorem State.limitBoundary_keeps {fx fm : Bool} {b0 s : State} (old new : Nat) (hk : Keeps fx fm b0 s) : Keeps fx fm b0 (State.limitBoundary s old new) := by
  unfold State.limitBoundary
  extract_lets +onlyGivenNames x0
  extract_lets +onlyGivenNames x1
  extract_lets +onlyGivenNames x2
  refine (fun (k2 : Keeps fx fm b0 x2) => ?_) (?_ : Keeps fx fm b0 x2)
  split
  first | with_reducible assumption | assumption
  apply State.emit_keeps
  apply State.irq_keeps
  first | with_reducible assumption | assumption
  dsimp -zeta only [x2]
  apply State.setLoc_keeps
  apply State.putB_keeps
  apply State.putB_keeps
  first | with_reducible assumption | assumption

theorem State.locModeChange_keeps {fx fm : Bool} {b0 s : State} (old new : Nat) (hk : Keeps fx fm b0 s) : Keeps fx fm b0 (State.locModeChange s old new) := by
  unfold State.locModeChange
  extract_lets +onlyGivenNames x0
  refine (fun (k0 : Keeps fx fm b0 x0) => ?_) (?_ : Keeps fx fm b0 x0)
  extract_lets +onlyGivenNames x1
  refine (fun (k1 : Keeps fx fm b0 x1) => ?_) (?_ : Keeps fx fm b0 x1)
  extract_lets +onlyGivenNames x2
  refine (fun (k2 : Keeps fx fm b0 x2) => ?_) (?_ : Keeps fx fm b0 x2)
  extract_lets +onlyGivenNames x3
  refine (fun (k3 : Keeps fx fm b0 x3) => ?_) (?_ : Keeps fx fm b0 x3)
  first | with_reducible assumption | assumption
  dsimp -zeta only [x3]
  split
  first | with_reducible assumption | assumption
  apply State.put_keeps
  first | with_reducible assumption | assumption
  dsimp -zeta only [x2]
  split
  first | with_reducible assumption | assumption
  apply State.setLoc_keeps
  apply State.put_keeps
  first | with_reducible assumption | assumption
  dsimp -zeta only [x1]
  split
  apply State.put_keeps
  first | with_reducible assumption | assumption
  first | with_reducible assumption | assumption
  dsimp -zeta only [x0]
  split
  apply State.setLoc_keeps
  apply State.put_keeps
  apply State.put_keeps
  first | with_reducible assumption | assumption
  first | with_reducible assumption | assumption

end Sys2Proof.Machine
end

