-- ==== Sys2Proof/Laws/KeepsGridCode.lean ====
section
/-! SUPPORT. What the operations of Machine/GridCode.lean keep. -/

namespace Sys2Proof.Machine

open Sys2Proof

theorem State.suspJudge_keeps {fx fm : Bool} {b0 s : State}  (hk : Keeps fx fm b0 s) : Keeps fx fm b0 (State.suspJudge s) := by
  unfold State.suspJudge
  extract_lets +onlyGivenNames x0
  split
  first | with_reducible assumption | assumption
  apply State.emit_keeps
  apply State.irq_keeps
  apply State.putB_keeps
  first | with_reducible assumption | assumption

theorem State.gcVolt_keeps {fx fm : Bool} {b0 s : State} (x : Rat × Rat × Rat) (hk : Keeps fx fm b0 s) : Keeps fx fm b0 (State.gcVolt s x) := by
  unfold State.gcVolt
  extract_lets +onlyGivenNames x0
  extract_lets +onlyGivenNames x1
  extract_lets +onlyGivenNames x2
  extract_lets +onlyGivenNames x3
  extract_lets +onlyGivenNames x4
  extract_lets +onlyGivenNames x5
  extract_lets +onlyGivenNames x6
  extract_lets +onlyGivenNames x7
  extract_lets +onlyGivenNames x8
  refine Keeps.lit ?_ rfl rfl
  first | with_reducible assumption | assumption

theorem State.gcFreq_keeps {fx fm : Bool} {b0 s : State} (f pin pb : Rat) (hk : Keeps fx fm b0 s) : Keeps fx fm b0 (State.gcFreq s f pin pb) := by
  unfold State.gcFreq
  extract_lets +onlyGivenNames x0
  extract_lets +onlyGivenNames x1
  extract_lets +onlyGivenNames x2
  extract_lets +onlyGivenNames x3
  split
  extract_lets +onlyGivenNames x4
  refine Keeps.lit ?_ rfl rfl
  first | with_reducible assumption | assumption
  refine Keeps.lit ?_ rfl rfl
  first | with_reducible assumption | assumption

theorem State.gcStatus_keeps {fx fm : Bool} {b0 s : State} (v : Nat) (hk : Keeps fx fm b0 s) : Keeps fx fm b0 (State.gcStatus s v) := by
  unfold State.gcStatus
  extract_lets +onlyGivenNames x0
  split
  first | with_reducible assumption | assumption
  extract_lets +onlyGivenNames x1
  refine (fun (k1 : Keeps fx fm b0 x1) => ?_) (?_ : Keeps fx fm b0 x1)
  apply State.emit_keeps
  apply State.put_keeps
  first | with_reducible assumption | assumption
  dsimp -zeta only [x1]
  apply State.forEach_keeps
  first | with_reducible assumption | assumption
  intro v2
  intro v3
  intro v4
  split
  apply State.irq_keeps
  first | with_reducible assumption | assumption
  first | with_reducible assumption | assumption

theorem State.gcEvaluate_keeps {fx fm : Bool} {b0 s : State}  (hk : Keeps fx fm b0 s) : Keeps fx fm b0 (State.gcEvaluate s) := by
  unfold State.gcEvaluate
  extract_lets +onlyGivenNames x0
  extract_lets +onlyGivenNames x1
  refine (fun (k1 : Keeps fx fm b0 x1) => ?_) (?_ : Keeps fx fm b0 x1)
  extract_lets +onlyGivenNames x2
  extract_lets +onlyGivenNames x3
  extract_lets +onlyGivenNames x4
  refine (fun (k4 : Keeps fx fm b0 x4) => ?_) (?_ : Keeps fx fm b0 x4)
  extract_lets +onlyGivenNames x5
  extract_lets +onlyGivenNames x6
  extract_lets +onlyGivenNames x7
  extract_lets +onlyGivenNames x8
  extract_lets +onlyGivenNames x9
  extract_lets +onlyGivenNames x10
  extract_lets +onlyGivenNames x11
  extract_lets +onlyGivenNames x12
  split
  extract_lets +onlyGivenNames x13
  extract_lets +onlyGivenNames x14
  refine (fun (k14 : Keeps fx fm b0 x14) => ?_) (?_ : Keeps fx fm b0 x14)
  extract_lets +onlyGivenNames x15
  refine (fun (k15 : Keeps fx fm b0 x15) => ?_) (?_ : Keeps fx fm b0 x15)
  extract_lets +onlyGivenNames x16
  refine (fun (k16 : Keeps fx fm b0 x16) => ?_) (?_ : Keeps fx fm b0 x16)
  extract_lets +onlyGivenNames x17
  extract_lets +onlyGivenNames x18
  refine (fun (k18 : Keeps fx fm b0 x18) => ?_) (?_ : Keeps fx fm b0 x18)
  split
  refine Keeps.lit ?_ rfl rfl
  first | with_reducible assumption | assumption
  first | with_reducible assumption | assumption
  dsimp -zeta only [x18]
  apply State.gcStatus_keeps
  first | with_reducible assumption | assumption
  dsimp -zeta only [x16]
  apply State.putI_keeps
  first | with_reducible assumption | assumption
  dsimp -zeta only [x15]
  apply State.putCfg_keeps
  first | with_reducible assumption | assumption
  dsimp -zeta only [x14]
  apply State.putCfg_keeps
  first | with_reducible assumption | assumption
  dsimp -zeta only [x4]
  apply State.gcFreq_keeps
  first | with_reducible assumption | assumption
  dsimp -zeta only [x1]
  apply State.suspJudge_keeps
  apply State.gcVolt_keeps
  first | with_reducible assumption | assumption

theorem execGcEvaluation_keeps {fx fm : Bool} {b0 s t : State}  (hk : Keeps fx fm b0 s) (e : execGcEvaluation s = .next t) : Keeps fx fm b0 t := by
  unfold execGcEvaluation at e
  cases e
  extract_lets +onlyGivenNames x0
  split
  extract_lets +onlyGivenNames x1
  refine (fun (k1 : Keeps fx fm b0 x1) => ?_) (?_ : Keeps fx fm b0 x1)
  refine Keeps.lit ?_ rfl rfl
  first | with_reducible assumption | assumption
  dsimp -zeta only [x1]
  apply State.gcEvaluate_keeps
  first | with_reducible assumption | assumption
  first | with_reducible assumption | assumption

theorem State.setIsl_keeps {fx fm : Bool} {b0 s : State} (f : IslSt → IslSt) (hk : Keeps fx fm b0 s) : Keeps fx fm b0 (State.setIsl s f) := by
  unfold State.setIsl
  refine Keeps.lit ?_ rfl rfl
  first | with_reducible assumption | assumption

theorem State.showLeft_keeps {fx fm : Bool} {b0 s : State}  (hk : Keeps fx fm b0 s) : Keeps fx fm b0 (State.showLeft s) := by
  unfold State.showLeft
  apply State.put_keeps
  first | with_reducible assumption | assumption

theorem State.islConfirm_keeps {fx fm : Bool} {b0 s : State} (cause deadline : Nat) (hk : Keeps fx fm b0 s) : Keeps fx fm b0 (State.islConfirm s cause deadline) := by
  unfold State.islConfirm
  extract_lets +onlyGivenNames x0
  extract_lets +onlyGivenNames x1
  extract_lets +onlyGivenNames x2
  extract_lets +onlyGivenNames x3
  extract_lets +onlyGivenNames x4
  refine (fun (k4 : Keeps fx fm b0 x4) => ?_) (?_ : Keeps fx fm b0 x4)
  extract_lets +onlyGivenNames x5
  refine (fun (k5 : Keeps fx fm b0 x5) => ?_) (?_ : Keeps fx fm b0 x5)
  split
  extract_lets +onlyGivenNames x6
  refine (fun (k6 : Keeps fx fm b0 x6) => ?_) (?_ : Keeps fx fm b0 x6)
  extract_lets +onlyGivenNames x7
  refine (fun (k7 : Keeps fx fm b0 x7) => ?_) (?_ : Keeps fx fm b0 x7)
  split
  refine Keeps.lit ?_ rfl rfl
  first | with_reducible assumption | assumption
  first | with_reducible assumption | assumption
  dsimp -zeta only [x7]
  apply State.setIsl_keeps
  first | with_reducible assumption | assumption
  dsimp -zeta only [x6]
  apply State.irq_keeps
  apply State.put_keeps
  apply State.put_keeps
  first | with_reducible assumption | assumption
  split
  apply State.put_keeps
  first | with_reducible assumption | assumption
  first | with_reducible assumption | assumption
  dsimp -zeta only [x5]
  apply State.showLeft_keeps
  first | with_reducible assumption | assumption
  dsimp -zeta only [x4]
  split
  apply State.setIsl_keeps
  first | with_reducible assumption | assumption
  first | with_reducible assumption | assumption

theorem State.islReport_keeps {fx fm : Bool} {b0 s : State}  (hk : Keeps fx fm b0 s) : Keeps fx fm b0 (State.islReport s) := by
  unfold State.islReport
  split
  split
  apply State.emitAt_keeps
  apply State.setIsl_keeps
  first | with_reducible assumption | assumption
  first | with_reducible assumption | assumption
  first | with_reducible assumption | assumption

theorem State.islRelease_keeps {fx fm : Bool} {b0 s : State}  (hk : Keeps fx fm b0 s) : Keeps fx fm b0 (State.islRelease s) := by
  unfold State.islRelease
  split
  apply State.irq_keeps
  apply State.put_keeps
  apply State.put_keeps
  first | with_reducible assumption | assumption
  first | with_reducible assumption | assumption

theorem State.limIdle_keeps {fx fm : Bool} {b0 s : State} (j : Nat) (hk : Keeps fx fm b0 s) : Keeps fx fm b0 (State.limIdle s j) := by
  unfold State.limIdle
  apply State.setIsl_keeps
  first | with_reducible assumption | assumption

theorem State.limTick_keeps {fx fm : Bool} {b0 s : State} (j : Nat) (hk : Keeps fx fm b0 s) : Keeps fx fm b0 (State.limTick s j) := by
  unfold State.limTick
  split
  split
  split
  apply State.setIsl_keeps
  first | with_reducible assumption | assumption
  apply State.setIsl_keeps
  first | with_reducible assumption | assumption
  apply State.setIsl_keeps
  first | with_reducible assumption | assumption
  first | with_reducible assumption | assumption

theorem State.rocofTick_keeps {fx fm : Bool} {b0 s : State}  (hk : Keeps fx fm b0 s) : Keeps fx fm b0 (State.rocofTick s) := by
  unfold State.rocofTick
  split
  apply State.setIsl_keeps
  first | with_reducible assumption | assumption
  split
  apply State.setIsl_keeps
  first | with_reducible assumption | assumption
  apply State.setIsl_keeps
  first | with_reducible assumption | assumption

theorem State.slotTick_keeps {fx fm : Bool} {b0 s : State}  (hk : Keeps fx fm b0 s) : Keeps fx fm b0 (State.slotTick s) := by
  unfold State.slotTick
  extract_lets +onlyGivenNames x0
  extract_lets +onlyGivenNames x1
  extract_lets +onlyGivenNames x2
  extract_lets +onlyGivenNames x3
  refine (fun (k3 : Keeps fx fm b0 x3) => ?_) (?_ : Keeps fx fm b0 x3)
  extract_lets +onlyGivenNames x4
  extract_lets +onlyGivenNames x5
  extract_lets +onlyGivenNames x6
  extract_lets +onlyGivenNames x7
  apply State.put_keeps
  apply State.setIsl_keeps
  first | with_reducible assumption | assumption
  dsimp -zeta only [x3]
  split
  split
  first | with_reducible assumption | assumption
  apply State.setIsl_keeps
  first | with_reducible assumption | assumption
  apply State.setIsl_keeps
  first | with_reducible assumption | assumption

theorem State.windowJudge_keeps {fx fm : Bool} {b0 s : State}  (hk : Keeps fx fm b0 s) : Keeps fx fm b0 (State.windowJudge s) := by
  unfold State.windowJudge
  extract_lets +onlyGivenNames x0
  extract_lets +onlyGivenNames x1
  extract_lets +onlyGivenNames x2
  refine (fun (k2 : Keeps fx fm b0 x2) => ?_) (?_ : Keeps fx fm b0 x2)
  split
  extract_lets +onlyGivenNames x3
  apply State.islConfirm_keeps
  first | with_reducible assumption | assumption
  first | with_reducible assumption | assumption
  dsimp -zeta only [x2]
  apply State.setIsl_keeps
  first | with_reducible assumption | assumption

theorem State.islResize_keeps {fx fm : Bool} {b0 s : State}  (hk : Keeps fx fm b0 s) : Keeps fx fm b0 (State.islResize s) := by
  unfold State.islResize
  extract_lets +onlyGivenNames x0
  refine (fun (k0 : Keeps fx fm b0 x0) => ?_) (?_ : Keeps fx fm b0 x0)
  apply State.put_keeps
  first | with_reducible assumption | assumption
  dsimp -zeta only [x0]
  apply State.setIsl_keeps
  first | with_reducible assumption | assumption

theorem State.islTick_keeps {fx fm : Bool} {b0 s : State}  (hk : Keeps fx fm b0 s) : Keeps fx fm b0 (State.islTick s) := by
  unfold State.islTick
  split
  extract_lets +onlyGivenNames x0
  refine (fun (k0 : Keeps fx fm b0 x0) => ?_) (?_ : Keeps fx fm b0 x0)
  apply State.showLeft_keeps
  apply State.islRelease_keeps
  apply State.windowJudge_keeps
  apply State.slotTick_keeps
  apply State.rocofTick_keeps
  first | with_reducible assumption | assumption
  dsimp -zeta only [x0]
  apply State.forEach_keeps
  first | with_reducible assumption | assumption
  intro v1
  intro v2
  intro v3
  split
  apply State.limTick_keeps
  first | with_reducible assumption | assumption
  apply State.limIdle_keeps
  first | with_reducible assumption | assumption
  first | with_reducible assumption | assumption

theorem State.islEmpty_keeps {fx fm : Bool} {b0 s : State}  (hk : Keeps fx fm b0 s) : Keeps fx fm b0 (State.islEmpty s) := by
  unfold State.islEmpty
  apply State.put_keeps
  apply State.setIsl_keeps
  first | with_reducible assumption | assumption

theorem execFreqLimitConfirm_keeps {fx fm : Bool} {b0 s t : State} (limit : Fin 4) (hk : Keeps fx fm b0 s) (e : execFreqLimitConfirm limit s = .next t) : Keeps fx fm b0 t := by
  unfold execFreqLimitConfirm at e
  cases e
  extract_lets +onlyGivenNames x0
  split
  split
  split
  apply State.islConfirm_keeps
  apply State.setIsl_keeps
  first | with_reducible assumption | assumption
  first | with_reducible assumption | assumption
  first | with_reducible assumption | assumption
  first | with_reducible assumption | assumption

theorem execRocofConfirm_keeps {fx fm : Bool} {b0 s t : State}  (hk : Keeps fx fm b0 s) (e : execRocofConfirm s = .next t) : Keeps fx fm b0 t := by
  unfold execRocofConfirm at e
  cases e
  split
  split
  split
  apply State.islConfirm_keeps
  apply State.setIsl_keeps
  first | with_reducible assumption | assumption
  first | with_reducible assumption | assumption
  first | with_reducible assumption | assumption
  first | with_reducible assumption | assumption

theorem State.countResponse_keeps {fx fm : Bool} {b0 s : State} (m : SlotMeas) (hk : Keeps fx fm b0 s) : Keeps fx fm b0 (State.countResponse s m) := by
  unfold State.countResponse
  extract_lets +onlyGivenNames x0
  extract_lets +onlyGivenNames x1
  extract_lets +onlyGivenNames x2
  refine (fun (k2 : Keeps fx fm b0 x2) => ?_) (?_ : Keeps fx fm b0 x2)
  apply State.windowJudge_keeps
  apply State.put_keeps
  apply State.put_keeps
  apply State.putI_keeps
  first | with_reducible assumption | assumption
  dsimp -zeta only [x2]
  apply State.setIsl_keeps
  first | with_reducible assumption | assumption

theorem execSlotResponse_keeps {fx fm : Bool} {b0 s t : State}  (hk : Keeps fx fm b0 s) (e : execSlotResponse s = .next t) : Keeps fx fm b0 t := by
  unfold execSlotResponse at e
  cases e
  split
  extract_lets +onlyGivenNames x0
  refine (fun (k0 : Keeps fx fm b0 x0) => ?_) (?_ : Keeps fx fm b0 x0)
  extract_lets +onlyGivenNames x1
  split
  apply State.countResponse_keeps
  first | with_reducible assumption | assumption
  first | with_reducible assumption | assumption
  dsimp -zeta only [x0]
  apply State.setIsl_keeps
  first | with_reducible assumption | assumption
  first | with_reducible assumption | assumption

theorem State.islInject_keeps {fx fm : Bool} {b0 s : State}  (hk : Keeps fx fm b0 s) : Keeps fx fm b0 (State.islInject s) := by
  unfold State.islInject
  apply State.islConfirm_keeps
  first | with_reducible assumption | assumption

theorem execClearMissed_keeps {fx fm : Bool} {b0 s t : State}  (hk : Keeps fx fm b0 s) (e : execClearMissed s = .next t) : Keeps fx fm b0 t := by
  unfold execClearMissed at e
  cases e
  split
  split
  extract_lets +onlyGivenNames x0
  refine (fun (k0 : Keeps fx fm b0 x0) => ?_) (?_ : Keeps fx fm b0 x0)
  apply State.idle_keeps
  apply State.haltDue_keeps
  apply State.emit_keeps
  apply State.irq_keeps
  first | with_reducible assumption | assumption
  dsimp -zeta only [x0]
  apply State.setIsl_keeps
  apply State.advTo_keeps
  first | with_reducible assumption | assumption
  first | with_reducible assumption | assumption
  first | with_reducible assumption | assumption

theorem State.islModeChange_keeps {fx fm : Bool} {b0 s : State} (old new : Nat) (hk : Keeps fx fm b0 s) : Keeps fx fm b0 (State.islModeChange s old new) := by
  unfold State.islModeChange
  split
  apply State.setIsl_keeps
  first | with_reducible assumption | assumption
  extract_lets +onlyGivenNames x0
  refine (fun (k0 : Keeps fx fm b0 x0) => ?_) (?_ : Keeps fx fm b0 x0)
  extract_lets +onlyGivenNames x1
  refine (fun (k1 : Keeps fx fm b0 x1) => ?_) (?_ : Keeps fx fm b0 x1)
  split
  apply State.gcStatus_keeps
  first | with_reducible assumption | assumption
  first | with_reducible assumption | assumption
  dsimp -zeta only [x1]
  apply State.showLeft_keeps
  first | with_reducible assumption | assumption
  dsimp -zeta only [x0]
  apply State.setIsl_keeps
  first | with_reducible assumption | assumption

end Sys2Proof.Machine
end

