-- ==== Sys2Proof/Laws/KeepsGnomon.lean ====
section
/-! SUPPORT. What the operations of Machine/Gnomon.lean keep. -/

namespace Sys2Proof.Machine

open Sys2Proof

theorem State.setTime_keeps {fx fm : Bool} {b0 s : State} {f : TimeSt → TimeSt} (h : Keeps fx fm b0 s) (k : ∀ t, (f t).up = t.up) :
    Keeps fx fm b0 (s.setTime f) := by
  unfold State.setTime
  exact Keeps.lit h (k _) rfl

theorem State.putRate_keeps {fx fm : Bool} {b0 s : State} (f : Fld) (x : Rat) (hk : Keeps fx fm b0 s) : Keeps fx fm b0 (State.putRate s f x) := by
  unfold State.putRate
  apply State.putI_keeps
  first | with_reducible assumption | assumption

theorem State.applyRate_keeps {fx fm : Bool} {b0 s : State}  (hk : Keeps fx fm b0 s) : Keeps fx fm b0 (State.applyRate s) := by
  unfold State.applyRate
  split
  first | with_reducible assumption | assumption
  refine State.setTime_keeps ?_ (fun _ => rfl)
  first | with_reducible assumption | assumption

theorem State.gnomonTo_keeps {fx fm : Bool} {b0 s : State} (new : Nat) (hk : Keeps fx fm b0 s) : Keeps fx fm b0 (State.gnomonTo s new) := by
  unfold State.gnomonTo
  extract_lets +onlyGivenNames x0
  split
  first | with_reducible assumption | assumption
  extract_lets +onlyGivenNames x1
  refine (fun (k1 : Keeps fx fm b0 x1) => ?_) (?_ : Keeps fx fm b0 x1)
  extract_lets +onlyGivenNames x2
  refine (fun (k2 : Keeps fx fm b0 x2) => ?_) (?_ : Keeps fx fm b0 x2)
  extract_lets +onlyGivenNames x3
  extract_lets +onlyGivenNames x4
  refine (fun (k4 : Keeps fx fm b0 x4) => ?_) (?_ : Keeps fx fm b0 x4)
  extract_lets +onlyGivenNames x5
  refine (fun (k5 : Keeps fx fm b0 x5) => ?_) (?_ : Keeps fx fm b0 x5)
  extract_lets +onlyGivenNames x6
  refine (fun (k6 : Keeps fx fm b0 x6) => ?_) (?_ : Keeps fx fm b0 x6)
  apply State.emit_keeps
  apply State.irq_keeps
  first | with_reducible assumption | assumption
  dsimp -zeta only [x6]
  split
  refine State.setTime_keeps ?_ (fun _ => rfl)
  apply State.applyRate_keeps
  apply State.putI_keeps
  first | with_reducible assumption | assumption
  first | with_reducible assumption | assumption
  dsimp -zeta only [x5]
  split
  refine State.setTime_keeps ?_ (fun _ => rfl)
  apply State.put_keeps
  apply State.put_keeps
  first | with_reducible assumption | assumption
  first | with_reducible assumption | assumption
  dsimp -zeta only [x4]
  split
  first | with_reducible assumption | assumption
  refine Keeps.lit ?_ rfl rfl
  first | with_reducible assumption | assumption
  dsimp -zeta only [x2]
  refine State.setTime_keeps ?_ (fun _ => rfl)
  first | with_reducible assumption | assumption
  dsimp -zeta only [x1]
  apply State.putB_keeps
  apply State.put_keeps
  first | with_reducible assumption | assumption

theorem State.servo_keeps {fx fm : Bool} {b0 s : State} (o : Rat) (hk : Keeps fx fm b0 s) : Keeps fx fm b0 (State.servo s o) := by
  unfold State.servo
  extract_lets +onlyGivenNames x0
  extract_lets +onlyGivenNames x1
  extract_lets +onlyGivenNames x2
  extract_lets +onlyGivenNames x3
  extract_lets +onlyGivenNames x4
  refine State.setTime_keeps ?_ (fun _ => rfl)
  apply State.applyRate_keeps
  apply State.putRate_keeps
  apply State.putRate_keeps
  first | with_reducible assumption | assumption

theorem State.judgeMeas_keeps {fx fm : Bool} {b0 s : State} (a : Nat) (hk : Keeps fx fm b0 s) : Keeps fx fm b0 (State.judgeMeas s a) := by
  unfold State.judgeMeas
  extract_lets +onlyGivenNames x0
  extract_lets +onlyGivenNames x1
  refine (fun (k1 : Keeps fx fm b0 x1) => ?_) (?_ : Keeps fx fm b0 x1)
  extract_lets +onlyGivenNames x2
  split
  extract_lets +onlyGivenNames x3
  extract_lets +onlyGivenNames x4
  refine (fun (k4 : Keeps fx fm b0 x4) => ?_) (?_ : Keeps fx fm b0 x4)
  split
  apply State.gnomonTo_keeps
  first | with_reducible assumption | assumption
  first | with_reducible assumption | assumption
  dsimp -zeta only [x4]
  refine State.setTime_keeps ?_ (fun _ => rfl)
  first | with_reducible assumption | assumption
  split
  extract_lets +onlyGivenNames x5
  extract_lets +onlyGivenNames x6
  refine (fun (k6 : Keeps fx fm b0 x6) => ?_) (?_ : Keeps fx fm b0 x6)
  split
  refine State.setTime_keeps ?_ (fun _ => rfl)
  apply State.gnomonTo_keeps
  first | with_reducible assumption | assumption
  first | with_reducible assumption | assumption
  dsimp -zeta only [x6]
  refine State.setTime_keeps ?_ (fun _ => rfl)
  first | with_reducible assumption | assumption
  split
  apply State.gnomonTo_keeps
  first | with_reducible assumption | assumption
  refine State.setTime_keeps ?_ (fun _ => rfl)
  apply State.gnomonTo_keeps
  first | with_reducible assumption | assumption
  dsimp -zeta only [x1]
  split
  refine State.setTime_keeps ?_ (fun _ => rfl)
  apply State.gnomonTo_keeps
  first | with_reducible assumption | assumption
  first | with_reducible assumption | assumption

theorem State.acceptMeas_keeps {fx fm : Bool} {b0 s : State} (o : Int) (hk : Keeps fx fm b0 s) : Keeps fx fm b0 (State.acceptMeas s o) := by
  unfold State.acceptMeas
  extract_lets +onlyGivenNames x0
  extract_lets +onlyGivenNames x1
  refine (fun (k1 : Keeps fx fm b0 x1) => ?_) (?_ : Keeps fx fm b0 x1)
  extract_lets +onlyGivenNames x2
  refine (fun (k2 : Keeps fx fm b0 x2) => ?_) (?_ : Keeps fx fm b0 x2)
  extract_lets +onlyGivenNames x3
  extract_lets +onlyGivenNames x4
  extract_lets +onlyGivenNames x5
  refine (fun (k5 : Keeps fx fm b0 x5) => ?_) (?_ : Keeps fx fm b0 x5)
  extract_lets +onlyGivenNames x6
  refine (fun (k6 : Keeps fx fm b0 x6) => ?_) (?_ : Keeps fx fm b0 x6)
  apply State.judgeMeas_keeps
  first | with_reducible assumption | assumption
  dsimp -zeta only [x6]
  split
  first | with_reducible assumption | assumption
  apply State.servo_keeps
  first | with_reducible assumption | assumption
  dsimp -zeta only [x5]
  split
  refine State.setTime_keeps ?_ (fun _ => rfl)
  apply State.put_keeps
  first | with_reducible assumption | assumption
  split
  refine State.setTime_keeps ?_ (fun _ => rfl)
  apply State.put_keeps
  first | with_reducible assumption | assumption
  first | with_reducible assumption | assumption
  dsimp -zeta only [x2]
  refine State.setTime_keeps ?_ (fun _ => rfl)
  first | with_reducible assumption | assumption
  dsimp -zeta only [x1]
  apply State.putI_keeps
  first | with_reducible assumption | assumption

theorem State.submitMeas_keeps {fx fm : Bool} {b0 s : State} (src : Nat) (o : Int) (hk : Keeps fx fm b0 s) : Keeps fx fm b0 (State.submitMeas s src o) := by
  unfold State.submitMeas
  extract_lets +onlyGivenNames x0
  split
  apply State.bumpSat_keeps
  first | with_reducible assumption | assumption
  apply State.acceptMeas_keeps
  first | with_reducible assumption | assumption

theorem State.srcChanged_keeps {fx fm : Bool} {b0 s : State}  (hk : Keeps fx fm b0 s) : Keeps fx fm b0 (State.srcChanged s) := by
  unfold State.srcChanged
  refine State.setTime_keeps ?_ (fun _ => rfl)
  apply State.gnomonTo_keeps
  first | with_reducible assumption | assumption

theorem execMeasTimeout_keeps {fx fm : Bool} {b0 s t : State}  (hk : Keeps fx fm b0 s) (e : execMeasTimeout s = .next t) : Keeps fx fm b0 t := by
  unfold execMeasTimeout at e
  cases e
  apply State.whenAlive_keeps
  first | with_reducible assumption | assumption
  extract_lets +onlyGivenNames x0
  split
  extract_lets +onlyGivenNames x1
  refine (fun (k1 : Keeps fx fm b0 x1) => ?_) (?_ : Keeps fx fm b0 x1)
  apply State.idle_keeps
  apply State.gnomonTo_keeps
  first | with_reducible assumption | assumption
  dsimp -zeta only [x1]
  apply State.advUp_keeps
  first | with_reducible assumption | assumption
  first | with_reducible assumption | assumption

theorem execHoldoverExpiry_keeps {fx fm : Bool} {b0 s t : State}  (hk : Keeps fx fm b0 s) (e : execHoldoverExpiry s = .next t) : Keeps fx fm b0 t := by
  unfold execHoldoverExpiry at e
  cases e
  apply State.whenAlive_keeps
  first | with_reducible assumption | assumption
  split
  apply State.idle_keeps
  apply State.gnomonTo_keeps
  apply State.advUp_keeps
  first | with_reducible assumption | assumption
  first | with_reducible assumption | assumption

theorem State.genAfterStep_keeps {fx fm : Bool} {b0 s : State} (g : Nat) (hk : Keeps fx fm b0 s) : Keeps fx fm b0 (State.genAfterStep s g) := by
  unfold State.genAfterStep
  refine State.setTime_keeps ?_ (fun _ => rfl)
  first | with_reducible assumption | assumption

theorem State.applyStep_keeps {fx : Bool} {b0 s : State} (d : Int) (hk : Keeps fx false b0 s) : Keeps fx false b0 (State.applyStep s d) := by
  unfold State.applyStep
  extract_lets +onlyGivenNames x0
  refine (fun (k0 : Keeps fx false b0 x0) => ?_) (?_ : Keeps fx false b0 x0)
  extract_lets +onlyGivenNames x1
  extract_lets +onlyGivenNames x2
  refine (fun (k2 : Keeps fx false b0 x2) => ?_) (?_ : Keeps fx false b0 x2)
  extract_lets +onlyGivenNames x3
  extract_lets +onlyGivenNames x4
  refine (fun (k4 : Keeps fx false b0 x4) => ?_) (?_ : Keeps fx false b0 x4)
  extract_lets +onlyGivenNames x5
  refine (fun (k5 : Keeps fx false b0 x5) => ?_) (?_ : Keeps fx false b0 x5)
  extract_lets +onlyGivenNames x6
  refine (fun (k6 : Keeps fx false b0 x6) => ?_) (?_ : Keeps fx false b0 x6)
  refine State.setTime_keeps ?_ (fun _ => rfl)
  apply State.forEach_keeps
  first | with_reducible assumption | assumption
  intro v7
  intro v8
  intro v9
  apply State.genAfterStep_keeps
  first | with_reducible assumption | assumption
  dsimp -zeta only [x6]
  apply State.islEmpty_keeps
  apply State.emit_keeps
  apply State.irq_keeps
  first | with_reducible assumption | assumption
  dsimp -zeta only [x5]
  apply State.put_keeps
  apply State.put_keeps
  apply State.put_keeps
  first | with_reducible assumption | assumption
  dsimp -zeta only [x4]
  refine State.setTime_keeps ?_ (fun _ => rfl)
  first | with_reducible assumption | assumption
  dsimp -zeta only [x2]
  refine Keeps.lit ?_ rfl rfl
  first | with_reducible assumption | assumption
  dsimp -zeta only [x0]
  apply State.releaseAll_keeps
  first | with_reducible assumption | assumption

theorem State.tryStep_keeps {fx : Bool} {b0 s : State}  (hk : Keeps fx false b0 s) : Keeps fx false b0 (State.tryStep s) := by
  unfold State.tryStep
  split
  first | with_reducible assumption | assumption
  split
  split
  first | with_reducible assumption | assumption
  apply State.emit_keeps
  apply State.irq_keeps
  refine State.setTime_keeps ?_ (fun _ => rfl)
  first | with_reducible assumption | assumption
  apply State.applyStep_keeps
  first | with_reducible assumption | assumption

theorem State.snapTime_keeps {fx fm : Bool} {b0 s : State}  (hk : Keeps fx fm b0 s) : Keeps fx fm b0 (State.snapTime s) := by
  unfold State.snapTime
  apply State.put_keeps
  apply State.put_keeps
  apply State.put_keeps
  first | with_reducible assumption | assumption

theorem State.capture_keeps {fx fm : Bool} {b0 s : State} (u t fine : Nat) (hk : Keeps fx fm b0 s) : Keeps fx fm b0 (State.capture s u t fine) := by
  unfold State.capture
  split
  split
  first | with_reducible assumption | assumption
  apply State.emit_keeps
  apply State.put_keeps
  first | with_reducible assumption | assumption
  apply State.irq_keeps
  apply State.put_keeps
  apply State.put_keeps
  apply State.put_keeps
  apply State.put_keeps
  first | with_reducible assumption | assumption

theorem State.captures_keeps {fx fm : Bool} {b0 s : State} (sel t fine : Nat) (hk : Keeps fx fm b0 s) : Keeps fx fm b0 (State.captures s sel t fine) := by
  unfold State.captures
  apply State.forEach_keeps
  first | with_reducible assumption | assumption
  intro v0
  intro v1
  intro v2
  split
  apply State.capture_keeps
  first | with_reducible assumption | assumption
  first | with_reducible assumption | assumption

theorem State.syncEdgeTime_keeps {fx fm : Bool} {b0 s : State} (rising : Bool) (fine : Nat) (hk : Keeps fx fm b0 s) : Keeps fx fm b0 (State.syncEdgeTime s rising fine) := by
  unfold State.syncEdgeTime
  extract_lets +onlyGivenNames x0
  extract_lets +onlyGivenNames x1
  refine (fun (k1 : Keeps fx fm b0 x1) => ?_) (?_ : Keeps fx fm b0 x1)
  extract_lets +onlyGivenNames x2
  extract_lets +onlyGivenNames x3
  refine (fun (k3 : Keeps fx fm b0 x3) => ?_) (?_ : Keeps fx fm b0 x3)
  apply State.captures_keeps
  first | with_reducible assumption | assumption
  dsimp -zeta only [x3]
  split
  apply State.pulse_keeps
  split
  apply State.submitMeas_keeps
  first | with_reducible assumption | assumption
  first | with_reducible assumption | assumption
  first | with_reducible assumption | assumption
  dsimp -zeta only [x1]
  refine State.setTime_keeps ?_ (fun _ => rfl)
  first | with_reducible assumption | assumption

theorem execGeneratorPulse_keeps {fx fm : Bool} {b0 s t : State} (gen : Fin 4) (hk : Keeps fx fm b0 s) (e : execGeneratorPulse gen s = .next t) : Keeps fx fm b0 t := by
  unfold execGeneratorPulse at e
  cases e
  split
  extract_lets +onlyGivenNames x0
  extract_lets +onlyGivenNames x1
  refine (fun (k1 : Keeps fx fm b0 x1) => ?_) (?_ : Keeps fx fm b0 x1)
  apply State.pulseAt_keeps
  refine State.setTime_keeps ?_ (fun _ => rfl)
  first | with_reducible assumption | assumption
  dsimp -zeta only [x1]
  apply State.advTo_keeps
  first | with_reducible assumption | assumption
  first | with_reducible assumption | assumption

theorem State.lineTake_keeps {fx fm : Bool} {b0 s : State} (x t : Nat) (hk : Keeps fx fm b0 s) : Keeps fx fm b0 (State.lineTake s x t) := by
  unfold State.lineTake
  refine State.setTime_keeps ?_ (fun _ => rfl)
  first | with_reducible assumption | assumption

theorem State.lineReach_keeps {fx fm : Bool} {b0 s : State} (x t : Nat) (hk : Keeps fx fm b0 s) : Keeps fx fm b0 (State.lineReach s x t) := by
  unfold State.lineReach
  apply State.captures_keeps
  apply State.adcTrigger_keeps
  first | with_reducible assumption | assumption

end Sys2Proof.Machine
end

