-- ==== Sys2Proof/Laws/KeepsAnnulus.lean ====
section
/-! SUPPORT. What the operations of Machine/Annulus.lean keep. -/

namespace Sys2Proof.Machine

open Sys2Proof

theorem State.setMeter_keeps {fx fm : Bool} {b0 s : State} (f : MeterSt → MeterSt) (hk : Keeps fx fm b0 s) : Keeps fx fm b0 (State.setMeter s f) := by
  unfold State.setMeter
  refine Keeps.lit ?_ rfl rfl
  first | with_reducible assumption | assumption

theorem State.modSet_keeps {fx fm : Bool} {b0 s : State} (k : Nat) (cal : Option (Int × Int × Int)) (hk : Keeps fx fm b0 s) : Keeps fx fm b0 (State.modSet s k cal) := by
  unfold State.modSet
  split
  apply State.setMeter_keeps
  first | with_reducible assumption | assumption
  first | with_reducible assumption | assumption

theorem State.sampleRec_keeps {fx : Bool} {b0 s : State} (n tau : Nat) (xs : List Int) (clip : Bool) (hk : Keeps fx false b0 s) : Keeps fx false b0 (State.sampleRec s n tau xs clip) := by
  unfold State.sampleRec
  extract_lets +onlyGivenNames x0
  split
  apply State.ringPush_keeps
  first | with_reducible assumption | assumption
  first | with_reducible assumption | assumption

theorem State.openWin_keeps {fx fm : Bool} {b0 s : State} (n : Nat) (x : Option Int) (hk : Keeps fx fm b0 s) : Keeps fx fm b0 (State.openWin s n x) := by
  unfold State.openWin
  extract_lets +onlyGivenNames x0
  extract_lets +onlyGivenNames x1
  refine (fun (k1 : Keeps fx fm b0 x1) => ?_) (?_ : Keeps fx fm b0 x1)
  extract_lets +onlyGivenNames x2
  extract_lets +onlyGivenNames x3
  apply State.setMeter_keeps
  first | with_reducible assumption | assumption
  dsimp -zeta only [x1]
  split
  apply State.setMeter_keeps
  apply State.put_keeps
  apply State.put_keeps
  first | with_reducible assumption | assumption
  split
  apply State.setMeter_keeps
  apply State.put_keeps
  apply State.put_keeps
  first | with_reducible assumption | assumption
  first | with_reducible assumption | assumption

theorem State.closeWin_keeps {fx fm : Bool} {b0 s : State} (short at600 : Bool) (hk : Keeps fx fm b0 s) : Keeps fx fm b0 (State.closeWin s short at600) := by
  unfold State.closeWin
  split
  first | with_reducible assumption | assumption
  split
  apply State.setMeter_keeps
  first | with_reducible assumption | assumption
  extract_lets +onlyGivenNames x0
  apply State.setMeter_keeps
  first | with_reducible assumption | assumption

theorem State.crossWin_keeps {fx fm : Bool} {b0 s : State} (n : Nat) (x : Int) (hk : Keeps fx fm b0 s) : Keeps fx fm b0 (State.crossWin s n x) := by
  unfold State.crossWin
  split
  split
  apply State.openWin_keeps
  first | with_reducible assumption | assumption
  first | with_reducible assumption | assumption
  extract_lets +onlyGivenNames x0
  extract_lets +onlyGivenNames x1
  extract_lets +onlyGivenNames x2
  extract_lets +onlyGivenNames x3
  refine (fun (k3 : Keeps fx fm b0 x3) => ?_) (?_ : Keeps fx fm b0 x3)
  split
  apply State.openWin_keeps
  apply State.closeWin_keeps
  first | with_reducible assumption | assumption
  first | with_reducible assumption | assumption
  dsimp -zeta only [x3]
  apply State.setMeter_keeps
  first | with_reducible assumption | assumption

theorem State.splitWin_keeps {fx fm : Bool} {b0 s : State} (n : Nat) (w : MWin) (hk : Keeps fx fm b0 s) : Keeps fx fm b0 (State.splitWin s n w) := by
  unfold State.splitWin
  extract_lets +onlyGivenNames x0
  extract_lets +onlyGivenNames x1
  extract_lets +onlyGivenNames x2
  extract_lets +onlyGivenNames x3
  refine (fun (k3 : Keeps fx fm b0 x3) => ?_) (?_ : Keeps fx fm b0 x3)
  extract_lets +onlyGivenNames x4
  refine (fun (k4 : Keeps fx fm b0 x4) => ?_) (?_ : Keeps fx fm b0 x4)
  apply State.setMeter_keeps
  first | with_reducible assumption | assumption
  dsimp -zeta only [x4]
  apply State.openWin_keeps
  apply State.closeWin_keeps
  first | with_reducible assumption | assumption
  dsimp -zeta only [x3]
  apply State.setMeter_keeps
  first | with_reducible assumption | assumption

theorem State.norefWin_keeps {fx fm : Bool} {b0 s : State} (n : Nat) (hk : Keeps fx fm b0 s) : Keeps fx fm b0 (State.norefWin s n) := by
  unfold State.norefWin
  split
  first | with_reducible assumption | assumption
  extract_lets +onlyGivenNames x0
  extract_lets +onlyGivenNames x1
  extract_lets +onlyGivenNames x2
  refine (fun (k2 : Keeps fx fm b0 x2) => ?_) (?_ : Keeps fx fm b0 x2)
  split
  apply State.splitWin_keeps
  first | with_reducible assumption | assumption
  first | with_reducible assumption | assumption
  dsimp -zeta only [x2]
  apply State.setMeter_keeps
  first | with_reducible assumption | assumption

theorem State.addSample_keeps {fx fm : Bool} {b0 s : State} (n tau : Nat) (xs : List Int) (clip : Bool) (hk : Keeps fx fm b0 s) : Keeps fx fm b0 (State.addSample s n tau xs clip) := by
  unfold State.addSample
  extract_lets +onlyGivenNames x0
  refine (fun (k0 : Keeps fx fm b0 x0) => ?_) (?_ : Keeps fx fm b0 x0)
  apply State.setMeter_keeps
  first | with_reducible assumption | assumption
  dsimp -zeta only [x0]
  split
  first | with_reducible assumption | assumption
  split
  first | with_reducible assumption | assumption
  extract_lets +onlyGivenNames x1
  apply State.setMeter_keeps
  first | with_reducible assumption | assumption

theorem State.tenCross_keeps {fx fm : Bool} {b0 s : State} (x : Int) (hk : Keeps fx fm b0 s) : Keeps fx fm b0 (State.tenCross s x) := by
  unfold State.tenCross
  apply State.setMeter_keeps
  first | with_reducible assumption | assumption

theorem State.tenRoll_keeps {fx fm : Bool} {b0 s : State} (tau : Nat) (hk : Keeps fx fm b0 s) : Keeps fx fm b0 (State.tenRoll s tau) := by
  unfold State.tenRoll
  extract_lets +onlyGivenNames x0
  split
  apply State.setMeter_keeps
  first | with_reducible assumption | assumption
  split
  first | with_reducible assumption | assumption
  apply State.setMeter_keeps
  first | with_reducible assumption | assumption

theorem State.cut600_keeps {fx fm : Bool} {b0 s : State}  (hk : Keeps fx fm b0 s) : Keeps fx fm b0 (State.cut600 s) := by
  unfold State.cut600
  apply State.setMeter_keeps
  first | with_reducible assumption | assumption

theorem State.roll600_keeps {fx fm : Bool} {b0 s : State} (n tau : Nat) (hk : Keeps fx fm b0 s) : Keeps fx fm b0 (State.roll600 s n tau) := by
  unfold State.roll600
  split
  first | with_reducible assumption | assumption
  split
  split
  first | with_reducible assumption | assumption
  apply State.cut600_keeps
  first | with_reducible assumption | assumption
  split
  first | with_reducible assumption | assumption
  apply State.openWin_keeps
  apply State.closeWin_keeps
  first | with_reducible assumption | assumption

theorem State.rollWins_keeps {fx fm : Bool} {b0 s : State} (n tau : Nat) (cross : Option Nat) (hk : Keeps fx fm b0 s) : Keeps fx fm b0 (State.rollWins s n tau cross) := by
  unfold State.rollWins
  split
  apply State.norefWin_keeps
  apply State.roll600_keeps
  apply State.tenRoll_keeps
  first | with_reducible assumption | assumption
  extract_lets +onlyGivenNames x0
  split
  apply State.norefWin_keeps
  apply State.tenCross_keeps
  apply State.crossWin_keeps
  apply State.roll600_keeps
  apply State.tenRoll_keeps
  first | with_reducible assumption | assumption
  apply State.norefWin_keeps
  apply State.roll600_keeps
  apply State.tenRoll_keeps
  apply State.crossWin_keeps
  apply State.tenCross_keeps
  first | with_reducible assumption | assumption

theorem State.meterPair_keeps {fx fm : Bool} {b0 s : State} (spare served : Int) (hk : Keeps fx fm b0 s) : Keeps fx fm b0 (State.meterPair s spare served) := by
  unfold State.meterPair
  apply State.setMeter_keeps
  first | with_reducible assumption | assumption

theorem State.meterSample_keeps {fx : Bool} {b0 s : State} (codes : List Int) (spare : Int) (cross : Option Nat) (hk : Keeps fx false b0 s) : Keeps fx false b0 (State.meterSample s codes spare cross) := by
  unfold State.meterSample
  extract_lets +onlyGivenNames x0
  extract_lets +onlyGivenNames x1
  extract_lets +onlyGivenNames x2
  extract_lets +onlyGivenNames x3
  refine (fun (k3 : Keeps fx false b0 x3) => ?_) (?_ : Keeps fx false b0 x3)
  extract_lets +onlyGivenNames x4
  refine (fun (k4 : Keeps fx false b0 x4) => ?_) (?_ : Keeps fx false b0 x4)
  extract_lets +onlyGivenNames x5
  refine (fun (k5 : Keeps fx false b0 x5) => ?_) (?_ : Keeps fx false b0 x5)
  extract_lets +onlyGivenNames x6
  extract_lets +onlyGivenNames x7
  extract_lets +onlyGivenNames x8
  refine (fun (k8 : Keeps fx false b0 x8) => ?_) (?_ : Keeps fx false b0 x8)
  extract_lets +onlyGivenNames x9
  extract_lets +onlyGivenNames x10
  refine (fun (k10 : Keeps fx false b0 x10) => ?_) (?_ : Keeps fx false b0 x10)
  extract_lets +onlyGivenNames x11
  extract_lets +onlyGivenNames x12
  apply State.sampleRec_keeps
  apply State.addSample_keeps
  first | with_reducible assumption | assumption
  dsimp -zeta only [x10]
  apply State.setMeter_keeps
  first | with_reducible assumption | assumption
  dsimp -zeta only [x8]
  apply State.meterPair_keeps
  first | with_reducible assumption | assumption
  dsimp -zeta only [x5]
  apply State.rollWins_keeps
  first | with_reducible assumption | assumption
  dsimp -zeta only [x4]
  apply State.setMeter_keeps
  first | with_reducible assumption | assumption
  dsimp -zeta only [x3]
  apply State.advTo_keeps
  first | with_reducible assumption | assumption

theorem execMeterSample_keeps {fx : Bool} {b0 s t : State} (codes : List Int) (spare : Int) (cross : Option (Fin 65536)) (hk : Keeps fx false b0 s) (e : execMeterSample codes spare cross s = .next t) : Keeps fx false b0 t := by
  unfold execMeterSample at e
  cases e
  split
  apply State.meterSample_keeps
  first | with_reducible assumption | assumption
  first | with_reducible assumption | assumption

theorem State.wrapAcc_keeps {fx fm : Bool} {b0 s : State} (i : Nat) (hk : Keeps fx fm b0 s) : Keeps fx fm b0 (State.wrapAcc s i) := by
  unfold State.wrapAcc
  extract_lets +onlyGivenNames x0
  extract_lets +onlyGivenNames x1
  refine (fun (k1 : Keeps fx fm b0 x1) => ?_) (?_ : Keeps fx fm b0 x1)
  split
  apply State.irq_keeps
  first | with_reducible assumption | assumption
  extract_lets +onlyGivenNames x2
  refine (fun (k2 : Keeps fx fm b0 x2) => ?_) (?_ : Keeps fx fm b0 x2)
  split
  first | with_reducible assumption | assumption
  apply State.emit_keeps
  apply State.setMeter_keeps
  first | with_reducible assumption | assumption
  dsimp -zeta only [x2]
  apply State.irq_keeps
  first | with_reducible assumption | assumption
  dsimp -zeta only [x1]
  apply State.setMeter_keeps
  first | with_reducible assumption | assumption

theorem State.addAcc_keeps {fx fm : Bool} {b0 s : State} (i amount : Nat) (hk : Keeps fx fm b0 s) : Keeps fx fm b0 (State.addAcc s i amount) := by
  unfold State.addAcc
  extract_lets +onlyGivenNames x0
  extract_lets +onlyGivenNames x1
  extract_lets +onlyGivenNames x2
  refine (fun (k2 : Keeps fx fm b0 x2) => ?_) (?_ : Keeps fx fm b0 x2)
  extract_lets +onlyGivenNames x3
  refine (fun (k3 : Keeps fx fm b0 x3) => ?_) (?_ : Keeps fx fm b0 x3)
  split
  apply State.emit_keeps
  first | with_reducible assumption | assumption
  first | with_reducible assumption | assumption
  dsimp -zeta only [x3]
  apply State.forEach_keeps
  first | with_reducible assumption | assumption
  intro v4
  intro v5
  intro v6
  apply State.wrapAcc_keeps
  first | with_reducible assumption | assumption
  dsimp -zeta only [x2]
  apply State.setMeter_keeps
  first | with_reducible assumption | assumption

theorem State.addSet_keeps {fx fm : Bool} {b0 s : State} (k : Nat) (ea er : Int) (hk : Keeps fx fm b0 s) : Keeps fx fm b0 (State.addSet s k ea er) := by
  unfold State.addSet
  extract_lets +onlyGivenNames x0
  extract_lets +onlyGivenNames x1
  extract_lets +onlyGivenNames x2
  refine (fun (k2 : Keeps fx fm b0 x2) => ?_) (?_ : Keeps fx fm b0 x2)
  extract_lets +onlyGivenNames x3
  apply State.addAcc_keeps
  first | with_reducible assumption | assumption
  dsimp -zeta only [x2]
  apply State.addAcc_keeps
  first | with_reducible assumption | assumption

theorem State.loadState_keeps {fx fm : Bool} {b0 s : State} (e : Nat) (ampere : Rat) (hk : Keeps fx fm b0 s) : Keeps fx fm b0 (State.loadState s e ampere) := by
  unfold State.loadState
  extract_lets +onlyGivenNames x0
  extract_lets +onlyGivenNames x1
  extract_lets +onlyGivenNames x2
  split
  first | with_reducible assumption | assumption
  apply State.emit_keeps
  apply State.setMeter_keeps
  first | with_reducible assumption | assumption

theorem State.showAll_keeps {fx fm : Bool} {b0 s : State} (l : List (Fld × Nat)) (hk : Keeps fx fm b0 s) : Keeps fx fm b0 (State.showAll s l) := by
  unfold State.showAll
  apply Keeps.foldl
  first | with_reducible assumption | assumption
  intro v0
  intro v1
  intro v2
  apply State.put_keeps
  first | with_reducible assumption | assumption

theorem State.publish_keeps {fx fm : Bool} {b0 s : State} (l : List (Fld × Nat)) (hk : Keeps fx fm b0 s) : Keeps fx fm b0 (State.publish s l) := by
  unfold State.publish
  split
  apply State.setMeter_keeps
  first | with_reducible assumption | assumption
  apply State.showAll_keeps
  first | with_reducible assumption | assumption

theorem State.winRec_keeps {fx : Bool} {b0 s : State} (kind tau b10 : Nat) (w : MWin) (flagged : Bool) (rms : List Nat) (f : Nat) (hk : Keeps fx false b0 s) : Keeps fx false b0 (State.winRec s kind tau b10 w flagged rms f) := by
  unfold State.winRec
  apply State.ringPush_keeps
  first | with_reducible assumption | assumption

theorem State.aggRec_keeps {fx : Bool} {b0 s : State} (kind : Nat) (w : MWin) (flagged : Bool) (runs : List (List Nat)) (hk : Keeps fx false b0 s) : Keeps fx false b0 (State.aggRec s kind w flagged runs) := by
  unfold State.aggRec
  split
  first | with_reducible assumption | assumption
  apply State.winRec_keeps
  apply State.draw_keeps
  first | with_reducible assumption | assumption

theorem State.showFlagged_keeps {fx fm : Bool} {b0 s : State} (k : Nat) (hk : Keeps fx fm b0 s) : Keeps fx fm b0 (State.showFlagged s k) := by
  unfold State.showFlagged
  apply State.putB_keeps
  first | with_reducible assumption | assumption

theorem State.aggregate_keeps {fx : Bool} {b0 s : State} (w : MWin) (flag : Bool) (rms : List Nat) (hk : Keeps fx false b0 s) : Keeps fx false b0 (State.aggregate s w flag rms) := by
  unfold State.aggregate
  extract_lets +onlyGivenNames x0
  refine (fun (k0 : Keeps fx false b0 x0) => ?_) (?_ : Keeps fx false b0 x0)
  extract_lets +onlyGivenNames x1
  refine (fun (k1 : Keeps fx false b0 x1) => ?_) (?_ : Keeps fx false b0 x1)
  split
  extract_lets +onlyGivenNames x2
  apply State.showFlagged_keeps
  apply State.setMeter_keeps
  apply State.aggRec_keeps
  first | with_reducible assumption | assumption
  apply State.showFlagged_keeps
  first | with_reducible assumption | assumption
  dsimp -zeta only [x1]
  split
  apply State.setMeter_keeps
  apply State.aggRec_keeps
  first | with_reducible assumption | assumption
  first | with_reducible assumption | assumption
  dsimp -zeta only [x0]
  apply State.setMeter_keeps
  first | with_reducible assumption | assumption

theorem State.addTest_keeps {fx fm : Bool} {b0 s : State} (ea : Int) (hk : Keeps fx fm b0 s) : Keeps fx fm b0 (State.addTest s ea) := by
  unfold State.addTest
  extract_lets +onlyGivenNames x0
  extract_lets +onlyGivenNames x1
  refine (fun (k1 : Keeps fx fm b0 x1) => ?_) (?_ : Keeps fx fm b0 x1)
  extract_lets +onlyGivenNames x2
  apply State.put_keeps
  apply State.put_keeps
  first | with_reducible assumption | assumption
  dsimp -zeta only [x1]
  apply State.setMeter_keeps
  first | with_reducible assumption | assumption

theorem State.evalWin_keeps {fx : Bool} {b0 s : State} (w : MWin) (hk : Keeps fx false b0 s) : Keeps fx false b0 (State.evalWin s w) := by
  unfold State.evalWin
  extract_lets +onlyGivenNames x0
  extract_lets +onlyGivenNames x1
  extract_lets +onlyGivenNames x2
  extract_lets +onlyGivenNames x3
  extract_lets +onlyGivenNames x4
  extract_lets +onlyGivenNames x5
  extract_lets +onlyGivenNames x6
  extract_lets +onlyGivenNames x7
  refine (fun (k7 : Keeps fx false b0 x7) => ?_) (?_ : Keeps fx false b0 x7)
  extract_lets +onlyGivenNames x8
  extract_lets +onlyGivenNames x9
  extract_lets +onlyGivenNames x10
  extract_lets +onlyGivenNames x11
  extract_lets +onlyGivenNames x12
  extract_lets +onlyGivenNames x13
  extract_lets +onlyGivenNames x14
  refine (fun (k14 : Keeps fx false b0 x14) => ?_) (?_ : Keeps fx false b0 x14)
  extract_lets +onlyGivenNames x15
  refine (fun (k15 : Keeps fx false b0 x15) => ?_) (?_ : Keeps fx false b0 x15)
  extract_lets +onlyGivenNames x16
  extract_lets +onlyGivenNames x17
  refine (fun (k17 : Keeps fx false b0 x17) => ?_) (?_ : Keeps fx false b0 x17)
  extract_lets +onlyGivenNames x18
  refine (fun (k18 : Keeps fx false b0 x18) => ?_) (?_ : Keeps fx false b0 x18)
  extract_lets +onlyGivenNames x19
  refine (fun (k19 : Keeps fx false b0 x19) => ?_) (?_ : Keeps fx false b0 x19)
  extract_lets +onlyGivenNames x20
  extract_lets +onlyGivenNames x21
  refine (fun (k21 : Keeps fx false b0 x21) => ?_) (?_ : Keeps fx false b0 x21)
  apply State.aggregate_keeps
  first | with_reducible assumption | assumption
  dsimp -zeta only [x21]
  split
  apply State.winRec_keeps
  first | with_reducible assumption | assumption
  first | with_reducible assumption | assumption
  dsimp -zeta only [x19]
  apply State.irq_keeps
  apply State.putB_keeps
  first | with_reducible assumption | assumption
  dsimp -zeta only [x18]
  split
  first | with_reducible assumption | assumption
  apply State.setMeter_keeps
  first | with_reducible assumption | assumption
  dsimp -zeta only [x17]
  apply State.publish_keeps
  first | with_reducible assumption | assumption
  dsimp -zeta only [x15]
  apply State.setMeter_keeps
  first | with_reducible assumption | assumption
  dsimp -zeta only [x14]
  split
  apply State.addTest_keeps
  first | with_reducible assumption | assumption
  apply State.addSet_keeps
  apply State.forEach_keeps
  first | with_reducible assumption | assumption
  intro v22
  intro v23
  intro v24
  apply State.addSet_keeps
  first | with_reducible assumption | assumption
  dsimp -zeta only [x7]
  apply State.forEach_keeps
  first | with_reducible assumption | assumption
  intro v25
  intro v26
  intro v27
  apply State.loadState_keeps
  first | with_reducible assumption | assumption

theorem State.evalAll_keeps {fx : Bool} {b0 s : State} (x1 : Nat) (hk : Keeps fx false b0 s) : Keeps fx false b0 (State.evalAll s x1) := by
  induction x1 generalizing s  with
  | zero =>
    unfold State.evalAll
    first | with_reducible assumption | assumption
  | succ n ih =>
    unfold State.evalAll
    split
    first | with_reducible assumption | assumption
    apply ih
    apply State.evalWin_keeps
    apply State.setMeter_keeps
    first | with_reducible assumption | assumption

theorem execWindowEnd_keeps {fx : Bool} {b0 s t : State}  (hk : Keeps fx false b0 s) (e : execWindowEnd s = .next t) : Keeps fx false b0 t := by
  unfold execWindowEnd at e
  cases e
  apply State.whenAlive_keeps
  first | with_reducible assumption | assumption
  split
  first | with_reducible assumption | assumption
  apply State.pulse_keeps
  apply State.evalAll_keeps
  first | with_reducible assumption | assumption

theorem execFreq10s_keeps {fx : Bool} {b0 s t : State}  (hk : Keeps fx false b0 s) (e : execFreq10s s = .next t) : Keeps fx false b0 t := by
  unfold execFreq10s at e
  cases e
  apply State.whenAlive_keeps
  first | with_reducible assumption | assumption
  split
  first | with_reducible assumption | assumption
  extract_lets +onlyGivenNames x0
  refine (fun (k0 : Keeps fx false b0 x0) => ?_) (?_ : Keeps fx false b0 x0)
  extract_lets +onlyGivenNames x1
  extract_lets +onlyGivenNames x2
  extract_lets +onlyGivenNames x3
  refine (fun (k3 : Keeps fx false b0 x3) => ?_) (?_ : Keeps fx false b0 x3)
  apply State.ringPush_keeps
  first | with_reducible assumption | assumption
  dsimp -zeta only [x3]
  apply State.irq_keeps
  apply State.put_keeps
  first | with_reducible assumption | assumption
  dsimp -zeta only [x0]
  apply State.setMeter_keeps
  first | with_reducible assumption | assumption

end Sys2Proof.Machine
end

