-- ==== Sys2Proof/Laws/KeepsTangent.lean ====
section
/-! SUPPORT. What the operations of Machine/Tangent.lean keep. -/

namespace Sys2Proof.Machine

open Sys2Proof

theorem State.cmpShow_keeps {fx fm : Bool} {b0 s : State} (c : Nat) (hk : Keeps fx fm b0 s) : Keeps fx fm b0 (State.cmpShow s c) := by
  unfold State.cmpShow
  extract_lets +onlyGivenNames x0
  extract_lets +onlyGivenNames x1
  extract_lets +onlyGivenNames x2
  extract_lets +onlyGivenNames x3
  refine (fun (k3 : Keeps fx fm b0 x3) => ?_) (?_ : Keeps fx fm b0 x3)
  extract_lets +onlyGivenNames x4
  refine (fun (k4 : Keeps fx fm b0 x4) => ?_) (?_ : Keeps fx fm b0 x4)
  extract_lets +onlyGivenNames x5
  refine (fun (k5 : Keeps fx fm b0 x5) => ?_) (?_ : Keeps fx fm b0 x5)
  extract_lets +onlyGivenNames x6
  extract_lets +onlyGivenNames x7
  extract_lets +onlyGivenNames x8
  refine (fun (k8 : Keeps fx fm b0 x8) => ?_) (?_ : Keeps fx fm b0 x8)
  extract_lets +onlyGivenNames x9
  refine (fun (k9 : Keeps fx fm b0 x9) => ?_) (?_ : Keeps fx fm b0 x9)
  first | with_reducible assumption | assumption
  dsimp -zeta only [x9]
  split
  first | with_reducible assumption | assumption
  split
  apply State.setCmp_keeps
  first | with_reducible assumption | assumption
  split
  first | with_reducible assumption | assumption
  apply State.emit_keeps
  first | with_reducible assumption | assumption
  dsimp -zeta only [x8]
  apply State.irq_keeps
  apply State.put_keeps
  first | with_reducible assumption | assumption
  dsimp -zeta only [x5]
  apply State.putB_keeps
  first | with_reducible assumption | assumption
  dsimp -zeta only [x4]
  apply State.put_keeps
  first | with_reducible assumption | assumption
  dsimp -zeta only [x3]
  apply State.putB_keeps
  apply State.put_keeps
  first | with_reducible assumption | assumption

theorem State.cmpReport_keeps {fx : Bool} {b0 s : State} (c : Nat) (hk : Keeps fx false b0 s) : Keeps fx false b0 (State.cmpReport s c) := by
  unfold State.cmpReport
  apply State.evalChannels_keeps
  apply State.cmpShow_keeps
  first | with_reducible assumption | assumption

theorem State.cmpInput_keeps {fx fm : Bool} {b0 s : State} (c : Nat) (hk : Keeps fx fm b0 s) : Keeps fx fm b0 (State.cmpInput s c) := by
  unfold State.cmpInput
  extract_lets +onlyGivenNames x0
  extract_lets +onlyGivenNames x1
  extract_lets +onlyGivenNames x2
  extract_lets +onlyGivenNames x3
  extract_lets +onlyGivenNames x4
  split
  first | with_reducible assumption | assumption
  apply State.setCmp_keeps
  first | with_reducible assumption | assumption

theorem execCmpRawChange_keeps {fx fm : Bool} {b0 s t : State} (ball : Fin 64) (uv : Int) (hk : Keeps fx fm b0 s) (e : execCmpRawChange ball uv s = .next t) : Keeps fx fm b0 t := by
  unfold execCmpRawChange at e
  cases e
  apply State.whenAlive_keeps
  first | with_reducible assumption | assumption
  extract_lets +onlyGivenNames x0
  extract_lets +onlyGivenNames x1
  refine (fun (k1 : Keeps fx fm b0 x1) => ?_) (?_ : Keeps fx fm b0 x1)
  apply State.forEach_keeps
  first | with_reducible assumption | assumption
  intro v2
  intro v3
  intro v4
  apply State.cmpInput_keeps
  first | with_reducible assumption | assumption
  dsimp -zeta only [x1]
  refine Keeps.lit ?_ rfl rfl
  first | with_reducible assumption | assumption

theorem State.cmpTake_keeps {fx : Bool} {b0 s : State} (c : Nat) (hk : Keeps fx false b0 s) : Keeps fx false b0 (State.cmpTake s c) := by
  unfold State.cmpTake
  extract_lets +onlyGivenNames x0
  split
  apply State.cmpReport_keeps
  apply State.setCmp_keeps
  apply State.advUp_keeps
  first | with_reducible assumption | assumption
  first | with_reducible assumption | assumption

theorem execBlankingWindowStart_keeps {fx fm : Bool} {b0 s t : State} (tw : Fin 48) (hk : Keeps fx fm b0 s) (e : execBlankingWindowStart tw s = .next t) : Keeps fx fm b0 t := by
  unfold execBlankingWindowStart at e
  cases e
  apply State.whenAlive_keeps
  first | with_reducible assumption | assumption
  split
  first | with_reducible assumption | assumption
  apply State.put_keeps
  apply State.setCmp_keeps
  apply State.advUp_keeps
  first | with_reducible assumption | assumption

theorem execBlankingWindowEnd_keeps {fx fm : Bool} {b0 s t : State} (tw : Fin 48) (hk : Keeps fx fm b0 s) (e : execBlankingWindowEnd tw s = .next t) : Keeps fx fm b0 t := by
  unfold execBlankingWindowEnd at e
  cases e
  apply State.whenAlive_keeps
  first | with_reducible assumption | assumption
  split
  extract_lets +onlyGivenNames x0
  refine (fun (k0 : Keeps fx fm b0 x0) => ?_) (?_ : Keeps fx fm b0 x0)
  apply State.put_keeps
  apply State.setCmp_keeps
  first | with_reducible assumption | assumption
  dsimp -zeta only [x0]
  apply State.advUp_keeps
  first | with_reducible assumption | assumption
  first | with_reducible assumption | assumption

theorem execThresholdRefresh_keeps {fx fm : Bool} {b0 s t : State} (tw : Fin 48) (hk : Keeps fx fm b0 s) (e : execThresholdRefresh tw s = .next t) : Keeps fx fm b0 t := by
  unfold execThresholdRefresh at e
  cases e
  apply State.whenAlive_keeps
  first | with_reducible assumption | assumption
  apply State.cmpInput_keeps
  apply State.setCmp_keeps
  first | with_reducible assumption | assumption

theorem State.cmpCfg_keeps {fx : Bool} {b0 s : State} (c : Nat) (en0 : Bool) (hk : Keeps fx false b0 s) : Keeps fx false b0 (State.cmpCfg s c en0) := by
  unfold State.cmpCfg
  extract_lets +onlyGivenNames x0
  refine (fun (k0 : Keeps fx false b0 x0) => ?_) (?_ : Keeps fx false b0 x0)
  apply State.cmpReport_keeps
  apply State.cmpInput_keeps
  first | with_reducible assumption | assumption
  dsimp -zeta only [x0]
  split
  apply State.setCmp_keeps
  first | with_reducible assumption | assumption
  first | with_reducible assumption | assumption

theorem State.cmpTest_keeps {fx : Bool} {b0 s : State} (old : Nat) (hk : Keeps fx false b0 s) : Keeps fx false b0 (State.cmpTest s old) := by
  unfold State.cmpTest
  extract_lets +onlyGivenNames x0
  extract_lets +onlyGivenNames x1
  extract_lets +onlyGivenNames x2
  extract_lets +onlyGivenNames x3
  extract_lets +onlyGivenNames x4
  refine (fun (k4 : Keeps fx false b0 x4) => ?_) (?_ : Keeps fx false b0 x4)
  split
  apply State.cmpReport_keeps
  apply State.emit_keeps
  first | with_reducible assumption | assumption
  first | with_reducible assumption | assumption
  dsimp -zeta only [x4]
  split
  apply State.cmpReport_keeps
  apply State.emit_keeps
  first | with_reducible assumption | assumption
  first | with_reducible assumption | assumption

theorem State.cmpTestOff_keeps {fx : Bool} {b0 s : State}  (hk : Keeps fx false b0 s) : Keeps fx false b0 (State.cmpTestOff s) := by
  unfold State.cmpTestOff
  extract_lets +onlyGivenNames x0
  split
  apply State.cmpTest_keeps
  apply State.putCfg_keeps
  first | with_reducible assumption | assumption
  first | with_reducible assumption | assumption

theorem State.setStFail_keeps {fx : Bool} {b0 s : State} (c : Nat) (b : Bool) (hk : Keeps fx false b0 s) : Keeps fx false b0 (State.setStFail s c b) := by
  unfold State.setStFail
  apply State.cmpReport_keeps
  apply State.putB_keeps
  apply State.putB_keeps
  first | with_reducible assumption | assumption

theorem State.sideEnd_keeps {fx : Bool} {b0 s : State} (k : Nat) (ok skip : Bool) (hk : Keeps fx false b0 s) : Keeps fx false b0 (State.sideEnd s k ok skip) := by
  unfold State.sideEnd
  extract_lets +onlyGivenNames x0
  extract_lets +onlyGivenNames x1
  extract_lets +onlyGivenNames x2
  refine (fun (k2 : Keeps fx false b0 x2) => ?_) (?_ : Keeps fx false b0 x2)
  split
  apply State.irq_keeps
  apply State.bumpMod_keeps
  refine Keeps.lit ?_ rfl rfl
  first | with_reducible assumption | assumption
  refine Keeps.lit ?_ rfl rfl
  first | with_reducible assumption | assumption
  dsimp -zeta only [x2]
  split
  refine Keeps.lit ?_ rfl rfl
  first | with_reducible assumption | assumption
  split
  apply State.setStFail_keeps
  first | with_reducible assumption | assumption
  first | with_reducible assumption | assumption

theorem State.skipSides_keeps {fx : Bool} {b0 s : State} (x1 : Nat) (hk : Keeps fx false b0 s) : Keeps fx false b0 (State.skipSides s x1) := by
  induction x1 generalizing s  with
  | zero =>
    unfold State.skipSides
    first | with_reducible assumption | assumption
  | succ n ih =>
    unfold State.skipSides
    split
    split
    apply ih
    apply State.sideEnd_keeps
    first | with_reducible assumption | assumption
    first | with_reducible assumption | assumption
    first | with_reducible assumption | assumption

theorem State.readBack_keeps {fx : Bool} {b0 s : State} (k nc : Nat) (hk : Keeps fx false b0 s) : Keeps fx false b0 (State.readBack s k nc) := by
  unfold State.readBack
  extract_lets +onlyGivenNames x0
  extract_lets +onlyGivenNames x1
  extract_lets +onlyGivenNames x2
  refine (fun (k2 : Keeps fx false b0 x2) => ?_) (?_ : Keeps fx false b0 x2)
  extract_lets +onlyGivenNames x3
  extract_lets +onlyGivenNames x4
  refine (fun (k4 : Keeps fx false b0 x4) => ?_) (?_ : Keeps fx false b0 x4)
  apply State.skipSides_keeps
  apply State.sideEnd_keeps
  first | with_reducible assumption | assumption
  dsimp -zeta only [x4]
  split
  first | with_reducible assumption | assumption
  apply State.setStFail_keeps
  apply State.emit_keeps
  apply State.irq_keeps
  first | with_reducible assumption | assumption
  dsimp -zeta only [x2]
  apply State.put_keeps
  first | with_reducible assumption | assumption

theorem execCmpSelftestPass_keeps {fx : Bool} {b0 s t : State}  (hk : Keeps fx false b0 s) (e : execCmpSelftestPass s = .next t) : Keeps fx false b0 t := by
  unfold execCmpSelftestPass at e
  cases e
  apply State.whenAlive_keeps
  first | with_reducible assumption | assumption
  split
  extract_lets +onlyGivenNames x0
  refine (fun (k0 : Keeps fx false b0 x0) => ?_) (?_ : Keeps fx false b0 x0)
  apply State.skipSides_keeps
  refine Keeps.lit ?_ rfl rfl
  first | with_reducible assumption | assumption
  dsimp -zeta only [x0]
  apply State.advUp_keeps
  first | with_reducible assumption | assumption
  first | with_reducible assumption | assumption

theorem State.background_keeps {fx : Bool} {b0 s : State} (pos conv : Nat) (q : Int) (hk : Keeps fx false b0 s) : Keeps fx false b0 (State.background s pos conv q) := by
  unfold State.background
  split
  apply State.bgResult_keeps
  apply State.setAdc_keeps
  first | with_reducible assumption | assumption
  extract_lets +onlyGivenNames x0
  refine (fun (k0 : Keeps fx false b0 x0) => ?_) (?_ : Keeps fx false b0 x0)
  split
  apply State.readBack_keeps
  first | with_reducible assumption | assumption
  split
  apply State.bgResult_keeps
  apply State.setAdc_keeps
  first | with_reducible assumption | assumption
  first | with_reducible assumption | assumption
  dsimp -zeta only [x0]
  split
  apply State.skipSides_keeps
  first | with_reducible assumption | assumption
  first | with_reducible assumption | assumption

end Sys2Proof.Machine
end

