-- ==== Sys2Proof/Laws/KeepsArc.lean ====
section
/-! SUPPORT. What the operations of Machine/Arc.lean keep. -/

namespace Sys2Proof.Machine

open Sys2Proof

theorem State.setArc_keeps {fx fm : Bool} {b0 s : State} (a : Nat) (x : ArcSt) (hk : Keeps fx fm b0 s) : Keeps fx fm b0 (State.setArc s a x) := by
  unfold State.setArc
  refine Keeps.lit ?_ rfl rfl
  first | with_reducible assumption | assumption

theorem State.setChord_keeps {fx fm : Bool} {b0 s : State} (a : Nat) (f : ChordSt → ChordSt) (hk : Keeps fx fm b0 s) : Keeps fx fm b0 (State.setChord s a f) := by
  unfold State.setChord
  refine Keeps.lit ?_ rfl rfl
  first | with_reducible assumption | assumption

theorem State.arcMove_keeps {fx fm : Bool} {b0 s : State} (a : Nat) (d : Int) (hk : Keeps fx fm b0 s) : Keeps fx fm b0 (State.arcMove s a d) := by
  unfold State.arcMove
  extract_lets +onlyGivenNames x0
  extract_lets +onlyGivenNames x1
  apply State.putI_keeps
  apply State.putI_keeps
  first | with_reducible assumption | assumption

theorem State.arcCount_keeps {fx fm : Bool} {b0 s : State} (a : Nat) (d : Int) (hk : Keeps fx fm b0 s) : Keeps fx fm b0 (State.arcCount s a d) := by
  unfold State.arcCount
  extract_lets +onlyGivenNames x0
  refine (fun (k0 : Keeps fx fm b0 x0) => ?_) (?_ : Keeps fx fm b0 x0)
  extract_lets +onlyGivenNames x1
  apply State.setArc_keeps
  apply State.setChord_keeps
  first | with_reducible assumption | assumption
  dsimp -zeta only [x0]
  apply State.arcMove_keeps
  first | with_reducible assumption | assumption

theorem State.chordWindow_keeps {fx fm : Bool} {b0 s : State} (a : Nat) (hk : Keeps fx fm b0 s) : Keeps fx fm b0 (State.chordWindow s a) := by
  unfold State.chordWindow
  extract_lets +onlyGivenNames x0
  extract_lets +onlyGivenNames x1
  split
  first | with_reducible assumption | assumption
  extract_lets +onlyGivenNames x2
  apply State.setChord_keeps
  first | with_reducible assumption | assumption

theorem State.chordHall_keeps {fx fm : Bool} {b0 s : State} (a code : Nat) (hk : Keeps fx fm b0 s) : Keeps fx fm b0 (State.chordHall s a code) := by
  unfold State.chordHall
  extract_lets +onlyGivenNames x0
  refine (fun (k0 : Keeps fx fm b0 x0) => ?_) (?_ : Keeps fx fm b0 x0)
  extract_lets +onlyGivenNames x1
  extract_lets +onlyGivenNames x2
  split
  apply State.setChord_keeps
  first | with_reducible assumption | assumption
  split
  apply State.setChord_keeps
  first | with_reducible assumption | assumption
  extract_lets +onlyGivenNames x3
  extract_lets +onlyGivenNames x4
  extract_lets +onlyGivenNames x5
  apply State.setChord_keeps
  first | with_reducible assumption | assumption
  dsimp -zeta only [x0]
  apply State.chordWindow_keeps
  first | with_reducible assumption | assumption

theorem State.arcHall_keeps {fx fm : Bool} {b0 s : State} (a code : Nat) (hk : Keeps fx fm b0 s) : Keeps fx fm b0 (State.arcHall s a code).1 := by
  unfold State.arcHall
  extract_lets +onlyGivenNames x0
  extract_lets +onlyGivenNames x1
  extract_lets +onlyGivenNames x2
  extract_lets +onlyGivenNames x3
  refine (fun (k3 : Keeps fx fm b0 x3) => ?_) (?_ : Keeps fx fm b0 x3)
  extract_lets +onlyGivenNames x4
  extract_lets +onlyGivenNames x5
  split
  dsimp only
  dsimp -zeta only [x5]
  apply State.emit_keeps
  apply State.irq_keeps
  apply State.put_keeps
  first | with_reducible assumption | assumption
  split
  first | with_reducible assumption | assumption
  extract_lets +onlyGivenNames x6
  split
  dsimp only
  dsimp -zeta only [x5]
  apply State.emit_keeps
  apply State.irq_keeps
  apply State.put_keeps
  first | with_reducible assumption | assumption
  extract_lets +onlyGivenNames x7
  refine (fun (k7 : Keeps fx fm b0 x7) => ?_) (?_ : Keeps fx fm b0 x7)
  dsimp only
  split
  apply State.emit_keeps
  apply State.put_keeps
  first | with_reducible assumption | assumption
  first | with_reducible assumption | assumption
  dsimp -zeta only [x7]
  apply State.arcCount_keeps
  first | with_reducible assumption | assumption
  dsimp -zeta only [x3]
  apply State.put_keeps
  apply State.put_keeps
  first | with_reducible assumption | assumption

theorem State.arcCheck_keeps {fx fm : Bool} {b0 s : State} (a : Nat) (hk : Keeps fx fm b0 s) : Keeps fx fm b0 (State.arcCheck s a) := by
  unfold State.arcCheck
  extract_lets +onlyGivenNames x0
  extract_lets +onlyGivenNames x1
  extract_lets +onlyGivenNames x2
  extract_lets +onlyGivenNames x3
  extract_lets +onlyGivenNames x4
  refine (fun (k4 : Keeps fx fm b0 x4) => ?_) (?_ : Keeps fx fm b0 x4)
  split
  first | with_reducible assumption | assumption
  split
  apply State.emit_keeps
  apply State.irq_keeps
  apply State.put_keeps
  apply State.arcMove_keeps
  first | with_reducible assumption | assumption
  apply State.emit_keeps
  apply State.irq_keeps
  apply State.put_keeps
  first | with_reducible assumption | assumption
  dsimp -zeta only [x4]
  apply State.putI_keeps
  first | with_reducible assumption | assumption

theorem State.arcIndex_keeps {fx fm : Bool} {b0 s : State} (a : Nat) (hk : Keeps fx fm b0 s) : Keeps fx fm b0 (State.arcIndex s a).1 := by
  unfold State.arcIndex
  extract_lets +onlyGivenNames x0
  extract_lets +onlyGivenNames x1
  extract_lets +onlyGivenNames x2
  refine (fun (k2 : Keeps fx fm b0 x2) => ?_) (?_ : Keeps fx fm b0 x2)
  extract_lets +onlyGivenNames x3
  refine (fun (k3 : Keeps fx fm b0 x3) => ?_) (?_ : Keeps fx fm b0 x3)
  split
  extract_lets +onlyGivenNames x4
  extract_lets +onlyGivenNames x5
  refine (fun (k5 : Keeps fx fm b0 x5) => ?_) (?_ : Keeps fx fm b0 x5)
  extract_lets +onlyGivenNames x6
  refine (fun (k6 : Keeps fx fm b0 x6) => ?_) (?_ : Keeps fx fm b0 x6)
  extract_lets +onlyGivenNames x7
  refine (fun (k7 : Keeps fx fm b0 x7) => ?_) (?_ : Keeps fx fm b0 x7)
  extract_lets +onlyGivenNames x8
  refine (fun (k8 : Keeps fx fm b0 x8) => ?_) (?_ : Keeps fx fm b0 x8)
  dsimp only
  apply State.emit_keeps
  first | with_reducible assumption | assumption
  dsimp -zeta only [x8]
  apply State.put_keeps
  first | with_reducible assumption | assumption
  dsimp -zeta only [x7]
  apply State.setChord_keeps
  first | with_reducible assumption | assumption
  dsimp -zeta only [x6]
  apply State.put_keeps
  apply State.put_keeps
  apply State.put_keeps
  first | with_reducible assumption | assumption
  dsimp -zeta only [x5]
  apply State.put_keeps
  apply State.put_keeps
  first | with_reducible assumption | assumption
  split
  dsimp only
  apply State.arcCheck_keeps
  first | with_reducible assumption | assumption
  first | with_reducible assumption | assumption
  dsimp -zeta only [x3]
  apply State.irq_keeps
  apply State.put_keeps
  apply State.put_keeps
  apply State.put_keeps
  first | with_reducible assumption | assumption
  dsimp -zeta only [x2]
  apply State.put_keeps
  apply State.put_keeps
  first | with_reducible assumption | assumption

theorem State.arcEnable_keeps {fx fm : Bool} {b0 s : State} (a : Nat) (hk : Keeps fx fm b0 s) : Keeps fx fm b0 (State.arcEnable s a) := by
  unfold State.arcEnable
  apply State.put_keeps
  apply State.put_keeps
  first | with_reducible assumption | assumption

theorem State.armHome_keeps {fx fm : Bool} {b0 s : State} (a : Nat) (hk : Keeps fx fm b0 s) : Keeps fx fm b0 (State.armHome s a) := by
  unfold State.armHome
  apply State.put_keeps
  first | with_reducible assumption | assumption

end Sys2Proof.Machine
end

