-- ==== Sys2Proof/Laws/KeepsAuxTimers.lean ====
section
/-! SUPPORT. What the operations of Machine/AuxTimers.lean keep. -/

namespace Sys2Proof.Machine

open Sys2Proof

theorem State.advClk_keeps {fx fm : Bool} {b0 s : State} (t : Nat) (hk : Keeps fx fm b0 s) : Keeps fx fm b0 (State.advClk s t) := by
  unfold State.advClk
  apply State.advOsc_keeps
  first | with_reducible assumption | assumption

theorem State.auxEdge_keeps {fx fm : Bool} {b0 s : State} (m : Nat) (on : Bool) (t : Nat) (hk : Keeps fx fm b0 s) : Keeps fx fm b0 (State.auxEdge s m on t) := by
  unfold State.auxEdge
  apply State.blankEdge_keeps
  first | with_reducible assumption | assumption

theorem State.auxOff_keeps {fx fm : Bool} {b0 s : State} (m t : Nat) (hk : Keeps fx fm b0 s) : Keeps fx fm b0 (State.auxOff s m t) := by
  unfold State.auxOff
  extract_lets +onlyGivenNames x0
  extract_lets +onlyGivenNames x1
  refine (fun (k1 : Keeps fx fm b0 x1) => ?_) (?_ : Keeps fx fm b0 x1)
  apply State.setAux_keeps
  first | with_reducible assumption | assumption
  dsimp -zeta only [x1]
  split
  apply State.auxEdge_keeps
  first | with_reducible assumption | assumption
  first | with_reducible assumption | assumption

theorem State.auxOn_keeps {fx fm : Bool} {b0 s : State} (m t : Nat) (hk : Keeps fx fm b0 s) : Keeps fx fm b0 (State.auxOn s m t) := by
  unfold State.auxOn
  apply State.put_keeps
  apply State.setAux_keeps
  apply State.auxEdge_keeps
  first | with_reducible assumption | assumption

theorem State.auxTryOn_keeps {fx fm : Bool} {b0 s : State} (m t : Nat) (hk : Keeps fx fm b0 s) : Keeps fx fm b0 (State.auxTryOn s m t) := by
  unfold State.auxTryOn
  split
  first | with_reducible assumption | assumption
  split
  apply State.auxOn_keeps
  first | with_reducible assumption | assumption
  apply State.setAux_keeps
  first | with_reducible assumption | assumption

theorem State.auxPending_keeps {fx fm : Bool} {b0 s : State} (m : Nat) (hk : Keeps fx fm b0 s) : Keeps fx fm b0 (State.auxPending s m) := by
  unfold State.auxPending
  split
  apply State.auxOn_keeps
  first | with_reducible assumption | assumption
  first | with_reducible assumption | assumption

theorem State.auxBlock_keeps {fx fm : Bool} {b0 s : State} (m : Nat) (hk : Keeps fx fm b0 s) : Keeps fx fm b0 (State.auxBlock s m) := by
  unfold State.auxBlock
  apply State.put_keeps
  apply State.setAux_keeps
  first | with_reducible assumption | assumption

theorem State.auxBoth_keeps {fx fm : Bool} {b0 s : State} (lead : Nat) (t : Int) (hk : Keeps fx fm b0 s) : Keeps fx fm b0 (State.auxBoth s lead t) := by
  unfold State.auxBoth
  apply State.emitAt_keeps
  apply State.auxBlock_keeps
  apply State.auxBlock_keeps
  first | with_reducible assumption | assumption

theorem State.auxApply_keeps {fx fm : Bool} {b0 s : State} (lead : Nat) (x1 : List Edge) (hk : Keeps fx fm b0 s) : Keeps fx fm b0 (State.auxApply s lead x1) := by
  induction x1 generalizing s lead with
  | nil =>
    unfold State.auxApply
    first | with_reducible assumption | assumption
  | cons c l ih =>
    unfold State.auxApply
    extract_lets +onlyGivenNames x0
    split
    split
    apply ih
    apply State.auxBoth_keeps
    first | with_reducible assumption | assumption
    apply ih
    apply State.auxTryOn_keeps
    first | with_reducible assumption | assumption
    apply ih
    apply State.auxOff_keeps
    first | with_reducible assumption | assumption

theorem State.auxDropDue_keeps {fx fm : Bool} {b0 s : State} (m : Nat) (hk : Keeps fx fm b0 s) : Keeps fx fm b0 (State.auxDropDue s m) := by
  unfold State.auxDropDue
  apply State.setAux_keeps
  first | with_reducible assumption | assumption

theorem State.auxCatch_keeps {fx fm : Bool} {b0 s : State} (m : Nat) (hk : Keeps fx fm b0 s) : Keeps fx fm b0 (State.auxCatch s m) := by
  unfold State.auxCatch
  split
  extract_lets +onlyGivenNames x0
  extract_lets +onlyGivenNames x1
  apply State.auxPending_keeps
  apply State.auxPending_keeps
  apply State.auxDropDue_keeps
  apply State.auxDropDue_keeps
  apply State.auxApply_keeps
  first | with_reducible assumption | assumption
  extract_lets +onlyGivenNames x2
  apply State.auxDropDue_keeps
  apply State.auxApply_keeps
  first | with_reducible assumption | assumption

theorem State.auxReachOff_keeps {fx fm : Bool} {b0 s : State} (m : Nat) (hk : Keeps fx fm b0 s) : Keeps fx fm b0 (State.auxReachOff s m) := by
  unfold State.auxReachOff
  extract_lets +onlyGivenNames x0
  refine (fun (k0 : Keeps fx fm b0 x0) => ?_) (?_ : Keeps fx fm b0 x0)
  split
  split
  apply State.auxCatch_keeps
  apply State.advClk_keeps
  first | with_reducible assumption | assumption
  first | with_reducible assumption | assumption
  first | with_reducible assumption | assumption
  dsimp -zeta only [x0]
  apply State.auxCatch_keeps
  first | with_reducible assumption | assumption

theorem State.auxForceShow_keeps {fx fm : Bool} {b0 s : State} (m old new : Nat) (hk : Keeps fx fm b0 s) : Keeps fx fm b0 (State.auxForceShow s m old new) := by
  unfold State.auxForceShow
  extract_lets +onlyGivenNames x0
  refine (fun (k0 : Keeps fx fm b0 x0) => ?_) (?_ : Keeps fx fm b0 x0)
  split
  first | with_reducible assumption | assumption
  split
  apply State.emit_keeps
  first | with_reducible assumption | assumption
  apply State.emit_keeps
  first | with_reducible assumption | assumption
  dsimp -zeta only [x0]
  apply State.putB_keeps
  first | with_reducible assumption | assumption

theorem State.announceAux_keeps {fx fm : Bool} {b0 s : State} (m : Nat) (b : Bool) (x1 : List (Nat × Bool)) (hk : Keeps fx fm b0 s) : Keeps fx fm b0 (State.announceAux s m b x1) := by
  induction x1 generalizing s m b with
  | nil =>
    unfold State.announceAux
    first | with_reducible assumption | assumption
  | cons c l ih =>
    unfold State.announceAux
    apply ih
    split
    first | with_reducible assumption | assumption
    apply State.blankEdge_keeps
    first | with_reducible assumption | assumption

theorem State.auxLoad_keeps {fx fm : Bool} {b0 s : State} (m t0 : Nat) (hk : Keeps fx fm b0 s) : Keeps fx fm b0 (State.auxLoad s m t0) := by
  unfold State.auxLoad
  extract_lets +onlyGivenNames x0
  extract_lets +onlyGivenNames x1
  extract_lets +onlyGivenNames x2
  extract_lets +onlyGivenNames x3
  extract_lets +onlyGivenNames x4
  refine (fun (k4 : Keeps fx fm b0 x4) => ?_) (?_ : Keeps fx fm b0 x4)
  extract_lets +onlyGivenNames x5
  extract_lets +onlyGivenNames x6
  extract_lets +onlyGivenNames x7
  extract_lets +onlyGivenNames x8
  extract_lets +onlyGivenNames x9
  extract_lets +onlyGivenNames x10
  refine (fun (k10 : Keeps fx fm b0 x10) => ?_) (?_ : Keeps fx fm b0 x10)
  extract_lets +onlyGivenNames x11
  refine (fun (k11 : Keeps fx fm b0 x11) => ?_) (?_ : Keeps fx fm b0 x11)
  extract_lets +onlyGivenNames x12
  extract_lets +onlyGivenNames x13
  extract_lets +onlyGivenNames x14
  refine (fun (k14 : Keeps fx fm b0 x14) => ?_) (?_ : Keeps fx fm b0 x14)
  extract_lets +onlyGivenNames x15
  extract_lets +onlyGivenNames x16
  refine (fun (k16 : Keeps fx fm b0 x16) => ?_) (?_ : Keeps fx fm b0 x16)
  apply State.pulseAt_keeps
  apply State.setAux_keeps
  first | with_reducible assumption | assumption
  dsimp -zeta only [x16]
  apply State.announceAux_keeps
  first | with_reducible assumption | assumption
  dsimp -zeta only [x14]
  apply State.auxForceShow_keeps
  first | with_reducible assumption | assumption
  dsimp -zeta only [x11]
  split
  first | with_reducible assumption | assumption
  split
  first | with_reducible assumption | assumption
  apply State.emit_keeps
  first | with_reducible assumption | assumption
  dsimp -zeta only [x10]
  apply State.put_keeps
  first | with_reducible assumption | assumption
  dsimp -zeta only [x4]
  split
  apply State.put_keeps
  first | with_reducible assumption | assumption
  first | with_reducible assumption | assumption

theorem State.auxPeriod_keeps {fx fm : Bool} {b0 s : State} (m : Nat) (hk : Keeps fx fm b0 s) : Keeps fx fm b0 (State.auxPeriod s m) := by
  unfold State.auxPeriod
  extract_lets +onlyGivenNames x0
  extract_lets +onlyGivenNames x1
  split
  apply State.setAux_keeps
  first | with_reducible assumption | assumption
  split
  extract_lets +onlyGivenNames x2
  extract_lets +onlyGivenNames x3
  extract_lets +onlyGivenNames x4
  refine (fun (k4 : Keeps fx fm b0 x4) => ?_) (?_ : Keeps fx fm b0 x4)
  extract_lets +onlyGivenNames x5
  extract_lets +onlyGivenNames x6
  refine (fun (k6 : Keeps fx fm b0 x6) => ?_) (?_ : Keeps fx fm b0 x6)
  split
  extract_lets +onlyGivenNames x7
  refine (fun (k7 : Keeps fx fm b0 x7) => ?_) (?_ : Keeps fx fm b0 x7)
  apply State.auxCatch_keeps
  apply State.setAux_keeps
  first | with_reducible assumption | assumption
  dsimp -zeta only [x7]
  apply State.auxLoad_keeps
  apply State.auxLoad_keeps
  first | with_reducible assumption | assumption
  apply State.auxCatch_keeps
  apply State.auxLoad_keeps
  first | with_reducible assumption | assumption
  dsimp -zeta only [x6]
  apply State.setAux_keeps
  first | with_reducible assumption | assumption
  dsimp -zeta only [x4]
  apply State.auxCatch_keeps
  apply State.advClk_keeps
  first | with_reducible assumption | assumption
  first | with_reducible assumption | assumption

theorem State.auxStart_keeps {fx fm : Bool} {b0 s : State} (m : Nat) (hk : Keeps fx fm b0 s) : Keeps fx fm b0 (State.auxStart s m) := by
  unfold State.auxStart
  split
  apply State.auxLoad_keeps
  first | with_reducible assumption | assumption
  first | with_reducible assumption | assumption

theorem State.auxTicks_keeps {fx fm : Bool} {b0 s : State}  (hk : Keeps fx fm b0 s) : Keeps fx fm b0 (State.auxTicks s) := by
  unfold State.auxTicks
  apply State.forEach_keeps
  apply State.forEach_keeps
  first | with_reducible assumption | assumption
  intro v0
  intro v1
  intro v2
  apply State.auxStart_keeps
  first | with_reducible assumption | assumption
  intro v3
  intro v4
  intro v5
  apply State.auxCatch_keeps
  first | with_reducible assumption | assumption

theorem State.auxDisable_keeps {fx fm : Bool} {b0 s : State} (m : Nat) (hk : Keeps fx fm b0 s) : Keeps fx fm b0 (State.auxDisable s m) := by
  unfold State.auxDisable
  extract_lets +onlyGivenNames x0
  refine (fun (k0 : Keeps fx fm b0 x0) => ?_) (?_ : Keeps fx fm b0 x0)
  apply State.setAux_keeps
  first | with_reducible assumption | assumption
  dsimp -zeta only [x0]
  apply State.auxForceShow_keeps
  apply State.auxOff_keeps
  first | with_reducible assumption | assumption

theorem State.auxRequest_keeps {fx fm : Bool} {b0 s : State} (m : Nat) (b : Bool) (hk : Keeps fx fm b0 s) : Keeps fx fm b0 (State.auxRequest s m b) := by
  unfold State.auxRequest
  extract_lets +onlyGivenNames x0
  extract_lets +onlyGivenNames x1
  refine (fun (k1 : Keeps fx fm b0 x1) => ?_) (?_ : Keeps fx fm b0 x1)
  split
  extract_lets +onlyGivenNames x2
  refine (fun (k2 : Keeps fx fm b0 x2) => ?_) (?_ : Keeps fx fm b0 x2)
  split
  apply State.auxTryOn_keeps
  first | with_reducible assumption | assumption
  apply State.auxOff_keeps
  first | with_reducible assumption | assumption
  dsimp -zeta only [x2]
  apply State.announceAux_keeps
  first | with_reducible assumption | assumption
  first | with_reducible assumption | assumption
  dsimp -zeta only [x1]
  apply State.setAux_keeps
  first | with_reducible assumption | assumption

theorem State.auxSource_keeps {fx fm : Bool} {b0 s : State} (m : Nat) (hk : Keeps fx fm b0 s) : Keeps fx fm b0 (State.auxSource s m) := by
  unfold State.auxSource
  split
  apply State.auxRequest_keeps
  apply State.setAux_keeps
  first | with_reducible assumption | assumption
  first | with_reducible assumption | assumption

theorem State.auxConfirm_keeps {fx fm : Bool} {b0 s : State} (m : Nat) (hk : Keeps fx fm b0 s) : Keeps fx fm b0 (State.auxConfirm s m) := by
  unfold State.auxConfirm
  extract_lets +onlyGivenNames x0
  refine (fun (k0 : Keeps fx fm b0 x0) => ?_) (?_ : Keeps fx fm b0 x0)
  split
  extract_lets +onlyGivenNames x1
  refine (fun (k1 : Keeps fx fm b0 x1) => ?_) (?_ : Keeps fx fm b0 x1)
  extract_lets +onlyGivenNames x2
  split
  apply State.auxPending_keeps
  split
  first | with_reducible assumption | assumption
  apply State.advClk_keeps
  first | with_reducible assumption | assumption
  first | with_reducible assumption | assumption
  dsimp -zeta only [x1]
  apply State.put_keeps
  first | with_reducible assumption | assumption
  first | with_reducible assumption | assumption
  dsimp -zeta only [x0]
  apply State.auxReachOff_keeps
  first | with_reducible assumption | assumption

theorem State.auxTimeout_keeps {fx fm : Bool} {b0 s : State} (m : Nat) (hk : Keeps fx fm b0 s) : Keeps fx fm b0 (State.auxTimeout s m) := by
  unfold State.auxTimeout
  extract_lets +onlyGivenNames x0
  extract_lets +onlyGivenNames x1
  refine (fun (k1 : Keeps fx fm b0 x1) => ?_) (?_ : Keeps fx fm b0 x1)
  extract_lets +onlyGivenNames x2
  refine (fun (k2 : Keeps fx fm b0 x2) => ?_) (?_ : Keeps fx fm b0 x2)
  apply State.idle_keeps
  apply State.emit_keeps
  apply State.put_keeps
  apply State.put_keeps
  first | with_reducible assumption | assumption
  dsimp -zeta only [x2]
  apply State.auxOff_keeps
  apply State.auxOff_keeps
  first | with_reducible assumption | assumption
  dsimp -zeta only [x1]
  apply State.advClk_keeps
  first | with_reducible assumption | assumption

theorem State.auxClearConf_keeps {fx fm : Bool} {b0 s : State} (m : Nat) (hk : Keeps fx fm b0 s) : Keeps fx fm b0 (State.auxClearConf s m).1 := by
  unfold State.auxClearConf
  split
  split
  dsimp only
  apply State.put_keeps
  first | with_reducible assumption | assumption
  first | with_reducible assumption | assumption
  first | with_reducible assumption | assumption

theorem State.auxLate_keeps {fx fm : Bool} {b0 s : State} (m bit : Nat) (hk : Keeps fx fm b0 s) : Keeps fx fm b0 (State.auxLate s m bit) := by
  unfold State.auxLate
  extract_lets +onlyGivenNames x0
  extract_lets +onlyGivenNames x1
  refine (fun (k1 : Keeps fx fm b0 x1) => ?_) (?_ : Keeps fx fm b0 x1)
  split
  first | with_reducible assumption | assumption
  apply State.emit_keeps
  first | with_reducible assumption | assumption
  dsimp -zeta only [x1]
  apply State.put_keeps
  first | with_reducible assumption | assumption

end Sys2Proof.Machine
end

