-- ==== Sys2Proof/Laws/KeepsLog.lean ====
section
/-! SUPPORT. What the operations of Machine/Log.lean keep. -/

namespace Sys2Proof.Machine

open Sys2Proof

theorem State.logArrive_keeps {fx : Bool} {b0 s : State} (e : Ev) (hk : Keeps fx false b0 s) : Keeps fx false b0 (State.logArrive s e) := by
  unfold State.logArrive
  split
  apply State.writeEv_keeps
  first | with_reducible assumption | assumption
  extract_lets +onlyGivenNames x0
  split
  refine Keeps.lit ?_ rfl rfl
  first | with_reducible assumption | assumption
  split
  first | with_reducible assumption | assumption
  extract_lets +onlyGivenNames x1
  extract_lets +onlyGivenNames x2
  refine (fun (k2 : Keeps fx false b0 x2) => ?_) (?_ : Keeps fx false b0 x2)
  refine Keeps.lit ?_ rfl rfl
  first | with_reducible assumption | assumption
  dsimp -zeta only [x2]
  apply State.writeEv_keeps
  refine Keeps.lit ?_ rfl rfl
  first | with_reducible assumption | assumption

theorem execLogEntryArrival_keeps {fx : Bool} {b0 s t : State} (i : Nat) (hk : Keeps fx false b0 s) (e : execLogEntryArrival i s = .next t) : Keeps fx false b0 t := by
  unfold execLogEntryArrival at e
  cases e
  apply State.whenAlive_keeps
  first | with_reducible assumption | assumption
  split
  first | with_reducible assumption | assumption
  apply State.logArrive_keeps
  refine Keeps.lit ?_ rfl rfl
  first | with_reducible assumption | assumption

theorem execLogRelease_keeps {fx : Bool} {b0 s t : State}  (hk : Keeps fx false b0 s) (e : execLogRelease s = .next t) : Keeps fx false b0 t := by
  unfold execLogRelease at e
  cases e
  apply State.whenAlive_keeps
  first | with_reducible assumption | assumption
  split
  split
  first | with_reducible assumption | assumption
  extract_lets +onlyGivenNames x0
  refine (fun (k0 : Keeps fx false b0 x0) => ?_) (?_ : Keeps fx false b0 x0)
  extract_lets +onlyGivenNames x1
  refine (fun (k1 : Keeps fx false b0 x1) => ?_) (?_ : Keeps fx false b0 x1)
  apply State.writeEv_keeps
  refine Keeps.lit ?_ rfl rfl
  first | with_reducible assumption | assumption
  dsimp -zeta only [x1]
  apply State.endRun_keeps
  first | with_reducible assumption | assumption
  dsimp -zeta only [x0]
  apply State.advTo_keeps
  first | with_reducible assumption | assumption
  first | with_reducible assumption | assumption

theorem State.parityFault_keeps {fx fm : Bool} {b0 s : State} (r : RegRef) (hk : Keeps fx fm b0 s) : Keeps fx fm b0 (State.parityFault s r) := by
  unfold State.parityFault
  extract_lets +onlyGivenNames x0
  extract_lets +onlyGivenNames x1
  extract_lets +onlyGivenNames x2
  refine (fun (k2 : Keeps fx fm b0 x2) => ?_) (?_ : Keeps fx fm b0 x2)
  split
  first | with_reducible assumption | assumption
  extract_lets +onlyGivenNames x3
  refine (fun (k3 : Keeps fx fm b0 x3) => ?_) (?_ : Keeps fx fm b0 x3)
  extract_lets +onlyGivenNames x4
  extract_lets +onlyGivenNames x5
  refine (fun (k5 : Keeps fx fm b0 x5) => ?_) (?_ : Keeps fx fm b0 x5)
  extract_lets +onlyGivenNames x6
  refine (fun (k6 : Keeps fx fm b0 x6) => ?_) (?_ : Keeps fx fm b0 x6)
  split
  apply State.haltDue_keeps
  first | with_reducible assumption | assumption
  split
  refine Keeps.lit ?_ rfl rfl
  first | with_reducible assumption | assumption
  first | with_reducible assumption | assumption
  dsimp -zeta only [x6]
  apply State.emit_keeps
  first | with_reducible assumption | assumption
  dsimp -zeta only [x5]
  apply State.put_keeps
  first | with_reducible assumption | assumption
  dsimp -zeta only [x3]
  split
  apply State.irq_keeps
  first | with_reducible assumption | assumption
  first | with_reducible assumption | assumption
  dsimp -zeta only [x2]
  apply State.irq_keeps
  apply State.put_keeps
  first | with_reducible assumption | assumption

theorem State.regUpset_keeps {fx fm : Bool} {b0 s : State} (r : RegRef) (upset : Word) (hk : Keeps fx fm b0 s) : Keeps fx fm b0 (State.regUpset s r upset) := by
  unfold State.regUpset
  extract_lets +onlyGivenNames x0
  extract_lets +onlyGivenNames x1
  extract_lets +onlyGivenNames x2
  refine (fun (k2 : Keeps fx fm b0 x2) => ?_) (?_ : Keeps fx fm b0 x2)
  extract_lets +onlyGivenNames x3
  extract_lets +onlyGivenNames x4
  refine (fun (k4 : Keeps fx fm b0 x4) => ?_) (?_ : Keeps fx fm b0 x4)
  split
  refine Keeps.lit ?_ rfl rfl
  first | with_reducible assumption | assumption
  first | with_reducible assumption | assumption
  dsimp -zeta only [x4]
  split
  refine Keeps.lit ?_ rfl rfl
  first | with_reducible assumption | assumption
  first | with_reducible assumption | assumption
  dsimp -zeta only [x2]
  apply State.setReg_keeps
  first | with_reducible assumption | assumption

theorem State.scrubCheck_keeps {fx fm : Bool} {b0 s : State} (r : RegRef) (hk : Keeps fx fm b0 s) : Keeps fx fm b0 (State.scrubCheck s r) := by
  unfold State.scrubCheck
  split
  apply State.parityFault_keeps
  first | with_reducible assumption | assumption
  first | with_reducible assumption | assumption

theorem State.scrubTo_keeps {fx fm : Bool} {b0 s : State} (r : RegRef) (i : Nat) (hk : Keeps fx fm b0 s) : Keeps fx fm b0 (State.scrubTo s r i) := by
  unfold State.scrubTo
  extract_lets +onlyGivenNames x0
  extract_lets +onlyGivenNames x1
  refine (fun (k1 : Keeps fx fm b0 x1) => ?_) (?_ : Keeps fx fm b0 x1)
  extract_lets +onlyGivenNames x2
  refine (fun (k2 : Keeps fx fm b0 x2) => ?_) (?_ : Keeps fx fm b0 x2)
  refine Keeps.lit ?_ rfl rfl
  first | with_reducible assumption | assumption
  dsimp -zeta only [x2]
  apply State.scrubCheck_keeps
  apply State.advUp_keeps
  first | with_reducible assumption | assumption
  dsimp -zeta only [x1]
  apply Keeps.foldl
  first | with_reducible assumption | assumption
  intro v3
  intro v4
  intro v5
  apply State.scrubCheck_keeps
  apply State.advUp_keeps
  first | with_reducible assumption | assumption

theorem State.scrub_keeps {fx fm : Bool} {b0 s : State} (r : RegRef) (hk : Keeps fx fm b0 s) : Keeps fx fm b0 (State.scrub s r) := by
  unfold State.scrub
  split
  apply State.scrubCheck_keeps
  apply State.advUp_keeps
  first | with_reducible assumption | assumption
  apply State.scrubTo_keeps
  first | with_reducible assumption | assumption

theorem execParityScrub_keeps {fx fm : Bool} {b0 s t : State} (addr : Nat) (upset : Word) (hk : Keeps fx fm b0 s) (e : execParityScrub addr upset s = .next t) : Keeps fx fm b0 t := by
  unfold execParityScrub at e
  cases e
  split
  first | with_reducible assumption | assumption
  split
  split
  apply State.scrub_keeps
  apply State.regUpset_keeps
  first | with_reducible assumption | assumption
  first | with_reducible assumption | assumption
  split
  apply State.scrub_keeps
  apply State.regUpset_keeps
  first | with_reducible assumption | assumption
  first | with_reducible assumption | assumption

end Sys2Proof.Machine
end

