-- ==== Sys2Proof/Laws/KeepsEther.lean ====
section
/-! SUPPORT. What the operations of Machine/Ether.lean keep. -/

namespace Sys2Proof.Machine

open Sys2Proof

theorem State.setEth_keeps {fx fm : Bool} {b0 s : State} (n : Nat) (x : EthSt) (hk : Keeps fx fm b0 s) : Keeps fx fm b0 (State.setEth s n x) := by
  unfold State.setEth
  refine Keeps.lit ?_ rfl rfl
  first | with_reducible assumption | assumption

theorem State.ethCount_keeps {fx fm : Bool} {b0 s : State} (n : Nat) (f : Fld) (bit code : Nat) (hk : Keeps fx fm b0 s) : Keeps fx fm b0 (State.ethCount s n f bit code) := by
  unfold State.ethCount
  extract_lets +onlyGivenNames x0
  refine (fun (k0 : Keeps fx fm b0 x0) => ?_) (?_ : Keeps fx fm b0 x0)
  apply State.emit_keeps
  split
  apply State.irq_keeps
  first | with_reducible assumption | assumption
  first | with_reducible assumption | assumption
  dsimp -zeta only [x0]
  apply State.bumpSat_keeps
  first | with_reducible assumption | assumption

theorem State.ethReceive_keeps {fx : Bool} {b0 s : State} (n : Nat) (f : List Byte) (err : Bool) (hk : Keeps fx false b0 s) : Keeps fx false b0 (State.ethReceive s n f err) := by
  unfold State.ethReceive
  extract_lets +onlyGivenNames x0
  extract_lets +onlyGivenNames x1
  extract_lets +onlyGivenNames x2
  extract_lets +onlyGivenNames x3
  extract_lets +onlyGivenNames x4
  extract_lets +onlyGivenNames x5
  refine (fun (k5 : Keeps fx false b0 x5) => ?_) (?_ : Keeps fx false b0 x5)
  split
  apply State.ethCount_keeps
  first | with_reducible assumption | assumption
  split
  extract_lets +onlyGivenNames x6
  extract_lets +onlyGivenNames x7
  extract_lets +onlyGivenNames x8
  extract_lets +onlyGivenNames x9
  refine (fun (k9 : Keeps fx false b0 x9) => ?_) (?_ : Keeps fx false b0 x9)
  extract_lets +onlyGivenNames x10
  refine (fun (k10 : Keeps fx false b0 x10) => ?_) (?_ : Keeps fx false b0 x10)
  extract_lets +onlyGivenNames x11
  refine (fun (k11 : Keeps fx false b0 x11) => ?_) (?_ : Keeps fx false b0 x11)
  apply State.setEth_keeps
  first | with_reducible assumption | assumption
  dsimp -zeta only [x11]
  apply State.ringPush_keeps
  first | with_reducible assumption | assumption
  dsimp -zeta only [x10]
  apply State.sramStore_keeps
  apply State.sramStore_keeps
  first | with_reducible assumption | assumption
  dsimp -zeta only [x9]
  apply State.sramMend_keeps
  apply State.sramMend_keeps
  first | with_reducible assumption | assumption
  apply State.ringPush_keeps
  first | with_reducible assumption | assumption
  dsimp -zeta only [x5]
  apply State.setEth_keeps
  first | with_reducible assumption | assumption

theorem State.ethEnable_keeps {fx fm : Bool} {b0 s : State} (n : Nat) (hk : Keeps fx fm b0 s) : Keeps fx fm b0 (State.ethEnable s n) := by
  unfold State.ethEnable
  apply State.setEth_keeps
  first | with_reducible assumption | assumption

theorem execEthFrameReceive_keeps {fx : Bool} {b0 s t : State} (port : Fin 2) (frame : List Byte) (err : Bool) (hk : Keeps fx false b0 s) (e : execEthFrameReceive port frame err s = .next t) : Keeps fx false b0 t := by
  unfold execEthFrameReceive at e
  cases e
  split
  apply State.ethReceive_keeps
  first | with_reducible assumption | assumption
  first | with_reducible assumption | assumption

theorem State.ethSend_keeps {fx : Bool} {b0 s : State} (n d : Nat) (hk : Keeps fx false b0 s) : Keeps fx false b0 (State.ethSend s n d) := by
  unfold State.ethSend
  extract_lets +onlyGivenNames x0
  extract_lets +onlyGivenNames y
  refine (fun (ky : Keeps fx false b0 y) => ?_) (?_ : Keeps fx false b0 y)
  extract_lets +onlyGivenNames x1
  extract_lets +onlyGivenNames x2
  extract_lets +onlyGivenNames x3
  extract_lets +onlyGivenNames x4
  extract_lets +onlyGivenNames x5
  extract_lets +onlyGivenNames x6
  refine (fun (k6 : Keeps fx false b0 x6) => ?_) (?_ : Keeps fx false b0 x6)
  extract_lets +onlyGivenNames x7
  extract_lets +onlyGivenNames x8
  refine (fun (k8 : Keeps fx false b0 x8) => ?_) (?_ : Keeps fx false b0 x8)
  extract_lets +onlyGivenNames x9
  refine (fun (k9 : Keeps fx false b0 x9) => ?_) (?_ : Keeps fx false b0 x9)
  split
  apply State.ethReceive_keeps
  first | with_reducible assumption | assumption
  first | with_reducible assumption | assumption
  dsimp -zeta only [x9]
  split
  split
  apply State.ethCount_keeps
  first | with_reducible assumption | assumption
  first | with_reducible assumption | assumption
  first | with_reducible assumption | assumption
  dsimp -zeta only [x8]
  apply State.ringPush_keeps
  first | with_reducible assumption | assumption
  dsimp -zeta only [x6]
  apply State.setEth_keeps
  apply State.ringPop_keeps
  first | with_reducible assumption | assumption
  dsimp -zeta only [y]
  apply State.sramFetch_keeps
  first | with_reducible assumption | assumption

theorem execEthTransmit_keeps {fx : Bool} {b0 s t : State} (port : Fin 2) (hk : Keeps fx false b0 s) (e : execEthTransmit port s = .next t) : Keeps fx false b0 t := by
  unfold execEthTransmit at e
  cases e
  split
  split
  apply State.ethSend_keeps
  first | with_reducible assumption | assumption
  first | with_reducible assumption | assumption
  first | with_reducible assumption | assumption

theorem execEthLinkUp_keeps {fx fm : Bool} {b0 s t : State} (port : Fin 2) (align : Fin 10) (hk : Keeps fx fm b0 s) (e : execEthLinkUp port align s = .next t) : Keeps fx fm b0 t := by
  unfold execEthLinkUp at e
  cases e
  split
  extract_lets +onlyGivenNames x0
  refine (fun (k0 : Keeps fx fm b0 x0) => ?_) (?_ : Keeps fx fm b0 x0)
  apply State.irq_keeps
  apply State.setEth_keeps
  first | with_reducible assumption | assumption
  dsimp -zeta only [x0]
  split
  apply State.put_keeps
  first | with_reducible assumption | assumption
  first | with_reducible assumption | assumption
  first | with_reducible assumption | assumption

theorem execEthLinkDown_keeps {fx fm : Bool} {b0 s t : State} (port : Fin 2) (hk : Keeps fx fm b0 s) (e : execEthLinkDown port s = .next t) : Keeps fx fm b0 t := by
  unfold execEthLinkDown at e
  cases e
  split
  apply State.irq_keeps
  apply State.setEth_keeps
  first | with_reducible assumption | assumption
  first | with_reducible assumption | assumption

end Sys2Proof.Machine
end

