-- ==== Sys2Proof/Laws/KeepsLinkEvents.lean ====
section
/-! SUPPORT. What the operations of Machine/LinkEvents.lean keep. -/

namespace Sys2Proof.Machine

open Sys2Proof

theorem execTagRequest_keeps {fx : Bool} {b0 s t : State} (port : Fin 8) (hk : Keeps fx false b0 s) (e : execTagRequest port s = .next t) : Keeps fx false b0 t := by
  unfold execTagRequest at e
  cases e
  apply State.whenAlive_keeps
  first | with_reducible assumption | assumption
  apply State.takeRequest_keeps
  first | with_reducible assumption | assumption

theorem execRsp_keeps {fx : Bool} {b0 s t : State} (port : Fin 8) (block : Dword) (hk : Keeps fx false b0 s) (e : execRsp port block s = .next t) : Keeps fx false b0 t := by
  unfold execRsp at e
  cases e
  apply State.whenAlive_keeps
  first | with_reducible assumption | assumption
  split
  apply State.response_keeps
  apply State.heard_keeps
  first | with_reducible assumption | assumption
  first | with_reducible assumption | assumption

theorem execTagTimeout_keeps {fx : Bool} {b0 s t : State} (port : Fin 8) (tag : Fin 32) (hk : Keeps fx false b0 s) (e : execTagTimeout port tag s = .next t) : Keeps fx false b0 t := by
  unfold execTagTimeout at e
  cases e
  apply State.whenAlive_keeps
  first | with_reducible assumption | assumption
  split
  extract_lets +onlyGivenNames x0
  extract_lets +onlyGivenNames x1
  refine (fun (k1 : Keeps fx false b0 x1) => ?_) (?_ : Keeps fx false b0 x1)
  extract_lets +onlyGivenNames x2
  refine (fun (k2 : Keeps fx false b0 x2) => ?_) (?_ : Keeps fx false b0 x2)
  apply State.idle_keeps
  apply State.pump_keeps
  apply State.endTag_keeps
  first | with_reducible assumption | assumption
  dsimp -zeta only [x2]
  apply State.emit_keeps
  first | with_reducible assumption | assumption
  dsimp -zeta only [x1]
  apply State.advUp_keeps
  first | with_reducible assumption | assumption
  first | with_reducible assumption | assumption

theorem execTagQuarantineEnd_keeps {fx fm : Bool} {b0 s t : State} (port : Fin 8) (tag : Fin 32) (hk : Keeps fx fm b0 s) (e : execTagQuarantineEnd port tag s = .next t) : Keeps fx fm b0 t := by
  unfold execTagQuarantineEnd at e
  cases e
  apply State.whenAlive_keeps
  first | with_reducible assumption | assumption
  split
  apply State.pump_keeps
  apply State.setTag_keeps
  apply State.put_keeps
  apply State.advUp_keeps
  first | with_reducible assumption | assumption
  first | with_reducible assumption | assumption

theorem execClockPhaseDone_keeps {fx fm : Bool} {b0 s t : State} (port : Fin 8) (wiring : BitVec 3) (hk : Keeps fx fm b0 s) (e : execClockPhaseDone port wiring s = .next t) : Keeps fx fm b0 t := by
  unfold execClockPhaseDone at e
  cases e
  apply State.whenAlive_keeps
  first | with_reducible assumption | assumption
  split
  extract_lets +onlyGivenNames x0
  extract_lets +onlyGivenNames x1
  refine (fun (k1 : Keeps fx fm b0 x1) => ?_) (?_ : Keeps fx fm b0 x1)
  apply State.eqNext_keeps
  apply State.eqNext_keeps
  first | with_reducible assumption | assumption
  dsimp -zeta only [x1]
  apply State.enterLink_keeps
  apply State.setPort_keeps
  first | with_reducible assumption | assumption
  first | with_reducible assumption | assumption

theorem execEqPhaseDone_keeps {fx fm : Bool} {b0 s t : State} (port : Fin 8) (hk : Keeps fx fm b0 s) (e : execEqPhaseDone port s = .next t) : Keeps fx fm b0 t := by
  unfold execEqPhaseDone at e
  cases e
  apply State.whenAlive_keeps
  first | with_reducible assumption | assumption
  split
  apply State.enterLink_keeps
  first | with_reducible assumption | assumption
  first | with_reducible assumption | assumption

theorem execTapRequest_keeps {fx fm : Bool} {b0 s t : State} (port : Fin 8) (block : Dword) (hk : Keeps fx fm b0 s) (e : execTapRequest port block s = .next t) : Keeps fx fm b0 t := by
  unfold execTapRequest at e
  cases e
  apply State.whenAlive_keeps
  first | with_reducible assumption | assumption
  split
  apply State.answerTaps_keeps
  first | with_reducible assumption | assumption
  first | with_reducible assumption | assumption

theorem execTapAck_keeps {fx fm : Bool} {b0 s t : State} (port : Fin 8) (lane : Fin 2) (block : Dword) (eye : Nat) (hk : Keeps fx fm b0 s) (e : execTapAck port lane block eye s = .next t) : Keeps fx fm b0 t := by
  unfold execTapAck at e
  cases e
  apply State.whenAlive_keeps
  first | with_reducible assumption | assumption
  split
  extract_lets +onlyGivenNames x0
  extract_lets +onlyGivenNames x1
  refine (fun (k1 : Keeps fx fm b0 x1) => ?_) (?_ : Keeps fx fm b0 x1)
  apply State.eqJudge_keeps
  apply State.advUp_keeps
  first | with_reducible assumption | assumption
  dsimp -zeta only [x1]
  apply State.setLane_keeps
  first | with_reducible assumption | assumption
  first | with_reducible assumption | assumption

theorem execLatPhaseDone_keeps {fx : Bool} {b0 s t : State} (port : Fin 8) (echoes : List (Nat × Dword)) (hk : Keeps fx false b0 s) (e : execLatPhaseDone port echoes s = .next t) : Keeps fx false b0 t := by
  unfold execLatPhaseDone at e
  cases e
  apply State.whenAlive_keeps
  first | with_reducible assumption | assumption
  split
  apply State.latDone_keeps
  first | with_reducible assumption | assumption
  first | with_reducible assumption | assumption

theorem execLinkUp_keeps {fx : Bool} {b0 s t : State} (port : Fin 8) (desat : BitVec 8) (ready : Dword) (hk : Keeps fx false b0 s) (e : execLinkUp port desat ready s = .next t) : Keeps fx false b0 t := by
  unfold execLinkUp at e
  cases e
  apply State.whenAlive_keeps
  first | with_reducible assumption | assumption
  split
  split
  apply State.trainFail_keeps
  first | with_reducible assumption | assumption
  split
  apply State.linkComesUp_keeps
  first | with_reducible assumption | assumption
  first | with_reducible assumption | assumption
  first | with_reducible assumption | assumption

theorem execLinkTestEntry_keeps {fx : Bool} {b0 s t : State} (port : Fin 8) (ready : Dword) (hk : Keeps fx false b0 s) (e : execLinkTestEntry port ready s = .next t) : Keeps fx false b0 t := by
  unfold execLinkTestEntry at e
  cases e
  apply State.whenAlive_keeps
  first | with_reducible assumption | assumption
  split
  split
  apply State.trainFail_keeps
  first | with_reducible assumption | assumption
  split
  apply State.enterLink_keeps
  apply State.clearLink_keeps
  first | with_reducible assumption | assumption
  first | with_reducible assumption | assumption
  first | with_reducible assumption | assumption

theorem execTrainFail_keeps {fx : Bool} {b0 s t : State} (port : Fin 8) (cause : Fin 8) (hk : Keeps fx false b0 s) (e : execTrainFail port cause s = .next t) : Keeps fx false b0 t := by
  unfold execTrainFail at e
  cases e
  apply State.whenAlive_keeps
  first | with_reducible assumption | assumption
  split
  split
  apply State.trainFail_keeps
  first | with_reducible assumption | assumption
  apply State.idle_keeps
  apply State.trainFail_keeps
  apply State.advUp_keeps
  first | with_reducible assumption | assumption
  first | with_reducible assumption | assumption

theorem execBackoffEnd_keeps {fx fm : Bool} {b0 s t : State} (port : Fin 8) (hk : Keeps fx fm b0 s) (e : execBackoffEnd port s = .next t) : Keeps fx fm b0 t := by
  unfold execBackoffEnd at e
  cases e
  apply State.whenAlive_keeps
  first | with_reducible assumption | assumption
  split
  extract_lets +onlyGivenNames x0
  extract_lets +onlyGivenNames x1
  refine (fun (k1 : Keeps fx fm b0 x1) => ?_) (?_ : Keeps fx fm b0 x1)
  split
  apply State.enterClock_keeps
  first | with_reducible assumption | assumption
  apply State.enterLink_keeps
  first | with_reducible assumption | assumption
  dsimp -zeta only [x1]
  apply State.advUp_keeps
  first | with_reducible assumption | assumption
  first | with_reducible assumption | assumption

theorem execLinkLoss_keeps {fx : Bool} {b0 s t : State} (port : Fin 8) (why : BitVec 4) (hk : Keeps fx false b0 s) (e : execLinkLoss port why s = .next t) : Keeps fx false b0 t := by
  unfold execLinkLoss at e
  cases e
  apply State.whenAlive_keeps
  first | with_reducible assumption | assumption
  split
  apply State.idle_keeps
  apply State.lossOfLink_keeps
  apply State.advUp_keeps
  first | with_reducible assumption | assumption
  first | with_reducible assumption | assumption

theorem execLatencyProbe_keeps {fx fm : Bool} {b0 s t : State} (port : Fin 8) (hk : Keeps fx fm b0 s) (e : execLatencyProbe port s = .next t) : Keeps fx fm b0 t := by
  unfold execLatencyProbe at e
  cases e
  apply State.whenAlive_keeps
  first | with_reducible assumption | assumption
  split
  extract_lets +onlyGivenNames x0
  extract_lets +onlyGivenNames x1
  refine (fun (k1 : Keeps fx fm b0 x1) => ?_) (?_ : Keeps fx fm b0 x1)
  extract_lets +onlyGivenNames x2
  apply State.send_keeps
  apply State.setPort_keeps
  first | with_reducible assumption | assumption
  dsimp -zeta only [x1]
  apply State.advUp_keeps
  first | with_reducible assumption | assumption
  first | with_reducible assumption | assumption

theorem execProbeEcho_keeps {fx fm : Bool} {b0 s t : State} (port : Fin 8) (elapsed : Nat) (block : Dword) (hk : Keeps fx fm b0 s) (e : execProbeEcho port elapsed block s = .next t) : Keeps fx fm b0 t := by
  unfold execProbeEcho at e
  cases e
  apply State.whenAlive_keeps
  first | with_reducible assumption | assumption
  split
  extract_lets +onlyGivenNames x0
  extract_lets +onlyGivenNames x1
  split
  extract_lets +onlyGivenNames x2
  extract_lets +onlyGivenNames x3
  refine (fun (k3 : Keeps fx fm b0 x3) => ?_) (?_ : Keeps fx fm b0 x3)
  extract_lets +onlyGivenNames x4
  extract_lets +onlyGivenNames x5
  refine (fun (k5 : Keeps fx fm b0 x5) => ?_) (?_ : Keeps fx fm b0 x5)
  apply State.latShift_keeps
  apply State.putI_keeps
  apply State.heard_keeps
  first | with_reducible assumption | assumption
  dsimp -zeta only [x5]
  apply State.setPort_keeps
  first | with_reducible assumption | assumption
  dsimp -zeta only [x3]
  apply State.txRun_keeps
  apply State.advUp_keeps
  first | with_reducible assumption | assumption
  apply State.heard_keeps
  first | with_reducible assumption | assumption
  first | with_reducible assumption | assumption

theorem execSample_keeps {fx fm : Bool} {b0 s t : State} (port : Fin 8) (head tail : Dword) (hk : Keeps fx fm b0 s) (e : execSample port head tail s = .next t) : Keeps fx fm b0 t := by
  unfold execSample at e
  cases e
  apply State.whenAlive_keeps
  first | with_reducible assumption | assumption
  split
  extract_lets +onlyGivenNames x0
  extract_lets +onlyGivenNames x1
  split
  apply State.samplePair_keeps
  apply State.heard_keeps
  first | with_reducible assumption | assumption
  extract_lets +onlyGivenNames x2
  refine (fun (k2 : Keeps fx fm b0 x2) => ?_) (?_ : Keeps fx fm b0 x2)
  extract_lets +onlyGivenNames x3
  apply State.put_keeps
  first | with_reducible assumption | assumption
  dsimp -zeta only [x2]
  split
  apply State.heard_keeps
  first | with_reducible assumption | assumption
  first | with_reducible assumption | assumption
  first | with_reducible assumption | assumption

theorem execStatus_keeps {fx : Bool} {b0 s t : State} (port : Fin 8) (block : Dword) (hk : Keeps fx false b0 s) (e : execStatus port block s = .next t) : Keeps fx false b0 t := by
  unfold execStatus at e
  cases e
  apply State.whenAlive_keeps
  first | with_reducible assumption | assumption
  split
  apply State.statusBlock_keeps
  apply State.heard_keeps
  first | with_reducible assumption | assumption
  first | with_reducible assumption | assumption

theorem execInvalidBlock_keeps {fx fm : Bool} {b0 s t : State} (port : Fin 8) (lane : Fin 2) (train : Bool) (block : Dword) (hk : Keeps fx fm b0 s) (e : execInvalidBlock port lane train block s = .next t) : Keeps fx fm b0 t := by
  unfold execInvalidBlock at e
  cases e
  apply State.whenAlive_keeps
  first | with_reducible assumption | assumption
  extract_lets +onlyGivenNames x0
  split
  apply State.loopBlock_keeps
  first | with_reducible assumption | assumption
  split
  first | with_reducible assumption | assumption
  apply State.countInvalid_keeps
  first | with_reducible assumption | assumption

end Sys2Proof.Machine
end

