-- ==== Sys2Proof/Laws/KeepsMeterEvents.lean ====
section
/-! SUPPORT. What the operations of Machine/MeterEvents.lean keep. -/

namespace Sys2Proof.Machine

open Sys2Proof

theorem execMeterCheckpointStage_keeps {fx : Bool} {b0 s t : State}  (hk : Keeps fx false b0 s) (e : execMeterCheckpointStage s = .next t) : Keeps fx false b0 t := by
  unfold execMeterCheckpointStage at e
  cases e
  split
  extract_lets +onlyGivenNames x0
  extract_lets +onlyGivenNames x1
  refine (fun (k1 : Keeps fx false b0 x1) => ?_) (?_ : Keeps fx false b0 x1)
  extract_lets +onlyGivenNames x2
  refine (fun (k2 : Keeps fx false b0 x2) => ?_) (?_ : Keeps fx false b0 x2)
  extract_lets +onlyGivenNames x3
  extract_lets +onlyGivenNames x4
  refine (fun (k4 : Keeps fx false b0 x4) => ?_) (?_ : Keeps fx false b0 x4)
  apply State.ringPush_keeps
  first | with_reducible assumption | assumption
  dsimp -zeta only [x4]
  split
  first | with_reducible assumption | assumption
  refine Keeps.lit ?_ rfl rfl
  first | with_reducible assumption | assumption
  dsimp -zeta only [x2]
  apply State.setMeter_keeps
  first | with_reducible assumption | assumption
  dsimp -zeta only [x1]
  apply State.advTo_keeps
  first | with_reducible assumption | assumption
  first | with_reducible assumption | assumption

theorem State.meterFinal_keeps {fx : Bool} {b0 s : State} (reset : Bool) (hk : Keeps fx false b0 s) : Keeps fx false b0 (State.meterFinal s reset) := by
  unfold State.meterFinal
  split
  extract_lets +onlyGivenNames x0
  refine (fun (k0 : Keeps fx false b0 x0) => ?_) (?_ : Keeps fx false b0 x0)
  extract_lets +onlyGivenNames x1
  refine (fun (k1 : Keeps fx false b0 x1) => ?_) (?_ : Keeps fx false b0 x1)
  refine Keeps.lit ?_ rfl rfl
  first | with_reducible assumption | assumption
  dsimp -zeta only [x1]
  apply State.evalAll_keeps
  first | with_reducible assumption | assumption
  dsimp -zeta only [x0]
  apply State.closeWin_keeps
  first | with_reducible assumption | assumption
  first | with_reducible assumption | assumption

theorem State.meterTimeStep_keeps {fx fm : Bool} {b0 s : State}  (hk : Keeps fx fm b0 s) : Keeps fx fm b0 (State.meterTimeStep s) := by
  unfold State.meterTimeStep
  extract_lets +onlyGivenNames x0
  refine (fun (k0 : Keeps fx fm b0 x0) => ?_) (?_ : Keeps fx fm b0 x0)
  apply State.showFlagged_keeps
  first | with_reducible assumption | assumption
  dsimp -zeta only [x0]
  apply State.setMeter_keeps
  apply State.closeWin_keeps
  first | with_reducible assumption | assumption

theorem State.meterRestore_keeps {fx fm : Bool} {b0 s : State} (rec : Option (List Nat)) (vfail : Option Nat) (hk : Keeps fx fm b0 s) : Keeps fx fm b0 (State.meterRestore s rec vfail) := by
  unfold State.meterRestore
  extract_lets +onlyGivenNames x0
  refine (fun (k0 : Keeps fx fm b0 x0) => ?_) (?_ : Keeps fx fm b0 x0)
  split
  apply State.setMeter_keeps
  first | with_reducible assumption | assumption
  extract_lets +onlyGivenNames x1
  extract_lets +onlyGivenNames x2
  extract_lets +onlyGivenNames x3
  extract_lets +onlyGivenNames x4
  refine (fun (k4 : Keeps fx fm b0 x4) => ?_) (?_ : Keeps fx fm b0 x4)
  apply State.emit_keeps
  apply State.showAll_keeps
  first | with_reducible assumption | assumption
  dsimp -zeta only [x4]
  apply State.setMeter_keeps
  first | with_reducible assumption | assumption
  dsimp -zeta only [x0]
  apply State.put_keeps
  first | with_reducible assumption | assumption

theorem State.reportGap_keeps {fx : Bool} {b0 s : State} (start : Nat) (hk : Keeps fx false b0 s) : Keeps fx false b0 (State.reportGap s start) := by
  unfold State.reportGap
  split
  first | with_reducible assumption | assumption
  extract_lets +onlyGivenNames x0
  extract_lets +onlyGivenNames x1
  extract_lets +onlyGivenNames x2
  refine (fun (k2 : Keeps fx false b0 x2) => ?_) (?_ : Keeps fx false b0 x2)
  extract_lets +onlyGivenNames x3
  refine (fun (k3 : Keeps fx false b0 x3) => ?_) (?_ : Keeps fx false b0 x3)
  extract_lets +onlyGivenNames x4
  refine (fun (k4 : Keeps fx false b0 x4) => ?_) (?_ : Keeps fx false b0 x4)
  apply State.ringPush_keeps
  first | with_reducible assumption | assumption
  dsimp -zeta only [x4]
  apply State.emit_keeps
  first | with_reducible assumption | assumption
  dsimp -zeta only [x3]
  apply State.irq_keeps
  apply State.put_keeps
  apply State.put_keeps
  first | with_reducible assumption | assumption
  dsimp -zeta only [x2]
  apply State.put_keeps
  apply State.put_keeps
  apply State.put_keeps
  apply State.put_keeps
  first | with_reducible assumption | assumption

theorem State.meterRetire_keeps {fx fm : Bool} {b0 s : State} (k : Nat) (hk : Keeps fx fm b0 s) : Keeps fx fm b0 (State.meterRetire s k) := by
  unfold State.meterRetire
  extract_lets +onlyGivenNames x0
  refine (fun (k0 : Keeps fx fm b0 x0) => ?_) (?_ : Keeps fx fm b0 x0)
  split
  apply State.put_keeps
  first | with_reducible assumption | assumption
  extract_lets +onlyGivenNames x1
  refine (fun (k1 : Keeps fx fm b0 x1) => ?_) (?_ : Keeps fx fm b0 x1)
  split
  apply State.put_keeps
  first | with_reducible assumption | assumption
  apply State.emit_keeps
  first | with_reducible assumption | assumption
  dsimp -zeta only [x1]
  apply State.put_keeps
  first | with_reducible assumption | assumption
  dsimp -zeta only [x0]
  apply State.emit_keeps
  apply State.irq_keeps
  first | with_reducible assumption | assumption

theorem execAccumulationStart_keeps {fx : Bool} {b0 s t : State} (cals : List (Option (Int × Int × Int))) (hk : Keeps fx false b0 s) (e : execAccumulationStart cals s = .next t) : Keeps fx false b0 t := by
  unfold execAccumulationStart at e
  cases e
  split
  extract_lets +onlyGivenNames x0
  refine (fun (k0 : Keeps fx false b0 x0) => ?_) (?_ : Keeps fx false b0 x0)
  split
  first | with_reducible assumption | assumption
  extract_lets +onlyGivenNames x1
  refine (fun (k1 : Keeps fx false b0 x1) => ?_) (?_ : Keeps fx false b0 x1)
  extract_lets +onlyGivenNames x2
  extract_lets +onlyGivenNames x3
  refine (fun (k3 : Keeps fx false b0 x3) => ?_) (?_ : Keeps fx false b0 x3)
  extract_lets +onlyGivenNames x4
  extract_lets +onlyGivenNames x5
  refine (fun (k5 : Keeps fx false b0 x5) => ?_) (?_ : Keeps fx false b0 x5)
  extract_lets +onlyGivenNames x6
  refine (fun (k6 : Keeps fx false b0 x6) => ?_) (?_ : Keeps fx false b0 x6)
  extract_lets +onlyGivenNames x7
  refine (fun (k7 : Keeps fx false b0 x7) => ?_) (?_ : Keeps fx false b0 x7)
  extract_lets +onlyGivenNames x8
  refine (fun (k8 : Keeps fx false b0 x8) => ?_) (?_ : Keeps fx false b0 x8)
  extract_lets +onlyGivenNames x9
  refine (fun (k9 : Keeps fx false b0 x9) => ?_) (?_ : Keeps fx false b0 x9)
  extract_lets +onlyGivenNames x10
  refine (fun (k10 : Keeps fx false b0 x10) => ?_) (?_ : Keeps fx false b0 x10)
  extract_lets +onlyGivenNames x11
  refine (fun (k11 : Keeps fx false b0 x11) => ?_) (?_ : Keeps fx false b0 x11)
  apply State.ringPush_keeps
  first | with_reducible assumption | assumption
  dsimp -zeta only [x11]
  apply State.reportGap_keeps
  first | with_reducible assumption | assumption
  dsimp -zeta only [x10]
  apply State.openWin_keeps
  first | with_reducible assumption | assumption
  dsimp -zeta only [x9]
  apply State.setMeter_keeps
  apply State.put_keeps
  first | with_reducible assumption | assumption
  dsimp -zeta only [x8]
  split
  first | with_reducible assumption | assumption
  apply State.put_keeps
  first | with_reducible assumption | assumption
  dsimp -zeta only [x7]
  apply State.forEach_keeps
  first | with_reducible assumption | assumption
  intro v12
  intro v13
  intro v14
  apply State.meterRetire_keeps
  first | with_reducible assumption | assumption
  dsimp -zeta only [x6]
  split
  apply State.meterRetire_keeps
  first | with_reducible assumption | assumption
  first | with_reducible assumption | assumption
  dsimp -zeta only [x5]
  apply State.forEach_keeps
  first | with_reducible assumption | assumption
  intro v15
  intro v16
  intro v17
  apply State.modSet_keeps
  first | with_reducible assumption | assumption
  dsimp -zeta only [x3]
  apply State.advTo_keeps
  first | with_reducible assumption | assumption
  dsimp -zeta only [x1]
  apply State.advUp_keeps
  first | with_reducible assumption | assumption
  dsimp -zeta only [x0]
  split
  apply State.meterRestore_keeps
  first | with_reducible assumption | assumption
  first | with_reducible assumption | assumption
  first | with_reducible assumption | assumption

theorem execPmuReport_keeps {fx : Bool} {b0 s t : State}  (hk : Keeps fx false b0 s) (e : execPmuReport s = .next t) : Keeps fx false b0 t := by
  unfold execPmuReport at e
  cases e
  split
  extract_lets +onlyGivenNames x0
  extract_lets +onlyGivenNames x1
  extract_lets +onlyGivenNames x2
  extract_lets +onlyGivenNames x3
  refine (fun (k3 : Keeps fx false b0 x3) => ?_) (?_ : Keeps fx false b0 x3)
  extract_lets +onlyGivenNames x4
  extract_lets +onlyGivenNames x5
  extract_lets +onlyGivenNames x6
  extract_lets +onlyGivenNames x7
  extract_lets +onlyGivenNames x8
  extract_lets +onlyGivenNames x9
  extract_lets +onlyGivenNames x10
  extract_lets +onlyGivenNames x11
  split
  extract_lets +onlyGivenNames x12
  refine (fun (k12 : Keeps fx false b0 x12) => ?_) (?_ : Keeps fx false b0 x12)
  apply State.irq_keeps
  apply State.bumpMod_keeps
  apply State.put_keeps
  apply State.put_keeps
  first | with_reducible assumption | assumption
  dsimp -zeta only [x12]
  apply State.forEach_keeps
  apply State.draw_keeps
  first | with_reducible assumption | assumption
  intro v13
  intro v14
  intro v15
  apply State.ringPush_keeps
  first | with_reducible assumption | assumption
  split
  extract_lets +onlyGivenNames x16
  refine (fun (k16 : Keeps fx false b0 x16) => ?_) (?_ : Keeps fx false b0 x16)
  apply State.emit_keeps
  apply State.irq_keeps
  apply State.put_keeps
  first | with_reducible assumption | assumption
  dsimp -zeta only [x16]
  apply State.forEach_keeps
  apply State.draw_keeps
  first | with_reducible assumption | assumption
  intro v17
  intro v18
  intro v19
  apply State.ringDrop_keeps
  first | with_reducible assumption | assumption
  apply State.draw_keeps
  first | with_reducible assumption | assumption
  dsimp -zeta only [x3]
  apply State.setMeter_keeps
  apply State.advTo_keeps
  first | with_reducible assumption | assumption
  first | with_reducible assumption | assumption

theorem State.mrotFail_keeps {fx fm : Bool} {b0 s : State} (out calFailed : Bool) (m : Int) (hk : Keeps fx fm b0 s) : Keeps fx fm b0 (State.mrotFail s out calFailed m) := by
  unfold State.mrotFail
  extract_lets +onlyGivenNames x0
  extract_lets +onlyGivenNames x1
  refine (fun (k1 : Keeps fx fm b0 x1) => ?_) (?_ : Keeps fx fm b0 x1)
  split
  extract_lets +onlyGivenNames x2
  refine (fun (k2 : Keeps fx fm b0 x2) => ?_) (?_ : Keeps fx fm b0 x2)
  apply State.emit_keeps
  apply State.put_keeps
  first | with_reducible assumption | assumption
  dsimp -zeta only [x2]
  apply State.setMeter_keeps
  first | with_reducible assumption | assumption
  extract_lets +onlyGivenNames x3
  refine (fun (k3 : Keeps fx fm b0 x3) => ?_) (?_ : Keeps fx fm b0 x3)
  extract_lets +onlyGivenNames x4
  refine (fun (k4 : Keeps fx fm b0 x4) => ?_) (?_ : Keeps fx fm b0 x4)
  apply State.emit_keeps
  apply State.put_keeps
  first | with_reducible assumption | assumption
  dsimp -zeta only [x4]
  split
  apply State.put_keeps
  first | with_reducible assumption | assumption
  apply State.put_keeps
  first | with_reducible assumption | assumption
  dsimp -zeta only [x3]
  apply State.setMeter_keeps
  first | with_reducible assumption | assumption
  dsimp -zeta only [x1]
  apply State.irq_keeps
  first | with_reducible assumption | assumption

theorem State.refCheck_keeps {fx fm : Bool} {b0 s : State} (ratio : Nat) (hk : Keeps fx fm b0 s) : Keeps fx fm b0 (State.refCheck s ratio) := by
  unfold State.refCheck
  extract_lets +onlyGivenNames x0
  refine (fun (k0 : Keeps fx fm b0 x0) => ?_) (?_ : Keeps fx fm b0 x0)
  extract_lets +onlyGivenNames x1
  extract_lets +onlyGivenNames x2
  split
  apply State.emit_keeps
  apply State.irq_keeps
  apply State.put_keeps
  first | with_reducible assumption | assumption
  first | with_reducible assumption | assumption
  dsimp -zeta only [x0]
  apply State.put_keeps
  first | with_reducible assumption | assumption

theorem State.mrotShadows_keeps {fx fm : Bool} {b0 s : State} (phase : Nat) (hk : Keeps fx fm b0 s) : Keeps fx fm b0 (State.mrotShadows s phase) := by
  unfold State.mrotShadows
  apply State.put_keeps
  apply State.setMeter_keeps
  first | with_reducible assumption | assumption

theorem State.mrotShadow_keeps {fx fm : Bool} {b0 s : State} (out : Bool) (hk : Keeps fx fm b0 s) : Keeps fx fm b0 (State.mrotShadow s out) := by
  unfold State.mrotShadow
  split
  first | with_reducible assumption | assumption
  extract_lets +onlyGivenNames x0
  refine (fun (k0 : Keeps fx fm b0 x0) => ?_) (?_ : Keeps fx fm b0 x0)
  extract_lets +onlyGivenNames x1
  split
  apply State.setMeter_keeps
  first | with_reducible assumption | assumption
  apply State.mrotFail_keeps
  first | with_reducible assumption | assumption
  dsimp -zeta only [x0]
  apply State.setMeter_keeps
  first | with_reducible assumption | assumption

theorem execMeterRotationStep_keeps {fx fm : Bool} {b0 s t : State} (cal : Option (Int × Int × Int)) (ratio : Word) (hk : Keeps fx fm b0 s) (e : execMeterRotationStep cal ratio s = .next t) : Keeps fx fm b0 t := by
  unfold execMeterRotationStep at e
  cases e
  split
  extract_lets +onlyGivenNames x0
  extract_lets +onlyGivenNames x1
  split
  split
  apply State.put_keeps
  first | with_reducible assumption | assumption
  first | with_reducible assumption | assumption
  split
  extract_lets +onlyGivenNames x2
  refine (fun (k2 : Keeps fx fm b0 x2) => ?_) (?_ : Keeps fx fm b0 x2)
  split
  apply State.mrotShadows_keeps
  apply State.modSet_keeps
  first | with_reducible assumption | assumption
  apply State.mrotFail_keeps
  first | with_reducible assumption | assumption
  dsimp -zeta only [x2]
  apply State.refCheck_keeps
  first | with_reducible assumption | assumption
  apply State.put_keeps
  first | with_reducible assumption | assumption
  split
  apply State.put_keeps
  first | with_reducible assumption | assumption
  apply State.mrotShadow_keeps
  first | with_reducible assumption | assumption
  split
  apply State.mrotShadows_keeps
  apply State.modSet_keeps
  first | with_reducible assumption | assumption
  apply State.mrotFail_keeps
  first | with_reducible assumption | assumption
  apply State.mrotShadow_keeps
  first | with_reducible assumption | assumption
  split
  apply State.put_keeps
  apply State.put_keeps
  apply State.advUp_keeps
  first | with_reducible assumption | assumption
  apply State.put_keeps
  first | with_reducible assumption | assumption
  first | with_reducible assumption | assumption
  first | with_reducible assumption | assumption

theorem State.mrotRestart_keeps {fx fm : Bool} {b0 s : State}  (hk : Keeps fx fm b0 s) : Keeps fx fm b0 (State.mrotRestart s) := by
  unfold State.mrotRestart
  split
  apply State.put_keeps
  apply State.put_keeps
  first | with_reducible assumption | assumption
  first | with_reducible assumption | assumption

theorem State.wackAll_keeps {fx fm : Bool} {b0 s : State}  (hk : Keeps fx fm b0 s) : Keeps fx fm b0 (State.wackAll s) := by
  unfold State.wackAll
  apply State.forEach_keeps
  apply State.setMeter_keeps
  first | with_reducible assumption | assumption
  intro v0
  intro v1
  intro v2
  apply State.put_keeps
  first | with_reducible assumption | assumption

theorem State.unhold_keeps {fx fm : Bool} {b0 s : State}  (hk : Keeps fx fm b0 s) : Keeps fx fm b0 (State.unhold s) := by
  unfold State.unhold
  apply State.setMeter_keeps
  apply State.showAll_keeps
  first | with_reducible assumption | assumption

theorem State.clearMeter_keeps {fx fm : Bool} {b0 s : State}  (hk : Keeps fx fm b0 s) : Keeps fx fm b0 (State.clearMeter s) := by
  unfold State.clearMeter
  extract_lets +onlyGivenNames x0
  extract_lets +onlyGivenNames x1
  extract_lets +onlyGivenNames x2
  refine (fun (k2 : Keeps fx fm b0 x2) => ?_) (?_ : Keeps fx fm b0 x2)
  extract_lets +onlyGivenNames x3
  refine (fun (k3 : Keeps fx fm b0 x3) => ?_) (?_ : Keeps fx fm b0 x3)
  apply State.emit_keeps
  apply State.put_keeps
  first | with_reducible assumption | assumption
  dsimp -zeta only [x3]
  apply State.forEach_keeps
  first | with_reducible assumption | assumption
  intro v4
  intro v5
  intro v6
  apply State.setReg_keeps
  first | with_reducible assumption | assumption
  dsimp -zeta only [x2]
  apply State.setMeter_keeps
  first | with_reducible assumption | assumption

theorem State.injStart_keeps {fx fm : Bool} {b0 s : State}  (hk : Keeps fx fm b0 s) : Keeps fx fm b0 (State.injStart s) := by
  unfold State.injStart
  apply State.put_keeps
  apply State.put_keeps
  apply State.setMeter_keeps
  first | with_reducible assumption | assumption

theorem State.meterTestOff_keeps {fx fm : Bool} {b0 s : State}  (hk : Keeps fx fm b0 s) : Keeps fx fm b0 (State.meterTestOff s) := by
  unfold State.meterTestOff
  apply State.putCfg_keeps
  first | with_reducible assumption | assumption

theorem State.calWrite_keeps {fx fm : Bool} {b0 s : State} (offset : Nat) (cfg : Bool) (hk : Keeps fx fm b0 s) : Keeps fx fm b0 (State.calWrite s offset cfg) := by
  unfold State.calWrite
  apply State.emit_keeps
  first | with_reducible assumption | assumption

end Sys2Proof.Machine
end

