-- ==== Sys2Proof/Laws/KeepsPolyEvents.lean ====
section
/-! SUPPORT. What the operations of Machine/PolyEvents.lean keep. -/

namespace Sys2Proof.Machine

open Sys2Proof

theorem State.forLegReloads_keeps {fx fm : Bool} {b0 s : State} (s0 : State) (hk : Keeps fx fm b0 s) : Keeps fx fm b0 (State.forLegReloads s0 s) := by
  unfold State.forLegReloads
  apply State.forEach_keeps
  first | with_reducible assumption | assumption
  intro v0
  intro v1
  intro v2
  extract_lets +onlyGivenNames x3
  split
  extract_lets +onlyGivenNames x4
  extract_lets +onlyGivenNames x5
  extract_lets +onlyGivenNames x6
  refine (fun (k6 : Keeps fx fm b0 x6) => ?_) (?_ : Keeps fx fm b0 x6)
  split
  dsimp -zeta only [x5]
  split
  apply State.pulseAt_keeps
  first | with_reducible assumption | assumption
  first | with_reducible assumption | assumption
  first | with_reducible assumption | assumption
  dsimp -zeta only [x6]
  dsimp -zeta only [x5]
  split
  apply State.pulseAt_keeps
  first | with_reducible assumption | assumption
  first | with_reducible assumption | assumption
  first | with_reducible assumption | assumption

theorem State.markLatched_keeps {fx fm : Bool} {b0 s : State}  (hk : Keeps fx fm b0 s) : Keeps fx fm b0 (State.markLatched s) := by
  unfold State.markLatched
  refine Keeps.lit ?_ rfl rfl
  first | with_reducible assumption | assumption

theorem State.markGuarded_keeps {fx fm : Bool} {b0 s : State}  (hk : Keeps fx fm b0 s) : Keeps fx fm b0 (State.markGuarded s) := by
  unfold State.markGuarded
  refine Keeps.lit ?_ rfl rfl
  first | with_reducible assumption | assumption

theorem execIssueLatch_keeps {fx : Bool} {b0 s t : State}  (hk : Keeps fx false b0 s) (e : execIssueLatch s = .next t) : Keeps fx false b0 t := by
  unfold execIssueLatch at e
  cases e
  split
  apply State.markLatched_keeps
  apply State.forLegReloads_keeps
  apply State.buildSet_keeps
  apply State.recordOns_keeps
  apply State.vPublish_keeps
  apply State.vAbandon_keeps
  apply State.pulse_keeps
  apply State.advTo_keeps
  first | with_reducible assumption | assumption
  first | with_reducible assumption | assumption

theorem execEdgeSetRelease_keeps {fx fm : Bool} {b0 s t : State}  (hk : Keeps fx fm b0 s) (e : execEdgeSetRelease s = .next t) : Keeps fx fm b0 t := by
  unfold execEdgeSetRelease at e
  cases e
  split
  apply State.put_keeps
  apply State.releaseSet_keeps
  first | with_reducible assumption | assumption
  first | with_reducible assumption | assumption

theorem execGuardStart_keeps {fx : Bool} {b0 s t : State}  (hk : Keeps fx false b0 s) (e : execGuardStart s = .next t) : Keeps fx false b0 t := by
  unfold execGuardStart at e
  cases e
  split
  extract_lets +onlyGivenNames x0
  refine (fun (k0 : Keeps fx false b0 x0) => ?_) (?_ : Keeps fx false b0 x0)
  apply State.markGuarded_keeps
  split
  apply State.overrun_keeps
  first | with_reducible assumption | assumption
  apply State.put_keeps
  first | with_reducible assumption | assumption
  dsimp -zeta only [x0]
  apply State.vAbandon_keeps
  apply State.pulse_keeps
  apply State.advTo_keeps
  first | with_reducible assumption | assumption
  first | with_reducible assumption | assumption

theorem execAuxPeriodStart_keeps {fx fm : Bool} {b0 s t : State} (timer : Fin 20) (hk : Keeps fx fm b0 s) (e : execAuxPeriodStart timer s = .next t) : Keeps fx fm b0 t := by
  unfold execAuxPeriodStart at e
  cases e
  apply State.whenAlive_keeps
  first | with_reducible assumption | assumption
  apply State.auxPeriod_keeps
  first | with_reducible assumption | assumption

theorem execAuxoffConfirm_keeps {fx fm : Bool} {b0 s t : State} (timer : Fin 20) (hk : Keeps fx fm b0 s) (e : execAuxoffConfirm timer s = .next t) : Keeps fx fm b0 t := by
  unfold execAuxoffConfirm at e
  cases e
  apply State.whenAlive_keeps
  first | with_reducible assumption | assumption
  apply State.auxConfirm_keeps
  first | with_reducible assumption | assumption

theorem execPinTrip_keeps {fx : Bool} {b0 s t : State} (chan : Fin 8) (level : Bool) (hk : Keeps fx false b0 s) (e : execPinTrip chan level s = .next t) : Keeps fx false b0 t := by
  unfold execPinTrip at e
  cases e
  apply State.whenAlive_keeps
  first | with_reducible assumption | assumption
  extract_lets +onlyGivenNames x0
  extract_lets +onlyGivenNames x1
  extract_lets +onlyGivenNames x2
  extract_lets +onlyGivenNames x3
  refine (fun (k3 : Keeps fx false b0 x3) => ?_) (?_ : Keeps fx false b0 x3)
  apply State.evalChannel_keeps
  split
  apply State.advOsc_keeps
  first | with_reducible assumption | assumption
  first | with_reducible assumption | assumption
  dsimp -zeta only [x3]
  refine Keeps.lit ?_ rfl rfl
  first | with_reducible assumption | assumption

end Sys2Proof.Machine
end

