-- ==== Sys2Proof/Laws/KeepsDrive.lean ====
section
/-! SUPPORT. What the operations of Machine/Drive.lean keep. -/

namespace Sys2Proof.Machine

open Sys2Proof

theorem State.setDrv_keeps {fx fm : Bool} {b0 s : State} (d : Nat) (f : DrvSt → DrvSt) (hk : Keeps fx fm b0 s) : Keeps fx fm b0 (State.setDrv s d f) := by
  unfold State.setDrv
  refine Keeps.lit ?_ rfl rfl
  first | with_reducible assumption | assumption

theorem State.setBrk_keeps {fx fm : Bool} {b0 s : State} (k : Nat) (f : BrkSt → BrkSt) (hk : Keeps fx fm b0 s) : Keeps fx fm b0 (State.setBrk s k f) := by
  unfold State.setBrk
  refine Keeps.lit ?_ rfl rfl
  first | with_reducible assumption | assumption

theorem State.drvVector_keeps {fx fm : Bool} {b0 s : State} (d v : Nat) (hk : Keeps fx fm b0 s) : Keeps fx fm b0 (State.drvVector s d v) := by
  unfold State.drvVector
  extract_lets +onlyGivenNames x0
  extract_lets +onlyGivenNames x1
  refine (fun (k1 : Keeps fx fm b0 x1) => ?_) (?_ : Keeps fx fm b0 x1)
  extract_lets +onlyGivenNames x2
  refine (fun (k2 : Keeps fx fm b0 x2) => ?_) (?_ : Keeps fx fm b0 x2)
  extract_lets +onlyGivenNames x3
  refine (fun (k3 : Keeps fx fm b0 x3) => ?_) (?_ : Keeps fx fm b0 x3)
  split
  first | with_reducible assumption | assumption
  apply State.forEach_keeps
  first | with_reducible assumption | assumption
  intro v4
  intro v5
  intro v6
  apply State.auxRequest_keeps
  first | with_reducible assumption | assumption
  dsimp -zeta only [x3]
  apply State.forEach_keeps
  first | with_reducible assumption | assumption
  intro v7
  intro v8
  intro v9
  extract_lets +onlyGivenNames x10
  refine (fun (k10 : Keeps fx fm b0 x10) => ?_) (?_ : Keeps fx fm b0 x10)
  split
  apply State.auxRequest_keeps
  first | with_reducible assumption | assumption
  first | with_reducible assumption | assumption
  dsimp -zeta only [x10]
  split
  apply State.auxRequest_keeps
  first | with_reducible assumption | assumption
  first | with_reducible assumption | assumption
  dsimp -zeta only [x2]
  split
  first | with_reducible assumption | assumption
  apply State.put_keeps
  first | with_reducible assumption | assumption
  dsimp -zeta only [x1]
  apply State.setDrv_keeps
  first | with_reducible assumption | assumption

theorem State.stowEnd_keeps {fx fm : Bool} {b0 s : State} (d : Nat) (ok : Bool) (hk : Keeps fx fm b0 s) : Keeps fx fm b0 (State.stowEnd s d ok) := by
  unfold State.stowEnd
  extract_lets +onlyGivenNames x0
  refine (fun (k0 : Keeps fx fm b0 x0) => ?_) (?_ : Keeps fx fm b0 x0)
  extract_lets +onlyGivenNames x1
  refine (fun (k1 : Keeps fx fm b0 x1) => ?_) (?_ : Keeps fx fm b0 x1)
  apply State.emit_keeps
  first | with_reducible assumption | assumption
  dsimp -zeta only [x1]
  apply State.irq_keeps
  apply State.put_keeps
  first | with_reducible assumption | assumption
  dsimp -zeta only [x0]
  apply State.setDrv_keeps
  first | with_reducible assumption | assumption

theorem State.drvTo_keeps {fx fm : Bool} {b0 s : State} (d new : Nat) (hk : Keeps fx fm b0 s) : Keeps fx fm b0 (State.drvTo s d new) := by
  unfold State.drvTo
  extract_lets +onlyGivenNames x0
  split
  first | with_reducible assumption | assumption
  extract_lets +onlyGivenNames x1
  refine (fun (k1 : Keeps fx fm b0 x1) => ?_) (?_ : Keeps fx fm b0 x1)
  extract_lets +onlyGivenNames x2
  refine (fun (k2 : Keeps fx fm b0 x2) => ?_) (?_ : Keeps fx fm b0 x2)
  extract_lets +onlyGivenNames x3
  refine (fun (k3 : Keeps fx fm b0 x3) => ?_) (?_ : Keeps fx fm b0 x3)
  extract_lets +onlyGivenNames x4
  refine (fun (k4 : Keeps fx fm b0 x4) => ?_) (?_ : Keeps fx fm b0 x4)
  extract_lets +onlyGivenNames x5
  refine (fun (k5 : Keeps fx fm b0 x5) => ?_) (?_ : Keeps fx fm b0 x5)
  extract_lets +onlyGivenNames x6
  refine (fun (k6 : Keeps fx fm b0 x6) => ?_) (?_ : Keeps fx fm b0 x6)
  extract_lets +onlyGivenNames x7
  refine (fun (k7 : Keeps fx fm b0 x7) => ?_) (?_ : Keeps fx fm b0 x7)
  split
  apply State.drvVector_keeps
  first | with_reducible assumption | assumption
  split
  first | with_reducible assumption | assumption
  apply State.drvVector_keeps
  first | with_reducible assumption | assumption
  dsimp -zeta only [x7]
  split
  apply State.stowEnd_keeps
  first | with_reducible assumption | assumption
  first | with_reducible assumption | assumption
  dsimp -zeta only [x6]
  split
  first | with_reducible assumption | assumption
  apply State.put_keeps
  first | with_reducible assumption | assumption
  dsimp -zeta only [x5]
  split
  first | with_reducible assumption | assumption
  apply State.put_keeps
  first | with_reducible assumption | assumption
  dsimp -zeta only [x4]
  split
  first | with_reducible assumption | assumption
  apply State.put_keeps
  first | with_reducible assumption | assumption
  dsimp -zeta only [x3]
  split
  apply State.setDrv_keeps
  first | with_reducible assumption | assumption
  split
  apply State.setDrv_keeps
  first | with_reducible assumption | assumption
  first | with_reducible assumption | assumption
  dsimp -zeta only [x2]
  apply State.setDrv_keeps
  first | with_reducible assumption | assumption
  dsimp -zeta only [x1]
  apply State.emit_keeps
  apply State.irq_keeps
  apply State.put_keeps
  first | with_reducible assumption | assumption

theorem State.drvFault_keeps {fx fm : Bool} {b0 s : State} (d c : Nat) (hk : Keeps fx fm b0 s) : Keeps fx fm b0 (State.drvFault s d c) := by
  unfold State.drvFault
  extract_lets +onlyGivenNames x0
  split
  first | with_reducible assumption | assumption
  split
  apply State.emit_keeps
  apply State.setDrv_keeps
  apply State.put_keeps
  first | with_reducible assumption | assumption
  extract_lets +onlyGivenNames x1
  refine (fun (k1 : Keeps fx fm b0 x1) => ?_) (?_ : Keeps fx fm b0 x1)
  apply State.setDrv_keeps
  apply State.drvTo_keeps
  apply State.emit_keeps
  first | with_reducible assumption | assumption
  dsimp -zeta only [x1]
  apply State.irq_keeps
  apply State.put_keeps
  apply State.put_keeps
  first | with_reducible assumption | assumption

theorem State.drvCoast_keeps {fx fm : Bool} {b0 s : State} (d : Nat) (hk : Keeps fx fm b0 s) : Keeps fx fm b0 (State.drvCoast s d) := by
  unfold State.drvCoast
  extract_lets +onlyGivenNames x0
  split
  first | with_reducible assumption | assumption
  apply State.drvTo_keeps
  first | with_reducible assumption | assumption

theorem State.drvDecel_keeps {fx fm : Bool} {b0 s : State} (d : Nat) (hk : Keeps fx fm b0 s) : Keeps fx fm b0 (State.drvDecel s d) := by
  unfold State.drvDecel
  extract_lets +onlyGivenNames x0
  refine (fun (k0 : Keeps fx fm b0 x0) => ?_) (?_ : Keeps fx fm b0 x0)
  split
  apply State.drvCoast_keeps
  first | with_reducible assumption | assumption
  first | with_reducible assumption | assumption
  dsimp -zeta only [x0]
  apply State.drvTo_keeps
  first | with_reducible assumption | assumption

theorem State.drvShort_keeps {fx fm : Bool} {b0 s : State} (k d : Nat) (hk : Keeps fx fm b0 s) : Keeps fx fm b0 (State.drvShort s k d) := by
  unfold State.drvShort
  extract_lets +onlyGivenNames x0
  split
  apply State.emit_keeps
  apply State.drvTo_keeps
  first | with_reducible assumption | assumption
  first | with_reducible assumption | assumption

theorem State.putRpm_keeps {fx fm : Bool} {b0 s : State} (d : Nat) (x : Rat) (hk : Keeps fx fm b0 s) : Keeps fx fm b0 (State.putRpm s d x) := by
  unfold State.putRpm
  apply State.putI_keeps
  first | with_reducible assumption | assumption

theorem State.drvEstimate_keeps {fx fm : Bool} {b0 s : State} (d : Nat) (dt : Rat) (i : Rat × Rat × Rat) (hk : Keeps fx fm b0 s) : Keeps fx fm b0 (State.drvEstimate s d dt i) := by
  unfold State.drvEstimate
  extract_lets +onlyGivenNames x0
  extract_lets +onlyGivenNames x1
  split
  first | with_reducible assumption | assumption
  extract_lets +onlyGivenNames x2
  extract_lets +onlyGivenNames x3
  extract_lets +onlyGivenNames x4
  extract_lets +onlyGivenNames x5
  extract_lets +onlyGivenNames x6
  extract_lets +onlyGivenNames x7
  extract_lets +onlyGivenNames x8
  extract_lets +onlyGivenNames x9
  extract_lets +onlyGivenNames x10
  extract_lets +onlyGivenNames x11
  extract_lets +onlyGivenNames x12
  extract_lets +onlyGivenNames x13
  extract_lets +onlyGivenNames x14
  extract_lets +onlyGivenNames x15
  extract_lets +onlyGivenNames x16
  refine (fun (k16 : Keeps fx fm b0 x16) => ?_) (?_ : Keeps fx fm b0 x16)
  extract_lets +onlyGivenNames x17
  refine (fun (k17 : Keeps fx fm b0 x17) => ?_) (?_ : Keeps fx fm b0 x17)
  apply State.putRpm_keeps
  first | with_reducible assumption | assumption
  dsimp -zeta only [x17]
  apply State.putI_keeps
  apply State.putI_keeps
  first | with_reducible assumption | assumption
  dsimp -zeta only [x16]
  apply State.setDrv_keeps
  first | with_reducible assumption | assumption

theorem State.rampTo_keeps {fx fm : Bool} {b0 s : State} (d : Nat) (dt target : Rat) (hk : Keeps fx fm b0 s) : Keeps fx fm b0 (State.rampTo s d dt target) := by
  unfold State.rampTo
  extract_lets +onlyGivenNames x0
  extract_lets +onlyGivenNames x1
  extract_lets +onlyGivenNames x2
  extract_lets +onlyGivenNames x3
  extract_lets +onlyGivenNames x4
  extract_lets +onlyGivenNames x5
  extract_lets +onlyGivenNames x6
  apply State.setDrv_keeps
  first | with_reducible assumption | assumption

theorem State.clampRef_keeps {fx fm : Bool} {b0 s : State} (d : Nat) (hk : Keeps fx fm b0 s) : Keeps fx fm b0 (State.clampRef s d) := by
  unfold State.clampRef
  extract_lets +onlyGivenNames x0
  extract_lets +onlyGivenNames x1
  extract_lets +onlyGivenNames x2
  extract_lets +onlyGivenNames x3
  extract_lets +onlyGivenNames x4
  apply State.putB_keeps
  apply State.setDrv_keeps
  first | with_reducible assumption | assumption

theorem State.speedPi_keeps {fx fm : Bool} {b0 s : State} (d : Nat) (dt : Rat) (hk : Keeps fx fm b0 s) : Keeps fx fm b0 (State.speedPi s d dt) := by
  unfold State.speedPi
  extract_lets +onlyGivenNames x0
  extract_lets +onlyGivenNames x1
  extract_lets +onlyGivenNames x2
  extract_lets +onlyGivenNames x3
  extract_lets +onlyGivenNames x4
  extract_lets +onlyGivenNames x5
  extract_lets +onlyGivenNames x6
  extract_lets +onlyGivenNames x7
  apply State.setDrv_keeps
  first | with_reducible assumption | assumption

theorem State.tableVector_keeps {fx fm : Bool} {b0 s : State} (d : Nat) (hk : Keeps fx fm b0 s) : Keeps fx fm b0 (State.tableVector s d).1 := by
  unfold State.tableVector
  extract_lets +onlyGivenNames x0
  extract_lets +onlyGivenNames x1
  extract_lets +onlyGivenNames x2
  extract_lets +onlyGivenNames x3
  extract_lets +onlyGivenNames x4
  extract_lets +onlyGivenNames x5
  extract_lets +onlyGivenNames x6
  extract_lets +onlyGivenNames x7
  extract_lets +onlyGivenNames x8
  refine (fun (k8 : Keeps fx fm b0 x8) => ?_) (?_ : Keeps fx fm b0 x8)
  first | with_reducible assumption | assumption
  dsimp -zeta only [x8]
  apply State.put_keeps
  apply State.setDrv_keeps
  first | with_reducible assumption | assumption

theorem State.curHyst_keeps {fx fm : Bool} {b0 s : State} (d v : Nat) (target : Rat) (hk : Keeps fx fm b0 s) : Keeps fx fm b0 (State.curHyst s d v target).1 := by
  unfold State.curHyst
  extract_lets +onlyGivenNames x0
  extract_lets +onlyGivenNames x1
  extract_lets +onlyGivenNames x2
  dsimp only
  apply State.setDrv_keeps
  first | with_reducible assumption | assumption

theorem State.hallVector_keeps {fx fm : Bool} {b0 s : State} (d : Nat) (hk : Keeps fx fm b0 s) : Keeps fx fm b0 (State.hallVector s d).1 := by
  unfold State.hallVector
  apply State.curHyst_keeps
  first | with_reducible assumption | assumption

theorem State.setPsi_keeps {fx fm : Bool} {b0 s : State} (d : Nat) (th : Rat) (hk : Keeps fx fm b0 s) : Keeps fx fm b0 (State.setPsi s d th) := by
  unfold State.setPsi
  extract_lets +onlyGivenNames x0
  extract_lets +onlyGivenNames x1
  extract_lets +onlyGivenNames x2
  extract_lets +onlyGivenNames x3
  extract_lets +onlyGivenNames x4
  extract_lets +onlyGivenNames x5
  apply State.putI_keeps
  apply State.putI_keeps
  apply State.setDrv_keeps
  first | with_reducible assumption | assumption

theorem State.hallJudge_keeps {fx fm : Bool} {b0 s : State} (d : Nat) (hk : Keeps fx fm b0 s) : Keeps fx fm b0 (State.hallJudge s d) := by
  unfold State.hallJudge
  split
  extract_lets +onlyGivenNames x0
  extract_lets +onlyGivenNames x1
  extract_lets +onlyGivenNames x2
  split
  extract_lets +onlyGivenNames x3
  split
  extract_lets +onlyGivenNames x4
  extract_lets +onlyGivenNames x5
  refine (fun (k5 : Keeps fx fm b0 x5) => ?_) (?_ : Keeps fx fm b0 x5)
  apply State.setDrv_keeps
  apply State.put_keeps
  first | with_reducible assumption | assumption
  dsimp -zeta only [x5]
  apply State.setPsi_keeps
  first | with_reducible assumption | assumption
  apply State.setDrv_keeps
  first | with_reducible assumption | assumption
  split
  apply State.setDrv_keeps
  apply State.put_keeps
  first | with_reducible assumption | assumption
  first | with_reducible assumption | assumption
  first | with_reducible assumption | assumption

theorem State.rotorLost_keeps {fx fm : Bool} {b0 s : State} (d : Nat) (hk : Keeps fx fm b0 s) : Keeps fx fm b0 (State.rotorLost s d) := by
  unfold State.rotorLost
  extract_lets +onlyGivenNames x0
  extract_lets +onlyGivenNames x1
  refine (fun (k1 : Keeps fx fm b0 x1) => ?_) (?_ : Keeps fx fm b0 x1)
  split
  apply State.setDrv_keeps
  apply State.put_keeps
  first | with_reducible assumption | assumption
  apply State.drvTo_keeps
  first | with_reducible assumption | assumption
  dsimp -zeta only [x1]
  apply State.emit_keeps
  apply State.irq_keeps
  apply State.put_keeps
  first | with_reducible assumption | assumption

theorem State.lossJudge_keeps {fx fm : Bool} {b0 s : State} (d : Nat) (th0 : Rat) (hk : Keeps fx fm b0 s) : Keeps fx fm b0 (State.lossJudge s d th0) := by
  unfold State.lossJudge
  split
  apply State.setDrv_keeps
  first | with_reducible assumption | assumption
  extract_lets +onlyGivenNames x0
  extract_lets +onlyGivenNames x1
  extract_lets +onlyGivenNames x2
  extract_lets +onlyGivenNames x3
  extract_lets +onlyGivenNames x4
  refine (fun (k4 : Keeps fx fm b0 x4) => ?_) (?_ : Keeps fx fm b0 x4)
  extract_lets +onlyGivenNames x5
  split
  apply State.rotorLost_keeps
  first | with_reducible assumption | assumption
  first | with_reducible assumption | assumption
  dsimp -zeta only [x4]
  apply State.setDrv_keeps
  first | with_reducible assumption | assumption

theorem State.holdV0_keeps {fx fm : Bool} {b0 s : State} (d : Nat) (rev : Bool) (hk : Keeps fx fm b0 s) : Keeps fx fm b0 (State.holdV0 s d rev) := by
  unfold State.holdV0
  apply State.drvVector_keeps
  apply State.setDrv_keeps
  first | with_reducible assumption | assumption

theorem State.posControl_keeps {fx fm : Bool} {b0 s : State} (d : Nat) (hk : Keeps fx fm b0 s) : Keeps fx fm b0 (State.posControl s d) := by
  unfold State.posControl
  extract_lets +onlyGivenNames x0
  extract_lets +onlyGivenNames x1
  extract_lets +onlyGivenNames x2
  extract_lets +onlyGivenNames x3
  extract_lets +onlyGivenNames x4
  apply State.setDrv_keeps
  first | with_reducible assumption | assumption

theorem State.hallSpeed_keeps {fx fm : Bool} {b0 s : State} (d : Nat) (hk : Keeps fx fm b0 s) : Keeps fx fm b0 (State.hallSpeed s d) := by
  unfold State.hallSpeed
  split
  apply State.putRpm_keeps
  first | with_reducible assumption | assumption
  first | with_reducible assumption | assumption

theorem State.runDrive_keeps {fx fm : Bool} {b0 s : State} (d : Nat) (dt : Rat) (hk : Keeps fx fm b0 s) : Keeps fx fm b0 (State.runDrive s d dt) := by
  unfold State.runDrive
  extract_lets +onlyGivenNames x0
  extract_lets +onlyGivenNames x1
  extract_lets +onlyGivenNames x2
  extract_lets +onlyGivenNames x3
  extract_lets +onlyGivenNames x4
  refine (fun (k4 : Keeps fx fm b0 x4) => ?_) (?_ : Keeps fx fm b0 x4)
  extract_lets +onlyGivenNames x5
  refine (fun (k5 : Keeps fx fm b0 x5) => ?_) (?_ : Keeps fx fm b0 x5)
  split
  apply State.holdV0_keeps
  first | with_reducible assumption | assumption
  extract_lets +onlyGivenNames x6
  refine (fun (k6 : Keeps fx fm b0 x6) => ?_) (?_ : Keeps fx fm b0 x6)
  extract_lets +onlyGivenNames x7
  refine (fun (k7 : Keeps fx fm b0 x7) => ?_) (?_ : Keeps fx fm b0 x7)
  extract_lets +onlyGivenNames x8
  refine (fun (k8 : Keeps fx fm b0 x8.1) => ?_) (?_ : Keeps fx fm b0 x8.1)
  apply State.drvVector_keeps
  first | with_reducible assumption | assumption
  dsimp -zeta only [x8]
  split
  apply State.hallVector_keeps
  first | with_reducible assumption | assumption
  apply State.tableVector_keeps
  first | with_reducible assumption | assumption
  dsimp -zeta only [x7]
  apply State.speedPi_keeps
  first | with_reducible assumption | assumption
  dsimp -zeta only [x6]
  apply State.setDrv_keeps
  first | with_reducible assumption | assumption
  dsimp -zeta only [x5]
  apply State.clampRef_keeps
  first | with_reducible assumption | assumption
  dsimp -zeta only [x4]
  split
  apply State.posControl_keeps
  first | with_reducible assumption | assumption
  apply State.rampTo_keeps
  first | with_reducible assumption | assumption

theorem State.runStep_keeps {fx fm : Bool} {b0 s : State} (d : Nat) (dt : Rat) (th0 : Rat) (hk : Keeps fx fm b0 s) : Keeps fx fm b0 (State.runStep s d dt th0) := by
  unfold State.runStep
  extract_lets +onlyGivenNames x0
  refine (fun (k0 : Keeps fx fm b0 x0) => ?_) (?_ : Keeps fx fm b0 x0)
  split
  first | with_reducible assumption | assumption
  extract_lets +onlyGivenNames x1
  refine (fun (k1 : Keeps fx fm b0 x1) => ?_) (?_ : Keeps fx fm b0 x1)
  split
  apply State.drvFault_keeps
  first | with_reducible assumption | assumption
  split
  apply State.drvDecel_keeps
  first | with_reducible assumption | assumption
  apply State.runDrive_keeps
  first | with_reducible assumption | assumption
  dsimp -zeta only [x1]
  apply State.hallSpeed_keeps
  apply State.hallJudge_keeps
  apply State.hallSpeed_keeps
  first | with_reducible assumption | assumption
  dsimp -zeta only [x0]
  apply State.lossJudge_keeps
  apply State.hallSpeed_keeps
  first | with_reducible assumption | assumption

theorem State.decelStep_keeps {fx fm : Bool} {b0 s : State} (d : Nat) (dt : Rat) (hk : Keeps fx fm b0 s) : Keeps fx fm b0 (State.decelStep s d dt) := by
  unfold State.decelStep
  extract_lets +onlyGivenNames x0
  refine (fun (k0 : Keeps fx fm b0 x0) => ?_) (?_ : Keeps fx fm b0 x0)
  split
  apply State.drvFault_keeps
  first | with_reducible assumption | assumption
  split
  apply State.holdV0_keeps
  first | with_reducible assumption | assumption
  extract_lets +onlyGivenNames x1
  refine (fun (k1 : Keeps fx fm b0 x1) => ?_) (?_ : Keeps fx fm b0 x1)
  extract_lets +onlyGivenNames x2
  refine (fun (k2 : Keeps fx fm b0 x2.1) => ?_) (?_ : Keeps fx fm b0 x2.1)
  apply State.drvVector_keeps
  first | with_reducible assumption | assumption
  dsimp -zeta only [x2]
  split
  apply State.hallVector_keeps
  first | with_reducible assumption | assumption
  apply State.tableVector_keeps
  first | with_reducible assumption | assumption
  dsimp -zeta only [x1]
  apply State.speedPi_keeps
  apply State.rampTo_keeps
  first | with_reducible assumption | assumption
  dsimp -zeta only [x0]
  apply State.hallSpeed_keeps
  apply State.hallJudge_keeps
  apply State.hallSpeed_keeps
  first | with_reducible assumption | assumption

theorem State.drvMeasure_keeps {fx fm : Bool} {b0 s : State} (d : Nat) (hk : Keeps fx fm b0 s) : Keeps fx fm b0 (State.drvMeasure s d) := by
  unfold State.drvMeasure
  extract_lets +onlyGivenNames x0
  extract_lets +onlyGivenNames x1
  apply State.put_keeps
  apply State.put_keeps
  first | with_reducible assumption | assumption

theorem State.shortStep_keeps {fx fm : Bool} {b0 s : State} (d : Nat) (hk : Keeps fx fm b0 s) : Keeps fx fm b0 (State.shortStep s d) := by
  unfold State.shortStep
  extract_lets +onlyGivenNames x0
  apply State.setDrv_keeps
  first | with_reducible assumption | assumption

theorem State.drvDecide_keeps {fx fm : Bool} {b0 s : State} (d : Nat) (hk : Keeps fx fm b0 s) : Keeps fx fm b0 (State.drvDecide s d) := by
  unfold State.drvDecide
  extract_lets +onlyGivenNames x0
  extract_lets +onlyGivenNames x1
  extract_lets +onlyGivenNames x2
  refine (fun (k2 : Keeps fx fm b0 x2) => ?_) (?_ : Keeps fx fm b0 x2)
  extract_lets +onlyGivenNames x3
  extract_lets +onlyGivenNames x4
  extract_lets +onlyGivenNames x5
  refine (fun (k5 : Keeps fx fm b0 x5) => ?_) (?_ : Keeps fx fm b0 x5)
  split
  first | with_reducible assumption | assumption
  split
  apply State.drvVector_keeps
  split
  first | with_reducible assumption | assumption
  apply State.putRpm_keeps
  first | with_reducible assumption | assumption
  split
  extract_lets +onlyGivenNames x6
  apply State.drvVector_keeps
  dsimp -zeta only [x6]
  apply State.curHyst_keeps
  first | with_reducible assumption | assumption
  split
  apply State.runStep_keeps
  first | with_reducible assumption | assumption
  split
  apply State.decelStep_keeps
  first | with_reducible assumption | assumption
  split
  apply State.shortStep_keeps
  first | with_reducible assumption | assumption
  first | with_reducible assumption | assumption
  dsimp -zeta only [x5]
  split
  apply State.drvEstimate_keeps
  first | with_reducible assumption | assumption
  first | with_reducible assumption | assumption
  dsimp -zeta only [x2]
  apply State.setDrv_keeps
  apply State.drvMeasure_keeps
  first | with_reducible assumption | assumption

theorem State.drvOnTime_keeps {fx fm : Bool} {b0 s : State} (d : Nat) (hk : Keeps fx fm b0 s) : Keeps fx fm b0 (State.drvOnTime s d) := by
  unfold State.drvOnTime
  apply State.drvDecide_keeps
  apply State.setDrv_keeps
  apply State.advUp_keeps
  first | with_reducible assumption | assumption

theorem State.drvMiss_keeps {fx fm : Bool} {b0 s : State} (d : Nat) (hk : Keeps fx fm b0 s) : Keeps fx fm b0 (State.drvMiss s d) := by
  unfold State.drvMiss
  extract_lets +onlyGivenNames x0
  extract_lets +onlyGivenNames x1
  refine (fun (k1 : Keeps fx fm b0 x1) => ?_) (?_ : Keeps fx fm b0 x1)
  split
  apply State.drvFault_keeps
  apply State.setDrv_keeps
  first | with_reducible assumption | assumption
  first | with_reducible assumption | assumption
  dsimp -zeta only [x1]
  apply State.setDrv_keeps
  apply State.bumpMod_keeps
  first | with_reducible assumption | assumption

theorem execDriveDecision_keeps {fx fm : Bool} {b0 s t : State} (drive : Fin 3) (hk : Keeps fx fm b0 s) (e : execDriveDecision drive s = .next t) : Keeps fx fm b0 t := by
  unfold execDriveDecision at e
  cases e
  apply State.whenAlive_keeps
  first | with_reducible assumption | assumption
  split
  split
  apply State.drvOnTime_keeps
  first | with_reducible assumption | assumption
  first | with_reducible assumption | assumption
  first | with_reducible assumption | assumption

theorem execDecisionDeadline_keeps {fx fm : Bool} {b0 s t : State} (drive : Fin 3) (hk : Keeps fx fm b0 s) (e : execDecisionDeadline drive s = .next t) : Keeps fx fm b0 t := by
  unfold execDecisionDeadline at e
  cases e
  apply State.whenAlive_keeps
  first | with_reducible assumption | assumption
  split
  split
  apply State.drvOnTime_keeps
  first | with_reducible assumption | assumption
  apply State.drvDecide_keeps
  apply State.drvMiss_keeps
  apply State.advUp_keeps
  first | with_reducible assumption | assumption
  first | with_reducible assumption | assumption

theorem State.drvPulse_keeps {fx fm : Bool} {b0 s : State} (line : Nat) (hk : Keeps fx fm b0 s) : Keeps fx fm b0 (State.drvPulse s line) := by
  unfold State.drvPulse
  apply State.forEach_keeps
  first | with_reducible assumption | assumption
  intro v0
  intro v1
  intro v2
  split
  split
  apply State.bumpMod_keeps
  first | with_reducible assumption | assumption
  apply State.setDrv_keeps
  first | with_reducible assumption | assumption
  first | with_reducible assumption | assumption

theorem execCatchDone_keeps {fx fm : Bool} {b0 s t : State} (drive : Fin 3) (hk : Keeps fx fm b0 s) (e : execCatchDone drive s = .next t) : Keeps fx fm b0 t := by
  unfold execCatchDone at e
  cases e
  apply State.whenAlive_keeps
  first | with_reducible assumption | assumption
  extract_lets +onlyGivenNames x0
  split
  extract_lets +onlyGivenNames x1
  refine (fun (k1 : Keeps fx fm b0 x1) => ?_) (?_ : Keeps fx fm b0 x1)
  extract_lets +onlyGivenNames x2
  extract_lets +onlyGivenNames x3
  refine (fun (k3 : Keeps fx fm b0 x3) => ?_) (?_ : Keeps fx fm b0 x3)
  extract_lets +onlyGivenNames x4
  extract_lets +onlyGivenNames x5
  extract_lets +onlyGivenNames x6
  extract_lets +onlyGivenNames x7
  extract_lets +onlyGivenNames x8
  extract_lets +onlyGivenNames x9
  extract_lets +onlyGivenNames x10
  split
  extract_lets +onlyGivenNames x11
  apply State.drvTo_keeps
  apply State.setDrv_keeps
  dsimp -zeta only [x10]
  apply State.setDrv_keeps
  dsimp -zeta only [x9]
  apply State.emit_keeps
  first | with_reducible assumption | assumption
  split
  extract_lets +onlyGivenNames x12
  refine (fun (k12 : Keeps fx fm b0 x12) => ?_) (?_ : Keeps fx fm b0 x12)
  split
  apply State.setDrv_keeps
  apply State.put_keeps
  apply State.drvTo_keeps
  first | with_reducible assumption | assumption
  apply State.drvTo_keeps
  first | with_reducible assumption | assumption
  dsimp -zeta only [x12]
  apply State.setDrv_keeps
  dsimp -zeta only [x10]
  apply State.setDrv_keeps
  dsimp -zeta only [x9]
  apply State.emit_keeps
  first | with_reducible assumption | assumption
  extract_lets +onlyGivenNames x13
  split
  apply State.drvFault_keeps
  apply State.setDrv_keeps
  first | with_reducible assumption | assumption
  apply State.setDrv_keeps
  first | with_reducible assumption | assumption
  dsimp -zeta only [x3]
  split
  apply State.putRpm_keeps
  first | with_reducible assumption | assumption
  first | with_reducible assumption | assumption
  dsimp -zeta only [x1]
  apply State.advUp_keeps
  first | with_reducible assumption | assumption
  first | with_reducible assumption | assumption

theorem execAlignDone_keeps {fx fm : Bool} {b0 s t : State} (drive : Fin 3) (hk : Keeps fx fm b0 s) (e : execAlignDone drive s = .next t) : Keeps fx fm b0 t := by
  unfold execAlignDone at e
  cases e
  apply State.whenAlive_keeps
  first | with_reducible assumption | assumption
  extract_lets +onlyGivenNames x0
  split
  extract_lets +onlyGivenNames x1
  refine (fun (k1 : Keeps fx fm b0 x1) => ?_) (?_ : Keeps fx fm b0 x1)
  extract_lets +onlyGivenNames x2
  refine (fun (k2 : Keeps fx fm b0 x2) => ?_) (?_ : Keeps fx fm b0 x2)
  apply State.drvTo_keeps
  first | with_reducible assumption | assumption
  dsimp -zeta only [x2]
  apply State.setDrv_keeps
  apply State.setPsi_keeps
  first | with_reducible assumption | assumption
  dsimp -zeta only [x1]
  apply State.advUp_keeps
  first | with_reducible assumption | assumption
  first | with_reducible assumption | assumption

theorem execStopHoldDone_keeps {fx fm : Bool} {b0 s t : State} (drive : Fin 3) (hk : Keeps fx fm b0 s) (e : execStopHoldDone drive s = .next t) : Keeps fx fm b0 t := by
  unfold execStopHoldDone at e
  cases e
  apply State.whenAlive_keeps
  first | with_reducible assumption | assumption
  extract_lets +onlyGivenNames x0
  split
  extract_lets +onlyGivenNames x1
  refine (fun (k1 : Keeps fx fm b0 x1) => ?_) (?_ : Keeps fx fm b0 x1)
  split
  apply State.drvTo_keeps
  first | with_reducible assumption | assumption
  split
  apply State.drvTo_keeps
  first | with_reducible assumption | assumption
  first | with_reducible assumption | assumption
  dsimp -zeta only [x1]
  apply State.advUp_keeps
  first | with_reducible assumption | assumption
  first | with_reducible assumption | assumption

theorem execPositionReached_keeps {fx fm : Bool} {b0 s t : State} (drive : Fin 3) (hk : Keeps fx fm b0 s) (e : execPositionReached drive s = .next t) : Keeps fx fm b0 t := by
  unfold execPositionReached at e
  cases e
  apply State.whenAlive_keeps
  first | with_reducible assumption | assumption
  extract_lets +onlyGivenNames x0
  split
  split
  extract_lets +onlyGivenNames x1
  refine (fun (k1 : Keeps fx fm b0 x1) => ?_) (?_ : Keeps fx fm b0 x1)
  extract_lets +onlyGivenNames x2
  refine (fun (k2 : Keeps fx fm b0 x2) => ?_) (?_ : Keeps fx fm b0 x2)
  apply State.drvDecel_keeps
  first | with_reducible assumption | assumption
  dsimp -zeta only [x2]
  split
  apply State.stowEnd_keeps
  first | with_reducible assumption | assumption
  first | with_reducible assumption | assumption
  dsimp -zeta only [x1]
  apply State.advUp_keeps
  first | with_reducible assumption | assumption
  first | with_reducible assumption | assumption
  first | with_reducible assumption | assumption

theorem execStowDone_keeps {fx fm : Bool} {b0 s t : State} (drive : Fin 3) (hk : Keeps fx fm b0 s) (e : execStowDone drive s = .next t) : Keeps fx fm b0 t := by
  unfold execStowDone at e
  cases e
  apply State.whenAlive_keeps
  first | with_reducible assumption | assumption
  extract_lets +onlyGivenNames x0
  split
  apply State.idle_keeps
  apply State.stowEnd_keeps
  apply State.advUp_keeps
  first | with_reducible assumption | assumption
  first | with_reducible assumption | assumption

theorem execShortEnd_keeps {fx fm : Bool} {b0 s t : State} (drive : Fin 3) (hk : Keeps fx fm b0 s) (e : execShortEnd drive s = .next t) : Keeps fx fm b0 t := by
  unfold execShortEnd at e
  cases e
  apply State.whenAlive_keeps
  first | with_reducible assumption | assumption
  extract_lets +onlyGivenNames x0
  split
  extract_lets +onlyGivenNames x1
  split
  extract_lets +onlyGivenNames x2
  refine (fun (k2 : Keeps fx fm b0 x2) => ?_) (?_ : Keeps fx fm b0 x2)
  extract_lets +onlyGivenNames x3
  refine (fun (k3 : Keeps fx fm b0 x3) => ?_) (?_ : Keeps fx fm b0 x3)
  extract_lets +onlyGivenNames x4
  split
  apply State.drvTo_keeps
  apply State.setDrv_keeps
  first | with_reducible assumption | assumption
  split
  apply State.drvTo_keeps
  first | with_reducible assumption | assumption
  apply State.drvTo_keeps
  apply State.irq_keeps
  apply State.put_keeps
  apply State.setDrv_keeps
  first | with_reducible assumption | assumption
  dsimp -zeta only [x3]
  apply State.irq_keeps
  apply State.put_keeps
  first | with_reducible assumption | assumption
  dsimp -zeta only [x2]
  apply State.advUp_keeps
  first | with_reducible assumption | assumption
  first | with_reducible assumption | assumption
  first | with_reducible assumption | assumption

theorem State.drvCommand_keeps {fx fm : Bool} {b0 s : State} (d op : Nat) (hk : Keeps fx fm b0 s) : Keeps fx fm b0 (State.drvCommand s d op).1 := by
  unfold State.drvCommand
  extract_lets st fromRest start
  have hs : ∀ t c x, Keeps fx fm b0 t → Keeps fx fm b0 (start t c x) := fun t c x h =>
    State.drvTo_keeps _ _ (State.putB_keeps _ _ (State.setDrv_keeps _ _ h))
  split
  · exact Keeps.iteFst (hs _ _ _ hk) hk
  · refine Keeps.iteFst (State.drvCoast_keeps _ hk) (Keeps.iteFst (State.drvDecel_keeps _ hk) hk)
  · exact Keeps.iteFst hk (State.drvCoast_keeps _ hk)
  · exact Keeps.iteFst (hs _ _ _ hk) hk
  · exact Keeps.iteFst (hs _ _ _ hk) hk
  · exact Keeps.iteFst (State.armHome_keeps _ (hs _ _ _ hk)) hk
  · exact hk

theorem State.drvEnable_keeps {fx fm : Bool} {b0 s : State} (d : Nat) (hk : Keeps fx fm b0 s) : Keeps fx fm b0 (State.drvEnable s d) := by
  unfold State.drvEnable
  extract_lets +onlyGivenNames x0
  refine (fun (k0 : Keeps fx fm b0 x0) => ?_) (?_ : Keeps fx fm b0 x0)
  split
  apply State.drvFault_keeps
  first | with_reducible assumption | assumption
  split
  apply State.drvFault_keeps
  first | with_reducible assumption | assumption
  first | with_reducible assumption | assumption
  dsimp -zeta only [x0]
  apply State.drvTo_keeps
  apply State.setDrv_keeps
  first | with_reducible assumption | assumption

theorem State.drvDisable_keeps {fx fm : Bool} {b0 s : State} (d : Nat) (hk : Keeps fx fm b0 s) : Keeps fx fm b0 (State.drvDisable s d) := by
  unfold State.drvDisable
  apply State.setDrv_keeps
  apply State.drvTo_keeps
  first | with_reducible assumption | assumption

theorem State.haltStow_keeps {fx fm : Bool} {b0 s : State} (d : Nat) (hk : Keeps fx fm b0 s) : Keeps fx fm b0 (State.haltStow s d) := by
  unfold State.haltStow
  split
  extract_lets +onlyGivenNames x0
  extract_lets +onlyGivenNames x1
  refine (fun (k1 : Keeps fx fm b0 x1) => ?_) (?_ : Keeps fx fm b0 x1)
  split
  first | with_reducible assumption | assumption
  apply State.stowEnd_keeps
  first | with_reducible assumption | assumption
  dsimp -zeta only [x1]
  apply State.setDrv_keeps
  dsimp -zeta only [x0]
  apply State.drvCommand_keeps
  first | with_reducible assumption | assumption
  first | with_reducible assumption | assumption

theorem State.haltLeft_keeps {fx fm : Bool} {b0 s : State} (d : Nat) (hk : Keeps fx fm b0 s) : Keeps fx fm b0 (State.haltLeft s d) := by
  unfold State.haltLeft
  apply State.setDrv_keeps
  apply State.put_keeps
  apply State.put_keeps
  first | with_reducible assumption | assumption

theorem State.drvClear_keeps {fx fm : Bool} {b0 s : State} (d : Nat) (hk : Keeps fx fm b0 s) : Keeps fx fm b0 (State.drvClear s d).1 := by
  unfold State.drvClear
  extract_lets h t u
  have ht : Keeps fx fm b0 t := State.put_keeps _ _ (State.put_keeps _ _ hk)
  have hu : Keeps fx fm b0 u := State.drvTo_keeps _ _ ht
  refine Keeps.iteFst (Keeps.iteFst (State.put_keeps _ _ hk) (Keeps.iteFst ?_ ht)) hk
  exact Keeps.ite (State.drvFault_keeps _ _ hu) hu

theorem State.brkRequest_keeps {fx fm : Bool} {b0 s : State} (k : Nat) (on : Bool) (hk : Keeps fx fm b0 s) : Keeps fx fm b0 (State.brkRequest s k on) := by
  unfold State.brkRequest
  split
  first | with_reducible assumption | assumption
  apply State.auxRequest_keeps
  apply State.setBrk_keeps
  apply State.putB_keeps
  first | with_reducible assumption | assumption

theorem execChopperUpdate_keeps {fx fm : Bool} {b0 s t : State} (k : Fin 2) (hk : Keeps fx fm b0 s) (e : execChopperUpdate k s = .next t) : Keeps fx fm b0 t := by
  unfold execChopperUpdate at e
  cases e
  apply State.whenAlive_keeps
  first | with_reducible assumption | assumption
  extract_lets +onlyGivenNames x0
  extract_lets +onlyGivenNames x1
  extract_lets +onlyGivenNames x2
  refine (fun (k2 : Keeps fx fm b0 x2) => ?_) (?_ : Keeps fx fm b0 x2)
  extract_lets +onlyGivenNames x3
  refine (fun (k3 : Keeps fx fm b0 x3) => ?_) (?_ : Keeps fx fm b0 x3)
  extract_lets +onlyGivenNames x4
  extract_lets +onlyGivenNames x5
  refine (fun (k5 : Keeps fx fm b0 x5) => ?_) (?_ : Keeps fx fm b0 x5)
  extract_lets +onlyGivenNames x6
  refine (fun (k6 : Keeps fx fm b0 x6) => ?_) (?_ : Keeps fx fm b0 x6)
  split
  apply State.forEach_keeps
  first | with_reducible assumption | assumption
  intro v7
  intro v8
  intro v9
  apply State.drvShort_keeps
  first | with_reducible assumption | assumption
  first | with_reducible assumption | assumption
  dsimp -zeta only [x6]
  apply State.putB_keeps
  first | with_reducible assumption | assumption
  dsimp -zeta only [x5]
  split
  apply State.irq_keeps
  first | with_reducible assumption | assumption
  first | with_reducible assumption | assumption
  dsimp -zeta only [x3]
  split
  split
  apply State.brkRequest_keeps
  first | with_reducible assumption | assumption
  split
  apply State.brkRequest_keeps
  first | with_reducible assumption | assumption
  first | with_reducible assumption | assumption
  apply State.brkRequest_keeps
  first | with_reducible assumption | assumption
  dsimp -zeta only [x2]
  apply State.putI_keeps
  first | with_reducible assumption | assumption

theorem State.brkCurrent_keeps {fx fm : Bool} {b0 s : State} (k : Nat) (hk : Keeps fx fm b0 s) : Keeps fx fm b0 (State.brkCurrent s k) := by
  unfold State.brkCurrent
  extract_lets +onlyGivenNames x0
  split
  first | with_reducible assumption | assumption
  apply State.setBrk_keeps
  first | with_reducible assumption | assumption

theorem execBrkFault_keeps {fx fm : Bool} {b0 s t : State} (k : Fin 2) (hk : Keeps fx fm b0 s) (e : execBrkFault k s = .next t) : Keeps fx fm b0 t := by
  unfold execBrkFault at e
  cases e
  apply State.whenAlive_keeps
  first | with_reducible assumption | assumption
  extract_lets +onlyGivenNames x0
  extract_lets +onlyGivenNames x1
  extract_lets +onlyGivenNames x2
  split
  split
  extract_lets +onlyGivenNames x3
  refine (fun (k3 : Keeps fx fm b0 x3) => ?_) (?_ : Keeps fx fm b0 x3)
  extract_lets +onlyGivenNames x4
  refine (fun (k4 : Keeps fx fm b0 x4) => ?_) (?_ : Keeps fx fm b0 x4)
  extract_lets +onlyGivenNames x5
  refine (fun (k5 : Keeps fx fm b0 x5) => ?_) (?_ : Keeps fx fm b0 x5)
  extract_lets +onlyGivenNames x6
  refine (fun (k6 : Keeps fx fm b0 x6) => ?_) (?_ : Keeps fx fm b0 x6)
  apply State.idle_keeps
  apply State.forEach_keeps
  first | with_reducible assumption | assumption
  intro v7
  intro v8
  intro v9
  split
  apply State.drvCoast_keeps
  first | with_reducible assumption | assumption
  first | with_reducible assumption | assumption
  dsimp -zeta only [x6]
  apply State.brkRequest_keeps
  first | with_reducible assumption | assumption
  dsimp -zeta only [x5]
  apply State.emit_keeps
  first | with_reducible assumption | assumption
  dsimp -zeta only [x4]
  apply State.irq_keeps
  apply State.put_keeps
  first | with_reducible assumption | assumption
  dsimp -zeta only [x3]
  apply State.advUp_keeps
  first | with_reducible assumption | assumption
  first | with_reducible assumption | assumption
  split
  extract_lets +onlyGivenNames x10
  refine (fun (k10 : Keeps fx fm b0 x10) => ?_) (?_ : Keeps fx fm b0 x10)
  extract_lets +onlyGivenNames x11
  refine (fun (k11 : Keeps fx fm b0 x11) => ?_) (?_ : Keeps fx fm b0 x11)
  extract_lets +onlyGivenNames x12
  refine (fun (k12 : Keeps fx fm b0 x12) => ?_) (?_ : Keeps fx fm b0 x12)
  extract_lets +onlyGivenNames x13
  refine (fun (k13 : Keeps fx fm b0 x13) => ?_) (?_ : Keeps fx fm b0 x13)
  apply State.idle_keeps
  apply State.forEach_keeps
  first | with_reducible assumption | assumption
  intro v14
  intro v15
  intro v16
  split
  apply State.drvCoast_keeps
  first | with_reducible assumption | assumption
  first | with_reducible assumption | assumption
  dsimp -zeta only [x13]
  apply State.brkRequest_keeps
  first | with_reducible assumption | assumption
  dsimp -zeta only [x12]
  apply State.emit_keeps
  first | with_reducible assumption | assumption
  dsimp -zeta only [x11]
  apply State.irq_keeps
  apply State.put_keeps
  first | with_reducible assumption | assumption
  dsimp -zeta only [x10]
  apply State.advUp_keeps
  first | with_reducible assumption | assumption
  first | with_reducible assumption | assumption

theorem State.brkClear_keeps {fx fm : Bool} {b0 s : State} (k mask : Nat) (hk : Keeps fx fm b0 s) : Keeps fx fm b0 (State.brkClear s k mask).1 := by
  unfold State.brkClear
  extract_lets +onlyGivenNames x0
  refine (fun (k0 : Keeps fx fm b0 x0) => ?_) (?_ : Keeps fx fm b0 x0)
  split
  split
  dsimp only
  apply State.put_keeps
  first | with_reducible assumption | assumption
  dsimp only
  apply State.put_keeps
  first | with_reducible assumption | assumption
  first | with_reducible assumption | assumption
  dsimp -zeta only [x0]
  split
  apply State.put_keeps
  first | with_reducible assumption | assumption
  first | with_reducible assumption | assumption

theorem execHallChange_keeps {fx fm : Bool} {b0 s t : State} (chan : Fin 3) (code : Fin 8) (rx : BitVec 2) (hk : Keeps fx fm b0 s) (e : execHallChange chan code rx s = .next t) : Keeps fx fm b0 t := by
  unfold execHallChange at e
  cases e
  apply State.whenAlive_keeps
  first | with_reducible assumption | assumption
  extract_lets +onlyGivenNames x0
  extract_lets +onlyGivenNames x1
  refine (fun (k1 : Keeps fx fm b0 x1) => ?_) (?_ : Keeps fx fm b0 x1)
  split
  extract_lets +onlyGivenNames x2
  refine (fun (k2 : Keeps fx fm b0 x2.1) => ?_) (?_ : Keeps fx fm b0 x2.1)
  split
  apply State.drvFault_keeps
  first | with_reducible assumption | assumption
  first | with_reducible assumption | assumption
  dsimp -zeta only [x2]
  apply State.arcHall_keeps
  first | with_reducible assumption | assumption
  first | with_reducible assumption | assumption
  dsimp -zeta only [x1]
  split
  apply State.chordHall_keeps
  first | with_reducible assumption | assumption
  first | with_reducible assumption | assumption

theorem State.drvHomed_keeps {fx fm : Bool} {b0 s : State} (a : Nat) (hk : Keeps fx fm b0 s) : Keeps fx fm b0 (State.drvHomed s a) := by
  unfold State.drvHomed
  split
  apply State.drvDecel_keeps
  first | with_reducible assumption | assumption
  first | with_reducible assumption | assumption

theorem execIndexEdge_keeps {fx fm : Bool} {b0 s t : State} (chan : Fin 3) (hk : Keeps fx fm b0 s) (e : execIndexEdge chan s = .next t) : Keeps fx fm b0 t := by
  unfold execIndexEdge at e
  cases e
  apply State.whenAlive_keeps
  first | with_reducible assumption | assumption
  extract_lets +onlyGivenNames x0
  split
  split
  apply State.drvHomed_keeps
  apply State.arcIndex_keeps
  first | with_reducible assumption | assumption
  apply State.arcIndex_keeps
  first | with_reducible assumption | assumption
  first | with_reducible assumption | assumption

theorem State.drvCompare_keeps {fx fm : Bool} {b0 s : State}  (hk : Keeps fx fm b0 s) : Keeps fx fm b0 (State.drvCompare s) := by
  unfold State.drvCompare
  extract_lets +onlyGivenNames x0
  refine (fun (k0 : Keeps fx fm b0 x0) => ?_) (?_ : Keeps fx fm b0 x0)
  apply State.forEach_keeps
  first | with_reducible assumption | assumption
  intro v1
  intro v2
  intro v3
  apply State.brkCurrent_keeps
  first | with_reducible assumption | assumption
  dsimp -zeta only [x0]
  apply State.forEach_keeps
  first | with_reducible assumption | assumption
  intro v4
  intro v5
  intro v6
  extract_lets +onlyGivenNames x7
  extract_lets +onlyGivenNames x8
  extract_lets +onlyGivenNames x9
  refine (fun (k9 : Keeps fx fm b0 x9) => ?_) (?_ : Keeps fx fm b0 x9)
  split
  apply State.drvFault_keeps
  first | with_reducible assumption | assumption
  first | with_reducible assumption | assumption
  dsimp -zeta only [x9]
  split
  first | with_reducible assumption | assumption
  apply State.setDrv_keeps
  first | with_reducible assumption | assumption

theorem execCmpWinChange_keeps {fx : Bool} {b0 s t : State} (tw : Fin 48) (hk : Keeps fx false b0 s) (e : execCmpWinChange tw s = .next t) : Keeps fx false b0 t := by
  unfold execCmpWinChange at e
  cases e
  apply State.whenAlive_keeps
  first | with_reducible assumption | assumption
  apply State.drvCompare_keeps
  apply State.cmpTake_keeps
  first | with_reducible assumption | assumption

theorem execBackgroundConversion_keeps {fx : Bool} {b0 s t : State} (pos : Fin 8) (q : Int) (hk : Keeps fx false b0 s) (e : execBackgroundConversion pos q s = .next t) : Keeps fx false b0 t := by
  unfold execBackgroundConversion at e
  cases e
  split
  split
  apply State.drvCompare_keeps
  apply State.background_keeps
  first | with_reducible assumption | assumption
  first | with_reducible assumption | assumption
  first | with_reducible assumption | assumption

theorem execConfTimeout_keeps {fx fm : Bool} {b0 s t : State} (timer : Fin 20) (hk : Keeps fx fm b0 s) (e : execConfTimeout timer s = .next t) : Keeps fx fm b0 t := by
  unfold execConfTimeout at e
  cases e
  apply State.whenAlive_keeps
  first | with_reducible assumption | assumption
  extract_lets +onlyGivenNames x0
  refine (fun (k0 : Keeps fx fm b0 x0) => ?_) (?_ : Keeps fx fm b0 x0)
  split
  extract_lets +onlyGivenNames x1
  refine (fun (k1 : Keeps fx fm b0 x1) => ?_) (?_ : Keeps fx fm b0 x1)
  split
  apply State.drvFault_keeps
  first | with_reducible assumption | assumption
  first | with_reducible assumption | assumption
  dsimp -zeta only [x1]
  apply State.auxTimeout_keeps
  first | with_reducible assumption | assumption
  first | with_reducible assumption | assumption
  dsimp -zeta only [x0]
  apply State.auxReachOff_keeps
  first | with_reducible assumption | assumption

theorem execPgTrip_keeps {fx fm : Bool} {b0 s t : State}  (hk : Keeps fx fm b0 s) (e : execPgTrip s = .next t) : Keeps fx fm b0 t := by
  unfold execPgTrip at e
  cases e
  apply State.whenAlive_keeps
  first | with_reducible assumption | assumption
  extract_lets +onlyGivenNames x0
  extract_lets +onlyGivenNames x1
  refine (fun (k1 : Keeps fx fm b0 x1) => ?_) (?_ : Keeps fx fm b0 x1)
  split
  first | with_reducible assumption | assumption
  extract_lets +onlyGivenNames x2
  extract_lets +onlyGivenNames x3
  extract_lets +onlyGivenNames x4
  refine (fun (k4 : Keeps fx fm b0 x4) => ?_) (?_ : Keeps fx fm b0 x4)
  split
  first | with_reducible assumption | assumption
  extract_lets +onlyGivenNames x5
  refine (fun (k5 : Keeps fx fm b0 x5) => ?_) (?_ : Keeps fx fm b0 x5)
  apply State.forEach_keeps
  apply State.emit_keeps
  first | with_reducible assumption | assumption
  intro v6
  intro v7
  intro v8
  apply State.drvCoast_keeps
  first | with_reducible assumption | assumption
  dsimp -zeta only [x5]
  apply State.put_keeps
  apply State.irq_keeps
  first | with_reducible assumption | assumption
  dsimp -zeta only [x4]
  apply State.put_keeps
  first | with_reducible assumption | assumption
  dsimp -zeta only [x1]
  apply State.put_keeps
  first | with_reducible assumption | assumption

theorem execPguardOn_keeps {fx fm : Bool} {b0 s t : State}  (hk : Keeps fx fm b0 s) (e : execPguardOn s = .next t) : Keeps fx fm b0 t := by
  unfold execPguardOn at e
  cases e
  apply State.whenAlive_keeps
  first | with_reducible assumption | assumption
  split
  apply State.put_keeps
  apply State.put_keeps
  apply State.advUp_keeps
  first | with_reducible assumption | assumption
  first | with_reducible assumption | assumption

end Sys2Proof.Machine
end

