-- ==== Sys2Proof/Laws/KeepsOrigin.lean ====
section
/-! SUPPORT. What the operations of Machine/Origin.lean keep. -/

namespace Sys2Proof.Machine

open Sys2Proof

theorem State.setOrg_keeps {fx fm : Bool} {b0 s : State} (f : OrgSt → OrgSt) (hk : Keeps fx fm b0 s) : Keeps fx fm b0 (State.setOrg s f) := by
  unfold State.setOrg
  refine Keeps.lit ?_ rfl rfl
  first | with_reducible assumption | assumption

theorem State.orgIrq_keeps {fx fm : Bool} {b0 s : State} (i : Nat) (hk : Keeps fx fm b0 s) : Keeps fx fm b0 (State.orgIrq s i) := by
  unfold State.orgIrq
  split
  apply State.irq_keeps
  first | with_reducible assumption | assumption
  first | with_reducible assumption | assumption

theorem State.orgEvent_keeps {fx fm : Bool} {b0 s : State} (code data : Nat) (hk : Keeps fx fm b0 s) : Keeps fx fm b0 (State.orgEvent s code data) := by
  unfold State.orgEvent
  apply State.emit_keeps
  first | with_reducible assumption | assumption

theorem State.whenKeep_keeps {fx fm : Bool} {b0 s : State} {f : State → State} (h : Keeps fx fm b0 s) (k : Keeps fx fm b0 (f s)) : Keeps fx fm b0 (s.whenKeep f) := by
  unfold State.whenKeep
  split <;> assumption

theorem State.chgStart_keeps {fx fm : Bool} {b0 s : State}  (hk : Keeps fx fm b0 s) : Keeps fx fm b0 (State.chgStart s) := by
  unfold State.chgStart
  apply State.setOrg_keeps
  apply State.put_keeps
  first | with_reducible assumption | assumption

theorem State.chgStep_keeps {fx fm : Bool} {b0 s : State} (icell : Nat) (hk : Keeps fx fm b0 s) : Keeps fx fm b0 (State.chgStep s icell) := by
  unfold State.chgStep
  split
  split
  apply State.chgStart_keeps
  first | with_reducible assumption | assumption
  split
  apply State.put_keeps
  first | with_reducible assumption | assumption
  first | with_reducible assumption | assumption
  split
  apply State.put_keeps
  first | with_reducible assumption | assumption
  first | with_reducible assumption | assumption
  split
  apply State.put_keeps
  first | with_reducible assumption | assumption
  first | with_reducible assumption | assumption
  split
  apply State.setOrg_keeps
  apply State.put_keeps
  first | with_reducible assumption | assumption
  first | with_reducible assumption | assumption
  first | with_reducible assumption | assumption
  split
  first | with_reducible assumption | assumption
  split
  first | with_reducible assumption | assumption
  apply State.put_keeps
  first | with_reducible assumption | assumption

theorem execHarvestSample_keeps {fx fm : Bool} {b0 s t : State} (vharv : Nat) (hk : Keeps fx fm b0 s) (e : execHarvestSample vharv s = .next t) : Keeps fx fm b0 t := by
  unfold execHarvestSample at e
  cases e
  apply State.whenKeep_keeps
  first | with_reducible assumption | assumption
  extract_lets +onlyGivenNames x0
  refine (fun (k0 : Keeps fx fm b0 x0) => ?_) (?_ : Keeps fx fm b0 x0)
  extract_lets +onlyGivenNames x1
  extract_lets +onlyGivenNames x2
  refine (fun (k2 : Keeps fx fm b0 x2) => ?_) (?_ : Keeps fx fm b0 x2)
  extract_lets +onlyGivenNames x3
  extract_lets +onlyGivenNames x4
  apply State.setOrg_keeps
  first | with_reducible assumption | assumption
  dsimp -zeta only [x2]
  apply State.put_keeps
  first | with_reducible assumption | assumption
  dsimp -zeta only [x0]
  apply State.advUp_keeps
  first | with_reducible assumption | assumption

theorem State.harvest_keeps {fx fm : Bool} {b0 s : State} (dawn : Bool) (hk : Keeps fx fm b0 s) : Keeps fx fm b0 (State.harvest s dawn) := by
  unfold State.harvest
  extract_lets +onlyGivenNames x0
  refine (fun (k0 : Keeps fx fm b0 x0) => ?_) (?_ : Keeps fx fm b0 x0)
  extract_lets +onlyGivenNames x1
  refine (fun (k1 : Keeps fx fm b0 x1) => ?_) (?_ : Keeps fx fm b0 x1)
  extract_lets +onlyGivenNames x2
  refine (fun (k2 : Keeps fx fm b0 x2) => ?_) (?_ : Keeps fx fm b0 x2)
  apply State.orgEvent_keeps
  apply State.orgIrq_keeps
  first | with_reducible assumption | assumption
  dsimp -zeta only [x2]
  split
  split
  apply State.chgStart_keeps
  first | with_reducible assumption | assumption
  apply State.put_keeps
  first | with_reducible assumption | assumption
  split
  first | with_reducible assumption | assumption
  apply State.put_keeps
  first | with_reducible assumption | assumption
  dsimp -zeta only [x1]
  apply State.put_keeps
  first | with_reducible assumption | assumption
  dsimp -zeta only [x0]
  apply State.putB_keeps
  first | with_reducible assumption | assumption

theorem execHarvest_keeps {fx fm : Bool} {b0 s t : State}  (hk : Keeps fx fm b0 s) (e : execHarvest s = .next t) : Keeps fx fm b0 t := by
  unfold execHarvest at e
  cases e
  apply State.whenKeep_keeps
  first | with_reducible assumption | assumption
  split
  split
  apply State.harvest_keeps
  apply State.advUp_keeps
  first | with_reducible assumption | assumption
  first | with_reducible assumption | assumption
  split
  apply State.harvest_keeps
  apply State.advUp_keeps
  first | with_reducible assumption | assumption
  first | with_reducible assumption | assumption

theorem State.setPgood_keeps {fx fm : Bool} {b0 s : State} (b : Bool) (hk : Keeps fx fm b0 s) : Keeps fx fm b0 (State.setPgood s b) := by
  unfold State.setPgood
  apply State.orgEvent_keeps
  apply State.orgIrq_keeps
  apply State.putB_keeps
  first | with_reducible assumption | assumption

theorem State.setCut_keeps {fx fm : Bool} {b0 s : State} (b : Bool) (hk : Keeps fx fm b0 s) : Keeps fx fm b0 (State.setCut s b) := by
  unfold State.setCut
  extract_lets +onlyGivenNames x0
  refine (fun (k0 : Keeps fx fm b0 x0) => ?_) (?_ : Keeps fx fm b0 x0)
  extract_lets +onlyGivenNames x1
  refine (fun (k1 : Keeps fx fm b0 x1) => ?_) (?_ : Keeps fx fm b0 x1)
  apply State.orgEvent_keeps
  apply State.orgIrq_keeps
  first | with_reducible assumption | assumption
  dsimp -zeta only [x1]
  split
  apply State.put_keeps
  first | with_reducible assumption | assumption
  first | with_reducible assumption | assumption
  dsimp -zeta only [x0]
  apply State.putB_keeps
  first | with_reducible assumption | assumption

theorem execCellMeasurement_keeps {fx fm : Bool} {b0 s t : State} (vcell icell : Nat) (hk : Keeps fx fm b0 s) (e : execCellMeasurement vcell icell s = .next t) : Keeps fx fm b0 t := by
  unfold execCellMeasurement at e
  cases e
  apply State.whenKeep_keeps
  first | with_reducible assumption | assumption
  extract_lets +onlyGivenNames x0
  refine (fun (k0 : Keeps fx fm b0 x0) => ?_) (?_ : Keeps fx fm b0 x0)
  extract_lets +onlyGivenNames x1
  extract_lets +onlyGivenNames x2
  extract_lets +onlyGivenNames x3
  refine (fun (k3 : Keeps fx fm b0 x3) => ?_) (?_ : Keeps fx fm b0 x3)
  extract_lets +onlyGivenNames x4
  refine (fun (k4 : Keeps fx fm b0 x4) => ?_) (?_ : Keeps fx fm b0 x4)
  extract_lets +onlyGivenNames x5
  refine (fun (k5 : Keeps fx fm b0 x5) => ?_) (?_ : Keeps fx fm b0 x5)
  extract_lets +onlyGivenNames x6
  extract_lets +onlyGivenNames x7
  extract_lets +onlyGivenNames x8
  refine (fun (k8 : Keeps fx fm b0 x8) => ?_) (?_ : Keeps fx fm b0 x8)
  extract_lets +onlyGivenNames x9
  refine (fun (k9 : Keeps fx fm b0 x9) => ?_) (?_ : Keeps fx fm b0 x9)
  extract_lets +onlyGivenNames x10
  refine (fun (k10 : Keeps fx fm b0 x10) => ?_) (?_ : Keeps fx fm b0 x10)
  apply State.chgStep_keeps
  first | with_reducible assumption | assumption
  dsimp -zeta only [x10]
  split
  apply State.put_keeps
  first | with_reducible assumption | assumption
  first | with_reducible assumption | assumption
  dsimp -zeta only [x9]
  split
  apply State.setCut_keeps
  first | with_reducible assumption | assumption
  split
  apply State.setCut_keeps
  first | with_reducible assumption | assumption
  first | with_reducible assumption | assumption
  dsimp -zeta only [x8]
  split
  apply State.setPgood_keeps
  first | with_reducible assumption | assumption
  split
  apply State.setPgood_keeps
  first | with_reducible assumption | assumption
  first | with_reducible assumption | assumption
  dsimp -zeta only [x5]
  apply State.setOrg_keeps
  first | with_reducible assumption | assumption
  dsimp -zeta only [x4]
  apply State.put_keeps
  first | with_reducible assumption | assumption
  dsimp -zeta only [x3]
  apply State.put_keeps
  first | with_reducible assumption | assumption
  dsimp -zeta only [x0]
  apply State.advUp_keeps
  first | with_reducible assumption | assumption

theorem execCellDisconnect_keeps {fx fm : Bool} {b0 s t : State}  (hk : Keeps fx fm b0 s) (e : execCellDisconnect s = .next t) : Keeps fx fm b0 t := by
  unfold execCellDisconnect at e
  cases e
  apply State.whenKeep_keeps
  first | with_reducible assumption | assumption
  extract_lets +onlyGivenNames x0
  refine (fun (k0 : Keeps fx fm b0 x0) => ?_) (?_ : Keeps fx fm b0 x0)
  split
  first | with_reducible assumption | assumption
  apply State.put_keeps
  first | with_reducible assumption | assumption
  dsimp -zeta only [x0]
  apply State.setOrg_keeps
  apply State.put_keeps
  first | with_reducible assumption | assumption

theorem execChgFault_keeps {fx fm : Bool} {b0 s t : State}  (hk : Keeps fx fm b0 s) (e : execChgFault s = .next t) : Keeps fx fm b0 t := by
  unfold execChgFault at e
  cases e
  apply State.whenKeep_keeps
  first | with_reducible assumption | assumption
  extract_lets +onlyGivenNames x0
  split
  extract_lets +onlyGivenNames x1
  refine (fun (k1 : Keeps fx fm b0 x1) => ?_) (?_ : Keeps fx fm b0 x1)
  apply State.idle_keeps
  apply State.orgEvent_keeps
  apply State.orgIrq_keeps
  apply State.put_keeps
  first | with_reducible assumption | assumption
  dsimp -zeta only [x1]
  apply State.advUp_keeps
  first | with_reducible assumption | assumption
  first | with_reducible assumption | assumption

theorem State.rtcLoad_keeps {fx fm : Bool} {b0 s : State} (sec : Nat) (hk : Keeps fx fm b0 s) : Keeps fx fm b0 (State.rtcLoad s sec) := by
  unfold State.rtcLoad
  apply State.setOrg_keeps
  apply State.put_keeps
  apply State.put_keeps
  first | with_reducible assumption | assumption

theorem execRtcSecond_keeps {fx fm : Bool} {b0 s t : State}  (hk : Keeps fx fm b0 s) (e : execRtcSecond s = .next t) : Keeps fx fm b0 t := by
  unfold execRtcSecond at e
  cases e
  apply State.whenKeep_keeps
  first | with_reducible assumption | assumption
  extract_lets +onlyGivenNames x0
  refine (fun (k0 : Keeps fx fm b0 x0) => ?_) (?_ : Keeps fx fm b0 x0)
  extract_lets +onlyGivenNames x1
  refine (fun (k1 : Keeps fx fm b0 x1) => ?_) (?_ : Keeps fx fm b0 x1)
  extract_lets +onlyGivenNames x2
  split
  apply State.setOrg_keeps
  first | with_reducible assumption | assumption
  split
  apply State.setOrg_keeps
  first | with_reducible assumption | assumption
  apply State.setOrg_keeps
  first | with_reducible assumption | assumption
  dsimp -zeta only [x1]
  apply State.rtcLoad_keeps
  first | with_reducible assumption | assumption
  dsimp -zeta only [x0]
  apply State.advUp_keeps
  first | with_reducible assumption | assumption

theorem execRtcRealign_keeps {fx fm : Bool} {b0 s t : State}  (hk : Keeps fx fm b0 s) (e : execRtcRealign s = .next t) : Keeps fx fm b0 t := by
  unfold execRtcRealign at e
  cases e
  split
  extract_lets +onlyGivenNames x0
  extract_lets +onlyGivenNames x1
  refine (fun (k1 : Keeps fx fm b0 x1) => ?_) (?_ : Keeps fx fm b0 x1)
  apply State.setOrg_keeps
  apply State.put_keeps
  apply State.rtcLoad_keeps
  first | with_reducible assumption | assumption
  dsimp -zeta only [x1]
  apply State.advTo_keeps
  first | with_reducible assumption | assumption
  first | with_reducible assumption | assumption

theorem State.learnSet_keeps {fx fm : Bool} {b0 s : State} (on : Bool) (hk : Keeps fx fm b0 s) : Keeps fx fm b0 (State.learnSet s on) := by
  unfold State.learnSet
  apply State.setOrg_keeps
  first | with_reducible assumption | assumption

theorem State.rtcSet_keeps {fx fm : Bool} {b0 s : State}  (hk : Keeps fx fm b0 s) : Keeps fx fm b0 (State.rtcSet s) := by
  unfold State.rtcSet
  apply State.put_keeps
  apply State.rtcLoad_keeps
  first | with_reducible assumption | assumption

theorem execTrimLearn_keeps {fx fm : Bool} {b0 s t : State} (keep : Nat) (hk : Keeps fx fm b0 s) (e : execTrimLearn keep s = .next t) : Keeps fx fm b0 t := by
  unfold execTrimLearn at e
  cases e
  split
  split
  first | with_reducible assumption | assumption
  extract_lets +onlyGivenNames x0
  refine (fun (k0 : Keeps fx fm b0 x0) => ?_) (?_ : Keeps fx fm b0 x0)
  extract_lets +onlyGivenNames x1
  refine (fun (k1 : Keeps fx fm b0 x1) => ?_) (?_ : Keeps fx fm b0 x1)
  apply State.setOrg_keeps
  first | with_reducible assumption | assumption
  dsimp -zeta only [x1]
  apply State.put_keeps
  apply State.putCfg_keeps
  first | with_reducible assumption | assumption
  dsimp -zeta only [x0]
  apply State.advTo_keeps
  first | with_reducible assumption | assumption
  first | with_reducible assumption | assumption

theorem State.setCk_keeps {fx fm : Bool} {b0 s : State} (a v : Nat) (hk : Keeps fx fm b0 s) : Keeps fx fm b0 (State.setCk s a v) := by
  unfold State.setCk
  apply State.setOrg_keeps
  apply State.memMend_keeps
  first | with_reducible assumption | assumption

theorem State.burstStep_keeps {fx fm : Bool} {b0 s : State} (x1 : BurstStep) (hk : Keeps fx fm b0 s) : Keeps fx fm b0 (State.burstStep s x1) := by
  unfold State.burstStep
  split
  apply State.setCk_keeps
  first | with_reducible assumption | assumption
  extract_lets +onlyGivenNames x0
  refine (fun (k0 : Keeps fx fm b0 x0) => ?_) (?_ : Keeps fx fm b0 x0)
  extract_lets +onlyGivenNames x1
  refine (fun (k1 : Keeps fx fm b0 x1) => ?_) (?_ : Keeps fx fm b0 x1)
  extract_lets +onlyGivenNames x2
  refine (fun (k2 : Keeps fx fm b0 x2) => ?_) (?_ : Keeps fx fm b0 x2)
  split
  apply State.orgEvent_keeps
  apply State.orgIrq_keeps
  apply State.put_keeps
  first | with_reducible assumption | assumption
  first | with_reducible assumption | assumption
  dsimp -zeta only [x2]
  apply State.put_keeps
  first | with_reducible assumption | assumption
  dsimp -zeta only [x1]
  apply State.bumpSat_keeps
  first | with_reducible assumption | assumption
  dsimp -zeta only [x0]
  apply State.put_keeps
  apply State.put_keeps
  apply State.put_keeps
  first | with_reducible assumption | assumption
  apply State.setOrg_keeps
  first | with_reducible assumption | assumption
  apply State.setOrg_keeps
  first | with_reducible assumption | assumption

theorem State.runSteps_keeps {fx fm : Bool} {b0 s : State} (l : List BurstStep) (hk : Keeps fx fm b0 s) : Keeps fx fm b0 (State.runSteps s l) := by
  unfold State.runSteps
  apply Keeps.foldl
  first | with_reducible assumption | assumption
  intro v0
  intro v1
  intro v2
  apply State.burstStep_keeps
  first | with_reducible assumption | assumption

theorem State.ckService_keeps {fx fm : Bool} {b0 s : State}  (hk : Keeps fx fm b0 s) : Keeps fx fm b0 (State.ckService s) := by
  unfold State.ckService
  extract_lets +onlyGivenNames x0
  extract_lets +onlyGivenNames x1
  apply State.putB_keeps
  apply State.put_keeps
  first | with_reducible assumption | assumption

theorem State.retireRec_keeps {fx fm : Bool} {b0 s : State} (r : Nat) (hk : Keeps fx fm b0 s) : Keeps fx fm b0 (State.retireRec s r) := by
  unfold State.retireRec
  split
  first | with_reducible assumption | assumption
  extract_lets +onlyGivenNames x0
  extract_lets +onlyGivenNames x1
  refine (fun (k1 : Keeps fx fm b0 x1) => ?_) (?_ : Keeps fx fm b0 x1)
  apply State.orgEvent_keeps
  apply State.orgIrq_keeps
  first | with_reducible assumption | assumption
  dsimp -zeta only [x1]
  apply State.ckService_keeps
  apply State.setOrg_keeps
  first | with_reducible assumption | assumption

theorem State.ckHeader_keeps {fx fm : Bool} {b0 s : State} (rec slot : Nat) (hk : Keeps fx fm b0 s) : Keeps fx fm b0 (State.ckHeader s rec slot) := by
  unfold State.ckHeader
  extract_lets +onlyGivenNames x0
  extract_lets +onlyGivenNames x1
  refine (fun (k1 : Keeps fx fm b0 x1) => ?_) (?_ : Keeps fx fm b0 x1)
  split
  apply State.retireRec_keeps
  first | with_reducible assumption | assumption
  first | with_reducible assumption | assumption
  dsimp -zeta only [x1]
  apply State.memRead_keeps
  first | with_reducible assumption | assumption

theorem State.commitNext_keeps {fx fm : Bool} {b0 s : State} (content : List Nat) (final : Bool) (hk : Keeps fx fm b0 s) : Keeps fx fm b0 (State.commitNext s content final) := by
  unfold State.commitNext
  extract_lets +onlyGivenNames x0
  extract_lets +onlyGivenNames x1
  extract_lets +onlyGivenNames x2
  refine (fun (k2 : Keeps fx fm b0 x2) => ?_) (?_ : Keeps fx fm b0 x2)
  apply State.put_keeps
  apply State.runSteps_keeps
  first | with_reducible assumption | assumption
  dsimp -zeta only [x2]
  apply State.runSteps_keeps
  first | with_reducible assumption | assumption

theorem State.commitOn_keeps {fx fm : Bool} {b0 s : State} (content : List Nat) (verified : Bool) (hk : Keeps fx fm b0 s) : Keeps fx fm b0 (State.commitOn s content verified) := by
  unfold State.commitOn
  split
  apply State.commitNext_keeps
  first | with_reducible assumption | assumption
  extract_lets +onlyGivenNames x0
  extract_lets +onlyGivenNames x1
  refine (fun (k1 : Keeps fx fm b0 x1) => ?_) (?_ : Keeps fx fm b0 x1)
  apply State.commitNext_keeps
  apply State.retireRec_keeps
  first | with_reducible assumption | assumption
  dsimp -zeta only [x1]
  apply State.runSteps_keeps
  first | with_reducible assumption | assumption

theorem State.commitPart_keeps {fx fm : Bool} {b0 s : State} (part : Option Nat) (hk : Keeps fx fm b0 s) : Keeps fx fm b0 (State.commitPart s part) := by
  unfold State.commitPart
  split
  extract_lets +onlyGivenNames x0
  split
  apply State.runSteps_keeps
  first | with_reducible assumption | assumption
  first | with_reducible assumption | assumption
  first | with_reducible assumption | assumption

theorem execCheckpointCommit_keeps {fx fm : Bool} {b0 s t : State} (verified : Bool) (hk : Keeps fx fm b0 s) (e : execCheckpointCommit verified s = .next t) : Keeps fx fm b0 t := by
  unfold execCheckpointCommit at e
  cases e
  split
  split
  first | with_reducible assumption | assumption
  extract_lets +onlyGivenNames x0
  refine (fun (k0 : Keeps fx fm b0 x0) => ?_) (?_ : Keeps fx fm b0 x0)
  extract_lets +onlyGivenNames x1
  extract_lets +onlyGivenNames x2
  refine (fun (k2 : Keeps fx fm b0 x2) => ?_) (?_ : Keeps fx fm b0 x2)
  split
  apply State.commitOn_keeps
  first | with_reducible assumption | assumption
  extract_lets +onlyGivenNames x3
  split
  apply State.runSteps_keeps
  first | with_reducible assumption | assumption
  apply State.commitNext_keeps
  apply State.retireRec_keeps
  apply State.runSteps_keeps
  first | with_reducible assumption | assumption
  dsimp -zeta only [x2]
  split
  first | with_reducible assumption | assumption
  apply State.ckHeader_keeps
  first | with_reducible assumption | assumption
  dsimp -zeta only [x0]
  apply State.setOrg_keeps
  first | with_reducible assumption | assumption
  first | with_reducible assumption | assumption

theorem State.loadLife_keeps {fx fm : Bool} {b0 s : State}  (hk : Keeps fx fm b0 s) : Keeps fx fm b0 (State.loadLife s) := by
  unfold State.loadLife
  extract_lets +onlyGivenNames x0
  apply State.put_keeps
  apply State.put_keeps
  apply State.put_keeps
  apply State.put_keeps
  apply State.put_keeps
  first | with_reducible assumption | assumption

theorem execLifeWrite_keeps {fx fm : Bool} {b0 s t : State}  (hk : Keeps fx fm b0 s) (e : execLifeWrite s = .next t) : Keeps fx fm b0 t := by
  unfold execLifeWrite at e
  cases e
  split
  extract_lets +onlyGivenNames x0
  refine (fun (k0 : Keeps fx fm b0 x0) => ?_) (?_ : Keeps fx fm b0 x0)
  extract_lets +onlyGivenNames x1
  refine (fun (k1 : Keeps fx fm b0 x1) => ?_) (?_ : Keeps fx fm b0 x1)
  extract_lets +onlyGivenNames x2
  refine (fun (k2 : Keeps fx fm b0 x2) => ?_) (?_ : Keeps fx fm b0 x2)
  apply State.put_keeps
  apply State.runSteps_keeps
  apply State.memRead_keeps
  first | with_reducible assumption | assumption
  dsimp -zeta only [x2]
  split
  first | with_reducible assumption | assumption
  apply State.bumpSat_keeps
  first | with_reducible assumption | assumption
  dsimp -zeta only [x1]
  apply State.setOrg_keeps
  first | with_reducible assumption | assumption
  dsimp -zeta only [x0]
  apply State.advUp_keeps
  first | with_reducible assumption | assumption
  first | with_reducible assumption | assumption

theorem State.settleBurst_keeps {fx fm : Bool} {b0 s : State}  (hk : Keeps fx fm b0 s) : Keeps fx fm b0 (State.settleBurst s) := by
  unfold State.settleBurst
  apply State.put_keeps
  apply State.setOrg_keeps
  apply State.runSteps_keeps
  first | with_reducible assumption | assumption

theorem State.cutBurst_keeps {fx fm : Bool} {b0 s : State} (n : Nat) (hk : Keeps fx fm b0 s) : Keeps fx fm b0 (State.cutBurst s n) := by
  unfold State.cutBurst
  split
  first | with_reducible assumption | assumption
  extract_lets +onlyGivenNames x0
  extract_lets +onlyGivenNames x1
  refine (fun (k1 : Keeps fx fm b0 x1) => ?_) (?_ : Keeps fx fm b0 x1)
  extract_lets +onlyGivenNames x2
  refine (fun (k2 : Keeps fx fm b0 x2) => ?_) (?_ : Keeps fx fm b0 x2)
  split
  apply State.put_keeps
  first | with_reducible assumption | assumption
  first | with_reducible assumption | assumption
  dsimp -zeta only [x2]
  apply State.put_keeps
  apply State.setOrg_keeps
  first | with_reducible assumption | assumption
  dsimp -zeta only [x1]
  apply State.runSteps_keeps
  first | with_reducible assumption | assumption

theorem State.finalBurst_keeps {fx fm : Bool} {b0 s : State} (pfail : Option Nat) (hk : Keeps fx fm b0 s) : Keeps fx fm b0 (State.finalBurst s pfail) := by
  unfold State.finalBurst
  extract_lets +onlyGivenNames x0
  refine (fun (k0 : Keeps fx fm b0 x0) => ?_) (?_ : Keeps fx fm b0 x0)
  split
  apply State.setOrg_keeps
  apply State.put_keeps
  first | with_reducible assumption | assumption
  extract_lets +onlyGivenNames x1
  extract_lets +onlyGivenNames x2
  apply State.put_keeps
  apply State.setOrg_keeps
  first | with_reducible assumption | assumption
  dsimp -zeta only [x0]
  split
  apply State.put_keeps
  apply State.put_keeps
  first | with_reducible assumption | assumption
  first | with_reducible assumption | assumption

theorem execBurstEnergyLost_keeps {fx fm : Bool} {b0 s t : State} (words : Nat) (hk : Keeps fx fm b0 s) (e : execBurstEnergyLost words s = .next t) : Keeps fx fm b0 t := by
  unfold execBurstEnergyLost at e
  cases e
  apply State.whenKeep_keeps
  first | with_reducible assumption | assumption
  apply State.cutBurst_keeps
  first | with_reducible assumption | assumption

theorem execHousekeepingBurst_keeps {fx fm : Bool} {b0 s t : State}  (hk : Keeps fx fm b0 s) (e : execHousekeepingBurst s = .next t) : Keeps fx fm b0 t := by
  unfold execHousekeepingBurst at e
  cases e
  split
  extract_lets +onlyGivenNames x0
  refine (fun (k0 : Keeps fx fm b0 x0) => ?_) (?_ : Keeps fx fm b0 x0)
  extract_lets +onlyGivenNames x1
  refine (fun (k1 : Keeps fx fm b0 x1) => ?_) (?_ : Keeps fx fm b0 x1)
  extract_lets +onlyGivenNames x2
  refine (fun (k2 : Keeps fx fm b0 x2) => ?_) (?_ : Keeps fx fm b0 x2)
  split
  first | with_reducible assumption | assumption
  extract_lets +onlyGivenNames x3
  refine (fun (k3 : Keeps fx fm b0 x3) => ?_) (?_ : Keeps fx fm b0 x3)
  split
  apply State.put_keeps
  apply State.setOrg_keeps
  first | with_reducible assumption | assumption
  apply State.put_keeps
  first | with_reducible assumption | assumption
  dsimp -zeta only [x3]
  apply State.bumpSat_keeps
  first | with_reducible assumption | assumption
  dsimp -zeta only [x2]
  apply State.setOrg_keeps
  first | with_reducible assumption | assumption
  dsimp -zeta only [x1]
  apply State.advUp_keeps
  first | with_reducible assumption | assumption
  dsimp -zeta only [x0]
  apply State.settleBurst_keeps
  first | with_reducible assumption | assumption
  first | with_reducible assumption | assumption

theorem execTempRead_keeps {fx fm : Bool} {b0 s t : State} (temp : Int) (hk : Keeps fx fm b0 s) (e : execTempRead temp s = .next t) : Keeps fx fm b0 t := by
  unfold execTempRead at e
  cases e
  apply State.whenKeep_keeps
  first | with_reducible assumption | assumption
  split
  first | with_reducible assumption | assumption
  extract_lets +onlyGivenNames x0
  extract_lets +onlyGivenNames x1
  refine (fun (k1 : Keeps fx fm b0 x1) => ?_) (?_ : Keeps fx fm b0 x1)
  extract_lets +onlyGivenNames x2
  refine (fun (k2 : Keeps fx fm b0 x2) => ?_) (?_ : Keeps fx fm b0 x2)
  split
  apply State.setOrg_keeps
  apply State.bumpSat_keeps
  first | with_reducible assumption | assumption
  first | with_reducible assumption | assumption
  dsimp -zeta only [x2]
  split
  apply State.setOrg_keeps
  first | with_reducible assumption | assumption
  first | with_reducible assumption | assumption
  dsimp -zeta only [x1]
  apply State.putI_keeps
  first | with_reducible assumption | assumption

theorem State.originAge_keeps {fx fm : Bool} {b0 s : State} (count : Nat) (hk : Keeps fx fm b0 s) : Keeps fx fm b0 (State.originAge s count) := by
  unfold State.originAge
  split
  extract_lets +onlyGivenNames x0
  refine (fun (k0 : Keeps fx fm b0 x0) => ?_) (?_ : Keeps fx fm b0 x0)
  split
  apply State.put_keeps
  first | with_reducible assumption | assumption
  first | with_reducible assumption | assumption
  dsimp -zeta only [x0]
  apply State.put_keeps
  first | with_reducible assumption | assumption
  first | with_reducible assumption | assumption

theorem State.originInit_keeps {fx fm : Bool} {b0 s : State} (h : Keeps fx fm b0 s) : Keeps fx fm b0 s.originInit := by
  unfold State.originInit

  extract_lets b x y old o
  have kx : Keeps fx fm b0 x := h.trans ⟨rfl, Nat.le_refl _, fun w => ⟨Tab.wf_filter _ _ _ w.1, w.2⟩, fun _ => ⟨rfl, rfl⟩, fun _ => rfl⟩
  have ky : Keeps fx fm b0 y := State.loadLife_keeps (State.ckService_keeps kx)
  clear_value y
  apply State.put_keeps
  apply State.bumpSat_keeps
  exact ky.lit rfl rfl

theorem execOriginPowerOn_keeps {fx fm : Bool} {b0 s t : State}  (hk : Keeps fx fm b0 s) (e : execOriginPowerOn s = .next t) : Keeps fx fm b0 t := by
  unfold execOriginPowerOn at e
  cases e
  split
  first | with_reducible assumption | assumption
  apply State.originInit_keeps
  first | with_reducible assumption | assumption

theorem execVkeepLoss_keeps {fx fm : Bool} {b0 s t : State} (words : Nat) (hk : Keeps fx fm b0 s) (e : execVkeepLoss words s = .next t) : Keeps fx fm b0 t := by
  unfold execVkeepLoss at e
  cases e
  split
  apply State.setOrg_keeps
  apply State.cutBurst_keeps
  first | with_reducible assumption | assumption
  first | with_reducible assumption | assumption

theorem State.ckptScan_keeps {fx fm : Bool} {b0 s : State}  (hk : Keeps fx fm b0 s) : Keeps fx fm b0 (State.ckptScan s) := by
  unfold State.ckptScan
  apply Keeps.foldl
  first | with_reducible assumption | assumption
  intro v0
  intro v1
  intro v2
  apply State.memRead_keeps
  first | with_reducible assumption | assumption

theorem State.ckptRetire_keeps {fx fm : Bool} {b0 s : State}  (hk : Keeps fx fm b0 s) : Keeps fx fm b0 (State.ckptRetire s) := by
  unfold State.ckptRetire
  apply State.forEach_keeps
  first | with_reducible assumption | assumption
  intro v0
  intro v1
  intro v2
  apply State.retireRec_keeps
  first | with_reducible assumption | assumption

theorem State.originRestore_keeps {fx fm : Bool} {b0 s : State}  (hk : Keeps fx fm b0 s) : Keeps fx fm b0 (State.originRestore s) := by
  unfold State.originRestore
  extract_lets +onlyGivenNames x0
  refine (fun (k0 : Keeps fx fm b0 x0) => ?_) (?_ : Keeps fx fm b0 x0)
  extract_lets +onlyGivenNames x1
  extract_lets +onlyGivenNames x2
  extract_lets +onlyGivenNames x3
  extract_lets +onlyGivenNames x4
  extract_lets +onlyGivenNames x5
  extract_lets +onlyGivenNames x6
  refine (fun (k6 : Keeps fx fm b0 x6) => ?_) (?_ : Keeps fx fm b0 x6)
  extract_lets +onlyGivenNames x7
  refine (fun (k7 : Keeps fx fm b0 x7) => ?_) (?_ : Keeps fx fm b0 x7)
  extract_lets +onlyGivenNames x8
  extract_lets +onlyGivenNames x9
  refine (fun (k9 : Keeps fx fm b0 x9) => ?_) (?_ : Keeps fx fm b0 x9)
  extract_lets +onlyGivenNames x10
  extract_lets +onlyGivenNames x11
  refine (fun (k11 : Keeps fx fm b0 x11) => ?_) (?_ : Keeps fx fm b0 x11)
  apply State.meterRestore_keeps
  apply State.setOrg_keeps
  first | with_reducible assumption | assumption
  dsimp -zeta only [x11]
  apply Keeps.foldl
  first | with_reducible assumption | assumption
  intro v12
  intro v13
  intro v14
  apply State.emit_keeps
  first | with_reducible assumption | assumption
  dsimp -zeta only [x9]
  split
  apply State.irq_keeps
  first | with_reducible assumption | assumption
  first | with_reducible assumption | assumption
  dsimp -zeta only [x7]
  clear_value x1
  split
  apply State.put_keeps
  apply State.put_keeps
  apply State.put_keeps
  first | with_reducible assumption | assumption
  first | with_reducible assumption | assumption
  dsimp -zeta only [x6]
  apply State.putB_keeps
  first | with_reducible assumption | assumption
  dsimp -zeta only [x0]
  apply State.ckptRetire_keeps
  apply State.ckptScan_keeps
  first | with_reducible assumption | assumption

end Sys2Proof.Machine
end

