-- ==== Sys2Proof/Laws/KeepsSecant.lean ====
section
/-! SUPPORT. What the operations of Machine/Secant.lean keep. -/

namespace Sys2Proof.Machine

open Sys2Proof

theorem State.setSafe_keeps {fx fm : Bool} {b0 s : State} (f : SafeSt → SafeSt) (hk : Keeps fx fm b0 s) : Keeps fx fm b0 (State.setSafe s f) := by
  unfold State.setSafe
  refine Keeps.lit ?_ rfl rfl
  first | with_reducible assumption | assumption

theorem State.safeSync_keeps {fx fm : Bool} {b0 s : State}  (hk : Keeps fx fm b0 s) : Keeps fx fm b0 (State.safeSync s) := by
  unfold State.safeSync
  extract_lets +onlyGivenNames x0
  extract_lets +onlyGivenNames x1
  extract_lets +onlyGivenNames x2
  refine (fun (k2 : Keeps fx fm b0 x2) => ?_) (?_ : Keeps fx fm b0 x2)
  extract_lets +onlyGivenNames x3
  refine (fun (k3 : Keeps fx fm b0 x3) => ?_) (?_ : Keeps fx fm b0 x3)
  extract_lets +onlyGivenNames x4
  extract_lets +onlyGivenNames x5
  refine (fun (k5 : Keeps fx fm b0 x5) => ?_) (?_ : Keeps fx fm b0 x5)
  extract_lets +onlyGivenNames x6
  extract_lets +onlyGivenNames x7
  extract_lets +onlyGivenNames x8
  refine (fun (k8 : Keeps fx fm b0 x8) => ?_) (?_ : Keeps fx fm b0 x8)
  apply State.put_keeps
  apply State.putB_keeps
  first | with_reducible assumption | assumption
  dsimp -zeta only [x8]
  apply State.putB_keeps
  apply State.putB_keeps
  first | with_reducible assumption | assumption
  dsimp -zeta only [x5]
  split
  first | with_reducible assumption | assumption
  apply State.irq_keeps
  apply State.putB_keeps
  first | with_reducible assumption | assumption
  dsimp -zeta only [x3]
  apply State.putB_keeps
  apply State.put_keeps
  first | with_reducible assumption | assumption
  dsimp -zeta only [x2]
  apply State.forEach_keeps
  first | with_reducible assumption | assumption
  intro v9
  intro v10
  intro v11
  split
  apply State.setSafe_keeps
  first | with_reducible assumption | assumption
  first | with_reducible assumption | assumption

theorem State.plantSafe_keeps {fx fm : Bool} {b0 s : State} (src bits : Nat) (hk : Keeps fx fm b0 s) : Keeps fx fm b0 (State.plantSafe s src bits) := by
  unfold State.plantSafe
  extract_lets +onlyGivenNames x0
  refine (fun (k0 : Keeps fx fm b0 x0) => ?_) (?_ : Keeps fx fm b0 x0)
  extract_lets +onlyGivenNames x1
  refine (fun (k1 : Keeps fx fm b0 x1) => ?_) (?_ : Keeps fx fm b0 x1)
  apply State.safeSync_keeps
  apply State.haltDue_keeps
  apply State.emit_keeps
  first | with_reducible assumption | assumption
  dsimp -zeta only [x1]
  apply State.put_keeps
  first | with_reducible assumption | assumption
  dsimp -zeta only [x0]
  split
  first | with_reducible assumption | assumption
  apply State.irq_keeps
  apply State.put_keeps
  first | with_reducible assumption | assumption

theorem State.driveStop_keeps {fx fm : Bool} {b0 s : State} (d src causes : Nat) (hk : Keeps fx fm b0 s) : Keeps fx fm b0 (State.driveStop s d src causes) := by
  unfold State.driveStop
  extract_lets +onlyGivenNames x0
  refine (fun (k0 : Keeps fx fm b0 x0) => ?_) (?_ : Keeps fx fm b0 x0)
  apply State.safeSync_keeps
  apply State.emit_keeps
  first | with_reducible assumption | assumption
  dsimp -zeta only [x0]
  apply State.put_keeps
  apply State.put_keeps
  first | with_reducible assumption | assumption

theorem State.askStops_keeps {fx fm : Bool} {b0 s : State}  (hk : Keeps fx fm b0 s) : Keeps fx fm b0 (State.askStops s) := by
  unfold State.askStops
  apply State.forEach_keeps
  first | with_reducible assumption | assumption
  intro v0
  intro v1
  intro v2
  split
  apply State.setSafe_keeps
  apply State.drvFault_keeps
  first | with_reducible assumption | assumption
  first | with_reducible assumption | assumption

theorem State.safeFault_keeps {fx fm : Bool} {b0 s : State} (bit : Nat) (hk : Keeps fx fm b0 s) : Keeps fx fm b0 (State.safeFault s bit) := by
  unfold State.safeFault
  split
  first | with_reducible assumption | assumption
  extract_lets +onlyGivenNames x0
  refine (fun (k0 : Keeps fx fm b0 x0) => ?_) (?_ : Keeps fx fm b0 x0)
  extract_lets +onlyGivenNames x1
  refine (fun (k1 : Keeps fx fm b0 x1) => ?_) (?_ : Keeps fx fm b0 x1)
  apply State.safeSync_keeps
  apply State.forEach_keeps
  first | with_reducible assumption | assumption
  intro v2
  intro v3
  intro v4
  extract_lets +onlyGivenNames x5
  refine (fun (k5 : Keeps fx fm b0 x5) => ?_) (?_ : Keeps fx fm b0 x5)
  apply State.forEach_keeps
  first | with_reducible assumption | assumption
  intro v6
  intro v7
  intro v8
  apply State.driveStop_keeps
  first | with_reducible assumption | assumption
  dsimp -zeta only [x5]
  apply State.plantSafe_keeps
  apply State.emit_keeps
  first | with_reducible assumption | assumption
  dsimp -zeta only [x1]
  split
  apply State.irq_keeps
  first | with_reducible assumption | assumption
  first | with_reducible assumption | assumption
  dsimp -zeta only [x0]
  apply State.irq_keeps
  apply State.put_keeps
  first | with_reducible assumption | assumption

theorem State.pairTrack_keeps {fx fm : Bool} {b0 s : State} (x : Nat) (chord : Bool) (hk : Keeps fx fm b0 s) : Keeps fx fm b0 (State.pairTrack s x chord) := by
  unfold State.pairTrack
  extract_lets +onlyGivenNames x0
  extract_lets +onlyGivenNames x1
  extract_lets +onlyGivenNames x2
  extract_lets +onlyGivenNames x3
  apply State.setSafe_keeps
  first | with_reducible assumption | assumption

theorem State.pairJudge_keeps {fx fm : Bool} {b0 s : State} (x : Nat) (hk : Keeps fx fm b0 s) : Keeps fx fm b0 (State.pairJudge s x) := by
  unfold State.pairJudge
  extract_lets +onlyGivenNames x0
  refine (fun (k0 : Keeps fx fm b0 x0) => ?_) (?_ : Keeps fx fm b0 x0)
  extract_lets +onlyGivenNames x1
  refine (fun (k1 : Keeps fx fm b0 x1) => ?_) (?_ : Keeps fx fm b0 x1)
  apply State.putB_keeps
  first | with_reducible assumption | assumption
  dsimp -zeta only [x1]
  split
  apply State.setSafe_keeps
  apply State.put_keeps
  first | with_reducible assumption | assumption
  first | with_reducible assumption | assumption
  dsimp -zeta only [x0]
  apply State.pairTrack_keeps
  apply State.pairTrack_keeps
  first | with_reducible assumption | assumption

theorem State.pairsJudge_keeps {fx fm : Bool} {b0 s : State}  (hk : Keeps fx fm b0 s) : Keeps fx fm b0 (State.pairsJudge s) := by
  unfold State.pairsJudge
  apply State.forEach_keeps
  first | with_reducible assumption | assumption
  intro v0
  intro v1
  intro v2
  apply State.pairJudge_keeps
  first | with_reducible assumption | assumption

theorem State.setLevB_keeps {fx fm : Bool} {b0 s : State} (x : Nat) (b level : Bool) (hk : Keeps fx fm b0 s) : Keeps fx fm b0 (State.setLevB s x b level) := by
  unfold State.setLevB
  extract_lets +onlyGivenNames x0
  apply State.setSafe_keeps
  first | with_reducible assumption | assumption

theorem execSinLevelChange_keeps {fx fm : Bool} {b0 s t : State} (pair : Fin 8) (b : Bool) (level : Bool) (rx : BitVec 2) (hk : Keeps fx fm b0 s) (e : execSinLevelChange pair b level rx s = .next t) : Keeps fx fm b0 t := by
  unfold execSinLevelChange at e
  cases e
  apply State.whenAlive_keeps
  first | with_reducible assumption | assumption
  extract_lets +onlyGivenNames x0
  refine (fun (k0 : Keeps fx fm b0 x0) => ?_) (?_ : Keeps fx fm b0 x0)
  apply State.pairJudge_keeps
  split
  apply State.setLevB_keeps
  first | with_reducible assumption | assumption
  first | with_reducible assumption | assumption
  dsimp -zeta only [x0]
  split
  apply State.putB_keeps
  first | with_reducible assumption | assumption
  first | with_reducible assumption | assumption

theorem State.discLatch_keeps {fx fm : Bool} {b0 s : State} (x : Nat) (found : List Nat) (hk : Keeps fx fm b0 s) : Keeps fx fm b0 (State.discLatch s x found) := by
  unfold State.discLatch
  extract_lets +onlyGivenNames x0
  refine (fun (k0 : Keeps fx fm b0 x0) => ?_) (?_ : Keeps fx fm b0 x0)
  extract_lets +onlyGivenNames x1
  refine (fun (k1 : Keeps fx fm b0 x1) => ?_) (?_ : Keeps fx fm b0 x1)
  apply State.forEach_keeps
  first | with_reducible assumption | assumption
  intro v2
  intro v3
  intro v4
  apply State.emit_keeps
  first | with_reducible assumption | assumption
  dsimp -zeta only [x1]
  apply State.setSafe_keeps
  first | with_reducible assumption | assumption
  dsimp -zeta only [x0]
  apply State.put_keeps
  apply State.put_keeps
  first | with_reducible assumption | assumption

theorem execDiscrepancy_keeps {fx fm : Bool} {b0 s t : State} (pair : Fin 8) (hk : Keeps fx fm b0 s) (e : execDiscrepancy pair s = .next t) : Keeps fx fm b0 t := by
  unfold execDiscrepancy at e
  cases e
  apply State.whenAlive_keeps
  first | with_reducible assumption | assumption
  extract_lets +onlyGivenNames x0
  split
  extract_lets +onlyGivenNames x1
  refine (fun (k1 : Keeps fx fm b0 x1) => ?_) (?_ : Keeps fx fm b0 x1)
  apply State.idle_keeps
  apply State.discLatch_keeps
  first | with_reducible assumption | assumption
  dsimp -zeta only [x1]
  apply State.advUp_keeps
  first | with_reducible assumption | assumption
  first | with_reducible assumption | assumption

theorem State.react_keeps {fx fm : Bool} {b0 s : State} (src v old : Nat) (hk : Keeps fx fm b0 s) : Keeps fx fm b0 (State.react s src v old) := by
  unfold State.react
  extract_lets +onlyGivenNames x0
  extract_lets +onlyGivenNames x1
  extract_lets +onlyGivenNames x2
  refine (fun (k2 : Keeps fx fm b0 x2) => ?_) (?_ : Keeps fx fm b0 x2)
  apply State.forEach_keeps
  first | with_reducible assumption | assumption
  intro v3
  intro v4
  intro v5
  extract_lets +onlyGivenNames x6
  split
  first | with_reducible assumption | assumption
  apply State.driveStop_keeps
  first | with_reducible assumption | assumption
  dsimp -zeta only [x2]
  split
  first | with_reducible assumption | assumption
  apply State.plantSafe_keeps
  first | with_reducible assumption | assumption

theorem State.crossTrack_keeps {fx fm : Bool} {b0 s : State}  (hk : Keeps fx fm b0 s) : Keeps fx fm b0 (State.crossTrack s) := by
  unfold State.crossTrack
  apply State.setSafe_keeps
  first | with_reducible assumption | assumption

theorem State.sdirClear_keeps {fx fm : Bool} {b0 s : State} (d : Nat) (hk : Keeps fx fm b0 s) : Keeps fx fm b0 (State.sdirClear s d) := by
  unfold State.sdirClear
  extract_lets +onlyGivenNames x0
  extract_lets +onlyGivenNames x1
  apply State.setChord_keeps
  first | with_reducible assumption | assumption

theorem execChordEvaluation_keeps {fx fm : Bool} {b0 s t : State} (sfb : BitVec 4) (hk : Keeps fx fm b0 s) (e : execChordEvaluation sfb s = .next t) : Keeps fx fm b0 t := by
  unfold execChordEvaluation at e
  cases e
  apply State.whenAlive_keeps
  first | with_reducible assumption | assumption
  extract_lets +onlyGivenNames x0
  refine (fun (k0 : Keeps fx fm b0 x0) => ?_) (?_ : Keeps fx fm b0 x0)
  extract_lets +onlyGivenNames x1
  refine (fun (k1 : Keeps fx fm b0 x1) => ?_) (?_ : Keeps fx fm b0 x1)
  extract_lets +onlyGivenNames x2
  extract_lets +onlyGivenNames x3
  refine (fun (k3 : Keeps fx fm b0 x3) => ?_) (?_ : Keeps fx fm b0 x3)
  extract_lets +onlyGivenNames x4
  refine (fun (k4 : Keeps fx fm b0 x4) => ?_) (?_ : Keeps fx fm b0 x4)
  extract_lets +onlyGivenNames x5
  refine (fun (k5 : Keeps fx fm b0 x5) => ?_) (?_ : Keeps fx fm b0 x5)
  apply State.crossTrack_keeps
  apply State.safeSync_keeps
  first | with_reducible assumption | assumption
  dsimp -zeta only [x5]
  apply State.forEach_keeps
  first | with_reducible assumption | assumption
  intro v6
  intro v7
  intro v8
  apply State.setChord_keeps
  first | with_reducible assumption | assumption
  dsimp -zeta only [x4]
  apply State.setSafe_keeps
  first | with_reducible assumption | assumption
  dsimp -zeta only [x3]
  apply State.react_keeps
  first | with_reducible assumption | assumption
  dsimp -zeta only [x1]
  apply State.forEach_keeps
  first | with_reducible assumption | assumption
  intro v9
  intro v10
  intro v11
  apply State.sdirClear_keeps
  apply State.chordWindow_keeps
  first | with_reducible assumption | assumption
  dsimp -zeta only [x0]
  apply State.put_keeps
  first | with_reducible assumption | assumption

theorem State.setConn_keeps {fx fm : Bool} {b0 s : State} (c : Nat) (f : ConnSt → ConnSt) (hk : Keeps fx fm b0 s) : Keeps fx fm b0 (State.setConn s c f) := by
  unfold State.setConn
  apply State.setSafe_keeps
  first | with_reducible assumption | assumption

theorem State.connWait_keeps {fx fm : Bool} {b0 s : State} (c : Nat) (hk : Keeps fx fm b0 s) : Keeps fx fm b0 (State.connWait s c) := by
  unfold State.connWait
  apply State.setConn_keeps
  apply State.put_keeps
  apply State.put_keeps
  first | with_reducible assumption | assumption

theorem State.connFail_keeps {fx fm : Bool} {b0 s : State} (c : Nat) (wd : Bool) (hk : Keeps fx fm b0 s) : Keeps fx fm b0 (State.connFail s c wd) := by
  unfold State.connFail
  apply State.emit_keeps
  apply State.setConn_keeps
  apply State.put_keeps
  first | with_reducible assumption | assumption

theorem State.connShow_keeps {fx fm : Bool} {b0 s : State} (c : Nat) (hk : Keeps fx fm b0 s) : Keeps fx fm b0 (State.connShow s c) := by
  unfold State.connShow
  extract_lets +onlyGivenNames x0
  apply State.put_keeps
  apply State.setConn_keeps
  first | with_reducible assumption | assumption

theorem State.connEnable_keeps {fx fm : Bool} {b0 s : State} (c : Nat) (hk : Keeps fx fm b0 s) : Keeps fx fm b0 (State.connEnable s c) := by
  unfold State.connEnable
  extract_lets +onlyGivenNames x0
  extract_lets +onlyGivenNames x1
  split
  apply State.connWait_keeps
  first | with_reducible assumption | assumption
  split
  apply State.setConn_keeps
  apply State.put_keeps
  first | with_reducible assumption | assumption
  first | with_reducible assumption | assumption

theorem State.frameDrop_keeps {fx fm : Bool} {b0 s : State} (c : Nat) (id scv sq : Bool) (hk : Keeps fx fm b0 s) : Keeps fx fm b0 (State.frameDrop s c id scv sq) := by
  unfold State.frameDrop
  extract_lets +onlyGivenNames x0
  refine (fun (k0 : Keeps fx fm b0 x0) => ?_) (?_ : Keeps fx fm b0 x0)
  extract_lets +onlyGivenNames x1
  refine (fun (k1 : Keeps fx fm b0 x1) => ?_) (?_ : Keeps fx fm b0 x1)
  split
  extract_lets +onlyGivenNames x2
  refine (fun (k2 : Keeps fx fm b0 x2) => ?_) (?_ : Keeps fx fm b0 x2)
  split
  apply State.connFail_keeps
  first | with_reducible assumption | assumption
  first | with_reducible assumption | assumption
  dsimp -zeta only [x2]
  apply State.connShow_keeps
  apply State.setConn_keeps
  first | with_reducible assumption | assumption
  first | with_reducible assumption | assumption
  dsimp -zeta only [x1]
  split
  first | with_reducible assumption | assumption
  apply State.setConn_keeps
  apply State.emit_keeps
  first | with_reducible assumption | assumption
  dsimp -zeta only [x0]
  apply State.bumpSat_keeps
  first | with_reducible assumption | assumption

theorem State.frameTake_keeps {fx fm : Bool} {b0 s : State} (c : Nat) (f : Nat) (hk : Keeps fx fm b0 s) : Keeps fx fm b0 (State.frameTake s c f) := by
  unfold State.frameTake
  extract_lets +onlyGivenNames x0
  extract_lets +onlyGivenNames x1
  extract_lets +onlyGivenNames x2
  refine (fun (k2 : Keeps fx fm b0 x2) => ?_) (?_ : Keeps fx fm b0 x2)
  apply State.setConn_keeps
  first | with_reducible assumption | assumption
  dsimp -zeta only [x2]
  apply State.put_keeps
  apply State.put_keeps
  first | with_reducible assumption | assumption

theorem State.frameJudge_keeps {fx fm : Bool} {b0 s : State} (c : Nat) (f : Nat) (hk : Keeps fx fm b0 s) : Keeps fx fm b0 (State.frameJudge s c f) := by
  unfold State.frameJudge
  extract_lets +onlyGivenNames x0
  extract_lets +onlyGivenNames x1
  extract_lets +onlyGivenNames x2
  extract_lets +onlyGivenNames x3
  split
  apply State.frameDrop_keeps
  first | with_reducible assumption | assumption
  split
  apply State.frameTake_keeps
  first | with_reducible assumption | assumption
  apply State.frameDrop_keeps
  first | with_reducible assumption | assumption

theorem State.framesRead_keeps {fx fm : Bool} {b0 s : State} (c : Nat) (x1 : Nat) (hk : Keeps fx fm b0 s) : Keeps fx fm b0 (State.framesRead s c x1) := by
  induction x1 generalizing s  with
  | zero =>
    unfold State.framesRead
    first | with_reducible assumption | assumption
  | succ n ih =>
    unfold State.framesRead
    split
    apply ih
    apply State.ringPop_keeps
    apply State.frameJudge_keeps
    first | with_reducible assumption | assumption
    first | with_reducible assumption | assumption

theorem State.connCycle_keeps {fx fm : Bool} {b0 s : State} (c : Nat) (hk : Keeps fx fm b0 s) : Keeps fx fm b0 (State.connCycle s c) := by
  unfold State.connCycle
  extract_lets +onlyGivenNames x0
  refine (fun (k0 : Keeps fx fm b0 x0) => ?_) (?_ : Keeps fx fm b0 x0)
  apply State.connShow_keeps
  split
  first | with_reducible assumption | assumption
  apply State.framesRead_keeps
  first | with_reducible assumption | assumption
  dsimp -zeta only [x0]
  apply State.connEnable_keeps
  first | with_reducible assumption | assumption

theorem execSafeFrameTx_keeps {fx : Bool} {b0 s t : State} (conn : Fin 2) (hk : Keeps fx false b0 s) (e : execSafeFrameTx conn s = .next t) : Keeps fx false b0 t := by
  unfold execSafeFrameTx at e
  cases e
  apply State.whenAlive_keeps
  first | with_reducible assumption | assumption
  extract_lets +onlyGivenNames x0
  extract_lets +onlyGivenNames x1
  split
  extract_lets +onlyGivenNames x2
  refine (fun (k2 : Keeps fx false b0 x2) => ?_) (?_ : Keeps fx false b0 x2)
  extract_lets +onlyGivenNames x3
  extract_lets +onlyGivenNames x4
  extract_lets +onlyGivenNames x5
  apply State.ringPush_keeps
  apply State.setConn_keeps
  apply State.put_keeps
  first | with_reducible assumption | assumption
  dsimp -zeta only [x2]
  apply State.advUp_keeps
  first | with_reducible assumption | assumption
  first | with_reducible assumption | assumption

theorem execConnFail_keeps {fx fm : Bool} {b0 s t : State} (conn : Fin 2) (hk : Keeps fx fm b0 s) (e : execConnFail conn s = .next t) : Keeps fx fm b0 t := by
  unfold execConnFail at e
  cases e
  apply State.whenAlive_keeps
  first | with_reducible assumption | assumption
  split
  split
  apply State.idle_keeps
  apply State.connFail_keeps
  apply State.advUp_keeps
  first | with_reducible assumption | assumption
  first | with_reducible assumption | assumption
  first | with_reducible assumption | assumption

theorem State.connRestart_keeps {fx fm : Bool} {b0 s : State} (c : Nat) (hk : Keeps fx fm b0 s) : Keeps fx fm b0 (State.connRestart s c) := by
  unfold State.connRestart
  split
  first | with_reducible assumption | assumption
  apply State.connWait_keeps
  first | with_reducible assumption | assumption

theorem State.parTake_keeps {fx fm : Bool} {b0 s : State}  (hk : Keeps fx fm b0 s) : Keeps fx fm b0 (State.parTake s) := by
  unfold State.parTake
  extract_lets +onlyGivenNames x0
  extract_lets +onlyGivenNames x1
  split
  first | with_reducible assumption | assumption
  apply State.put_keeps
  apply State.setSafe_keeps
  first | with_reducible assumption | assumption

theorem State.cycleCounts_keeps {fx fm : Bool} {b0 s : State}  (hk : Keeps fx fm b0 s) : Keeps fx fm b0 (State.cycleCounts s) := by
  unfold State.cycleCounts
  extract_lets +onlyGivenNames x0
  extract_lets +onlyGivenNames x1
  refine (fun (k1 : Keeps fx fm b0 x1) => ?_) (?_ : Keeps fx fm b0 x1)
  apply State.forEach_keeps
  first | with_reducible assumption | assumption
  intro v2
  intro v3
  intro v4
  extract_lets +onlyGivenNames x5
  apply State.setChord_keeps
  apply State.sdirClear_keeps
  first | with_reducible assumption | assumption
  dsimp -zeta only [x1]
  apply State.setSafe_keeps
  first | with_reducible assumption | assumption

theorem State.injected_keeps {fx fm : Bool} {b0 s : State}  (hk : Keeps fx fm b0 s) : Keeps fx fm b0 (State.injected s) := by
  unfold State.injected
  extract_lets +onlyGivenNames x0
  extract_lets +onlyGivenNames x1
  refine (fun (k1 : Keeps fx fm b0 x1) => ?_) (?_ : Keeps fx fm b0 x1)
  extract_lets +onlyGivenNames x2
  refine (fun (k2 : Keeps fx fm b0 x2) => ?_) (?_ : Keeps fx fm b0 x2)
  split
  apply State.safeFault_keeps
  first | with_reducible assumption | assumption
  first | with_reducible assumption | assumption
  dsimp -zeta only [x2]
  split
  apply State.safeFault_keeps
  first | with_reducible assumption | assumption
  first | with_reducible assumption | assumption
  dsimp -zeta only [x1]
  apply State.setSafe_keeps
  first | with_reducible assumption | assumption

theorem State.secantMems_keeps {fx fm : Bool} {b0 s : State}  (hk : Keeps fx fm b0 s) : Keeps fx fm b0 (State.secantMems s) := by
  unfold State.secantMems
  split
  first | with_reducible assumption | assumption
  extract_lets +onlyGivenNames x0
  extract_lets +onlyGivenNames x1
  extract_lets +onlyGivenNames x2
  refine (fun (k2 : Keeps fx fm b0 x2) => ?_) (?_ : Keeps fx fm b0 x2)
  split
  apply State.safeFault_keeps
  first | with_reducible assumption | assumption
  first | with_reducible assumption | assumption
  dsimp -zeta only [x2]
  apply Keeps.foldl
  first | with_reducible assumption | assumption
  intro v3
  intro v4
  intro v5
  apply State.memRead_keeps
  first | with_reducible assumption | assumption

theorem State.secantWrites_keeps {fx fm : Bool} {b0 s : State}  (hk : Keeps fx fm b0 s) : Keeps fx fm b0 (State.secantWrites s) := by
  unfold State.secantWrites
  extract_lets +onlyGivenNames x0
  extract_lets +onlyGivenNames x1
  refine (fun (k1 : Keeps fx fm b0 x1) => ?_) (?_ : Keeps fx fm b0 x1)
  apply State.crossTrack_keeps
  apply State.safeSync_keeps
  apply State.askStops_keeps
  apply State.injected_keeps
  first | with_reducible assumption | assumption
  dsimp -zeta only [x1]
  apply State.setSafe_keeps
  apply State.react_keeps
  first | with_reducible assumption | assumption

theorem State.secantTakes_keeps {fx fm : Bool} {b0 s : State} (sfb : BitVec 4) (hk : Keeps fx fm b0 s) : Keeps fx fm b0 (State.secantTakes s sfb) := by
  unfold State.secantTakes
  extract_lets +onlyGivenNames x0
  refine (fun (k0 : Keeps fx fm b0 x0) => ?_) (?_ : Keeps fx fm b0 x0)
  extract_lets +onlyGivenNames x1
  refine (fun (k1 : Keeps fx fm b0 x1) => ?_) (?_ : Keeps fx fm b0 x1)
  apply State.crossTrack_keeps
  apply State.safeSync_keeps
  refine Keeps.lit ?_ rfl rfl
  first | with_reducible assumption | assumption
  dsimp -zeta only [x1]
  apply State.setSafe_keeps
  first | with_reducible assumption | assumption
  dsimp -zeta only [x0]
  apply State.cycleCounts_keeps
  apply State.forEach_keeps
  apply State.pairsJudge_keeps
  apply State.parTake_keeps
  apply State.secantMems_keeps
  apply State.put_keeps
  first | with_reducible assumption | assumption
  intro v2
  intro v3
  intro v4
  apply State.connCycle_keeps
  first | with_reducible assumption | assumption

theorem execSecantCycle_keeps {fx fm : Bool} {b0 s t : State} (sfb : BitVec 4) (hk : Keeps fx fm b0 s) (e : execSecantCycle sfb s = .next t) : Keeps fx fm b0 t := by
  unfold execSecantCycle at e
  cases e
  apply State.whenAlive_keeps
  first | with_reducible assumption | assumption
  extract_lets +onlyGivenNames x0
  refine (fun (k0 : Keeps fx fm b0 x0) => ?_) (?_ : Keeps fx fm b0 x0)
  apply State.secantTakes_keeps
  apply State.setSafe_keeps
  first | with_reducible assumption | assumption
  dsimp -zeta only [x0]
  apply State.secantWrites_keeps
  apply State.advUp_keeps
  first | with_reducible assumption | assumption

theorem execSafeFault_keeps {fx fm : Bool} {b0 s t : State} (bits : BitVec 9) (hk : Keeps fx fm b0 s) (e : execSafeFault bits s = .next t) : Keeps fx fm b0 t := by
  unfold execSafeFault at e
  cases e
  apply State.whenAlive_keeps
  first | with_reducible assumption | assumption
  extract_lets +onlyGivenNames x0
  refine (fun (k0 : Keeps fx fm b0 x0) => ?_) (?_ : Keeps fx fm b0 x0)
  apply State.forEach_keeps
  first | with_reducible assumption | assumption
  intro v1
  intro v2
  intro v3
  split
  apply State.safeFault_keeps
  first | with_reducible assumption | assumption
  first | with_reducible assumption | assumption
  dsimp -zeta only [x0]
  split
  apply State.secantMems_keeps
  split
  first | with_reducible assumption | assumption
  apply State.draw_keeps
  apply State.upset_keeps
  first | with_reducible assumption | assumption
  first | with_reducible assumption | assumption

theorem execSecantWd_keeps {fx fm : Bool} {b0 s t : State}  (hk : Keeps fx fm b0 s) (e : execSecantWd s = .next t) : Keeps fx fm b0 t := by
  unfold execSecantWd at e
  cases e
  apply State.whenAlive_keeps
  first | with_reducible assumption | assumption
  apply State.idle_keeps
  apply State.safeFault_keeps
  apply State.advUp_keeps
  first | with_reducible assumption | assumption

theorem execCrossTimeout_keeps {fx fm : Bool} {b0 s t : State}  (hk : Keeps fx fm b0 s) (e : execCrossTimeout s = .next t) : Keeps fx fm b0 t := by
  unfold execCrossTimeout at e
  cases e
  apply State.whenAlive_keeps
  first | with_reducible assumption | assumption
  split
  apply State.idle_keeps
  apply State.safeFault_keeps
  apply State.advUp_keeps
  first | with_reducible assumption | assumption
  first | with_reducible assumption | assumption

theorem execOutputReadbackFault_keeps {fx fm : Bool} {b0 s t : State} (out : Fin 4) (hk : Keeps fx fm b0 s) (e : execOutputReadbackFault out s = .next t) : Keeps fx fm b0 t := by
  unfold execOutputReadbackFault at e
  cases e
  apply State.whenAlive_keeps
  first | with_reducible assumption | assumption
  extract_lets +onlyGivenNames x0
  refine (fun (k0 : Keeps fx fm b0 x0) => ?_) (?_ : Keeps fx fm b0 x0)
  apply State.safeFault_keeps
  first | with_reducible assumption | assumption
  dsimp -zeta only [x0]
  apply State.advUp_keeps
  first | with_reducible assumption | assumption

theorem execOnfail_keeps {fx fm : Bool} {b0 s t : State} (out : Fin 4) (sfb : Bool) (hk : Keeps fx fm b0 s) (e : execOnfail out sfb s = .next t) : Keeps fx fm b0 t := by
  unfold execOnfail at e
  cases e
  apply State.whenAlive_keeps
  first | with_reducible assumption | assumption
  extract_lets +onlyGivenNames x0
  split
  extract_lets +onlyGivenNames x1
  refine (fun (k1 : Keeps fx fm b0 x1) => ?_) (?_ : Keeps fx fm b0 x1)
  extract_lets +onlyGivenNames x2
  refine (fun (k2 : Keeps fx fm b0 x2) => ?_) (?_ : Keeps fx fm b0 x2)
  split
  apply State.safeSync_keeps
  apply State.emit_keeps
  apply State.irq_keeps
  apply State.put_keeps
  first | with_reducible assumption | assumption
  first | with_reducible assumption | assumption
  dsimp -zeta only [x2]
  apply State.putB_keeps
  first | with_reducible assumption | assumption
  dsimp -zeta only [x1]
  apply State.advUp_keeps
  first | with_reducible assumption | assumption
  first | with_reducible assumption | assumption

theorem execWeld_keeps {fx fm : Bool} {b0 s t : State} (out : Fin 4) (sfb : Bool) (hk : Keeps fx fm b0 s) (e : execWeld out sfb s = .next t) : Keeps fx fm b0 t := by
  unfold execWeld at e
  cases e
  apply State.whenAlive_keeps
  first | with_reducible assumption | assumption
  extract_lets +onlyGivenNames x0
  split
  extract_lets +onlyGivenNames x1
  refine (fun (k1 : Keeps fx fm b0 x1) => ?_) (?_ : Keeps fx fm b0 x1)
  extract_lets +onlyGivenNames x2
  refine (fun (k2 : Keeps fx fm b0 x2) => ?_) (?_ : Keeps fx fm b0 x2)
  split
  first | with_reducible assumption | assumption
  apply State.safeSync_keeps
  apply State.emit_keeps
  apply State.irq_keeps
  apply State.put_keeps
  first | with_reducible assumption | assumption
  dsimp -zeta only [x2]
  apply State.putB_keeps
  first | with_reducible assumption | assumption
  dsimp -zeta only [x1]
  apply State.advUp_keeps
  first | with_reducible assumption | assumption
  first | with_reducible assumption | assumption

theorem State.releaseRefused_keeps {fx fm : Bool} {b0 s : State} (why : Nat) (hk : Keeps fx fm b0 s) : Keeps fx fm b0 (State.releaseRefused s why) := by
  unfold State.releaseRefused
  apply State.emit_keeps
  apply State.put_keeps
  first | with_reducible assumption | assumption

theorem State.plantRelease_keeps {fx fm : Bool} {b0 s : State}  (hk : Keeps fx fm b0 s) : Keeps fx fm b0 (State.plantRelease s) := by
  unfold State.plantRelease
  extract_lets +onlyGivenNames x0
  split
  apply State.releaseRefused_keeps
  first | with_reducible assumption | assumption
  extract_lets +onlyGivenNames x1
  refine (fun (k1 : Keeps fx fm b0 x1) => ?_) (?_ : Keeps fx fm b0 x1)
  apply State.safeSync_keeps
  apply State.emit_keeps
  apply State.put_keeps
  first | with_reducible assumption | assumption
  dsimp -zeta only [x1]
  apply State.put_keeps
  apply State.put_keeps
  apply State.put_keeps
  first | with_reducible assumption | assumption

theorem State.driveRelease_keeps {fx fm : Bool} {b0 s : State} (mask : Nat) (hk : Keeps fx fm b0 s) : Keeps fx fm b0 (State.driveRelease s mask) := by
  unfold State.driveRelease
  extract_lets +onlyGivenNames x0
  extract_lets +onlyGivenNames x1
  extract_lets +onlyGivenNames x2
  extract_lets +onlyGivenNames x3
  refine (fun (k3 : Keeps fx fm b0 x3) => ?_) (?_ : Keeps fx fm b0 x3)
  extract_lets +onlyGivenNames x4
  refine (fun (k4 : Keeps fx fm b0 x4) => ?_) (?_ : Keeps fx fm b0 x4)
  apply State.safeSync_keeps
  split
  first | with_reducible assumption | assumption
  apply State.releaseRefused_keeps
  first | with_reducible assumption | assumption
  dsimp -zeta only [x4]
  split
  first | with_reducible assumption | assumption
  apply State.emit_keeps
  first | with_reducible assumption | assumption
  dsimp -zeta only [x3]
  apply State.forEach_keeps
  first | with_reducible assumption | assumption
  intro v5
  intro v6
  intro v7
  apply State.setSafe_keeps
  apply State.put_keeps
  apply State.put_keeps
  first | with_reducible assumption | assumption

theorem State.secantLoad_keeps {fx fm : Bool} {b0 s : State}  (hk : Keeps fx fm b0 s) : Keeps fx fm b0 (State.secantLoad s) := by
  unfold State.secantLoad
  extract_lets +onlyGivenNames x0
  extract_lets +onlyGivenNames x1
  refine (fun (k1 : Keeps fx fm b0 x1) => ?_) (?_ : Keeps fx fm b0 x1)
  extract_lets +onlyGivenNames x2
  apply State.setSafe_keeps
  apply State.putB_keeps
  first | with_reducible assumption | assumption
  dsimp -zeta only [x1]
  apply State.mramMeet_keeps
  first | with_reducible assumption | assumption

theorem execSafeStartupTest_keeps {fx fm : Bool} {b0 s t : State} (pass : Bool) (imageOk : Bool) (hk : Keeps fx fm b0 s) (e : execSafeStartupTest pass imageOk s = .next t) : Keeps fx fm b0 t := by
  unfold execSafeStartupTest at e
  cases e
  apply State.whenAlive_keeps
  first | with_reducible assumption | assumption
  split
  first | with_reducible assumption | assumption
  extract_lets +onlyGivenNames x0
  extract_lets +onlyGivenNames x1
  extract_lets +onlyGivenNames x2
  refine (fun (k2 : Keeps fx fm b0 x2) => ?_) (?_ : Keeps fx fm b0 x2)
  extract_lets +onlyGivenNames x3
  refine (fun (k3 : Keeps fx fm b0 x3) => ?_) (?_ : Keeps fx fm b0 x3)
  split
  apply State.safeSync_keeps
  apply State.put_keeps
  first | with_reducible assumption | assumption
  apply State.safeFault_keeps
  first | with_reducible assumption | assumption
  dsimp -zeta only [x3]
  split
  apply State.safeFault_keeps
  first | with_reducible assumption | assumption
  first | with_reducible assumption | assumption
  dsimp -zeta only [x2]
  apply State.putB_keeps
  first | with_reducible assumption | assumption

theorem State.powerUpSafe_keeps {fx fm : Bool} {b0 s : State}  (hk : Keeps fx fm b0 s) : Keeps fx fm b0 (State.powerUpSafe s) := by
  unfold State.powerUpSafe
  split
  apply State.plantSafe_keeps
  apply State.plantSafe_keeps
  first | with_reducible assumption | assumption
  first | with_reducible assumption | assumption

theorem State.safeMode_keeps {fx fm : Bool} {b0 s : State}  (hk : Keeps fx fm b0 s) : Keeps fx fm b0 (State.safeMode s) := by
  unfold State.safeMode
  apply State.safeSync_keeps
  split
  apply State.putPar_keeps
  first | with_reducible assumption | assumption
  first | with_reducible assumption | assumption

theorem State.permitsOff_keeps {fx fm : Bool} {b0 s : State}  (hk : Keeps fx fm b0 s) : Keeps fx fm b0 (State.permitsOff s) := by
  unfold State.permitsOff
  apply State.put_keeps
  apply State.put_keeps
  apply State.put_keeps
  first | with_reducible assumption | assumption

theorem State.wenOpened_keeps {fx fm : Bool} {b0 s : State}  (hk : Keeps fx fm b0 s) : Keeps fx fm b0 (State.wenOpened s) := by
  unfold State.wenOpened
  apply State.emit_keeps
  first | with_reducible assumption | assumption

end Sys2Proof.Machine
end

