-- ==== Sys2Proof/Laws/KeepsSlope.lean ====
section
/-! SUPPORT. What the operations of Machine/Slope.lean keep. -/

namespace Sys2Proof.Machine

open Sys2Proof

theorem State.setSl_keeps {fx fm : Bool} {b0 s : State} (n : Nat) (f : SlCh → SlCh) (hk : Keeps fx fm b0 s) : Keeps fx fm b0 (State.setSl s n f) := by
  unfold State.setSl
  refine Keeps.lit ?_ rfl rfl
  first | with_reducible assumption | assumption

theorem State.closePoint_keeps {fx fm : Bool} {b0 s : State} (n : Nat) (c : ScanSt) (hk : Keeps fx fm b0 s) : Keeps fx fm b0 (State.closePoint s n c) := by
  unfold State.closePoint
  extract_lets +onlyGivenNames x0
  extract_lets +onlyGivenNames x1
  extract_lets +onlyGivenNames x2
  refine (fun (k2 : Keeps fx fm b0 x2) => ?_) (?_ : Keeps fx fm b0 x2)
  extract_lets +onlyGivenNames x3
  refine (fun (k3 : Keeps fx fm b0 x3) => ?_) (?_ : Keeps fx fm b0 x3)
  apply State.setSl_keeps
  first | with_reducible assumption | assumption
  dsimp -zeta only [x3]
  apply State.put_keeps
  first | with_reducible assumption | assumption
  dsimp -zeta only [x2]
  apply State.put_keeps
  first | with_reducible assumption | assumption

theorem State.scanChoose_keeps {fx fm : Bool} {b0 s : State} (n : Nat) (c : ScanSt) (hk : Keeps fx fm b0 s) : Keeps fx fm b0 (State.scanChoose s n c) := by
  unfold State.scanChoose
  split
  extract_lets +onlyGivenNames x0
  extract_lets +onlyGivenNames x1
  refine (fun (k1 : Keeps fx fm b0 x1) => ?_) (?_ : Keeps fx fm b0 x1)
  apply State.setSl_keeps
  first | with_reducible assumption | assumption
  dsimp -zeta only [x1]
  apply State.putB_keeps
  apply State.put_keeps
  first | with_reducible assumption | assumption
  first | with_reducible assumption | assumption

theorem State.scanPoints_keeps {fx fm : Bool} {b0 s : State} (n : Nat) (hk : Keeps fx fm b0 s) : Keeps fx fm b0 (State.scanPoints s n) := by
  unfold State.scanPoints
  split
  first | with_reducible assumption | assumption
  extract_lets +onlyGivenNames x0
  extract_lets +onlyGivenNames x1
  extract_lets +onlyGivenNames x2
  refine (fun (k2 : Keeps fx fm b0 x2) => ?_) (?_ : Keeps fx fm b0 x2)
  split
  first | with_reducible assumption | assumption
  split
  apply State.scanChoose_keeps
  first | with_reducible assumption | assumption
  first | with_reducible assumption | assumption
  dsimp -zeta only [x2]
  split
  apply State.closePoint_keeps
  first | with_reducible assumption | assumption
  first | with_reducible assumption | assumption

theorem State.scanTick_keeps {fx fm : Bool} {b0 s : State} (n : Nat) (hk : Keeps fx fm b0 s) : Keeps fx fm b0 (State.scanTick s n) := by
  unfold State.scanTick
  extract_lets +onlyGivenNames x0
  refine (fun (k0 : Keeps fx fm b0 x0) => ?_) (?_ : Keeps fx fm b0 x0)
  extract_lets +onlyGivenNames x1
  split
  first | with_reducible assumption | assumption
  extract_lets +onlyGivenNames x2
  extract_lets +onlyGivenNames x3
  apply State.setSl_keeps
  first | with_reducible assumption | assumption
  dsimp -zeta only [x0]
  apply State.scanPoints_keeps
  first | with_reducible assumption | assumption

theorem State.slRoll_keeps {fx fm : Bool} {b0 s : State} (n : Nat) (hk : Keeps fx fm b0 s) : Keeps fx fm b0 (State.slRoll s n) := by
  unfold State.slRoll
  split
  apply State.scanPoints_keeps
  apply State.setSl_keeps
  first | with_reducible assumption | assumption
  apply State.setSl_keeps
  first | with_reducible assumption | assumption

theorem State.slopeRoll_keeps {fx fm : Bool} {b0 s : State}  (hk : Keeps fx fm b0 s) : Keeps fx fm b0 (State.slopeRoll s) := by
  unfold State.slopeRoll
  extract_lets +onlyGivenNames x0
  split
  first | with_reducible assumption | assumption
  extract_lets +onlyGivenNames x1
  refine (fun (k1 : Keeps fx fm b0 x1) => ?_) (?_ : Keeps fx fm b0 x1)
  refine Keeps.lit ?_ rfl rfl
  first | with_reducible assumption | assumption
  dsimp -zeta only [x1]
  apply State.forEach_keeps
  first | with_reducible assumption | assumption
  intro v2
  intro v3
  intro v4
  apply State.slRoll_keeps
  first | with_reducible assumption | assumption

theorem State.slSample_keeps {fx fm : Bool} {b0 s : State} (n : Nat) (hk : Keeps fx fm b0 s) : Keeps fx fm b0 (State.slSample s n) := by
  unfold State.slSample
  extract_lets +onlyGivenNames x0
  extract_lets +onlyGivenNames x1
  extract_lets +onlyGivenNames x2
  extract_lets +onlyGivenNames x3
  extract_lets +onlyGivenNames x4
  extract_lets +onlyGivenNames x5
  extract_lets +onlyGivenNames x6
  extract_lets +onlyGivenNames x7
  refine (fun (k7 : Keeps fx fm b0 x7) => ?_) (?_ : Keeps fx fm b0 x7)
  extract_lets +onlyGivenNames x8
  extract_lets +onlyGivenNames x9
  extract_lets +onlyGivenNames x10
  extract_lets +onlyGivenNames x11
  extract_lets +onlyGivenNames x12
  extract_lets +onlyGivenNames x13
  extract_lets +onlyGivenNames x14
  extract_lets +onlyGivenNames x15
  extract_lets +onlyGivenNames x16
  apply State.scanTick_keeps
  apply State.setSl_keeps
  first | with_reducible assumption | assumption
  dsimp -zeta only [x7]
  split
  first | with_reducible assumption | assumption
  apply State.bumpMod_keeps
  first | with_reducible assumption | assumption

theorem State.slRef_keeps {fx fm : Bool} {b0 s : State} (n : Nat) (hk : Keeps fx fm b0 s) : Keeps fx fm b0 (State.slRef s n) := by
  unfold State.slRef
  extract_lets +onlyGivenNames x0
  extract_lets +onlyGivenNames x1
  extract_lets +onlyGivenNames x2
  apply State.setCeWord_keeps
  first | with_reducible assumption | assumption

theorem State.slopeTick_keeps {fx fm : Bool} {b0 s : State}  (hk : Keeps fx fm b0 s) : Keeps fx fm b0 (State.slopeTick s) := by
  unfold State.slopeTick
  split
  apply State.forEach_keeps
  apply State.forEach_keeps
  apply State.slopeRoll_keeps
  apply State.ceSees_keeps
  first | with_reducible assumption | assumption
  intro v0
  intro v1
  intro v2
  apply State.slSample_keeps
  first | with_reducible assumption | assumption
  intro v3
  intro v4
  intro v5
  apply State.slRef_keeps
  first | with_reducible assumption | assumption
  first | with_reducible assumption | assumption

theorem State.slEmit_keeps {fx fm : Bool} {b0 s : State} (n code data : Nat) (hk : Keeps fx fm b0 s) : Keeps fx fm b0 (State.slEmit s n code data) := by
  unfold State.slEmit
  apply State.emitAt_keeps
  first | with_reducible assumption | assumption

theorem State.scanAbort_keeps {fx fm : Bool} {b0 s : State} (n : Nat) (hk : Keeps fx fm b0 s) : Keeps fx fm b0 (State.scanAbort s n) := by
  unfold State.scanAbort
  split
  extract_lets +onlyGivenNames x0
  refine (fun (k0 : Keeps fx fm b0 x0) => ?_) (?_ : Keeps fx fm b0 x0)
  extract_lets +onlyGivenNames x1
  refine (fun (k1 : Keeps fx fm b0 x1) => ?_) (?_ : Keeps fx fm b0 x1)
  apply State.slEmit_keeps
  apply State.irq_keeps
  apply State.put_keeps
  first | with_reducible assumption | assumption
  dsimp -zeta only [x1]
  apply State.setSl_keeps
  first | with_reducible assumption | assumption
  dsimp -zeta only [x0]
  apply State.put_keeps
  apply State.put_keeps
  apply State.put_keeps
  first | with_reducible assumption | assumption
  first | with_reducible assumption | assumption

theorem State.scanCancel_keeps {fx fm : Bool} {b0 s : State} (n : Nat) (hk : Keeps fx fm b0 s) : Keeps fx fm b0 (State.scanCancel s n) := by
  unfold State.scanCancel
  split
  apply State.slEmit_keeps
  apply State.put_keeps
  first | with_reducible assumption | assumption
  first | with_reducible assumption | assumption

theorem State.scanAsk_keeps {fx fm : Bool} {b0 s : State} (n : Nat) (hk : Keeps fx fm b0 s) : Keeps fx fm b0 (State.scanAsk s n) := by
  unfold State.scanAsk
  split
  first | with_reducible assumption | assumption
  apply State.put_keeps
  first | with_reducible assumption | assumption

theorem State.slAtMpp_keeps {fx fm : Bool} {b0 s : State} (n : Nat) (valid : Bool) (dp : Rat) (hk : Keeps fx fm b0 s) : Keeps fx fm b0 (State.slAtMpp s n valid dp) := by
  unfold State.slAtMpp
  extract_lets +onlyGivenNames x0
  extract_lets +onlyGivenNames x1
  extract_lets +onlyGivenNames x2
  apply State.putB_keeps
  apply State.setSl_keeps
  first | with_reducible assumption | assumption

theorem State.slEstimate_keeps {fx fm : Bool} {b0 s : State} (n : Nat) (hk : Keeps fx fm b0 s) : Keeps fx fm b0 (State.slEstimate s n) := by
  unfold State.slEstimate
  extract_lets +onlyGivenNames x0
  extract_lets +onlyGivenNames x1
  refine (fun (k1 : Keeps fx fm b0 x1) => ?_) (?_ : Keeps fx fm b0 x1)
  split
  apply State.put_keeps
  apply State.putI_keeps
  apply State.putI_keeps
  apply State.setSl_keeps
  first | with_reducible assumption | assumption
  extract_lets +onlyGivenNames x2
  extract_lets +onlyGivenNames x3
  extract_lets +onlyGivenNames x4
  extract_lets +onlyGivenNames x5
  extract_lets +onlyGivenNames x6
  extract_lets +onlyGivenNames x7
  extract_lets +onlyGivenNames x8
  extract_lets +onlyGivenNames x9
  extract_lets +onlyGivenNames x10
  extract_lets +onlyGivenNames x11
  extract_lets +onlyGivenNames x12
  extract_lets +onlyGivenNames x13
  refine (fun (k13 : Keeps fx fm b0 x13) => ?_) (?_ : Keeps fx fm b0 x13)
  apply State.slAtMpp_keeps
  apply State.putB_keeps
  apply State.putI_keeps
  apply State.putI_keeps
  first | with_reducible assumption | assumption
  dsimp -zeta only [x13]
  apply State.setSl_keeps
  first | with_reducible assumption | assumption
  dsimp -zeta only [x1]
  apply State.putI_keeps
  apply State.putI_keeps
  apply State.putI_keeps
  first | with_reducible assumption | assumption

theorem State.slArise_keeps {fx fm : Bool} {b0 s : State} (n : Nat) (hk : Keeps fx fm b0 s) : Keeps fx fm b0 (State.slArise s n) := by
  unfold State.slArise
  apply State.setSl_keeps
  first | with_reducible assumption | assumption

theorem State.slRuns_keeps {fx fm : Bool} {b0 s : State} (n : Nat) (hk : Keeps fx fm b0 s) : Keeps fx fm b0 (State.slRuns s n) := by
  unfold State.slRuns
  extract_lets +onlyGivenNames x0
  extract_lets +onlyGivenNames x1
  extract_lets +onlyGivenNames x2
  extract_lets +onlyGivenNames x3
  apply State.setSl_keeps
  first | with_reducible assumption | assumption

theorem State.slEnter_keeps {fx fm : Bool} {b0 s : State} (n st : Nat) (hk : Keeps fx fm b0 s) : Keeps fx fm b0 (State.slEnter s n st) := by
  unfold State.slEnter
  extract_lets +onlyGivenNames x0
  extract_lets +onlyGivenNames x1
  refine (fun (k1 : Keeps fx fm b0 x1) => ?_) (?_ : Keeps fx fm b0 x1)
  extract_lets +onlyGivenNames x2
  refine (fun (k2 : Keeps fx fm b0 x2) => ?_) (?_ : Keeps fx fm b0 x2)
  extract_lets +onlyGivenNames x3
  refine (fun (k3 : Keeps fx fm b0 x3) => ?_) (?_ : Keeps fx fm b0 x3)
  split
  apply State.setSl_keeps
  first | with_reducible assumption | assumption
  split
  apply State.setSl_keeps
  first | with_reducible assumption | assumption
  split
  apply State.scanCancel_keeps
  apply State.setSl_keeps
  first | with_reducible assumption | assumption
  split
  apply State.scanCancel_keeps
  first | with_reducible assumption | assumption
  first | with_reducible assumption | assumption
  dsimp -zeta only [x3]
  apply State.setSl_keeps
  first | with_reducible assumption | assumption
  dsimp -zeta only [x2]
  apply State.put_keeps
  first | with_reducible assumption | assumption
  dsimp -zeta only [x1]
  split
  apply State.scanAbort_keeps
  first | with_reducible assumption | assumption
  first | with_reducible assumption | assumption

theorem State.slFault_keeps {fx fm : Bool} {b0 s : State} (n c : Nat) (hk : Keeps fx fm b0 s) : Keeps fx fm b0 (State.slFault s n c) := by
  unfold State.slFault
  extract_lets +onlyGivenNames x0
  extract_lets +onlyGivenNames x1
  refine (fun (k1 : Keeps fx fm b0 x1) => ?_) (?_ : Keeps fx fm b0 x1)
  extract_lets +onlyGivenNames x2
  refine (fun (k2 : Keeps fx fm b0 x2) => ?_) (?_ : Keeps fx fm b0 x2)
  apply State.slEmit_keeps
  apply State.irq_keeps
  first | with_reducible assumption | assumption
  dsimp -zeta only [x2]
  apply State.irq_keeps
  apply State.put_keeps
  apply State.put_keeps
  first | with_reducible assumption | assumption
  dsimp -zeta only [x1]
  apply State.setSl_keeps
  apply State.slEnter_keeps
  first | with_reducible assumption | assumption

theorem State.slStep_keeps {fx fm : Bool} {b0 s : State} (n : Nat) (hk : Keeps fx fm b0 s) : Keeps fx fm b0 (State.slStep s n) := by
  unfold State.slStep
  extract_lets +onlyGivenNames x0
  extract_lets +onlyGivenNames x1
  extract_lets +onlyGivenNames x2
  split
  split
  first | with_reducible assumption | assumption
  apply State.slEnter_keeps
  first | with_reducible assumption | assumption
  split
  apply State.slEnter_keeps
  first | with_reducible assumption | assumption
  split
  apply State.slFault_keeps
  first | with_reducible assumption | assumption
  split
  split
  first | with_reducible assumption | assumption
  apply State.slEnter_keeps
  first | with_reducible assumption | assumption
  extract_lets +onlyGivenNames x3
  extract_lets +onlyGivenNames x4
  extract_lets +onlyGivenNames x5
  split
  extract_lets +onlyGivenNames x6
  refine (fun (k6 : Keeps fx fm b0 x6) => ?_) (?_ : Keeps fx fm b0 x6)
  apply State.slEnter_keeps
  first | with_reducible assumption | assumption
  dsimp -zeta only [x6]
  split
  apply State.put_keeps
  first | with_reducible assumption | assumption
  first | with_reducible assumption | assumption
  split
  apply State.slEnter_keeps
  first | with_reducible assumption | assumption
  split
  apply State.slEnter_keeps
  first | with_reducible assumption | assumption
  split
  apply State.slEnter_keeps
  first | with_reducible assumption | assumption
  split
  apply State.slEnter_keeps
  first | with_reducible assumption | assumption
  split
  apply State.slEnter_keeps
  first | with_reducible assumption | assumption
  first | with_reducible assumption | assumption

theorem State.takeBasis_keeps {fx fm : Bool} {b0 s : State}  (hk : Keeps fx fm b0 s) : Keeps fx fm b0 (State.takeBasis s) := by
  unfold State.takeBasis
  extract_lets +onlyGivenNames x0
  apply State.forEach_keeps
  first | with_reducible assumption | assumption
  intro v1
  intro v2
  intro v3
  apply State.setSl_keeps
  first | with_reducible assumption | assumption

theorem State.curtJudge_keeps {fx fm : Bool} {b0 s : State}  (hk : Keeps fx fm b0 s) : Keeps fx fm b0 (State.curtJudge s) := by
  unfold State.curtJudge
  extract_lets +onlyGivenNames x0
  extract_lets +onlyGivenNames x1
  extract_lets +onlyGivenNames x2
  extract_lets +onlyGivenNames x3
  extract_lets +onlyGivenNames x4
  extract_lets +onlyGivenNames x5
  refine (fun (k5 : Keeps fx fm b0 x5) => ?_) (?_ : Keeps fx fm b0 x5)
  split
  first | with_reducible assumption | assumption
  extract_lets +onlyGivenNames x6
  refine (fun (k6 : Keeps fx fm b0 x6) => ?_) (?_ : Keeps fx fm b0 x6)
  apply State.slEmit_keeps
  apply State.irq_keeps
  apply State.putB_keeps
  first | with_reducible assumption | assumption
  dsimp -zeta only [x6]
  split
  apply State.takeBasis_keeps
  first | with_reducible assumption | assumption
  first | with_reducible assumption | assumption
  dsimp -zeta only [x5]
  apply State.putI_keeps
  first | with_reducible assumption | assumption

theorem State.slTrackStep_keeps {fx fm : Bool} {b0 s : State} (n : Nat) (share : Option Rat) (hk : Keeps fx fm b0 s) : Keeps fx fm b0 (State.slTrackStep s n share) := by
  unfold State.slTrackStep
  extract_lets +onlyGivenNames x0
  extract_lets +onlyGivenNames x1
  extract_lets +onlyGivenNames x2
  refine (fun (k2 : Keeps fx fm b0 x2) => ?_) (?_ : Keeps fx fm b0 x2)
  extract_lets +onlyGivenNames x3
  extract_lets +onlyGivenNames x4
  extract_lets +onlyGivenNames x5
  extract_lets +onlyGivenNames x6
  apply State.setSl_keeps
  first | with_reducible assumption | assumption
  dsimp -zeta only [x2]
  apply State.putB_keeps
  first | with_reducible assumption | assumption

theorem State.slAct_keeps {fx fm : Bool} {b0 s : State} (n : Nat) (entered : Bool) (hk : Keeps fx fm b0 s) : Keeps fx fm b0 (State.slAct s n entered) := by
  unfold State.slAct
  extract_lets +onlyGivenNames x0
  split
  apply State.slTrackStep_keeps
  first | with_reducible assumption | assumption
  extract_lets +onlyGivenNames x1
  refine (fun (k1 : Keeps fx fm b0 x1) => ?_) (?_ : Keeps fx fm b0 x1)
  split
  apply State.setSl_keeps
  first | with_reducible assumption | assumption
  split
  apply State.setSl_keeps
  first | with_reducible assumption | assumption
  first | with_reducible assumption | assumption
  dsimp -zeta only [x1]
  apply State.putB_keeps
  first | with_reducible assumption | assumption

theorem State.slMpp_keeps {fx fm : Bool} {b0 s : State} (n : Nat) (hk : Keeps fx fm b0 s) : Keeps fx fm b0 (State.slMpp s n) := by
  unfold State.slMpp
  split
  extract_lets +onlyGivenNames x0
  apply State.setSl_keeps
  first | with_reducible assumption | assumption
  first | with_reducible assumption | assumption

theorem State.shadeJudge_keeps {fx fm : Bool} {b0 s : State} (n : Nat) (hk : Keeps fx fm b0 s) : Keeps fx fm b0 (State.shadeJudge s n) := by
  unfold State.shadeJudge
  extract_lets +onlyGivenNames x0
  extract_lets +onlyGivenNames x1
  extract_lets +onlyGivenNames x2
  extract_lets +onlyGivenNames x3
  refine (fun (k3 : Keeps fx fm b0 x3) => ?_) (?_ : Keeps fx fm b0 x3)
  split
  extract_lets +onlyGivenNames x4
  extract_lets +onlyGivenNames x5
  extract_lets +onlyGivenNames x6
  extract_lets +onlyGivenNames x7
  extract_lets +onlyGivenNames x8
  refine (fun (k8 : Keeps fx fm b0 x8) => ?_) (?_ : Keeps fx fm b0 x8)
  extract_lets +onlyGivenNames x9
  refine (fun (k9 : Keeps fx fm b0 x9) => ?_) (?_ : Keeps fx fm b0 x9)
  extract_lets +onlyGivenNames x10
  refine (fun (k10 : Keeps fx fm b0 x10) => ?_) (?_ : Keeps fx fm b0 x10)
  split
  apply State.slEmit_keeps
  apply State.irq_keeps
  apply State.put_keeps
  first | with_reducible assumption | assumption
  first | with_reducible assumption | assumption
  dsimp -zeta only [x10]
  split
  split
  apply State.scanAsk_keeps
  first | with_reducible assumption | assumption
  first | with_reducible assumption | assumption
  first | with_reducible assumption | assumption
  dsimp -zeta only [x9]
  apply State.irq_keeps
  apply State.put_keeps
  first | with_reducible assumption | assumption
  dsimp -zeta only [x8]
  apply State.setSl_keeps
  first | with_reducible assumption | assumption
  apply State.setSl_keeps
  first | with_reducible assumption | assumption
  dsimp -zeta only [x3]
  apply State.setSl_keeps
  first | with_reducible assumption | assumption

theorem State.scanStart_keeps {fx fm : Bool} {b0 s : State} (n : Nat) (hk : Keeps fx fm b0 s) : Keeps fx fm b0 (State.scanStart s n) := by
  unfold State.scanStart
  split
  split
  extract_lets +onlyGivenNames x0
  extract_lets +onlyGivenNames x1
  extract_lets +onlyGivenNames x2
  refine (fun (k2 : Keeps fx fm b0 x2) => ?_) (?_ : Keeps fx fm b0 x2)
  extract_lets +onlyGivenNames x3
  refine (fun (k3 : Keeps fx fm b0 x3) => ?_) (?_ : Keeps fx fm b0 x3)
  extract_lets +onlyGivenNames x4
  refine (fun (k4 : Keeps fx fm b0 x4) => ?_) (?_ : Keeps fx fm b0 x4)
  apply State.setSl_keeps
  first | with_reducible assumption | assumption
  dsimp -zeta only [x4]
  apply State.put_keeps
  apply State.put_keeps
  first | with_reducible assumption | assumption
  dsimp -zeta only [x3]
  apply State.put_keeps
  apply State.put_keeps
  apply State.put_keeps
  apply State.put_keeps
  first | with_reducible assumption | assumption
  dsimp -zeta only [x2]
  apply State.put_keeps
  apply State.put_keeps
  first | with_reducible assumption | assumption
  first | with_reducible assumption | assumption
  first | with_reducible assumption | assumption

theorem State.scanPeriodic_keeps {fx fm : Bool} {b0 s : State}  (hk : Keeps fx fm b0 s) : Keeps fx fm b0 (State.scanPeriodic s) := by
  unfold State.scanPeriodic
  extract_lets +onlyGivenNames x0
  extract_lets +onlyGivenNames x1
  split
  apply State.forEach_keeps
  first | with_reducible assumption | assumption
  intro v2
  intro v3
  intro v4
  apply State.scanAsk_keeps
  first | with_reducible assumption | assumption
  first | with_reducible assumption | assumption

theorem State.slPublish_keeps {fx fm : Bool} {b0 s : State}  (hk : Keeps fx fm b0 s) : Keeps fx fm b0 (State.slPublish s) := by
  unfold State.slPublish
  extract_lets +onlyGivenNames x0
  refine (fun (k0 : Keeps fx fm b0 x0) => ?_) (?_ : Keeps fx fm b0 x0)
  extract_lets +onlyGivenNames x1
  extract_lets +onlyGivenNames x2
  extract_lets +onlyGivenNames x3
  refine (fun (k3 : Keeps fx fm b0 x3) => ?_) (?_ : Keeps fx fm b0 x3)
  extract_lets +onlyGivenNames x4
  refine (fun (k4 : Keeps fx fm b0 x4) => ?_) (?_ : Keeps fx fm b0 x4)
  apply State.put_keeps
  apply State.put_keeps
  apply State.put_keeps
  first | with_reducible assumption | assumption
  dsimp -zeta only [x4]
  apply State.putI_keeps
  apply State.putI_keeps
  first | with_reducible assumption | assumption
  dsimp -zeta only [x3]
  apply State.putI_keeps
  apply State.put_keeps
  first | with_reducible assumption | assumption
  dsimp -zeta only [x0]
  apply State.forEach_keeps
  first | with_reducible assumption | assumption
  intro v5
  intro v6
  intro v7
  apply State.putI_keeps
  apply State.putI_keeps
  apply State.putI_keeps
  first | with_reducible assumption | assumption

theorem State.slopeEvaluate_keeps {fx fm : Bool} {b0 s : State}  (hk : Keeps fx fm b0 s) : Keeps fx fm b0 (State.slopeEvaluate s) := by
  unfold State.slopeEvaluate
  extract_lets +onlyGivenNames x0
  extract_lets +onlyGivenNames x1
  refine (fun (k1 : Keeps fx fm b0 x1) => ?_) (?_ : Keeps fx fm b0 x1)
  extract_lets +onlyGivenNames x2
  refine (fun (k2 : Keeps fx fm b0 x2) => ?_) (?_ : Keeps fx fm b0 x2)
  extract_lets +onlyGivenNames x3
  refine (fun (k3 : Keeps fx fm b0 x3) => ?_) (?_ : Keeps fx fm b0 x3)
  extract_lets +onlyGivenNames x4
  refine (fun (k4 : Keeps fx fm b0 x4) => ?_) (?_ : Keeps fx fm b0 x4)
  extract_lets +onlyGivenNames x5
  refine (fun (k5 : Keeps fx fm b0 x5) => ?_) (?_ : Keeps fx fm b0 x5)
  extract_lets +onlyGivenNames x6
  refine (fun (k6 : Keeps fx fm b0 x6) => ?_) (?_ : Keeps fx fm b0 x6)
  extract_lets +onlyGivenNames x7
  refine (fun (k7 : Keeps fx fm b0 x7) => ?_) (?_ : Keeps fx fm b0 x7)
  apply State.slPublish_keeps
  apply State.forEach_keeps
  apply State.scanPeriodic_keeps
  first | with_reducible assumption | assumption
  intro v8
  intro v9
  intro v10
  apply State.scanStart_keeps
  first | with_reducible assumption | assumption
  dsimp -zeta only [x7]
  apply State.forEach_keeps
  first | with_reducible assumption | assumption
  intro v11
  intro v12
  intro v13
  apply State.shadeJudge_keeps
  first | with_reducible assumption | assumption
  dsimp -zeta only [x6]
  apply State.forEach_keeps
  first | with_reducible assumption | assumption
  intro v14
  intro v15
  intro v16
  apply State.slMpp_keeps
  first | with_reducible assumption | assumption
  dsimp -zeta only [x5]
  apply State.forEach_keeps
  first | with_reducible assumption | assumption
  intro v17
  intro v18
  intro v19
  apply State.slAct_keeps
  first | with_reducible assumption | assumption
  dsimp -zeta only [x4]
  apply State.curtJudge_keeps
  apply State.forEach_keeps
  first | with_reducible assumption | assumption
  intro v20
  intro v21
  intro v22
  apply State.slStep_keeps
  first | with_reducible assumption | assumption
  dsimp -zeta only [x3]
  first | with_reducible assumption | assumption
  dsimp -zeta only [x2]
  apply State.forEach_keeps
  apply State.forEach_keeps
  first | with_reducible assumption | assumption
  intro v23
  intro v24
  intro v25
  apply State.slRuns_keeps
  first | with_reducible assumption | assumption
  intro v26
  intro v27
  intro v28
  apply State.slArise_keeps
  first | with_reducible assumption | assumption
  dsimp -zeta only [x1]
  apply State.forEach_keeps
  apply State.slopeRoll_keeps
  first | with_reducible assumption | assumption
  intro v29
  intro v30
  intro v31
  apply State.slEstimate_keeps
  first | with_reducible assumption | assumption

theorem execSlopeEvaluation_keeps {fx fm : Bool} {b0 s t : State}  (hk : Keeps fx fm b0 s) (e : execSlopeEvaluation s = .next t) : Keeps fx fm b0 t := by
  unfold execSlopeEvaluation at e
  cases e
  extract_lets +onlyGivenNames x0
  split
  extract_lets +onlyGivenNames x1
  refine (fun (k1 : Keeps fx fm b0 x1) => ?_) (?_ : Keeps fx fm b0 x1)
  refine Keeps.lit ?_ rfl rfl
  first | with_reducible assumption | assumption
  dsimp -zeta only [x1]
  apply State.slopeEvaluate_keeps
  first | with_reducible assumption | assumption
  first | with_reducible assumption | assumption

theorem execScanDone_keeps {fx fm : Bool} {b0 s t : State} (ch : Fin 32) (hk : Keeps fx fm b0 s) (e : execScanDone ch s = .next t) : Keeps fx fm b0 t := by
  unfold execScanDone at e
  cases e
  split
  split
  split
  extract_lets +onlyGivenNames x0
  refine (fun (k0 : Keeps fx fm b0 x0) => ?_) (?_ : Keeps fx fm b0 x0)
  extract_lets +onlyGivenNames x1
  extract_lets +onlyGivenNames x2
  refine (fun (k2 : Keeps fx fm b0 x2) => ?_) (?_ : Keeps fx fm b0 x2)
  extract_lets +onlyGivenNames x3
  refine (fun (k3 : Keeps fx fm b0 x3) => ?_) (?_ : Keeps fx fm b0 x3)
  extract_lets +onlyGivenNames x4
  refine (fun (k4 : Keeps fx fm b0 x4) => ?_) (?_ : Keeps fx fm b0 x4)
  apply State.slEmit_keeps
  apply State.irq_keeps
  first | with_reducible assumption | assumption
  dsimp -zeta only [x4]
  split
  apply State.slPublish_keeps
  first | with_reducible assumption | assumption
  first | with_reducible assumption | assumption
  dsimp -zeta only [x3]
  apply State.put_keeps
  apply State.put_keeps
  apply State.put_keeps
  first | with_reducible assumption | assumption
  dsimp -zeta only [x2]
  apply State.slEnter_keeps
  apply State.setSl_keeps
  first | with_reducible assumption | assumption
  dsimp -zeta only [x0]
  apply State.slopeRoll_keeps
  first | with_reducible assumption | assumption
  first | with_reducible assumption | assumption
  first | with_reducible assumption | assumption
  first | with_reducible assumption | assumption

theorem State.scanRequest_keeps {fx fm : Bool} {b0 s : State} (v : Nat) (hk : Keeps fx fm b0 s) : Keeps fx fm b0 (State.scanRequest s v) := by
  unfold State.scanRequest
  apply State.forEach_keeps
  first | with_reducible assumption | assumption
  intro v0
  intro v1
  intro v2
  apply State.scanAsk_keeps
  first | with_reducible assumption | assumption

theorem State.slInject_keeps {fx fm : Bool} {b0 s : State} (n : Nat) (hk : Keeps fx fm b0 s) : Keeps fx fm b0 (State.slInject s n) := by
  unfold State.slInject
  apply State.setSl_keeps
  first | with_reducible assumption | assumption

theorem State.slClear_keeps {fx fm : Bool} {b0 s : State} (n : Nat) (hk : Keeps fx fm b0 s) : Keeps fx fm b0 (State.slClear s n).1 := by
  unfold State.slClear
  split
  split
  dsimp only
  apply State.put_keeps
  first | with_reducible assumption | assumption
  dsimp only
  apply State.put_keeps
  first | with_reducible assumption | assumption
  first | with_reducible assumption | assumption

theorem State.slModeChange_keeps {fx fm : Bool} {b0 s : State} (new : Nat) (hk : Keeps fx fm b0 s) : Keeps fx fm b0 (State.slModeChange s new) := by
  unfold State.slModeChange
  split
  apply State.forEach_keeps
  first | with_reducible assumption | assumption
  intro v0
  intro v1
  intro v2
  split
  first | with_reducible assumption | assumption
  apply State.slEnter_keeps
  first | with_reducible assumption | assumption
  first | with_reducible assumption | assumption

end Sys2Proof.Machine
end

