-- ==== Sys2Proof/Laws/KeepsModes.lean ====
section
/-! SUPPORT. What the operations of Machine/Modes.lean keep. -/

namespace Sys2Proof.Machine

open Sys2Proof

theorem State.setMode_keeps {fx fm : Bool} {b0 s : State} (f : ModeSt → ModeSt) (hk : Keeps fx fm b0 s) : Keeps fx fm b0 (State.setMode s f) := by
  unfold State.setMode
  refine Keeps.lit ?_ rfl rfl
  first | with_reducible assumption | assumption

theorem State.setSys_keeps {fx fm : Bool} {b0 s : State} {f : SysSt → SysSt} (h : Keeps fx fm b0 s) (k : ∀ t, (f t).sealed = t.sealed) :
    Keeps fx fm b0 (s.setSys f) := by
  unfold State.setSys
  exact Keeps.lit h rfl (k _)

theorem State.dcJudge_keeps {fx fm : Bool} {b0 s : State}  (hk : Keeps fx fm b0 s) : Keeps fx fm b0 (State.dcJudge s) := by
  unfold State.dcJudge
  extract_lets +onlyGivenNames x0
  extract_lets +onlyGivenNames x1
  apply State.setMode_keeps
  first | with_reducible assumption | assumption

theorem State.modeRequest_keeps {fx fm : Bool} {b0 s : State} (t : Nat) (hk : Keeps fx fm b0 s) : Keeps fx fm b0 (State.modeRequest s t) := by
  unfold State.modeRequest
  apply State.setMode_keeps
  apply State.put_keeps
  first | with_reducible assumption | assumption

theorem State.refuseMode_keeps {fx fm : Bool} {b0 s : State} (t c : Nat) (hk : Keeps fx fm b0 s) : Keeps fx fm b0 (State.refuseMode s t c) := by
  unfold State.refuseMode
  apply State.emit_keeps
  apply State.irq_keeps
  apply State.put_keeps
  apply State.put_keeps
  first | with_reducible assumption | assumption

theorem State.testOff_keeps {fx : Bool} {b0 s : State}  (hk : Keeps fx false b0 s) : Keeps fx false b0 (State.testOff s) := by
  unfold State.testOff
  extract_lets +onlyGivenNames x0
  refine (fun (k0 : Keeps fx false b0 x0) => ?_) (?_ : Keeps fx false b0 x0)
  extract_lets +onlyGivenNames x1
  refine (fun (k1 : Keeps fx false b0 x1) => ?_) (?_ : Keeps fx false b0 x1)
  extract_lets +onlyGivenNames x2
  extract_lets +onlyGivenNames x3
  refine (fun (k3 : Keeps fx false b0 x3) => ?_) (?_ : Keeps fx false b0 x3)
  extract_lets +onlyGivenNames x4
  refine (fun (k4 : Keeps fx false b0 x4) => ?_) (?_ : Keeps fx false b0 x4)
  extract_lets +onlyGivenNames x5
  extract_lets +onlyGivenNames x6
  extract_lets +onlyGivenNames x7
  refine (fun (k7 : Keeps fx false b0 x7) => ?_) (?_ : Keeps fx false b0 x7)
  extract_lets +onlyGivenNames x8
  refine (fun (k8 : Keeps fx false b0 x8) => ?_) (?_ : Keeps fx false b0 x8)
  apply State.forEach_keeps
  first | with_reducible assumption | assumption
  intro v9
  intro v10
  intro v11
  split
  apply State.putCfg_keeps
  first | with_reducible assumption | assumption
  first | with_reducible assumption | assumption
  dsimp -zeta only [x8]
  apply State.forEach_keeps
  first | with_reducible assumption | assumption
  intro v12
  intro v13
  intro v14
  split
  apply State.putCfg_keeps
  first | with_reducible assumption | assumption
  first | with_reducible assumption | assumption
  dsimp -zeta only [x7]
  refine Keeps.lit ?_ rfl rfl
  first | with_reducible assumption | assumption
  dsimp -zeta only [x4]
  apply State.setOrg_keeps
  apply State.setSafe_keeps
  first | with_reducible assumption | assumption
  dsimp -zeta only [x3]
  apply State.setCe_keeps
  first | with_reducible assumption | assumption
  dsimp -zeta only [x1]
  split
  apply State.putCfg_keeps
  first | with_reducible assumption | assumption
  first | with_reducible assumption | assumption
  dsimp -zeta only [x0]
  apply State.meterTestOff_keeps
  apply State.drvCompare_keeps
  apply State.cmpTestOff_keeps
  apply State.forEach_keeps
  first | with_reducible assumption | assumption
  intro v15
  intro v16
  intro v17
  apply State.linkTestOff_keeps
  first | with_reducible assumption | assumption

theorem State.changeMode_keeps {fx : Bool} {b0 s : State} (new cause : Nat) (hk : Keeps fx false b0 s) : Keeps fx false b0 (State.changeMode s new cause) := by
  unfold State.changeMode
  extract_lets +onlyGivenNames x0
  extract_lets +onlyGivenNames x1
  refine (fun (k1 : Keeps fx false b0 x1) => ?_) (?_ : Keeps fx false b0 x1)
  extract_lets +onlyGivenNames x2
  refine (fun (k2 : Keeps fx false b0 x2) => ?_) (?_ : Keeps fx false b0 x2)
  extract_lets +onlyGivenNames x3
  refine (fun (k3 : Keeps fx false b0 x3) => ?_) (?_ : Keeps fx false b0 x3)
  extract_lets +onlyGivenNames x4
  refine (fun (k4 : Keeps fx false b0 x4) => ?_) (?_ : Keeps fx false b0 x4)
  extract_lets +onlyGivenNames x5
  refine (fun (k5 : Keeps fx false b0 x5) => ?_) (?_ : Keeps fx false b0 x5)
  extract_lets +onlyGivenNames x6
  refine (fun (k6 : Keeps fx false b0 x6) => ?_) (?_ : Keeps fx false b0 x6)
  extract_lets +onlyGivenNames x7
  refine (fun (k7 : Keeps fx false b0 x7) => ?_) (?_ : Keeps fx false b0 x7)
  apply State.safeMode_keeps
  first | with_reducible assumption | assumption
  dsimp -zeta only [x7]
  split
  apply State.forEach_keeps
  first | with_reducible assumption | assumption
  intro v8
  intro v9
  intro v10
  apply State.haltStow_keeps
  first | with_reducible assumption | assumption
  split
  apply State.forEach_keeps
  first | with_reducible assumption | assumption
  intro v11
  intro v12
  intro v13
  apply State.haltLeft_keeps
  first | with_reducible assumption | assumption
  first | with_reducible assumption | assumption
  dsimp -zeta only [x6]
  apply State.slModeChange_keeps
  apply State.islModeChange_keeps
  apply State.locModeChange_keeps
  apply State.limitBoundary_keeps
  first | with_reducible assumption | assumption
  dsimp -zeta only [x5]
  split
  apply State.softAllOff_keeps
  first | with_reducible assumption | assumption
  first | with_reducible assumption | assumption
  dsimp -zeta only [x4]
  apply State.setCe_keeps
  first | with_reducible assumption | assumption
  dsimp -zeta only [x3]
  apply State.setMode_keeps
  first | with_reducible assumption | assumption
  dsimp -zeta only [x2]
  apply State.emitAt_keeps
  first | with_reducible assumption | assumption
  dsimp -zeta only [x1]
  apply State.irq_keeps
  apply State.put_keeps
  apply State.put_keeps
  first | with_reducible assumption | assumption

theorem State.autoTrack_keeps {fx fm : Bool} {b0 s : State}  (hk : Keeps fx fm b0 s) : Keeps fx fm b0 (State.autoTrack s) := by
  unfold State.autoTrack
  apply State.setMode_keeps
  first | with_reducible assumption | assumption

theorem State.judgeRequest_keeps {fx : Bool} {b0 s : State} (t cause : Nat) (hk : Keeps fx false b0 s) : Keeps fx false b0 (State.judgeRequest s t cause) := by
  unfold State.judgeRequest
  extract_lets +onlyGivenNames x0
  split
  extract_lets +onlyGivenNames x1
  refine (fun (k1 : Keeps fx false b0 x1) => ?_) (?_ : Keeps fx false b0 x1)
  split
  first | with_reducible assumption | assumption
  apply State.changeMode_keeps
  first | with_reducible assumption | assumption
  dsimp -zeta only [x1]
  apply State.irq_keeps
  apply State.put_keeps
  first | with_reducible assumption | assumption
  apply State.refuseMode_keeps
  first | with_reducible assumption | assumption

theorem State.supersede_keeps {fx fm : Bool} {b0 s : State} (t : Nat) (hk : Keeps fx fm b0 s) : Keeps fx fm b0 (State.supersede s t) := by
  unfold State.supersede
  split
  first | with_reducible assumption | assumption
  apply State.setMode_keeps
  apply State.refuseMode_keeps
  first | with_reducible assumption | assumption

theorem State.judgeMode_keeps {fx : Bool} {b0 s : State}  (hk : Keeps fx false b0 s) : Keeps fx false b0 (State.judgeMode s) := by
  unfold State.judgeMode
  extract_lets +onlyGivenNames x0
  refine (fun (k0 : Keeps fx false b0 x0) => ?_) (?_ : Keeps fx false b0 x0)
  extract_lets +onlyGivenNames x1
  extract_lets +onlyGivenNames x2
  extract_lets +onlyGivenNames x3
  extract_lets +onlyGivenNames x4
  refine (fun (k4 : Keeps fx false b0 x4) => ?_) (?_ : Keeps fx false b0 x4)
  clear_value x1
  split
  extract_lets +onlyGivenNames x5
  refine (fun (k5 : Keeps fx false b0 x5) => ?_) (?_ : Keeps fx false b0 x5)
  extract_lets +onlyGivenNames x6
  refine (fun (k6 : Keeps fx false b0 x6) => ?_) (?_ : Keeps fx false b0 x6)
  split
  apply State.supersede_keeps
  first | with_reducible assumption | assumption
  split
  apply State.refuseMode_keeps
  first | with_reducible assumption | assumption
  first | with_reducible assumption | assumption
  dsimp -zeta only [x6]
  split
  apply State.put_keeps
  first | with_reducible assumption | assumption
  first | with_reducible assumption | assumption
  dsimp -zeta only [x5]
  apply State.changeMode_keeps
  first | with_reducible assumption | assumption
  split
  apply State.judgeRequest_keeps
  apply State.setMode_keeps
  first | with_reducible assumption | assumption
  split
  apply State.judgeRequest_keeps
  first | with_reducible assumption | assumption
  first | with_reducible assumption | assumption
  dsimp -zeta only [x4]
  apply State.setMode_keeps
  first | with_reducible assumption | assumption
  dsimp -zeta only [x0]
  split
  apply State.powerUpSafe_keeps
  first | with_reducible assumption | assumption
  first | with_reducible assumption | assumption

theorem State.judgeMods_keeps {fx : Bool} {b0 s : State}  (hk : Keeps fx false b0 s) : Keeps fx false b0 (State.judgeMods s) := by
  unfold State.judgeMods
  extract_lets +onlyGivenNames x0
  extract_lets +onlyGivenNames x1
  extract_lets +onlyGivenNames x2
  refine (fun (k2 : Keeps fx false b0 x2) => ?_) (?_ : Keeps fx false b0 x2)
  extract_lets +onlyGivenNames x3
  extract_lets +onlyGivenNames x4
  extract_lets +onlyGivenNames x5
  extract_lets +onlyGivenNames x6
  refine (fun (k6 : Keeps fx false b0 x6) => ?_) (?_ : Keeps fx false b0 x6)
  extract_lets +onlyGivenNames x7
  refine (fun (k7 : Keeps fx false b0 x7) => ?_) (?_ : Keeps fx false b0 x7)
  extract_lets +onlyGivenNames x8
  refine (fun (k8 : Keeps fx false b0 x8) => ?_) (?_ : Keeps fx false b0 x8)
  split
  apply State.testOff_keeps
  first | with_reducible assumption | assumption
  first | with_reducible assumption | assumption
  dsimp -zeta only [x8]
  split
  first | with_reducible assumption | assumption
  apply State.irq_keeps
  first | with_reducible assumption | assumption
  dsimp -zeta only [x7]
  split
  first | with_reducible assumption | assumption
  apply State.emit_keeps
  apply State.setMode_keeps
  apply State.putCfg_keeps
  first | with_reducible assumption | assumption
  dsimp -zeta only [x6]
  apply State.put_keeps
  first | with_reducible assumption | assumption
  dsimp -zeta only [x2]
  split
  apply State.setMode_keeps
  first | with_reducible assumption | assumption
  first | with_reducible assumption | assumption

theorem State.modWritten_keeps {fx fm : Bool} {b0 s : State} (mask : Nat) (hk : Keeps fx fm b0 s) : Keeps fx fm b0 (State.modWritten s mask) := by
  unfold State.modWritten
  apply State.setMode_keeps
  first | with_reducible assumption | assumption

theorem State.judgeProfile_keeps {fx fm : Bool} {b0 s : State}  (hk : Keeps fx fm b0 s) : Keeps fx fm b0 (State.judgeProfile s) := by
  unfold State.judgeProfile
  extract_lets +onlyGivenNames x0
  split
  first | with_reducible assumption | assumption
  extract_lets +onlyGivenNames x1
  refine (fun (k1 : Keeps fx fm b0 x1) => ?_) (?_ : Keeps fx fm b0 x1)
  apply State.recheckLegs_keeps
  split
  apply State.slotCut_keeps
  first | with_reducible assumption | assumption
  first | with_reducible assumption | assumption
  dsimp -zeta only [x1]
  apply State.putB_keeps
  first | with_reducible assumption | assumption

end Sys2Proof.Machine
end

