-- ==== Sys2Proof/Laws/KeepsTick.lean ====
section
/-! SUPPORT. What the operations of Machine/Tick.lean keep. -/

namespace Sys2Proof.Machine

open Sys2Proof

theorem State.stepTime_keeps {fx : Bool} {b0 s : State}  (hk : Keeps fx false b0 s) : Keeps fx false b0 (State.stepTime s) := by
  unfold State.stepTime
  split
  first | with_reducible assumption | assumption
  split
  apply State.tryStep_keeps
  first | with_reducible assumption | assumption
  refine State.setTime_keeps ?_ (fun _ => rfl)
  apply State.meterTimeStep_keeps
  apply State.tryStep_keeps
  first | with_reducible assumption | assumption

theorem State.romOutputs_keeps {fx fm : Bool} {b0 s : State}  (hk : Keeps fx fm b0 s) : Keeps fx fm b0 (State.romOutputs s) := by
  unfold State.romOutputs
  split
  split
  first | with_reducible assumption | assumption
  apply State.safeSync_keeps
  apply State.putPar_keeps
  first | with_reducible assumption | assumption
  first | with_reducible assumption | assumption

theorem State.romTracker_keeps {fx fm : Bool} {b0 s : State}  (hk : Keeps fx fm b0 s) : Keeps fx fm b0 (State.romTracker s) := by
  unfold State.romTracker
  split
  first | with_reducible assumption | assumption
  extract_lets +onlyGivenNames x0
  extract_lets +onlyGivenNames x1
  refine (fun (k1 : Keeps fx fm b0 x1) => ?_) (?_ : Keeps fx fm b0 x1)
  extract_lets +onlyGivenNames x2
  refine (fun (k2 : Keeps fx fm b0 x2) => ?_) (?_ : Keeps fx fm b0 x2)
  split
  apply State.drvCommand_keeps
  refine State.setSys_keeps ?_ (fun _ => rfl)
  first | with_reducible assumption | assumption
  first | with_reducible assumption | assumption
  dsimp -zeta only [x2]
  split
  apply State.drvCommand_keeps
  apply State.safeSync_keeps
  apply State.putPar_keeps
  first | with_reducible assumption | assumption
  first | with_reducible assumption | assumption
  dsimp -zeta only [x1]
  refine State.setSys_keeps ?_ (fun _ => rfl)
  first | with_reducible assumption | assumption

theorem State.blocksTick_keeps {fx fm : Bool} {b0 s : State}  (hk : Keeps fx fm b0 s) : Keeps fx fm b0 (State.blocksTick s) := by
  unfold State.blocksTick
  extract_lets +onlyGivenNames x0
  refine (fun (k0 : Keeps fx fm b0 x0) => ?_) (?_ : Keeps fx fm b0 x0)
  apply State.auxTicks_keeps
  apply State.forEach_keeps
  first | with_reducible assumption | assumption
  intro v1
  intro v2
  intro v3
  apply State.linkTick_keeps
  first | with_reducible assumption | assumption
  dsimp -zeta only [x0]
  apply State.adcTickStart_keeps
  apply State.locTickStart_keeps
  apply State.vTickStart_keeps
  first | with_reducible assumption | assumption

theorem State.polyTick_keeps {fx fm : Bool} {b0 s : State}  (hk : Keeps fx fm b0 s) : Keeps fx fm b0 (State.polyTick s) := by
  unfold State.polyTick
  refine Keeps.lit ?_ rfl rfl
  first | with_reducible assumption | assumption

theorem State.tickBoundary_keeps {fx : Bool} {b0 s : State} (t : Nat) (hk : Keeps fx false b0 s) : Keeps fx false b0 (State.tickBoundary s t) := by
  unfold State.tickBoundary
  extract_lets +onlyGivenNames x0
  refine (fun (k0 : Keeps fx false b0 x0) => ?_) (?_ : Keeps fx false b0 x0)
  extract_lets +onlyGivenNames x1
  refine (fun (k1 : Keeps fx false b0 x1) => ?_) (?_ : Keeps fx false b0 x1)
  extract_lets +onlyGivenNames x2
  refine (fun (k2 : Keeps fx false b0 x2) => ?_) (?_ : Keeps fx false b0 x2)
  extract_lets +onlyGivenNames x3
  refine (fun (k3 : Keeps fx false b0 x3) => ?_) (?_ : Keeps fx false b0 x3)
  apply State.pulse_keeps
  apply State.blocksTick_keeps
  first | with_reducible assumption | assumption
  dsimp -zeta only [x3]
  refine State.setTime_keeps ?_ (fun _ => rfl)
  first | with_reducible assumption | assumption
  dsimp -zeta only [x2]
  apply State.autoTrack_keeps
  apply State.romTracker_keeps
  apply State.romOutputs_keeps
  apply State.judgeProfile_keeps
  apply State.judgeMods_keeps
  apply State.stepTime_keeps
  apply State.limitBoundary_keeps
  first | with_reducible assumption | assumption
  dsimp -zeta only [x1]
  apply State.judgeMode_keeps
  apply State.dcJudge_keeps
  first | with_reducible assumption | assumption
  dsimp -zeta only [x0]
  refine State.setTime_keeps ?_ (fun _ => rfl)
  apply State.polyTick_keeps
  apply State.islReport_keeps
  first | with_reducible assumption | assumption

theorem execTickStart_keeps {fx : Bool} {b0 s t : State}  (hk : Keeps fx false b0 s) (e : execTickStart s = .next t) : Keeps fx false b0 t := by
  unfold execTickStart at e
  cases e
  split
  apply State.tickBoundary_keeps
  apply State.advTo_keeps
  first | with_reducible assumption | assumption
  first | with_reducible assumption | assumption

theorem execInputFreeze_keeps {fx fm : Bool} {b0 s t : State}  (hk : Keeps fx fm b0 s) (e : execInputFreeze s = .next t) : Keeps fx fm b0 t := by
  unfold execInputFreeze at e
  cases e
  split
  apply State.adcFreeze_keeps
  apply State.vFreeze_keeps
  apply State.pulse_keeps
  apply State.advTo_keeps
  first | with_reducible assumption | assumption
  first | with_reducible assumption | assumption

theorem execComputeStart_keeps {fx fm : Bool} {b0 s t : State}  (hk : Keeps fx fm b0 s) (e : execComputeStart s = .next t) : Keeps fx fm b0 t := by
  unfold execComputeStart at e
  cases e
  split
  extract_lets +onlyGivenNames x0
  refine (fun (k0 : Keeps fx fm b0 x0) => ?_) (?_ : Keeps fx fm b0 x0)
  extract_lets +onlyGivenNames x1
  refine (fun (k1 : Keeps fx fm b0 x1) => ?_) (?_ : Keeps fx fm b0 x1)
  apply State.setCe_keeps
  apply State.draw_keeps
  apply State.vStartProgram_keeps
  first | with_reducible assumption | assumption
  dsimp -zeta only [x1]
  apply State.slopeTick_keeps
  apply State.islTick_keeps
  apply State.locusPass_keeps
  first | with_reducible assumption | assumption
  dsimp -zeta only [x0]
  apply State.pulse_keeps
  apply State.advTo_keeps
  first | with_reducible assumption | assumption
  first | with_reducible assumption | assumption

theorem execSelftestTimeout_keeps {fx : Bool} {b0 s t : State}  (hk : Keeps fx false b0 s) (e : execSelftestTimeout s = .next t) : Keeps fx false b0 t := by
  unfold execSelftestTimeout at e
  cases e
  split
  extract_lets +onlyGivenNames x0
  refine (fun (k0 : Keeps fx false b0 x0) => ?_) (?_ : Keeps fx false b0 x0)
  extract_lets +onlyGivenNames x1
  apply State.tickBoundary_keeps
  apply State.advTo_keeps
  first | with_reducible assumption | assumption
  dsimp -zeta only [x0]
  apply State.advUp_keeps
  first | with_reducible assumption | assumption
  first | with_reducible assumption | assumption

theorem execIslCeased_keeps {fx fm : Bool} {b0 s t : State}  (hk : Keeps fx fm b0 s) (e : execIslCeased s = .next t) : Keeps fx fm b0 t := by
  unfold execIslCeased at e
  cases e
  split
  split
  extract_lets +onlyGivenNames x0
  refine (fun (k0 : Keeps fx fm b0 x0) => ?_) (?_ : Keeps fx fm b0 x0)
  extract_lets +onlyGivenNames x1
  refine (fun (k1 : Keeps fx fm b0 x1) => ?_) (?_ : Keeps fx fm b0 x1)
  apply State.emitAt_keeps
  first | with_reducible assumption | assumption
  dsimp -zeta only [x1]
  apply State.safeSync_keeps
  apply State.irq_keeps
  apply State.gcStatus_keeps
  first | with_reducible assumption | assumption
  dsimp -zeta only [x0]
  apply State.putPar_keeps
  apply State.setIsl_keeps
  first | with_reducible assumption | assumption
  first | with_reducible assumption | assumption
  first | with_reducible assumption | assumption

theorem execGenRequest_keeps {fx fm : Bool} {b0 s t : State}  (hk : Keeps fx fm b0 s) (e : execGenRequest s = .next t) : Keeps fx fm b0 t := by
  unfold execGenRequest at e
  cases e
  apply State.whenAlive_keeps
  first | with_reducible assumption | assumption
  split
  extract_lets +onlyGivenNames x0
  refine (fun (k0 : Keeps fx fm b0 x0) => ?_) (?_ : Keeps fx fm b0 x0)
  extract_lets +onlyGivenNames x1
  extract_lets +onlyGivenNames x2
  refine (fun (k2 : Keeps fx fm b0 x2) => ?_) (?_ : Keeps fx fm b0 x2)
  split
  apply State.safeSync_keeps
  apply State.put_keeps
  first | with_reducible assumption | assumption
  first | with_reducible assumption | assumption
  dsimp -zeta only [x2]
  refine Keeps.lit ?_ rfl rfl
  first | with_reducible assumption | assumption
  dsimp -zeta only [x0]
  apply State.advUp_keeps
  first | with_reducible assumption | assumption
  first | with_reducible assumption | assumption

theorem execAutoStart_keeps {fx fm : Bool} {b0 s t : State}  (hk : Keeps fx fm b0 s) (e : execAutoStart s = .next t) : Keeps fx fm b0 t := by
  unfold execAutoStart at e
  cases e
  apply State.whenAlive_keeps
  first | with_reducible assumption | assumption
  split
  apply State.setMode_keeps
  apply State.advUp_keeps
  first | with_reducible assumption | assumption
  first | with_reducible assumption | assumption

end Sys2Proof.Machine
end

