-- ==== Sys2Proof/Laws/KeepsSystem.lean ====
section
/-! SUPPORT. What the operations of Machine/System.lean keep. -/

namespace Sys2Proof.Machine

open Sys2Proof

theorem execTriggerPulse_keeps {fx fm : Bool} {b0 s t : State} (line : Fin 16) (hk : Keeps fx fm b0 s) (e : execTriggerPulse line s = .next t) : Keeps fx fm b0 t := by
  unfold execTriggerPulse at e
  cases e
  split
  split
  apply State.drvPulse_keeps
  apply State.lineReach_keeps
  apply State.lineTake_keeps
  apply State.advTo_keeps
  first | with_reducible assumption | assumption
  first | with_reducible assumption | assumption
  first | with_reducible assumption | assumption

theorem State.outputsLow_keeps {fx fm : Bool} {b0 s : State}  (hk : Keeps fx fm b0 s) : Keeps fx fm b0 (State.outputsLow s) := by
  unfold State.outputsLow
  extract_lets +onlyGivenNames x0
  refine (fun (k0 : Keeps fx fm b0 x0) => ?_) (?_ : Keeps fx fm b0 x0)
  extract_lets +onlyGivenNames x1
  refine (fun (k1 : Keeps fx fm b0 x1) => ?_) (?_ : Keeps fx fm b0 x1)
  refine Keeps.lit ?_ rfl rfl
  first | with_reducible assumption | assumption
  dsimp -zeta only [x1]
  apply State.put_keeps
  apply State.forEach_keeps
  first | with_reducible assumption | assumption
  intro v2
  intro v3
  intro v4
  apply State.put_keeps
  first | with_reducible assumption | assumption
  dsimp -zeta only [x0]
  apply State.forEach_keeps
  first | with_reducible assumption | assumption
  intro v5
  intro v6
  intro v7
  apply State.enterLink_keeps
  first | with_reducible assumption | assumption

theorem State.drivesOff_keeps {fx fm : Bool} {b0 s : State}  (hk : Keeps fx fm b0 s) : Keeps fx fm b0 (State.drivesOff s) := by
  unfold State.drivesOff
  extract_lets +onlyGivenNames x0
  refine (fun (k0 : Keeps fx fm b0 x0) => ?_) (?_ : Keeps fx fm b0 x0)
  refine Keeps.lit ?_ rfl rfl
  first | with_reducible assumption | assumption
  dsimp -zeta only [x0]
  apply State.forEach_keeps
  first | with_reducible assumption | assumption
  intro v1
  intro v2
  intro v3
  apply State.put_keeps
  apply State.put_keeps
  apply State.put_keeps
  apply State.put_keeps
  first | with_reducible assumption | assumption

theorem State.railsFail_keeps {fx : Bool} {b0 s : State} (part : Option Nat) (hk : Keeps fx false b0 s) : Keeps fx false b0 (State.railsFail s part) := by
  unfold State.railsFail
  split
  first | with_reducible assumption | assumption
  extract_lets +onlyGivenNames x0
  extract_lets +onlyGivenNames x1
  extract_lets +onlyGivenNames x2
  refine (fun (k2 : Keeps fx false b0 x2) => ?_) (?_ : Keeps fx false b0 x2)
  extract_lets +onlyGivenNames x3
  refine (fun (k3 : Keeps fx false b0 x3) => ?_) (?_ : Keeps fx false b0 x3)
  extract_lets +onlyGivenNames x4
  refine (fun (k4 : Keeps fx false b0 x4) => ?_) (?_ : Keeps fx false b0 x4)
  extract_lets +onlyGivenNames x5
  refine (fun (k5 : Keeps fx false b0 x5) => ?_) (?_ : Keeps fx false b0 x5)
  extract_lets +onlyGivenNames x6
  refine (fun (k6 : Keeps fx false b0 x6) => ?_) (?_ : Keeps fx false b0 x6)
  refine Keeps.lit ?_ rfl rfl
  first | with_reducible assumption | assumption
  dsimp -zeta only [x6]
  apply State.drivesOff_keeps
  apply State.outputsLow_keeps
  first | with_reducible assumption | assumption
  dsimp -zeta only [x5]
  apply State.setOrg_keeps
  first | with_reducible assumption | assumption
  dsimp -zeta only [x4]
  apply State.put_keeps
  apply State.put_keeps
  first | with_reducible assumption | assumption
  dsimp -zeta only [x3]
  apply State.finalBurst_keeps
  apply State.meterFinal_keeps
  apply State.putB_keeps
  first | with_reducible assumption | assumption
  dsimp -zeta only [x2]
  apply State.bumpSat_keeps
  apply State.put_keeps
  apply State.permitsOff_keeps
  apply State.commitPart_keeps
  apply State.settleBurst_keeps
  first | with_reducible assumption | assumption

theorem execMainRailFailure_keeps {fx : Bool} {b0 s t : State} (part : Option (Fin 64)) (hk : Keeps fx false b0 s) (e : execMainRailFailure part s = .next t) : Keeps fx false b0 t := by
  unfold execMainRailFailure at e
  cases e
  apply State.railsFail_keeps
  first | with_reducible assumption | assumption

theorem State.resetRequest_keeps {fx : Bool} {b0 s : State} (src : Nat) (hk : Keeps fx false b0 s) : Keeps fx false b0 (State.resetRequest s src) := by
  unfold State.resetRequest
  split
  first | with_reducible assumption | assumption
  split
  refine State.setSys_keeps ?_ (fun _ => rfl)
  first | with_reducible assumption | assumption
  extract_lets +onlyGivenNames x0
  refine (fun (k0 : Keeps fx false b0 x0) => ?_) (?_ : Keeps fx false b0 x0)
  extract_lets +onlyGivenNames x1
  refine (fun (k1 : Keeps fx false b0 x1) => ?_) (?_ : Keeps fx false b0 x1)
  extract_lets +onlyGivenNames x2
  refine (fun (k2 : Keeps fx false b0 x2) => ?_) (?_ : Keeps fx false b0 x2)
  refine Keeps.lit ?_ rfl rfl
  first | with_reducible assumption | assumption
  dsimp -zeta only [x2]
  apply State.draw_keeps
  refine State.setSys_keeps ?_ (fun _ => rfl)
  apply State.outputsLow_keeps
  first | with_reducible assumption | assumption
  dsimp -zeta only [x1]
  apply State.finalBurst_keeps
  apply State.permitsOff_keeps
  apply State.meterFinal_keeps
  apply State.put_keeps
  apply State.settleBurst_keeps
  first | with_reducible assumption | assumption
  dsimp -zeta only [x0]
  split
  apply State.softAllOff_keeps
  first | with_reducible assumption | assumption
  first | with_reducible assumption | assumption

theorem State.allReset_keeps {fx : Bool} {b0 s : State} (h : Keeps fx false b0 s) : Keeps fx false b0 s.allReset :=
  h.trans ⟨rfl, Nat.le_refl _, fun w => ⟨Tab.wf_filter _ _ _ w.1, rfl, w.2.2⟩, fun _ => ⟨rfl, rfl⟩, fun e => by cases e⟩

theorem State.releaseReset_keeps {fx : Bool} {b0 s : State} (prof bootsel : Nat) (xtal : Bool) (mult : Nat) (hk : Keeps fx false b0 s) : Keeps fx false b0 (State.releaseReset s prof bootsel xtal mult) := by
  unfold State.releaseReset
  extract_lets +onlyGivenNames x0
  extract_lets +onlyGivenNames x1
  refine (fun (k1 : Keeps fx false b0 x1) => ?_) (?_ : Keeps fx false b0 x1)
  extract_lets +onlyGivenNames x2
  refine (fun (k2 : Keeps fx false b0 x2) => ?_) (?_ : Keeps fx false b0 x2)
  extract_lets +onlyGivenNames x3
  refine (fun (k3 : Keeps fx false b0 x3) => ?_) (?_ : Keeps fx false b0 x3)
  extract_lets +onlyGivenNames x4
  refine (fun (k4 : Keeps fx false b0 x4) => ?_) (?_ : Keeps fx false b0 x4)
  extract_lets +onlyGivenNames x5
  refine (fun (k5 : Keeps fx false b0 x5) => ?_) (?_ : Keeps fx false b0 x5)
  extract_lets +onlyGivenNames x6
  refine (fun (k6 : Keeps fx false b0 x6) => ?_) (?_ : Keeps fx false b0 x6)
  extract_lets +onlyGivenNames x7
  refine (fun (k7 : Keeps fx false b0 x7) => ?_) (?_ : Keeps fx false b0 x7)
  apply State.originRestore_keeps
  apply State.secantLoad_keeps
  first | with_reducible assumption | assumption
  dsimp -zeta only [x7]
  split
  apply State.emit_keeps
  first | with_reducible assumption | assumption
  first | with_reducible assumption | assumption
  dsimp -zeta only [x6]
  apply State.emit_keeps
  first | with_reducible assumption | assumption
  dsimp -zeta only [x5]
  refine State.setTime_keeps ?_ (fun _ => rfl)
  first | with_reducible assumption | assumption
  dsimp -zeta only [x4]
  apply State.put_keeps
  apply State.put_keeps
  apply State.putB_keeps
  first | with_reducible assumption | assumption
  dsimp -zeta only [x3]
  apply State.put_keeps
  apply State.put_keeps
  apply State.put_keeps
  first | with_reducible assumption | assumption
  dsimp -zeta only [x2]
  refine State.setSys_keeps ?_ (fun _ => rfl)
  first | with_reducible assumption | assumption
  dsimp -zeta only [x1]
  apply State.allReset_keeps
  first | with_reducible assumption | assumption

theorem execMainResetRelease_keeps {fx : Bool} {b0 s t : State} (prof : Fin 16) (bootsel : Fin 4) (xtal : Bool) (hk : Keeps fx false b0 s) (e : execMainResetRelease prof bootsel xtal s = .next t) : Keeps fx false b0 t := by
  unfold execMainResetRelease at e
  cases e
  split
  apply State.releaseReset_keeps
  apply State.advUp_keeps
  apply State.settleBurst_keeps
  first | with_reducible assumption | assumption
  first | with_reducible assumption | assumption

theorem execPowerUp_keeps {fx : Bool} {b0 s t : State} (prof : Fin 16) (bootsel : Fin 4) (xtal : Bool) (hk : Keeps fx false b0 s) (e : execPowerUp prof bootsel xtal s = .next t) : Keeps fx false b0 t := by
  unfold execPowerUp at e
  cases e
  split
  extract_lets +onlyGivenNames x0
  refine (fun (k0 : Keeps fx false b0 x0) => ?_) (?_ : Keeps fx false b0 x0)
  extract_lets +onlyGivenNames x1
  refine (fun (k1 : Keeps fx false b0 x1) => ?_) (?_ : Keeps fx false b0 x1)
  extract_lets +onlyGivenNames x2
  refine (fun (k2 : Keeps fx false b0 x2) => ?_) (?_ : Keeps fx false b0 x2)
  extract_lets +onlyGivenNames x3
  refine (fun (k3 : Keeps fx false b0 x3) => ?_) (?_ : Keeps fx false b0 x3)
  apply State.releaseReset_keeps
  refine State.setSys_keeps ?_ (fun _ => rfl)
  first | with_reducible assumption | assumption
  dsimp -zeta only [x3]
  apply State.setOrg_keeps
  first | with_reducible assumption | assumption
  dsimp -zeta only [x2]
  apply State.put_keeps
  apply State.put_keeps
  first | with_reducible assumption | assumption
  dsimp -zeta only [x1]
  split
  first | with_reducible assumption | assumption
  apply State.originInit_keeps
  first | with_reducible assumption | assumption
  dsimp -zeta only [x0]
  apply State.settleBurst_keeps
  first | with_reducible assumption | assumption
  first | with_reducible assumption | assumption

theorem execPinReset_keeps {fx : Bool} {b0 s t : State}  (hk : Keeps fx false b0 s) (e : execPinReset s = .next t) : Keeps fx false b0 t := by
  unfold execPinReset at e
  cases e
  apply State.resetRequest_keeps
  first | with_reducible assumption | assumption

theorem execJtagSystemReset_keeps {fx : Bool} {b0 s t : State}  (hk : Keeps fx false b0 s) (e : execJtagSystemReset s = .next t) : Keeps fx false b0 t := by
  unfold execJtagSystemReset at e
  cases e
  apply State.resetRequest_keeps
  first | with_reducible assumption | assumption

theorem execWdogExpire_keeps {fx : Bool} {b0 s t : State}  (hk : Keeps fx false b0 s) (e : execWdogExpire s = .next t) : Keeps fx false b0 t := by
  unfold execWdogExpire at e
  cases e
  apply State.whenAlive_keeps
  first | with_reducible assumption | assumption
  split
  extract_lets +onlyGivenNames x0
  refine (fun (k0 : Keeps fx false b0 x0) => ?_) (?_ : Keeps fx false b0 x0)
  apply State.idle_keeps
  apply State.resetRequest_keeps
  apply State.emit_keeps
  first | with_reducible assumption | assumption
  dsimp -zeta only [x0]
  apply State.advUp_keeps
  first | with_reducible assumption | assumption
  first | with_reducible assumption | assumption

theorem execSyspllReset_keeps {fx : Bool} {b0 s t : State}  (hk : Keeps fx false b0 s) (e : execSyspllReset s = .next t) : Keeps fx false b0 t := by
  unfold execSyspllReset at e
  cases e
  split
  apply State.idle_keeps
  apply State.resetRequest_keeps
  apply State.advUp_keeps
  first | with_reducible assumption | assumption
  first | with_reducible assumption | assumption

theorem State.pllLock_keeps {fx fm : Bool} {b0 s : State} (v : Nat) (hk : Keeps fx fm b0 s) : Keeps fx fm b0 (State.pllLock s v) := by
  unfold State.pllLock
  split
  first | with_reducible assumption | assumption
  apply State.emit_keeps
  apply State.put_keeps
  first | with_reducible assumption | assumption

theorem execTimePllLock_keeps {fx : Bool} {b0 s t : State}  (hk : Keeps fx false b0 s) (e : execTimePllLock s = .next t) : Keeps fx false b0 t := by
  unfold execTimePllLock at e
  cases e
  split
  extract_lets +onlyGivenNames x0
  extract_lets +onlyGivenNames x1
  extract_lets +onlyGivenNames x2
  extract_lets +onlyGivenNames x3
  refine (fun (k3 : Keeps fx false b0 x3) => ?_) (?_ : Keeps fx false b0 x3)
  extract_lets +onlyGivenNames x4
  refine (fun (k4 : Keeps fx false b0 x4) => ?_) (?_ : Keeps fx false b0 x4)
  apply State.tickBoundary_keeps
  apply State.pllLock_keeps
  first | with_reducible assumption | assumption
  dsimp -zeta only [x4]
  refine State.setTime_keeps ?_ (fun _ => rfl)
  first | with_reducible assumption | assumption
  dsimp -zeta only [x3]
  refine Keeps.lit ?_ rfl rfl
  first | with_reducible assumption | assumption
  first | with_reducible assumption | assumption

theorem State.monFound_keeps {fx fm : Bool} {b0 s : State} (bits : BitVec 9) (ref : Word) (hk : Keeps fx fm b0 s) : Keeps fx fm b0 (State.monFound s bits ref) := by
  unfold State.monFound
  split
  first | with_reducible assumption | assumption
  extract_lets +onlyGivenNames x0
  extract_lets +onlyGivenNames x1
  refine (fun (k1 : Keeps fx fm b0 x1) => ?_) (?_ : Keeps fx fm b0 x1)
  split
  apply State.put_keeps
  first | with_reducible assumption | assumption
  first | with_reducible assumption | assumption
  dsimp -zeta only [x1]
  refine State.setSys_keeps ?_ (fun _ => rfl)
  apply State.put_keeps
  first | with_reducible assumption | assumption

theorem execMonFail_keeps {fx : Bool} {b0 s t : State} (bits : BitVec 9) (low : Bool) (ref : Word) (hk : Keeps fx false b0 s) (e : execMonFail bits low ref s = .next t) : Keeps fx false b0 t := by
  unfold execMonFail at e
  cases e
  extract_lets +onlyGivenNames x0
  refine (fun (k0 : Keeps fx false b0 x0) => ?_) (?_ : Keeps fx false b0 x0)
  apply State.whenAlive_keeps
  first | with_reducible assumption | assumption
  extract_lets +onlyGivenNames x1
  extract_lets +onlyGivenNames x2
  extract_lets +onlyGivenNames x3
  extract_lets +onlyGivenNames x4
  refine (fun (k4 : Keeps fx false b0 x4) => ?_) (?_ : Keeps fx false b0 x4)
  extract_lets +onlyGivenNames x5
  refine (fun (k5 : Keeps fx false b0 x5) => ?_) (?_ : Keeps fx false b0 x5)
  extract_lets +onlyGivenNames x6
  refine (fun (k6 : Keeps fx false b0 x6) => ?_) (?_ : Keeps fx false b0 x6)
  extract_lets +onlyGivenNames x7
  refine (fun (k7 : Keeps fx false b0 x7) => ?_) (?_ : Keeps fx false b0 x7)
  split
  apply State.railsFail_keeps
  first | with_reducible assumption | assumption
  first | with_reducible assumption | assumption
  dsimp -zeta only [x7]
  split
  first | with_reducible assumption | assumption
  apply State.safeFault_keeps
  first | with_reducible assumption | assumption
  dsimp -zeta only [x6]
  split
  apply State.forEach_keeps
  first | with_reducible assumption | assumption
  intro v8
  intro v9
  intro v10
  split
  apply State.lossOfLink_keeps
  first | with_reducible assumption | assumption
  first | with_reducible assumption | assumption
  first | with_reducible assumption | assumption
  dsimp -zeta only [x5]
  split
  first | with_reducible assumption | assumption
  apply State.pllLock_keeps
  apply State.irq_keeps
  apply State.put_keeps
  first | with_reducible assumption | assumption
  dsimp -zeta only [x4]
  split
  first | with_reducible assumption | assumption
  apply State.emit_keeps
  apply State.irq_keeps
  apply State.put_keeps
  first | with_reducible assumption | assumption
  dsimp -zeta only [x0]
  apply State.monFound_keeps
  first | with_reducible assumption | assumption

theorem execPllRelock_keeps {fx fm : Bool} {b0 s t : State} (bits : BitVec 9) (ref : Word) (hk : Keeps fx fm b0 s) (e : execPllRelock bits ref s = .next t) : Keeps fx fm b0 t := by
  unfold execPllRelock at e
  cases e
  split
  first | with_reducible assumption | assumption
  extract_lets +onlyGivenNames x0
  refine (fun (k0 : Keeps fx fm b0 x0) => ?_) (?_ : Keeps fx fm b0 x0)
  extract_lets +onlyGivenNames x1
  extract_lets +onlyGivenNames x2
  refine (fun (k2 : Keeps fx fm b0 x2) => ?_) (?_ : Keeps fx fm b0 x2)
  apply State.pllLock_keeps
  split
  apply State.applyRate_keeps
  first | with_reducible assumption | assumption
  first | with_reducible assumption | assumption
  dsimp -zeta only [x2]
  refine State.setSys_keeps ?_ (fun _ => rfl)
  first | with_reducible assumption | assumption
  dsimp -zeta only [x0]
  apply State.put_keeps
  first | with_reducible assumption | assumption

theorem State.monClear_keeps {fx fm : Bool} {b0 s : State} (mask : Nat) (hk : Keeps fx fm b0 s) : Keeps fx fm b0 (State.monClear s mask).1 := by
  unfold State.monClear
  extract_lets +onlyGivenNames x0
  extract_lets +onlyGivenNames x1
  dsimp only
  apply State.put_keeps
  first | with_reducible assumption | assumption

theorem execGridLoopTrim_keeps {fx fm : Bool} {b0 s t : State}  (hk : Keeps fx fm b0 s) (e : execGridLoopTrim s = .next t) : Keeps fx fm b0 t := by
  unfold execGridLoopTrim at e
  cases e
  split
  refine State.setTime_keeps ?_ (fun _ => rfl)
  apply State.advTo_keeps
  first | with_reducible assumption | assumption
  first | with_reducible assumption | assumption

theorem State.outState_keeps {fx fm : Bool} {b0 s : State} (n : Nat) (hk : Keeps fx fm b0 s) : Keeps fx fm b0 (State.outState s n) := by
  unfold State.outState
  apply State.emit_keeps
  first | with_reducible assumption | assumption

theorem State.outDivider_keeps {fx fm : Bool} {b0 s : State} (n : Nat) (hk : Keeps fx fm b0 s) : Keeps fx fm b0 (State.outDivider s n) := by
  unfold State.outDivider
  apply State.draw_keeps
  refine State.setSys_keeps ?_ (fun _ => rfl)
  first | with_reducible assumption | assumption

theorem State.outFormat_keeps {fx fm : Bool} {b0 s : State} (n : Nat) (hk : Keeps fx fm b0 s) : Keeps fx fm b0 (State.outFormat s n) := by
  unfold State.outFormat
  split
  first | with_reducible assumption | assumption
  extract_lets +onlyGivenNames x0
  extract_lets +onlyGivenNames x1
  extract_lets +onlyGivenNames x2
  extract_lets +onlyGivenNames x3
  apply State.draw_keeps
  refine State.setSys_keeps ?_ (fun _ => rfl)
  first | with_reducible assumption | assumption

theorem State.rephase_keeps {fx fm : Bool} {b0 s : State} (fine : Nat) (hk : Keeps fx fm b0 s) : Keeps fx fm b0 (State.rephase s fine) := by
  unfold State.rephase
  extract_lets +onlyGivenNames x0
  extract_lets +onlyGivenNames x1
  extract_lets +onlyGivenNames x2
  refine (fun (k2 : Keeps fx fm b0 x2) => ?_) (?_ : Keeps fx fm b0 x2)
  apply State.emit_keeps
  apply State.irq_keeps
  apply State.put_keeps
  apply State.putCfg_keeps
  first | with_reducible assumption | assumption
  dsimp -zeta only [x2]
  apply State.forEach_keeps
  first | with_reducible assumption | assumption
  intro v3
  intro v4
  intro v5
  extract_lets +onlyGivenNames x6
  refine State.setSys_keeps ?_ (fun _ => rfl)
  first | with_reducible assumption | assumption

theorem execSyncInEdge_keeps {fx fm : Bool} {b0 s t : State} (rising : Bool) (fine : Fin 16) (hk : Keeps fx fm b0 s) (e : execSyncInEdge rising fine s = .next t) : Keeps fx fm b0 t := by
  unfold execSyncInEdge at e
  cases e
  apply State.whenAlive_keeps
  first | with_reducible assumption | assumption
  extract_lets +onlyGivenNames x0
  refine (fun (k0 : Keeps fx fm b0 x0) => ?_) (?_ : Keeps fx fm b0 x0)
  split
  apply State.rephase_keeps
  first | with_reducible assumption | assumption
  first | with_reducible assumption | assumption
  dsimp -zeta only [x0]
  split
  apply State.syncEdgeTime_keeps
  first | with_reducible assumption | assumption
  refine State.setTime_keeps ?_ (fun _ => rfl)
  first | with_reducible assumption | assumption

theorem execSealChange_keeps {fm : Bool} {b0 s t : State} (level : Bool) (hk : Keeps false fm b0 s) (e : execSealChange level s = .next t) :
    Keeps false fm b0 t := by
  unfold execSealChange at e
  cases e
  extract_lets y
  have ky : Keeps false fm b0 y := hk.trans ⟨rfl, Nat.le_refl _, id, fun e => (by cases e), fun _ => rfl⟩
  split
  · apply State.putPar_keeps
    exact ky
  · exact ky

theorem execAgingCount_keeps {fm : Bool} {b0 s t : State} (monitor : Fin 4) (count : BitVec 16) (hk : Keeps false fm b0 s) (e : execAgingCount monitor count s = .next t) : Keeps false fm b0 t := by
  unfold execAgingCount at e
  cases e
  extract_lets +onlyGivenNames x0
  split
  apply State.originAge_keeps
  first | with_reducible assumption | assumption
  apply State.whenAlive_keeps
  first | with_reducible assumption | assumption
  extract_lets +onlyGivenNames x1
  refine (fun (k1 : Keeps false fm b0 x1) => ?_) (?_ : Keeps false fm b0 x1)
  extract_lets +onlyGivenNames x2
  extract_lets +onlyGivenNames x3
  refine (fun (k3 : Keeps false fm b0 x3) => ?_) (?_ : Keeps false fm b0 x3)
  split
  apply State.busError_keeps
  first | with_reducible assumption | assumption
  split
  apply State.put_keeps
  apply State.mramStore_keeps
  first | with_reducible assumption | assumption
  first | with_reducible assumption | assumption
  dsimp -zeta only [x3]
  apply State.mramMeet_keeps
  first | with_reducible assumption | assumption
  dsimp -zeta only [x1]
  apply State.irq_keeps
  apply State.put_keeps
  first | with_reducible assumption | assumption

theorem execDebugHoldRelease_keeps {fx fm : Bool} {b0 s t : State}  (hk : Keeps fx fm b0 s) (e : execDebugHoldRelease s = .next t) : Keeps fx fm b0 t := by
  unfold execDebugHoldRelease at e
  cases e
  apply State.whenAlive_keeps
  first | with_reducible assumption | assumption
  split
  refine State.setSys_keeps ?_ (fun _ => rfl)
  first | with_reducible assumption | assumption
  first | with_reducible assumption | assumption

theorem execBoundaryScanInstruction_keeps {fx fm : Bool} {b0 s t : State} (extest : Bool) (pattern : Nat) (hk : Keeps fx fm b0 s) (e : execBoundaryScanInstruction extest pattern s = .next t) : Keeps fx fm b0 t := by
  unfold execBoundaryScanInstruction at e
  cases e
  refine State.setSys_keeps ?_ (fun _ => rfl)
  first | with_reducible assumption | assumption

end Sys2Proof.Machine
end

