-- ==== Sys2Proof/Laws/KeepsHooks.lean ====
section
/-! SUPPORT. What the operations of Machine/Hooks.lean keep. -/

namespace Sys2Proof.Machine

open Sys2Proof

theorem andThen_keeps {fx fm : Bool} {b0 : State} {q : State × Bool} {f : State → State × Bool} (h : Keeps fx fm b0 q.1)
    (k : ∀ t, Keeps fx fm b0 t → Keeps fx fm b0 (f t).1) : Keeps fx fm b0 (andThen q f).1 := k _ h

theorem State.underTest_keeps {fx fm : Bool} {b0 s : State} (asked : Bool) {f : State → State} (h : Keeps fx fm b0 s)
    (k : ∀ t, Keeps fx fm b0 t → Keeps fx fm b0 (f t)) : Keeps fx fm b0 (s.underTest asked f).1 := by
  unfold State.underTest
  split
  · split
    · exact k _ h
    · exact h
  · exact h

theorem State.supClear_keeps {fx fm : Bool} {b0 s : State} (mask : Nat) (hk : Keeps fx fm b0 s) : Keeps fx fm b0 (State.supClear s mask) := by
  unfold State.supClear
  apply State.forEach_keeps
  first | with_reducible assumption | assumption
  intro v0
  intro v1
  intro v2
  apply State.setCe_keeps
  apply State.put_keeps
  first | with_reducible assumption | assumption

theorem State.clearJudged_keeps {fx fm : Bool} {b0 s : State} (r : RegRef) (mask : Nat) (hk : Keeps fx fm b0 s) : Keeps fx fm b0 (State.clearJudged s r mask).1 := by
  unfold State.clearJudged
  split
  split
  apply State.auxClearConf_keeps
  first | with_reducible assumption | assumption
  dsimp only
  first | with_reducible assumption | assumption
  apply State.clearLatch_keeps
  first | with_reducible assumption | assumption
  split
  split
  dsimp only
  apply State.safeSync_keeps
  apply State.clearAllOff_keeps
  first | with_reducible assumption | assumption
  dsimp only
  first | with_reducible assumption | assumption
  split
  apply State.clearPg_keeps
  first | with_reducible assumption | assumption
  split
  apply State.clearChannel_keeps
  first | with_reducible assumption | assumption
  dsimp only
  first | with_reducible assumption | assumption
  split
  apply State.slClear_keeps
  first | with_reducible assumption | assumption
  dsimp only
  first | with_reducible assumption | assumption
  split
  apply State.drvClear_keeps
  first | with_reducible assumption | assumption
  dsimp only
  first | with_reducible assumption | assumption
  apply State.brkClear_keeps
  first | with_reducible assumption | assumption
  split
  split
  dsimp only
  first | with_reducible assumption | assumption
  dsimp only
  apply State.put_keeps
  first | with_reducible assumption | assumption
  dsimp only
  first | with_reducible assumption | assumption
  apply State.monClear_keeps
  first | with_reducible assumption | assumption
  dsimp only
  first | with_reducible assumption | assumption

theorem State.cleared_keeps {fx fm : Bool} {b0 s : State} (r : RegRef) (mask : Nat) (hk : Keeps fx fm b0 s) : Keeps fx fm b0 (State.cleared s r mask) := by
  unfold State.cleared
  split
  split
  apply State.forEach_keeps
  first | with_reducible assumption | assumption
  intro v0
  intro v1
  intro v2
  apply State.ringMark_keeps
  first | with_reducible assumption | assumption
  split
  apply State.put_keeps
  first | with_reducible assumption | assumption
  first | with_reducible assumption | assumption
  split
  apply State.supClear_keeps
  first | with_reducible assumption | assumption
  first | with_reducible assumption | assumption
  split
  first | with_reducible assumption | assumption
  apply State.safeSync_keeps
  first | with_reducible assumption | assumption
  first | with_reducible assumption | assumption

theorem State.actCe_keeps {fx fm : Bool} {b0 s : State} (off v : Nat) (hk : Keeps fx fm b0 s) : Keeps fx fm b0 (State.actCe s off v).1 := by
  unfold State.actCe
  split
  dsimp only
  split
  apply State.put_keeps
  first | with_reducible assumption | assumption
  first | with_reducible assumption | assumption
  extract_lets +onlyGivenNames x0
  refine (fun (k0 : Keeps fx fm b0 x0) => ?_) (?_ : Keeps fx fm b0 x0)
  dsimp only
  split
  apply State.setReg_keeps
  first | with_reducible assumption | assumption
  first | with_reducible assumption | assumption
  dsimp -zeta only [x0]
  split
  apply State.put_keeps
  first | with_reducible assumption | assumption
  first | with_reducible assumption | assumption
  dsimp only
  apply State.setCe_keeps
  first | with_reducible assumption | assumption
  extract_lets +onlyGivenNames x1
  split
  dsimp only
  first | with_reducible assumption | assumption
  dsimp only
  apply State.putCfg_keeps
  apply State.setProg_keeps
  first | with_reducible assumption | assumption
  extract_lets +onlyGivenNames x2
  split
  dsimp only
  first | with_reducible assumption | assumption
  dsimp only
  apply State.putCfg_keeps
  apply State.hostData_keeps
  first | with_reducible assumption | assumption
  extract_lets +onlyGivenNames x3
  split
  dsimp only
  apply State.putCfg_keeps
  apply State.bumpMod_keeps
  apply State.setCe_keeps
  first | with_reducible assumption | assumption
  split
  dsimp only
  first | with_reducible assumption | assumption
  dsimp only
  apply State.emit_keeps
  apply State.irq_keeps
  apply State.put_keeps
  first | with_reducible assumption | assumption
  extract_lets +onlyGivenNames x4
  apply andThen_keeps
  apply andThen_keeps
  apply State.underTest_keeps
  first | with_reducible assumption | assumption
  intro v5
  intro v6
  apply State.setCe_keeps
  first | with_reducible assumption | assumption
  intro v7
  intro v8
  apply State.underTest_keeps
  first | with_reducible assumption | assumption
  intro v9
  intro v10
  apply State.setCe_keeps
  first | with_reducible assumption | assumption
  intro v11
  intro v12
  apply State.underTest_keeps
  first | with_reducible assumption | assumption
  intro v13
  intro v14
  apply State.setCe_keeps
  first | with_reducible assumption | assumption
  dsimp only
  first | with_reducible assumption | assumption

theorem State.actTime_keeps {fx fm : Bool} {b0 s : State} (off v : Nat) (hk : Keeps fx fm b0 s) : Keeps fx fm b0 (State.actTime s off v).1 := by
  unfold State.actTime
  split
  dsimp only
  split
  apply State.put_keeps
  first | with_reducible assumption | assumption
  first | with_reducible assumption | assumption
  dsimp only
  split
  apply State.snapTime_keeps
  first | with_reducible assumption | assumption
  first | with_reducible assumption | assumption
  dsimp only
  refine State.setTime_keeps ?_ (fun _ => rfl)
  first | with_reducible assumption | assumption
  extract_lets +onlyGivenNames x0
  dsimp only
  apply State.submitMeas_keeps
  first | with_reducible assumption | assumption
  split
  dsimp only
  apply State.submitMeas_keeps
  first | with_reducible assumption | assumption
  first | with_reducible assumption | assumption
  first | with_reducible assumption | assumption

theorem State.actMd_keeps {fx fm : Bool} {b0 s : State} (d v : Nat) (hk : Keeps fx fm b0 s) : Keeps fx fm b0 (State.actMd s d v).1 := by
  unfold State.actMd
  extract_lets +onlyGivenNames x0
  apply andThen_keeps
  split
  first | with_reducible assumption | assumption
  extract_lets +onlyGivenNames x1
  dsimp only
  dsimp -zeta only [x1]
  apply State.drvCommand_keeps
  first | with_reducible assumption | assumption
  intro v2
  intro v3
  apply State.underTest_keeps
  first | with_reducible assumption | assumption
  intro v4
  intro v5
  apply State.drvFault_keeps
  first | with_reducible assumption | assumption

theorem State.act_keeps {fx : Bool} {b0 s : State} (r : RegRef) (v : Nat) (atLatch : Bool) (hk : Keeps fx false b0 s) : Keeps fx false b0 (State.act s r v atLatch).1 := by
  unfold State.act
  split
  dsimp only
  apply State.put_keeps
  first | with_reducible assumption | assumption
  split
  first | with_reducible assumption | assumption
  split
  split
  split
  dsimp only
  refine State.setSys_keeps ?_ (fun _ => rfl)
  first | with_reducible assumption | assumption
  first | with_reducible assumption | assumption
  first | with_reducible assumption | assumption
  split
  dsimp only
  apply State.forEach_keeps
  first | with_reducible assumption | assumption
  intro v0
  intro v1
  intro v2
  apply State.commitGroup_keeps
  first | with_reducible assumption | assumption
  first | with_reducible assumption | assumption
  split
  extract_lets +onlyGivenNames x3
  extract_lets +onlyGivenNames x4
  refine (fun (k4 : Keeps fx false b0 x4) => ?_) (?_ : Keeps fx false b0 x4)
  extract_lets +onlyGivenNames x5
  refine (fun (k5 : Keeps fx false b0 x5) => ?_) (?_ : Keeps fx false b0 x5)
  extract_lets +onlyGivenNames x6
  refine (fun (k6 : Keeps fx false b0 x6) => ?_) (?_ : Keeps fx false b0 x6)
  dsimp only
  split
  apply State.setReg_keeps
  first | with_reducible assumption | assumption
  first | with_reducible assumption | assumption
  dsimp -zeta only [x6]
  split
  apply State.setReg_keeps
  first | with_reducible assumption | assumption
  first | with_reducible assumption | assumption
  dsimp -zeta only [x5]
  split
  apply State.setReg_keeps
  apply State.setReg_keeps
  first | with_reducible assumption | assumption
  first | with_reducible assumption | assumption
  dsimp -zeta only [x4]
  split
  apply State.setReg_keeps
  first | with_reducible assumption | assumption
  first | with_reducible assumption | assumption
  first | with_reducible assumption | assumption
  split
  apply State.underTest_keeps
  first | with_reducible assumption | assumption
  intro v7
  intro v8
  apply State.latchLeg_keeps
  first | with_reducible assumption | assumption
  first | with_reducible assumption | assumption
  split
  apply State.underTest_keeps
  first | with_reducible assumption | assumption
  intro v9
  intro v10
  apply State.islInject_keeps
  first | with_reducible assumption | assumption
  first | with_reducible assumption | assumption
  split
  dsimp only
  apply State.scanRequest_keeps
  first | with_reducible assumption | assumption
  split
  split
  dsimp only
  apply State.slInject_keeps
  first | with_reducible assumption | assumption
  first | with_reducible assumption | assumption
  first | with_reducible assumption | assumption
  apply State.actCe_keeps
  first | with_reducible assumption | assumption
  split
  apply andThen_keeps
  apply State.underTest_keeps
  first | with_reducible assumption | assumption
  intro v11
  intro v12
  apply State.rotStepTest_keeps
  first | with_reducible assumption | assumption
  intro v13
  intro v14
  apply State.underTest_keeps
  first | with_reducible assumption | assumption
  intro v15
  intro v16
  apply State.rotCalErr_keeps
  first | with_reducible assumption | assumption
  first | with_reducible assumption | assumption
  split
  dsimp only
  split
  apply State.wackAll_keeps
  first | with_reducible assumption | assumption
  first | with_reducible assumption | assumption
  first | with_reducible assumption | assumption
  apply State.actTime_keeps
  first | with_reducible assumption | assumption
  split
  extract_lets +onlyGivenNames x17
  dsimp only
  refine State.setTime_keeps ?_ (fun _ => rfl)
  first | with_reducible assumption | assumption
  first | with_reducible assumption | assumption
  split
  apply State.actMd_keeps
  first | with_reducible assumption | assumption
  first | with_reducible assumption | assumption
  split
  dsimp only
  apply State.armHome_keeps
  first | with_reducible assumption | assumption
  first | with_reducible assumption | assumption
  split
  apply andThen_keeps
  apply State.underTest_keeps
  first | with_reducible assumption | assumption
  intro v18
  intro v19
  apply State.setSafe_keeps
  first | with_reducible assumption | assumption
  intro v20
  intro v21
  apply State.underTest_keeps
  first | with_reducible assumption | assumption
  intro v22
  intro v23
  apply State.setSafe_keeps
  first | with_reducible assumption | assumption
  first | with_reducible assumption | assumption
  split
  dsimp only
  apply State.connRestart_keeps
  first | with_reducible assumption | assumption
  first | with_reducible assumption | assumption
  split
  apply andThen_keeps
  split
  split
  first | with_reducible assumption | assumption
  dsimp only
  apply State.rtcSet_keeps
  first | with_reducible assumption | assumption
  first | with_reducible assumption | assumption
  intro v24
  intro v25
  apply State.underTest_keeps
  first | with_reducible assumption | assumption
  intro v26
  intro v27
  apply State.setOrg_keeps
  first | with_reducible assumption | assumption
  first | with_reducible assumption | assumption
  first | with_reducible assumption | assumption

theorem State.ringWritten_keeps {fx : Bool} {b0 s : State} (s0 : State) (r : Nat) (hk : Keeps fx false b0 s) : Keeps fx false b0 (State.ringWritten s0 s r) := by
  unfold State.ringWritten
  extract_lets +onlyGivenNames x0
  extract_lets +onlyGivenNames x1
  extract_lets +onlyGivenNames x2
  extract_lets +onlyGivenNames x3
  refine (fun (k3 : Keeps fx false b0 x3) => ?_) (?_ : Keeps fx false b0 x3)
  extract_lets +onlyGivenNames x4
  refine (fun (k4 : Keeps fx false b0 x4) => ?_) (?_ : Keeps fx false b0 x4)
  apply State.ringMark_keeps
  first | with_reducible assumption | assumption
  dsimp -zeta only [x4]
  split
  split
  apply State.reportLost_keeps
  first | with_reducible assumption | assumption
  first | with_reducible assumption | assumption
  split
  split
  apply State.setLost_keeps
  first | with_reducible assumption | assumption
  split
  apply State.abortRing_keeps
  first | with_reducible assumption | assumption
  first | with_reducible assumption | assumption
  split
  apply State.reportLost_keeps
  first | with_reducible assumption | assumption
  first | with_reducible assumption | assumption
  dsimp -zeta only [x3]
  apply State.put_keeps
  apply State.putCfg_keeps
  apply State.putCfg_keeps
  first | with_reducible assumption | assumption

theorem State.lateIf_keeps {fx fm : Bool} {b0 s : State} (s0 : State) (n : Nat) (f : Fld) (b : Nat) (hk : Keeps fx fm b0 s) : Keeps fx fm b0 (State.lateIf s s0 n f b) := by
  unfold State.lateIf
  split
  apply State.lateWrite_keeps
  first | with_reducible assumption | assumption
  first | with_reducible assumption | assumption

theorem State.after_keeps {fx : Bool} {b0 s : State} (s0 : State) (r : RegRef) (v : Nat) (atLatch : Bool) (hk : Keeps fx false b0 s) : Keeps fx false b0 (State.after s0 s r v atLatch) := by
  unfold State.after
  extract_lets +onlyGivenNames x0
  extract_lets +onlyGivenNames x1
  extract_lets +onlyGivenNames x2
  split
  first | with_reducible assumption | assumption
  split
  split
  refine State.setSys_keeps ?_ (fun _ => rfl)
  first | with_reducible assumption | assumption
  first | with_reducible assumption | assumption
  split
  apply State.modeRequest_keeps
  first | with_reducible assumption | assumption
  split
  apply State.modWritten_keeps
  first | with_reducible assumption | assumption
  first | with_reducible assumption | assumption
  split
  apply State.outState_keeps
  first | with_reducible assumption | assumption
  split
  apply State.outDivider_keeps
  first | with_reducible assumption | assumption
  split
  apply State.outFormat_keeps
  first | with_reducible assumption | assumption
  first | with_reducible assumption | assumption
  split
  apply State.srcChanged_keeps
  first | with_reducible assumption | assumption
  first | with_reducible assumption | assumption
  extract_lets +onlyGivenNames x3
  refine (fun (k3 : Keeps fx false b0 x3) => ?_) (?_ : Keeps fx false b0 x3)
  split
  first | with_reducible assumption | assumption
  apply State.lateIf_keeps
  apply State.lateIf_keeps
  apply State.lateIf_keeps
  apply State.lateIf_keeps
  apply State.lateIf_keeps
  first | with_reducible assumption | assumption
  dsimp -zeta only [x3]
  apply State.refreshLegCount_keeps
  first | with_reducible assumption | assumption
  extract_lets +onlyGivenNames x4
  refine (fun (k4 : Keeps fx false b0 x4) => ?_) (?_ : Keeps fx false b0 x4)
  extract_lets +onlyGivenNames x5
  refine (fun (k5 : Keeps fx false b0 x5) => ?_) (?_ : Keeps fx false b0 x5)
  split
  first | with_reducible assumption | assumption
  extract_lets +onlyGivenNames x6
  refine (fun (k6 : Keeps fx false b0 x6) => ?_) (?_ : Keeps fx false b0 x6)
  split
  apply State.auxLate_keeps
  first | with_reducible assumption | assumption
  first | with_reducible assumption | assumption
  dsimp -zeta only [x6]
  split
  apply State.auxLate_keeps
  first | with_reducible assumption | assumption
  first | with_reducible assumption | assumption
  dsimp -zeta only [x5]
  split
  apply State.auxSource_keeps
  first | with_reducible assumption | assumption
  first | with_reducible assumption | assumption
  dsimp -zeta only [x4]
  split
  apply State.auxDisable_keeps
  first | with_reducible assumption | assumption
  first | with_reducible assumption | assumption
  split
  apply State.linkCtl_keeps
  first | with_reducible assumption | assumption
  first | with_reducible assumption | assumption
  split
  apply State.startPush_keeps
  first | with_reducible assumption | assumption
  first | with_reducible assumption | assumption
  split
  split
  first | with_reducible assumption | assumption
  apply State.put_keeps
  first | with_reducible assumption | assumption
  split
  apply State.refreshTripped_keeps
  apply State.evalChannel_keeps
  first | with_reducible assumption | assumption
  first | with_reducible assumption | assumption
  split
  first | with_reducible assumption | assumption
  split
  apply State.setCe_keeps
  first | with_reducible assumption | assumption
  split
  apply State.vHalt_keeps
  first | with_reducible assumption | assumption
  first | with_reducible assumption | assumption
  split
  apply State.islEmpty_keeps
  first | with_reducible assumption | assumption
  split
  apply State.islResize_keeps
  first | with_reducible assumption | assumption
  first | with_reducible assumption | assumption
  split
  apply State.rotRestart_keeps
  first | with_reducible assumption | assumption
  first | with_reducible assumption | assumption
  split
  apply State.drvCompare_keeps
  apply State.cmpTest_keeps
  first | with_reducible assumption | assumption
  split
  apply State.drvCompare_keeps
  apply State.evalChannels_keeps
  apply State.forEach_keeps
  first | with_reducible assumption | assumption
  intro v7
  intro v8
  intro v9
  apply State.cmpShow_keeps
  first | with_reducible assumption | assumption
  split
  apply State.drvCompare_keeps
  apply State.cmpCfg_keeps
  first | with_reducible assumption | assumption
  first | with_reducible assumption | assumption
  extract_lets +onlyGivenNames x10
  refine (fun (k10 : Keeps fx false b0 x10) => ?_) (?_ : Keeps fx false b0 x10)
  extract_lets +onlyGivenNames x11
  refine (fun (k11 : Keeps fx false b0 x11) => ?_) (?_ : Keeps fx false b0 x11)
  extract_lets +onlyGivenNames x12
  refine (fun (k12 : Keeps fx false b0 x12) => ?_) (?_ : Keeps fx false b0 x12)
  extract_lets +onlyGivenNames x13
  refine (fun (k13 : Keeps fx false b0 x13) => ?_) (?_ : Keeps fx false b0 x13)
  split
  apply State.calWrite_keeps
  first | with_reducible assumption | assumption
  first | with_reducible assumption | assumption
  dsimp -zeta only [x13]
  split
  apply State.mrotRestart_keeps
  first | with_reducible assumption | assumption
  first | with_reducible assumption | assumption
  dsimp -zeta only [x12]
  split
  apply State.injStart_keeps
  first | with_reducible assumption | assumption
  first | with_reducible assumption | assumption
  dsimp -zeta only [x11]
  split
  apply State.unhold_keeps
  first | with_reducible assumption | assumption
  first | with_reducible assumption | assumption
  dsimp -zeta only [x10]
  first | with_reducible assumption | assumption
  split
  apply State.calWrite_keeps
  first | with_reducible assumption | assumption
  first | with_reducible assumption | assumption
  split
  first | with_reducible assumption | assumption
  split
  apply State.drvEnable_keeps
  first | with_reducible assumption | assumption
  split
  apply State.drvDisable_keeps
  first | with_reducible assumption | assumption
  first | with_reducible assumption | assumption
  split
  apply State.arcEnable_keeps
  first | with_reducible assumption | assumption
  first | with_reducible assumption | assumption
  split
  apply State.ethEnable_keeps
  first | with_reducible assumption | assumption
  first | with_reducible assumption | assumption
  split
  apply State.brkCurrent_keeps
  split
  apply State.brkRequest_keeps
  first | with_reducible assumption | assumption
  first | with_reducible assumption | assumption
  first | with_reducible assumption | assumption
  split
  split
  apply State.wenOpened_keeps
  first | with_reducible assumption | assumption
  first | with_reducible assumption | assumption
  split
  apply State.safeSync_keeps
  first | with_reducible assumption | assumption
  first | with_reducible assumption | assumption
  split
  apply State.put_keeps
  first | with_reducible assumption | assumption
  split
  split
  first | with_reducible assumption | assumption
  apply State.learnSet_keeps
  first | with_reducible assumption | assumption
  split
  apply State.put_keeps
  first | with_reducible assumption | assumption
  first | with_reducible assumption | assumption
  apply State.ringWritten_keeps
  first | with_reducible assumption | assumption
  first | with_reducible assumption | assumption

theorem State.refusedToo_keeps {fx fm : Bool} {b0 s : State} (s0 : State) (r : RegRef) (v : Nat) (hk : Keeps fx fm b0 s) : Keeps fx fm b0 (State.refusedToo s0 s r v) := by
  unfold State.refusedToo
  split
  split
  apply State.put_keeps
  first | with_reducible assumption | assumption
  first | with_reducible assumption | assumption
  split
  apply State.put_keeps
  first | with_reducible assumption | assumption
  first | with_reducible assumption | assumption
  first | with_reducible assumption | assumption

end Sys2Proof.Machine
end

