-- ==== Sys2Proof/Laws/KeepsBus.lean ====
section
/-! SUPPORT. What the operations of Machine/Bus.lean keep. -/

namespace Sys2Proof.Machine

open Sys2Proof

theorem State.ignored_keeps {fx fm : Bool} {b0 s : State} (who : Who) (a cause : Nat) (hk : Keeps fx fm b0 s) : Keeps fx fm b0 (State.ignored s who a cause) := by
  unfold State.ignored
  split
  apply State.emit_keeps
  first | with_reducible assumption | assumption
  extract_lets +onlyGivenNames x0
  extract_lets +onlyGivenNames x1
  refine (fun (k1 : Keeps fx fm b0 x1) => ?_) (?_ : Keeps fx fm b0 x1)
  apply State.emit_keeps
  apply State.irq_keeps
  first | with_reducible assumption | assumption
  dsimp -zeta only [x1]
  apply State.put_keeps
  apply State.put_keeps
  apply State.bumpMod_keeps
  first | with_reducible assumption | assumption

theorem State.readUnimpl_keeps {fx fm : Bool} {b0 s : State} (who : Who) (a : Nat) (hk : Keeps fx fm b0 s) : Keeps fx fm b0 (State.readUnimpl s who a) := by
  unfold State.readUnimpl
  split
  first | with_reducible assumption | assumption
  split
  first | with_reducible assumption | assumption
  split
  apply State.emit_keeps
  first | with_reducible assumption | assumption
  apply State.emit_keeps
  apply State.irq_keeps
  first | with_reducible assumption | assumption

theorem State.setKey_keeps {fx fm : Bool} {b0 s : State} (b : Nat) (u : Option Nat) (hk : Keeps fx fm b0 s) : Keeps fx fm b0 (State.setKey s b u) := by
  unfold State.setKey
  refine State.setSys_keeps ?_ (fun _ => rfl)
  first | with_reducible assumption | assumption

theorem State.actKeyed_keeps {fx : Bool} {b0 s : State} (r : RegRef) (v : Nat) (hk : Keeps fx false b0 s) : Keeps fx false b0 (State.actKeyed s r v).1 := by
  unfold State.actKeyed
  extract_lets +onlyGivenNames x0
  split
  first | with_reducible assumption | assumption
  split
  first | with_reducible assumption | assumption
  split
  dsimp only
  apply State.resetRequest_keeps
  first | with_reducible assumption | assumption
  split
  dsimp only
  apply State.clearMeter_keeps
  first | with_reducible assumption | assumption
  first | with_reducible assumption | assumption
  dsimp only
  apply State.plantRelease_keeps
  first | with_reducible assumption | assumption
  dsimp only
  apply State.driveRelease_keeps
  first | with_reducible assumption | assumption
  first | with_reducible assumption | assumption

theorem State.writeRest_keeps {fx : Bool} {b0 s : State} (s0 : State) (who : Who) (r : RegRef) (v : Nat) (atLatch usesKey refused : Bool) (causes : List Nat) (hk : Keeps fx false b0 s) : Keeps fx false b0 (State.writeRest s0 s who r v atLatch usesKey refused causes) := by
  unfold State.writeRest
  extract_lets +onlyGivenNames x0
  extract_lets +onlyGivenNames x1
  extract_lets +onlyGivenNames x2
  refine (fun (k2 : Keeps fx false b0 x2) => ?_) (?_ : Keeps fx false b0 x2)
  extract_lets +onlyGivenNames x3
  extract_lets +onlyGivenNames x4
  extract_lets +onlyGivenNames x5
  refine (fun (k5 : Keeps fx false b0 x5) => ?_) (?_ : Keeps fx false b0 x5)
  extract_lets +onlyGivenNames x6
  refine (fun (k6 : Keeps fx false b0 x6) => ?_) (?_ : Keeps fx false b0 x6)
  extract_lets +onlyGivenNames x7
  extract_lets +onlyGivenNames x8
  refine (fun (k8 : Keeps fx false b0 x8) => ?_) (?_ : Keeps fx false b0 x8)
  split
  first | with_reducible assumption | assumption
  apply State.ignored_keeps
  first | with_reducible assumption | assumption
  dsimp -zeta only [x8]
  split
  apply State.setKey_keeps
  dsimp -zeta only [x7]
  apply State.actKeyed_keeps
  first | with_reducible assumption | assumption
  dsimp -zeta only [x7]
  apply State.actKeyed_keeps
  first | with_reducible assumption | assumption
  dsimp -zeta only [x6]
  split
  apply State.refusedToo_keeps
  first | with_reducible assumption | assumption
  first | with_reducible assumption | assumption
  dsimp -zeta only [x5]
  apply State.after_keeps
  dsimp -zeta only [x4]
  apply State.act_keeps
  dsimp -zeta only [x3]
  split
  first | with_reducible assumption | assumption
  apply State.clearJudged_keeps
  first | with_reducible assumption | assumption
  dsimp -zeta only [x2]
  split
  first | with_reducible assumption | assumption
  apply State.cleared_keeps
  apply State.setReg_keeps
  first | with_reducible assumption | assumption

theorem State.clearFlips_keeps {fx fm : Bool} {b0 s : State} (r : RegRef) (fs : List FieldSpec) (hk : Keeps fx fm b0 s) : Keeps fx fm b0 (State.clearFlips s r fs) := by
  unfold State.clearFlips
  split
  first | with_reducible assumption | assumption
  extract_lets +onlyGivenNames x0
  refine Keeps.lit ?_ rfl rfl
  first | with_reducible assumption | assumption

theorem State.writeFields_keeps {fx : Bool} {b0 s : State} (who : Who) (r : RegRef) (v : Nat) (atLatch : Bool) (hk : Keeps fx false b0 s) : Keeps fx false b0 (State.writeFields s who r v atLatch) := by
  unfold State.writeFields
  extract_lets +onlyGivenNames x0
  extract_lets +onlyGivenNames x1
  extract_lets +onlyGivenNames x2
  extract_lets +onlyGivenNames x3
  extract_lets +onlyGivenNames x4
  extract_lets +onlyGivenNames x5
  refine (fun (k5 : Keeps fx false b0 x5) => ?_) (?_ : Keeps fx false b0 x5)
  extract_lets +onlyGivenNames x6
  refine (fun (k6 : Keeps fx false b0 x6) => ?_) (?_ : Keeps fx false b0 x6)
  extract_lets +onlyGivenNames x7
  refine (fun (k7 : Keeps fx false b0 x7) => ?_) (?_ : Keeps fx false b0 x7)
  extract_lets +onlyGivenNames x8
  refine (fun (k8 : Keeps fx false b0 x8) => ?_) (?_ : Keeps fx false b0 x8)
  apply State.writeRest_keeps
  first | with_reducible assumption | assumption
  dsimp -zeta only [x8]
  apply Keeps.foldl
  first | with_reducible assumption | assumption
  intro v9
  intro v10
  intro v11
  apply State.stage4_keeps
  first | with_reducible assumption | assumption
  dsimp -zeta only [x7]
  apply State.clearFlips_keeps
  first | with_reducible assumption | assumption
  dsimp -zeta only [x6]
  split
  first | with_reducible assumption | assumption
  refine Keeps.lit ?_ rfl rfl
  first | with_reducible assumption | assumption
  dsimp -zeta only [x5]
  apply State.setReg_keeps
  first | with_reducible assumption | assumption

theorem State.writeKey_keeps {fx fm : Bool} {b0 s : State} (who : Who) (r : RegRef) (v : Nat) (hk : Keeps fx fm b0 s) : Keeps fx fm b0 (State.writeKey s who r v) := by
  unfold State.writeKey
  extract_lets +onlyGivenNames x0
  split
  apply State.setKey_keeps
  first | with_reducible assumption | assumption
  apply State.ignored_keeps
  apply State.setKey_keeps
  first | with_reducible assumption | assumption

theorem State.writePointer_keeps {fx : Bool} {b0 s : State} (who : Who) (r : RegRef) (v : Nat) (hk : Keeps fx false b0 s) : Keeps fx false b0 (State.writePointer s who r v) := by
  unfold State.writePointer
  extract_lets +onlyGivenNames x0
  extract_lets +onlyGivenNames x1
  split
  first | with_reducible assumption | assumption
  split
  apply State.ignored_keeps
  first | with_reducible assumption | assumption
  extract_lets +onlyGivenNames x2
  split
  apply State.ignored_keeps
  first | with_reducible assumption | assumption
  apply State.ringWritten_keeps
  extract_lets +onlyGivenNames x3
  refine (fun (k3 : Keeps fx false b0 x3) => ?_) (?_ : Keeps fx false b0 x3)
  refine Keeps.lit ?_ rfl rfl
  first | with_reducible assumption | assumption
  dsimp -zeta only [x3]
  apply State.setReg_keeps
  first | with_reducible assumption | assumption

theorem State.writeReg_keeps {fx : Bool} {b0 s : State} (who : Who) (a bytes v : Nat) (atLatch : Bool) (hk : Keeps fx false b0 s) : Keeps fx false b0 (State.writeReg s who a bytes v atLatch) := by
  unfold State.writeReg
  extract_lets +onlyGivenNames x0
  split
  first | with_reducible assumption | assumption
  split
  apply State.ignored_keeps
  first | with_reducible assumption | assumption
  extract_lets +onlyGivenNames x1
  split
  apply State.ignored_keeps
  first | with_reducible assumption | assumption
  split
  apply State.ignored_keeps
  first | with_reducible assumption | assumption
  split
  split
  apply State.ignored_keeps
  first | with_reducible assumption | assumption
  first | with_reducible assumption | assumption
  split
  apply State.writeKey_keeps
  first | with_reducible assumption | assumption
  split
  apply State.ignored_keeps
  first | with_reducible assumption | assumption
  split
  apply State.writePointer_keeps
  first | with_reducible assumption | assumption
  apply State.writeFields_keeps
  first | with_reducible assumption | assumption

theorem State.busWrite_keeps {fx : Bool} {b0 s : State} (who : Who) (a bytes : Nat) (v : Dword) (atLatch : Bool) (hk : Keeps fx false b0 s) : Keeps fx false b0 (State.busWrite s who a bytes v atLatch) := by
  unfold State.busWrite
  split
  apply State.writeReg_keeps
  apply State.writeReg_keeps
  first | with_reducible assumption | assumption
  apply State.writeReg_keeps
  first | with_reducible assumption | assumption

theorem State.fieldWrite_keeps {fx : Bool} {b0 s : State} (who : Who) (f : Fld) (w : Nat) (atLatch : Bool) (hk : Keeps fx false b0 s) : Keeps fx false b0 (State.fieldWrite s who f w atLatch) := by
  unfold State.fieldWrite
  extract_lets +onlyGivenNames x0
  apply State.writeReg_keeps
  first | with_reducible assumption | assumption

theorem State.wordWrite_keeps {fx : Bool} {b0 s : State} (who : Who) (f : Fld) (v : Word) (hk : Keeps fx false b0 s) : Keeps fx false b0 (State.wordWrite s who f v) := by
  unfold State.wordWrite
  apply State.writeReg_keeps
  first | with_reducible assumption | assumption

end Sys2Proof.Machine
end

