-- ==== Sys2Proof/Laws/KeepsWrites.lean ====
section
/-! SUPPORT. What the operations of Machine/Writes.lean keep. -/

namespace Sys2Proof.Machine

open Sys2Proof

theorem execKey_keeps {fx : Bool} {b0 s t : State} (who : Who) (addr : Nat) (v : Word) (hk : Keeps fx false b0 s) (e : execKey who addr v s = .next t) : Keeps fx false b0 t := by
  unfold execKey at e
  (try dsimp only at e)
  split at e
  all_goals cases e
  apply State.whenAlive_keeps
  first | with_reducible assumption | assumption
  apply State.writeReg_keeps
  first | with_reducible assumption | assumption

theorem execKeyExpiry_keeps {fx fm : Bool} {b0 s t : State} (addr : Nat) (hk : Keeps fx fm b0 s) (e : execKeyExpiry addr s = .next t) : Keeps fx fm b0 t := by
  unfold execKeyExpiry at e
  cases e
  apply State.whenAlive_keeps
  first | with_reducible assumption | assumption
  extract_lets +onlyGivenNames x0
  split
  first | with_reducible assumption | assumption
  apply State.setKey_keeps
  apply State.advUp_keeps
  first | with_reducible assumption | assumption

theorem execRegisterWrite_keeps {fx : Bool} {b0 s t : State} (who : Who) (addr bytes : Nat) (v : Dword) (atLatch : Bool) (hk : Keeps fx false b0 s) (e : execRegisterWrite who addr bytes v atLatch s = .next t) : Keeps fx false b0 t := by
  unfold execRegisterWrite at e
  (try dsimp only at e)
  split at e
  all_goals cases e
  apply State.whenAlive_keeps
  first | with_reducible assumption | assumption
  apply State.busWrite_keeps
  first | with_reducible assumption | assumption

theorem execAccessUnimpl_keeps {fx fm : Bool} {b0 s t : State} (who : Who) (addr : Nat) (hk : Keeps fx fm b0 s) (e : execAccessUnimpl who addr s = .next t) : Keeps fx fm b0 t := by
  unfold execAccessUnimpl at e
  (try dsimp only at e)
  split at e
  all_goals cases e
  apply State.whenAlive_keeps
  first | with_reducible assumption | assumption
  apply State.readUnimpl_keeps
  first | with_reducible assumption | assumption

theorem execIrqForce_keeps {fx : Bool} {b0 s t : State} (who : Who) (addr : Nat) (v : Word) (hk : Keeps fx false b0 s) (e : execIrqForce who addr v s = .next t) : Keeps fx false b0 t := by
  unfold execIrqForce at e
  (try dsimp only at e)
  split at e
  all_goals cases e
  apply State.whenAlive_keeps
  first | with_reducible assumption | assumption
  apply State.writeReg_keeps
  first | with_reducible assumption | assumption

theorem execRingEnable_keeps {fx : Bool} {b0 s t : State} (who : Who) (ring : Fin 48) (v : Word) (hk : Keeps fx false b0 s) (e : execRingEnable who ring v s = .next t) : Keeps fx false b0 t := by
  unfold execRingEnable at e
  cases e
  apply State.whenAlive_keeps
  first | with_reducible assumption | assumption
  apply State.wordWrite_keeps
  first | with_reducible assumption | assumption

theorem execRingDisable_keeps {fx : Bool} {b0 s t : State} (who : Who) (ring : Fin 48) (v : Word) (hk : Keeps fx false b0 s) (e : execRingDisable who ring v s = .next t) : Keeps fx false b0 t := by
  unfold execRingDisable at e
  cases e
  apply State.whenAlive_keeps
  first | with_reducible assumption | assumption
  apply State.wordWrite_keeps
  first | with_reducible assumption | assumption

theorem execRingPointerWrite_keeps {fx : Bool} {b0 s t : State} (who : Who) (ring : Fin 48) (v : Word) (hk : Keeps fx false b0 s) (e : execRingPointerWrite who ring v s = .next t) : Keeps fx false b0 t := by
  unfold execRingPointerWrite at e
  cases e
  apply State.whenAlive_keeps
  first | with_reducible assumption | assumption
  apply State.wordWrite_keeps
  first | with_reducible assumption | assumption

theorem execSwrst_keeps {fx : Bool} {b0 s t : State} (who : Who) (hk : Keeps fx false b0 s) (e : execSwrst who s = .next t) : Keeps fx false b0 t := by
  unfold execSwrst at e
  cases e
  apply State.whenAlive_keeps
  first | with_reducible assumption | assumption
  apply State.fieldWrite_keeps
  first | with_reducible assumption | assumption

theorem execModeRequestStandby_keeps {fx : Bool} {b0 s t : State} (who : Who) (hk : Keeps fx false b0 s) (e : execModeRequestStandby who s = .next t) : Keeps fx false b0 t := by
  unfold execModeRequestStandby at e
  cases e
  apply State.whenAlive_keeps
  first | with_reducible assumption | assumption
  apply State.fieldWrite_keeps
  first | with_reducible assumption | assumption

theorem execModeRequestFollow_keeps {fx : Bool} {b0 s t : State} (who : Who) (hk : Keeps fx false b0 s) (e : execModeRequestFollow who s = .next t) : Keeps fx false b0 t := by
  unfold execModeRequestFollow at e
  cases e
  apply State.whenAlive_keeps
  first | with_reducible assumption | assumption
  apply State.fieldWrite_keeps
  first | with_reducible assumption | assumption

theorem execModeRequestForm_keeps {fx : Bool} {b0 s t : State} (who : Who) (hk : Keeps fx false b0 s) (e : execModeRequestForm who s = .next t) : Keeps fx false b0 t := by
  unfold execModeRequestForm at e
  cases e
  apply State.whenAlive_keeps
  first | with_reducible assumption | assumption
  apply State.fieldWrite_keeps
  first | with_reducible assumption | assumption

theorem execModeRequestHalt_keeps {fx : Bool} {b0 s t : State} (who : Who) (hk : Keeps fx false b0 s) (e : execModeRequestHalt who s = .next t) : Keeps fx false b0 t := by
  unfold execModeRequestHalt at e
  cases e
  apply State.whenAlive_keeps
  first | with_reducible assumption | assumption
  apply State.fieldWrite_keeps
  first | with_reducible assumption | assumption

theorem execModeRequestInvalid_keeps {fx : Bool} {b0 s t : State} (who : Who) (target : Fin 8) (hk : Keeps fx false b0 s) (e : execModeRequestInvalid who target s = .next t) : Keeps fx false b0 t := by
  unfold execModeRequestInvalid at e
  cases e
  apply State.whenAlive_keeps
  first | with_reducible assumption | assumption
  apply State.fieldWrite_keeps
  first | with_reducible assumption | assumption

theorem execCurtail_keeps {fx : Bool} {b0 s t : State} (who : Who) (on : Bool) (hk : Keeps fx false b0 s) (e : execCurtail who on s = .next t) : Keeps fx false b0 t := by
  unfold execCurtail at e
  cases e
  apply State.whenAlive_keeps
  first | with_reducible assumption | assumption
  apply State.fieldWrite_keeps
  first | with_reducible assumption | assumption

theorem execNightvar_keeps {fx : Bool} {b0 s t : State} (who : Who) (on : Bool) (hk : Keeps fx false b0 s) (e : execNightvar who on s = .next t) : Keeps fx false b0 t := by
  unfold execNightvar at e
  cases e
  apply State.whenAlive_keeps
  first | with_reducible assumption | assumption
  apply State.fieldWrite_keeps
  first | with_reducible assumption | assumption

theorem execTest_keeps {fx : Bool} {b0 s t : State} (who : Who) (on : Bool) (hk : Keeps fx false b0 s) (e : execTest who on s = .next t) : Keeps fx false b0 t := by
  unfold execTest at e
  cases e
  apply State.whenAlive_keeps
  first | with_reducible assumption | assumption
  apply State.fieldWrite_keeps
  first | with_reducible assumption | assumption

theorem execLegacy_keeps {fx : Bool} {b0 s t : State} (who : Who) (on : Bool) (hk : Keeps fx false b0 s) (e : execLegacy who on s = .next t) : Keeps fx false b0 t := by
  unfold execLegacy at e
  cases e
  apply State.whenAlive_keeps
  first | with_reducible assumption | assumption
  apply State.fieldWrite_keeps
  first | with_reducible assumption | assumption

theorem execProfileRequest_keeps {fx : Bool} {b0 s t : State} (who : Who) (fine : Bool) (hk : Keeps fx false b0 s) (e : execProfileRequest who fine s = .next t) : Keeps fx false b0 t := by
  unfold execProfileRequest at e
  cases e
  apply State.whenAlive_keeps
  first | with_reducible assumption | assumption
  apply State.fieldWrite_keeps
  first | with_reducible assumption | assumption

theorem execWdogKick_keeps {fx : Bool} {b0 s t : State} (who : Who) (v : Word) (hk : Keeps fx false b0 s) (e : execWdogKick who v s = .next t) : Keeps fx false b0 t := by
  unfold execWdogKick at e
  cases e
  apply State.whenAlive_keeps
  first | with_reducible assumption | assumption
  apply State.wordWrite_keeps
  first | with_reducible assumption | assumption

theorem execHcRelease_keeps {fx : Bool} {b0 s t : State} (who : Who) (v : Word) (hk : Keeps fx false b0 s) (e : execHcRelease who v s = .next t) : Keeps fx false b0 t := by
  unfold execHcRelease at e
  cases e
  apply State.whenAlive_keeps
  first | with_reducible assumption | assumption
  apply State.wordWrite_keeps
  first | with_reducible assumption | assumption

theorem execCommit_keeps {fx : Bool} {b0 s t : State} (who : Who) (group : Fin 16) (atLatch : Bool) (hk : Keeps fx false b0 s) (e : execCommit who group atLatch s = .next t) : Keeps fx false b0 t := by
  unfold execCommit at e
  cases e
  apply State.whenAlive_keeps
  first | with_reducible assumption | assumption
  apply State.writeReg_keeps
  first | with_reducible assumption | assumption

theorem execLegEnable_keeps {fx : Bool} {b0 s t : State} (who : Who) (leg : Fin 64) (en : Bool) (hk : Keeps fx false b0 s) (e : execLegEnable who leg en s = .next t) : Keeps fx false b0 t := by
  unfold execLegEnable at e
  cases e
  apply State.whenAlive_keeps
  first | with_reducible assumption | assumption
  apply State.fieldWrite_keeps
  first | with_reducible assumption | assumption

theorem execLinkEnable_keeps {fx : Bool} {b0 s t : State} (who : Who) (port : Fin 8) (en : Bool) (hk : Keeps fx false b0 s) (e : execLinkEnable who port en s = .next t) : Keeps fx false b0 t := by
  unfold execLinkEnable at e
  cases e
  apply State.whenAlive_keeps
  first | with_reducible assumption | assumption
  apply State.fieldWrite_keeps
  first | with_reducible assumption | assumption

theorem execRetrain_keeps {fx : Bool} {b0 s t : State} (who : Who) (port : Fin 8) (hk : Keeps fx false b0 s) (e : execRetrain who port s = .next t) : Keeps fx false b0 t := by
  unfold execRetrain at e
  cases e
  apply State.whenAlive_keeps
  first | with_reducible assumption | assumption
  apply State.fieldWrite_keeps
  first | with_reducible assumption | assumption

theorem execLoopNearSerial_keeps {fx : Bool} {b0 s t : State} (who : Who) (port : Fin 8) (hk : Keeps fx false b0 s) (e : execLoopNearSerial who port s = .next t) : Keeps fx false b0 t := by
  unfold execLoopNearSerial at e
  cases e
  apply State.whenAlive_keeps
  first | with_reducible assumption | assumption
  apply State.fieldWrite_keeps
  first | with_reducible assumption | assumption

theorem execLoopNearParallel_keeps {fx : Bool} {b0 s t : State} (who : Who) (port : Fin 8) (hk : Keeps fx false b0 s) (e : execLoopNearParallel who port s = .next t) : Keeps fx false b0 t := by
  unfold execLoopNearParallel at e
  cases e
  apply State.whenAlive_keeps
  first | with_reducible assumption | assumption
  apply State.fieldWrite_keeps
  first | with_reducible assumption | assumption

theorem execLoopFarEnd_keeps {fx : Bool} {b0 s t : State} (who : Who) (port : Fin 8) (hk : Keeps fx false b0 s) (e : execLoopFarEnd who port s = .next t) : Keeps fx false b0 t := by
  unfold execLoopFarEnd at e
  cases e
  apply State.whenAlive_keeps
  first | with_reducible assumption | assumption
  apply State.fieldWrite_keeps
  first | with_reducible assumption | assumption

theorem execPrbs31Test_keeps {fx : Bool} {b0 s t : State} (who : Who) (port : Fin 8) (hk : Keeps fx false b0 s) (e : execPrbs31Test who port s = .next t) : Keeps fx false b0 t := by
  unfold execPrbs31Test at e
  cases e
  apply State.whenAlive_keeps
  first | with_reducible assumption | assumption
  apply State.fieldWrite_keeps
  first | with_reducible assumption | assumption

theorem execLoopEnd_keeps {fx : Bool} {b0 s t : State} (who : Who) (port : Fin 8) (hk : Keeps fx false b0 s) (e : execLoopEnd who port s = .next t) : Keeps fx false b0 t := by
  unfold execLoopEnd at e
  cases e
  apply State.whenAlive_keeps
  first | with_reducible assumption | assumption
  apply State.fieldWrite_keeps
  first | with_reducible assumption | assumption

theorem execLinkCntclrCrc_keeps {fx : Bool} {b0 s t : State} (who : Who) (port : Fin 8) (hk : Keeps fx false b0 s) (e : execLinkCntclrCrc who port s = .next t) : Keeps fx false b0 t := by
  unfold execLinkCntclrCrc at e
  cases e
  apply State.whenAlive_keeps
  first | with_reducible assumption | assumption
  apply State.wordWrite_keeps
  first | with_reducible assumption | assumption

theorem execLinkCntclrPrbs_keeps {fx : Bool} {b0 s t : State} (who : Who) (port : Fin 8) (hk : Keeps fx false b0 s) (e : execLinkCntclrPrbs who port s = .next t) : Keeps fx false b0 t := by
  unfold execLinkCntclrPrbs at e
  cases e
  apply State.whenAlive_keeps
  first | with_reducible assumption | assumption
  apply State.wordWrite_keeps
  first | with_reducible assumption | assumption

theorem execLinkCntclrLooperr_keeps {fx : Bool} {b0 s t : State} (who : Who) (port : Fin 8) (hk : Keeps fx false b0 s) (e : execLinkCntclrLooperr who port s = .next t) : Keeps fx false b0 t := by
  unfold execLinkCntclrLooperr at e
  cases e
  apply State.whenAlive_keeps
  first | with_reducible assumption | assumption
  apply State.wordWrite_keeps
  first | with_reducible assumption | assumption

theorem execLinkCntclrErr_keeps {fx : Bool} {b0 s t : State} (who : Who) (port : Fin 8) (hk : Keeps fx false b0 s) (e : execLinkCntclrErr who port s = .next t) : Keeps fx false b0 t := by
  unfold execLinkCntclrErr at e
  cases e
  apply State.whenAlive_keeps
  first | with_reducible assumption | assumption
  apply State.wordWrite_keeps
  first | with_reducible assumption | assumption

theorem execTripClear_keeps {fx : Bool} {b0 s t : State} (who : Who) (port : Fin 8) (leg : Fin 8) (v : Word) (hk : Keeps fx false b0 s) (e : execTripClear who port leg v s = .next t) : Keeps fx false b0 t := by
  unfold execTripClear at e
  cases e
  apply State.whenAlive_keeps
  first | with_reducible assumption | assumption
  apply State.wordWrite_keeps
  first | with_reducible assumption | assumption

theorem execInj_keeps {fx : Bool} {b0 s t : State} (who : Who) (port : Fin 8) (leg : Fin 8) (hk : Keeps fx false b0 s) (e : execInj who port leg s = .next t) : Keeps fx false b0 t := by
  unfold execInj at e
  cases e
  apply State.whenAlive_keeps
  first | with_reducible assumption | assumption
  apply State.fieldWrite_keeps
  first | with_reducible assumption | assumption

theorem execChannelClear_keeps {fx : Bool} {b0 s t : State} (who : Who) (which : Fin 9) (hk : Keeps fx false b0 s) (e : execChannelClear who which s = .next t) : Keeps fx false b0 t := by
  unfold execChannelClear at e
  cases e
  apply State.whenAlive_keeps
  first | with_reducible assumption | assumption
  apply State.wordWrite_keeps
  first | with_reducible assumption | assumption

theorem execIslInj_keeps {fx : Bool} {b0 s t : State} (who : Who) (hk : Keeps fx false b0 s) (e : execIslInj who s = .next t) : Keeps fx false b0 t := by
  unfold execIslInj at e
  cases e
  apply State.whenAlive_keeps
  first | with_reducible assumption | assumption
  apply State.fieldWrite_keeps
  first | with_reducible assumption | assumption

theorem execScanRequest_keeps {fx : Bool} {b0 s t : State} (who : Who) (v : Word) (hk : Keeps fx false b0 s) (e : execScanRequest who v s = .next t) : Keeps fx false b0 t := by
  unfold execScanRequest at e
  cases e
  apply State.whenAlive_keeps
  first | with_reducible assumption | assumption
  apply State.wordWrite_keeps
  first | with_reducible assumption | assumption

theorem execStringFaultClear_keeps {fx : Bool} {b0 s t : State} (who : Who) (ch : Fin 32) (hk : Keeps fx false b0 s) (e : execStringFaultClear who ch s = .next t) : Keeps fx false b0 t := by
  unfold execStringFaultClear at e
  cases e
  apply State.whenAlive_keeps
  first | with_reducible assumption | assumption
  apply State.wordWrite_keeps
  first | with_reducible assumption | assumption

theorem execSlopeTestFault_keeps {fx : Bool} {b0 s t : State} (who : Who) (ch : Fin 32) (hk : Keeps fx false b0 s) (e : execSlopeTestFault who ch s = .next t) : Keeps fx false b0 t := by
  unfold execSlopeTestFault at e
  cases e
  apply State.whenAlive_keeps
  first | with_reducible assumption | assumption
  apply State.wordWrite_keeps
  first | with_reducible assumption | assumption

theorem execRun_keeps {fx : Bool} {b0 s t : State} (who : Who) (on : Bool) (hk : Keeps fx false b0 s) (e : execRun who on s = .next t) : Keeps fx false b0 t := by
  unfold execRun at e
  cases e
  apply State.whenAlive_keeps
  first | with_reducible assumption | assumption
  apply State.fieldWrite_keeps
  first | with_reducible assumption | assumption

theorem execSwap_keeps {fx : Bool} {b0 s t : State} (who : Who) (hk : Keeps fx false b0 s) (e : execSwap who s = .next t) : Keeps fx false b0 t := by
  unfold execSwap at e
  cases e
  apply State.whenAlive_keeps
  first | with_reducible assumption | assumption
  apply State.fieldWrite_keeps
  first | with_reducible assumption | assumption

theorem execProgramWordWrite_keeps {fx : Bool} {b0 s t : State} (who : Who) (v : Word) (hk : Keeps fx false b0 s) (e : execProgramWordWrite who v s = .next t) : Keeps fx false b0 t := by
  unfold execProgramWordWrite at e
  cases e
  apply State.whenAlive_keeps
  first | with_reducible assumption | assumption
  apply State.wordWrite_keeps
  first | with_reducible assumption | assumption

theorem execDataWordWrite_keeps {fx : Bool} {b0 s t : State} (who : Who) (v : Word) (hk : Keeps fx false b0 s) (e : execDataWordWrite who v s = .next t) : Keeps fx false b0 t := by
  unfold execDataWordWrite at e
  cases e
  apply State.whenAlive_keeps
  first | with_reducible assumption | assumption
  apply State.wordWrite_keeps
  first | with_reducible assumption | assumption

theorem execCoefWrite_keeps {fx : Bool} {b0 s t : State} (who : Who) (v : Word) (hk : Keeps fx false b0 s) (e : execCoefWrite who v s = .next t) : Keeps fx false b0 t := by
  unfold execCoefWrite at e
  cases e
  apply State.whenAlive_keeps
  first | with_reducible assumption | assumption
  apply State.wordWrite_keeps
  first | with_reducible assumption | assumption

theorem execClrMax_keeps {fx : Bool} {b0 s t : State} (who : Who) (hk : Keeps fx false b0 s) (e : execClrMax who s = .next t) : Keeps fx false b0 t := by
  unfold execClrMax at e
  cases e
  apply State.whenAlive_keeps
  first | with_reducible assumption | assumption
  apply State.wordWrite_keeps
  first | with_reducible assumption | assumption

theorem execClrSatcnt_keeps {fx : Bool} {b0 s t : State} (who : Who) (hk : Keeps fx false b0 s) (e : execClrSatcnt who s = .next t) : Keeps fx false b0 t := by
  unfold execClrSatcnt at e
  cases e
  apply State.whenAlive_keeps
  first | with_reducible assumption | assumption
  apply State.wordWrite_keeps
  first | with_reducible assumption | assumption

theorem execEcc1_keeps {fx : Bool} {b0 s t : State} (who : Who) (hk : Keeps fx false b0 s) (e : execEcc1 who s = .next t) : Keeps fx false b0 t := by
  unfold execEcc1 at e
  cases e
  apply State.whenAlive_keeps
  first | with_reducible assumption | assumption
  apply State.wordWrite_keeps
  first | with_reducible assumption | assumption

theorem execEcc2_keeps {fx : Bool} {b0 s t : State} (who : Who) (hk : Keeps fx false b0 s) (e : execEcc2 who s = .next t) : Keeps fx false b0 t := by
  unfold execEcc2 at e
  cases e
  apply State.whenAlive_keeps
  first | with_reducible assumption | assumption
  apply State.wordWrite_keeps
  first | with_reducible assumption | assumption

theorem execCeTestFault_keeps {fx : Bool} {b0 s t : State} (who : Who) (hk : Keeps fx false b0 s) (e : execCeTestFault who s = .next t) : Keeps fx false b0 t := by
  unfold execCeTestFault at e
  cases e
  apply State.whenAlive_keeps
  first | with_reducible assumption | assumption
  apply State.wordWrite_keeps
  first | with_reducible assumption | assumption

theorem execSupLatchClear_keeps {fx : Bool} {b0 s t : State} (who : Who) (v : Word) (hk : Keeps fx false b0 s) (e : execSupLatchClear who v s = .next t) : Keeps fx false b0 t := by
  unfold execSupLatchClear at e
  cases e
  apply State.whenAlive_keeps
  first | with_reducible assumption | assumption
  apply State.wordWrite_keeps
  first | with_reducible assumption | assumption

theorem execTrigSw_keeps {fx : Bool} {b0 s t : State} (who : Who) (v : Word) (hk : Keeps fx false b0 s) (e : execTrigSw who v s = .next t) : Keeps fx false b0 t := by
  unfold execTrigSw at e
  cases e
  apply State.whenAlive_keeps
  first | with_reducible assumption | assumption
  apply State.wordWrite_keeps
  first | with_reducible assumption | assumption

theorem execAdcStep_keeps {fx : Bool} {b0 s t : State} (who : Who) (hk : Keeps fx false b0 s) (e : execAdcStep who s = .next t) : Keeps fx false b0 t := by
  unfold execAdcStep at e
  cases e
  apply State.whenAlive_keeps
  first | with_reducible assumption | assumption
  apply State.fieldWrite_keeps
  first | with_reducible assumption | assumption

theorem execCalerr_keeps {fx : Bool} {b0 s t : State} (who : Who) (hk : Keeps fx false b0 s) (e : execCalerr who s = .next t) : Keeps fx false b0 t := by
  unfold execCalerr at e
  cases e
  apply State.whenAlive_keeps
  first | with_reducible assumption | assumption
  apply State.fieldWrite_keeps
  first | with_reducible assumption | assumption

theorem execMeterClear_keeps {fx : Bool} {b0 s t : State} (who : Who) (v : Word) (hk : Keeps fx false b0 s) (e : execMeterClear who v s = .next t) : Keeps fx false b0 t := by
  unfold execMeterClear at e
  cases e
  apply State.whenAlive_keeps
  first | with_reducible assumption | assumption
  apply State.wordWrite_keeps
  first | with_reducible assumption | assumption

theorem execWack_keeps {fx : Bool} {b0 s t : State} (who : Who) (hk : Keeps fx false b0 s) (e : execWack who s = .next t) : Keeps fx false b0 t := by
  unfold execWack at e
  cases e
  apply State.whenAlive_keeps
  first | with_reducible assumption | assumption
  apply State.wordWrite_keeps
  first | with_reducible assumption | assumption

theorem execMeterHold_keeps {fx : Bool} {b0 s t : State} (who : Who) (on : Bool) (hk : Keeps fx false b0 s) (e : execMeterHold who on s = .next t) : Keeps fx false b0 t := by
  unfold execMeterHold at e
  cases e
  apply State.whenAlive_keeps
  first | with_reducible assumption | assumption
  apply State.fieldWrite_keeps
  first | with_reducible assumption | assumption

theorem execMeterTestInj_keeps {fx : Bool} {b0 s t : State} (who : Who) (v : Word) (hk : Keeps fx false b0 s) (e : execMeterTestInj who v s = .next t) : Keeps fx false b0 t := by
  unfold execMeterTestInj at e
  cases e
  apply State.whenAlive_keeps
  first | with_reducible assumption | assumption
  apply State.wordWrite_keeps
  first | with_reducible assumption | assumption

theorem execTimeMeasurement_keeps {fx : Bool} {b0 s t : State} (who : Who) (v : Word) (hk : Keeps fx false b0 s) (e : execTimeMeasurement who v s = .next t) : Keeps fx false b0 t := by
  unfold execTimeMeasurement at e
  cases e
  apply State.whenAlive_keeps
  first | with_reducible assumption | assumption
  apply State.wordWrite_keeps
  first | with_reducible assumption | assumption

theorem execMeasinj_keeps {fx : Bool} {b0 s t : State} (who : Who) (v : Word) (hk : Keeps fx false b0 s) (e : execMeasinj who v s = .next t) : Keeps fx false b0 t := by
  unfold execMeasinj at e
  cases e
  apply State.whenAlive_keeps
  first | with_reducible assumption | assumption
  apply State.wordWrite_keeps
  first | with_reducible assumption | assumption

theorem execRearm_keeps {fx : Bool} {b0 s t : State} (who : Who) (hk : Keeps fx false b0 s) (e : execRearm who s = .next t) : Keeps fx false b0 t := by
  unfold execRearm at e
  cases e
  apply State.whenAlive_keeps
  first | with_reducible assumption | assumption
  apply State.fieldWrite_keeps
  first | with_reducible assumption | assumption

theorem execSrcSelect_keeps {fx : Bool} {b0 s t : State} (who : Who) (src : Fin 4) (hk : Keeps fx false b0 s) (e : execSrcSelect who src s = .next t) : Keeps fx false b0 t := by
  unfold execSrcSelect at e
  cases e
  apply State.whenAlive_keeps
  first | with_reducible assumption | assumption
  apply State.fieldWrite_keeps
  first | with_reducible assumption | assumption

theorem execSnap_keeps {fx : Bool} {b0 s t : State} (who : Who) (hk : Keeps fx false b0 s) (e : execSnap who s = .next t) : Keeps fx false b0 t := by
  unfold execSnap at e
  cases e
  apply State.whenAlive_keeps
  first | with_reducible assumption | assumption
  apply State.wordWrite_keeps
  first | with_reducible assumption | assumption

theorem execStart_keeps {fx : Bool} {b0 s t : State} (who : Who) (drive : Fin 3) (hk : Keeps fx false b0 s) (e : execStart who drive s = .next t) : Keeps fx false b0 t := by
  unfold execStart at e
  cases e
  apply State.whenAlive_keeps
  first | with_reducible assumption | assumption
  apply State.fieldWrite_keeps
  first | with_reducible assumption | assumption

theorem execStop_keeps {fx : Bool} {b0 s t : State} (who : Who) (drive : Fin 3) (hk : Keeps fx false b0 s) (e : execStop who drive s = .next t) : Keeps fx false b0 t := by
  unfold execStop at e
  cases e
  apply State.whenAlive_keeps
  first | with_reducible assumption | assumption
  apply State.fieldWrite_keeps
  first | with_reducible assumption | assumption

theorem execCoast_keeps {fx : Bool} {b0 s t : State} (who : Who) (drive : Fin 3) (hk : Keeps fx false b0 s) (e : execCoast who drive s = .next t) : Keeps fx false b0 t := by
  unfold execCoast at e
  cases e
  apply State.whenAlive_keeps
  first | with_reducible assumption | assumption
  apply State.fieldWrite_keeps
  first | with_reducible assumption | assumption

theorem execPosition_keeps {fx : Bool} {b0 s t : State} (who : Who) (drive : Fin 3) (hk : Keeps fx false b0 s) (e : execPosition who drive s = .next t) : Keeps fx false b0 t := by
  unfold execPosition at e
  cases e
  apply State.whenAlive_keeps
  first | with_reducible assumption | assumption
  apply State.fieldWrite_keeps
  first | with_reducible assumption | assumption

theorem execStow_keeps {fx : Bool} {b0 s t : State} (who : Who) (drive : Fin 3) (hk : Keeps fx false b0 s) (e : execStow who drive s = .next t) : Keeps fx false b0 t := by
  unfold execStow at e
  cases e
  apply State.whenAlive_keeps
  first | with_reducible assumption | assumption
  apply State.fieldWrite_keeps
  first | with_reducible assumption | assumption

theorem execHome_keeps {fx : Bool} {b0 s t : State} (who : Who) (drive : Fin 3) (hk : Keeps fx false b0 s) (e : execHome who drive s = .next t) : Keeps fx false b0 t := by
  unfold execHome at e
  cases e
  apply State.whenAlive_keeps
  first | with_reducible assumption | assumption
  apply State.fieldWrite_keeps
  first | with_reducible assumption | assumption

theorem execDrvInj_keeps {fx : Bool} {b0 s t : State} (who : Who) (drive : Fin 3) (hk : Keeps fx false b0 s) (e : execDrvInj who drive s = .next t) : Keeps fx false b0 t := by
  unfold execDrvInj at e
  cases e
  apply State.whenAlive_keeps
  first | with_reducible assumption | assumption
  apply State.fieldWrite_keeps
  first | with_reducible assumption | assumption

theorem execDriveEnable_keeps {fx : Bool} {b0 s t : State} (who : Who) (drive : Fin 3) (en : Bool) (hk : Keeps fx false b0 s) (e : execDriveEnable who drive en s = .next t) : Keeps fx false b0 t := by
  unfold execDriveEnable at e
  cases e
  apply State.whenAlive_keeps
  first | with_reducible assumption | assumption
  apply State.fieldWrite_keeps
  first | with_reducible assumption | assumption

theorem execSpeedTargetWrite_keeps {fx : Bool} {b0 s t : State} (who : Who) (drive : Fin 3) (v : Word) (hk : Keeps fx false b0 s) (e : execSpeedTargetWrite who drive v s = .next t) : Keeps fx false b0 t := by
  unfold execSpeedTargetWrite at e
  cases e
  apply State.whenAlive_keeps
  first | with_reducible assumption | assumption
  apply State.wordWrite_keeps
  first | with_reducible assumption | assumption

theorem execDriveFaultClear_keeps {fx : Bool} {b0 s t : State} (who : Who) (drive : Fin 3) (hk : Keeps fx false b0 s) (e : execDriveFaultClear who drive s = .next t) : Keeps fx false b0 t := by
  unfold execDriveFaultClear at e
  cases e
  apply State.whenAlive_keeps
  first | with_reducible assumption | assumption
  apply State.wordWrite_keeps
  first | with_reducible assumption | assumption

theorem execBrkFaultClear_keeps {fx : Bool} {b0 s t : State} (who : Who) (k : Fin 2) (v : Word) (hk : Keeps fx false b0 s) (e : execBrkFaultClear who k v s = .next t) : Keeps fx false b0 t := by
  unfold execBrkFaultClear at e
  cases e
  apply State.whenAlive_keeps
  first | with_reducible assumption | assumption
  apply State.wordWrite_keeps
  first | with_reducible assumption | assumption

theorem execArcHome_keeps {fx : Bool} {b0 s t : State} (who : Who) (chan : Fin 3) (hk : Keeps fx false b0 s) (e : execArcHome who chan s = .next t) : Keeps fx false b0 t := by
  unfold execArcHome at e
  cases e
  apply State.whenAlive_keeps
  first | with_reducible assumption | assumption
  apply State.fieldWrite_keeps
  first | with_reducible assumption | assumption

theorem execRelease_keeps {fx : Bool} {b0 s t : State} (who : Who) (hk : Keeps fx false b0 s) (e : execRelease who s = .next t) : Keeps fx false b0 t := by
  unfold execRelease at e
  cases e
  apply State.whenAlive_keeps
  first | with_reducible assumption | assumption
  apply State.fieldWrite_keeps
  first | with_reducible assumption | assumption

theorem execDriveRelease_keeps {fx : Bool} {b0 s t : State} (who : Who) (v : Word) (hk : Keeps fx false b0 s) (e : execDriveRelease who v s = .next t) : Keeps fx false b0 t := by
  unfold execDriveRelease at e
  cases e
  apply State.whenAlive_keeps
  first | with_reducible assumption | assumption
  apply State.wordWrite_keeps
  first | with_reducible assumption | assumption

theorem execOutputRequest_keeps {fx : Bool} {b0 s t : State} (who : Who) (v : Word) (hk : Keeps fx false b0 s) (e : execOutputRequest who v s = .next t) : Keeps fx false b0 t := by
  unfold execOutputRequest at e
  cases e
  apply State.whenAlive_keeps
  first | with_reducible assumption | assumption
  apply State.wordWrite_keeps
  first | with_reducible assumption | assumption

theorem execConnRestart_keeps {fx : Bool} {b0 s t : State} (who : Who) (conn : Fin 2) (hk : Keeps fx false b0 s) (e : execConnRestart who conn s = .next t) : Keeps fx false b0 t := by
  unfold execConnRestart at e
  cases e
  apply State.whenAlive_keeps
  first | with_reducible assumption | assumption
  apply State.fieldWrite_keeps
  first | with_reducible assumption | assumption

theorem execWen_keeps {fx : Bool} {b0 s t : State} (who : Who) (on : Bool) (hk : Keeps fx false b0 s) (e : execWen who on s = .next t) : Keeps fx false b0 t := by
  unfold execWen at e
  cases e
  apply State.whenAlive_keeps
  first | with_reducible assumption | assumption
  apply State.fieldWrite_keeps
  first | with_reducible assumption | assumption

theorem execXinj_keeps {fx : Bool} {b0 s t : State} (who : Who) (hk : Keeps fx false b0 s) (e : execXinj who s = .next t) : Keeps fx false b0 t := by
  unfold execXinj at e
  cases e
  apply State.whenAlive_keeps
  first | with_reducible assumption | assumption
  apply State.wordWrite_keeps
  first | with_reducible assumption | assumption

theorem execOinj_keeps {fx : Bool} {b0 s t : State} (who : Who) (hk : Keeps fx false b0 s) (e : execOinj who s = .next t) : Keeps fx false b0 t := by
  unfold execOinj at e
  cases e
  apply State.whenAlive_keeps
  first | with_reducible assumption | assumption
  apply State.wordWrite_keeps
  first | with_reducible assumption | assumption

theorem execRtcset_keeps {fx : Bool} {b0 s t : State} (who : Who) (hk : Keeps fx false b0 s) (e : execRtcset who s = .next t) : Keeps fx false b0 t := by
  unfold execRtcset at e
  cases e
  apply State.whenAlive_keeps
  first | with_reducible assumption | assumption
  apply State.fieldWrite_keeps
  first | with_reducible assumption | assumption

theorem execTfail_keeps {fx : Bool} {b0 s t : State} (who : Who) (hk : Keeps fx false b0 s) (e : execTfail who s = .next t) : Keeps fx false b0 t := by
  unfold execTfail at e
  cases e
  apply State.whenAlive_keeps
  first | with_reducible assumption | assumption
  apply State.fieldWrite_keeps
  first | with_reducible assumption | assumption

theorem execClockOutputSetup_keeps {fx : Bool} {b0 s t : State} (who : Who) (out : Fin 4) (setup : Bool) (hk : Keeps fx false b0 s) (e : execClockOutputSetup who out setup s = .next t) : Keeps fx false b0 t := by
  unfold execClockOutputSetup at e
  cases e
  apply State.whenAlive_keeps
  first | with_reducible assumption | assumption
  apply State.fieldWrite_keeps
  first | with_reducible assumption | assumption

theorem execClockFormatChange_keeps {fx : Bool} {b0 s t : State} (who : Who) (out : Fin 4) (fmt : Fin 4) (hk : Keeps fx false b0 s) (e : execClockFormatChange who out fmt s = .next t) : Keeps fx false b0 t := by
  unfold execClockFormatChange at e
  cases e
  apply State.whenAlive_keeps
  first | with_reducible assumption | assumption
  apply State.fieldWrite_keeps
  first | with_reducible assumption | assumption

end Sys2Proof.Machine
end

