-- ==== Sys2Proof/Laws/KeepsBoot.lean ====
section
/-! SUPPORT. What the operations of Machine/Boot.lean keep. -/

namespace Sys2Proof.Machine

open Sys2Proof

theorem State.slotMeet_keeps {fx fm : Bool} {b0 s : State} (flashA flashB : List Byte) (slot : Nat) (hk : Keeps fx fm b0 s) : Keeps fx fm b0 (State.slotMeet s flashA flashB slot) := by
  unfold State.slotMeet
  apply Keeps.foldl
  first | with_reducible assumption | assumption
  intro v0
  intro v1
  intro v2
  apply State.mramMeet_keeps
  first | with_reducible assumption | assumption

theorem State.loadWrite_keeps {fx : Bool} {b0 s : State} (a v : Nat) (hk : Keeps fx false b0 s) : Keeps fx false b0 (State.loadWrite s a v) := by
  unfold State.loadWrite
  extract_lets +onlyGivenNames x0
  refine (fun (k0 : Keeps fx false b0 x0) => ?_) (?_ : Keeps fx false b0 x0)
  extract_lets +onlyGivenNames x1
  refine (fun (k1 : Keeps fx false b0 x1) => ?_) (?_ : Keeps fx false b0 x1)
  extract_lets +onlyGivenNames x2
  split
  apply State.emit_keeps
  apply State.put_keeps
  first | with_reducible assumption | assumption
  first | with_reducible assumption | assumption
  dsimp -zeta only [x1]
  apply State.writeReg_keeps
  first | with_reducible assumption | assumption
  dsimp -zeta only [x0]
  split
  first | with_reducible assumption | assumption
  split
  apply State.setKey_keeps
  first | with_reducible assumption | assumption
  first | with_reducible assumption | assumption

theorem State.loadList_keeps {fx : Bool} {b0 s : State} (l : List Nat) (h : Keeps fx false b0 s) : Keeps fx false b0 (s.loadList l) := by
  induction l using List.twoStepInduction generalizing s with
  | nil => exact h
  | singleton x => exact h
  | cons_cons x y l ih _ => exact ih (State.loadWrite_keeps _ _ h)

theorem State.loadProgram_keeps {fx fm : Bool} {b0 s : State} (a : Nat) (x1 : List Nat) (hk : Keeps fx fm b0 s) : Keeps fx fm b0 (State.loadProgram s a x1) := by
  induction x1 generalizing s a with
  | nil =>
    unfold State.loadProgram
    first | with_reducible assumption | assumption
  | cons c l ih =>
    unfold State.loadProgram
    apply ih
    apply State.setProg_keeps
    first | with_reducible assumption | assumption

theorem State.loadCoefs_keeps {fx fm : Bool} {b0 s : State} (a : Nat) (x1 : List Nat) (hk : Keeps fx fm b0 s) : Keeps fx fm b0 (State.loadCoefs s a x1) := by
  induction x1 generalizing s a with
  | nil =>
    unfold State.loadCoefs
    first | with_reducible assumption | assumption
  | cons c l ih =>
    unfold State.loadCoefs
    apply ih
    apply State.setCoef_keeps
    first | with_reducible assumption | assumption

theorem State.loadData_keeps {fx fm : Bool} {b0 s : State} (a : Nat) (x1 : List Nat) (hk : Keeps fx fm b0 s) : Keeps fx fm b0 (State.loadData s a x1) := by
  induction x1 generalizing s a with
  | nil =>
    unfold State.loadData
    first | with_reducible assumption | assumption
  | cons c l ih =>
    unfold State.loadData
    apply ih
    apply State.hostData_keeps
    first | with_reducible assumption | assumption

theorem State.loadSection_keeps {fx : Bool} {b0 s : State} (x : Section) (bs : List Byte) (hk : Keeps fx false b0 s) : Keeps fx false b0 (State.loadSection s x bs) := by
  unfold State.loadSection
  split
  apply State.loadList_keeps
  first | with_reducible assumption | assumption
  apply State.loadProgram_keeps
  first | with_reducible assumption | assumption
  apply State.loadCoefs_keeps
  first | with_reducible assumption | assumption
  apply State.loadData_keeps
  first | with_reducible assumption | assumption
  apply State.sramPut_keeps
  first | with_reducible assumption | assumption
  first | with_reducible assumption | assumption

theorem State.runImage_keeps {fx : Bool} {b0 s : State} (flashA flashB : List Byte) (slot : Nat) (h : Header) (secs : List Section) (hk : Keeps fx false b0 s) : Keeps fx false b0 (State.runImage s flashA flashB slot h secs) := by
  unfold State.runImage
  extract_lets +onlyGivenNames x0
  refine (fun (k0 : Keeps fx false b0 x0) => ?_) (?_ : Keeps fx false b0 x0)
  extract_lets +onlyGivenNames x1
  refine (fun (k1 : Keeps fx false b0 x1) => ?_) (?_ : Keeps fx false b0 x1)
  extract_lets +onlyGivenNames x2
  refine (fun (k2 : Keeps fx false b0 x2) => ?_) (?_ : Keeps fx false b0 x2)
  extract_lets +onlyGivenNames x3
  refine (fun (k3 : Keeps fx false b0 x3) => ?_) (?_ : Keeps fx false b0 x3)
  extract_lets +onlyGivenNames x4
  refine (fun (k4 : Keeps fx false b0 x4) => ?_) (?_ : Keeps fx false b0 x4)
  refine State.setSys_keeps ?_ (fun _ => rfl)
  first | with_reducible assumption | assumption
  dsimp -zeta only [x4]
  apply State.emit_keeps
  first | with_reducible assumption | assumption
  dsimp -zeta only [x3]
  apply State.put_keeps
  apply State.put_keeps
  first | with_reducible assumption | assumption
  dsimp -zeta only [x2]
  apply Keeps.foldl
  first | with_reducible assumption | assumption
  intro v5
  intro v6
  intro v7
  apply State.loadSection_keeps
  first | with_reducible assumption | assumption
  dsimp -zeta only [x1]
  refine State.setSys_keeps ?_ (fun _ => rfl)
  first | with_reducible assumption | assumption
  dsimp -zeta only [x0]
  split
  first | with_reducible assumption | assumption
  apply State.sramPut_keeps
  first | with_reducible assumption | assumption

theorem State.romWrite_keeps {fx : Bool} {b0 s : State} (f : Fld) (v : Nat) (hk : Keeps fx false b0 s) : Keeps fx false b0 (State.romWrite s f v) := by
  unfold State.romWrite
  apply State.fieldWrite_keeps
  first | with_reducible assumption | assumption

theorem State.romSlot_keeps {fx : Bool} {b0 s : State} (slot ain mode : Nat) (hk : Keeps fx false b0 s) : Keeps fx false b0 (State.romSlot s slot ain mode) := by
  unfold State.romSlot
  apply State.romWrite_keeps
  apply State.romWrite_keeps
  first | with_reducible assumption | assumption

theorem State.romInputs_keeps {fx : Bool} {b0 s : State}  (hk : Keeps fx false b0 s) : Keeps fx false b0 (State.romInputs s) := by
  unfold State.romInputs
  apply State.forEach_keeps
  apply State.forEach_keeps
  first | with_reducible assumption | assumption
  intro v0
  intro v1
  intro v2
  apply State.romSlot_keeps
  first | with_reducible assumption | assumption
  intro v3
  intro v4
  intro v5
  apply State.romSlot_keeps
  first | with_reducible assumption | assumption

theorem State.romInstr_keeps {fx fm : Bool} {b0 s : State} (q : Nat × Dword) (hk : Keeps fx fm b0 s) : Keeps fx fm b0 (State.romInstr s q) := by
  unfold State.romInstr
  apply State.setProg_keeps
  first | with_reducible assumption | assumption

theorem State.romCoef_keeps {fx fm : Bool} {b0 s : State} (q : BitVec 13 × Word) (hk : Keeps fx fm b0 s) : Keeps fx fm b0 (State.romCoef s q) := by
  unfold State.romCoef
  apply State.setCoef_keeps
  first | with_reducible assumption | assumption

theorem State.romProgram_keeps {fx fm : Bool} {b0 s : State}  (hk : Keeps fx fm b0 s) : Keeps fx fm b0 (State.romProgram s) := by
  unfold State.romProgram
  apply Keeps.foldl
  apply Keeps.foldl
  first | with_reducible assumption | assumption
  intro v0
  intro v1
  intro v2
  apply State.romInstr_keeps
  first | with_reducible assumption | assumption
  intro v3
  intro v4
  intro v5
  apply State.romCoef_keeps
  first | with_reducible assumption | assumption

theorem State.romSup_keeps {fx : Bool} {b0 s : State} (c : Nat) (hk : Keeps fx false b0 s) : Keeps fx false b0 (State.romSup s c) := by
  unfold State.romSup
  apply State.romWrite_keeps
  apply State.romWrite_keeps
  apply State.romWrite_keeps
  first | with_reducible assumption | assumption

theorem State.romRing_keeps {fx : Bool} {b0 s : State} (r : Nat) (hk : Keeps fx false b0 s) : Keeps fx false b0 (State.romRing s r) := by
  unfold State.romRing
  apply State.romWrite_keeps
  apply State.romWrite_keeps
  apply State.romWrite_keeps
  first | with_reducible assumption | assumption

theorem State.romClock_keeps {fx : Bool} {b0 s : State}  (hk : Keeps fx false b0 s) : Keeps fx false b0 (State.romClock s) := by
  unfold State.romClock
  apply State.romWrite_keeps
  apply State.romWrite_keeps
  apply State.romRing_keeps
  apply State.romRing_keeps
  first | with_reducible assumption | assumption

theorem State.romCommon_keeps {fx : Bool} {b0 s : State}  (hk : Keeps fx false b0 s) : Keeps fx false b0 (State.romCommon s) := by
  unfold State.romCommon
  extract_lets +onlyGivenNames x0
  refine (fun (k0 : Keeps fx false b0 x0) => ?_) (?_ : Keeps fx false b0 x0)
  extract_lets +onlyGivenNames x1
  refine (fun (k1 : Keeps fx false b0 x1) => ?_) (?_ : Keeps fx false b0 x1)
  extract_lets +onlyGivenNames x2
  refine (fun (k2 : Keeps fx false b0 x2) => ?_) (?_ : Keeps fx false b0 x2)
  extract_lets +onlyGivenNames x3
  refine (fun (k3 : Keeps fx false b0 x3) => ?_) (?_ : Keeps fx false b0 x3)
  apply State.romWrite_keeps
  apply State.romWrite_keeps
  first | with_reducible assumption | assumption
  dsimp -zeta only [x3]
  apply State.romWrite_keeps
  apply State.romClock_keeps
  apply State.romWrite_keeps
  first | with_reducible assumption | assumption
  dsimp -zeta only [x2]
  apply State.romWrite_keeps
  apply State.romWrite_keeps
  apply State.romWrite_keeps
  first | with_reducible assumption | assumption
  dsimp -zeta only [x1]
  apply State.romWrite_keeps
  apply State.romWrite_keeps
  first | with_reducible assumption | assumption
  dsimp -zeta only [x0]
  apply State.forEach_keeps
  apply State.romProgram_keeps
  apply State.romInputs_keeps
  first | with_reducible assumption | assumption
  intro v4
  intro v5
  intro v6
  apply State.romSup_keeps
  first | with_reducible assumption | assumption

theorem State.romBridges_keeps {fx : Bool} {b0 s : State} (prof : Nat) (hk : Keeps fx false b0 s) : Keeps fx false b0 (State.romBridges s prof) := by
  unfold State.romBridges
  extract_lets +onlyGivenNames x0
  extract_lets +onlyGivenNames x1
  refine (fun (k1 : Keeps fx false b0 x1) => ?_) (?_ : Keeps fx false b0 x1)
  extract_lets +onlyGivenNames x2
  refine (fun (k2 : Keeps fx false b0 x2) => ?_) (?_ : Keeps fx false b0 x2)
  extract_lets +onlyGivenNames x3
  refine (fun (k3 : Keeps fx false b0 x3) => ?_) (?_ : Keeps fx false b0 x3)
  extract_lets +onlyGivenNames x4
  refine (fun (k4 : Keeps fx false b0 x4) => ?_) (?_ : Keeps fx false b0 x4)
  extract_lets +onlyGivenNames x5
  refine (fun (k5 : Keeps fx false b0 x5) => ?_) (?_ : Keeps fx false b0 x5)
  apply State.forEach_keeps
  first | with_reducible assumption | assumption
  intro v6
  intro v7
  intro v8
  apply State.romWrite_keeps
  apply State.romWrite_keeps
  first | with_reducible assumption | assumption
  dsimp -zeta only [x5]
  apply State.forEach_keeps
  first | with_reducible assumption | assumption
  intro v9
  intro v10
  intro v11
  apply State.romWrite_keeps
  apply State.romWrite_keeps
  first | with_reducible assumption | assumption
  dsimp -zeta only [x4]
  apply State.forEach_keeps
  first | with_reducible assumption | assumption
  intro v12
  intro v13
  intro v14
  apply State.romWrite_keeps
  first | with_reducible assumption | assumption
  dsimp -zeta only [x3]
  apply State.forEach_keeps
  first | with_reducible assumption | assumption
  intro v15
  intro v16
  intro v17
  apply State.romWrite_keeps
  apply State.romWrite_keeps
  first | with_reducible assumption | assumption
  dsimp -zeta only [x2]
  apply State.romWrite_keeps
  first | with_reducible assumption | assumption
  dsimp -zeta only [x1]
  apply State.romWrite_keeps
  first | with_reducible assumption | assumption

theorem State.runRom_keeps {fx : Bool} {b0 s : State}  (hk : Keeps fx false b0 s) : Keeps fx false b0 (State.runRom s) := by
  unfold State.runRom
  extract_lets +onlyGivenNames x0
  extract_lets +onlyGivenNames x1
  refine (fun (k1 : Keeps fx false b0 x1) => ?_) (?_ : Keeps fx false b0 x1)
  extract_lets +onlyGivenNames x2
  refine (fun (k2 : Keeps fx false b0 x2) => ?_) (?_ : Keeps fx false b0 x2)
  extract_lets +onlyGivenNames x3
  refine (fun (k3 : Keeps fx false b0 x3) => ?_) (?_ : Keeps fx false b0 x3)
  extract_lets +onlyGivenNames x4
  refine (fun (k4 : Keeps fx false b0 x4) => ?_) (?_ : Keeps fx false b0 x4)
  extract_lets +onlyGivenNames x5
  refine (fun (k5 : Keeps fx false b0 x5) => ?_) (?_ : Keeps fx false b0 x5)
  refine State.setSys_keeps ?_ (fun _ => rfl)
  first | with_reducible assumption | assumption
  dsimp -zeta only [x5]
  apply State.emit_keeps
  first | with_reducible assumption | assumption
  dsimp -zeta only [x4]
  apply State.put_keeps
  apply State.put_keeps
  first | with_reducible assumption | assumption
  dsimp -zeta only [x3]
  split
  apply State.romBridges_keeps
  first | with_reducible assumption | assumption
  first | with_reducible assumption | assumption
  dsimp -zeta only [x2]
  apply State.romCommon_keeps
  first | with_reducible assumption | assumption
  dsimp -zeta only [x1]
  refine State.setSys_keeps ?_ (fun _ => rfl)
  first | with_reducible assumption | assumption

theorem State.rejectSlot_keeps {fx fm : Bool} {b0 s : State} (i slot e : Nat) (hk : Keeps fx fm b0 s) : Keeps fx fm b0 (State.rejectSlot s i slot e) := by
  unfold State.rejectSlot
  apply State.emit_keeps
  apply State.put_keeps
  first | with_reducible assumption | assumption

theorem State.searchSlots_keeps {fx : Bool} {b0 s : State} (flashA flashB : List Byte) (keys : Keys) (x1 : Nat) (x2 : List Nat)
    (hk : Keeps fx false b0 s) : Keeps fx false b0 (State.searchSlots s flashA flashB keys x1 x2) := by
  induction x2 generalizing s x1 with
  | nil => exact State.runRom_keeps hk
  | cons c l ih =>
    unfold State.searchSlots
    split
    · exact State.runImage_keeps _ _ _ _ _ (State.slotMeet_keeps _ _ _ hk)
    · exact ih _ (State.rejectSlot_keeps _ _ _ (State.slotMeet_keeps _ _ _ hk))

theorem State.loadBaselines_keeps {fx fm : Bool} {b0 s : State}  (hk : Keeps fx fm b0 s) : Keeps fx fm b0 (State.loadBaselines s) := by
  unfold State.loadBaselines
  apply State.forEach_keeps
  first | with_reducible assumption | assumption
  intro v0
  intro v1
  intro v2
  extract_lets +onlyGivenNames x3
  extract_lets +onlyGivenNames x4
  refine (fun (k4 : Keeps fx fm b0 x4) => ?_) (?_ : Keeps fx fm b0 x4)
  split
  apply State.busError_keeps
  first | with_reducible assumption | assumption
  split
  first | with_reducible assumption | assumption
  apply State.put_keeps
  first | with_reducible assumption | assumption
  dsimp -zeta only [x4]
  apply State.mramMeet_keeps
  first | with_reducible assumption | assumption

theorem execBootSearch_keeps {fx : Bool} {b0 s t : State} (flashA flashB : List Byte) (keyX keyY : List (BitVec 256)) (hk : Keeps fx false b0 s) (e : execBootSearch flashA flashB keyX keyY s = .next t) : Keeps fx false b0 t := by
  unfold execBootSearch at e
  cases e
  split
  extract_lets +onlyGivenNames x0
  refine (fun (k0 : Keeps fx false b0 x0) => ?_) (?_ : Keeps fx false b0 x0)
  split
  apply State.searchSlots_keeps
  first | with_reducible assumption | assumption
  apply State.searchSlots_keeps
  first | with_reducible assumption | assumption
  apply State.runRom_keeps
  first | with_reducible assumption | assumption
  apply State.put_keeps
  first | with_reducible assumption | assumption
  dsimp -zeta only [x0]
  apply State.loadBaselines_keeps
  first | with_reducible assumption | assumption
  first | with_reducible assumption | assumption

theorem State.mramHostStore_keeps {b0 s : State} (addr : Nat) (bs : List Byte) (hk : Keeps false false b0 s) : Keeps false false b0 (State.mramHostStore s addr bs) := by
  unfold State.mramHostStore
  split
  apply State.emit_keeps
  apply State.busError_keeps
  first | with_reducible assumption | assumption
  split
  apply State.busError_keeps
  first | with_reducible assumption | assumption
  apply State.memStore_keeps
  first | with_reducible assumption | assumption

theorem execMramWrite_keeps {b0 s t : State} (who : Who) (addr : Nat) (v : Dword) (hk : Keeps false false b0 s) (e : execMramWrite who addr v s = .next t) : Keeps false false b0 t := by
  unfold execMramWrite at e
  split at e
  cases e
  apply State.whenAlive_keeps
  first | with_reducible assumption | assumption
  split
  apply State.mramHostStore_keeps
  first | with_reducible assumption | assumption
  first | with_reducible assumption | assumption
  cases e

theorem State.memUpset_keeps {fx fm : Bool} {b0 s : State} (mem w : Nat) (double : Bool) (hk : Keeps fx fm b0 s) : Keeps fx fm b0 (State.memUpset s mem w double) := by
  unfold State.memUpset
  split
  apply State.emit_keeps
  first | with_reducible assumption | assumption
  split
  apply State.memMend_keeps
  apply State.memRead_keeps
  apply State.upset_keeps
  first | with_reducible assumption | assumption
  split
  apply State.setCe_keeps
  first | with_reducible assumption | assumption
  apply State.upset_keeps
  first | with_reducible assumption | assumption

theorem State.memLoad_keeps {fx fm : Bool} {b0 s : State} (mem a n : Nat) (hk : Keeps fx fm b0 s) : Keeps fx fm b0 (State.memLoad s mem a n) := by
  unfold State.memLoad
  extract_lets +onlyGivenNames x0
  extract_lets +onlyGivenNames x1
  refine (fun (k1 : Keeps fx fm b0 x1) => ?_) (?_ : Keeps fx fm b0 x1)
  split
  apply State.busError_keeps
  first | with_reducible assumption | assumption
  first | with_reducible assumption | assumption
  dsimp -zeta only [x1]
  apply State.wordsMeet_keeps
  first | with_reducible assumption | assumption

theorem State.hostAccess_keeps {b0 s : State} (mram : Bool) (addr : Nat) (write : Option (List Byte)) (upset : Option (Fin 10 × Nat × Bool)) (hk : Keeps false false b0 s) : Keeps false false b0 (State.hostAccess s mram addr write upset) := by
  unfold State.hostAccess
  extract_lets +onlyGivenNames x0
  refine (fun (k0 : Keeps false false b0 x0) => ?_) (?_ : Keeps false false b0 x0)
  split
  apply State.memLoad_keeps
  first | with_reducible assumption | assumption
  split
  apply State.mramHostStore_keeps
  first | with_reducible assumption | assumption
  apply State.memStore_keeps
  first | with_reducible assumption | assumption
  dsimp -zeta only [x0]
  split
  first | with_reducible assumption | assumption
  apply State.memUpset_keeps
  first | with_reducible assumption | assumption

theorem execHostMemoryAccess_keeps {b0 s t : State} (who : Who) (mram : Bool) (addr : Nat) (write : Option (List Byte)) (upset : Option (Fin 10 × Nat × Bool)) (hk : Keeps false false b0 s) (e : execHostMemoryAccess who mram addr write upset s = .next t) : Keeps false false b0 t := by
  unfold execHostMemoryAccess at e
  split at e
  cases e
  cases e
  apply State.whenAlive_keeps
  first | with_reducible assumption | assumption
  split
  apply State.hostAccess_keeps
  first | with_reducible assumption | assumption
  first | with_reducible assumption | assumption

end Sys2Proof.Machine
end

