-- ==== Sys2Proof/Laws/KeepsVertexIsa.lean ====
section
/-! SUPPORT. What the operations of Machine/VertexIsa.lean keep. -/

namespace Sys2Proof.Machine

open Sys2Proof

theorem execVNop_keeps {fx fm : Bool} {b0 s t : State} (w : Dword) (hk : Keeps fx fm b0 s) (e : execVNop w s = .next t) : Keeps fx fm b0 t := by
  unfold execVNop at e
  cases e
  apply State.vStep_keeps
  first | with_reducible assumption | assumption
  intro v0
  intro v1
  intro v2
  apply vBodyNop_keeps
  first | with_reducible assumption | assumption

theorem execVLd_keeps {fx fm : Bool} {b0 s t : State} (w : Dword) (hk : Keeps fx fm b0 s) (e : execVLd w s = .next t) : Keeps fx fm b0 t := by
  unfold execVLd at e
  cases e
  apply State.vStep_keeps
  first | with_reducible assumption | assumption
  intro v0
  intro v1
  intro v2
  apply vBodyLd_keeps
  first | with_reducible assumption | assumption

theorem execVLdc_keeps {fx fm : Bool} {b0 s t : State} (w : Dword) (hk : Keeps fx fm b0 s) (e : execVLdc w s = .next t) : Keeps fx fm b0 t := by
  unfold execVLdc at e
  cases e
  apply State.vStep_keeps
  first | with_reducible assumption | assumption
  intro v0
  intro v1
  intro v2
  apply vBodyLdc_keeps
  first | with_reducible assumption | assumption

theorem execVSt_keeps {fx fm : Bool} {b0 s t : State} (w : Dword) (hk : Keeps fx fm b0 s) (e : execVSt w s = .next t) : Keeps fx fm b0 t := by
  unfold execVSt at e
  cases e
  apply State.vStep_keeps
  first | with_reducible assumption | assumption
  intro v0
  intro v1
  intro v2
  apply vBodySt_keeps
  first | with_reducible assumption | assumption

theorem execVSto_keeps {fx fm : Bool} {b0 s t : State} (w : Dword) (hk : Keeps fx fm b0 s) (e : execVSto w s = .next t) : Keeps fx fm b0 t := by
  unfold execVSto at e
  cases e
  apply State.vStep_keeps
  first | with_reducible assumption | assumption
  intro v0
  intro v1
  intro v2
  apply vBodySto_keeps
  first | with_reducible assumption | assumption

theorem execVLda_keeps {fx fm : Bool} {b0 s t : State} (w : Dword) (hk : Keeps fx fm b0 s) (e : execVLda w s = .next t) : Keeps fx fm b0 t := by
  unfold execVLda at e
  cases e
  apply State.vStep_keeps
  first | with_reducible assumption | assumption
  intro v0
  intro v1
  intro v2
  apply vBodyLda_keeps
  first | with_reducible assumption | assumption

theorem execVSeta_keeps {fx fm : Bool} {b0 s t : State} (w : Dword) (hk : Keeps fx fm b0 s) (e : execVSeta w s = .next t) : Keeps fx fm b0 t := by
  unfold execVSeta at e
  cases e
  apply State.vStep_keeps
  first | with_reducible assumption | assumption
  intro v0
  intro v1
  intro v2
  apply vBodySeta_keeps
  first | with_reducible assumption | assumption

theorem execVAdd_keeps {fx fm : Bool} {b0 s t : State} (w : Dword) (hk : Keeps fx fm b0 s) (e : execVAdd w s = .next t) : Keeps fx fm b0 t := by
  unfold execVAdd at e
  cases e
  apply State.vStep_keeps
  first | with_reducible assumption | assumption
  intro v0
  intro v1
  intro v2
  apply vBinary_keeps
  first | with_reducible assumption | assumption

theorem execVSub_keeps {fx fm : Bool} {b0 s t : State} (w : Dword) (hk : Keeps fx fm b0 s) (e : execVSub w s = .next t) : Keeps fx fm b0 t := by
  unfold execVSub at e
  cases e
  apply State.vStep_keeps
  first | with_reducible assumption | assumption
  intro v0
  intro v1
  intro v2
  apply vBinary_keeps
  first | with_reducible assumption | assumption

theorem execVMul_keeps {fx fm : Bool} {b0 s t : State} (w : Dword) (hk : Keeps fx fm b0 s) (e : execVMul w s = .next t) : Keeps fx fm b0 t := by
  unfold execVMul at e
  cases e
  apply State.vStep_keeps
  first | with_reducible assumption | assumption
  intro v0
  intro v1
  intro v2
  apply vBinary_keeps
  first | with_reducible assumption | assumption

theorem execVMuls_keeps {fx fm : Bool} {b0 s t : State} (w : Dword) (hk : Keeps fx fm b0 s) (e : execVMuls w s = .next t) : Keeps fx fm b0 t := by
  unfold execVMuls at e
  cases e
  apply State.vStep_keeps
  first | with_reducible assumption | assumption
  intro v0
  intro v1
  intro v2
  apply vCoefOp_keeps
  first | with_reducible assumption | assumption

theorem execVMax_keeps {fx fm : Bool} {b0 s t : State} (w : Dword) (hk : Keeps fx fm b0 s) (e : execVMax w s = .next t) : Keeps fx fm b0 t := by
  unfold execVMax at e
  cases e
  apply State.vStep_keeps
  first | with_reducible assumption | assumption
  intro v0
  intro v1
  intro v2
  apply vBinary_keeps
  first | with_reducible assumption | assumption

theorem execVMin_keeps {fx fm : Bool} {b0 s t : State} (w : Dword) (hk : Keeps fx fm b0 s) (e : execVMin w s = .next t) : Keeps fx fm b0 t := by
  unfold execVMin at e
  cases e
  apply State.vStep_keeps
  first | with_reducible assumption | assumption
  intro v0
  intro v1
  intro v2
  apply vBinary_keeps
  first | with_reducible assumption | assumption

theorem execVNeg_keeps {fx fm : Bool} {b0 s t : State} (w : Dword) (hk : Keeps fx fm b0 s) (e : execVNeg w s = .next t) : Keeps fx fm b0 t := by
  unfold execVNeg at e
  cases e
  apply State.vStep_keeps
  first | with_reducible assumption | assumption
  intro v0
  intro v1
  intro v2
  apply vMap_keeps
  first | with_reducible assumption | assumption

theorem execVAbs_keeps {fx fm : Bool} {b0 s t : State} (w : Dword) (hk : Keeps fx fm b0 s) (e : execVAbs w s = .next t) : Keeps fx fm b0 t := by
  unfold execVAbs at e
  cases e
  apply State.vStep_keeps
  first | with_reducible assumption | assumption
  intro v0
  intro v1
  intro v2
  apply vMap_keeps
  first | with_reducible assumption | assumption

theorem execVShl_keeps {fx fm : Bool} {b0 s t : State} (w : Dword) (hk : Keeps fx fm b0 s) (e : execVShl w s = .next t) : Keeps fx fm b0 t := by
  unfold execVShl at e
  cases e
  apply State.vStep_keeps
  first | with_reducible assumption | assumption
  intro v0
  intro v1
  intro v2
  apply vMap_keeps
  first | with_reducible assumption | assumption

theorem execVClamp_keeps {fx fm : Bool} {b0 s t : State} (w : Dword) (hk : Keeps fx fm b0 s) (e : execVClamp w s = .next t) : Keeps fx fm b0 t := by
  unfold execVClamp at e
  cases e
  apply State.vStep_keeps
  first | with_reducible assumption | assumption
  intro v0
  intro v1
  intro v2
  apply vBodyClamp_keeps
  first | with_reducible assumption | assumption

theorem execVSel_keeps {fx fm : Bool} {b0 s t : State} (w : Dword) (hk : Keeps fx fm b0 s) (e : execVSel w s = .next t) : Keeps fx fm b0 t := by
  unfold execVSel at e
  cases e
  apply State.vStep_keeps
  first | with_reducible assumption | assumption
  intro v0
  intro v1
  intro v2
  apply vBodySel_keeps
  first | with_reducible assumption | assumption

theorem execVRsum_keeps {fx fm : Bool} {b0 s t : State} (w : Dword) (hk : Keeps fx fm b0 s) (e : execVRsum w s = .next t) : Keeps fx fm b0 t := by
  unfold execVRsum at e
  cases e
  apply State.vStep_keeps
  first | with_reducible assumption | assumption
  intro v0
  intro v1
  intro v2
  apply vBodyRsum_keeps
  first | with_reducible assumption | assumption

theorem execVMacz_keeps {fx fm : Bool} {b0 s t : State} (w : Dword) (hk : Keeps fx fm b0 s) (e : execVMacz w s = .next t) : Keeps fx fm b0 t := by
  unfold execVMacz at e
  cases e
  apply State.vStep_keeps
  first | with_reducible assumption | assumption
  intro v0
  intro v1
  intro v2
  apply vMacB_keeps
  first | with_reducible assumption | assumption
  intro v3
  intro v4
  intro v5
  intro v6
  apply State.accStart_keeps
  first | with_reducible assumption | assumption

theorem execVMac_keeps {fx fm : Bool} {b0 s t : State} (w : Dword) (hk : Keeps fx fm b0 s) (e : execVMac w s = .next t) : Keeps fx fm b0 t := by
  unfold execVMac at e
  cases e
  apply State.vStep_keeps
  first | with_reducible assumption | assumption
  intro v0
  intro v1
  intro v2
  apply vMacB_keeps
  first | with_reducible assumption | assumption
  intro v3
  intro v4
  intro v5
  intro v6
  apply State.accAdd_keeps
  first | with_reducible assumption | assumption

theorem execVMaczs_keeps {fx fm : Bool} {b0 s t : State} (w : Dword) (hk : Keeps fx fm b0 s) (e : execVMaczs w s = .next t) : Keeps fx fm b0 t := by
  unfold execVMaczs at e
  cases e
  apply State.vStep_keeps
  first | with_reducible assumption | assumption
  intro v0
  intro v1
  intro v2
  apply vMacC_keeps
  first | with_reducible assumption | assumption
  intro v3
  intro v4
  intro v5
  intro v6
  apply State.accStart_keeps
  first | with_reducible assumption | assumption

theorem execVMacs_keeps {fx fm : Bool} {b0 s t : State} (w : Dword) (hk : Keeps fx fm b0 s) (e : execVMacs w s = .next t) : Keeps fx fm b0 t := by
  unfold execVMacs at e
  cases e
  apply State.vStep_keeps
  first | with_reducible assumption | assumption
  intro v0
  intro v1
  intro v2
  apply vMacC_keeps
  first | with_reducible assumption | assumption
  intro v3
  intro v4
  intro v5
  intro v6
  apply State.accAdd_keeps
  first | with_reducible assumption | assumption

theorem execVAcc_keeps {fx fm : Bool} {b0 s t : State} (w : Dword) (hk : Keeps fx fm b0 s) (e : execVAcc w s = .next t) : Keeps fx fm b0 t := by
  unfold execVAcc at e
  cases e
  apply State.vStep_keeps
  first | with_reducible assumption | assumption
  intro v0
  intro v1
  intro v2
  apply vBodyAcc_keeps
  first | with_reducible assumption | assumption

theorem execVCgt_keeps {fx fm : Bool} {b0 s t : State} (w : Dword) (hk : Keeps fx fm b0 s) (e : execVCgt w s = .next t) : Keeps fx fm b0 t := by
  unfold execVCgt at e
  cases e
  apply State.vStep_keeps
  first | with_reducible assumption | assumption
  intro v0
  intro v1
  intro v2
  apply vCompare_keeps
  first | with_reducible assumption | assumption

theorem execVCge_keeps {fx fm : Bool} {b0 s t : State} (w : Dword) (hk : Keeps fx fm b0 s) (e : execVCge w s = .next t) : Keeps fx fm b0 t := by
  unfold execVCge at e
  cases e
  apply State.vStep_keeps
  first | with_reducible assumption | assumption
  intro v0
  intro v1
  intro v2
  apply vCompare_keeps
  first | with_reducible assumption | assumption

theorem execVSin_keeps {fx fm : Bool} {b0 s t : State} (w : Dword) (hk : Keeps fx fm b0 s) (e : execVSin w s = .next t) : Keeps fx fm b0 t := by
  unfold execVSin at e
  cases e
  apply State.vStep_keeps
  first | with_reducible assumption | assumption
  intro v0
  intro v1
  intro v2
  apply vUnary_keeps
  first | with_reducible assumption | assumption

theorem execVCos_keeps {fx fm : Bool} {b0 s t : State} (w : Dword) (hk : Keeps fx fm b0 s) (e : execVCos w s = .next t) : Keeps fx fm b0 t := by
  unfold execVCos at e
  cases e
  apply State.vStep_keeps
  first | with_reducible assumption | assumption
  intro v0
  intro v1
  intro v2
  apply vUnary_keeps
  first | with_reducible assumption | assumption

theorem execVSqrt_keeps {fx fm : Bool} {b0 s t : State} (w : Dword) (hk : Keeps fx fm b0 s) (e : execVSqrt w s = .next t) : Keeps fx fm b0 t := by
  unfold execVSqrt at e
  cases e
  apply State.vStep_keeps
  first | with_reducible assumption | assumption
  intro v0
  intro v1
  intro v2
  apply vUnary_keeps
  first | with_reducible assumption | assumption

theorem execVRcp_keeps {fx fm : Bool} {b0 s t : State} (w : Dword) (hk : Keeps fx fm b0 s) (e : execVRcp w s = .next t) : Keeps fx fm b0 t := by
  unfold execVRcp at e
  cases e
  apply State.vStep_keeps
  first | with_reducible assumption | assumption
  intro v0
  intro v1
  intro v2
  apply vUnary_keeps
  first | with_reducible assumption | assumption

theorem execVJmp_keeps {fx fm : Bool} {b0 s t : State} (w : Dword) (hk : Keeps fx fm b0 s) (e : execVJmp w s = .next t) : Keeps fx fm b0 t := by
  unfold execVJmp at e
  cases e
  apply State.vStep_keeps
  first | with_reducible assumption | assumption
  intro v0
  intro v1
  intro v2
  apply vJump_keeps
  first | with_reducible assumption | assumption

theorem execVJany_keeps {fx fm : Bool} {b0 s t : State} (w : Dword) (hk : Keeps fx fm b0 s) (e : execVJany w s = .next t) : Keeps fx fm b0 t := by
  unfold execVJany at e
  cases e
  apply State.vStep_keeps
  first | with_reducible assumption | assumption
  intro v0
  intro v1
  intro v2
  apply vJump_keeps
  first | with_reducible assumption | assumption

theorem execVJnone_keeps {fx fm : Bool} {b0 s t : State} (w : Dword) (hk : Keeps fx fm b0 s) (e : execVJnone w s = .next t) : Keeps fx fm b0 t := by
  unfold execVJnone at e
  cases e
  apply State.vStep_keeps
  first | with_reducible assumption | assumption
  intro v0
  intro v1
  intro v2
  apply vJump_keeps
  first | with_reducible assumption | assumption

theorem execVLoop_keeps {fx fm : Bool} {b0 s t : State} (w : Dword) (hk : Keeps fx fm b0 s) (e : execVLoop w s = .next t) : Keeps fx fm b0 t := by
  unfold execVLoop at e
  cases e
  apply State.vStep_keeps
  first | with_reducible assumption | assumption
  intro v0
  intro v1
  intro v2
  apply vBodyLoop_keeps
  first | with_reducible assumption | assumption

theorem execVEnd_keeps {fx fm : Bool} {b0 s t : State} (w : Dword) (hk : Keeps fx fm b0 s) (e : execVEnd w s = .next t) : Keeps fx fm b0 t := by
  unfold execVEnd at e
  cases e
  split
  apply State.vIssue_keeps
  first | with_reducible assumption | assumption
  intro v0
  intro v1
  intro v2
  apply State.vEndProgram_keeps
  first | with_reducible assumption | assumption
  first | with_reducible assumption | assumption

theorem execIllegalOpcode_keeps {fx fm : Bool} {b0 s t : State} (w : Dword) (hk : Keeps fx fm b0 s) (e : execIllegalOpcode w s = .next t) : Keeps fx fm b0 t := by
  unfold execIllegalOpcode at e
  cases e
  split
  apply State.vIssue_keeps
  first | with_reducible assumption | assumption
  intro v0
  intro v1
  intro v2
  first | with_reducible assumption | assumption
  first | with_reducible assumption | assumption

theorem execProgramAbandon_keeps {fx fm : Bool} {b0 s t : State}  (hk : Keeps fx fm b0 s) (e : execProgramAbandon s = .next t) : Keeps fx fm b0 t := by
  unfold execProgramAbandon at e
  cases e
  split
  apply State.vAbandon_keeps
  apply State.advTo_keeps
  first | with_reducible assumption | assumption
  first | with_reducible assumption | assumption

end Sys2Proof.Machine
end

