-- ==== Sys2Proof/Laws/Pages.lean ====
section
/-! SUPPORT. The register map: the page and the register that an address names. -/

namespace Sys2Proof

/-- No two page kinds share an address. -/
theorem pages_disjoint : allPages.Pairwise fun k l =>
    k.info.base + 0x1000 * k.info.count ≤ l.info.base ∨ l.info.base + 0x1000 * l.info.count ≤ k.info.base := by decide
theorem PageKind.mem_allPages (k : PageKind) : k ∈ allPages := by cases k <;> decide

theorem findPageIn_of_mem (l : List PageKind) (k : PageKind) (a : Nat) (hl : l.Pairwise fun k l =>
    k.info.base + 0x1000 * k.info.count ≤ l.info.base ∨ l.info.base + 0x1000 * l.info.count ≤ k.info.base) (hk : k ∈ l)
    (h : k.info.base ≤ a ∧ a < k.info.base + 0x1000 * k.info.count) : findPageIn l a = some (k, (a - k.info.base) / 0x1000) := by
  induction l with
  | nil => cases hk
  | cons x l ih =>
    rw [List.pairwise_cons] at hl
    unfold findPageIn
    rcases List.mem_cons.mp hk with rfl | hk
    · rw [if_pos h]
    · have := hl.1 k hk
      rw [if_neg (by omega)]
      exact ih hl.2 hk

/-- The page of an address within a page. -/
theorem findPage_of (k : PageKind) (n o : Nat) (hn : n < k.info.count) (ho : o < 0x1000) : findPage (pageBase k n + o) = some (k, n) := by
  have h : k.info.base ≤ pageBase k n + o ∧ pageBase k n + o < k.info.base + 0x1000 * k.info.count := by
    unfold pageBase
    have : 0x1000 * (n + 1) ≤ 0x1000 * k.info.count := Nat.mul_le_mul_left _ hn
    omega
  unfold findPage
  rw [findPageIn_of_mem _ k _ pages_disjoint k.mem_allPages h]
  unfold pageBase
  congr 2
  omega

theorem findPageIn_mem (l : List PageKind) (a : Nat) (q : PageKind × Nat) (h : findPageIn l a = some q) :
    q.1.info.base ≤ a ∧ a < q.1.info.base + 0x1000 * q.1.info.count ∧ q.2 = (a - q.1.info.base) / 0x1000 := by
  induction l with
  | nil => cases h
  | cons x l ih =>
    unfold findPageIn at h
    split at h
    · rename_i hx
      cases h
      exact ⟨hx.1, hx.2, rfl⟩
    · exact ih h

/-- What the page of an address is. -/
theorem findPage_spec {a : Nat} {k : PageKind} {n : Nat} (h : findPage a = some (k, n)) :
    n < k.info.count ∧ pageBase k n ≤ a ∧ a < pageBase k n + 0x1000 := by
  obtain ⟨h1, h2, h3⟩ := findPageIn_mem _ _ _ h
  dsimp only at h1 h2 h3
  unfold pageBase
  omega

theorem findFam_mem (l : List RegFam) (o : Nat) (q : RegFam × List Nat) (h : findFam l o = some q) : q.1 ∈ l := by
  induction l with
  | nil => cases h
  | cons x l ih =>
    unfold findFam at h
    split at h
    · cases h
      exact List.mem_cons_self ..
    · exact List.mem_cons_of_mem _ (ih h)

/-- Every register of the map has its fields within 32 bits. -/
theorem fields_ok (k : PageKind) : ∀ f ∈ k.regs, ∀ g ∈ f.fields, g.lo ≤ g.hi ∧ g.hi ≤ 31 := by
  cases k <;> decide

/-- What the register at an address is. -/
theorem findReg_spec {a : Nat} {r : RegRef} (h : findReg a = some r) :
    findPage a = some (r.kind, r.pn) ∧ r.addr = a ∧ r.fam ∈ r.kind.regs ∧ r.fieldsOk ∧ r.off < 0x1000 ∧ pageBase r.kind r.pn + r.off = a := by
  unfold findReg at h
  split at h
  · rename_i k n hp
    unfold findRegIn at h
    split at h
    · rename_i f ix hf
      cases h
      have hm := findFam_mem _ _ _ hf
      obtain ⟨h1, h2, h3⟩ := findPage_spec hp
      refine ⟨hp, ?_, hm, fun g hg => fields_ok k f hm g hg, ?_, ?_⟩
      all_goals
        unfold pageBase at *
        first
          | unfold RegRef.addr
            dsimp only
            omega
          | dsimp only
            omega
    · cases h
  · cases h

/-- The register at an offset of the common header. -/
theorem findReg_header (k : PageKind) (n : Nat) (hn : n < k.info.count) :
    findReg (pageBase k n + 0x008) = some ⟨k, n, 0x008, reg 0x008 [] [fld 31 0 .wo 0], []⟩ ∧
    findReg (pageBase k n + 0x010) = some ⟨k, n, 0x010, reg 0x010 [] [fld 31 16 .ro 0, fld 15 4 .ro 0,
      if k.info.cls = 1 then fld 3 2 .ro 3 else fld 3 2 .rwk 1, fld 0 0 .w1c 0], []⟩ ∧
    findReg (pageBase k n + 0x014) = some ⟨k, n, 0x014, reg 0x014 [] [fld 31 0 .w1c 0], []⟩ ∧
    findReg (pageBase k n + 0x018) = some ⟨k, n, 0x018, reg 0x018 [] [fld 31 0 .rw 0], []⟩ ∧
    findReg (pageBase k n + 0x01C) = some ⟨k, n, 0x01C, reg 0x01C [] [fld 31 0 .wo 0], []⟩ := by
  have e : ∀ o, o < 0x1000 → findReg (pageBase k n + o) = findRegIn k n o := by
    intro o ho
    unfold findReg
    rw [findPage_of k n o hn ho]
    dsimp only
    congr 1
    unfold pageBase
    omega
  rw [e _ (by decide), e _ (by decide), e _ (by decide), e _ (by decide), e _ (by decide)]
  refine ⟨rfl, rfl, rfl, rfl, rfl⟩

end Sys2Proof
end

