-- ==== Sys2Proof/Laws/Slope.lean ====
section
/-! SUPPORT. The channels of Slope under the operations of an evaluation (R217 to R233). -/

namespace Sys2Proof.Machine

open Sys2Proof

theorem State.sl_setSl (s : State) (n : Nat) (f : SlCh → SlCh) : (s.setSl n f).sl n = f (s.sl n) := Tab.get_set_same _ _ _ _
theorem State.sl_setSl_ne (s : State) {n m : Nat} (f : SlCh → SlCh) (h : m ≠ n) : (s.setSl n f).sl m = s.sl m :=
  Tab.get_set_ne _ _ _ _ _ h

/-- What an evaluation judges a channel by and its estimates leave alone: how long its current has been reversed, and the conditions of the
last evaluation. -/
def SlCh.judged (h : SlCh) : Nat × List Nat := (h.revFor, h.conds)

theorem State.setSl_judged (s : State) (n m : Nat) (f : SlCh → SlCh) (hf : ∀ h, (f h).judged = h.judged) :
    ((s.setSl n f).sl m).judged = (s.sl m).judged := by
  by_cases h : m = n
  · rw [h, State.sl_setSl, hf]
  · rw [State.sl_setSl_ne s f h]

theorem State.sl_put (s : State) (f : Fld) (v m : Nat) : (s.put f v).sl m = s.sl m := rfl
theorem State.sl_putI (s : State) (f : Fld) (v : Int) (m : Nat) : (s.putI f v).sl m = s.sl m := rfl
theorem State.sl_putB (s : State) (f : Fld) (b : Bool) (m : Nat) : (s.putB f b).sl m = s.sl m := rfl

theorem State.slAtMpp_judged (s : State) (n m : Nat) (valid : Bool) (dp : Rat) : ((s.slAtMpp n valid dp).sl m).judged = (s.sl m).judged := by
  unfold State.slAtMpp
  rw [State.sl_putB]
  exact State.setSl_judged _ n m _ fun _ => rfl

theorem State.slEstimate_judged (s : State) (n m : Nat) : ((s.slEstimate n).sl m).judged = (s.sl m).judged := by
  unfold State.slEstimate
  dsimp only
  split
  · rw [State.sl_put, State.sl_putI, State.sl_putI]
    refine (State.setSl_judged _ n m _ ?_).trans ?_
    · exact fun _ => rfl
    rw [State.sl_putI, State.sl_putI, State.sl_putI]
  · rw [State.slAtMpp_judged, State.sl_putB, State.sl_putI, State.sl_putI]
    refine (State.setSl_judged _ n m _ ?_).trans ?_
    · exact fun _ => rfl
    rw [State.sl_putI, State.sl_putI, State.sl_putI]

theorem State.slRuns_judged (s : State) (n m : Nat) : ((s.slRuns n).sl m).judged = (s.sl m).judged :=
  State.setSl_judged _ n m _ fun _ => rfl

/-- A step that leaves a value of the state alone leaves it alone over a list. -/
theorem State.forEach_eq {α : Type} (f : State → Nat → State) (g : State → α) (l : List Nat) (hf : ∀ s, ∀ n ∈ l, g (f s n) = g s) (s : State) :
    g (s.forEach f l) = g s := by
  induction l generalizing s with
  | nil => rfl
  | cons n l ih => exact (ih (fun s m hm => hf s m (List.mem_cons_of_mem _ hm)) (f s n)).trans (hf s n List.mem_cons_self)

/-- A current that has been reversed for 10 ms, new in this evaluation, is the fault found, code 1, in every state (R233). -/
theorem State.slFaultNow_reverse (s : State) (n : Nat) (hn : n < 32) (hr : msQ 10 ≤ (s.slopeRoll.sl n).revFor)
    (hc : (s.slopeRoll.sl n).conds = []) :
    (((s.slopeRoll.forEach State.slEstimate (List.range 32)).forEach State.slRuns s.slEnabled).forEach State.slArise
      (List.range 32)).slFaultNow n = some 1 := by
  generalize hx : (s.slopeRoll.forEach State.slEstimate (List.range 32)).forEach State.slRuns s.slEnabled = x
  have hj : (x.sl n).judged = (s.slopeRoll.sl n).judged := by
    rw [← hx]
    exact (State.forEach_eq State.slRuns (fun t => (t.sl n).judged) _ (fun t k _ => State.slRuns_judged t k n) _).trans
      (State.forEach_eq State.slEstimate (fun t => (t.sl n).judged) _ (fun t k _ => State.slEstimate_judged t k n) _)
  have hxr : msQ 10 ≤ (x.sl n).revFor := by rw [show (x.sl n).revFor = _ from congrArg Prod.fst hj]; exact hr
  have hxc : (x.sl n).conds = [] := by rw [show (x.sl n).conds = _ from congrArg Prod.snd hj]; exact hc
  have hne : ∀ (l : List Nat) (y : State), n ∉ l → (y.forEach State.slArise l).sl n = y.sl n := fun l y hl =>
    State.forEach_eq State.slArise (fun t => t.sl n) l
      (fun t k hk => State.sl_setSl_ne t _ fun h => hl (h ▸ hk)) y
  obtain ⟨a, b, hab, ha, hb⟩ : ∃ a b, List.range 32 = a ++ n :: b ∧ n ∉ a ∧ n ∉ b := by
    have h : ∀ k : Fin 32, List.range 32 = List.range k ++ k.val :: (List.range 32).drop (k + 1) ∧ k.val ∉ List.range k ∧
        k.val ∉ (List.range 32).drop (k + 1) := by decide
    exact ⟨_, _, (h ⟨n, hn⟩).1, (h ⟨n, hn⟩).2.1, (h ⟨n, hn⟩).2.2⟩
  have happ : ∀ (l k : List Nat) (y : State), y.forEach State.slArise (l ++ k) = (y.forEach State.slArise l).forEach State.slArise k := by
    intro l
    induction l with
    | nil => intro k y; rfl
    | cons q l ih => intro k y; exact ih k _
  rw [hab, happ]
  generalize hy : x.forEach State.slArise a = y
  have hys : y.sl n = x.sl n := by rw [← hy, hne a x ha]
  have h1 : y.slCond n 1 = true := decide_eq_true (by rw [hys]; exact hxr)
  have hconds : ∃ l, y.slConds n = 1 :: l := by
    unfold State.slConds
    rw [List.filter_cons_of_pos h1]
    exact ⟨_, rfl⟩
  obtain ⟨l, hl⟩ := hconds
  have hz : ((y.slArise n).forEach State.slArise b).sl n =
      { y.sl n with arose := (y.slConds n).filter fun c => c == 5 || !(y.sl n).conds.contains c, conds := y.slConds n } := by
    rw [hne b _ hb]
    exact State.sl_setSl y n _
  show ((y.slArise n).forEach State.slArise b).slFaultNow n = some 1
  generalize hw : (y.slArise n).forEach State.slArise b = w at hz ⊢
  unfold State.slFaultNow
  split
  · rw [hz, hl, hys, hxc, List.filter_cons_of_pos (by decide)]
    rfl
  · have h2 : w.slCond n 1 = true := decide_eq_true (by rw [hz]; show msQ 10 ≤ (y.sl n).revFor; rw [hys]; exact hxr)
    unfold State.slConds
    rw [List.filter_cons_of_pos h2]
    rfl

end Sys2Proof.Machine
end

