-- ==== Sys2Proof/WellFormed.lean ====
section
/-! DEFINITION. Which commands are well formed: their operands lie in the ranges the spec gives them. The finite operands (a port, a
leg, a ring, a drive) are in range by their type. -/

namespace Sys2Proof

/-- The register window (R18). -/
def inRegWindow (addr : Nat) : Bool := decide (0x40000000 ≤ addr) && decide (addr < 0x40C00000)
/-- The access sizes of a bus write, in bytes (R27). -/
def byteCount (n : Nat) : Bool := n == 1 || n == 2 || n == 4 || n == 8
/-- An access of a host core lies in its memory: 4 MB of shared SRAM, 8 MB of embedded MRAM (R18). -/
def memAccess (mram : Bool) (addr : Nat) (write : Option (List Byte)) : Bool :=
  decide (addr + max 1 (write.getD []).length ≤ if mram then 0x800000 else 0x400000)
/-- A flash slot runs from its base to the next (R450). -/
def flashSlotSize : Nat := 0x400000

/-- The operands of a command lie in their ranges. -/
def Instr.wf : Instr → Bool
  | .mainRailFailure _ => true
  | .burstEnergyLost _ => true
  | .powerUp _ _ _ => true
  | .pinReset => true
  | .swrst _ => true
  | .jtagSystemReset => true
  | .mainResetRelease _ _ _ => true
  | .originPowerOn => true
  | .sealChange _ => true
  | .timePllLock => true
  | .tickStart => true
  | .selftestTimeout => true
  | .autoStart => true
  | .inputFreeze => true
  | .computeStart => true
  | .vNop _ => true
  | .vEnd _ => true
  | .vLd _ => true
  | .vLdc _ => true
  | .vSt _ => true
  | .vSto _ => true
  | .vLda _ => true
  | .vSeta _ => true
  | .vAdd _ => true
  | .vSub _ => true
  | .vMul _ => true
  | .vMuls _ => true
  | .vMax _ => true
  | .vMin _ => true
  | .vNeg _ => true
  | .vAbs _ => true
  | .vShl _ => true
  | .vClamp _ => true
  | .vSel _ => true
  | .vRsum _ => true
  | .vMacz _ => true
  | .vMac _ => true
  | .vMaczs _ => true
  | .vMacs _ => true
  | .vAcc _ => true
  | .vCgt _ => true
  | .vCge _ => true
  | .vSin _ => true
  | .vCos _ => true
  | .vSqrt _ => true
  | .vRcp _ => true
  | .vJmp _ => true
  | .vJany _ => true
  | .vJnone _ => true
  | .vLoop _ => true
  | .programAbandon => true
  | .issueLatch => true
  | .edgeSetRelease => true
  | .guardStart => true
  | .key _ addr _ => inRegWindow addr && decide (addr % 4096 = 8)
  | .keyExpiry addr => inRegWindow addr && decide (addr % 4096 = 8)
  | .registerWrite _ addr bytes v _ => inRegWindow addr && byteCount bytes && decide (v.toNat < 2 ^ (8 * bytes))
  | .accessUnimpl _ addr => inRegWindow addr
  | .irqForce _ addr _ => inRegWindow addr && decide (addr % 4096 = 28)
  | .parityScrub addr _ => inRegWindow addr && decide (addr % 4 = 0)
  | .ringEnable _ _ _ => true
  | .ringDisable _ _ _ => true
  | .ringPointerWrite _ _ _ => true
  | .logEntryArrival _ => true
  | .logRelease => true
  | .tagRequest _ => true
  | .rsp _ _ => true
  | .tagTimeout _ _ => true
  | .tagQuarantineEnd _ _ => true
  | .modeRequestStandby _ => true
  | .modeRequestFollow _ => true
  | .modeRequestForm _ => true
  | .modeRequestHalt _ => true
  | .modeRequestInvalid _ _ => true
  | .curtail _ _ => true
  | .nightvar _ _ => true
  | .test _ _ => true
  | .legacy _ _ => true
  | .profileRequest _ _ => true
  | .commit _ _ _ => true
  | .legEnable _ _ _ => true
  | .auxPeriodStart _ => true
  | .auxoffConfirm _ => true
  | .confTimeout _ => true
  | .linkEnable _ _ _ => true
  | .retrain _ _ => true
  | .loopNearSerial _ _ => true
  | .loopNearParallel _ _ => true
  | .loopFarEnd _ _ => true
  | .prbs31Test _ _ => true
  | .loopEnd _ _ => true
  | .linkCntclrCrc _ _ => true
  | .linkCntclrPrbs _ _ => true
  | .linkCntclrLooperr _ _ => true
  | .linkCntclrErr _ _ => true
  | .clockPhaseDone _ _ => true
  | .eqPhaseDone _ => true
  | .tapRequest _ _ => true
  | .latPhaseDone _ echoes => decide (echoes.length = 64)
  | .linkUp _ _ _ => true
  | .trainFail _ _ => true
  | .backoffEnd _ => true
  | .linkLoss _ _ => true
  | .latencyProbe _ => true
  | .probeEcho _ _ _ => true
  | .sample _ _ _ => true
  | .status _ _ => true
  | .invalidBlock _ _ _ _ => true
  | .genRequest => true
  | .tripClear _ _ _ _ => true
  | .inj _ _ _ => true
  | .pinTrip _ _ => true
  | .channelClear _ _ => true
  | .pgTrip => true
  | .pguardOn => true
  | .gcEvaluation => true
  | .freqLimitConfirm _ => true
  | .rocofConfirm => true
  | .slotResponse => true
  | .islInj _ => true
  | .islCeased => true
  | .clearMissed => true
  | .slopeEvaluation => true
  | .scanRequest _ _ => true
  | .scanDone _ => true
  | .stringFaultClear _ _ => true
  | .slopeTestFault _ _ => true
  | .run _ _ => true
  | .swap _ => true
  | .programWordWrite _ _ => true
  | .dataWordWrite _ _ => true
  | .coefWrite _ _ => true
  | .clrMax _ => true
  | .clrSatcnt _ => true
  | .ecc1 _ => true
  | .ecc2 _ => true
  | .ceTestFault _ => true
  | .supLatchClear _ _ => true
  | .adcStartupCal sums => decide (sums.length = 9)
  | .tickSlotResult _ _ _ _ => true
  | .backgroundConversion _ _ => true
  | .triggerPulse _ => true
  | .trigSw _ _ => true
  | .generatorPulse _ => true
  | .rotCalibrationDone _ _ _ => true
  | .rotShadowDone _ => true
  | .rotDwellEnd => true
  | .adcStep _ => true
  | .calerr _ => true
  | .cmpRawChange _ _ => true
  | .cmpWinChange _ => true
  | .blankingWindowEnd _ => true
  | .thresholdRefresh _ => true
  | .cmpSelftestPass => true
  | .meterSample codes _ _ => decide (codes.length = 16)
  | .windowEnd => true
  | .freq10s => true
  | .meterCheckpointStage => true
  | .pmuReport => true
  | .meterClear _ _ => true
  | .wack _ => true
  | .meterHold _ _ => true
  | .accumulationStart cals => decide (cals.length = 17)
  | .meterRotationStep _ _ => true
  | .meterTestInj _ _ => true
  | .timeMeasurement _ _ => true
  | .measinj _ _ => true
  | .measTimeout => true
  | .holdoverExpiry => true
  | .rearm _ => true
  | .srcSelect _ _ => true
  | .snap _ => true
  | .syncInEdge _ _ => true
  | .ethFrameReceive _ frame _ => decide (frame.length < 2 ^ 16)
  | .ethTransmit _ => true
  | .ethLinkUp _ _ => true
  | .start _ _ => true
  | .stop _ _ => true
  | .coast _ _ => true
  | .position _ _ => true
  | .stow _ _ => true
  | .home _ _ => true
  | .drvInj _ _ => true
  | .driveEnable _ _ _ => true
  | .speedTargetWrite _ _ _ => true
  | .driveDecision _ => true
  | .decisionDeadline _ => true
  | .catchDone _ => true
  | .alignDone _ => true
  | .stopHoldDone _ => true
  | .positionReached _ => true
  | .stowDone _ => true
  | .shortEnd _ => true
  | .driveFaultClear _ _ => true
  | .chopperUpdate _ => true
  | .brkFault _ => true
  | .brkFaultClear _ _ _ => true
  | .hallChange _ _ _ => true
  | .indexEdge _ => true
  | .arcHome _ _ => true
  | .secantCycle _ => true
  | .chordEvaluation _ => true
  | .sinLevelChange _ _ _ _ => true
  | .discrepancy _ => true
  | .safeFault _ => true
  | .secantWd => true
  | .crossTimeout => true
  | .release _ => true
  | .driveRelease _ _ => true
  | .outputRequest _ _ => true
  | .onfail _ _ => true
  | .weld _ _ => true
  | .outputReadbackFault _ => true
  | .safeFrameTx _ => true
  | .connFail _ => true
  | .connRestart _ _ => true
  | .safeStartupTest _ _ => true
  | .wen _ _ => true
  | .mramWrite _ addr _ => decide (0x780000 ≤ addr) && decide (addr + 8 ≤ 0x800000)
  | .xinj _ => true
  | .oinj _ => true
  | .harvestSample _ => true
  | .harvest => true
  | .cellMeasurement _ _ => true
  | .cellDisconnect => true
  | .chgFault => true
  | .rtcSecond => true
  | .rtcRealign => true
  | .rtcset _ => true
  | .trimLearn _ => true
  | .checkpointCommit _ => true
  | .lifeWrite => true
  | .housekeepingBurst => true
  | .tempRead _ => true
  | .agingCount _ _ => true
  | .tfail _ => true
  | .monFail _ _ _ => true
  | .syspllReset => true
  | .clockOutputSetup _ _ _ => true
  | .clockFormatChange _ _ _ => true
  | .wdogKick _ _ => true
  | .wdogExpire => true
  | .hcRelease _ _ => true
  | .bootSearch flashA flashB _ _ => decide (flashA.length ≤ flashSlotSize) && decide (flashB.length ≤ flashSlotSize)
  | .boundaryScanInstruction _ _ => true
  | .vkeepLoss _ => true
  | .pllRelock _ _ => true
  | .ethLinkDown _ => true
  | .illegalOpcode _ => true
  | .blankingWindowStart _ => true
  | .gridLoopTrim => true
  | .debugHoldRelease => true
  | .hostMemoryAccess _ mram addr write _ => memAccess mram addr write
  | .tapAck _ _ _ _ => true
  | .linkTestEntry _ _ => true

end Sys2Proof
end

