-- ==== Sys2Proof/Tests/Slice0.lean ====
section
/-! SUPPORT. Small checks of the model: ill-formed commands that `Instr.wf` refuses, single steps whose expected results are read
from spec/, and, for every obligation with hypotheses, concrete states and operands that meet them (`meets_…`, one theorem or more for
each obligation, clause by clause; `ready` decides what they assume of every command, by `ready_of`). -/

namespace Sys2Proof.Tests

open Sys2Proof Sys2Proof.Machine

/-! The checks run one after another, so that their kernel evaluations do not stand in memory together. -/

set_option Elab.async false

/-! ## Helpers -/

/-- A host core in machine mode, and one in user mode. -/
def mHost : Who := ⟨0, .machine⟩
def uHost : Who := ⟨0, .user⟩
/-- A core that HC0 has not released after reset (R21). -/
def coreTwo : Who := ⟨2, .machine⟩
/-- A state with fields laid in. -/
def lay (fs : List (Fld × Nat)) (s : State) : State := fs.foldl (fun s q => s.put q.1 q.2) s
/-- The reset state with fields laid in. -/
def at0 (fs : List (Fld × Nat)) : State := lay fs State.reset
/-- The counter runs, two seconds after the epoch, at the start of a tick, in a major mode. -/
def ticking (mode : Nat) (fs : List (Fld × Nat)) : State :=
  lay ((R.SYS_MODE_STAT_MODE, mode) :: fs)
    { State.reset with time := { run := true, now := 8000000000, up := 8000000000, osc := 8000000000, tickStart := 8000000000, tickEnd := 8000040000 } }
/-- A key that is open. -/
def opened (base : Nat) (s : State) : State := { s with sys := { s.sys with keys := [(base, some s.time.up)] } }

/-- The canonical form, decided. -/
theorem wf_of {s : State}
    (h : (Tab.wf regReset s.regs && Memory.wf memDefault s.sram && Memory.wf mramDefault s.mram) = true) : s.Wf := by
  simp only [Bool.and_eq_true] at h
  exact ⟨h.1.1, h.1.2, h.2⟩
/-- The access of the machine-mode core takes place, and the state is canonical. -/
def ready (s : State) : Bool :=
  (s.alive && s.initiates mHost && machineAccess mHost) &&
    (Tab.wf regReset s.regs && Memory.wf memDefault s.sram && Memory.wf mramDefault s.mram)
/-- What the statements about a command assume (`s.commands who` and `s.Wf`) is what `ready` decides. -/
theorem ready_of {s : State} (h : ready s = true) : s.commands mHost ∧ s.Wf := by
  simp only [ready, Bool.and_eq_true] at h
  exact ⟨⟨h.1.1.1, h.1.1.2, h.1.2⟩, h.2.1.1, h.2.1.2, h.2.2⟩
/-- A port whose tag register reads 0 has no busy tag. -/
theorem noTags {s : State} {p : Nat} (h : s.reg (R.LINK_TAGS p).addr = 0#32) (k : Nat) : s.tagBusy p k = false := by
  have h' : s.reg ((R.LINK_TAGS p).bit k).addr = 0#32 := h
  simp [State.tagBusy, State.flag, State.get, fieldOf, h']

/-! ## Well-formed commands -/

theorem test_wf_key : (Instr.key mHost 0x40000008 0xC5A1).wf = true ∧ (Instr.key mHost 0x3FFFF008 0).wf = false ∧
    (Instr.key mHost 0x4000000C 0).wf = false := by decide
theorem test_wf_keyExpiry : (Instr.keyExpiry 0x40BFF008).wf = true ∧ (Instr.keyExpiry 0x40C00008).wf = false ∧
    (Instr.keyExpiry 0x40000000).wf = false := by decide
theorem test_wf_registerWrite : (Instr.registerWrite mHost 0x40001040 4 0xFFFFFFFF false).wf = true ∧
    (Instr.registerWrite mHost 0x40C00000 4 0 false).wf = false ∧ (Instr.registerWrite mHost 0x40001040 3 0 false).wf = false ∧
    (Instr.registerWrite mHost 0x40001040 4 0x100000000 false).wf = false := by decide
theorem test_wf_accessUnimpl : (Instr.accessUnimpl mHost 0x40000000).wf = true ∧ (Instr.accessUnimpl mHost 0x3FFFFFFF).wf = false := by
  decide
theorem test_wf_irqForce : (Instr.irqForce mHost 0x4000001C 1).wf = true ∧ (Instr.irqForce mHost 0x40C0001C 1).wf = false ∧
    (Instr.irqForce mHost 0x40000018 1).wf = false := by decide
theorem test_wf_parityScrub : (Instr.parityScrub 0x40001040 0).wf = true ∧ (Instr.parityScrub 0x3FFFFFFC 0).wf = false ∧
    (Instr.parityScrub 0x40001041 0).wf = false := by decide
theorem test_wf_latPhaseDone : (Instr.latPhaseDone 0 (List.replicate 64 (0, 0#64))).wf = true ∧
    (Instr.latPhaseDone 0 (List.replicate 63 (0, 0#64))).wf = false := by decide
theorem test_wf_adcStartupCal : (Instr.adcStartupCal (List.replicate 9 (0, 0, 0))).wf = true ∧
    (Instr.adcStartupCal (List.replicate 8 (0, 0, 0))).wf = false := by decide
theorem test_wf_meterSample : (Instr.meterSample (List.replicate 16 0) 0 none).wf = true ∧
    (Instr.meterSample (List.replicate 17 0) 0 none).wf = false := by decide
theorem test_wf_accumulationStart : (Instr.accumulationStart (List.replicate 17 none)).wf = true ∧
    (Instr.accumulationStart (List.replicate 16 none)).wf = false := by decide
theorem test_wf_ethFrameReceive : (Instr.ethFrameReceive 0 [0#8] false).wf = true ∧
    (Instr.ethFrameReceive 0 (List.replicate (2 ^ 16) 0#8) false).wf = false :=
  ⟨by decide, by simp only [Instr.wf, List.length_replicate]; decide⟩
theorem test_wf_mramWrite : (Instr.mramWrite mHost 0x7FFFF8 0).wf = true ∧ (Instr.mramWrite mHost 0x77FFFF 0).wf = false ∧
    (Instr.mramWrite mHost 0x7FFFF9 0).wf = false := by decide
theorem test_wf_bootSearch : (Instr.bootSearch [] [] [] []).wf = true ∧
    (Instr.bootSearch (List.replicate 0x400001 0#8) [] [] []).wf = false ∧
    (Instr.bootSearch [] (List.replicate 0x400001 0#8) [] []).wf = false :=
  ⟨by decide, by simp only [Instr.wf, List.length_replicate]; decide, by simp only [Instr.wf, List.length_replicate]; decide⟩
theorem test_wf_hostMemoryAccess : (Instr.hostMemoryAccess mHost false 0x3FFFFF (some [0#8]) none).wf = true ∧
    (Instr.hostMemoryAccess mHost false 0x3FFFFF (some [0#8, 0#8]) none).wf = false ∧
    (Instr.hostMemoryAccess mHost true 0x800000 none none).wf = false := by decide

/-! ## Single checks, their expected values read from spec/ -/

/-- R118: the worked example of spec/05. -/
theorem test_edgeBlock_example : edgeBlock 3 true true 0x37 0x28000 = 0x05E6E050000000FA#64 := by decide +kernel
/-- R129: the worked example of spec/05, RTT 2304 units and ASYM 0. -/
theorem test_ddown_example : State.reset.ddownOf 4 (rttMean (List.replicate 64 (3712 - 1408))) = 1152 := by decide +kernel
/-- R374: codes 1, 3, 2, 6, 4 and 5 are sectors 0 to 5 in that order. -/
theorem test_hall_sectors : [1, 3, 2, 6, 4, 5].map hallSector = [0, 1, 2, 3, 4, 5] := by decide
/-- R243: 1 is held exactly; the least exponent at which it fits in 24 bits is 1, with mantissa 2^22. -/
theorem test_pack_one : pack [Exact.dy ⟨1, 0⟩] none = ([2 ^ 22], 1, none) := by decide +kernel
/-- R55: RING_EVT_ROUTE resets to 0x0123. -/
theorem test_reset_route : State.reset.reg 0x40A02040 = 0x0123#32 := by decide
/-- R58: a tick is 10 µs in WIDE, in units of 0.25 ns. -/
theorem test_reset_tick : State.reset.tickQ = 40000 := by decide
/-- One TIME clock of 1.25 ns on an empty queue (log entry 1). -/
theorem test_step_idle : step State.reset = .next { State.reset with time := { up := 5, osc := 5 } } := rfl
/-- The command at the front is taken, the next stays. -/
theorem test_step_takes_front :
    step { State.reset with pending := [.debugHoldRelease, .pinReset] } = exec .debugHoldRelease { State.reset with pending := [.pinReset] } :=
  rfl
/-- No row of the table gives bits. -/
theorem test_decode_none : decodeTableWord 32 0 = none := rfl
/-- R36: the key of the SYS page opens by 0xC5A1 alone. -/
theorem test_key_opens : (match exec (.key mHost 0x40000008 0xC5A1) State.reset with
    | .next t => t.keyOpen 0x40000000 && !t.keyOpen 0x40001000
    | _ => false) = true := by decide +kernel
/-- R71: a write of TARGET makes the request. -/
theorem test_modeRequest : (match exec (.modeRequestHalt mHost) State.reset with
    | .next t => t.get R.SYS_MODE_REQ_TARGET == 7 && t.get R.SYS_MODE_STAT_REQ == 2 && t.majorMode == mWAKE
    | _ => false) = true := by decide +kernel
/-- R26: an address outside the register window does not exist. -/
theorem test_outside_window : exec (.accessUnimpl mHost 0x40C00000) State.reset = .fault .noSuchAddress := rfl
/-- R19: a byte stored is read back, and its neighbour stays. -/
theorem test_store_sram : (match exec (.hostMemoryAccess mHost false 0x10 (some [0xAB#8]) none) State.reset with
    | .next t => t.sramByte 0x10 == 0xAB#8 && t.sramByte 0x11 == State.reset.sramByte 0x11
    | _ => false) = true := by decide +kernel

/-! ## States that meet the hypotheses: the machine, resets and register pages -/

theorem meets_commands : State.reset.commands mHost ∧ State.reset.Wf := ready_of (by decide +kernel)
theorem meets_StepRunsFrontCommand : ({ State.reset with pending := [.pinReset] } : State).pending = .pinReset :: [] := rfl
theorem meets_QueueAndIdle : State.reset.pending = [] ∧ step State.reset = .next State.reset.idle := ⟨rfl, rfl⟩
theorem meets_StepKeepsCanonicalForm : State.reset.Wf ∧ step State.reset = .next State.reset.idle :=
  ⟨wf_of (by decide +kernel), rfl⟩
theorem meets_MemoryFrames : ∃ s t : State, s.pending = [.keyExpiry 0x40000008] ∧ step s = .next t ∧
    (∀ m c rest, s.pending ≠ .agingCount m c :: rest) ∧ (∀ w a v rest, s.pending ≠ .mramWrite w a v :: rest) ∧
    (∀ w m a v e rest, s.pending ≠ .hostMemoryAccess w m a v e :: rest) ∧ (∀ b rest, s.pending ≠ .sealChange b :: rest) ∧
    ∀ c rest, s.pending = c :: rest → sramSilent c = true :=
  ⟨{ State.reset with pending := [.keyExpiry 0x40000008] }, _, rfl, rfl, nofun, nofun, nofun, nofun, by
    intro c rest h
    cases h
    rfl⟩
theorem meets_ReadsChangeNothing : inWindow 0x40000047 = true ∧ findReg (0x40000047 / 4 * 4) ≠ none := by decide +kernel
/-- Main reset is asserted, and four causes are collected. -/
def inReset : State := { State.reset with sys := { State.reset.sys with inReset := true, rstSrc := 0x1E } }
theorem meets_ResetSources :
    (ready State.reset = true ∧ State.reset.keyOpen (pageBase .sys 0) = false) ∧
    (ready (opened 0x40000000 State.reset) = true ∧ (opened 0x40000000 State.reset).keyOpen (pageBase .sys 0) = true) ∧
    ((at0 [(R.SYS_WDT_CFG_EN, 1)]).alive = true ∧ (at0 [(R.SYS_WDT_CFG_EN, 1)]).flag R.SYS_WDT_CFG_EN = true) ∧
    (let s : State := { State.reset with sys := { State.reset.sys with lockLossUp := some 0 } }
     s.alive = true ∧ s.sys.lockLossUp = some 0) ∧
    (inReset.majorMode ≠ mDARK ∧ inReset.sys.inReset = true) ∧ (at0 [(R.SYS_MODE_STAT_MODE, mDARK)]).majorMode = mDARK := by decide +kernel
theorem meets_PowerUpAndRelease : (at0 [(R.SYS_MODE_STAT_MODE, mDARK)]).majorMode = mDARK ∧
    (inReset.majorMode ≠ mDARK ∧ inReset.sys.inReset = true ∧ inReset.flag (R.CLK_PLL_LOCK.bit 0) = true ∧
      inReset.flag (R.CLK_PLL_LOCK.bit 2) = true ∧ inReset.sys.monCond.testBit 0 = false) ∧
    (State.reset.majorMode ≠ mDARK ∧ State.reset.sys.inReset = false) ∧
    (at0 [(R.CLK_PLL_LOCK.bit 0, 0)]).flag (R.CLK_PLL_LOCK.bit 0) = false ∧
    (at0 [(R.CLK_PLL_LOCK.bit 2, 0)]).flag (R.CLK_PLL_LOCK.bit 2) = false ∧
    ({ State.reset with sys := { State.reset.sys with monCond := 1 } } : State).sys.monCond.testBit 0 = true := by
  decide +kernel
theorem meets_MainRailFailure : State.reset.majorMode ≠ mDARK ∧ (at0 [(R.SYS_MODE_STAT_MODE, mDARK)]).majorMode = mDARK := by
  decide +kernel
theorem meets_KeyOfAPage : (63 < PageKind.leg.info.count ∧ State.reset.alive = true ∧ State.reset.initiates mHost = true ∧
      State.reset.initiates uHost = true ∧ machineAccess mHost = true ∧ machineAccess ⟨4, .user⟩ = true ∧ machineAccess uHost = false) ∧
    ((0xC5A1#32 : Word) = 0xC5A1#32 ∧ (0xC5A0#32 : Word) ≠ 0xC5A1#32 ∧ (1#32 : Word) ≠ 0#32) ∧
    (opened 0x4013F000 State.reset).sys.keys.get noStart (pageBase .leg 63) = some 0 ∧ (opened 0x4013F000 State.reset).alive = true := by
  decide +kernel
theorem meets_IrqForce : 7 < PageKind.prot.info.count ∧ ready State.reset = true ∧ State.reset.initiates uHost = true ∧
    machineAccess mHost = true ∧ PageKind.link.info.cls ≠ 1 ∧ machineAccess uHost = false ∧ PageKind.prot.info.cls = 1 ∧
    (0x80000000#32 : Word) ≠ 0#32 := by decide +kernel
theorem meets_WindowAccesses :
    (inWindow 0x40000040 = true ∧ State.reset.alive = true ∧ State.reset.initiates mHost = true ∧ State.reset.initiates uHost = true ∧
      findReg (0x40000040 / 4 * 4) ≠ none) ∧
    (inWindow 0x40000FFC = true ∧ findReg (0x40000FFC / 4 * 4) = none ∧ findPage 0x40000FFC = some (.sys, 0)) ∧
    (inWindow 0x40BFFFFF = true ∧ findReg (0x40BFFFFF / 4 * 4) = none ∧ findPage 0x40BFFFFF = none) ∧
    (machineAccess mHost = true ∧ findPage 0x40000041 = some (.sys, 0) ∧ 0x40000041 % 4 ≠ 0 ∧ findPage 0x40A00044 = some (.ring, 0) ∧
      0x40A00044 % 8 ≠ 0 ∧ findReg 0x40000FFC = none) ∧
    (machineAccess uHost = false ∧
      (∃ r, findReg 0x40A02040 = some r ∧ findPage 0x40A02040 = some (.ringc, 0) ∧ PageKind.ringc.info.cls ≠ 1 ∧ r.off ≠ 8 ∧
        State.reset.changesKeyed r (0x3210 % 2 ^ 32) = false) ∧
      (∃ r, findReg (R.SUPCH_BAND 31).addr = some r ∧ findPage (R.SUPCH_BAND 31).addr = some (.cesup, 0) ∧ PageKind.cesup.info.cls = 1 ∧
        State.reset.asks r (1 % 2 ^ 32) = true ∧ State.reset.asks r (State.reset.reg (R.SUPCH_BAND 31).addr).toNat = false)) ∧
    State.reset.initiates coreTwo = false ∧ inWindow 0x40C00000 = false ∧ inWindow 0x3FFFFFFF = false :=
  ⟨by decide +kernel, by decide +kernel, by decide +kernel, by decide +kernel,
    ⟨by decide +kernel, ⟨(findReg 0x40A02040).get (by decide +kernel), by simp, by decide +kernel⟩,
      ⟨(findReg (R.SUPCH_BAND 31).addr).get (by decide +kernel), by simp, by decide +kernel⟩⟩, by decide +kernel⟩
theorem meets_InterruptRegisters : 1 < PageKind.eth.info.count ∧ ready State.reset = true ∧ PageKind.eth ≠ .ring ∧
    (let s := at0 [((F.irqStat (pageBase .ring 1)).bit 23, 1), (R.RING_CFG_EN 47, 1), (R.RING_CFG_LOG2N 47, 4), (R.RING_CFG_WMARK 47, 1),
       (R.RING_PIDX 47, 1)]
     1 < PageKind.ring.info.count ∧ ready s = true ∧ (0x800000#32 : Word) &&& s.reg (pageBase .ring 1 + 0x14) ≠ 0#32 ∧
       (1#32 : Word) &&& s.reg (pageBase .ring 1 + 0x14) = 0#32 ∧ s.atMark 47 = true) := by decide +kernel
theorem meets_KeyProtectedField : (let s := opened (pageBase .link 7) State.reset
      7 < PageKind.link.info.count ∧ ready s = true ∧ PageKind.link.info.cls ≠ 1 ∧
      (3 : Fin 4).val ≠ s.get (F.react (pageBase .link 7)) ∧ s.keyOpen (pageBase .link 7) = true) ∧
    ready State.reset = true ∧ State.reset.keyOpen (pageBase .link 7) = false ∧
    (3 : Fin 4).val ≠ State.reset.get (F.react (pageBase .link 7)) := by decide +kernel
theorem meets_HeldWriteLeavesNoTrace : ∃ r, findReg 0x40A02040 = some r ∧ ready State.reset = true ∧
    0x40A02040 % 4 = 0 ∧ silentPage r.kind = true ∧ 0x40 ≤ r.off ∧
    (r.fam.fields.all fun f => f.acc == .ro || f.acc == .rw || f.acc == .rwk || f.acc == .rwt) = true :=
  ⟨(findReg 0x40A02040).get (by decide +kernel), by simp, by decide +kernel⟩
/-- What the first part of TightenOnlyUnderSeal asks of field i of the register at `a` and a written word: a looser value under the seal
(`loose`), or one that is stored. -/
def tightCase (s : State) (a i : Nat) (v : Word) (loose : Bool) : Bool :=
  match findReg a with
  | none => false
  | some r =>
    match r.fam.fields[i]? with
    | none => false
    | some f =>
      let w := fieldOf v f.hi f.lo
      let held := s.get ⟨a, f.hi, f.lo⟩
      ready s && decide (a % 4 = 0) && f.acc == .rwt && w != held && !s.staging r f &&
        (r.fam.fields.all fun g => g == f || fieldOf v g.hi g.lo == if isPlain r g = true then s.get ⟨a, g.hi, g.lo⟩ else 0) &&
        (if loose then s.sealedNow && looser f r.m w held
         else (!s.sealedNow || !looser f r.m w held) && inRange f w && !s.lockHolds r f.lock &&
           !s.refuses (s.setReg a (insertField (s.reg a) f.hi f.lo w)) r f w)
/-- Each direction: lower and higher numbers, a row of bits, two's-complement numbers, and a bound by its region; sealed and unsealed. -/
theorem meets_TightenOnlyUnderSeal_fields :
    tightCase State.reset R.SYS_WDT_CFG_TIMEOUT.addr 0 0x03E90000 true = true ∧
    tightCase State.reset R.SYS_WDT_CFG_TIMEOUT.addr 0 0x03E70000 false = true ∧
    tightCase (at0 [(R.SYS_WDT_CFG_EN, 1)]) R.SYS_WDT_CFG_EN.addr 1 0x03E80000 true = true ∧
    tightCase State.reset R.SYS_WDT_CFG_EN.addr 1 0x03E80001 false = true ∧
    tightCase (at0 [(R.TCH_LEGLO 7, 5)]) (R.TCH_LEGLO 7).addr 0 0x80000004 true = true ∧
    tightCase (at0 [(R.TCH_LEGLO 7, 5)]) (R.TCH_LEGLO 7).addr 0 0x80000005 false = true ∧
    tightCase (at0 [(R.SDRV_PMIN 0, 5)]) (R.SDRV_PMIN 0).addr 0 0xFFFFFFFF true = true ∧
    tightCase (at0 [(R.SDRV_PMAX 2, 0xFFFFFFFF)]) (R.SDRV_PMAX 2).addr 0 1 true = true ∧
    tightCase State.reset (R.RT_REG_BOUND 0).addr 2 ((State.reset.reg (R.RT_REG_BOUND 0).addr) - 1#32) true = true ∧
    tightCase State.reset (R.RT_REG_BOUND 4).addr 2 ((State.reset.reg (R.RT_REG_BOUND 4).addr) + 1#32) true = true ∧
    tightCase { State.reset with sys := { State.reset.sys with sealed := false } } R.SYS_WDT_CFG_TIMEOUT.addr 0 0x03E90000 false = true := by
  decide +kernel
theorem meets_TightenOnlyUnderSeal : (let s := at0 [(R.SUPCH_BAND 31, 0x1000)]
      (0x1000#32 : Word).toNat ≤ s.get (R.SUPCH_BAND 31) ∧ s.sealedNow = true ∧ s.get (R.SUPCH_BAND 31) < (0x1001#32 : Word).toNat ∧
      ready s = true) ∧
    (let s : State := { State.reset with sys := { State.reset.sys with sealed := false } }
     s.sealedNow = false ∧ ready s = true) := by decide +kernel
theorem meets_ParityScrub : ∃ r, findReg 0x4000104C = some r ∧ (ready State.reset = true ∧ r.addr = 0x4000104C ∧ r.isCovered = true ∧
    r.kind ≠ .origin ∧ State.reset.parFlip = [] ∧ State.reset.sys.relUp ≤ State.reset.time.up ∧
    State.reset.sys.scrubNo.get (fun _ => 0) r.kind.info.block ≤ State.reset.scrubPast r.kind ∧
    (r.fam.fields.any fun f => f.covered && decide (f.lo ≤ 11) && decide (11 ≤ f.hi)) = true ∧
    State.reset.flag (F.parErr (pageBase r.kind r.pn)) = false ∧
    (at0 [(F.parErr (pageBase r.kind r.pn), 1)]).flag (F.parErr (pageBase r.kind r.pn)) = true ∧
    ready (at0 [(F.parErr (pageBase r.kind r.pn), 1)]) = true ∧ (at0 [(F.parErr (pageBase r.kind r.pn), 1)]).parFlip = []) :=
  ⟨(findReg 0x4000104C).get (by decide +kernel), by simp, by decide +kernel⟩

/-! ## Rings, the log and tags -/

/-- Ring r is on with 2^n entries at SRAM offset 64 × base, and holds `fill` entries. -/
def ringed (r n base fill : Nat) : List (Fld × Nat) :=
  [(R.RING_BASE_BASE r, base), (R.RING_CFG_LOG2N r, n), (R.RING_CFG_EN r, 1), (R.RING_PIDX r, fill)]
/-- The size with which RING_ENABLE tries the ring. -/
def sizeOf (s : State) (r : Nat) (v : Word) : Nat :=
  if 4 ≤ fieldOf v 8 4 ∧ fieldOf v 8 4 ≤ 16 then fieldOf v 8 4 else s.get (R.RING_CFG_LOG2N r)
/-- The ring has a size in range and lies in the SRAM. -/
def fits (s : State) (r l : Nat) : Bool :=
  decide (4 ≤ l) && decide (l ≤ 16) && decide (s.get (R.RING_BASE_BASE r) * 64 + 2 ^ l * ringBytes r ≤ sramSize)

theorem meets_RingEnableAndDisable :
    (let s := State.reset
     ready s = true ∧ s.ringOn 47 = false ∧ fits s 47 (sizeOf s 47 0xFFFF0100#32) = true ∧ sizeOf s 47 0xFFFF0100#32 = 16 ∧
       s.lostIn 39 = 0 ∧ s.ringOn 39 = false ∧ fits s 39 (sizeOf s 39 0x40#32) = true ∧ fits s 47 (sizeOf s 47 0x30#32) = false) ∧
    (let s := at0 [(R.RING_CFG_LOG2N 47, 16)]
     ready s = true ∧ s.ringOn 47 = false ∧ fits s 47 (sizeOf s 47 0x110#32) = true ∧ sizeOf s 47 0x110#32 ≠ fieldOf 0x110#32 8 4) ∧
    (let s := at0 [(R.RING_BASE_BASE 47, 0xFFFF)]
     ready s = true ∧ s.ringOn 47 = false ∧ fits s 47 (sizeOf s 47 0x40#32) = false) ∧
    (let s : State := { State.reset with log := { lost := [(32, 1)] } }
     ready s = true ∧ s.ringOn 32 = false ∧ s.lostIn 32 ≠ 0 ∧ fits s 32 (sizeOf s 32 0x40#32) = true) ∧
    (let s := at0 (ringed 16 4 0 2 ++ ringed 17 4 16 14 ++ ringed 32 4 64 1)
     ready s = true ∧ s.ringOn 16 = true ∧ s.ringOn (16 + 1) = true ∧ s.ringFill (16 + 1) + s.ringFill 16 ≤ s.ringN (16 + 1) ∧
       s.ringOn 32 = true) := by decide +kernel
theorem meets_RingPointer :
    (let s := at0 (ringed 16 4 0 1)
     ready s = true ∧ ringIsConsumer 16 = true ∧ s.get (R.RING_PIDX 16) = 1 ∧
       ((16#32 : Word).toNat + 2 ^ 32 - s.get (R.RING_CIDX 16)) % 2 ^ 32 ≤ s.ringN 16 ∧
       s.ringN 16 < ((17#32 : Word).toNat + 2 ^ 32 - s.get (R.RING_CIDX 16)) % 2 ^ 32 ∧ (17#32 : Word).toNat ≠ s.get (R.RING_PIDX 16)) ∧
    (let s := at0 (ringed 32 4 0 16)
     ready s = true ∧ ringIsConsumer 32 = false ∧ s.lostIn 32 = 0 ∧ s.get (R.RING_CIDX 32) = 0 ∧
       (s.get (R.RING_PIDX 32) + 2 ^ 32 - (0#32 : Word).toNat) % 2 ^ 32 ≤ s.ringN 32 ∧
       s.ringN 32 < (s.get (R.RING_PIDX 32) + 2 ^ 32 - (17#32 : Word).toNat) % 2 ^ 32 ∧ (17#32 : Word).toNat ≠ s.get (R.RING_CIDX 32)) := by
  decide +kernel
theorem meets_LogEngine :
    (let e : Ev := ⟨0, 16, 63, 0x018, 1, false⟩
     let s : State := { State.reset with log := { inflight := [e, { e with old := true }] } }
     s.alive = true ∧ s.log.inflight[0]? = some e ∧ e.old = false ∧ s.log.buf.length < 512 ∧
       s.log.inflight[1]? = some { e with old := true }) ∧
    (let e : Ev := ⟨0, 16, 63, 0x018, 1, false⟩
     let s : State := { State.reset with log := { inflight := [e], buf := List.replicate 512 e } }
     s.alive = true ∧ s.log.inflight[0]? = some e ∧ e.old = false ∧ 512 ≤ s.log.buf.length ∧
       takeFirst (s.log.buf ++ [e]) = some (e, List.replicate 512 e)) ∧
    (let e : Ev := ⟨8000000000, 16, 63, 0x410, 1, false⟩
     let s : State := { ticking mSTANDBY (ringed 34 4 0 0) with log := { buf := [e] } }
     takeFirst s.log.buf = some (e, []) ∧ 34 = 32 + (s.reg 0x40A02040).toNat / 2 ^ (4 * (e.code / 1024 % 4)) % 8 ∧ s.alive = true ∧
       s.time.run = true ∧ s.log.run = 0 ∧ s.lostIn 34 = 0 ∧ s.ringTakes 34 = true ∧
       s.ringSlot 34 (s.get (R.RING_PIDX 34)) + 16 ≤ sramSize) := by decide +kernel
/-- Port 0 is UP, and its request ring holds one request. -/
def asked (q : Nat) (fs : List (Fld × Nat)) : State :=
  (lay ((R.LINK_STAT_STATE 0, stUP) :: fs ++ ringed 16 4 0 1) State.reset).sramWrite 0 16 q
theorem meets_TagRequest :
    (let q := 0x123 + 5 * 2 ^ 10 + 2 ^ 32
     let s := asked q [(R.LINK_TAGS 0, 1), (R.LINK_TAGQ 0, 2)]
     s.alive = true ∧ s.ringHead (16 + 2 * (0 : Fin 8)) = some q ∧ s.linkUp 0 = true ∧ s.tagBusy 0 2 = false ∧ s.tagQuar 0 2 = false ∧
       (∀ j : Fin 32, j < 2 → s.tagBusy 0 j = true ∨ s.tagQuar 0 j = true) ∧ (q / 2 ^ 14) % 2 = 0 ∧
       s.outstanding 0 (q / 2 ^ 10 % 8) (q % 1024) = false ∧ ¬ (q / 2 ^ 13 % 2 = 1 ∧ 0x010 ≤ q % 1024 ∧ q % 1024 ≤ 0x03F) ∧
       s.sys.upsets = []) ∧
    (∀ a ∈ [0x010, 0x03F],
      let q := a + 2 ^ 13
      let s := asked q []
      s.alive = true ∧ s.ringHead (16 + 2 * (0 : Fin 8)) = some q ∧ s.linkUp 0 = true ∧ s.tagBusy 0 0 = false ∧ s.tagQuar 0 0 = false ∧
        s.outstanding 0 (q / 2 ^ 10 % 8) (q % 1024) = false ∧ (q / 2 ^ 13 % 2 = 1 ∧ 0x010 ≤ q % 1024 ∧ q % 1024 ≤ 0x03F)) ∧
    (let s := asked 0x123 [(R.LINK_TAGQ 0, 0xFFFFFFFF)]
     s.ringHead (16 + 2 * (0 : Fin 8)) = some 0x123 ∧ ∀ k : Fin 32, s.tagQuar 0 k = true) ∧
    (let s := asked (0x123 + 2 ^ 14) [(R.LINK_TAGS 0, 1)]
     s.ringHead (16 + 2 * (0 : Fin 8)) = some (0x123 + 2 ^ 14) ∧ (0x123 + 2 ^ 14) / 2 ^ 14 % 2 = 1 ∧ s.fwOutstanding 0 = true ∧
       s.outstanding 0 0 0 = true) ∧
    (let s := asked 0 [(R.LINK_STAT_STATE 0, stDOWN)]
     s.ringHead (16 + 2 * (0 : Fin 8)) = some 0 ∧ s.linkUp 0 = false) := by decide +kernel
theorem meets_TagEnds :
    (let s := at0 [(R.LINK_STAT_STATE 3, stUP), (R.LINK_TAGS 3, 2 ^ 31)]
     let b := mkBlock tRSP 0 (31 * 2 ^ 42)
     s.alive = true ∧ s.ownRequests 3 = [] ∧ (s.tag 3 31).kind = 0 ∧ s.linkUp 3 = true ∧ rxValid false b = true ∧ blockType b = tRSP ∧
       bitsOf b 54 50 = (31 : Fin 32).val ∧ s.tagBusy 3 31 = true) ∧
    (let s := at0 [(R.LINK_STAT_STATE 3, stUP), (R.LINK_TAGQ 3, 1)]
     let b := mkBlock tRSP 0 0
     s.alive = true ∧ s.ownRequests 3 = [] ∧ (s.tag 3 0).kind = 0 ∧ s.linkUp 3 = true ∧ rxValid false b = true ∧ blockType b = tRSP ∧
       bitsOf b 54 50 = (0 : Fin 32).val ∧ s.tagBusy 3 0 = false ∧ s.tagQuar 3 0 = true) := by decide +kernel

/-! ## Modes and links -/

/-- A state in a major mode. -/
def inMode (m : Nat) (fs : List (Fld × Nat)) : State := at0 ((R.SYS_MODE_STAT_MODE, m) :: fs)
/-- TEST is active. -/
def tested (fs : List (Fld × Nat)) : State := at0 ((R.SYS_MODE_STAT_ST_TEST, 1) :: fs)

theorem meets_ModeCommands : ready State.reset = true ∧ State.reset.majorMode = mWAKE ∧
    State.reset.enabledLegs ≤ 32 ∧
    (let s := inMode mHALT ((List.range 33).map fun n => (R.LEG_CTL_EN n, 1))
     ready s = true ∧ s.majorMode = mHALT ∧ 32 < s.enabledLegs ∧ true ≠ s.flag R.SYS_TICK_CFG_PROFILE) ∧
    (let s := inMode mFORM [(R.SYS_TICK_CFG_PROFILE, 1)]
     ready s = true ∧ ¬ (s.majorMode = mWAKE ∨ s.majorMode = mSTANDBY ∨ s.majorMode = mHALT) ∧
       false ≠ s.flag R.SYS_TICK_CFG_PROFILE) := by decide +kernel
theorem meets_TickNumbers : (let s := ticking mFORM []
    999999999 < 10 ^ 9 ∧ ({ s with time := { s.time with tickStart := (1 * 10 ^ 9 + 999999999) * 4 } } : State).time.tickStart =
      (1 * 10 ^ 9 + 999999999) * 4 ∧ s.alive = true ∧ s.time.run = true) := by decide +kernel
theorem meets_RequestJudgement :
    ((0 : Fin 8).val = mDARK ∧ (3 : Fin 8).val = mFOLLOW ∧ (2 : Fin 8).val = mSTANDBY ∧ (7 : Fin 8).val = mHALT ∧ (4 : Fin 8).val = mFORM) ∧
    (inMode mFOLLOW []).majorMode = (3 : Fin 8).val ∧ (inMode mRIDE []).majorMode = mRIDE ∧ (inMode mISLAND []).majorMode = mISLAND ∧
    (inMode mISLAND [(R.ISL_STAT_ISLANDED, 1)]).islanded = true ∧ (inMode mISLAND []).islanded = false ∧ State.reset.majorMode = mWAKE ∧
    (let s := inMode mHALT []
     s.majorMode = mHALT ∧ mSTANDBY ≤ s.majorMode ∧ s.refusal 3 ≠ 0 ∧ s.haltExit = true ∧ s.refusal 2 = 0) ∧
    (inMode mHALT [(R.TRIP_STAT_ALLOFF, 1)]).haltExit = false ∧
    (let s := inMode mSTANDBY []
     s.majorMode = mSTANDBY ∧ (4 : Fin 8).val ≠ s.majorMode ∧ s.refusal 4 ≠ 0 ∧ s.refusal 7 = 0) := by decide +kernel
theorem meets_LinkControl :
    (let s := State.reset
     ready s = true ∧ s.linkState 7 = stOFF ∧ s.get (R.LINK_CTL_LOOP 7) = 0 ∧ s.flag (R.LINK_CTL_EN 7) = false ∧
       s.loopAllowed 7 4 = false ∧ s.get (R.LINK_CTL_LOOP 7) ≠ 4) ∧
    (let s := at0 [(R.LINK_CTL_EN 7, 1), (R.LINK_STAT_STATE 7, stDOWN)]
     ready s = true ∧ s.flag (R.LINK_CTL_EN 7) = true ∧ s.linkState 7 ≠ stUP ∧ s.linkState 7 ≠ stTEST ∧ (s.port 7).push = [] ∧
       s.linkState 7 = stDOWN) ∧
    (let s := tested []
     ready s = true ∧ s.linkState 7 = stOFF ∧ s.get (R.LINK_CTL_LOOP 7) ≠ 1 ∧ s.loopAllowed 7 1 = true ∧ s.loopAllowed 7 2 = true ∧
       (s.port 7).push = []) ∧
    (let s := tested [(R.LINK_CTL_EN 7, 1), (R.LINK_STAT_STATE 7, stUP)]
     ready s = true ∧ s.linkState 7 = stUP ∧ s.flag (R.LINK_CTL_EN 7) = true ∧ s.get (R.LINK_CTL_LOOP 7) ≠ 3 ∧
       s.loopAllowed 7 3 = true ∧ s.loopAllowed 7 4 = true) ∧
    (let s := tested [(R.LINK_CTL_EN 7, 1)]
     ready s = true ∧ s.linkState 7 = stOFF ∧ s.flag (R.LINK_CTL_EN 7) = true ∧ s.loopAllowed 7 3 = true) ∧
    (let s := tested [(R.LINK_CTL_EN 7, 1), (R.LINK_STAT_STATE 7, stLAT)]
     ready s = true ∧ s.linkState 7 ≠ stUP ∧ s.linkState 7 ≠ stOFF ∧ s.linkState 7 ≠ stTEST ∧ s.loopAllowed 7 4 = true) ∧
    (∀ l ∈ [1, 2, 3, 4],
      let s := tested [(R.LINK_STAT_STATE 7, stTEST), (R.LINK_CTL_LOOP 7, l)]
      ready s = true ∧ s.linkState 7 = stTEST ∧ s.get (R.LINK_CTL_LOOP 7) ≠ 0) := by decide +kernel
theorem meets_LinkControl_tags : (∀ k, (tested []).tagBusy 7 k = false) ∧
    ∀ k, (tested [(R.LINK_CTL_EN 7, 1), (R.LINK_STAT_STATE 7, stUP)]).tagBusy 7 k = false :=
  ⟨noTags (by decide +kernel), noTags (by decide +kernel)⟩
theorem meets_CountersClear : ready State.reset = true := by decide +kernel

/-! ## The engine, test injections, drives -/

theorem meets_EngineMemoryWrites :
    (let s := State.reset
     ready s = true ∧ ¬ (s.flag R.CE_CTL_RUN = true ∧ s.get R.CE_PADDR_ADDR / 8192 = s.get R.CE_PROG_BANK) ∧
       s.flag R.CE_CTL_RUN = false ∧ s.ce.coefQ.length < 32 ∧ s.get R.CE_CSTAT_QCOUNT = s.ce.coefQ.length ∧ s.switching = false) ∧
    (∀ a ∈ [0x1BF, 0x1C0, 0x1FF, 0x200, 0x2FF, 0x300, 0x37F, 0x380],
      (at0 [(R.CE_DADDR_ADDR, a)]).get R.CE_DADDR_ADDR = a) ∧
    (let s : State := { at0 [(R.CE_CTL_RUN, 1), (R.CE_PADDR_ADDR, 8191)] with ce := { running := true } }
     ready s = true ∧ s.flag R.CE_CTL_RUN = true ∧ s.get R.CE_PADDR_ADDR / 8192 = s.get R.CE_PROG_BANK ∧ (1#32 : Word) ≠ 0 ∧
       s.switching = false ∧ s.ce.running = true) ∧
    (let s := inMode mFORM [(R.CE_CTL_RUN, 1)]
     ready s = true ∧ s.switching = true ∧ s.flag R.CE_CTL_RUN = true) := by decide +kernel
theorem meets_TestInjections :
    (let s := tested [(R.ADC_ROT_STAT_PHASE, rWAIT), (R.ADC_ROT_CTL_EN, 1), (R.ADC_CTL_EN, 1), (R.MD_STAT_STATE 2, dRUN)]
     ready s = true ∧ s.testActive = true ∧ s.rotPhase = rWAIT ∧ s.rotEnabled = true ∧ s.drvState 2 = dRUN ∧ fieldOf 0x40#32 6 5 ≤ 2) ∧
    (let s := State.reset
     ready s = true ∧ s.testActive = false ∧ (1 : Fin 32).val ≠ 0 ∧ fieldOf 1#32 0 0 ≠ s.get R.METER_TEST_INJ) := by decide +kernel
/-- Drive 2 satisfies R351: its six timers are enabled for the drive, it measures its voltages, and its slots share its trigger. -/
def readyDrive (fs : List (Fld × Nat)) : State :=
  at0 (fs ++ [(R.MD_CFG_VMEAS 2, 1), (R.MD_SLOTS_IU 2, 128), (R.MD_SLOTS_IV 2, 128), (R.MD_SLOTS_VU 2, 128), (R.MD_SLOTS_VV 2, 128),
    (R.MD_SLOTS2_VW 2, 191), (R.ADC_SLOT_TRIGEN 128, 1), (R.ADC_SLOT_TRIGEN 191, 1)] ++
    ((List.range 6).flatMap fun i => [(R.AUXT_CTL_SRC (12 + i), 1), (R.AUXT_CTL_EN (12 + i), 1)]))
theorem meets_DriveCommands :
    (let s := at0 [(R.MD_STAT_STATE 2, dIDLE), (R.ARC_STAT_HOMED 2, 1)]
     ready s = true ∧ s.drvState 2 = dIDLE ∧ s.arcReady 2 = true ∧ s.drvState 2 ≠ dOFF ∧ s.drvState 2 ≠ dSHORT ∧
       s.drvState 2 ≠ dFAULT ∧ s.drvState 2 ≠ dRUN ∧ s.busFaulty 2 = false) ∧
    (let s := at0 [(R.MD_STAT_STATE 2, dCOAST), (R.ARC_STAT_SENSOR 2, 1), (R.ARC_STAT_HOMED 2, 1)]
     ready s = true ∧ s.drvState 2 = dCOAST ∧ s.arcReady 2 = false) ∧
    (let s := at0 [(R.MD_STAT_STATE 2, dRUN)]
     ready s = true ∧ ¬ (s.drvState 2 = dIDLE ∨ s.drvState 2 = dCOAST) ∧ s.drvState 2 = dRUN ∧ s.busFaulty 2 = false) ∧
    (let s := at0 [(R.MD_STAT_STATE 2, dRUN), (R.MD_CFG_BUS 2, 1), (R.BRK_STAT_OPEN 1, 1)]
     ready s = true ∧ s.busFaulty 2 = true ∧ s.drvState 2 ≠ dOFF ∧ s.drvState 2 ≠ dSHORT ∧ s.drvState 2 ≠ dFAULT) ∧
    (let s := at0 [(R.MD_STAT_STATE 2, dFAULT), (R.BRK_STAT_STUCK 0, 1)]
     ready s = true ∧ s.drvState 2 = dFAULT ∧ s.busFaulty 2 = true) ∧
    (ready State.reset = true ∧ State.reset.drvState 2 = dOFF) := by decide +kernel
theorem meets_DriveCommands_enable :
    (let s := readyDrive []
     ready s = true ∧ s.drvState 2 = dOFF ∧ s.flag (R.MD_CFG_EN 2) = false ∧ s.driveReady (s.put (R.MD_CFG_EN 2) 1) 2 = true ∧
       s.drvStopped 2 = false ∧ s.drvOver 2 = false) ∧
    (let s := readyDrive [(R.SDRV_STAT_DSTOP 2, 1)]
     ready s = true ∧ s.driveReady (s.put (R.MD_CFG_EN 2) 1) 2 = true ∧ s.drvStopped 2 = true) ∧
    (let s := readyDrive [(R.MD_OCMP_EN 2, 1), (R.MD_OCMP_W 2, 47), (R.TW_STAT_TRIPCOND 47, 1)]
     ready s = true ∧ s.driveReady (s.put (R.MD_CFG_EN 2) 1) 2 = true ∧ s.drvStopped 2 = false ∧ s.drvOver 2 = true) ∧
    (let s := State.reset
     ready s = true ∧ s.flag (R.MD_CFG_EN 2) = false ∧ s.driveReady (s.put (R.MD_CFG_EN 2) 1) 2 = false) ∧
    (ready (readyDrive [(R.MD_CFG_EN 2, 1)]) = true ∧ (readyDrive [(R.MD_CFG_EN 2, 1)]).flag (R.MD_CFG_EN 2) = true) := by decide +kernel
theorem meets_DriveCommands_speed :
    (let s := State.reset
     let v : Word := 0x80000000#32
     ready s = true ∧ ¬ (0 < v.toInt ∧ s.forbids 2 true = true) ∧ ¬ (v.toInt < 0 ∧ s.forbids 2 false = true)) ∧
    (let s : State := { State.reset with safe := { par := [((R.SDRV_CFG_FORBID_NEG 2).addr, BitVec.ofNat 32 (2 ^ (R.SDRV_CFG_FORBID_NEG 2).lo))] } }
     let v : Word := 0x80000000#32
     ready s = true ∧ (v.toInt < 0 ∧ s.forbids 2 false = true) ∧ v.toInt ≠ s.getI (R.MD_SPD_TGT 2)) := by decide +kernel
/-- Drive 2 is in FAULT with a cause. -/
def faulted (c : Nat) (fs : List (Fld × Nat)) : State :=
  at0 ([(R.MD_STAT_STATE 2, dFAULT), (R.MD_STAT_FAULT 2, 1), (R.MD_STAT_FCAUSE 2, c)] ++ fs)
theorem meets_DriveCommands_clear :
    (∀ c ∈ [1, 2, 3, 4, 7],
      let s := faulted c [(R.ARC_CODE_CODE 2, 1)]
      ready s = true ∧ s.flag (R.MD_STAT_FAULT 2) = true ∧ s.drvStopped 2 = false ∧ s.drvOver 2 = false ∧ s.drvConf 2 = false ∧
        s.arcErrHolds 2 = false) ∧
    (let s := faulted 4 [(R.SDRV_STAT_DSTOP 2, 1)]
     ready s = true ∧ s.flag (R.MD_STAT_FAULT 2) = true ∧ s.drvStopped 2 = true) ∧
    (let s := faulted 1 [(R.MD_OCMP_EN 2, 1), (R.MD_OCMP_W 2, 47), (R.TW_STAT_TRIPCOND 47, 1)]
     ready s = true ∧ s.get (R.MD_STAT_FCAUSE 2) = 1 ∧ s.drvOver 2 = true) ∧
    (let s := faulted 4 [(R.MD_OCMP_EN 2, 1), (R.MD_OCMP_W 2, 47), (R.TW_STAT_TRIPCOND 47, 1)]
     ready s = true ∧ s.drvStopped 2 = false ∧ s.get (R.MD_STAT_FCAUSE 2) = 4 ∧ s.drvState 2 = dFAULT ∧ s.drvOver 2 = true) ∧
    (let s := at0 [(R.MD_STAT_STATE 2, dSHORT), (R.MD_STAT_FAULT 2, 1), (R.MD_STAT_FCAUSE 2, 5)]
     ready s = true ∧ s.flag (R.MD_STAT_FAULT 2) = true ∧ s.drvState 2 ≠ dFAULT ∧ (s.drvSt 2).pending = 0) ∧
    (let s := faulted 2 [(R.AUXT_STAT_CONF 17, 1)]
     ready s = true ∧ s.get (R.MD_STAT_FCAUSE 2) = 2 ∧ s.drvConf 2 = true) ∧
    (let s := faulted 3 [(R.ARC_CODE_CODE 2, 7)]
     ready s = true ∧ s.get (R.MD_STAT_FCAUSE 2) = 3 ∧ s.arcErrHolds 2 = true) := by decide +kernel

/-! ## Time, the meter, safety, protection -/

/-- The seal is broken. -/
def unsealed (s : State) : State := { s with sys := { s.sys with sealed := false } }

theorem meets_TimeAndMeterCommands :
    (ready State.reset = true ∧ (1 : Fin 4).val ≤ 2 ∧ (1 : Fin 4).val ≠ State.reset.get R.TIME_CTL_SRC ∧ State.reset.get R.TIME_CTL_SRC = 0 ∧
      State.reset.time.stepUp = none) ∧
    (let s : State := { tested [] with time := { up := 2 * secQ, stepUp := some 0 } }
     ready s = true ∧ s.get R.TIME_CTL_SRC = 0 ∧ s.time.stepUp = some 0 ∧ 0 + 2 * secQ ≤ s.time.up ∧ s.testActive = true) ∧
    (let s := at0 [(R.TIME_STAT_STATE, gLOCKED)]
     ready s = true ∧ s.get R.TIME_STAT_STATE = gLOCKED) ∧
    (let s := at0 [(R.TIME_STAT_STATE, gACQUIRE)]
     ready s = true ∧ s.get R.TIME_STAT_STATE = gACQUIRE) ∧
    (let s := at0 [(R.TIME_STAT_STATE, gHOLDOVER)]
     ready s = true ∧ s.get R.TIME_STAT_STATE = gHOLDOVER) ∧
    (let s : State := { at0 [(R.METER_CTL_HOLD, 1)] with meter := { held := [(R.ACC_LO 0 0, 5), (R.ACC_WST_WRAP 8 5, 255)] } }
     ready s = true ∧ s.flag R.METER_CTL_HOLD = true ∧ (∀ q ∈ s.meter.held, Fld.ok q.1 ∧ Fld.apart q.1 R.METER_CTL_HOLD) ∧
       ∀ q ∈ s.meter.held, ∀ r ∈ s.meter.held, r = q ∨ Fld.apart r.1 q.1) ∧ State.reset.flag R.METER_CTL_HOLD = false ∧
    (let s := unsealed (opened (pageBase .macc 0) State.reset)
     ready s = true ∧ s.keyOpen (pageBase .macc 0) = true ∧ s.sys.sealed = false ∧ (0xFF5A#32 : Word).toNat % 256 = 0x5A) := by decide +kernel
/-- What is submitted of the time of day, per case of R339 to R341: beyond STEP_TH and within it, while ARMED and not, in a mode where legs switch and one
where none does. -/
theorem meets_TimeAndMeterCommands_servo :
    let big : Int := (BitVec.ofNat 64 (0 + (1#32 : Word).toNat * 2 ^ 32)).toInt
    let small : Int := (BitVec.ofNat 64 (4000 + (0#32 : Word).toNat * 2 ^ 32)).toInt
    (let s : State := { at0 [(R.TIME_STAT_ARMED, 1)] with time := { measLo := 0 } }
     ready s = true ∧ s.get R.TIME_CTL_SRC = 0 ∧ s.time.stepUp = none ∧ s.flag R.TIME_STAT_ARMED = true ∧
       s.get R.TIME_LOCK_STEP_TH * 4000 < big.natAbs ∧ s.switching = false ∧ s.get R.TIME_STAT_STATE = gFREE) ∧
    (let s : State := { at0 [(R.TIME_STAT_ARMED, 1), (R.TIME_STAT_STATE, gLOCKED)] with time := { measLo := 4000, step := some 5, nOut := 3 } }
     ready s = true ∧ s.get R.TIME_CTL_SRC = 0 ∧ s.time.stepUp = none ∧ s.flag R.TIME_STAT_ARMED = true ∧
       small.natAbs ≤ s.get R.TIME_LOCK_STEP_TH * 4000 ∧ s.time.step.isSome = true ∧ s.get R.TIME_STAT_STATE = gLOCKED) ∧
    (let s := inMode mFORM [(R.TIME_STAT_ARMED, 1), (R.TIME_STAT_STATE, gHOLDOVER)]
     ready s = true ∧ s.switching = true ∧ s.get R.TIME_CTL_SRC = 0 ∧ s.get R.TIME_STAT_STATE = gHOLDOVER) ∧
    (at0 [(R.TIME_STAT_ARMED, 0)]).flag R.TIME_STAT_ARMED = false ∧
    (let s := at0 [(R.TIME_STAT_STATE, gLOCKED), (R.TIME_FREQ, 77)]
     s.get R.TIME_STAT_STATE = gLOCKED ∧ -2 ^ 31 < s.getI R.TIME_FREQ) := by decide +kernel
theorem meets_SafetyCommands :
    (let s := opened (pageBase .safe 0) State.reset
     ready s = true ∧ s.keyOpen (pageBase .safe 0) = true ∧ s.releaseWhy ≠ 0 ∧ s.sealedNow = true ∧ true.toNat ≠ s.get R.SAFE_MRAM_WEN) ∧
    (let s := opened (pageBase .safe 0) (inMode mHALT [(R.SAFE_STAT_PSAFE, 1)])
     ready s = true ∧ s.keyOpen (pageBase .safe 0) = true ∧ s.releaseWhy = 0) ∧
    (let s := State.reset
     ready s = true ∧ s.keyOpen (pageBase .safe 0) = false ∧ s.keyOpen (pageBase .sfn 0) = false ∧ (4#32 : Word).toNat % 8 ≠ 0 ∧
       (3#32 : Word).toNat % 16 ≠ s.get R.SAFE_OUT_REQ_REQ ∧ true.toNat ≠ s.get R.SAFE_MRAM_WEN) ∧
    (let s : State := { opened (pageBase .sfn 0) (at0 [(R.SDRV_STAT_DSTOP 1, 1), (R.SDRV_STAT_DSTOP 2, 1)]) with
        safe := { demA := 2 ^ 24 } }
     ready s = true ∧ s.keyOpen (pageBase .sfn 0) = true ∧ (6#32 : Word).toNat % 8 ≠ 0 ∧ (6#32 : Word).toNat.testBit (1 : Fin 3) = true ∧
       s.driveWhy 1 ≠ 0 ∧ (6#32 : Word).toNat.testBit (2 : Fin 3) = true ∧ s.driveWhy 2 = 0 ∧ (6#32 : Word).toNat.testBit (0 : Fin 3) = false) ∧
    (ready (at0 [(R.SCONN_STAT_STATE 1, 3)]) = true ∧ (at0 [(R.SCONN_STAT_STATE 1, 3)]).get (R.SCONN_STAT_STATE 1) ≠ 0) ∧
    (let s := unsealed (opened (pageBase .safe 0) State.reset)
     ready s = true ∧ s.keyOpen (pageBase .safe 0) = true ∧ s.sys.sealed = false ∧ true.toNat ≠ s.get R.SAFE_MRAM_WEN) ∧
    (let s := opened (pageBase .safe 0) { State.reset with sys := { State.reset.sys with loading := true } }
     ready s = true ∧ s.keyOpen (pageBase .safe 0) = true ∧ s.sealedNow = false ∧ s.sys.sealed = true ∧ true.toNat ≠ s.get R.SAFE_MRAM_WEN) :=
  by decide +kernel
theorem meets_ProtectionAndGuard :
    (let s := at0 [(R.TCH_STAT_LATCH 7, 1), (R.TCH_CFG_POL 7, 0)]
     ready s = true ∧ s.chLatched 7 = true ∧ s.flag (R.TCH_STAT_ACTIVE 7) = false ∧ s.chPin 7 = false ∧ s.chCmp 7 = false) ∧
    (let s := at0 [(R.TCH_STAT_LATCH 7, 1), (R.TCH_STAT_ACTIVE 7, 1)]
     ready s = true ∧ s.chLatched 7 = true ∧ s.flag (R.TCH_STAT_ACTIVE 7) = true) ∧
    (let s := at0 [(R.TRIP_STAT_ALLOFF, 1)]
     ready s = true ∧ s.allOff = true ∧ s.anyLatch = false) ∧
    (let s := at0 [(R.TRIP_STAT_ALLOFF, 1), ((R.PROT_LATCH 7 7).bit 7, 1)]
     ready s = true ∧ s.allOff = true ∧ s.anyLatch = true) ∧
    (let s := at0 [((R.PROT_LATCH 7 7).bit 7, 1)]
     ready s = true ∧ s.legLatched (8 * (7 : Fin 8) + (7 : Fin 8)) = true ∧ s.get (R.PROT_LATCH 7 7) % 64 = 0) ∧
    (let s := tested []
     ready s = true ∧ s.testActive = true ∧ s.flag ((R.PROT_LATCH 7 7).bit 7) = false ∧
       s.legLatched (8 * (7 : Fin 8) + (7 : Fin 8)) = false) ∧
    (ready State.reset = true ∧ State.reset.testActive = false) ∧
    (let s := at0 [(R.TCH_CFG_EN 7, 1), (R.TCH_CFG_POL 7, 0)]
     ready s = true ∧ s.flag (R.TCH_CFG_EN 7) = true ∧ true ≠ s.flag (R.TCH_CFG_POL 7)) := by decide +kernel
theorem meets_ProtectionAndGuard_guard :
    (let s : State := { at0 [(R.TRIP_STAT_ALLOFF, 1)] with prot := { genAt := some 9 } }
     s.alive = true ∧ s.prot.genAt = some 9 ∧ s.allOff = true) ∧
    (∀ w ∈ [1, 2],
      let s := at0 [(R.TRIP_PG_CFG_EN, 1), (R.TRIP_PG_CFG_CMP, 47), (R.TW_STAT_WIN 47, w), (R.MD_STAT_STATE 2, dRUN)]
      s.alive = true ∧ s.flag R.TRIP_PG_CFG_EN = true ∧ s.pgWin ≠ 0 ∧
        s.flag (if s.pgWin = 1 then R.TRIP_PG_STAT_LOW else R.TRIP_PG_STAT_HIGH) = false) ∧
    (∀ w ∈ [1, 2],
      let s := at0 [(R.TRIP_PG_CFG_EN, 1), (R.TRIP_PG_CFG_CMP, 47), (R.TW_STAT_WIN 47, w), (R.TRIP_PG_STAT_LOW, 1), (R.TRIP_PG_STAT_HIGH, 1)]
      s.pgWin ≠ 0 ∧ s.flag (if s.pgWin = 1 then R.TRIP_PG_STAT_LOW else R.TRIP_PG_STAT_HIGH) = true) ∧
    (let s := at0 [(R.TRIP_PG_CFG_EN, 1)]
     s.alive = true ∧ s.flag R.TRIP_PG_CFG_EN = true ∧ s.pgWin = 0 ∧ s.pgLatched = false) := by decide +kernel
theorem meets_SystemCommands :
    (let s := State.reset
     ready s = true ∧ s.get R.SYS_HC_REL_REL &&& fieldOf 0xE#32 3 1 = s.get R.SYS_HC_REL_REL ∧ (0x5AA4#32 : Word) ≠ 0x5AA5 ∧
       (0x5AA4#32 : Word) ≠ 0 ∧ s.setupAllowed = true ∧ s.tlock = false) ∧
    (let s := at0 [(R.CLKOUT_DIV_SRC 3, 1)]
     ready s = true ∧ s.outAllowed 3 = false ∧ false ≠ s.flag (R.CLKOUT_CTL_SETUP 3)) ∧
    (let s := at0 [(R.SYS_HC_REL_REL, 3)]
     ready s = true ∧ s.get R.SYS_HC_REL_REL &&& fieldOf 0xC#32 3 1 ≠ s.get R.SYS_HC_REL_REL) ∧
    (let s := at0 [(R.CLKOUT_DIV_DIV 3, 8), (R.CLKOUT_CTL_SETUP 3, 0)]
     ready s = true ∧ (3 : Fin 4).val ≠ s.get (R.CLKOUT_CFG_FMT 3) ∧ s.flag (R.CLKOUT_CTL_SETUP 3) = false ∧
       0 < s.get (R.CLKOUT_DIV_DIV 3) ∧ (0 : Fin 4).val = s.get (R.CLKOUT_CFG_FMT 3)) ∧
    (ready (at0 [(R.CLKOUT_DIV_DIV 3, 8)]) = true ∧ (at0 [(R.CLKOUT_DIV_DIV 3, 8)]).outAllowed 3 = true) ∧
    (let s := inMode mFORM [(R.TIME_STAT_TLOCK, 1), (R.CLKOUT_CTL_SETUP 3, 0)]
     ready s = true ∧ s.setupAllowed = false ∧ true ≠ s.flag (R.CLKOUT_CTL_SETUP 3) ∧ s.tlock = true) := by decide +kernel

/-! ## Polygon, ticks, triggers, link events -/

theorem meets_PolygonAndBlockCommands :
    (let s := State.reset
     ready s = true ∧ s.held (s.groupOf .leg 63) = false ∧ s.flag (R.LEG_CTL_EN 63) = false ∧
       (∀ q ∈ s.poly.staged, s.groupOfAddr q.1 ≠ (15 : Fin 16))) ∧
    (let s := at0 [(R.LEG_PER_PER_TICKS 63, 2), (R.LEG_DEAD_DEAD 63, 100), (R.LEG_MINPW_MINPW 63, 100)]
     ready s = true ∧ s.held (s.groupOf .leg 63) = false ∧ (s.put (R.LEG_CTL_EN 63) 1).legCheck 63 s.tickU = 0 ∧ s.legRoom = true) ∧
    (let s := at0 [(R.LEG_PER_PER_TICKS 63, 1), (R.LEG_CTL_UPD 63, 1)]
     ready s = true ∧ s.held (s.groupOf .leg 63) = false ∧ s.flag (R.LEG_CTL_EN 63) = false ∧
       ¬ ((s.put (R.LEG_CTL_EN 63) 1).legCheck 63 s.tickU = 0 ∧ s.legRoom = true)) ∧
    (let s := at0 [(R.LEG_CTL_GROUP 63, 15), (R.COM_HOLD_HOLD.bit 15, 1)]
     ready s = true ∧ s.held (s.groupOf .leg 63) = true ∧ (0x3FFFFFF#32 : Word).toNat < 2 ^ 26 ∧
       (0x3FFFFFF#32 : Word).toNat ≠ s.get (R.LEG_DUTY_DUTY 63)) := by decide +kernel
/-- Two staged values of group 15, one of a leg timer and one of an auxiliary timer, and one of group 0. -/
def stagedThree (fs : List (Fld × Nat)) : State :=
  { at0 ([(R.LEG_CTL_GROUP 63, 15), (R.AUXT_CTL_GROUP 19, 15)] ++ fs) with
    poly := { staged := [((R.LEG_DUTY 63).addr, 25, 0, 9), (0x40153000 + 0x48, 25, 0, 2 ^ 26 - 1), ((R.LEG_DUTY 0).addr, 25, 0, 7)] } }
theorem meets_PolygonAndBlockCommands_commit :
    (let s := stagedThree []
     ready s = true ∧ (∀ q ∈ s.poly.staged, 0x40100000 ≤ q.1 ∧ q.1 < 0x40154000 ∧ q.2.2.1 ≤ q.2.1 ∧ q.2.1 ≤ 31) ∧
       (s.poly.staged.filter fun q => s.groupOfAddr q.1 == 15).length = 2 ∧
       (∀ q ∈ s.poly.staged, ∀ r ∈ s.poly.staged, r = q ∨ Fld.apart ⟨r.1, r.2.1, r.2.2.1⟩ ⟨q.1, q.2.1, q.2.2.1⟩) ∧
       (∀ q ∈ s.poly.staged, s.groupOfAddr q.1 ≠ (7 : Fin 16)) ∧ s.flag (R.COM_CSTAT_LATE.bit 15) = false ∧
       ¬ (∀ q ∈ s.poly.staged, s.groupOfAddr q.1 = (15 : Fin 16) → 0x40140000 ≤ q.1)) ∧
    (let s : State := { stagedThree [(R.COM_CSTAT_LATE.bit 15, 1)] with poly := { staged := [(0x40153000 + 0x48, 25, 0, 1)] } }
     ready s = true ∧ s.flag (R.COM_CSTAT_LATE.bit 15) = true ∧ (∀ q ∈ s.poly.staged, s.groupOfAddr q.1 = (15 : Fin 16)) ∧
       ∀ q ∈ s.poly.staged, s.groupOfAddr q.1 = (15 : Fin 16) → 0x40140000 ≤ q.1) := by decide +kernel
theorem meets_PolygonAndBlockCommands_blocks :
    ((0x80000000#32 : Word).toNat.testBit (31 : Fin 32) = true ∧ State.reset.slState 31 ≠ cSCAN ∧
      (at0 [(R.SLCH_STAT_STATE 31, cSCAN)]).slState 31 = cSCAN) ∧
    (let s := at0 [(R.SLCH_STAT_FAULT 31, 1), (R.SLCH_STAT_FCAUSE 31, 5)]
     ready s = true ∧ s.flag (R.SLCH_STAT_FAULT 31) = true ∧ s.slCond 31 (s.get (R.SLCH_STAT_FCAUSE 31)) = false) ∧
    (let s : State := { at0 [(R.SLCH_STAT_FAULT 31, 1), (R.SLCH_STAT_FCAUSE 31, 5)] with slope := { ch := [(31, { inject := true })] } }
     ready s = true ∧ s.flag (R.SLCH_STAT_FAULT 31) = true ∧ s.slCond 31 (s.get (R.SLCH_STAT_FCAUSE 31)) = true) ∧
    (let s := tested []
     ready s = true ∧ s.testActive = true ∧ s.islanded = false) ∧ State.reset.testActive = false ∧
    (let s := at0 [(R.CE_SUP_FLT.bit 31, 1)]
     ready s = true ∧ (s.get R.CE_SUP_FLT).testBit (31 : Fin 32) = true) ∧
    (0x8000#32 : Word).toNat.testBit (15 : Fin 16) = true ∧
    (let s := at0 [(R.BRK_STAT_OPEN 1, 1), (R.BRK_STAT_STUCK 1, 1)]
     ready s = true ∧ s.flag (R.BRK_STAT_OPEN 1) = true ∧ s.flag (R.BRK_STAT_STUCK 1) = true ∧ (s.brkSt 1).present = false) := by
  decide +kernel
/-- The boot is done, the converters are calibrated, the clocks locked and the outputs off: the self-test passes. -/
def selfTested (fs : List (Fld × Nat)) : State :=
  let s := ticking mWAKE ([(R.ADC_STAT_CALDONE, 1), (R.SAFE_STAT_STARTOK, 1), (R.CLK_PLL_LOCK, 15)] ++ fs)
  { s with sys := { s.sys with bootDone := true } }
theorem meets_TickBoundaries :
    (let s := ticking mWAKE []
     s.alive = true ∧ s.time.run = true ∧ s.majorMode = mWAKE ∧ s.sys.bootsel ≠ 3 ∧ s.time.step = none ∧ s.selfTest ≠ some true) ∧
    (State.reset.alive = true ∧ State.reset.time.run = false ∧ State.reset.time.step = none) ∧
    (let s := selfTested []
     s.alive = true ∧ s.time.run = true ∧ s.majorMode = mWAKE ∧ s.sys.bootsel ≠ 3 ∧ s.selfTest = some true ∧ s.mode.dueHalt = [] ∧
       s.flag R.SAFE_CTL_PWRUP = false) ∧
    (let s := selfTested [(R.SAFE_CTL_PWRUP, 1)]
     s.alive = true ∧ s.time.run = true ∧ s.majorMode = mWAKE ∧ s.sys.bootsel ≠ 3 ∧ s.selfTest = some true ∧ s.psafe = false ∧
       s.flag R.SAFE_CTL_PWRUP = true) ∧
    (at0 [(R.TRIG_LINE_SRC 15, 1)]).get (R.TRIG_LINE_SRC 15) = 1 := by decide +kernel
/-- What a step answers, judged. -/
def answers (i : Instr) (s : State) (q : State → Bool) : Bool :=
  match exec i s with
  | .next t => q t
  | _ => false
/-- The clauses of a tick boundary: a pending step held and applied, queued coefficients, a bank swap, a port that is UP, a profile. -/
theorem meets_TickBoundaries_boundary :
    (let s : State := { ticking mFORM [(R.CE_PROG_PEND, 1), (R.LINK_STAT_STATE 7, stUP), (R.LINK_STAT_UP 7, 1), (R.TRIG_LINE_SRC 15, 1)] with
        ce := { coefQ := [(8191, 1)], held := [(0x1BF, 3)] } }
     let b := { s with time := { s.time with step := some (-40) } }
     s.flag R.CE_PROG_PEND = true ∧ s.linkUp 7 = true ∧ (∀ q ∈ s.ce.held, q.1 < 0x1C0) ∧ s.ce.coefQ ≠ [] ∧
       answers .tickStart b (fun t => t.switching && t.time.step == some (-40) && t.get (R.TRIG_LINE_SRC 15) == 1) = true) ∧
    (let s := ticking mSTANDBY [(R.SYS_TICK_CFG_PROFILE, 1), (R.LEG_CTL_EN 63, 1), (R.ADC_SLOT_EN 127, 1), (R.LEG_PER_PER_TICKS 63, 1)]
     let b := { s with time := { s.time with step := some 16000 } }
     b.fine = false ∧ b.flag (R.LEG_CTL_EN 63) = true ∧ b.legCheck 63 20000 ≠ 0 ∧ b.flag (R.ADC_SLOT_EN 127) = true ∧ b.time.step = some 16000 ∧
       answers .tickStart b (fun t => !t.switching && t.fine && decide (t.time.tickStart % 40000 = 0) && t.time.step.isNone) = true) := by
  decide +kernel
theorem meets_TickPhases :
    (let s := ticking mSTANDBY []
     s.alive = true ∧ s.time.run = true ∧ s.ce.frozen = false ∧ s.poly.latched = false ∧ s.switching = false) ∧
    (let s : State := { ticking mSTANDBY [] with ce := { frozen := true } }
     s.ce.frozen = true ∧ s.ce.computing = false) ∧
    (let s : State := { ticking mFORM [] with ce := { ended := true } }
     s.poly.latched = false ∧ s.switching = true ∧ s.vComplete = true ∧ s.poly.excused = false) ∧
    (let s : State := { ticking mFORM [] with poly := { built := true } }
     s.poly.built = true ∧ s.poly.released = false ∧ s.poly.guarded = false ∧ s.poly.excused = false) ∧
    (let s : State := { ticking mSTANDBY [] with poly := { excused := true } }
     s.poly.guarded = false ∧ s.unmet = none ∧ s.ce.running = false) ∧
    (let s : State := { ticking mSTANDBY [] with ce := { faulted := true } }
     s.poly.guarded = false ∧ s.unmet = some 11 ∧ s.switching = false ∧ s.ce.running = false) ∧
    (let s : State := { ticking mSTANDBY [] with mode := { autoUp := some 0 }, ce := { running := true } }
     s.alive = true ∧ s.mode.autoUp = some 0 ∧ s.ce.running = true) := by decide +kernel
/-- What a phase finds done already, and the engine's own clauses: supervisor channels with and without a fresh prediction, within the band and
beyond it, and a program that starts or faults at its entry. -/
theorem meets_TickPhases_engine :
    (let s : State := { ticking mSTANDBY [(R.CE_SUP_CTL_EN, 1), (R.SUPCH_CFG_EN 31, 1), (R.SUPCH_CFG_MEAS 31, 0x100), (R.SUPCH_CFG_EN 0, 1),
         (R.SUPCH_BAND 31, 0), (R.SUPCH_CFG_EN 30, 1), (R.SUPCH_CFG_MEAS 30, 0x101)] with
        ce := { predLast := [31, 30], pred := [(30, packInt 0), (31, packInt 5)] } }
     s.ce.frozen = false ∧ s.flag R.CE_SUP_CTL_EN = true ∧ s.flag (R.SUPCH_CFG_EN 31) = true ∧ s.supJudged (31 : Fin 32) = true ∧
       s.flag (R.SUPCH_CFG_EN 0) = true ∧ s.supJudged (0 : Fin 32) = false ∧
       answers .inputFreeze s (fun t => Dy.lt ⟨s.get (R.SUPCH_BAND 31), -16⟩ (t.supResid 31) && !Dy.lt ⟨s.get (R.SUPCH_BAND 30), -16⟩ (t.supResid 30)) =
         true) ∧
    (let s : State := { ticking mSTANDBY [(R.CE_CTL_RUN, 1)] with ce := { frozen := true } }
     let u : State := { s with ce := { frozen := true, injFault := true } }
     s.flag R.CE_CTL_RUN = true ∧ s.ce.faulted = false ∧ s.ce.err2 = [] ∧ s.supHolds = false ∧ s.ce.injFault = false ∧
       u.supHolds = false ∧ u.ce.injFault = true) ∧
    (let s := at0 [(R.CE_SUP_FLT.bit 31, 1), (R.SUPCH_CFG_REACT 31, 2)]
     s.supHolds = true) ∧
    (({ State.reset with ce := { computing := true } } : State).ce.computing = true ∧
      ({ State.reset with poly := { latched := true, guarded := true } } : State).poly.latched = true ∧
      ({ State.reset with poly := { latched := true, guarded := true } } : State).poly.guarded = true) := by decide +kernel
theorem lq_zero : lq 0 = 0 := by
  have h : ∀ k : Fin 48, ofFmt k (fmtS 48 k 0) = 0 := by decide +kernel
  exact h ⟨Config.locusFracBits % 48, Nat.mod_lt _ (by decide)⟩
/-- Without voltage on its inputs V+ of an observer at rest stays 0. -/
theorem vpos_zero (s : State) (hv : ∀ f ∈ [R.LOCUS_SRC_VA, R.LOCUS_SRC_VB, R.LOCUS_SRC_VC], s.ainCode (s.get f) = 0)
    (hl : s.loc = {}) : (s.observe s.locIn).loc.vpos = 0 := by
  simp only [List.mem_cons, List.not_mem_nil, or_false, forall_eq_or_imp, forall_eq] at hv
  have ha : s.locIn.al = 0 ∧ s.locIn.be = 0 := by
    simp [State.locIn, hv, clarke, lq_zero, hl]
  have hz : ∀ h K : Rat, sogi h K 0 0 0 0 = (0, 0) := fun h K => by simp [sogi, lq_zero]
  let a := sogi (piR * s.loc.f * s.tickS) (ofFmt 6 (s.get R.LOCUS_OBS_K)) s.loc.va1 s.loc.va2 s.loc.ua s.locIn.al
  let b := sogi (piR * s.loc.f * s.tickS) (ofFmt 6 (s.get R.LOCUS_OBS_K)) s.loc.vb1 s.loc.vb2 s.loc.ub s.locIn.be
  have hab : a = (0, 0) ∧ b = (0, 0) := by
    simp only [a, b, ha, hl]
    exact ⟨hz _ _, hz _ _⟩
  have h : (s.observe s.locIn).loc.vpos =
      lq (sqrtR (lq ((a.1 - b.2) / 2) * lq ((a.1 - b.2) / 2) + lq ((a.2 + b.1) / 2) * lq ((a.2 + b.1) / 2))) := rfl
  rw [h, hab.1, hab.2]
  have hs : sqrtR 0 = 0 := by decide +kernel
  simp [lq_zero, hs]
/-- Locus in LOCK with no voltage on any ball. -/
def locked : State :=
  { ticking mFORM [(R.LOCUS_CTL_EN, 1), (R.LOCUS_STAT_STATE, lLOCK), (R.LOCUS_LOCK_VMIN, 1)] with ce := { frozen := true } }
/-- Lock is lost there, whatever Locus's number format; whether it is kept elsewhere is for that format to say (R171). -/
theorem meets_TickPhases_lockLost : locked.inLock = true ∧ locked.runsLocus = true ∧
    ((locked.observe locked.locIn).jumped || (locked.observe locked.locIn).lowV || (locked.observe locked.locIn).atClamp) = true := by
  refine ⟨by decide +kernel, by decide +kernel, ?_⟩
  have hp : (locked.observe locked.locIn).loc.vpos = 0 := vpos_zero locked (by decide +kernel) rfl
  have hq : (0 : Rat) < ofFmt 8 (locked.get R.LOCUS_LOCK_VMIN) := by decide +kernel
  have hr : (locked.observe locked.locIn).lowV = true := decide_eq_true (by rw [hp]; exact hq)
  rw [hr, Bool.or_true, Bool.true_or]
/-- Locus in each state, with lock and without, and in a mode that follows the table. -/
theorem meets_TickPhases_locus :
    (∀ st ∈ [lOFF, lSEEK, lHOLD],
      let s : State := { ticking mFOLLOW [(R.LOCUS_CTL_EN, 1), (R.LOCUS_STAT_STATE, st)] with ce := { frozen := true } }
      s.runsLocus = true ∧ s.flag R.LOCUS_CTL_EN = true ∧ s.majorMode = mFOLLOW ∧ s.locState = st) ∧
    (at0 [(R.LOCUS_CTL_EN, 0)]).flag R.LOCUS_CTL_EN = false := by decide +kernel
/-- The set: built and released to a port that is UP with its limits confirmed; what is late already; an overrun where legs switch. -/
theorem meets_TickPhases_set :
    (let s : State := { ticking mFORM [(R.LINK_STAT_STATE 7, stUP), (R.PROT_SUM_PUSHED 7, 0xFF)] with
        poly := { built := true, set := [(63, { resume := true, edges := [{ t := 100, high := true, on := true }] })] } }
     (∀ q ∈ s.poly.set, q.2.resume = true → s.legPushed q.1 = true) ∧ s.linkUp 7 = true ∧ s.portBlocks 7 ≠ [] ∧
       ∀ n : Fin 64, (s.leg n).force = (s.leg n).src.forced.getD 0) ∧
    (let s : State := { State.reset with poly := { built := true, released := true, guarded := true, excused := true } }
     s.poly.released = true ∧ s.poly.guarded = true ∧ s.poly.excused = true ∧ State.reset.poly.built = false) ∧
    (let s : State := { ticking mFORM [(R.CE_CTL_RUN, 1)] with ce := { ended := true } }
     s.switching = true ∧ s.vComplete = true ∧ s.poly.excused = false ∧ s.ce.err2 = []) ∧
    (∀ c ∈ [0, 1, 255], ∀ m ∈ [mFORM, mISLAND, mRIDE],
      let s : State := { ticking m [(R.CE_CTL_RUN, 1), (R.SYS_TICK_OVR_CONSEC, c)] with
        poly := { legs := [(63, { src := .own, next := 0 })] } }
      s.poly.guarded = false ∧ s.ce.running = false ∧ s.unmet = some 8 ∧ s.switching = true ∧ s.poly.built = false ∧
        (s.leg (63 : Fin 64)).src = .own ∧ (s.leg (63 : Fin 64)).next < s.w1 ∧ (s.leg (63 : Fin 64)).last.resume = false ∧
        (s.leg (0 : Fin 64)).src = .off ∧ s.get R.SYS_TICK_OVR_CONSEC = c) := by decide +kernel

theorem meets_AuxiliaryTimers :
    (let s : State := { State.reset with poly := { aux := [(19, { run := true, per := 100 })] } }
     s.alive = true ∧ (s.aux (19 : Fin 20)).run = true ∧ ¬ ((s.aux (19 : Fin 20)).common = true ∧ (s.aux (19 : Fin 20)).start = s.clk)) ∧
    (let s : State := { State.reset with poly := { aux := [(19, { run := true, per := 100, common := true })] } }
     (s.aux (19 : Fin 20)).common = true ∧ (s.aux (19 : Fin 20)).start = s.clk) ∧
    (let u := State.reset.auxReachOff (17 : Fin 20)
     auxPaired (17 : Fin 20) = true ∧ (u.aux (17 : Fin 20)).gate = false ∧ (u.aux (auxPartner (17 : Fin 20))).pendingOn = false ∧
       u.auxWaits (17 : Fin 20) = false ∧ auxPaired (18 : Fin 20) = false) ∧
    (let s : State := { State.reset with poly := { aux := [(16, { pendingOn := true }), (17, { offAt := some 5 })] } }
     let u := s.auxReachOff (17 : Fin 20)
     (u.aux (17 : Fin 20)).gate = false ∧ (u.aux (auxPartner (17 : Fin 20))).pendingOn = true ∧ (u.aux (17 : Fin 20)).offAt = some 5 ∧
       u.auxConf (auxPartner (17 : Fin 20)) = false) ∧
    (let s : State := { State.reset with poly := { aux := [(17, { gate := true, run := true, per := 100, plan := [(7, false)] })] } }
     let u := s.auxReachOff (17 : Fin 20)
     (s.aux (17 : Fin 20)).gate = true ∧ (u.aux (17 : Fin 20)).gate = false ∧ u.clk = 7) ∧
    (let s : State := { State.reset with poly := { aux := [(17, { gate := true })] } }
     ((s.auxReachOff (17 : Fin 20)).aux (17 : Fin 20)).gate = true) ∧
    (∀ st ∈ [dOFF, dSHORT, dFAULT],
      let s : State := { at0 [(R.MD_STAT_STATE 2, st)] with poly := { aux := [(17, { offAt := some 5 })] } }
      let u := s.auxReachOff (17 : Fin 20)
      u.auxWaits (17 : Fin 20) = true ∧ u.drvState (17 / 6) = st) ∧
    (let s : State := { at0 [(R.MD_STAT_STATE 2, dRUN)] with poly := { aux := [(17, { offAt := some 5 })] } }
     let u := s.auxReachOff (17 : Fin 20)
     u.auxWaits (17 : Fin 20) = true ∧ u.drvState (17 / 6) ≠ dOFF ∧ u.drvState (17 / 6) ≠ dSHORT ∧ u.drvState (17 / 6) ≠ dFAULT) := by
  decide +kernel
theorem meets_TriggersAndSync :
    (let s := ticking mSTANDBY [(R.GEN_CTL_EN 3, 1), (R.GEN_PER 3, 1000), (R.GEN_PHASE 3, 999), (R.CLK_PLL_LOCK, 15), (R.CLK_SYNC_ARM, 1),
       (R.CLKOUT_CTL_RESYNC 3, 1), (R.TRIG_LINE_SRC 15, 6), (R.TRIG_LINE_INDEX 15, 3)]
     s.alive = true ∧ s.time.run = true ∧ s.flag (R.GEN_CTL_EN 3) = true ∧ s.get (R.GEN_PHASE 3) < s.get (R.GEN_PER 3) ∧
       s.flag (R.CLK_PLL_LOCK.bit 3) = true ∧ s.flag R.CLK_SYNC_ARM = true ∧ s.flag (R.CLKOUT_CTL_RESYNC 3) = true ∧
       s.get (R.TRIG_LINE_SRC 15) = 6 ∧ s.get (R.TRIG_LINE_INDEX 15) = (3 : Fin 4)) ∧
    (let s : State := { at0 [(R.MD_CFG_EN 2, 1), (R.MD_CFG_TRIG 2, 15), (R.CAP_CFG_EN 3, 1), (R.CAP_CFG_SEL 3, 15)] with
        time := { run := true, lineDue := [(3, 7), (15, 9), (15, 8)] }, adc := { seq := [(191, 2 ^ 31 + 2 ^ 28 + 15 * 2 ^ 24)], trig := [191] } }
     s.alive = true ∧ s.time.run = true ∧ s.lineNext (15 : Fin 16) = some 8 ∧ s.lineNext (0 : Fin 16) = none ∧
       s.flag (R.MD_CFG_EN 2) = true ∧ s.get (R.MD_CFG_TRIG 2) = (15 : Fin 16).val ∧ (s.drvSt 2).pulseUp = none ∧
       slotBit (s.slotEntry 191) 31 = true ∧ slotBit (s.slotEntry 191) 28 = true ∧ slotField (s.slotEntry 191) 27 24 = (15 : Fin 16).val ∧
       191 ∈ s.adc.trig ∧ s.flag (R.CAP_CFG_EN 3) = true ∧ s.get (R.CAP_CFG_SEL 3) = (15 : Fin 16).val ∧ s.flag (R.CAP_STAT_VALID 3) = false) ∧
    (at0 [(R.CAP_STAT_VALID 3, 1)]).flag (R.CAP_STAT_VALID 3) = true ∧
    (∀ sel ∈ [16, 17], (at0 [(R.CAP_CFG_SEL 3, sel)]).get (R.CAP_CFG_SEL 3) = sel) ∧
    (let s : State := { ticking mSTANDBY [(R.GEN_CTL_EN 3, 1), (R.GEN_PER 3, 1001), (R.GEN_PHASE 3, 0)] with
        time := { run := true, now := 8000000000, genFrom := [(3, 1599999801)] } }
     Tab.get (fun _ => 0) s.time.genFrom (3 : Fin 4) = 1599999800 + 1 ∧ s.get (R.GEN_PHASE 3) < s.get (R.GEN_PER 3)) ∧
    (at0 [(R.CLK_PLL_LOCK, 7)]).flag (R.CLK_PLL_LOCK.bit 3) = false ∧
    ({ State.reset with sys := { State.reset.sys with monCond := 1 } } : State).sys.monCond.testBit 0 = true := by decide +kernel
/-- The echoes of a round of LAT: 64 probes, TURN 0, round trips of `n` units, of which the first takes `more` units longer. -/
def latEchoes (n more : Nat) : List (Nat × Dword) :=
  (List.range 64).map fun k => (n + (if k = 0 then more else 0), trainBlock 2 0 0 (k * 2 ^ 27 + 2 ^ 26))
theorem meets_LinkTraining :
    (let s := at0 [(R.LINK_STAT_STATE 0, stCLOCK), (R.LINK_STAT_STATE 1, stEQ), (R.LINK_STAT_STATE 2, stLAT), (R.LINK_STAT_STATE 3, stREADY),
       (R.LINK_STAT_STATE 4, stREADY), (R.LINK_CTL_LOOP 4, 3), (R.LINK_STAT_STATE 5, stREADY), (R.LINK_CTL_LOOP 5, 4)]
     s.alive = true ∧ s.linkState 0 = stCLOCK ∧ s.linkState 1 = stEQ ∧ s.linkState 2 = stLAT ∧
       (s.linkState 3 = stREADY ∧ s.readyNext 3 = 0 ∧ isReady 0 (trainBlock 3 0 0 0) = true) ∧
       (s.linkState 4 = stREADY ∧ s.readyNext 4 ≠ 0 ∧ isReady (s.readyNext 4) (trainBlock 3 0 0 (2 * 2 ^ 33)) = true) ∧
       (s.linkState 5 = stREADY ∧ s.readyNext 5 ≠ 0 ∧ isReady (s.readyNext 5) (trainBlock 3 0 0 (2 ^ 33)) = true) ∧ (s.port 4).push = [] ∧
       (rxValid true (trainBlock 3 0 0 (2 * 2 ^ 33)) = true ∧ bitsOf (trainBlock 3 0 0 (2 * 2 ^ 33)) 54 52 = 3 ∧
         bitsOf (trainBlock 3 0 0 (2 * 2 ^ 33)) 42 41 ≠ s.readyNext 3) ∧
       (s.port 2).round < 3 ∧ (∀ c ∈ [1, 2, 7], failAllowed (s.linkState 0) c = true) ∧ failAllowed (s.linkState 1) (3 : Fin 8) = true ∧
       (∀ c ∈ [4, 5], failAllowed (s.linkState 2) c = true) ∧ failAllowed (s.linkState 3) (6 : Fin 8) = true) ∧
    (let s : State := { at0 [(R.LINK_STAT_STATE 1, stEQ)] with
        ports := [(1, { lane0 := { done := true, farDone := true }, lane1 := { done := true, farDone := true } })] }
     s.linkState 1 = stEQ ∧ ∀ l : Fin 2, (s.lane 1 l).done = true ∧ (s.lane 1 l).farDone = true) ∧
    (let s : State := { at0 [(R.LINK_STAT_STATE 2, stLAT)] with ports := [(2, { round := 3 })] }
     s.linkState 2 = stLAT ∧ 3 ≤ (s.port 2).round) ∧
    (let es := latEchoes 12795 4
     let trips := es.map latTrip
     latRound es = true ∧ trips.foldl max (trips.headD 0) - trips.foldl min (trips.headD 0) = 4 ∧
       0 ≤ State.reset.ddownOf 2 (rttMean trips) ∧ State.reset.ddownOf 2 (rttMean trips) ≤ 6400) ∧
    (let es := latEchoes 12802 0
     let trips := es.map latTrip
     latRound es = true ∧ trips.foldl max (trips.headD 0) - trips.foldl min (trips.headD 0) ≤ 4 ∧
       6400 < State.reset.ddownOf 2 (rttMean trips)) ∧
    (let es := latEchoes 1000 5
     let trips := es.map latTrip
     latRound es = true ∧ 4 < trips.foldl max (trips.headD 0) - trips.foldl min (trips.headD 0)) := by decide +kernel
theorem meets_LinkEvents :
    (let s := at0 [(R.LINK_STAT_STATE 7, stDOWN)]
     s.alive = true ∧ s.linkState 7 = stDOWN ∧ s.flag (R.CLK_PLL_LOCK.bit 2) = true) ∧
    State.reset.linkState 7 ≠ stDOWN ∧ (at0 [(R.CLK_PLL_LOCK, 3)]).flag (R.CLK_PLL_LOCK.bit 2) = false ∧
    ((1#4 : BitVec 4) ≠ 0 ∧ (8#4 : BitVec 4) ≠ 0 ∧ (at0 [(R.LINK_STAT_STATE 7, stUP)]).linkUp 7 = true) ∧
    (let s := at0 [(R.LINK_STAT_STATE 7, stEQ)]
     let b := trainBlock 1 1 0 (2 ^ 33)
     let a := trainBlock 1 1 0 0
     s.linkState 7 = stEQ ∧ isEq b = true ∧ bitsOf b 51 51 = (1 : Fin 2).val ∧ bitOf b 41 ≠ (s.lane 7 (1 : Fin 2)).seen ∧ isEq a = true ∧
       bitsOf a 51 51 = (1 : Fin 2).val ∧ bitOf a 34 = (s.lane 7 (1 : Fin 2)).rseq ∧ (s.lane 7 (1 : Fin 2)).done = false) := by decide +kernel
theorem meets_LinkBlocks :
    (let s : State := { at0 [(R.LINK_STAT_STATE 7, stUP)] with ports := [(7, { probes := [(255, 9)] })] }
     let b := mkBlock tIDLE 0 (2 ^ 46 + 2 ^ 45 + 255 * 2 ^ 37)
     let c := mkBlock tIDLE 0 (2 ^ 46 + 2 ^ 45 + 254 * 2 ^ 37)
     let e := mkBlock tIDLE 0 (2 ^ 46)
     s.alive = true ∧ s.linkUp 7 = true ∧ rxValid false b = true ∧ blockType b = tIDLE ∧ bitOf b 54 = true ∧ bitOf b 53 = true ∧
       (s.drained 7).probes.find? (fun r => r.1 == bitsOf b 52 45) = some (255, 9) ∧ rxValid false c = true ∧ blockType c = tIDLE ∧
       (∀ r ∈ (s.drained 7).probes, r.1 ≠ bitsOf c 52 45) ∧ rxValid false e = true ∧ blockType e = tIDLE ∧ bitOf e 53 = false) ∧
    (let b : TxBlk := ⟨prIDLE, 0, 8, probeBlock 255⟩
     let s : State := { at0 [(R.LINK_STAT_STATE 7, stUP)] with time := { up := 528 }, ports := [(7, { wait := [b], place := 18 })] }
     b.lane = 0 ∧ blockType b.word = tIDLE ∧ (s.port 7).wait = [b] ∧ (s.port 7).place % 2 = 0 ∧ (s.port 7).place < 2 * s.slotsBegun) ∧
    (let h := mkBlock tSAMPLE 5 0
     let t := mkBlock tSAMPLE 5 (2 ^ 46)
     isHalf 0 h = true ∧ isHalf 1 t = true ∧ blockLeg h = blockLeg t) ∧
    (let h := mkBlock tIDLE 0 0
     let t := mkBlock tSAMPLE 5 (2 ^ 46)
     ¬ (isHalf 0 h = true ∧ isHalf 1 t = true ∧ blockLeg h = blockLeg t)) ∧
    (let b := mkBlock tSTATUS 7 (0xF * 2 ^ 39 + 2 ^ 36)
     rxValid false b = true ∧ blockType b = tSTATUS ∧ bitOf b 44 = true ∧ (∀ i ∈ [50, 49, 48, 47], bitOf b i = true) ∧
       ∀ i ∈ [9, 8, 7, 6], (State.reset.get (R.LINK_LEGSTAT_FLAGS 7 (blockLeg b))).testBit i = false) ∧
    (rxValid false (mkBlock tRD 7 0) = false ∧ wrongType false (mkBlock tRD 7 0) = true ∧
      rxValid false (mkBlock tSTATUS 7 0 ^^^ 1#64) = false ∧ wrongType false (mkBlock tSTATUS 7 0 ^^^ 1#64) = false ∧
      rxValid true (mkBlock tSTATUS 7 0) = false) ∧
    (at0 [(R.LINK_CRC_UD1 7, 1)]).get (R.LINK_CRC_UD1 7) ≠ 0 := by decide +kernel

/-! ## Grid, converters, meter, Ethernet -/

theorem meets_GridEngines :
    (let s := ticking mSTANDBY [(R.GC_CTL_EN, 1), (R.SLOPE_CTL_EN, 1)]
     s.runsLocus = true ∧ s.firstOfMs = true ∧ s.flag R.GC_CTL_EN = true ∧ s.gc.ms ≠ some (s.time.tickStart / 4000000) ∧
       s.flag R.SLOPE_CTL_EN = true ∧ s.slope.done ≠ some (s.time.tickStart / 4000000)) ∧
    (let s : State := { ticking mFOLLOW [(R.ISL_CTL_PASV_EN, 1), (R.ISL_CTL_ROCOF_EN, 1)] with
        isl := { onset := [(3, some 0)], timers := [(3, 10 ^ 14)], rocofOn := some 0 } }
     s.runsLocus = true ∧ s.flag R.ISL_CTL_PASV_EN = true ∧ (3 : Fin 4).val ∉ s.isl.conf ∧ s.limOnset (3 : Fin 4) = some 0 ∧ s.islanded = false ∧
       10 * s.get (R.ISL_FTRIP_CLR 3) * 4000000 - s.get R.ISL_CLR_BUDGET * 4000000 ≤ s.limTimer (3 : Fin 4) ∧
       s.flag R.ISL_CTL_ROCOF_EN = true ∧ s.isl.rocofConf = false ∧ s.isl.rocofOn = some 0 ∧
       0 + s.get R.ISL_ROCOF_DELAY * 4000000 ≤ s.time.tickStart ∧ s.majorMode = mFOLLOW) ∧
    (let m : SlotMeas := { no := 1, n1 := 1, n2 := 1, good := true }
     let s : State := { ticking mFORM [(R.ISL_SLOT_NSLOT_M1, 3), (R.ISL_SLOT_OCC, 2)] with isl := { ended := some m } }
     s.runsLocus = true ∧ s.isl.ended = some m ∧ (s.get R.ISL_SLOT_OCC).testBit (s.gridSlot m.no) = true ∧
       s.gridSlot m.no ≠ s.get R.ISL_CTL_SLOT_ID) ∧
    (let m : SlotMeas := { no := 0, n1 := 1, n2 := 1, good := true, injected := true }
     let s : State := { ticking mFORM [(R.ISL_SLOT_NSLOT_M1, 3), (R.ISL_SLOT_OCC, 1)] with isl := { ended := some m } }
     s.isl.ended = some m ∧ (s.get R.ISL_SLOT_OCC).testBit (s.gridSlot m.no) = true ∧ m.injected = true) ∧
    (let m : SlotMeas := { no := 0, n1 := 1, n2 := 1, good := true }
     let s : State := { ticking mFORM [(R.ISL_SLOT_NSLOT_M1, 3), (R.ISL_SLOT_OCC, 1)] with isl := { ended := some m } }
     s.isl.ended = some m ∧ s.gridSlot m.no = s.get R.ISL_CTL_SLOT_ID ∧ m.injected = false) ∧
    (let s : State := { ticking mISLAND [] with isl := { entered := some 0, deadline := some 0 } }
     s.runsLocus = true ∧ s.majorMode = mISLAND ∧ s.isl.entered = some 0 ∧ s.isl.ceased = false ∧
       0 + s.get R.ISL_CLR_RAMP * 4000000 < s.time.tickStart ∧ s.isl.deadline = some 0 ∧ s.isl.missed = false ∧ s.islComplete = false) ∧
    (let s : State := { ticking mFORM [(R.SLCH_STAT_STATE 31, cSCAN)] with
        slope := { ch := [(31, { scan := some { best := some (0, true, 0, 0) } })] } }
     s.runsLocus = true ∧ (s.sl 31).scan = some { best := some (0, true, 0, 0) } ∧ s.slState 31 = cSCAN ∧ 0 + 160000000 ≤ s.time.tickStart) := by
  decide +kernel
/-- P and Q that the grid-code engine asks for, before SMAX. -/
def gcAsked (s : State) : Rat × Rat :=
  let u := (s.gcVolt s.gcInputs).suspJudge
  let pb := ofFmt 24 (if s.flag R.GC_CTL_PSRC = true then s.getI R.SLOPE_PAVAIL_PU else s.getI R.GC_PREQ)
  let a := u.gcCaps pb
  let v := u.gcFreq s.gcInputs.1 a.1 pb
  let b := if s.flag R.GC_CTL_FW_EN = true then v.gcCaps v.gc.pfw else a
  let pt := if s.nightvar = true then 0 else b.1
  (pt, puOf ((if s.nightvar = true then v.gc.vv else v.qTarget pt) + v.perturb))
/-- P and Q asked for within SMAX and beyond it, with either priority. -/
theorem meets_GridEngines_code :
    let base := [(R.GC_CTL_EN, 1), (R.GC_CTL_QMODE, 0), (R.GC_CTL_FW_EN, 0), (R.GC_CTL_VW_EN, 0), (R.GC_SMAX_SMAX, 4096),
      (R.LOCUS_STAT_STATE, lLOCK), (R.GC_CTL_PSRC, 0), (R.ISL_CTL_ACT_EN, 0)]
    let apparent := fun s => (gcAsked s).1 * (gcAsked s).1 + (gcAsked s).2 * (gcAsked s).2
    let smax := fun (s : State) => ofFmt 12 (s.get R.GC_SMAX_SMAX)
    (let s : State := { ticking mFOLLOW (base ++ [(R.GC_PREQ, 2 ^ 23), (R.GC_QREQ, 2 ^ 23)]) with loc := { freq := 50 } }
     s.runsLocus = true ∧ s.firstOfMs = true ∧ apparent s ≤ smax s * smax s) ∧
    ∀ prio ∈ [0, 1],
      let s : State := { ticking mFOLLOW (base ++ [(R.GC_CTL_QPRIO, prio), (R.GC_PREQ, 2 ^ 24), (R.GC_QREQ, 2 ^ 22)]) with loc := { freq := 50 } }
      smax s * smax s < apparent s ∧ s.flag R.GC_CTL_QPRIO = (prio == 1) := by decide +kernel
/-- A channel that is off, enabled or not, one that faults (State.slFaultNow_reverse), one that stays in TRACK, with its window empty and with one sum in it. -/
theorem meets_GridEngines_slope :
    (let s := ticking mFOLLOW [(R.SLOPE_CTL_EN, 1), (R.SLCH_CFG_EN 31, 1)]
     s.flag R.SLOPE_CTL_EN = true ∧ s.flag (R.SLCH_CFG_EN 31) = true ∧ s.slState 31 = cOFF ∧ s.flag (R.SLCH_CFG_EN 0) = false ∧
       (s.slopeRoll.sl (0 : Fin 32)).win = [] ∧ (s.slopeRoll.sl (31 : Fin 32)).win ≠ []) ∧
    (let s : State := { ticking mFOLLOW [(R.SLOPE_CTL_EN, 1), (R.SLCH_CFG_EN 31, 1), (R.SLCH_STAT_STATE 31, cTRACK)] with
        slope := { ch := [(31, { revFor := 40000000 })] } }
     s.slState 31 ≠ cOFF ∧ s.slState 31 ≠ cSUSP ∧ msQ 10 ≤ (s.slopeRoll.sl 31).revFor ∧ (s.slopeRoll.sl 31).conds = []) ∧
    (ticking mFOLLOW [(R.SLCH_STAT_STATE 31, cTRACK)]).slState 31 = cTRACK := by decide +kernel
/-- What the engines do not do: in WAKE, without lock in RIDE, at the ends of slots that are not used or not good. -/
theorem meets_GridEngines_idle :
    State.reset.runsLocus = false ∧
    (let s := ticking mRIDE []
     s.runsLocus = true ∧ s.majorMode = mRIDE ∧ s.inLock = false ∧ (ticking mRIDE [(R.LOCUS_STAT_STATE, lLOCK)]).inLock = true) ∧
    (let m : SlotMeas := { no := 1, n1 := 1, n2 := 1, good := true }
     let s : State := { ticking mFORM [(R.ISL_SLOT_NSLOT_M1, 3), (R.ISL_SLOT_OCC, 1)] with isl := { ended := some m } }
     s.isl.ended = some m ∧ (s.get R.ISL_SLOT_OCC).testBit (s.gridSlot m.no) = false) ∧
    (({ no := 1 } : SlotMeas).good = false ∧ ({ no := 1 } : SlotMeas).n1 = 0 ∧ ({ no := 1 } : SlotMeas).n2 = 0) ∧
    (let s : State := { ticking mFOLLOW [(R.GC_CTL_EN, 1), (R.ISL_CTL_PASV_EN, 1)] with
        isl := { onset := [(0, some 0)], timers := [(0, 10 ^ 14)] } }
     s.limOnset (0 : Fin 4) = some 0 ∧ s.majorMode = mFOLLOW) := by decide +kernel
/-- The converters run and are calibrated, the rotation is enabled and in a phase. -/
def rotating (ph : Nat) (fs : List (Fld × Nat)) : State :=
  ticking mSTANDBY ([(R.ADC_CTL_EN, 1), (R.ADC_STAT_CALDONE, 1), (R.ADC_ROT_STAT_PHASE, ph), (R.ADC_ROT_CTL_EN, 1)] ++ fs)
/-- Sums of a calibration whose codes read right, and of one that reads one end for the other. -/
def goodCal (s : State) (k : Nat) : Nat := k * 2 ^ s.get R.ADC_ROT_CFG_CALN / 16
theorem meets_ConvertersAndComparators_slots :
    (let s : State := { rotating rWAIT [] with
        adc := { seq := [(126, 2 ^ 31), (96, 2 ^ 31 + 2 ^ 30), (184, 2 ^ 31), (191, 2 ^ 31 + 2 ^ 28)], trig := [191] } }
     s.alive = true ∧ s.adcRuns = true ∧ slotBit (s.slotEntry (126 : Fin 128)) 31 = true ∧ s.serves (slotPos (126 : Fin 128)) = some 7 ∧
       slotBit (s.slotEntry (126 : Fin 128)) 30 = false ∧
       slotBit (s.slotEntry (96 : Fin 128)) 31 = true ∧ s.serves (slotPos (96 : Fin 128)) = some 6 ∧
       (slotBit (s.slotEntry (96 : Fin 128)) 30 && slotPos (96 : Fin 128) % 2 == 0 && !s.legacyActive &&
         (s.serves (slotPos (96 : Fin 128) + 1)).isSome) = true ∧
       s.serves (slotPos (96 : Fin 128) + 1) = some 7 ∧ s.ce.frozen = false ∧
       s.serves (7 : Fin 8) = some 7 ∧ s.bgTriggered (7 : Fin 8) = some 191) ∧
    (let s : State := { rotating rWAIT [(R.CMP_ST_CTL_CONV, 7)] with
        cmp := { pass := some 95, tw := [(47, { hi := 0, lo := 0 })] }, adc := { seq := [(184, 2 ^ 31)] } }
     s.adcRuns = true ∧ s.serves (7 : Fin 8) = some 7 ∧ s.bgTriggered (7 : Fin 8) = none ∧ s.get R.CMP_ST_CTL_CONV = (7 : Fin 8).val ∧
       s.cmp.pass = some 95 ∧ 95 < 96 ∧ s.sideWaits 95 = false) ∧
    (let s : State := { rotating rWAIT [(R.CMP_ST_CTL_CONV, 0)] with adc := { seq := [(184, 2 ^ 31)] } }
     s.adcRuns = true ∧ s.bgTriggered (7 : Fin 8) = none ∧ s.get R.CMP_ST_CTL_CONV ≠ (7 : Fin 8).val ∧ s.bgNext (7 : Fin 8) = some 184) ∧
    (∀ ws ∈ [[], [0x100]],
      let s : State := { rotating rWAIT [(R.CMP_ST_CTL_CONV, 0)] with adc := { seq := [(184, 2 ^ 31 + 2 ^ 29)], words := ws } }
      s.bgTriggered (7 : Fin 8) = none ∧ s.bgNext (7 : Fin 8) = some 184 ∧ slotBit (s.slotEntry 184) 29 = true ∧
        slotWord (s.slotEntry 184) = 0x100 ∧ s.ce.frozen = false) ∧
    ({ rotating rWAIT [] with ce := { frozen := true } } : State).ce.frozen = true := by decide +kernel
theorem meets_ConvertersAndComparators_rotation :
    (State.reset.flag R.ADC_STAT_CALDONE = false ∧ (List.replicate 9 (0, 0, 0)).length = 9) ∧
    (∀ ph ∈ [rCALSPARE, rCALOUT],
      let s := rotating ph []
      s.alive = true ∧ s.rotMode = true ∧ s.rotPhase = ph ∧ s.adc.swap = 0 ∧ s.adc.fails = 0 ∧ s.adc.calErr = false ∧
        (s.calibrate 0 1000000000000 0 0).pass = false ∧
        (s.calibrate (goodCal s 52429) (goodCal s 996147) (goodCal s 524288) 0).pass = true) ∧
    (∀ ph ∈ [rSHADOWIN, rSHADOWOUT], ∀ q ∈ [(0, true), (1000000, false)],
      let s : State := { rotating ph [] with adc := { seq := [(15, 2 ^ 31)], shadow := some (1000000, q.1, 1) } }
      s.rotMode = true ∧ s.rotPhase = ph ∧ s.adc.swap = 0 ∧ s.shadowTicks ≤ (s.adc.shadow.map (·.1)).getD 0 ∧ s.shadowSum [] = (q.1, 1) ∧
        (1 : Nat) ≠ 0 ∧ decide (q.1.natAbs ≤ s.get R.ADC_ROT_CFG_MISM * 1) = q.2 ∧ s.adc.fails = 0) ∧
    (let s : State := { rotating rSHADOWIN [] with adc := { fails := 1, shadow := some (1000000, 0, 0) } }
     s.adc.fails ≠ 0 ∧ s.rotPhase = rSHADOWIN ∧ s.shadowSum [(0, 0)] = (0, 1)) ∧
    (let s := rotating rWAIT []
     s.rotMode = true ∧ s.rotPhase = rWAIT ∧ s.rotEnabled = true) := by decide +kernel
theorem meets_ConvertersAndComparators_tangent :
    ((State.reset.cmpc (47 : Fin 48)).raw = wINSIDE ∧ (State.reset.cmpc (47 : Fin 48)).lo ≤ (State.reset.cmpc (47 : Fin 48)).hi ∧
      State.reset.get (R.TW_CFG_AIN (47 : Fin 48)) = (0 : Fin 64).val ∧ (at0 [(R.TW_CFG_AIN 47, 63)]).get (R.TW_CFG_AIN (47 : Fin 48)) ≠ (0 : Fin 64).val) ∧
    (let s : State := { State.reset with cmp := { tw := [(46, { raw := wABOVE }), (47, { raw := wBELOW })] } }
     (s.cmpc (46 : Fin 48)).raw = wABOVE ∧ (s.cmpc (47 : Fin 48)).raw = wBELOW) ∧
    (let s : State := { rotating rWAIT [(R.TW_CFG_EN 47, 1), (R.CMP_ST_CTL_EN, 1)] with
        cmp := { tw := [(46, { blankUp := some 3, edges := [900] }), (47, { raw := 2 })] } }
     s.alive = true ∧ s.flag (R.TW_CFG_EN 47) = true ∧ (s.cmpc (47 : Fin 48)).blankUp = none ∧
       (s.cmpc (47 : Fin 48)).raw ≠ (s.cmpc (47 : Fin 48)).win ∧ s.cmpForced (47 : Fin 48) = false ∧ (s.cmpc (47 : Fin 48)).raw ≤ 2 ∧
       (s.cmpc (46 : Fin 48)).edges = 900 :: [] ∧ (s.cmpc (46 : Fin 48)).blankUp = some 3 ∧
       s.flag R.CMP_ST_CTL_EN = true ∧ s.cmp.pass = none ∧ s.rotMode = true) ∧
    (let s : State := { rotating rWAIT [(R.CMP_ST_CTL_EN, 1), (R.TW_THR_HI 0, 0x3FF)] with cmp := {} }
     s.flag R.CMP_ST_CTL_EN = true ∧ s.cmp.pass = none ∧ s.rotMode = true ∧ s.sideWaits 0 = false) := by decide +kernel
/-- Annulus is on. -/
def metering (fs : List (Fld × Nat)) : State := ticking mSTANDBY ([(R.METER_CTL_EN, 1), (R.PMU_CTL_EN, 1), (R.METER_ROT_CTL_EN, 1)] ++ fs)
theorem meets_Metering :
    (let s : State := { metering ((⟨(R.MCH_CFG 15).addr, 0, 0⟩, 0) :: ringed 13 4 0 0) with meter := { restoredUp := some 0, closed := [{}], tens := [{}] } }
     s.alive = true ∧ s.time.run = true ∧ s.meterOn = true ∧ s.flag R.PMU_CTL_EN = true ∧ s.ringOn 13 = true ∧
       s.ringFill 13 + (1 + (s.pmuChans.length + 5) / 6) ≤ s.ringN 13 ∧ s.flag ⟨(R.MCH_CFG 15).addr, 0, 0⟩ = false ∧
       s.flag R.METER_STAT_RUN = false ∧ s.meter.restoredUp = some 0 ∧ s.meter.closed = ({} : MWin) :: [] ∧
       s.meter.tens = ({} : MTen) :: [] ∧ s.flag R.METER_CTL_HOLD = false) ∧
    (let s := metering []
     s.meterOn = true ∧ s.flag R.PMU_CTL_EN = true ∧ s.ringOn 13 = false) ∧
    (let s := metering (ringed 13 4 0 16)
     s.ringOn 13 = true ∧ s.ringN 13 < s.ringFill 13 + (1 + (s.pmuChans.length + 5) / 6)) ∧
    (metering [(R.METER_STAT_RUN, 1), (R.METER_CTL_HOLD, 1)]).flag R.METER_STAT_RUN = true ∧
    (metering [(R.METER_STAT_RUN, 1), (R.METER_CTL_HOLD, 1)]).flag R.METER_CTL_HOLD = true ∧
    (metering []).injOn = false ∧ (metering [(R.SYS_MODE_STAT_ST_TEST, 1), (R.METER_TEST_INJ, 1)]).injOn = true := by decide +kernel
/-- A window under a test, one that takes an accumulator past its wrap, calibrations that pass and fail, and a restore that has or has not been. -/
theorem meets_Metering_windows :
    (let w : MWin := { test := true }
     let s : State := { metering [] with meter := { closed := [w] } }
     s.meter.closed = w :: [] ∧ w.test = true) ∧
    (let w : MWin := { xs := List.replicate 8 (List.replicate 16 8388607) }
     let s : State := { metering [(R.ELEM_CFG_EN 0, 1)] with
        meter := { closed := [w], running := 1, quant := 0, acc := [(0, 2 ^ 76 - 1)], wraps := [(0, 255)] } }
     s.meter.closed = w :: [] ∧ w.test = false ∧ Tab.get noAcc s.meter.wraps (6 * (0 : Fin 9) + (0 : Fin 6)) ≤ 255 ∧
       answers .windowEnd s (fun t => decide (s.accT 0 / 2 ^ 76 < t.accT 0 / 2 ^ 76)) = true) ∧
    (let s := metering [(R.METER_ROT_CFG_CALN, 0)]
     s.meter.restoredUp = none ∧ s.flag R.METER_STAT_RUN = false ∧ s.modPass ((List.replicate 17 none).getD 16 none) = false ∧
       s.modPass (some (0, 1, 1)) = false ∧ s.modPass (some (0, 1, -1)) = true ∧
       (some (0, 1, -1)).bind (modCal (s.get R.METER_ROT_CFG_CALN)) = some (18 / 10 * 2 ^ 23 / 2, 0)) := by decide +kernel
theorem meets_Metering_rotation :
    (let s := metering [(R.METER_ROT_STAT_SPAREPOS, 31)]
     s.alive = true ∧ s.time.run = true ∧ mSTANDBY ≤ s.majorMode ∧ s.flag R.METER_CTL_EN = true ∧ s.meter.swap = 0 ∧
       s.flag R.METER_ROT_CTL_EN = true ∧ s.get R.METER_ROT_STAT_PHASE = 0 ∧ s.flag R.METER_ROT_STAT_SPAREOUT = false ∧
       s.get R.METER_ROT_STAT_SPAREPOS = 31 ∧ s.meter.fails = 0) ∧
    (∀ k : Fin 6, (metering [(R.METER_ROT_STAT_PHASE, k)]).get R.METER_ROT_STAT_PHASE = k) ∧
    (∀ ph ∈ [2, 4], ∀ q ∈ [(0, true), (2 ^ 40, false)], ∀ fails ∈ [0, 1],
      let s : State := { metering [(R.METER_ROT_STAT_PHASE, ph)] with meter := { shadowed := some (q.1, 1), fails } }
      s.meter.swap = 0 ∧ s.get R.METER_ROT_STAT_PHASE = ph ∧ s.meter.shadowed = some (q.1, 1) ∧ s.meter.fails = fails ∧
        decide (q.1.natAbs * 100000 ≤ s.get R.METER_ROT_CFG_MISM * 1 * 2 ^ 23) = q.2) ∧
    (let s := metering [(R.METER_ROT_CTL_EN, 0), (R.METER_ROT_STAT_PHASE, 5)]
     s.meter.swap = 0 ∧ s.flag R.METER_ROT_CTL_EN = false ∧ s.get R.METER_ROT_STAT_PHASE = 5) := by decide +kernel
/-- Ethernet port 1 has its receive area of `2 ^ log` bytes at offset 0, and its rings: `rx` entries wait, one is to be sent. -/
def ether (log rx : Nat) : State :=
  at0 ((R.ETH_CTL_EN 1, 1) :: (R.ETH_RXBUF_LOG2 1, log) :: (R.ETH_RXBUF_BASE 1, 0) :: ringed (ethRx 1) 4 1024 rx ++ ringed (ethTx 1) 4 2048 1)
theorem meets_Ethernet :
    (let s := ether 12 0
     let f := List.replicate 64 1#8
     s.alive = true ∧ s.flag (R.ETH_CTL_EN 1) = true ∧ s.ethHeld 1 = [] ∧ (s.ethPort 1).wr = 0 ∧ 0 < 2 ^ s.get (R.ETH_RXBUF_LOG2 1) ∧
       0 + ethSpace f.length ≤ 2 ^ s.get (R.ETH_RXBUF_LOG2 1) ∧ s.ringTakes (ethRx 1) = true ∧
       s.get (R.ETH_RXBUF_BASE 1) * 64 + 2 ^ s.get (R.ETH_RXBUF_LOG2 1) ≤ s.ringSlot (ethRx 1) (s.get (R.RING_PIDX (ethRx 1))) ∧
       s.ringHead (ethTx 1) = some 0 ∧ ¬ (s.testActive = true ∧ s.flag (R.ETH_CTL_LOOP 1) = true)) ∧
    (let s := ether 12 16
     s.ethHeld 1 = [] ∧ 0 + ethSpace (List.replicate 64 1#8).length ≤ 2 ^ s.get (R.ETH_RXBUF_LOG2 1) ∧ s.ringTakes (ethRx 1) = false) ∧
    (let s := ether 5 0
     s.ethHeld 1 = [] ∧ 2 ^ s.get (R.ETH_RXBUF_LOG2 1) < 0 + ethSpace (List.replicate 64 1#8).length) ∧
    (let s := (ether 12 0).sramWrite (2048 * 64) 16 (2 ^ 48)
     s.ringHead (ethTx 1) = some (2 ^ 48) ∧ (2 ^ 48).testBit 48 = true ∧ s.ringTakes (ethRx 1) = true) ∧
    (at0 [(R.ETH_CTL_EN 1, 1), (R.ETH_CTL_IF 1, 1)]).flag (R.ETH_CTL_IF 1) = true ∧
    (({ State.reset with eth := [(1, { up := true })] } : State).ethPort 1).up = true := by decide +kernel

/-! ## Drives, safety, the Origin domain, boot -/

/-- Drive 2 in a state of its sequence, with fields laid in. -/
def driving (st : Nat) (d : DrvSt) (fs : List (Fld × Nat)) : State := { at0 ((R.MD_STAT_STATE 2, st) :: fs) with drv := [(2, d)] }
/-- A rotor that turns at 100 per minute, the least speed at which a drive is caught. -/
def turning (flux : Nat) (fs : List (Fld × Nat)) : List (Fld × Nat) :=
  fs ++ [(R.MD_SPD_SPD_MIN 2, 100), (R.MD_SPEED 2, 25600), (R.MD_MOTOR_PSI 2, 65535), (R.MD_FLUX 2, flux)]
theorem meets_DriveEvents_pulse :
    (let s : State := { driving dCATCH { pulseUp := some 900, misses := 2 } [(R.MD_SLOTS_IU 2, 190), (R.MD_SLOTS_IV 2, 191)] with
        adc := { codes := [(190, 0, 900), (191, 0, 8780)] } }
     s.alive = true ∧ (s.drvSt 2).pulseUp = some 900 ∧ s.drvInTime (2 : Fin 3) 900 = true ∧ s.drvState 2 = dCATCH ∧ s.drvStopped 2 = false) ∧
    (let s : State := { driving dRUN { pulseUp := some 900, misses := 3 } [(R.MD_SLOTS_IU 2, 190), (R.MD_SLOTS_IV 2, 191)] with
        adc := { codes := [(190, 0, 900), (191, 0, 8781)] } }
     (s.drvSt 2).pulseUp = some 900 ∧ s.drvInTime (2 : Fin 3) 900 = false ∧ 3 ≤ (s.drvSt 2).misses ∧ s.drvState 2 ≠ dOFF ∧
       s.drvState 2 ≠ dSHORT ∧ s.drvState 2 ≠ dFAULT) ∧
    (let s : State := { driving dSHORT { pulseUp := some 900, misses := 3 } [(R.MD_SLOTS_IU 2, 190), (R.MD_SLOTS_IV 2, 191)] with
        adc := { codes := [(190, 0, 900), (191, 0, 8781)] } }
     (s.drvSt 2).pulseUp = some 900 ∧ s.drvInTime (2 : Fin 3) 900 = false ∧ 3 ≤ (s.drvSt 2).misses ∧ s.drvState 2 = dSHORT) ∧
    (State.reset.drvSt 2).pulseUp = none := by decide +kernel
theorem meets_DriveEvents_catch :
    (let s := driving dCATCH {} [(R.MD_CFG_VMEAS 2, 1), (R.MD_CFG_HALL 2, 1), (R.MD_SPD_SPD_MIN 2, 100)]
     s.alive = true ∧ s.drvState 2 = dCATCH ∧ s.drvStopped 2 = false ∧ s.flag (R.MD_CFG_VMEAS 2) = true ∧
       absR (s.drvRpm 2) < s.spdMin 2 ∧ s.flag (R.MD_CFG_HALL 2) = true) ∧
    (let s := driving dCATCH {} [(R.MD_SPD_SPD_MIN 2, 100), (R.MD_CFG_VMEAS 2, 1)]
     absR (s.drvRpm 2) < s.spdMin 2 ∧ s.flag (R.MD_CFG_HALL 2) = false) ∧
    (driving dCATCH {} [(R.MD_CFG_HALL 2, 1)]).flag (R.MD_CFG_VMEAS 2) = false ∧
    (let s := driving dCATCH {} (turning (65535 * 256) [(R.MD_CFG_VMEAS 2, 1)])
     s.spdMin 2 ≤ absR (s.drvRpm 2) ∧ s.psiRef 2 / 2 ≤ ofFmt 24 (s.getI (R.MD_FLUX 2)) ∧
       ofFmt 24 (s.getI (R.MD_FLUX 2)) ≤ 3 / 2 * s.psiRef 2) ∧
    (∀ n ∈ [0, 1, 2],
      let s := driving dCATCH { catches := n } (turning 0 [(R.MD_CFG_VMEAS 2, 1)])
      s.drvState 2 = dCATCH ∧ s.drvStopped 2 = false ∧ s.spdMin 2 ≤ absR (s.drvRpm 2) ∧ s.flag (R.MD_CFG_VMEAS 2) = true ∧
        ofFmt 24 (s.getI (R.MD_FLUX 2)) < s.psiRef 2 / 2 ∧ (s.drvSt 2).catches = n) ∧
    (let s := driving dCATCH {} (turning (2 ^ 31 - 1) [(R.MD_CFG_VMEAS 2, 1)])
     s.spdMin 2 ≤ absR (s.drvRpm 2) ∧ 3 / 2 * s.psiRef 2 < ofFmt 24 (s.getI (R.MD_FLUX 2))) ∧
    (State.reset.drvState 2 ≠ dCATCH ∧ State.reset.drvState 2 ≠ dALIGN ∧ (at0 [(R.SDRV_STAT_DSTOP 2, 1)]).drvStopped 2 = true) := by
  decide +kernel
theorem meets_DriveEvents_times :
    (let s := driving dALIGN {} []
     s.alive = true ∧ s.drvState 2 = dALIGN ∧ s.drvStopped 2 = false) ∧
    (let s := driving dRUN { holdUp := some 0, reversing := true, posUp := some 0, stowUp := some 0 } []
     (s.drvSt 2).holdUp = some 0 ∧ s.drvState 2 = dRUN ∧ (s.drvSt 2).reversing = true ∧ (s.drvSt 2).posUp = some 0 ∧
       (s.drvSt 2).stowUp = some 0 ∧ s.busFaulty 2 = false) ∧
    (driving dRUN { posUp := some 0 } [(R.BRK_STAT_OPEN 0, 1)]).busFaulty 2 = true ∧
    (let s := driving dDECEL { holdUp := some 0 } []
     s.drvState 2 = dDECEL ∧ (s.drvSt 2).holdUp = some 0) ∧
    (let s := driving dSHORT { lowUp := some 0, pending := 7 } [(R.BRK_THR2_VSHORT 0, 1)]
     (s.drvSt 2).lowUp = some 0 ∧ s.drvState 2 = dSHORT ∧ (s.drvSt 2).pending ≠ 0 ∧ s.flag (R.MD_STAT_FAULT 2) = false ∧
       s.getI (R.BRK_VBUS (s.get (R.MD_CFG_BUS 2))) < (s.get (R.BRK_THR2_VSHORT (s.get (R.MD_CFG_BUS 2))) : Int) * 4096) ∧
    (let s := driving dSHORT { lowUp := some 0 } [(R.BRK_THR2_VSHORT 0, 1), (R.MD_STAT_FAULT 2, 1)]
     (s.drvSt 2).pending = 0 ∧ s.flag (R.MD_STAT_FAULT 2) = true ∧
       s.getI (R.BRK_VBUS (s.get (R.MD_CFG_BUS 2))) < (s.get (R.BRK_THR2_VSHORT (s.get (R.MD_CFG_BUS 2))) : Int) * 4096) ∧
    (let s := driving dSHORT { lowUp := some 0 } [(R.BRK_THR2_VSHORT 0, 1), (R.BRK_VBUS 0, 4096)]
     (s.drvSt 2).lowUp = some 0 ∧ s.drvState 2 = dSHORT ∧ (s.drvSt 2).pending = 0 ∧
       (s.get (R.BRK_THR2_VSHORT (s.get (R.MD_CFG_BUS 2))) : Int) * 4096 ≤ s.getI (R.BRK_VBUS (s.get (R.MD_CFG_BUS 2)))) := by
  decide +kernel
theorem meets_ChoppersAndPosition_chopper :
    (let s : State := { at0 [(R.BRK_CFG_EN 1, 1)] with brk := [(1, { present := true })] }
     s.alive = true ∧ s.flag (R.BRK_CFG_EN 1) = true ∧ s.brkLatched (1 : Fin 2) = false ∧
       (s.brkSt (1 : Fin 2)).present ≠ s.flag (R.BRK_STAT_ON 1) ∧ s.flag (R.BRK_STAT_STUCK 1) = false) ∧
    (State.reset.flag (R.BRK_CFG_EN 1) = false ∧ (State.reset.brkSt (1 : Fin 2)).present = State.reset.flag (R.BRK_STAT_ON 1)) ∧
    (at0 [(R.BRK_STAT_STUCK 1, 1)]).flag (R.BRK_STAT_STUCK 1) = true ∧
    (let s := at0 [(R.BRK_CFG_EN 1, 1), (R.BRK_STAT_ON 1, 1), (R.MD_CFG_BUS 2, 1), (R.MD_STAT_STATE 2, dDECEL)]
     (s.brkSt (1 : Fin 2)).present ≠ s.flag (R.BRK_STAT_ON 1) ∧ s.flag (R.BRK_STAT_OPEN 1) = false ∧ s.get (R.MD_CFG_BUS 2) = (1 : Fin 2)) ∧
    (at0 [(R.BRK_STAT_OPEN 1, 1), (R.BRK_STAT_ON 1, 1)]).brkLatched (1 : Fin 2) = true ∧
    (let s : State := { at0 [(R.BRK_CFG_EN 1, 1), (R.BRK_KV 1, 65535), (R.BRK_CFG_VSLOT 1, 191), (R.BRK_THR2_VSHORT 1, 1), (R.MD_CFG_EN 2, 1),
        (R.MD_CFG_BUS 2, 1), (R.MD_STAT_STATE 2, dRUN)] with adc := { codes := [(191, 32767, 0)] } }
     s.flag (R.MD_CFG_EN 2) = true ∧ s.get (R.MD_CFG_BUS 2) = (1 : Fin 2) ∧ s.drvState 2 ≠ dOFF ∧ s.drvStopped 2 = false ∧
       (s.get (R.BRK_THR2_VSHORT 1) : Int) * 4096 < fmtS 32 16 ((s.slotCode (s.get (R.BRK_CFG_VSLOT 1)) : Rat) * s.get (R.BRK_KV 1) / 2 ^ 24)) := by
  decide +kernel
theorem meets_ChoppersAndPosition_hall :
    (let s := at0 [(R.ARC_CFG_EN 2, 1), (R.ARC_CFG_PPR 2, 100), (R.ARC_STAT_SECTOR 2, 0), (R.ARC_POS_POS 2, 99), (R.ARC_CODE_CODE 2, 1)]
     s.alive = true ∧ s.flag (R.ARC_CFG_EN 2) = true ∧ s.get (R.ARC_STAT_SECTOR 2) < 6 ∧ 0 < s.get (R.ARC_CFG_PPR 2) ∧
       (∃ code : Fin 8, s.get (R.ARC_CODE_CODE 2) ≠ code ∧ hallSector code = 7) ∧
       (∃ code : Fin 8, s.get (R.ARC_CODE_CODE 2) ≠ code ∧ hallSector code = (s.get (R.ARC_STAT_SECTOR 2) + 3) % 6) ∧
       (∃ code : Fin 8, s.get (R.ARC_CODE_CODE 2) ≠ code ∧ hallSector code < 6 ∧
         hallSector code = (s.get (R.ARC_STAT_SECTOR 2) + (if s.flag (R.ARC_CFG_DIR 2) then 5 else 1)) % 6) ∧
       (∃ code : Fin 8, s.get (R.ARC_CODE_CODE 2) ≠ code ∧ hallSector code < 6 ∧
         hallSector code = (s.get (R.ARC_STAT_SECTOR 2) + (if s.flag (R.ARC_CFG_DIR 2) then 1 else 5)) % 6) ∧
       0 < s.get (R.ARC_POS_POS 2) ∧ s.get (R.ARC_POS_POS 2) ≤ s.get (R.ARC_CFG_PPR 2)) ∧
    ((3#2 : BitVec 2).getLsbD 0 = true ∧ (3#2 : BitVec 2).getLsbD 1 = true ∧ (0#2 : BitVec 2).getLsbD 0 = false ∧ (0#2 : BitVec 2).getLsbD 1 = false) ∧
    (let s := at0 [(R.ARC_CFG_EN 2, 1), (R.ARC_STAT_SECTOR 2, 7), (R.ARC_CODE_CODE 2, 1), (R.MD_STAT_HALLMODE 2, 1), (R.MD_STAT_STATE 2, dDECEL)]
     s.flag (R.MD_STAT_HALLMODE 2) = true ∧ s.drvState 2 = dDECEL ∧ s.get (R.ARC_CODE_CODE 2) ≠ (7 : Fin 8)) ∧
    State.reset.get (R.ARC_POS_POS 2) = 0 ∧ State.reset.flag (R.ARC_CFG_EN 2) = false := by decide +kernel
theorem meets_ChoppersAndPosition_index :
    (at0 [(R.ARC_CFG_EN 2, 1), (R.ARC_STAT_HOMEARM 2, 1)]).flag (R.ARC_STAT_HOMEARM 2) = true ∧
    (let s := at0 [(R.ARC_CFG_EN 2, 1)]
     s.flag (R.ARC_STAT_HOMEARM 2) = false ∧ s.flag (R.ARC_STAT_HOMED 2) = false) ∧
    (∀ q ∈ [(10, 0), (12, 2), (8, -2), (13, 3)],
      let s := at0 [(R.ARC_CFG_EN 2, 1), (R.ARC_CFG_IDXEN 2, 1), (R.ARC_STAT_HOMED 2, 1), (R.ARC_CFG_PPR 2, 100), (R.ARC_IDX_IDX_POS 2, 10),
        (R.ARC_POS_POS 2, q.1)]
      s.flag (R.ARC_CFG_EN 2) = true ∧ s.flag (R.ARC_STAT_HOMEARM 2) = false ∧ s.flag (R.ARC_CFG_IDXEN 2) = true ∧
        s.flag (R.ARC_STAT_HOMED 2) = true ∧ s.flag (R.ARC_STAT_SENSOR 2) = false ∧ 0 < s.get (R.ARC_CFG_PPR 2) ∧
        ((s.get (R.ARC_POS_POS 2) : Int) - s.get (R.ARC_IDX_IDX_POS 2) + (s.get (R.ARC_CFG_PPR 2) : Int) / 2) %
          (s.get (R.ARC_CFG_PPR 2) : Int) - (s.get (R.ARC_CFG_PPR 2) : Int) / 2 = q.2) := by decide +kernel
theorem meets_SafetyCycles :
    (let s : State := { State.reset with safe := { xinj := true, oinj := true } }
     s.alive = true ∧ s.safe.xinj = true ∧ s.safe.oinj = true ∧ s.sys.upsets = []) ∧
    (let s : State := { State.reset with safe := { nextA := 1 + 2 ^ 16 } }
     newBits s.safe.nextA s.safe.demA % 2 ^ 16 ≠ 0 ∧ newBits s.safe.nextA s.safe.demA / 2 ^ (16 + 8 * (0 : Fin 3).val) % 64 ≠ 0) ∧
    (let s : State := { State.reset with safe :=
        { parB := [((R.SIN_CFG_PLANT 7).addr, BitVec.ofNat 32 (2 ^ (R.SIN_CFG_PLANT 7).lo))] } }
     s.pairOn true (7 : Fin 8) R.SIN_CFG_PLANT = true ∧ s.safe.demB.testBit (7 : Fin 8) = false) ∧
    State.reset.flag (R.SIN_STAT_DISCF 7) = false ∧
    (let s : State := { State.reset with safe := { discUp := [(7, some 0)] } }
     earliest (s.discDue (7 : Fin 8) true) (s.discDue (7 : Fin 8) false) = some (0 + msQ (s.sparOf false (R.SIN_CFG_DISC 7)))) ∧
    earliest (State.reset.discDue (7 : Fin 8) true) (State.reset.discDue (7 : Fin 8) false) = none ∧
    (let s : State := { at0 ((R.SCONN_STAT_STATE 1, 2) :: ringed 42 4 0 0) with safe := { conns := [(1, { wdUp := some 0 })] } }
     s.alive = true ∧ (s.connSt (1 : Fin 2)).wdUp = some 0 ∧ s.get (R.SCONN_STAT_STATE 1) = 2 ∧ s.ringTakes 42 = true) ∧
    ((State.reset.connSt (1 : Fin 2)).wdUp = none ∧ State.reset.get (R.SCONN_STAT_STATE 1) = 0) ∧
    (let s := at0 ((R.SCONN_STAT_STATE 1, 1) :: ringed 42 4 0 16)
     s.get (R.SCONN_STAT_STATE 1) = 1 ∧ s.ringTakes 42 = false) ∧
    (at0 [(R.SCONN_STAT_STATE 1, 3)]).get (R.SCONN_STAT_STATE 1) = 3 := by decide +kernel
theorem meets_SafetyFaults :
    (State.reset.alive = true ∧ (256#9 : BitVec 9).getLsbD (8 : Fin 9) = true ∧ (256#9 : BitVec 9) ≠ 0#9 ∧
      State.reset.get R.SAFE_FAULT_FAULT = 0 ∧ State.reset.safe.crossUp = none ∧ State.reset.startJudged = false) ∧
    (let s : State := { at0 [(R.SAFE_OUT_STAT_ON.bit 1, 1)] with safe := { crossUp := some 0 } }
     s.alive = true ∧ s.safe.crossUp = some 0 ∧ s.outOn (1 : Fin 4) = true ∧ s.fbChecked (1 : Fin 4) = true ∧ s.outOn (0 : Fin 4) = false ∧
       s.fbChecked (0 : Fin 4) = true ∧ s.welded (0 : Fin 4) = false) ∧
    (({ State.reset with safe := { par := [(R.SAFE_OUT_CFG_FBEN.addr, 0#32)] } } : State).fbChecked (3 : Fin 4) = false ∧ (at0 [(R.SAFE_OUT_STAT_WELD.bit 0, 1)]).welded (0 : Fin 4) = true) ∧
    (∀ b ∈ [0, 1], let s := at0 [(R.SAFE_MRAM_BUILTIN, b)]
      s.flag R.SAFE_MRAM_BUILTIN = decide (b = 1) ∧ s.startJudged = false ∧ s.safe.badLoad = false) ∧
    ({ State.reset with safe := { badLoad := true } } : State).safe.badLoad = true ∧
    ((State.reset.get R.SAFE_FAULT_FAULT).testBit 3 = false ∧ (at0 [(R.SAFE_OUT_STAT_ON.bit 0, 1)]).outOn (0 : Fin 4) = true ∧
      (at0 [(R.SAFE_FAULT_FAULT, 8)]).get R.SAFE_FAULT_FAULT ≠ 0) ∧
    (at0 [(R.SAFE_STAT_STARTOK, 1)]).startJudged = true := by decide +kernel
theorem meets_HarvestAndClock :
    (let s : State := { State.reset with org := { onUp := some 0, ta := 1024, prevCell := 3850 } }
     s.org.vkeep = true ∧ s.flag R.ORIGIN_STAT_HPRES = false ∧ s.org.onUp = some 0 ∧ 1024 ≤ s.org.ta + s.getI R.ORIGIN_RTC_TRIM ∧
       3300 ≤ s.org.prevCell ∧ 3300 ≤ (3300 : Fin 65536).val) ∧
    (let s : State := { at0 [(R.ORIGIN_STAT_HPRES, 1)] with org := { offUp := some 0, prevCell := 3850, ta := -1024 } }
     s.flag R.ORIGIN_STAT_HPRES = true ∧ s.org.offUp = some 0 ∧ 3850 ≤ (3850 : Fin 65536).val ∧ 3850 ≤ s.org.prevCell ∧
       s.org.ta + s.getI R.ORIGIN_RTC_TRIM ≤ -1024) ∧
    ((if State.reset.flag R.ORIGIN_STAT_HPRES then State.reset.org.offUp else State.reset.org.onUp) = none) ∧
    (let s : State := { State.reset with org := { prevCell := 3199 } }
     s.org.prevCell < 3300 ∧ s.org.prevCell < 3200 ∧ (3199 : Fin 65536).val < 3200 ∧ -1024 < s.org.ta + s.getI R.ORIGIN_RTC_TRIM ∧
       s.org.ta + s.getI R.ORIGIN_RTC_TRIM < 1024) ∧
    (∀ st ∈ [0, 1, 2, 3, 4],
      let s := at0 [(R.ORIGIN_STAT_CHGSTATE, st), (R.ORIGIN_STAT_HPRES, 1), (R.ORIGIN_CHG_EN, 1), (R.ORIGIN_THERM_TEMP, 45)]
      s.org.vkeep = true ∧ s.chargeOk = true ∧ s.get R.ORIGIN_STAT_CHGSTATE = st) ∧
    (at0 [(R.ORIGIN_STAT_CHGSTATE, 5)]).get R.ORIGIN_STAT_CHGSTATE = 5 := by decide +kernel
theorem meets_HarvestAndClock_clock :
    (let s : State := { ticking mSTANDBY [(R.TIME_STAT_TLOCK, 1), (R.ORIGIN_CTL_AUTOTRIM, 1)] with org := { learnFrom := some 0 } }
     s.alive = true ∧ s.time.run = true ∧ s.tlock = true ∧ s.flag R.ORIGIN_CTL_AUTOTRIM = true ∧ s.org.learnFrom = some 0 ∧ s.org.vkeep = true) ∧
    (at0 [(R.ORIGIN_CTL_AUTOTRIM, 0)]).flag R.ORIGIN_CTL_AUTOTRIM = false ∧
    (let s : State := { at0 [(R.ORIGIN_STAT_CUT, 0)] with org := { cold := true } }
     (-128 : Int) ≤ -128 ∧ (-128 : Int) ≤ 127 ∧ s.flag R.ORIGIN_STAT_CUT = false ∧ -128 < s.getI R.ORIGIN_THERM_CYC_LO ∧
       s.getI R.ORIGIN_THERM_CYC_LO ≤ s.getI R.ORIGIN_THERM_CYC_HI ∧ s.org.cold = true ∧ s.getI R.ORIGIN_THERM_CYC_HI < 127) ∧
    (at0 [(R.ORIGIN_STAT_CUT, 1)]).flag R.ORIGIN_STAT_CUT = true ∧ State.reset.time.run = false ∧
    ({ State.reset with org := { vkeep := false } } : State).org.vkeep = false := by decide +kernel
theorem meets_CheckpointMemory :
    (let s : State := { State.reset with org := { stage := some [] } }
     s.org.vkeep = true ∧ s.alive = true ∧ s.org.burst = [] ∧ s.org.stage = some [] ∧ s.get R.ORIGIN_CKP_ACTN < 65536 ∧
       s.wrongBits 9 (ckAddr (s.get R.ORIGIN_CKP_STAT_ACTIVE) s.nextSlot + 62) ≠ 2 ∧ s.org.retired.testBit (s.get R.ORIGIN_CKP_STAT_ACTIVE) = false ∧ s.org.retired.testBit (15 : Fin 16) = false ∧
       (15 : Fin 16).val ≠ s.get R.ORIGIN_CKP_STAT_ACTIVE ∧ (15 : Fin 16).val ≠ s.nextRec (s.get R.ORIGIN_CKP_STAT_ACTIVE)) ∧
    (let s : State := { State.reset with sys := { State.reset.sys with upsets := [(9, ckAddr 0 State.reset.nextSlot + 62, true)] } }
     s.get R.ORIGIN_CKP_STAT_ACTIVE = 0 ∧ s.wrongBits 9 (ckAddr 0 s.nextSlot + 62) = 2) ∧
    (let s : State := { at0 [(R.ORIGIN_CKP_ACTN, 65536)] with org := { stage := some [], retired := 1 } }
     s.org.stage = some [] ∧ 65536 ≤ s.get R.ORIGIN_CKP_ACTN ∧ s.org.retired.testBit (s.get R.ORIGIN_CKP_STAT_ACTIVE) = true) ∧
    State.reset.org.stage = none ∧
    (let s := at0 [(R.ORIGIN_STAT_RAILS, 0), (R.ORIGIN_STAT_CUT, 0)]
     s.org.vkeep = true ∧ s.rails = false ∧ s.flag R.ORIGIN_STAT_CUT = false ∧ s.org.burst = []) ∧
    (at0 [(R.ORIGIN_STAT_RAILS, 0), (R.ORIGIN_STAT_CUT, 1)]).flag R.ORIGIN_STAT_CUT = true ∧
    (at0 [(R.ORIGIN_STAT_RAILS, 1)]).rails = true ∧
    (let s : State := { State.reset with org := { burst := [.pfailDone] } }
     s.org.burst ≠ [] ∧ s.org.vkeep = true ∧ finalSteps s.org.burst = true) ∧
    (let s : State := { State.reset with org := { vkeep := false, retired := 2 ^ 9 - 1 } }
     s.org.vkeep = false ∧ ((List.range 16).filter fun q => !s.org.retired.testBit q).length < 8) ∧
    (let s := at0 [(R.ORIGIN_BCOST_HOUSE, 0), (R.ORIGIN_STORE_RESERVE, 0)]
     s.gate (s.get R.ORIGIN_BCOST_HOUSE) = true) ∧
    (let s := at0 [(R.ORIGIN_BCOST_HOUSE, 1), (R.ORIGIN_STORE_CAP, 0)]
     s.gate (s.get R.ORIGIN_BCOST_HOUSE) = false) ∧
    (State.reset.mramRead (baselineAddr 2) 4 = 0xFFFFFFFF ∧ State.reset.mramBad (baselineAddr 2) 4 = false ∧
      State.reset.wordsHit 3 (baselineAddr 2) 4 false = [] ∧
      ({ State.reset with sys := { State.reset.sys with upsets := [(3, baselineAddr 2 / 16, true)] } } : State).mramBad (baselineAddr 2) 4 = true ∧
      ({ State.reset with sys := { State.reset.sys with upsets := [(3, baselineAddr 2 / 16, false)] } } : State).mramBad (baselineAddr 2) 4 = false ∧
      (State.reset.mramStore (baselineAddr 2) [0#8]).mramBad (baselineAddr 2) 4 = false ∧
      (State.reset.mramStore (baselineAddr 2) [0#8]).mramRead (baselineAddr 2) 4 ≠ 0xFFFFFFFF) := by decide +kernel
theorem meets_ClockMonitors : State.reset.alive = true ∧ monBits 10#9 25000000#32 = 10 ∧ monBits 0#9 24000000#32 = 0 ∧
    monBits 0#9 26000001#32 = 1 ∧ (10#9 : BitVec 9).getLsbD 3 = true ∧ (10#9 : BitVec 9).getLsbD 1 = true ∧
    (8#9 : BitVec 9).getLsbD 1 = false ∧ State.reset.majorMode ≠ mDARK ∧
    (let s : State := { State.reset with sys := { State.reset.sys with inReset := true } }
     s.majorMode ≠ mDARK ∧ s.sys.inReset = true) ∧
    (at0 [(R.SYS_MODE_STAT_MODE, mDARK)]).majorMode = mDARK ∧ refBad 24000000#32 = false ∧ refBad 23999999#32 = true := by decide +kernel
/-- The first tick of WAKE, with BOOTSEL, over an embedded MRAM. -/
def searching (b : Nat) (s : State) : State := { ticking mWAKE [] with mram := s.mram, sys := { State.reset.sys with bootsel := b } }
/-- An MRAM whose boot area has the digest of the public key G (of the private key 1) as its first, and the floor 0. -/
def keyed : State :=
  (State.reset.mramStore (keyAddr 0) (leBytes 32 0x970712fce5b339aeafde27b402bf49669d11642c558018102924fb715b5155a9)).mramStore floorAddr
    (leBytes 4 0)
/-- The public key G as the operands that name it. -/
def keyG : Keys := ([BitVec.ofNat 256 p256G.1], [BitVec.ofNat 256 p256G.2])
/-- Images signed with the private key 1, the signatures' nonce being 1: one with a section of each kind but a load list, and one with a
load list of one pair, whose address no page has. -/
def imageA : List Byte := leBytes 192
  0xf8343917e7a7ffb4b3baa44ef453f7f60620883eabebc977e43a4941e57df2be6b17d1f2e12c4247f8bce6e563a440f277037d812deb33a0f4a13945d898c296000000000000000000000000000000ab22222222111111110123456789abcdef003fffff00000001000000700000000500000400000000040000006c0000000400000001000000040000006800000003000000000000000800000060000000020000000000000000000000040000100000000007000000c06400000136344859
def imageB : List Byte := leBytes 128
  0x49b87c5e0061d1f57dc26c8cbce04ede4a596e6789cfa31c906c99b0ae3377756b17d1f2e12c4247f8bce6e563a440f277037d812deb33a0f4a13945d898c2960000000000000000000000053ffffffc000000000000000800000030000000010000000000000000000000010000004000000000000000806400000136344859
theorem meets_BootAndTestPort :
    (∀ b ∈ [0, 1, 2, 3], let s := searching b State.reset
      ready s = true ∧ s.time.run = true ∧ s.sys.bootDone = false ∧ s.get R.SYS_BOOT_SOURCE ≠ 5 ∧ s.sys.bootsel = b ∧
        s.judgeSlot [] [] 1 ([], []) = .error 1 ∧ s.judgeSlot [] [] 2 ([], []) = .error 1 ∧ s.judgeSlot [] [] 3 ([], []) = .error 6 ∧
        s.judgeSlot [] [] 4 ([], []) = .error 6) ∧
    slotOrder 0 = [1, 2, 3, 4] ∧ slotOrder 1 = [3, 4, 1, 2] ∧
    (∀ m : Fin 3, State.reset.mramBad (baselineAddr m) 4 = false ∧ State.reset.wordsHit 3 (baselineAddr m) 4 false = [] ∧
      (State.reset.mramStore (baselineAddr m) [0#8]).mramBad (baselineAddr m) 4 = false ∧
      (State.reset.mramStore (baselineAddr m) [0#8]).mramRead (baselineAddr m) 4 ≠ 0xFFFFFFFF) ∧
    State.reset.alive = true ∧ State.reset.time.run = false ∧ State.reset.sys.bootsel ≠ 3 ∧ State.reset.sys.inReset = false ∧
    (searching 3 State.reset).alive = true ∧ (at0 [(R.SYS_BOOT_SOURCE, 5)]).get R.SYS_BOOT_SOURCE = 5 ∧
    ({ State.reset with sys := { State.reset.sys with bootDone := true } } : State).sys.bootDone = true ∧
    (let s : State := { State.reset with sys := { State.reset.sys with bootsel := 3, inReset := true, rstSrc := 16, sealed := false } }
     s.alive = false ∧ s.sys.inReset = true ∧ s.sys.rstSrc.testBit 4 = true ∧ s.sys.bootsel = 3 ∧ s.sys.sealed = false) := by decide +kernel
theorem meets_BootAndTestPort_image :
    (let s := searching 0 keyed
     ready s = true ∧ s.time.run = true ∧ s.sys.bootDone = false ∧ s.get R.SYS_BOOT_SOURCE ≠ 5 ∧ slotOrder s.sys.bootsel = [1, 2] ++ 3 :: [4] ∧
       s.judgeSlot imageA [] 1 keyG = .error 1 ∧ s.judgeSlot imageA [] 2 keyG = .error 1 ∧
       s.judgeSlot imageA [] 3 keyG = .ok (⟨192, 7, 0x1000, 4, 0⟩, [⟨2, 0x60, 8, 0⟩, ⟨3, 0x68, 4, 1⟩, ⟨4, 0x6C, 4, 0x400⟩, ⟨5, 0x70, 1, 0x3FFFFF⟩]) ∧
       s.slotBytes imageA [] 3 0x60 8 = leBytes 8 0x0123456789ABCDEF ∧ s.slotBytes imageA [] 3 0x68 4 = leBytes 4 0x11111111 ∧
       s.slotBytes imageA [] 3 0x6C 4 = leBytes 4 0x22222222 ∧ s.slotBytes imageA [] 3 0x70 1 = [0xAB#8]) := by decide +kernel
theorem meets_BootAndTestPort_list :
    (let s := searching 1 keyed
     ready s = true ∧ s.time.run = true ∧ s.sys.bootDone = false ∧ s.get R.SYS_BOOT_SOURCE ≠ 5 ∧ slotOrder s.sys.bootsel = [] ++ 3 :: [4, 1, 2] ∧
       s.judgeSlot imageB [] 3 keyG = .ok (⟨128, 0, 0x40, 1, 0⟩, [⟨1, 0x30, 8, 0⟩]) ∧
       imageWords 4 (8 / 8 * 2) (s.slotBytes imageB [] 3 0x30 8) = [0x3FFFFFFC, 5] ∧ findPage 0x3FFFFFFC = none) := by decide +kernel
/-- Wrong bits in the last word of the SRAM and of the embedded MRAM, with WEN 1. -/
def flawed (double : Bool) : State :=
  { at0 [(R.SAFE_MRAM_WEN, 1)] with sys := { State.reset.sys with upsets := [(2, 0x7FFFF, double), (3, 0x7FFFF, double)] } }
theorem meets_HostMemories :
    (let s := at0 [(R.SAFE_MRAM_WEN, 1)]
     s.alive = true ∧ s.initiates mHost = true ∧ ([0#8] : List Byte) ≠ [] ∧ 0x3FFFFF + ([0#8] : List Byte).length ≤ 0x400000 ∧
       s.wordsHit 2 0x3FFFFF 1 true = [] ∧ s.wrongBits 2 (0x3FFFFF / 8) = 0 ∧ 0x7FFFFF + ([0#8] : List Byte).length ≤ 0x800000 ∧
       0x780000 ≤ 0x7FFFFF ∧ s.flag R.SAFE_MRAM_WEN = true ∧ s.wordsHit 3 0x7FFFFF 1 true = [] ∧ s.wrongBits 3 (0x7FFFFF / 16) = 0 ∧
       0x780000 ≤ 0x7FFFF8 ∧ 0x7FFFF8 + 8 ≤ 0x800000 ∧ s.wordsHit 3 0x7FFFF8 8 true = []) ∧
    (let s := unsealed State.reset
     0x77FFFF + ([0#8] : List Byte).length ≤ 0x780000 ∧ s.sys.sealed = false ∧ s.wordsHit 3 0x77FFFF 1 true = []) ∧
    (∀ double ∈ [false, true], let s := flawed double
      s.alive = true ∧ s.initiates mHost = true ∧ s.flag R.SAFE_MRAM_WEN = true ∧
        (∀ q ∈ [(2, 0x3FFFFF, 0x7FFFF), (3, 0x7FFFFF, 0x7FFFF)], s.wordsHit q.1 q.2.1 1 true = [q.2.2] ∧
          s.wordsHit q.1 q.2.1 1 false = [q.2.2] ∧ s.wrongBits q.1 q.2.2 = if double then 2 else 1) ∧
        s.wordsHit 2 0x3FFFF8 8 true = [] ∧ s.wordsHit 3 0x7FFFF0 16 true = []) ∧
    (State.reset.flag R.SAFE_MRAM_WEN = false ∧ 0x780000 < 0x780000 + ([0#8] : List Byte).length ∧ State.reset.sys.sealed = true ∧
      0x77F000 < 0x77F000 + ([0#8] : List Byte).length) ∧
    0x3FFFFF < 0x400000 ∧ 0x7FFFFF < 0x800000 ∧
    0x400000 < 0x400000 + max 1 ((none : Option (List Byte)).getD []).length ∧ 0x77FFF8 < 0x780000 ∧
    State.reset.initiates coreTwo = false := by decide +kernel

/-! ## Vertex -/

/-- An instruction word (R250): opcode, D, A, B, N, MSEL with ME, EXP, AREG with AM, ADDR. -/
def insWord (op d a b n exp areg am addr : Nat) : Nat :=
  op * 2 ^ 58 + d * 2 ^ 54 + a * 2 ^ 50 + b * 2 ^ 46 + (n - 1) * 2 ^ 40 + exp * 2 ^ 28 + areg * 2 ^ 25 + am * 2 ^ 23 + addr
/-- The program runs at its first word, which is `w`. -/
def atWord (w : Nat) : State := { State.reset with ce := { running := true, prog := [(0, w)] } }
/-- The first word is the instruction, legal and not upset, and issues in time. -/
def issuesAt (s : State) (w : Nat) (op : Nat) : Bool :=
  let d : Dword := BitVec.ofNat 64 w
  let i := Ins.of d.toNat
  s.vFetches d && !i.illegal && decide (s.ce.clk < s.vSpan) && decide (s.vStart i + i.issue ≤ s.vSpan) &&
    decide (s.wrongBits 4 (s.progAddr s.ce.pc) ≠ 2) && i.op == op
theorem issues_of {s : State} {w op : Nat} (h : issuesAt s w op = true) :
    s.VIssues (BitVec.ofNat 64 w) ∧ (Ins.of (BitVec.ofNat 64 w).toNat).op = op := by
  simp only [issuesAt, Bool.and_eq_true, Bool.not_eq_true', decide_eq_true_eq, beq_iff_eq] at h
  exact ⟨⟨h.1.1.1.1.1, h.1.1.1.1.2, h.1.1.1.2, h.1.1.2, h.1.2⟩, h.2⟩
/-- A load of n words from an address goes through. -/
def loads (s : State) (a n : Nat) : Prop := ∀ k, k < n → s.vLoadable (a + k)
theorem loads_of {s : State} {a n : Nat} (h : (List.range n).all (fun k =>
    !(decide (0x3A0 ≤ (a + k) % 65536) && decide ((a + k) % 65536 < 0x400)) && !s.ce.err2.contains ((a + k) % 65536)) = true) : loads s a n := by
  intro k hk
  have := List.all_eq_true.mp h k (List.mem_range.mpr hk)
  simp only [Bool.and_eq_true, Bool.not_eq_true', Bool.and_eq_false_iff, decide_eq_false_iff_not] at this
  refine ⟨fun hh => ?_, fun hm => ?_⟩
  · rcases this.1 with h1 | h1
    · exact h1 hh.1
    · exact h1 hh.2
  · have := this.2
    rw [List.contains_iff_mem.mpr hm] at this
    cases this
/-- Without an upset every coefficient that exists can be read. -/
theorem coefs_of {s : State} {a n : Nat} (h : s.sys.upsets = []) (ha : a + n ≤ 0x2000) : s.vCoefs a n :=
  ⟨ha, fun k _ => by simp [State.wrongBits, h]⟩

theorem meets_StageResults : ∀ op ∈ [0x08, 0x09, 0x0A, 0x0C, 0x0D, 0x0E, 0x0F, 0x10, 0x13, 0x18, 0x1B, 0x1C, 0x1D, 0x1E],
    (atWord (insWord op 15 1 2 64 0 0 0 0)).VIssues (BitVec.ofNat 64 (insWord op 15 1 2 64 0 0 0 0)) ∧
      (Ins.of (BitVec.ofNat 64 (insWord op 15 1 2 64 0 0 0 0)).toNat).op = op := fun op h =>
  issues_of ((by decide +kernel : ∀ op ∈ [0x08, 0x09, 0x0A, 0x0C, 0x0D, 0x0E, 0x0F, 0x10, 0x13, 0x18, 0x1B, 0x1C, 0x1D, 0x1E],
    issuesAt (atWord (insWord op 15 1 2 64 0 0 0 0)) (insWord op 15 1 2 64 0 0 0 0) op = true) op h)
theorem meets_MemoryOperands :
    (∀ op ∈ [0x02, 0x03, 0x0B, 0x11, 0x12],
      (atWord (insWord op 15 1 2 2 0 7 2 0x1FFE)).VIssues (BitVec.ofNat 64 (insWord op 15 1 2 2 0 7 2 0x1FFE)) ∧
        (Ins.of (BitVec.ofNat 64 (insWord op 15 1 2 2 0 7 2 0x1FFE)).toNat).op = op) ∧
    (let s := atWord (insWord 0x02 15 1 2 2 0 7 2 0x1FFE)
     s.vAddr (Ins.of (BitVec.ofNat 64 (insWord 0x02 15 1 2 2 0 7 2 0x1FFE)).toNat) = 0x1FFE ∧ loads s 0x1FFE 2 ∧ s.vCoefs 0x1FFE 2) ∧
    (loads (atWord 0) 0x39F 1 ∧ loads (atWord 0) 0x400 64) :=
  ⟨fun op h => issues_of ((by decide +kernel : ∀ op ∈ [0x02, 0x03, 0x0B, 0x11, 0x12],
    issuesAt (atWord (insWord op 15 1 2 2 0 7 2 0x1FFE)) (insWord op 15 1 2 2 0 7 2 0x1FFE) op = true) op h),
    ⟨by decide +kernel, loads_of (by decide +kernel), coefs_of rfl (by decide)⟩, loads_of (by decide +kernel), loads_of (by decide +kernel)⟩
theorem meets_AccumulatorsAndPack :
    (∀ op ∈ [0x14, 0x15, 0x16, 0x17],
      (atWord (insWord op 3 1 2 64 0 0 0 0x1FFF)).VIssues (BitVec.ofNat 64 (insWord op 3 1 2 64 0 0 0 0x1FFF)) ∧
        (Ins.of (BitVec.ofNat 64 (insWord op 3 1 2 64 0 0 0 0x1FFF)).toNat).op = op) ∧
    (atWord 0).vCoefs 0x1FFF 1 ∧
    ((pack ([⟨1, 0⟩].map .dy) none).2.2 = none ∧ (pack ([⟨2 ^ 40, 120⟩].map .dy) none).2.2.isSome = true) :=
  ⟨fun op h => issues_of ((by decide +kernel : ∀ op ∈ [0x14, 0x15, 0x16, 0x17],
    issuesAt (atWord (insWord op 3 1 2 64 0 0 0 0x1FFF)) (insWord op 3 1 2 64 0 0 0 0x1FFF) op = true) op h), coefs_of rfl (by decide),
    by decide +kernel⟩
/-- The program's first word, with one wrong bit. -/
def flawedAt (w : Nat) : State := { atWord w with sys := { State.reset.sys with upsets := [(4, 0, false)] } }
theorem meets_MasksJumpsAndLoops :
    (∀ op ∈ [0x00, 0x19, 0x1A, 0x07, 0x06, 0x20, 0x21, 0x22, 0x23],
      (atWord (insWord op 3 1 2 64 0 0 0 0x1FFF)).VIssues (BitVec.ofNat 64 (insWord op 3 1 2 64 0 0 0 0x1FFF)) ∧
        (Ins.of (BitVec.ofNat 64 (insWord op 3 1 2 64 0 0 0 0x1FFF)).toNat).op = op) ∧
    loads (atWord 0) 0x1FFF 1 ∧
    ((Ins.of (BitVec.ofNat 64 (insWord 0x23 3 1 2 64 0 0 0 0x1FFF)).toNat).addr < 8192 ∧ (atWord 0).ce.loops.length < 4 ∧
      (atWord 0).wrongBits 4 ((atWord 0).progAddr (atWord 0).ce.pc) = 0) ∧
    (∀ op ∈ [0x00, 0x07, 0x19, 0x1A, 0x20, 0x21, 0x22, 0x23], let s := flawedAt (insWord op 3 1 2 64 0 0 0 0x1FFF)
      issuesAt s (insWord op 3 1 2 64 0 0 0 0x1FFF) op = true ∧ s.wrongBits 4 (s.progAddr s.ce.pc) = 1 ∧ s.alive = true ∧
        s.ce.loops.length < 4 ∧ (Ins.of (BitVec.ofNat 64 (insWord op 3 1 2 64 0 0 0 0x1FFF)).toNat).addr < 8192) :=
  ⟨fun op h => issues_of ((by decide +kernel : ∀ op ∈ [0x00, 0x19, 0x1A, 0x07, 0x06, 0x20, 0x21, 0x22, 0x23],
    issuesAt (atWord (insWord op 3 1 2 64 0 0 0 0x1FFF)) (insWord op 3 1 2 64 0 0 0 0x1FFF) op = true) op h), loads_of (by decide +kernel),
    by decide +kernel, by decide +kernel⟩
/-- The same with two wrong bits in data word 0x402 and in coefficient 0x1FFF, and four loops open. -/
def wounded (w : Nat) : State :=
  { State.reset with ce := { running := true, prog := [(0, w)], err2 := [0x402], loops := List.replicate 4 ⟨1, 9, 2⟩ },
                     sys := { State.reset.sys with upsets := [(6, 0x1FFF, true)] } }
/-- Opcodes and addresses of words of one element (but ST: 32) that store, end or fault. -/
def stops : List (Nat × Nat) :=
  [(0x04, 0x400), (0x04, 0x380), (0x05, 127), (0x01, 0), (0x03, 0x2000), (0x0B, 0x2000), (0x11, 0x1FFF), (0x16, 0x2000), (0x17, 0x2000),
   (0x03, 0x1FFF), (0x0B, 0x1FFF), (0x11, 0x1FFE), (0x16, 0x1FFF), (0x17, 0x1FFF), (0x20, 0x2000), (0x21, 0x2000), (0x22, 0x2000),
   (0x23, 0x2000), (0x04, 0x37F), (0x04, 0x381), (0x04, 0x3A0), (0x04, 0x3FF), (0x05, 128), (0x02, 0x3A0), (0x02, 0x402), (0x06, 0x3FF),
   (0x06, 0x402), (0x23, 0)]
def stopWord (q : Nat × Nat) : Nat := insWord q.1 3 1 2 (if q.1 = 0x04 then 32 else 1) 0 0 0 q.2
theorem meets_StoresFaultsAndEnd :
    (∀ q ∈ stops, (wounded (stopWord q)).VIssues (BitVec.ofNat 64 (stopWord q)) ∧ (Ins.of (BitVec.ofNat 64 (stopWord q)).toNat).op = q.1) ∧
    (let s := atWord (0x1F * 2 ^ 58)
     s.vFetches (BitVec.ofNat 64 (0x1F * 2 ^ 58)) = true ∧ s.ce.clk < s.vSpan ∧ s.wrongBits 4 (s.progAddr s.ce.pc) ≠ 2 ∧
       (Ins.of (BitVec.ofNat 64 (0x1F * 2 ^ 58)).toNat).illegal = true) ∧
    (let s : State := { atWord (stopWord (0x01, 0)) with sys := { State.reset.sys with upsets := [(4, 0, true)] } }
     s.vFetches (BitVec.ofNat 64 (stopWord (0x01, 0))) = true ∧ s.ce.clk < s.vSpan ∧ s.wrongBits 4 (s.progAddr s.ce.pc) = 2 ∧
       (Ins.of (BitVec.ofNat 64 (stopWord (0x01, 0))).toNat).op = 0x01) ∧
    (let i := fun (q : Nat × Nat) => Ins.of (BitVec.ofNat 64 (stopWord q)).toNat
     let s := wounded 0
     (∀ q ∈ stops, q.1 < 0x20 → s.vAddr (i q) = q.2 ∧ (i q).n = if q.1 = 0x04 then 32 else 1) ∧ s.wrongBits 6 0x1FFF = 2 ∧
       (i (0x23, 0)).addr < 8192 ∧ (i (0x23, 0x2000)).addr = 0x2000 ∧ 4 ≤ s.ce.loops.length ∧ 0x402 ∈ s.ce.err2 ∧
       ∀ k, k < 32 → 0x380 ≤ (0x380 + k) % 65536 ∧ (0x380 + k) % 65536 < 0x3A0) ∧
    (let s : State := { wounded 0 with ce := { (wounded 0).ce with slotNew := [127], predNew := [31] } }
     127 ∈ s.ce.slotNew ∧ 126 ∉ s.ce.slotNew ∧ 31 ∈ s.ce.predNew ∧ 30 ∉ s.ce.predNew ∧ s.wrongBits 4 (s.progAddr s.ce.pc) = 0) ∧
    (State.reset.vFetches 0 = false ∧ (atWord 0).vSpan ≤ ({ (atWord 0) with ce := { (atWord 0).ce with clk := 3600 } } : State).ce.clk) :=
  ⟨fun q h => issues_of ((by decide +kernel : ∀ q ∈ stops, issuesAt (wounded (stopWord q)) (stopWord q) q.1 = true) q h),
    by decide +kernel, by decide +kernel, by decide +kernel, by decide +kernel, by decide +kernel⟩

end Sys2Proof.Tests
end

/-! PROOFS of the family of registers, rings and events: reads (R28), the log engine (R55, R56) and tagged requests (R48, R49, R154). -/

namespace Sys2Proof.Machine

open Sys2Proof

/-! ## Bytes in memory -/

theorem leBytes_length (n v : Nat) : (leBytes n v).length = n := by
  induction n generalizing v with
  | zero => rfl
  | succ n ih => simp [leBytes, ih]

theorem leNat_leBytes (n v : Nat) : leNat (leBytes n v) = v % 256 ^ n := by
  induction n generalizing v with
  | zero => simp [leBytes, leNat, Nat.mod_one]
  | succ n ih => simp [leBytes, leNat, ih, Nat.pow_succ', Nat.mod_mul]

theorem getMany_setMany {α : Type} [DecidableEq α] (d : Nat → α) (vs : List α) (t : Tab α) (k : Nat) :
    Tab.getMany d (Tab.setMany d t k vs) k vs.length = vs := by
  induction vs generalizing t k with
  | nil => rfl
  | cons v vs ih =>
    have head : Tab.get d (Tab.setMany d (Tab.set d t k v) (k + 1) vs) k = v := by
      rw [Tab.get_setMany_ne _ _ _ _ _ (by omega), Tab.get_set_same]
    simp [Tab.setMany, Tab.getMany, head, ih]

/-- What has been written to the shared SRAM is read there, and the other bytes are as they were. -/
theorem State.sramRead_sramWrite (s : State) (a n v : Nat) : (s.sramWrite a n v).sramRead a n = v % 256 ^ n := by
  have h := getMany_setMany memDefault (leBytes n v) s.sram a
  rw [leBytes_length] at h
  exact (congrArg leNat h).trans (leNat_leBytes n v)
theorem State.sramByte_sramWrite_ne (s : State) (a n v b : Nat) (h : b < a ∨ a + n ≤ b) :
    (s.sramWrite a n v).sramByte b = s.sramByte b :=
  Tab.get_setMany_ne _ _ _ _ _ (by rwa [leBytes_length])

/-! ## What a field reads -/

theorem State.get_of_reg {s t : State} {f : Fld} (h : t.reg f.addr = s.reg f.addr) : t.get f = s.get f :=
  congrArg (fieldOf · f.hi f.lo) h

/-- A field that is a whole register reads as what was written to it. -/
theorem State.get_put_word (s : State) {f : Fld} (v : Nat) (hh : f.hi = 31) (hl : f.lo = 0) : (s.put f v).get f = v % 2 ^ 32 := by
  rw [State.get_put s f v ⟨by omega, by omega⟩, hh, hl]

/-! ## What lies beside the rings

A ring's engine writes registers, the shared SRAM, the record of memory errors and events. All else is `State.besideRings`. -/

/-- The state without what the operations of the rings write: registers, the shared SRAM, the record of memory errors, and of the log engine
the events on their way and the counts of lost ones. -/
def State.besideRings (s : State) : State :=
  { s with regs := [], sram := [], sys := State.reset.sys, log := { buf := s.log.buf, run := s.log.run } }

/-- Two states that agree beside the rings agree in each such field. -/
theorem State.fields_of_besideRings {s t : State} (h : t.besideRings = s.besideRings) :
    t.log.buf = s.log.buf ∧ t.log.run = s.log.run ∧ t.time = s.time ∧ t.mram = s.mram ∧ t.ports = s.ports :=
  ⟨congrArg (·.log.buf) h, congrArg (·.log.run) h, congrArg (·.time) h, congrArg (·.mram) h, congrArg (·.ports) h⟩

@[simp] theorem State.put_besideRings (s : State) (f : Fld) (v : Nat) : (s.put f v).besideRings = s.besideRings := (rfl)
@[simp] theorem State.bumpSat_besideRings (s : State) (f : Fld) : (s.bumpSat f).besideRings = s.besideRings := (rfl)
@[simp] theorem State.setLost_besideRings (s : State) (r n : Nat) : (s.setLost r n).besideRings = s.besideRings := (rfl)
@[simp] theorem State.memMend_besideRings (s : State) (mem w : Nat) : (s.memMend mem w).besideRings = s.besideRings := (rfl)
@[simp] theorem State.busError_besideRings (s : State) : s.busError.besideRings = s.besideRings := (rfl)
@[simp] theorem State.sramMend_besideRings (s : State) (a n : Nat) : (s.sramMend a n).besideRings = s.besideRings := (rfl)
@[simp] theorem State.sramWrite_besideRings (s : State) (a n v : Nat) : (s.sramWrite a n v).besideRings = s.besideRings := (rfl)

@[simp] theorem State.emitAt_besideRings (s : State) (t src inst code data : Nat) :
    (s.emitAt t src inst code data).besideRings = s.besideRings := by
  unfold State.emitAt
  split
  · rfl
  · dsimp only
    split <;> rfl
@[simp] theorem State.emit_besideRings (s : State) (src inst code data : Nat) :
    (s.emit src inst code data).besideRings = s.besideRings := s.emitAt_besideRings _ _ _ _ _

@[simp] theorem State.memRead_besideRings (s : State) (mem w : Nat) : (s.memRead mem w).besideRings = s.besideRings := by
  unfold State.memRead State.memReadAt
  split <;> simp

@[simp] theorem State.sramFetch_besideRings (s : State) (a n : Nat) : (s.sramFetch a n).besideRings = s.besideRings := by
  unfold State.sramFetch
  refine State.forEach_eq _ State.besideRings _ (fun t w _ => ?_) s
  split <;> simp

/-- The watermark interrupt is set where the fill stands at the watermark (R44). -/
theorem State.ringMark_eq (s : State) (r : Nat) : s.ringMark r = if s.atMark r = true then s.irq .ring (r / 24) (r % 24) else s := rfl
@[simp] theorem State.ringMark_besideRings (s : State) (r : Nat) : (s.ringMark r).besideRings = s.besideRings := by
  rw [State.ringMark_eq]
  split <;> rfl

@[simp] theorem State.ringDrop_besideRings (s : State) (r : Nat) : (s.ringDrop r).besideRings = s.besideRings := by
  unfold State.ringDrop
  dsimp only
  split <;> simp

@[simp] theorem State.ringPush_besideRings (s : State) (r entry : Nat) : (s.ringPush r entry).besideRings = s.besideRings := by
  unfold State.ringPush
  split
  · split <;> simp
  · rfl

@[simp] theorem State.ringPop_besideRings (s : State) (r : Nat) : (s.ringPop r).besideRings = s.besideRings := by
  simp [State.ringPop]

@[simp] theorem State.reportLost_besideRings (s : State) (r : Nat) : (s.reportLost r).besideRings = s.besideRings := by
  unfold State.reportLost
  dsimp only
  split <;> simp

@[simp] theorem State.writeEv_besideRings (s : State) (e : Ev) : (s.writeEv e).besideRings = s.besideRings := by
  unfold State.writeEv
  dsimp only
  split
  · simp
  · split <;> simp

/-! ## Reads of memory by the ring engine (R19) -/

/-- The registers and the shared SRAM, which a read of memory leaves alone. -/
def State.regsAndSram (s : State) : Tab Word × Tab Byte := (s.regs, s.sram)

theorem State.memRead_regsAndSram (s : State) (mem w : Nat) : (s.memRead mem w).regsAndSram = s.regsAndSram := by
  unfold State.memRead State.memReadAt
  split <;> simp [State.regsAndSram, State.memMend]

theorem State.sramFetch_regsAndSram (s : State) (a n : Nat) : (s.sramFetch a n).regsAndSram = s.regsAndSram := by
  unfold State.sramFetch
  refine State.forEach_eq _ State.regsAndSram _ (fun t w _ => ?_) s
  split
  · exact t.memRead_regsAndSram 2 w
  · exact t.memRead_regsAndSram 2 w
@[simp] theorem State.sramFetch_regs (s : State) (a n : Nat) : (s.sramFetch a n).regs = s.regs :=
  congrArg Prod.fst (s.sramFetch_regsAndSram a n)
@[simp] theorem State.sramFetch_sram (s : State) (a n : Nat) : (s.sramFetch a n).sram = s.sram :=
  congrArg Prod.snd (s.sramFetch_regsAndSram a n)
@[simp] theorem State.sramFetch_reg (s : State) (a n b : Nat) : (s.sramFetch a n).reg b = s.reg b := by simp [State.reg]

/-- Where no word holds an error, a read of memory changes nothing. -/
theorem State.memRead_of_no_upsets {s : State} (h : s.sys.upsets = []) (mem w : Nat) : s.memRead mem w = s := by
  simp [State.memRead, State.memReadAt, State.wrongBits, h]

theorem State.sramFetch_of_no_upsets {s : State} (h : s.sys.upsets = []) (a n : Nat) : s.sramFetch a n = s := by
  unfold State.sramFetch
  induction sramWords a n with
  | nil => rfl
  | cons w ws ih =>
    have none_wrong : s.wrongBits 2 w = 0 := by simp [State.wrongBits, h]
    simpa [State.forEach, none_wrong, State.memRead_of_no_upsets h] using ih

/-! ## Descriptor rings (R43 to R47) -/

/-- The address of the IRQ_STAT register that shows the watermark of ring r. -/
theorem ringIrq_addr (r i : Nat) : ((F.irqStat (pageBase .ring (r / 24))).bit i).addr = 0x40A00014 + 0x1000 * (r / 24) := by
  simp [Fld.bit, F.irqStat, pageBase, PageKind.info]
  omega

theorem State.ringMark_reg_ne (s : State) {r a : Nat} (h : a ≠ 0x40A00014 + 0x1000 * (r / 24)) : (s.ringMark r).reg a = s.reg a := by
  rw [State.ringMark_eq]
  split
  · exact State.reg_put_ne _ _ (by rwa [ringIrq_addr])
  · rfl
@[simp] theorem State.ringMark_log (s : State) (r : Nat) : (s.ringMark r).log = s.log := by
  rw [State.ringMark_eq]
  split <;> rfl
@[simp] theorem State.ringMark_sram (s : State) (r : Nat) : (s.ringMark r).sram = s.sram := by
  rw [State.ringMark_eq]
  split <;> rfl

/-- The watermark's flag stands in none of a ring's own registers. -/
theorem State.ringMark_get_ring (s : State) (r q : Nat) :
    (s.ringMark r).get (R.RING_PIDX q) = s.get (R.RING_PIDX q) ∧ (s.ringMark r).get (R.RING_CIDX q) = s.get (R.RING_CIDX q) := by
  constructor
  · exact State.get_of_reg (s.ringMark_reg_ne (by simp only [R.RING_PIDX]; omega))
  · exact State.get_of_reg (s.ringMark_reg_ne (by simp only [R.RING_CIDX]; omega))

/-- A push into a ring that takes the entry (R46). -/
theorem State.ringPush_of_takes {s : State} {r : Nat} (h : s.ringTakes r = true) (entry : Nat) :
    s.ringPush r entry = (((s.sramMend (s.ringSlot r (s.get (R.RING_PIDX r))) (ringBytes r)).sramWrite
      (s.ringSlot r (s.get (R.RING_PIDX r))) (ringBytes r) entry).put (R.RING_PIDX r) (s.get (R.RING_PIDX r) + 1)).ringMark r := by
  simp only [State.ringTakes, Bool.and_eq_true, Bool.not_eq_true'] at h
  simp [State.ringPush, h.1, h.2]

theorem State.ringPush_pidx {s : State} {r : Nat} (h : s.ringTakes r = true) (entry : Nat) :
    (s.ringPush r entry).get (R.RING_PIDX r) = (s.get (R.RING_PIDX r) + 1) % 2 ^ 32 := by
  rw [State.ringPush_of_takes h]
  exact (State.ringMark_get_ring _ r r).1.trans (State.get_put_word _ _ rfl rfl)

theorem State.ringPush_log_of_takes {s : State} {r : Nat} (h : s.ringTakes r = true) (entry : Nat) :
    (s.ringPush r entry).log = s.log := by
  rw [State.ringPush_of_takes h, State.ringMark_log, State.put_log]
  rfl

/-- The shared SRAM after a push into a ring that takes the entry. -/
theorem State.ringPush_sram {s : State} {r : Nat} (h : s.ringTakes r = true) (entry : Nat) :
    (s.ringPush r entry).sram = (s.sramWrite (s.ringSlot r (s.get (R.RING_PIDX r))) (ringBytes r) entry).sram := by
  rw [State.ringPush_of_takes h, State.ringMark_sram]
  rfl

theorem State.ringDrop_reg_ne (s : State) {r a : Nat} (h : a ≠ (R.RING_STAT r).addr) : (s.ringDrop r).reg a = s.reg a := by
  unfold State.ringDrop State.bumpSat
  dsimp only
  split
  · exact State.reg_put_ne _ _ h
  · rw [State.emit_reg, State.reg_put_ne _ _ (f := R.RING_STAT_OVF r) h, State.reg_put_ne _ _ (f := R.RING_STAT_DROPS r) h]

/-- A push writes PIDX and STAT of its ring and the watermark's flag, and no other register. -/
theorem State.ringPush_reg_ne (s : State) {r a : Nat} (entry : Nat) (hp : a ≠ (R.RING_PIDX r).addr) (hs : a ≠ (R.RING_STAT r).addr)
    (hm : a ≠ 0x40A00014 + 0x1000 * (r / 24)) : (s.ringPush r entry).reg a = s.reg a := by
  unfold State.ringPush
  split
  · split
    · exact s.ringDrop_reg_ne hs
    · rw [State.ringMark_reg_ne _ hm, State.reg_put_ne _ _ hp]
      rfl
  · rfl

/-- A pop writes CIDX of its ring and the watermark's flag, and no other register. -/
theorem State.ringPop_reg_ne (s : State) {r a : Nat} (hc : a ≠ (R.RING_CIDX r).addr) (hm : a ≠ 0x40A00014 + 0x1000 * (r / 24)) :
    (s.ringPop r).reg a = s.reg a := by
  unfold State.ringPop
  rw [State.ringMark_reg_ne _ hm, State.reg_put_ne _ _ hc, State.sramFetch_reg]

theorem State.ringPop_cidx (s : State) (r : Nat) : (s.ringPop r).get (R.RING_CIDX r) = (s.get (R.RING_CIDX r) + 1) % 2 ^ 32 := by
  unfold State.ringPop
  rw [(State.ringMark_get_ring _ r r).2, State.get_put_word _ _ rfl rfl]

@[simp] theorem State.ringPop_sram (s : State) (r : Nat) : (s.ringPop r).sram = s.sram := by simp [State.ringPop]

theorem State.ringPop_log_of_no_upsets {s : State} (h : s.sys.upsets = []) (r : Nat) : (s.ringPop r).log = s.log := by
  simp [State.ringPop, State.sramFetch_of_no_upsets h]

/-- A pop of one ring leaves what decides a push into another, and where it goes. -/
theorem State.ringPop_other (s : State) {r q : Nat} (h : q ≠ r) :
    (s.ringPop r).ringTakes q = s.ringTakes q ∧ (s.ringPop r).get (R.RING_PIDX q) = s.get (R.RING_PIDX q) := by
  have cfg : (s.ringPop r).reg (R.RING_CFG q).addr = s.reg (R.RING_CFG q).addr :=
    s.ringPop_reg_ne (by simp only [R.RING_CFG, R.RING_CIDX]; omega) (by simp only [R.RING_CFG]; omega)
  have pidx : (s.ringPop r).get (R.RING_PIDX q) = s.get (R.RING_PIDX q) := State.get_of_reg
    (s.ringPop_reg_ne (by simp only [R.RING_PIDX, R.RING_CIDX]; omega) (by simp only [R.RING_PIDX]; omega))
  have cidx : (s.ringPop r).get (R.RING_CIDX q) = s.get (R.RING_CIDX q) := State.get_of_reg
    (s.ringPop_reg_ne (by simp only [R.RING_CIDX]; omega) (by simp only [R.RING_CIDX]; omega))
  have on : (s.ringPop r).get (R.RING_CFG_EN q) = s.get (R.RING_CFG_EN q) := State.get_of_reg cfg
  have size : (s.ringPop r).get (R.RING_CFG_LOG2N q) = s.get (R.RING_CFG_LOG2N q) := State.get_of_reg cfg
  refine ⟨?_, pidx⟩
  simp only [State.ringTakes, State.ringOn, State.flag, State.ringFull, State.ringFill, State.ringN, on, size, pidx, cidx]

/-! ## Reads of registers (R28) -/

/-- A read of an implemented register changes nothing. -/
theorem State.readUnimpl_of_implemented (s : State) (who : Who) {a : Nat} (h : findReg (a / 4 * 4) ≠ none) : s.readUnimpl who a = s := by
  obtain ⟨r, hr⟩ := Option.ne_none_iff_exists'.mp h
  unfold State.readUnimpl
  rw [hr]
  split <;> rfl

/-- Settles O6: an access to an implemented register of the window ends in `readUnimpl`, which leaves it alone. -/
theorem readsChangeNothing : Obligations.ReadsChangeNothing := by
  unfold Obligations.ReadsChangeNothing
  intro s who a hwin hreg
  change execAccessUnimpl who a s = .next s
  unfold execAccessUnimpl State.whenAlive
  dsimp only
  rw [if_pos hwin, State.readUnimpl_of_implemented s who hreg, ite_self]

/-! ## The log engine (R55, R56) -/

/-- The ring of an entry, by the field of its severity in RING_EVT_ROUTE (R55). -/
theorem State.evRing_eq (s : State) (code : Nat) :
    s.evRing code = 32 + (s.reg 0x40A02040).toNat / 2 ^ (4 * (code / 1024 % 4)) % 8 := by
  have four : code / 1024 % 4 < 4 := Nat.mod_lt _ (by decide)
  unfold State.evRing
  generalize code / 1024 % 4 = k at four
  match k, four with
  | 0, _ => rfl
  | 1, _ => rfl
  | 2, _ => rfl
  | 3, _ => rfl

/-- Entries of the event-log rings have 16 bytes (R43). -/
theorem State.ringBytes_evRing (s : State) (code : Nat) : ringBytes (s.evRing code) = 16 := by
  have bounds : 32 ≤ s.evRing code ∧ s.evRing code < 40 := by rw [State.evRing_eq]; omega
  have small : ringEsz (s.evRing code) = 0 := by
    unfold ringEsz
    rw [if_neg (by omega), if_neg (by omega)]
  simp [ringBytes, small]

/-- An entry is pushed into its ring where that has room and has lost none. -/
theorem State.writeEv_of_takes {s : State} {e : Ev} (hl : s.lostIn (s.evRing e.code) = 0) (ht : s.ringTakes (s.evRing e.code) = true) :
    s.writeEv e = s.ringPush (s.evRing e.code) e.entry := by
  simp [State.writeEv, State.reportLost, hl, ht]

/-- The state with other entries in the merge buffer. -/
def State.setBuf (s : State) (b : List Ev) : State := { s with log := { s.log with buf := b } }
/-- The state without entry i of those on their way to the log engine. -/
def State.dropInflight (s : State) (i : Nat) : State := { s with log := { s.log with inflight := s.log.inflight.eraseIdx i } }

theorem exec_logEntryArrival {s : State} {i : Nat} {e : Ev} (ha : s.alive = true) (hi : s.log.inflight[i]? = some e) :
    exec (.logEntryArrival i) s = .next ((s.dropInflight i).logArrive e) := by
  obtain ⟨hlt, rfl⟩ := List.getElem?_eq_some_iff.mp hi
  change execLogEntryArrival i s = _
  unfold execLogEntryArrival State.dropInflight
  rw [State.whenAlive_of ha, List.drop_eq_getElem_cons hlt, List.eraseIdx_eq_take_drop_succ]

/-- The merge buffer, the count of its run, time and the MRAM after an entry has been written. -/
theorem State.writeEv_keeps_buffer (s : State) (e : Ev) :
    (s.writeEv e).log.buf = s.log.buf ∧ (s.writeEv e).log.run = s.log.run ∧ (s.writeEv e).time = s.time ∧ (s.writeEv e).mram = s.mram := by
  obtain ⟨buf, run, time, mram, -⟩ := State.fields_of_besideRings (s.writeEv_besideRings e)
  exact ⟨buf, run, time, mram⟩

theorem State.logArrive_old {s : State} {e : Ev} (ho : e.old = true) : s.logArrive e = s.writeEv e := by
  unfold State.logArrive
  rw [if_pos ho]

theorem State.logArrive_waits {s : State} {e : Ev} (ho : e.old = false) (hb : s.log.buf.length < 512) :
    s.logArrive e = s.setBuf (s.log.buf ++ [e]) := by
  simp [State.logArrive, State.setBuf, ho, mergeCap, Nat.succ_le_of_lt hb]

theorem State.logArrive_early {s : State} {e m : Ev} {rest : List Ev} (ho : e.old = false) (hb : 512 ≤ s.log.buf.length)
    (ht : takeFirst (s.log.buf ++ [e]) = some (m, rest)) :
    (s.logArrive e).log.buf = rest ∧ (s.logArrive e).log.run = s.log.run + 1 ∧ (s.logArrive e).time = s.time ∧
      (s.logArrive e).mram = s.mram := by
  have full : ¬ (s.log.buf ++ [e]).length ≤ mergeCap := by
    simp only [List.length_append, List.length_singleton, mergeCap]
    omega
  unfold State.logArrive
  simp only [ho, Bool.false_eq_true, if_false, full, ht]
  obtain ⟨buf, run, time, mram⟩ := (s.setBuf rest).writeEv_keeps_buffer m
  exact ⟨buf, congrArg (· + 1) run, time, mram⟩

/-- The entry that `logRelease` releases, outside a run of early releases. -/
theorem exec_logRelease {s : State} {e : Ev} {rest : List Ev} (ha : s.alive = true) (hrun : s.time.run = true) (h0 : s.log.run = 0)
    (ht : takeFirst s.log.buf = some (e, rest)) :
    exec .logRelease s = .next (((s.advTo (e.t + usQ 64)).setBuf rest).writeEv e) := by
  have noRun : (s.advTo (e.t + usQ 64)).endRun = s.advTo (e.t + usQ 64) := by simp [State.endRun, h0]
  change execLogRelease s = _
  unfold execLogRelease State.setBuf
  rw [State.whenAlive_of ha, if_pos hrun, ht]
  simp only [noRun]

/-- A released entry whose ring has room and has lost none: it stands whole in the slot at PIDX, which moves on. -/
theorem State.writeEv_stored {s : State} {e : Ev} {r : Nat} (hr : s.evRing e.code = r) (hl : s.lostIn r = 0) (ht : s.ringTakes r = true) :
    (s.writeEv e).log = s.log ∧ (s.writeEv e).get (R.RING_PIDX r) = (s.get (R.RING_PIDX r) + 1) % 2 ^ 32 ∧
      (s.writeEv e).sram = (s.sramWrite (s.ringSlot r (s.get (R.RING_PIDX r))) 16 e.entry).sram := by
  subst hr
  rw [State.writeEv_of_takes hl ht]
  have sram := State.ringPush_sram ht e.entry
  rw [State.ringBytes_evRing] at sram
  exact ⟨State.ringPush_log_of_takes ht _, State.ringPush_pidx ht _, sram⟩

/-- The rings are as the registers and the log say. -/
theorem State.rings_of_regs {s t : State} (h : t.regs = s.regs) (r : Nat) :
    t.ringTakes r = s.ringTakes r ∧ t.ringSlot r (t.get (R.RING_PIDX r)) = s.ringSlot r (s.get (R.RING_PIDX r)) ∧
      ∀ code, t.evRing code = s.evRing code := by
  have get : t.get = s.get := by
    funext f
    simp only [State.get, State.reg, h]
  refine ⟨?_, ?_, fun code => ?_⟩
  · simp only [State.ringTakes, State.ringOn, State.flag, State.ringFull, State.ringFill, State.ringN, get]
  · simp only [State.ringSlot, State.ringN, get]
  · simp only [State.evRing, get]

/-- Settles O20: an arrival waits, releases the first entry early, or is written at once; a release writes the entry to its ring. -/
theorem logEngine : Obligations.LogEngine := by
  unfold Obligations.LogEngine
  refine ⟨by decide +kernel, fun s ha => ⟨fun i e hi => ⟨fun ho hb => ?_, fun m rest ho hb ht => ?_, fun ho => ?_⟩, ?_⟩⟩
  · rw [exec_logEntryArrival ha hi, State.logArrive_waits (s := s.dropInflight i) ho hb]
    rfl
  · exact ⟨_, exec_logEntryArrival ha hi, State.logArrive_early (s := s.dropInflight i) ho hb ht⟩
  · refine ⟨_, exec_logEntryArrival ha hi, ?_⟩
    rw [State.logArrive_old ho]
    obtain ⟨buf, -, time, mram⟩ := (s.dropInflight i).writeEv_keeps_buffer e
    exact ⟨buf, time, mram⟩
  · intro e rest r at_ ht hr hat hrun h0 hl htakes _
    refine ⟨_, exec_logRelease ha hrun h0 ht, ?_⟩
    generalize hu : (s.advTo (e.t + usQ 64)).setBuf rest = u
    have regs : u.regs = s.regs := by simp [← hu, State.setBuf]
    have sram : u.sram = s.sram := by simp [← hu, State.setBuf]
    have mram : u.mram = s.mram := by simp [← hu, State.setBuf]
    have log : u.log = { s.log with buf := rest } := by simp [← hu, State.setBuf]
    have time : u.time = (s.advTo (e.t + 256000)).time := by simp [← hu, State.setBuf, usQ]
    obtain ⟨takes, slot, route⟩ := State.rings_of_regs regs r
    have ring : u.evRing e.code = r := by rw [route, State.evRing_eq, hr]
    have lost : u.lostIn r = 0 := by simpa [State.lostIn, log] using hl
    obtain ⟨log', pidx', sram'⟩ := State.writeEv_stored ring lost (takes.trans htakes)
    obtain ⟨-, -, time', mram'⟩ := u.writeEv_keeps_buffer e
    rw [slot, ← hat] at sram'
    refine ⟨log'.trans log, time'.trans time, ?_, ?_, fun a ha => ?_, mram'.trans mram⟩
    · rw [pidx', State.get_of_reg (congrArg (Tab.get regReset · _) regs)]
    · have read : (u.writeEv e).sramRead at_ 16 = (u.sramWrite at_ 16 e.entry).sramRead at_ 16 := by
        simp only [State.sramRead, sram']
      rw [read, State.sramRead_sramWrite]
      norm_num
    · have byte : (u.writeEv e).sramByte a = (u.sramWrite at_ 16 e.entry).sramByte a := by simp only [State.sramByte, sram']
      rw [byte, State.sramByte_sramWrite_ne _ _ _ _ _ ha]
      simp only [State.sramByte, sram]

/-! ## Sending on a port (R131) -/

/-- Sending moves nothing but the ports' records. -/
theorem State.txRun_eq (s : State) (p : Nat) : s.txRun p = { s with ports := (s.txRun p).ports } := by
  unfold State.txRun
  dsimp only
  split <;> rfl
theorem State.send_eq (s : State) (p : Nat) (b : TxBlk) : s.send p b = { s with ports := (s.send p b).ports } := by
  unfold State.send
  rw [State.txRun_eq]
  rfl

@[simp] theorem State.port_setPort (s : State) (p : Nat) (x : PortSt) : (s.setPort p x).port p = x := Tab.get_set_same _ _ _ _

/-- The body of the transaction of a tag, without the instant of its departure. -/
def PortSt.tagBody (o : PortSt) (k : Nat) : TagSt := { Tab.get tagDefault o.tags k with at_ := 0 }

theorem PortSt.tagBody_setAt (o : PortSt) (j k t : Nat) :
    ({ o with tags := Tab.set tagDefault o.tags j { Tab.get tagDefault o.tags j with at_ := t } } : PortSt).tagBody k = o.tagBody k := by
  unfold PortSt.tagBody
  dsimp only
  by_cases same : k = j
  · rw [same, Tab.get_set_same]
  · rw [Tab.get_set_ne _ _ _ _ _ same]

/-- The departure of a block moves no tag's body. -/
theorem PortSt.departed_tagBody (o : PortSt) (b : TxBlk) (k : Nat) : (o.departed b).tagBody k = o.tagBody k := by
  unfold PortSt.departed
  dsimp only
  split
  · exact PortSt.tagBody_setAt _ _ _ _
  · split <;> rfl

theorem PortSt.fill_tagBody (o : PortSt) (limit n k : Nat) : (o.fill limit n).tagBody k = o.tagBody k := by
  induction n generalizing o with
  | zero => rfl
  | succ n ih =>
    unfold PortSt.fill
    split
    · rfl
    · split
      · exact ih _
      · exact (ih _).trans (o.departed_tagBody _ k)

/-- Which blocks still wait depends on the place and on the blocks, not on the tags. -/
theorem PortSt.fill_wait_congr {o o' : PortSt} (hp : o.place = o'.place) (hw : o.wait = o'.wait) (limit n : Nat) :
    (o.fill limit n).wait = (o'.fill limit n).wait := by
  induction n generalizing o o' with
  | zero => exact hw
  | succ n ih =>
    unfold PortSt.fill
    rw [hp, hw]
    split
    · exact hw
    · split
      · exact ih rfl rfl
      · exact ih rfl rfl

/-- The port whose slots have run: its own record where nothing waits. -/
theorem State.txRun_port (s : State) (p : Nat) : (s.txRun p).port p =
    if (s.port p).wait.isEmpty = true then s.port p else (s.port p).fill (2 * s.slotsBegun) (2 * (s.port p).wait.length) := by
  unfold State.txRun
  dsimp only
  split
  · rfl
  · exact State.port_setPort _ _ _

theorem State.txRun_wait_congr {s t : State} {p : Nat} (hp : (t.port p).place = (s.port p).place) (hw : (t.port p).wait = (s.port p).wait)
    (ht : t.time = s.time) : ((t.txRun p).port p).wait = ((s.txRun p).port p).wait := by
  have slots : t.slotsBegun = s.slotsBegun := by simp only [State.slotsBegun, ht]
  rw [State.txRun_port, State.txRun_port, hw, slots]
  split
  · exact hw
  · exact PortSt.fill_wait_congr hp hw _ _

theorem State.send_wait (s : State) (p : Nat) (b : TxBlk) : ((s.send p b).port p).wait = insertTx b ((s.txRun p).port p).wait := by
  unfold State.send
  dsimp only
  rw [State.port_setPort]

/-- A tag's transaction after a block has been given to the port: its departure may have been recorded, where blocks waited. -/
theorem State.send_tag (s : State) (p k : Nat) (b : TxBlk) :
    { (s.send p b).tag p k with at_ := 0 } = { s.tag p k with at_ := 0 } ∧
      ((s.port p).wait = [] → (s.send p b).tag p k = s.tag p k) := by
  have tags : (s.send p b).tag p k = Tab.get tagDefault ((s.txRun p).port p).tags k := by
    unfold State.send State.tag
    dsimp only
    rw [State.port_setPort]
  rw [tags, State.txRun_port]
  constructor
  · split
    · rfl
    · exact PortSt.fill_tagBody _ _ _ k
  · intro none
    rw [none, if_pos (by rfl)]
    rfl

/-! ## Tags (R48, R49) -/

theorem State.freeTag_none {s : State} {p : Nat} (h : ∀ k : Fin 32, s.tagBusy p k = true ∨ s.tagQuar p k = true) : s.freeTag p = none := by
  refine List.find?_range_eq_none.mpr fun k hk => ?_
  rcases h ⟨k, hk⟩ with h | h <;> simp [h]

/-- The free tag below which every other is in use. -/
theorem State.freeTag_some {s : State} {p : Nat} {k : Fin 32} (hb : s.tagBusy p k = false) (hq : s.tagQuar p k = false)
    (h : ∀ j : Fin 32, j < k → s.tagBusy p j = true ∨ s.tagQuar p j = true) : s.freeTag p = some k.val := by
  refine List.find?_range_eq_some.mpr ⟨by simp [hb, hq], List.mem_range.mpr k.isLt, fun j hj => ?_⟩
  rcases h ⟨j, hj.trans k.isLt⟩ hj with h | h <;> simp [h]

/-- The port has a request at the head of its ring and takes nothing (R49, log entry 201). -/
theorem State.takeRequest_refused {s : State} {p q : Nat} (hq : s.ringHead (16 + 2 * p) = some q)
    (h : s.freeTag p = none ∨ (q / 2 ^ 14 % 2 = 1 ∧ s.fwOutstanding p = true) ∨ s.outstanding p (q / 2 ^ 10 % 8) (q % 1024) = true ∨
      s.linkUp p = false) : s.takeRequest p = s := by
  unfold State.takeRequest
  rw [hq]
  dsimp only
  split
  · rfl
  · next t free =>
    refine if_pos ?_
    simp only [Bool.or_eq_true, Bool.and_eq_true, Bool.not_eq_true', beq_iff_eq]
    rcases h with none | ⟨fence, behind⟩ | same | down
    · rw [none] at free
      cases free
    · exact .inl (.inr ⟨fence, behind⟩)
    · exact .inr same
    · exact .inl (.inl down)

/-- What the request at the head of a ring asks for (R48). -/
def requestOf (q : Nat) : TagSt :=
  { leg := q / 2 ^ 10 % 8, wordAddr := q % 1024, write := q / 2 ^ 13 % 2 == 1, cookie := q / 2 ^ 64 % 2 ^ 32 }
/-- It writes a protection word, 0x010 to 0x03F (R154). -/
def writesProtection (q : Nat) : Prop := q / 2 ^ 13 % 2 = 1 ∧ 0x010 ≤ q % 1024 ∧ q % 1024 ≤ 0x03F

/-- The port takes the request at the head of its ring and gives it tag k (R49). -/
theorem State.takeRequest_taken {s : State} {p q k : Nat} (hq : s.ringHead (16 + 2 * p) = some q) (hk : s.freeTag p = some k)
    (hu : s.linkUp p = true) (hf : q / 2 ^ 14 % 2 = 0 ∨ s.fwOutstanding p = false)
    (ho : s.outstanding p (q / 2 ^ 10 % 8) (q % 1024) = false) :
    (writesProtection q → s.takeRequest p = (s.ringPop (16 + 2 * p)).abortRequest p q) ∧
    (¬ writesProtection q → s.takeRequest p = (s.ringPop (16 + 2 * p)).issueTag p k (requestOf q) (q / 2 ^ 32 % 2 ^ 32)) := by
  have goes : (!s.linkUp p || (q / 2 ^ 14 % 2 == 1 && s.fwOutstanding p) || s.outstanding p (q / 2 ^ 10 % 8) (q % 1024)) = false := by
    rw [hu, ho]
    rcases hf with h | h
    · simp only [h]
      rfl
    · simp only [h, Bool.and_false]
      rfl
  have prot : (q / 2 ^ 13 % 2 == 1 && decide (0x010 ≤ q % 1024) && decide (q % 1024 ≤ 0x03F)) = true ↔ writesProtection q := by
    simp only [Bool.and_eq_true, beq_iff_eq, decide_eq_true_eq, and_assoc, writesProtection]
  unfold State.takeRequest
  simp only [hq, hk, goes, Bool.false_eq_true, if_false]
  exact ⟨fun h => if_pos (prot.mpr h), fun h => if_neg (mt prot.mp h)⟩

/-! ## The request goes out -/

/-- The registers of the ring pages lie apart from a port's own. -/
theorem linkTags_apart (p : Fin 8) (r : Nat) : (R.LINK_TAGS p).addr ≠ (R.RING_PIDX r).addr ∧ (R.LINK_TAGS p).addr ≠ (R.RING_CIDX r).addr ∧
    (R.LINK_TAGS p).addr ≠ (R.RING_STAT r).addr ∧ (R.LINK_TAGS p).addr ≠ 0x40A00014 + 0x1000 * (r / 24) := by
  have bound := p.isLt
  simp only [R.LINK_TAGS, R.RING_PIDX, R.RING_CIDX, R.RING_STAT]
  omega

theorem ringCidx_apart (q r : Nat) : (R.RING_CIDX q).addr ≠ (R.RING_PIDX r).addr ∧ (R.RING_CIDX q).addr ≠ (R.RING_STAT r).addr ∧
    (R.RING_CIDX q).addr ≠ 0x40A00014 + 0x1000 * (r / 24) := by
  simp only [R.RING_CIDX, R.RING_PIDX, R.RING_STAT]
  omega

theorem State.ringPop_linkTags (s : State) (p : Fin 8) (r : Nat) :
    (s.ringPop r).reg (R.LINK_TAGS p).addr = s.reg (R.LINK_TAGS p).addr := by
  obtain ⟨-, cidx, -, mark⟩ := linkTags_apart p r
  exact s.ringPop_reg_ne cidx mark

/-- The state in which tag k holds a request whose block has not been given to the port yet. -/
def State.holdTag (s : State) (p k : Nat) (r : TagSt) : State :=
  (s.setTag p k { r with at_ := s.time.up }).put ((R.LINK_TAGS p).bit k) 1

theorem State.issueTag_eq (s : State) (p k : Nat) (r : TagSt) (data : Nat) : s.issueTag p k r data =
    (s.holdTag p k r).send p ⟨prREQ, 2, r.leg, requestBlock r.leg k r.wordAddr r.write data⟩ := rfl

theorem State.holdTag_port (s : State) (p k : Nat) (r : TagSt) : (s.holdTag p k r).port p =
    { s.port p with tags := Tab.set tagDefault (s.port p).tags k { r with at_ := s.time.up } } := State.port_setPort _ _ _

theorem State.holdTag_tag (s : State) (p k : Nat) (r : TagSt) : (s.holdTag p k r).tag p k = { r with at_ := s.time.up } := by
  unfold State.tag
  rw [State.holdTag_port]
  exact Tab.get_set_same _ _ _ _

/-- Issuing a request changes one register word, the busy tags of the port, and beside it only the port's record. -/
theorem State.issueTag_fields (s : State) (p k : Nat) (r : TagSt) (data : Nat) :
    (s.issueTag p k r data).regs = (s.put ((R.LINK_TAGS p).bit k) 1).regs ∧ (s.issueTag p k r data).time = s.time ∧
      (s.issueTag p k r data).sram = s.sram ∧ (s.issueTag p k r data).mram = s.mram ∧ (s.issueTag p k r data).log = s.log := by
  rw [State.issueTag_eq, State.send_eq]
  exact ⟨rfl, rfl, rfl, rfl, rfl⟩

theorem State.issueTag_get (s : State) (p k : Nat) (r : TagSt) (data : Nat) (f : Fld) :
    (s.issueTag p k r data).get f = (s.put ((R.LINK_TAGS p).bit k) 1).get f :=
  State.get_of_reg (congrArg (Tab.get regReset · f.addr) (s.issueTag_fields p k r data).1)

/-- Issuing a request makes its tag busy and leaves the others as they were. -/
theorem State.issueTag_busy (s : State) (p : Nat) (k : Fin 32) (r : TagSt) (data : Nat) :
    (s.issueTag p k r data).tagBusy p k = true ∧ ∀ j : Fin 32, j ≠ k → (s.issueTag p k r data).tagBusy p j = s.tagBusy p j := by
  have bits : ∀ j : Fin 32, Fld.ok ((R.LINK_TAGS p).bit j) := fun j => by
    have := j.isLt
    simp only [Fld.ok, Fld.bit, R.LINK_TAGS]
    omega
  refine ⟨?_, fun j hj => ?_⟩
  · unfold State.tagBusy State.flag
    rw [State.issueTag_get, State.get_put _ _ _ (bits k)]
    simp [Fld.bit]
  · unfold State.tagBusy State.flag
    rw [State.issueTag_get, State.get_put_ne _ _ (bits k) (bits j).1 (.inr ?_)]
    have := Fin.val_ne_of_ne hj
    simp only [Fld.bit, R.LINK_TAGS]
    omega

theorem TagSt.eq_of_body {x y : TagSt} (h : { x with at_ := 0 } = { y with at_ := 0 }) : x = { y with at_ := x.at_ } :=
  congrArg (fun z : TagSt => { z with at_ := x.at_ }) h

/-- The issued tag holds the request; where nothing waited, its instant is the present. -/
theorem State.issueTag_tag (s : State) (p k : Nat) (r : TagSt) (data : Nat) :
    (s.issueTag p k r data).tag p k = { r with at_ := ((s.issueTag p k r data).tag p k).at_ } ∧
      ((s.port p).wait = [] → ((s.issueTag p k r data).tag p k).at_ = s.time.up) := by
  rw [State.issueTag_eq]
  obtain ⟨body, kept⟩ := (s.holdTag p k r).send_tag p k ⟨prREQ, 2, r.leg, requestBlock r.leg k r.wordAddr r.write data⟩
  rw [State.holdTag_tag] at body kept
  refine ⟨TagSt.eq_of_body body, fun none => ?_⟩
  rw [kept (by rw [State.holdTag_port]; exact none)]

/-- The block of an issued request waits behind those of its priority (R131, R139). -/
theorem State.issueTag_wait (s : State) (p k : Nat) (r : TagSt) (data : Nat) :
    ((s.issueTag p k r data).port p).wait =
      insertTx ⟨prREQ, 2, r.leg, requestBlock r.leg k r.wordAddr r.write data⟩ ((s.txRun p).port p).wait := by
  rw [State.issueTag_eq, State.send_wait]
  exact congrArg _ (State.txRun_wait_congr (by rw [State.holdTag_port]) (by rw [State.holdTag_port]) rfl)

/-- A request that is not issued leaves the ports and the registers beside its completion ring (R50, R154). -/
theorem State.abortRequest_fields (s : State) (p q : Nat) : ∃ entry,
    (s.abortRequest p q).regs = (s.ringPush (17 + 2 * p) entry).regs ∧ (s.abortRequest p q).time = s.time ∧
      (s.abortRequest p q).mram = s.mram ∧ (s.abortRequest p q).ports = s.ports := by
  obtain ⟨-, -, time, mram, ports⟩ := State.fields_of_besideRings (s.ringPush_besideRings (17 + 2 * p)
    (completionEntry (q / 2 ^ 64 % 2 ^ 32) 0 (Config.abortTag s.fresh).toNat (q / 2 ^ 10 % 8) 4 (q / 2 ^ 13 % 2 == 1) (stampOf s.time.now)))
  exact ⟨_, rfl, time, mram, ports⟩

theorem exec_tagRequest {s : State} (ha : s.alive = true) (p : Fin 8) : exec (.tagRequest p) s = .next (s.takeRequest p) := by
  change execTagRequest p s = _
  unfold execTagRequest
  rw [State.whenAlive_of ha]

/-- A request taken off its ring and issued on tag k (R49, R139). -/
theorem State.ringPop_issueTag (s : State) (p : Fin 8) (k : Fin 32) (r : TagSt) (data : Nat) :
    ∃ t, (s.ringPop (16 + 2 * p)).issueTag p k r data = t ∧ t.tagBusy p k = true ∧
      (∀ j : Fin 32, j ≠ k → t.tagBusy p j = s.tagBusy p j) ∧ t.tag p k = { r with at_ := (t.tag p k).at_ } ∧
      ((s.port p).wait = [] → (t.tag p k).at_ = s.time.up) ∧
      t.get (R.RING_CIDX (16 + 2 * p)) = (s.get (R.RING_CIDX (16 + 2 * p)) + 1) % 2 ^ 32 ∧
      (t.port p).wait = insertTx ⟨prREQ, 2, r.leg, requestBlock r.leg k r.wordAddr r.write data⟩ ((s.txRun p).port p).wait ∧
      t.time = s.time ∧ s.sameMemory t ∧ (s.sys.upsets = [] → t.log = s.log) := by
  obtain ⟨-, -, time, mram, ports⟩ := State.fields_of_besideRings (s.ringPop_besideRings (16 + 2 * p))
  have port : (s.ringPop (16 + 2 * p)).port p = s.port p := by simp only [State.port, ports]
  obtain ⟨-, time', sram', mram', log'⟩ := (s.ringPop (16 + 2 * p)).issueTag_fields p k r data
  obtain ⟨busy, others⟩ := (s.ringPop (16 + 2 * p)).issueTag_busy p k r data
  obtain ⟨tag, instant⟩ := (s.ringPop (16 + 2 * p)).issueTag_tag p k r data
  refine ⟨_, rfl, busy, fun j hj => (others j hj).trans ?_, tag, fun none => ?_, ?_, ?_, time'.trans time,
    ⟨sram'.trans (s.ringPop_sram _), mram'.trans mram⟩, fun clean => log'.trans (State.ringPop_log_of_no_upsets clean _)⟩
  · exact congrArg (· != 0) (State.get_of_reg (s.ringPop_linkTags p _))
  · rw [instant (by rw [port]; exact none), time]
  · rw [State.issueTag_get]
    exact (State.get_put_addr _ _ (f := (R.LINK_TAGS p).bit k) (linkTags_apart p _).2.1.symm).trans (s.ringPop_cidx _)
  · rw [State.issueTag_wait]
    exact congrArg _ (State.txRun_wait_congr (by rw [port]) (by rw [port]) time)

/-- A request taken off its ring and not issued: it completes, and no tag has carried it (R50, R154). -/
theorem State.ringPop_abortRequest (s : State) (p : Fin 8) (q : Nat) :
    ∃ t, (s.ringPop (16 + 2 * p)).abortRequest p q = t ∧ t.get (R.LINK_TAGS p) = s.get (R.LINK_TAGS p) ∧ t.ports = s.ports ∧
      t.get (R.RING_CIDX (16 + 2 * p)) = (s.get (R.RING_CIDX (16 + 2 * p)) + 1) % 2 ^ 32 ∧
      (s.ringTakes (17 + 2 * p) = true →
        t.get (R.RING_PIDX (17 + 2 * p)) = (s.get (R.RING_PIDX (17 + 2 * p)) + 1) % 2 ^ 32) ∧ t.time = s.time ∧ t.mram = s.mram := by
  obtain ⟨-, -, time, mram, ports⟩ := State.fields_of_besideRings (s.ringPop_besideRings (16 + 2 * p))
  obtain ⟨takes, pidx⟩ := s.ringPop_other (r := 16 + 2 * p) (q := 17 + 2 * p) (by omega)
  obtain ⟨entry, regs', time', mram', ports'⟩ := (s.ringPop (16 + 2 * p)).abortRequest_fields p q
  have get : ∀ f, ((s.ringPop (16 + 2 * p)).abortRequest p q).get f = ((s.ringPop (16 + 2 * p)).ringPush (17 + 2 * p) entry).get f :=
    fun f => State.get_of_reg (congrArg (Tab.get regReset · f.addr) regs')
  refine ⟨_, rfl, ?_, ports'.trans ports, ?_, fun room => ?_, time'.trans time, mram'.trans mram⟩
  · obtain ⟨atPidx, -, atStat, atMark⟩ := linkTags_apart p (17 + 2 * p)
    rw [get, State.get_of_reg (State.ringPush_reg_ne _ entry atPidx atStat atMark), State.get_of_reg (s.ringPop_linkTags p _)]
  · obtain ⟨atPidx, atStat, atMark⟩ := ringCidx_apart (16 + 2 * p) (17 + 2 * p)
    rw [get, State.get_of_reg (State.ringPush_reg_ne _ entry atPidx atStat atMark), State.ringPop_cidx]
  · rw [get, State.ringPush_pidx (takes.trans room), pidx]

/-- Settles O21: `takeRequest` leaves the state, issues the request on the lowest free tag, or takes it off the ring as ABORTED. -/
theorem tagRequest : Obligations.TagRequest := by
  unfold Obligations.TagRequest
  intro s p q ha hq
  rw [exec_tagRequest ha p]
  refine ⟨fun h => ?_, fun k hu hb hqr hlow hf ho => ?_⟩
  · rw [State.takeRequest_refused hq (h.imp_left State.freeTag_none)]
  obtain ⟨protection, plain⟩ := State.takeRequest_taken hq (State.freeTag_some hb hqr hlow) hu hf ho
  refine ⟨fun h => ?_, fun h => ?_⟩
  · obtain ⟨t, issued, effect⟩ := s.ringPop_issueTag p k (requestOf q) (q / 2 ^ 32 % 2 ^ 32)
    exact ⟨t, congrArg _ ((plain h).trans issued), effect⟩
  · obtain ⟨t, aborted, effect⟩ := s.ringPop_abortRequest p q
    exact ⟨t, congrArg _ ((protection h).trans aborted), effect⟩

end Sys2Proof.Machine

/-! PROOFS of the family of ticks and modes: the tick numbers and the grid of the boundaries (R58). -/

namespace Sys2Proof.Machine

open Sys2Proof

/-! ## The end of the tick and its period

A boundary sets both, and what the blocks do in a tick start leaves them. -/

/-- The end of the tick in progress and the tick period. -/
def State.tickGrid (s : State) : Nat × Nat := (s.time.tickEnd, s.tickQ)

theorem State.tickGrid_congr {s t : State} (time : t.time.tickEnd = s.time.tickEnd) (profile : t.fine = s.fine) :
    t.tickGrid = s.tickGrid := by
  simp only [State.tickGrid, State.tickQ, time, profile]

/-- The period depends on the profile, whose register lies below the pages of the blocks. -/
@[simp] theorem State.put_tickGrid (s : State) {f : Fld} (v : Nat) (above : R.SYS_MODE_STAT.addr < f.addr) :
    (s.put f v).tickGrid = s.tickGrid :=
  State.tickGrid_congr rfl (congrArg (· != 0) (State.get_put_addr s v above.ne))
@[simp] theorem State.putI_tickGrid (s : State) {f : Fld} (v : Int) (above : R.SYS_MODE_STAT.addr < f.addr) :
    (s.putI f v).tickGrid = s.tickGrid := s.put_tickGrid _ above
@[simp] theorem State.putB_tickGrid (s : State) {f : Fld} (b : Bool) (above : R.SYS_MODE_STAT.addr < f.addr) :
    (s.putB f b).tickGrid = s.tickGrid := s.put_tickGrid _ above
@[simp] theorem State.putCfg_tickGrid (s : State) {f : Fld} (v : Nat) (above : R.SYS_MODE_STAT.addr < f.addr) :
    (s.putCfg f v).tickGrid = s.tickGrid := s.put_tickGrid _ above
@[simp] theorem State.bumpSat_tickGrid (s : State) {f : Fld} (above : R.SYS_MODE_STAT.addr < f.addr) :
    (s.bumpSat f).tickGrid = s.tickGrid := s.put_tickGrid _ above

theorem State.irq_tickGrid (s : State) {k : PageKind} (n i : Nat) (above : R.SYS_MODE_STAT.addr < k.info.base) :
    (s.irq k n i).tickGrid = s.tickGrid :=
  s.put_tickGrid _ (above.trans_le ((Nat.le_add_right _ _).trans (Nat.le_add_right _ _)))
@[simp] theorem State.irq_ce_tickGrid (s : State) (n i : Nat) : (s.irq .ce n i).tickGrid = s.tickGrid := s.irq_tickGrid n i (by decide)
@[simp] theorem State.irq_link_tickGrid (s : State) (n i : Nat) : (s.irq .link n i).tickGrid = s.tickGrid := s.irq_tickGrid n i (by decide)
@[simp] theorem State.irq_rot_tickGrid (s : State) (n i : Nat) : (s.irq .rot n i).tickGrid = s.tickGrid := s.irq_tickGrid n i (by decide)

@[simp] theorem State.emitAt_tickGrid (s : State) (t src inst code data : Nat) : (s.emitAt t src inst code data).tickGrid = s.tickGrid :=
  State.tickGrid_congr (congrArg (·.tickEnd) (s.emitAt_time t src inst code data)) (s.emitAt_flag t src inst code data _)
@[simp] theorem State.emit_tickGrid (s : State) (src inst code data : Nat) : (s.emit src inst code data).tickGrid = s.tickGrid :=
  s.emitAt_tickGrid _ src inst code data
@[simp] theorem State.pulse_tickGrid (s : State) (src : Nat) : (s.pulse src).tickGrid = s.tickGrid := (rfl)
@[simp] theorem State.pulseAt_tickGrid (s : State) (src idx t : Nat) : (s.pulseAt src idx t).tickGrid = s.tickGrid := (rfl)
@[simp] theorem State.setCe_tickGrid (s : State) (f : CeSt → CeSt) : (s.setCe f).tickGrid = s.tickGrid := (rfl)
@[simp] theorem State.setLoc_tickGrid (s : State) (f : LocSt → LocSt) : (s.setLoc f).tickGrid = s.tickGrid := (rfl)
@[simp] theorem State.setAdc_tickGrid (s : State) (f : AdcSt → AdcSt) : (s.setAdc f).tickGrid = s.tickGrid := (rfl)
@[simp] theorem State.setCmp_tickGrid (s : State) (c : Nat) (f : CmpSt → CmpSt) : (s.setCmp c f).tickGrid = s.tickGrid := (rfl)
@[simp] theorem State.setPort_tickGrid (s : State) (p : Nat) (o : PortSt) : (s.setPort p o).tickGrid = s.tickGrid := (rfl)
@[simp] theorem State.setAux_tickGrid (s : State) (m : Nat) (a : AuxSt) : (s.setAux m a).tickGrid = s.tickGrid := (rfl)
@[simp] theorem State.setCeWord_tickGrid (s : State) (a w : Nat) : (s.setCeWord a w).tickGrid = s.tickGrid := (rfl)
@[simp] theorem State.setCoef_tickGrid (s : State) (a w : Nat) : (s.setCoef a w).tickGrid = s.tickGrid := (rfl)

theorem State.forEach_tickGrid (s : State) {f : State → Nat → State} (l : List Nat) (step : ∀ t n, (f t n).tickGrid = t.tickGrid) :
    (s.forEach f l).tickGrid = s.tickGrid := State.forEach_eq f State.tickGrid l (fun t n _ => step t n) s
theorem State.foldl_tickGrid {α : Type} (s : State) {f : State → α → State} (l : List α) (step : ∀ t x, (f t x).tickGrid = t.tickGrid) :
    (l.foldl f s).tickGrid = s.tickGrid := by
  induction l generalizing s with
  | nil => rfl
  | cons x l ih => exact (ih (f s x)).trans (step s x)

/-! ## The auxiliary timers (R106, R107) -/

@[simp] theorem modeStat_lt_auxtStat (m : Nat) : R.SYS_MODE_STAT.addr < (R.AUXT_STAT m).addr := Nat.lt_add_right _ (by decide)

@[simp] theorem State.blankEdge_tickGrid (s : State) (kind idx : Nat) (high on : Bool) (up : Nat) :
    (s.blankEdge kind idx high on up).tickGrid = s.tickGrid := by
  refine s.forEach_tickGrid _ fun u c => ?_
  split
  · exact u.setCmp_tickGrid c _
  · rfl
@[simp] theorem State.auxEdge_tickGrid (s : State) (m : Nat) (on : Bool) (t : Nat) : (s.auxEdge m on t).tickGrid = s.tickGrid :=
  s.blankEdge_tickGrid _ _ _ _ _

@[simp] theorem State.auxOff_tickGrid (s : State) (m t : Nat) : (s.auxOff m t).tickGrid = s.tickGrid := by
  unfold State.auxOff
  dsimp only
  split <;> simp
@[simp] theorem State.auxOn_tickGrid (s : State) (m t : Nat) : (s.auxOn m t).tickGrid = s.tickGrid := by
  simp [State.auxOn, R.AUXT_STAT_AUXOFF]
@[simp] theorem State.auxTryOn_tickGrid (s : State) (m t : Nat) : (s.auxTryOn m t).tickGrid = s.tickGrid := by
  unfold State.auxTryOn
  split
  · rfl
  · split <;> simp
@[simp] theorem State.auxPending_tickGrid (s : State) (m : Nat) : (s.auxPending m).tickGrid = s.tickGrid := by
  unfold State.auxPending
  split <;> simp
@[simp] theorem State.auxBoth_tickGrid (s : State) (lead : Nat) (t : Int) : (s.auxBoth lead t).tickGrid = s.tickGrid := by
  simp [State.auxBoth, State.auxBlock, R.AUXT_STAT_BOTH_ON]

@[simp] theorem State.auxApply_tickGrid (s : State) (lead : Nat) (es : List Edge) : (s.auxApply lead es).tickGrid = s.tickGrid := by
  induction es generalizing s with
  | nil => rfl
  | cons e es ih =>
    unfold State.auxApply
    extract_lets m
    split
    · split
      · simp only [ih, State.auxBoth_tickGrid]
      · simp only [ih, State.auxTryOn_tickGrid]
    · simp only [ih, State.auxOff_tickGrid]

@[simp] theorem State.auxCatch_tickGrid (s : State) (m : Nat) : (s.auxCatch m).tickGrid = s.tickGrid := by
  unfold State.auxCatch State.auxDropDue
  split <;> simp

@[simp] theorem State.auxForceShow_tickGrid (s : State) (m old new : Nat) : (s.auxForceShow m old new).tickGrid = s.tickGrid := by
  unfold State.auxForceShow
  dsimp only
  split
  · simp [R.AUXT_STAT_FORCED]
  · split <;> simp [R.AUXT_STAT_FORCED]

@[simp] theorem State.announceAux_tickGrid (s : State) (m : Nat) (b : Bool) (es : List (Nat × Bool)) :
    (s.announceAux m b es).tickGrid = s.tickGrid := by
  induction es generalizing s b with
  | nil => rfl
  | cons e es ih =>
    unfold State.announceAux
    rw [ih]
    split <;> simp

theorem State.auxLoad_tickGrid (s : State) (m t0 : Nat) : (s.auxLoad m t0).tickGrid = s.tickGrid := by
  unfold State.auxLoad
  simp [apply_ite State.tickGrid, R.AUXT_STAT_SAT, R.AUXT_STAT_DROP]

theorem State.auxTicks_tickGrid (s : State) : s.auxTicks.tickGrid = s.tickGrid := by
  unfold State.auxTicks
  rw [State.forEach_tickGrid _ _ State.auxCatch_tickGrid]
  refine State.forEach_tickGrid s _ fun t m => ?_
  unfold State.auxStart
  split
  · exact t.auxLoad_tickGrid m t.clk
  · rfl

/-! ## The ports (R127, R130) -/

@[simp] theorem modeStat_lt_linkStat (p : Nat) : R.SYS_MODE_STAT.addr < (R.LINK_STAT p).addr := Nat.lt_add_right _ (by decide)
@[simp] theorem modeStat_lt_linkLat (p : Nat) : R.SYS_MODE_STAT.addr < (R.LINK_LAT p).addr := Nat.lt_add_right _ (by decide)

@[simp] theorem State.txRun_tickGrid (s : State) (p : Nat) : (s.txRun p).tickGrid = s.tickGrid := by
  rw [State.txRun_eq]
  rfl
@[simp] theorem State.send_tickGrid (s : State) (p : Nat) (b : TxBlk) : (s.send p b).tickGrid = s.tickGrid := by
  rw [State.send_eq]
  rfl
@[simp] theorem State.latShift_tickGrid (s : State) (p : Nat) : (s.latShift p).tickGrid = s.tickGrid := by
  unfold State.latShift
  dsimp only
  split
  · simp [R.LINK_STAT_LATSHIFT]
  · rfl
theorem State.linkTick_tickGrid (s : State) (p : Nat) : (s.linkTick p).tickGrid = s.tickGrid := by
  unfold State.linkTick
  dsimp only
  split <;> simp [R.LINK_LAT_DDOWN]

/-! ## The converters' rotation (R284) -/

@[simp] theorem modeStat_lt_adcRotStat : R.SYS_MODE_STAT.addr < R.ADC_ROT_STAT.addr := by decide
@[simp] theorem modeStat_lt_adcRotSteps : R.SYS_MODE_STAT.addr < R.ADC_ROT_STEPS.addr := by decide
@[simp] theorem modeStat_lt_adcRotCal (c : Nat) : R.SYS_MODE_STAT.addr < (R.ADC_ROT_CAL c).addr := Nat.lt_add_right _ (by decide)

@[simp] theorem State.rotSwap_tickGrid (s : State) : s.rotSwap.tickGrid = s.tickGrid := by
  unfold State.rotSwap
  dsimp only
  split
  · simp [R.ADC_ROT_STAT_SPAREPOS, R.ADC_ROT_STAT_PHASE]
  · split
    · simp [R.ADC_ROT_STAT_SPAREPOS, R.ADC_ROT_STAT_PHASE, R.ADC_ROT_CAL_GAIN, R.ADC_ROT_CAL_OFFS]
    · rfl
@[simp] theorem State.rotStart_tickGrid (s : State) : s.rotStart.tickGrid = s.tickGrid := by
  unfold State.rotStart
  dsimp only
  split <;> split <;> simp [R.ADC_ROT_STAT_PHASE]
@[simp] theorem State.rotTick_tickGrid (s : State) : s.rotTick.tickGrid = s.tickGrid := by
  simp [State.rotTick, State.rotCount]
theorem State.adcTickStart_tickGrid (s : State) : s.adcTickStart.tickGrid = s.tickGrid := by
  unfold State.adcTickStart
  dsimp only
  split <;> simp

/-! ## Locus (R181, R194) and Vertex (R256, R261, R262) -/

theorem State.locTickStart_tickGrid (s : State) : s.locTickStart.tickGrid = s.tickGrid := by
  have above : R.SYS_MODE_STAT.addr < R.LOCUS_TEST_JUMP.addr := by decide
  simp [State.locTickStart, apply_ite State.tickGrid, above]

@[simp] theorem modeStat_lt_ceStat : R.SYS_MODE_STAT.addr < R.CE_STAT.addr := by decide
@[simp] theorem modeStat_lt_ceProg : R.SYS_MODE_STAT.addr < R.CE_PROG.addr := by decide
@[simp] theorem modeStat_lt_ceCstat : R.SYS_MODE_STAT.addr < R.CE_CSTAT.addr := by decide

@[simp] theorem State.vAbandon_tickGrid (s : State) : s.vAbandon.tickGrid = s.tickGrid := by
  unfold State.vAbandon
  split
  · simp [R.CE_STAT_BUSY, R.CE_STAT_DONE, R.CE_STAT_UNFIN]
  · rfl
@[simp] theorem State.setpointSwap_tickGrid (s : State) : s.setpointSwap.tickGrid = s.tickGrid :=
  s.forEach_tickGrid _ fun _ _ => rfl
@[simp] theorem State.coefApply_tickGrid (s : State) : s.coefApply.tickGrid = s.tickGrid := by
  unfold State.coefApply
  split
  · rfl
  · have written := s.foldl_tickGrid s.ce.coefQ fun u q => u.setCoef_tickGrid q.1 q.2
    simpa [R.CE_CSTAT_QCOUNT, R.CE_CSTAT_LAST] using written
@[simp] theorem State.bankSwap_tickGrid (s : State) : s.bankSwap.tickGrid = s.tickGrid := by
  unfold State.bankSwap
  split
  · simp [R.CE_PROG_PEND, R.CE_PROG_BANK]
  · rfl
theorem State.vTickStart_tickGrid (s : State) : s.vTickStart.tickGrid = s.tickGrid := by
  have held : ∀ (u : State) (l : List (Nat × Nat)), (l.foldl (fun s q => s.setCeWord q.1 q.2) u).tickGrid = u.tickGrid :=
    fun u l => u.foldl_tickGrid l fun v q => v.setCeWord_tickGrid q.1 q.2
  simp [State.vTickStart, State.tickWords, held, R.CE_STAT_DONE]

/-! ## The boundary -/

theorem State.blocksTick_tickGrid (s : State) : s.blocksTick.tickGrid = s.tickGrid := by
  unfold State.blocksTick
  dsimp only
  rw [State.auxTicks_tickGrid, State.forEach_tickGrid _ _ State.linkTick_tickGrid, State.adcTickStart_tickGrid,
    State.locTickStart_tickGrid, State.vTickStart_tickGrid]

/-- The end of a tick lies on the grid of its period. -/
theorem tickEndOf_mod (t p : Nat) : tickEndOf t p % p = 0 := Nat.mul_mod_left _ _

/-- The state in which the tick ends at the next boundary of the grid in force. -/
def State.endTick (s : State) : State := s.setTime fun x => { x with tickEnd := tickEndOf x.tickStart s.tickQ }

theorem State.endTick_tickGrid (s : State) : s.endTick.tickGrid = (tickEndOf s.time.tickStart s.tickQ, s.tickQ) := (rfl)

/-- What a boundary does before it sets the end of the tick: it judges the mode, the modifiers and the profile. -/
def State.boundaryJudged (s : State) (t : Nat) : State :=
  let s := (s.islReport.polyTick.setTime fun x => { x with tickStart := t }).dcJudge.judgeMode
  (s.limitBoundary s.majorMode s.majorMode).stepTime.judgeMods.judgeProfile.romOutputs.romTracker.autoTrack

theorem State.tickBoundary_eq (s : State) (t : Nat) : s.tickBoundary t = (s.boundaryJudged t).endTick.blocksTick.pulse 1 := (rfl)

/-- A boundary sets an end on the grid of the period that it leaves in force. -/
theorem State.tickBoundary_tickEnd (s : State) (t : Nat) : (s.tickBoundary t).time.tickEnd % (s.tickBoundary t).tickQ = 0 := by
  have kept : (s.tickBoundary t).tickGrid =
      (tickEndOf (s.boundaryJudged t).time.tickStart (s.boundaryJudged t).tickQ, (s.boundaryJudged t).tickQ) := by
    rw [State.tickBoundary_eq, State.pulse_tickGrid, State.blocksTick_tickGrid, State.endTick_tickGrid]
  obtain ⟨ends, period⟩ := Prod.mk.inj kept
  rw [ends, period]
  exact tickEndOf_mod _ _

theorem exec_tickStart {s : State} (alive : s.alive = true) (run : s.time.run = true) :
    exec .tickStart s = .next ((s.advTo s.time.tickEnd).tickBoundary s.time.tickEnd) := by
  have ticking : s.ticking = true := by simp [State.ticking, alive, run]
  change execTickStart s = _
  rw [execTickStart, if_pos ticking]

theorem State.tickQ_fine {s : State} (h : s.fine = true) : s.tickQ = 20000 := if_pos h
theorem State.tickQ_wide {s : State} (h : s.fine = false) : s.tickQ = 40000 := if_neg (Bool.eq_false_iff.mp h)

/-- Settles O24: the period of each profile divides a second, and the blocks of a tick start keep the end that the boundary sets. -/
theorem tickNumbers : Obligations.TickNumbers := by
  unfold Obligations.TickNumbers
  intro s
  have boundary : s.alive = true → s.time.run = true → ∃ t, exec .tickStart s = .next t ∧ t.time.tickEnd % t.tickQ = 0 :=
    fun alive run => ⟨_, exec_tickStart alive run, State.tickBoundary_tickEnd _ _⟩
  cases fine : s.fine with
  | true =>
    rw [State.tickQ_fine fine]
    refine ⟨rfl, rfl, fun S N _ start => ?_, rfl, rfl, boundary⟩
    simp only [State.tickNo, State.tickQ_fine fine, start, if_true]
    omega
  | false =>
    rw [State.tickQ_wide fine]
    refine ⟨rfl, rfl, fun S N _ start => ?_, rfl, rfl, boundary⟩
    simp only [State.tickNo, State.tickQ_wide fine, start, Bool.false_eq_true, if_false]
    omega

end Sys2Proof.Machine
